-- ==== Sys2Proof/Word.lean ====
section
/-! DEFINITION. The word types of the YR-7216, the groups of operands that instructions share, and the type of sparse stores (the operations on sparse stores stand in
Machine/Mem.lean, and everything a test could show wrong stands under Machine/). -/

namespace Sys2Proof

/-- A byte of scratchpad, stitch, tile register or host memory (R4). -/
abbrev Byte := BitVec 8

/-- A slot word, a row header or a vector element (R92, R108). -/
abbrev W32 := BitVec 32

/-- A scalar register, a mask register, an accumulator element or a control register (R108). -/
abbrev Word := BitVec 64

/-- Number of a scalar or vector register (R105). -/
abbrev Reg := BitVec 5

/-- Number of a predicate, mask, accumulator or tile register (R108). -/
abbrev Reg3 := BitVec 3

/-- A die of the module, 0 to 15 (R2). -/
abbrev DieNo := BitVec 4

/-- A physical core of a die: 0 to 25 compute, 26 the anchor (R82). -/
abbrev CoreNo := BitVec 5

/-- A segment of a die, 0 to 23 (R193). -/
abbrev SegNo := BitVec 5

/-- A pass slot, 0 to 31 (R221). -/
abbrev SlotNo := BitVec 5

/-- The slot of a row that a word stands in (R91). -/
inductive Slot where
  | s | v | t | w | l
  deriving DecidableEq, Repr

/-- A store of values under natural-number keys: keys strictly rising, and no entry that equals what an unlisted key
reads as. -/
abbrev SMap (α : Type) := List (Nat × α)

/-- Guard of an S-slot R-form instruction: predicate number and negate bit (R106). -/
structure Guard where
  p : Reg3
  neg : BitVec 1
  deriving DecidableEq, Repr

/-- Fold and write mask of a V-slot instruction (R106). -/
structure VCtl where
  fold : BitVec 2
  m : Reg3
  deriving DecidableEq, Repr

/-- The fields of a long W-slot word and its extension (R107, R115). -/
structure PassOp where
  d : Reg
  a : Reg
  b : Reg
  tag : BitVec 6
  tid : Byte
  c : Reg
  e : Reg
  flags : BitVec 14
  deriving DecidableEq, Repr

/-- The scope of a barrier (R288). -/
inductive Scope where
  /-- Barrier of the launch's cores on one die. -/
  | die
  /-- Barrier of all cores of the launch. -/
  | launch
  /-- Barrier across modules. -/
  | sys
  deriving DecidableEq, Repr

/-- The host's answer to a CXL.cache request (R89, R242): the 64 bytes of a line, an acceptance of a write, or a refusal. -/
inductive HostAnswer where
  /-- A line read. -/
  | line (bytes : List Byte)
  /-- A write taken. -/
  | taken
  /-- A request refused. -/
  | refused
  deriving DecidableEq, Repr

/-- An answer with the number of the request that it answers. -/
structure HostReply where
  req : Nat
  answer : HostAnswer
  deriving DecidableEq, Repr

/-- Why a core is moved (R84). -/
inductive MoveCause where
  /-- The core has failed. -/
  | failover
  /-- The head launch finds no single run of cores. -/
  | compaction
  /-- Firmware retires the core for heat. -/
  | heat
  deriving DecidableEq, Repr

/-- The core that a core is moved to, and why. -/
structure MoveTo where
  core : CoreNo
  cause : MoveCause
  deriving DecidableEq, Repr

/-- An operating point of a logic island (R320). -/
inductive Level where
  /-- All 16 of 16 ticks. -/
  | full
  /-- 12 of 16 ticks. -/
  | twelve
  /-- 8 of 16 ticks. -/
  | eight
  deriving DecidableEq, Repr

/-- The fields of an Igdin flit, from bit 255 down (R284). -/
structure Flit where
  type : BitVec 4
  seq : Byte
  circuit : BitVec 12
  payload : BitVec 208
  crc : BitVec 24
  deriving DecidableEq, Repr

/-- What a port learns of the far end at training (R283, R285). -/
structure FarEnd where
  identity : BitVec 64
  die : DieNo
  port : BitVec 4
  versionLow : BitVec 16
  versionHigh : BitVec 16
  deriving DecidableEq, Repr

/-- How a message of the timing port travels: UDP over IPv4 or IPv6, or Ethernet (R326). -/
inductive Transport where
  | ipv4 | ipv6 | ethernet
  deriving DecidableEq, Repr

/-- The fields of a PTP message that the timing port uses (R326): the port it comes from, its sequence number, its timestamp in ns, its
correction in units of 2^−16 ns, whether a follow-up comes, the port that it answers, the logarithm of an interval in seconds, and the data
set of an Announce. -/
structure PtpMsg where
  source : BitVec 80
  domain : Nat
  transport : Transport
  seq : BitVec 16
  timestamp : Nat
  correction : Int
  twoStep : Bool
  requester : BitVec 80
  interval : Int
  dataset : List Byte
  deriving DecidableEq, Repr

end Sys2Proof
end

