-- ==== Sys2Proof/Config.lean ====
section
/-! DEFINITION. What one module fixes and what the manual leaves open: figures of the hardware, and the FREE VALUES, which
are opaque: nothing can evaluate them or prove a value of them. -/

namespace Sys2Proof

/-- What a free choice of a time is for (log 7). -/
inductive Wait where
  /-- Boot after a reset, to READY (R390). -/
  | boot
  /-- The start tick that the lead anchor chooses (R86, R87). -/
  | start
  /-- The way of an operation to a core of the same die, or of another (R274). -/
  | linkDie | linkModule
  /-- The way of the halt line to a core of the same die, or of another (R348). -/
  | haltDie | haltModule
  /-- The completion of a barrier phase of die scope, or of launch scope (R290). -/
  | barrierDie | barrierLaunch
  /-- Firmware's answer to a delivered trap (R346). -/
  | answer
  /-- A mailbox command (R65), and the effect of a CANCEL (R77). -/
  | mailbox | cancel
  /-- The host's answer over CXL.cache (R89). -/
  | host
  /-- Detection of the end of a launch (R372). -/
  | endOfLaunch
  /-- The zeroing of a released core (R373). -/
  | zeroing
  /-- A descriptor write on its way to the descriptor cache (R146). -/
  | descriptor
  /-- An operation of supervisor code (R361, R368, R395). -/
  | supervisor
  /-- What a die makes of the stamp of another (R322). -/
  | stamp
  /-- A round that the clock of a die lets go by (R318). -/
  | clock
  /-- A timestamp of the timing port (R326). -/
  | timestamp
  /-- What a die makes of the wall time that comes with a tick stamp (R328). -/
  | wall
  deriving DecidableEq, Repr

namespace Config

/-! ### Figures of the hardware (R2, R108, R193, R270, R60) -/

/-- Dies of a module (R2). -/
def dies : Nat := 16
/-- Physical compute cores of a die (R2). -/
def computeCores : Nat := 26
/-- The anchor's physical number (R82). -/
def anchorNo : Nat := 26
/-- Segments of a die (R193). -/
def segments : Nat := 24
/-- Banks of a segment (R193). -/
def banks : Nat := 32
/-- Stitches of a bank (R193). -/
def bankStitches : Nat := 262144
/-- Bytes of a core's scratchpad (R2). -/
def scratchBytes : Nat := 8388608
/-- Entries of a port's send queue (R270). -/
def sendEntries : Nat := 8
/-- Entries of a port's receive queue (R270). -/
def recvEntries : Nat := 16
/-- Entries in flight on a circuit (R274). -/
def circuitEntries : Nat := 8
/-- Entries of a segment's ordered-atomic buffer (R238). -/
def orderedEntries : Nat := 65536
/-- Lines the device may hold through CXL.cache (R60). -/
def cacheLines : Nat := 256

/-! ### Free values (log 7, 9, 11, 12): opaque, so that no proof rests on one -/

/-- The n-th free choice of a time, in ticks, for a thing whose time within a bound the manual leaves open; every use reduces it into the
bound its rule gives. -/
opaque freeTicks : Wait → Nat → Nat
/-- The value of a byte that the manual calls unspecified, at the n-th occasion, for one address (R228, R244). -/
opaque freeByte : Nat → Nat → Byte
/-- A 64-bit result that the manual calls undefined, at the n-th occasion (R67). -/
opaque freeWord : Nat → Word

/-! ### Figures that firmware or manufacture fixes and the manual does not give (log 14, 15) -/

/-- Maximum balance of a die's heat account, set by firmware (R262). -/
opaque heatCap : DieNo → BitVec 32
/-- Firmware base refill rate of a die's heat account, in units of 1/1,024 token a tick (R262). -/
opaque heatBase : DieNo → Nat
/-- Reservable rate of a die's island (R21, R262). -/
opaque heatReservable : DieNo → Nat
/-- The 64-bit identity of the module (R283). -/
opaque moduleIdentity : BitVec 64
/-- The host part of the link-local IPv4 address that the timing port has chosen (R327). -/
opaque linkLocalHost : BitVec 16
/-- The firmware image in flash as the module is delivered (R387, R389). -/
opaque factoryFirmware : List Byte
/-- The minimum security version fused at manufacture (R387). -/
opaque fusedMinVersion : Nat

/-! ### Algorithms that standards outside the manual define (log 16): uninterpreted -/

/-- SHA-512 (R15, R353, R387). -/
opaque sha512 : List Byte → BitVec 512
/-- Whether an RSA-4096 signature over a SHA-512 digest is good under the fused Boluno key (R15, R387). -/
opaque rsaGood : List Byte → BitVec 512 → Bool
/-- AES-256-XTS encryption of a data unit under a key pair and a tweak (R353, R384). -/
opaque xtsEncrypt : BitVec 512 → Nat → List Byte → List Byte
/-- AES-256-XTS decryption (R353, R384). -/
opaque xtsDecrypt : BitVec 512 → Nat → List Byte → List Byte
/-- The bytes of a certificate chain slot (R388). -/
opaque certificateChain : BitVec 8 → List Byte
/-- The boot ROM identity that measurement block 1 covers (R388). -/
opaque bootRomIdentity : List Byte
/-- The security version that a firmware image carries (R387). -/
opaque firmwareVersion : List Byte → Nat

/-- The response of the SPDM standard to a request: its place in the list of R62, the request, and the content that the manual gives
(log 17). -/
opaque spdmResponse : Nat → List Byte → List Byte → List Byte
/-- A FINISH proves that the requester holds the session's secret (R62). -/
opaque finishGood : List Byte → Bool
/-- What a CXL IDE_KM message does: the keys after it, whether IDE is then enabled, and whether the link is in the insecure state
(R61). -/
opaque ideMessage : List Byte → List Byte → List Byte × Bool × Bool
/-- The bytes of the fuse state that measurement block 4 covers, by the cores that are fused off (R388). -/
opaque fuseState : List Nat → List Byte
/-- The default data-set comparison of IEEE 1588: the first data set is better (R326). -/
opaque betterDataset : List Byte → List Byte → Bool
/-- The servo's filter: the filtered offset from the last one and a new measurement (R329). -/
opaque servoFilter : Int → Int → Int
/-- The rate that the servo chooses from its last rate and the filtered offset, before its bound (R329). -/
opaque servoRate : Int → Int → Int

/-! ### Layouts that the manual names and does not give (log 25): uninterpreted -/

/-- The order in which the 8 extra bytes of an operation carry its fields: they stand in the order of this key (R284). -/
opaque headerKey : Nat → Nat
/-- A byte that fills up the last payload of an operation, and the circuit number and payload of an acknowledgement (R284). -/
opaque padByte : Nat → BitVec 8
opaque controlCircuit : BitVec 12
opaque controlPayload : BitVec 208

/-- The circuit number that the modules of a launch assign at its start: context and launch id, which the peer launches share, sending core and port,
target core and receive port (R272, R284). -/
opaque circuitNumber : BitVec 8 → BitVec 16 → Nat → Nat → Nat → Nat → BitVec 12

end Config

end Sys2Proof
end

