-- ==== Sys2Proof/Syntax.lean ====
section
/-! DEFINITION. The instructions of the five slots and the steps of the device: one constructor for each row of the opcode
table, with the operands its encoding or its message carries. -/

namespace Sys2Proof

/-- One constructor for each row of the opcode table: the instructions of the five slots, and the steps the device
takes by itself or at the host's hand. -/
inductive Instr where
  -- The S slot (R112)
  /-- Adds two scalar registers modulo 2^64. (R134) -/
  | add (g : Guard) (d : Reg) (a : Reg) (b : Reg)
  /-- Subtracts one scalar register from another modulo 2^64. (R134) -/
  | sub (g : Guard) (d : Reg) (a : Reg) (b : Reg)
  /-- Adds a sign-extended 16-bit immediate to a scalar register. (R135) -/
  | addi (d : Reg) (a : Reg) (imm : BitVec 16)
  /-- Loads a sign-extended 16-bit immediate into a scalar register. (R135) -/
  | ldi (d : Reg) (imm : BitVec 16)
  /-- Loads a sign-extended 16-bit immediate shifted left by 16. (R135) -/
  | lui (d : Reg) (imm : BitVec 16)
  /-- Loads a sign-extended 32-bit constant from the extension word. (R135) -/
  | ldk (d : Reg) (k : W32)
  /-- Writes the low 64 bits of the product of two scalars. (R134) -/
  | mul (g : Guard) (d : Reg) (a : Reg) (b : Reg)
  /-- Writes the upper 64 bits of the signed 128-bit product. (R134) -/
  | mulh (g : Guard) (d : Reg) (a : Reg) (b : Reg)
  /-- Writes the upper 64 bits of the unsigned 128-bit product. (R134) -/
  | mulhu (g : Guard) (d : Reg) (a : Reg) (b : Reg)
  /-- Signed division truncated toward zero. (R134) -/
  | div (g : Guard) (d : Reg) (a : Reg) (b : Reg)
  /-- Unsigned division. (R134) -/
  | divu (g : Guard) (d : Reg) (a : Reg) (b : Reg)
  /-- Signed remainder with the sign of the dividend. (R134) -/
  | rem (g : Guard) (d : Reg) (a : Reg) (b : Reg)
  /-- Unsigned remainder. (R134) -/
  | remu (g : Guard) (d : Reg) (a : Reg) (b : Reg)
  /-- Bitwise AND of two scalars. (R134) -/
  | and (g : Guard) (d : Reg) (a : Reg) (b : Reg)
  /-- Bitwise OR of two scalars. (R134) -/
  | or (g : Guard) (d : Reg) (a : Reg) (b : Reg)
  /-- Bitwise XOR of two scalars. (R134) -/
  | xor (g : Guard) (d : Reg) (a : Reg) (b : Reg)
  /-- AND of a scalar with the complement of another. (R134) -/
  | andn (g : Guard) (d : Reg) (a : Reg) (b : Reg)
  /-- OR of a scalar with the complement of another. (R134) -/
  | orn (g : Guard) (d : Reg) (a : Reg) (b : Reg)
  /-- Complement of the XOR of two scalars. (R134) -/
  | xnor (g : Guard) (d : Reg) (a : Reg) (b : Reg)
  /-- AND with a zero-extended immediate. (R135) -/
  | andi (d : Reg) (a : Reg) (imm : BitVec 16)
  /-- OR with a zero-extended immediate. (R135) -/
  | ori (d : Reg) (a : Reg) (imm : BitVec 16)
  /-- XOR with a zero-extended immediate. (R135) -/
  | xori (d : Reg) (a : Reg) (imm : BitVec 16)
  /-- Shifts left by a register count modulo 64. (R134) -/
  | shl (g : Guard) (d : Reg) (a : Reg) (b : Reg)
  /-- Shifts right logically by a register count. (R134) -/
  | shr (g : Guard) (d : Reg) (a : Reg) (b : Reg)
  /-- Shifts right arithmetically by a register count. (R134) -/
  | sra (g : Guard) (d : Reg) (a : Reg) (b : Reg)
  /-- Rotates right by a register count. (R134) -/
  | ror (g : Guard) (d : Reg) (a : Reg) (b : Reg)
  /-- Shifts left by an immediate count 0-63. (R135) -/
  | shli (g : Guard) (d : Reg) (a : Reg) (b : Reg) (c : BitVec 1)
  /-- Shifts right logically by an immediate count. (R135) -/
  | shri (g : Guard) (d : Reg) (a : Reg) (b : Reg) (c : BitVec 1)
  /-- Shifts right arithmetically by an immediate count. (R135) -/
  | srai (g : Guard) (d : Reg) (a : Reg) (b : Reg) (c : BitVec 1)
  /-- Rotates right by an immediate count. (R135) -/
  | rori (g : Guard) (d : Reg) (a : Reg) (b : Reg) (c : BitVec 1)
  /-- Signed minimum of two scalars. (R134) -/
  | min (g : Guard) (d : Reg) (a : Reg) (b : Reg)
  /-- Signed maximum of two scalars. (R134) -/
  | max (g : Guard) (d : Reg) (a : Reg) (b : Reg)
  /-- Unsigned minimum of two scalars. (R134) -/
  | minu (g : Guard) (d : Reg) (a : Reg) (b : Reg)
  /-- Unsigned maximum of two scalars. (R134) -/
  | maxu (g : Guard) (d : Reg) (a : Reg) (b : Reg)
  /-- Counts leading zeros. (R134) -/
  | clz (g : Guard) (d : Reg) (a : Reg)
  /-- Counts trailing zeros. (R134) -/
  | ctz (g : Guard) (d : Reg) (a : Reg)
  /-- Counts set bits. (R134) -/
  | popc (g : Guard) (d : Reg) (a : Reg)
  /-- Reverses the bit order. (R134) -/
  | brev (g : Guard) (d : Reg) (a : Reg)
  /-- Sign-extends the low 8 bits. (R134) -/
  | sext8 (g : Guard) (d : Reg) (a : Reg)
  /-- Sign-extends the low 16 bits. (R134) -/
  | sext16 (g : Guard) (d : Reg) (a : Reg)
  /-- Sign-extends the low 32 bits. (R134) -/
  | sext32 (g : Guard) (d : Reg) (a : Reg)
  /-- Zero-extends the low 8 bits. (R134) -/
  | zext8 (g : Guard) (d : Reg) (a : Reg)
  /-- Zero-extends the low 16 bits. (R134) -/
  | zext16 (g : Guard) (d : Reg) (a : Reg)
  /-- Zero-extends the low 32 bits. (R134) -/
  | zext32 (g : Guard) (d : Reg) (a : Reg)
  /-- Sets a predicate when two scalars are equal. (R136) -/
  | cmpeq (g : Guard) (d : Reg3) (a : Reg) (b : Reg)
  /-- Sets a predicate when two scalars differ. (R136) -/
  | cmpne (g : Guard) (d : Reg3) (a : Reg) (b : Reg)
  /-- Sets a predicate on signed less-than. (R136) -/
  | cmplt (g : Guard) (d : Reg3) (a : Reg) (b : Reg)
  /-- Sets a predicate on unsigned less-than. (R136) -/
  | cmpltu (g : Guard) (d : Reg3) (a : Reg) (b : Reg)
  /-- Sets a predicate on signed less-or-equal. (R136) -/
  | cmple (g : Guard) (d : Reg3) (a : Reg) (b : Reg)
  /-- Sets a predicate on unsigned less-or-equal. (R136) -/
  | cmpleu (g : Guard) (d : Reg3) (a : Reg) (b : Reg)
  /-- Sets a predicate when a scalar equals an immediate. (R136) -/
  | cmpieq (d : Reg3) (a : Reg) (imm : BitVec 16)
  /-- Sets a predicate on signed less-than an immediate. (R136) -/
  | cmpilt (d : Reg3) (a : Reg) (imm : BitVec 16)
  /-- Sets a predicate on unsigned less-than an immediate. (R136) -/
  | cmpiltu (d : Reg3) (a : Reg) (imm : BitVec 16)
  /-- Selects one of two scalars by a predicate. (R136) -/
  | sel (g : Guard) (d : Reg) (a : Reg) (b : Reg) (k : Reg3)
  /-- AND of two predicates. (R137) -/
  | pand (g : Guard) (d : Reg3) (a : Reg3) (b : Reg3)
  /-- OR of two predicates. (R137) -/
  | por (g : Guard) (d : Reg3) (a : Reg3) (b : Reg3)
  /-- XOR of two predicates. (R137) -/
  | pxor (g : Guard) (d : Reg3) (a : Reg3) (b : Reg3)
  /-- AND of a predicate with the complement of another. (R137) -/
  | pandn (g : Guard) (d : Reg3) (a : Reg3) (b : Reg3)
  /-- Complement of a predicate. (R137) -/
  | pnot (g : Guard) (d : Reg3) (a : Reg3)
  /-- Copies the predicate file into a scalar. (R137) -/
  | pget (g : Guard) (d : Reg)
  /-- Sets predicates p1-p7 from a scalar. (R137) -/
  | pset (g : Guard) (a : Reg)
  /-- Loads a sign-extended byte from scratchpad. (R138) -/
  | ldb (d : Reg) (a : Reg) (imm : BitVec 16)
  /-- Loads a zero-extended byte from scratchpad. (R138) -/
  | ldbu (d : Reg) (a : Reg) (imm : BitVec 16)
  /-- Loads a sign-extended halfword. (R138) -/
  | ldh (d : Reg) (a : Reg) (imm : BitVec 16)
  /-- Loads a zero-extended halfword. (R138) -/
  | ldhu (d : Reg) (a : Reg) (imm : BitVec 16)
  /-- Loads a sign-extended word. (R138) -/
  | ldw (d : Reg) (a : Reg) (imm : BitVec 16)
  /-- Loads a zero-extended word. (R138) -/
  | ldwu (d : Reg) (a : Reg) (imm : BitVec 16)
  /-- Loads a doubleword. (R138) -/
  | ldd (d : Reg) (a : Reg) (imm : BitVec 16)
  /-- Stores a byte to scratchpad. (R138) -/
  | stb (d : Reg) (a : Reg) (imm : BitVec 16)
  /-- Stores a halfword to scratchpad. (R138) -/
  | sth (d : Reg) (a : Reg) (imm : BitVec 16)
  /-- Stores a word to scratchpad. (R138) -/
  | stw (d : Reg) (a : Reg) (imm : BitVec 16)
  /-- Stores a doubleword to scratchpad. (R138) -/
  | std (d : Reg) (a : Reg) (imm : BitVec 16)
  /-- Loads from a base plus a scaled register index. (R139) -/
  | ldx (g : Guard) (d : Reg) (a : Reg) (b : Reg) (s : BitVec 2) (w : Reg3)
  /-- Stores to a base plus a scaled register index. (R139) -/
  | stx (g : Guard) (d : Reg) (a : Reg) (b : Reg) (s : BitVec 2) (w : BitVec 2)
  /-- Atomically adds to a scratchpad doubleword, returning the old value. (R140) -/
  | aadd (g : Guard) (d : Reg) (a : Reg) (b : Reg)
  /-- Atomically adds to a scratchpad word. (R140) -/
  | aaddw (g : Guard) (d : Reg) (a : Reg) (b : Reg)
  /-- Atomic signed minimum on a doubleword. (R140) -/
  | amin (g : Guard) (d : Reg) (a : Reg) (b : Reg)
  /-- Atomic signed maximum on a doubleword. (R140) -/
  | amax (g : Guard) (d : Reg) (a : Reg) (b : Reg)
  /-- Atomic swap of a doubleword. (R140) -/
  | aswap (g : Guard) (d : Reg) (a : Reg) (b : Reg)
  /-- Atomic AND on a doubleword. (R140) -/
  | aand (g : Guard) (d : Reg) (a : Reg) (b : Reg)
  /-- Atomic OR on a doubleword. (R140) -/
  | aor (g : Guard) (d : Reg) (a : Reg) (b : Reg)
  /-- Atomic FP32 add on a word, RNE, no flags. (R140) -/
  | afadd (g : Guard) (d : Reg) (a : Reg) (b : Reg)
  /-- Atomic compare-and-swap on a doubleword. (R140) -/
  | acas (g : Guard) (d : Reg) (a : Reg) (b : Reg)
  /-- Branches by a signed row offset when a predicate, optionally negated, holds. (R142) -/
  | br (p : Reg3) (neg : BitVec 1) (off : BitVec 22)
  /-- Jumps by a signed row offset. (R142) -/
  | jmp (off : BitVec 22)
  /-- Jumps by a signed row offset and writes the return row to s31. (R142) -/
  | call (off : BitVec 22)
  /-- Jumps to the row held in a scalar, raising BADJUMP for an illegal target. (R143) -/
  | jmpr (g : Guard) (a : Reg)
  /-- Decrements a scalar and branches while it is nonzero. (R144) -/
  | loop (d : Reg) (imm : BitVec 16)
  /-- Ends the core's part of the launch and waits for its outstanding work. (R145) -/
  | exit
  /-- Holds its row until earlier TDW writes reach the descriptor cache. (R146) -/
  | tdfence (g : Guard)
  /-- Holds its row until earlier MAPW writes apply to every visit. (R146) -/
  | mapfence (g : Guard)
  /-- Holds its row until earlier LPUT and LAMO are applied at their targets. (R146) -/
  | spfence (g : Guard)
  /-- Advances the core's race-detector interval number. (R146) -/
  | syncmark (g : Guard)
  /-- Writes a field of a tensor descriptor and re-evaluates VALID. (R147) -/
  | tdw (g : Guard) (a : Reg) (b : Reg) (f : BitVec 6)
  /-- Reads a field of a tensor descriptor. (R147) -/
  | tdr (g : Guard) (d : Reg) (a : Reg) (f : BitVec 6)
  /-- Reads a control register into a scalar. (R148) -/
  | crd (d : Reg) (cr : BitVec 11)
  /-- Writes a scalar into a control register that has no behaviour of its own. (R148) -/
  | cwr (a : Reg) (cr : BitVec 11)
  /-- Returns the next word of the core's scalar random stream. (R149) -/
  | rngs (g : Guard) (d : Reg)
  /-- Raises SWTRAP with a service number and waits for the answer. (R362) -/
  | trap (d : Reg) (a : Reg) (imm : BitVec 16)
  /-- Ends a handler, answering a delivered trap and resuming cores. (R365) -/
  | eret (g : Guard) (a : Reg) (b : Reg)
  /-- Writes a range or page entry of the map store after checks. (R366) -/
  | mapw (g : Guard) (d : Reg) (a : Reg) (b : Reg)
  /-- Halts, suspends or resumes a context's launches. (R367) -/
  | haltctx (g : Guard) (d : Reg) (a : Reg) (b : Reg)
  /-- Saves a stopped core's state into a checkpoint image. (R368) -/
  | ctxsv (g : Guard) (d : Reg) (a : Reg) (b : Reg)
  /-- Restores a checkpoint image into a placed core. (R368) -/
  | ctxrs (g : Guard) (d : Reg) (a : Reg) (b : Reg)
  /-- Zeroises a key slot of the die. (R396) -/
  | keyz (g : Guard) (d : Reg) (a : Reg)
  /-- Starts the scrub engine on a range of a core's scratchpad. (R397) -/
  | scrub (g : Guard) (d : Reg) (a : Reg) (b : Reg)
  /-- Sets the owner of a core or segment record after checks. (R398) -/
  | assign (g : Guard) (d : Reg) (a : Reg) (b : Reg)
  -- The V slot (R113)
  /-- Elementwise int32 add. (R158) -/
  | vadd (d : Reg) (a : Reg) (b : Reg) (c : VCtl)
  /-- Elementwise signed saturating add. (R158) -/
  | vadds (d : Reg) (a : Reg) (b : Reg) (c : VCtl)
  /-- Elementwise unsigned saturating add. (R158) -/
  | vaddsu (d : Reg) (a : Reg) (b : Reg) (c : VCtl)
  /-- Elementwise int32 subtract. (R158) -/
  | vsub (d : Reg) (a : Reg) (b : Reg) (c : VCtl)
  /-- Elementwise signed saturating subtract. (R158) -/
  | vsubs (d : Reg) (a : Reg) (b : Reg) (c : VCtl)
  /-- Elementwise unsigned saturating subtract. (R158) -/
  | vsubsu (d : Reg) (a : Reg) (b : Reg) (c : VCtl)
  /-- Elementwise low 32 bits of the product. (R158) -/
  | vmul (d : Reg) (a : Reg) (b : Reg) (c : VCtl)
  /-- Elementwise high 32 bits of the signed product. (R158) -/
  | vmulh (d : Reg) (a : Reg) (b : Reg) (c : VCtl)
  /-- Elementwise high 32 bits of the unsigned product. (R158) -/
  | vmulhu (d : Reg) (a : Reg) (b : Reg) (c : VCtl)
  /-- Elementwise AND. (R158) -/
  | vand (d : Reg) (a : Reg) (b : Reg) (c : VCtl)
  /-- Elementwise OR. (R158) -/
  | vor (d : Reg) (a : Reg) (b : Reg) (c : VCtl)
  /-- Elementwise XOR. (R158) -/
  | vxor (d : Reg) (a : Reg) (b : Reg) (c : VCtl)
  /-- Elementwise AND with complement. (R158) -/
  | vandn (d : Reg) (a : Reg) (b : Reg) (c : VCtl)
  /-- Elementwise shift left by register elements. (R158) -/
  | vshl (d : Reg) (a : Reg) (b : Reg) (c : VCtl)
  /-- Elementwise logical shift right. (R158) -/
  | vshr (d : Reg) (a : Reg) (b : Reg) (c : VCtl)
  /-- Elementwise arithmetic shift right. (R158) -/
  | vsra (d : Reg) (a : Reg) (b : Reg) (c : VCtl)
  /-- Elementwise shift left by an immediate. (R158) -/
  | vshli (d : Reg) (a : Reg) (b : Reg) (c : VCtl)
  /-- Elementwise logical shift right by an immediate. (R158) -/
  | vshri (d : Reg) (a : Reg) (b : Reg) (c : VCtl)
  /-- Elementwise arithmetic shift right by an immediate. (R158) -/
  | vsrai (d : Reg) (a : Reg) (b : Reg) (c : VCtl)
  /-- Elementwise signed minimum. (R158) -/
  | vmin (d : Reg) (a : Reg) (b : Reg) (c : VCtl)
  /-- Elementwise signed maximum. (R158) -/
  | vmax (d : Reg) (a : Reg) (b : Reg) (c : VCtl)
  /-- Elementwise unsigned minimum. (R158) -/
  | vminu (d : Reg) (a : Reg) (b : Reg) (c : VCtl)
  /-- Elementwise unsigned maximum. (R158) -/
  | vmaxu (d : Reg) (a : Reg) (b : Reg) (c : VCtl)
  /-- Sets mask bits where elements are equal. (R158) -/
  | vcmpeq (d : Reg3) (a : Reg) (b : Reg) (c : VCtl)
  /-- Sets mask bits where elements differ. (R158) -/
  | vcmpne (d : Reg3) (a : Reg) (b : Reg) (c : VCtl)
  /-- Sets mask bits on signed less-than. (R158) -/
  | vcmplt (d : Reg3) (a : Reg) (b : Reg) (c : VCtl)
  /-- Sets mask bits on unsigned less-than. (R158) -/
  | vcmpltu (d : Reg3) (a : Reg) (b : Reg) (c : VCtl)
  /-- Sets mask bits on signed less-or-equal. (R158) -/
  | vcmple (d : Reg3) (a : Reg) (b : Reg) (c : VCtl)
  /-- Sets mask bits on unsigned less-or-equal. (R158) -/
  | vcmpleu (d : Reg3) (a : Reg) (b : Reg) (c : VCtl)
  /-- Elementwise FP32 add. (R159) -/
  | vfadd (d : Reg) (a : Reg) (b : Reg) (c : VCtl)
  /-- Elementwise FP32 subtract. (R159) -/
  | vfsub (d : Reg) (a : Reg) (b : Reg) (c : VCtl)
  /-- Elementwise FP32 multiply. (R159) -/
  | vfmul (d : Reg) (a : Reg) (b : Reg) (c : VCtl)
  /-- Elementwise fused multiply-add into the destination. (R159) -/
  | vfma (d : Reg) (a : Reg) (b : Reg) (c : VCtl)
  /-- Elementwise fused negated multiply-add. (R159) -/
  | vfnma (d : Reg) (a : Reg) (b : Reg) (c : VCtl)
  /-- Elementwise FP32 minimum. (R160) -/
  | vfmin (d : Reg) (a : Reg) (b : Reg) (c : VCtl)
  /-- Elementwise FP32 maximum. (R160) -/
  | vfmax (d : Reg) (a : Reg) (b : Reg) (c : VCtl)
  /-- Sets mask bits on FP32 equality. (R160) -/
  | vfcmpeq (d : Reg3) (a : Reg) (b : Reg) (c : VCtl)
  /-- Sets mask bits on FP32 less-than. (R160) -/
  | vfcmplt (d : Reg3) (a : Reg) (b : Reg) (c : VCtl)
  /-- Sets mask bits on FP32 less-or-equal. (R160) -/
  | vfcmple (d : Reg3) (a : Reg) (b : Reg) (c : VCtl)
  /-- Sets mask bits where either operand is NaN. (R160) -/
  | vfcmpun (d : Reg3) (a : Reg) (b : Reg) (c : VCtl)
  /-- Clears the sign of each element. (R161) -/
  | vfabs (d : Reg) (a : Reg) (c : VCtl)
  /-- Inverts the sign of each element. (R161) -/
  | vfneg (d : Reg) (a : Reg) (c : VCtl)
  /-- Correctly rounded square root of each element. (R161) -/
  | vfsqrt (d : Reg) (a : Reg) (c : VCtl)
  /-- Correctly rounded reciprocal of each element. (R161) -/
  | vrcp (d : Reg) (a : Reg) (c : VCtl)
  /-- Correctly rounded reciprocal square root. (R161) -/
  | vrsq (d : Reg) (a : Reg) (c : VCtl)
  /-- Correctly rounded base-2 exponential. (R161) -/
  | vexp2 (d : Reg) (a : Reg) (c : VCtl)
  /-- Correctly rounded base-2 logarithm. (R161) -/
  | vlog2 (d : Reg) (a : Reg) (c : VCtl)
  /-- Rounds each element toward minus infinity. (R161) -/
  | vfloor (d : Reg) (a : Reg) (c : VCtl)
  /-- Rounds each element toward plus infinity. (R161) -/
  | vfceil (d : Reg) (a : Reg) (c : VCtl)
  /-- Rounds each element to integral in the RM mode. (R161) -/
  | vfrint (d : Reg) (a : Reg) (c : VCtl)
  /-- Converts FP32 to int32 in the RM mode. (R162) -/
  | vcvtfi (d : Reg) (a : Reg) (c : VCtl)
  /-- Converts FP32 to int32 toward zero. (R162) -/
  | vcvtfit (d : Reg) (a : Reg) (c : VCtl)
  /-- Converts int32 to FP32. (R162) -/
  | vcvtif (d : Reg) (a : Reg) (c : VCtl)
  /-- Packs two FP32 vectors into BF16 pairs. (R162) -/
  | vcvtfb (d : Reg) (a : Reg) (b : Reg) (c : VCtl)
  /-- Widens the low BF16 half to FP32. (R162) -/
  | vcvtbfl (d : Reg) (a : Reg) (c : VCtl)
  /-- Widens the high BF16 half to FP32. (R162) -/
  | vcvtbfh (d : Reg) (a : Reg) (c : VCtl)
  /-- BF16 pair dot product into FP32 with one rounding. (R163) -/
  | vdot2 (d : Reg) (a : Reg) (b : Reg) (c : VCtl)
  /-- INT8 four-way dot product accumulated modulo 2^32. (R163) -/
  | vdot4 (d : Reg) (a : Reg) (b : Reg) (c : VCtl)
  /-- UINT8 by INT8 four-way dot product. (R163) -/
  | vdot4us (d : Reg) (a : Reg) (b : Reg) (c : VCtl)
  /-- FP64 multiply-accumulate into an accumulator register. (R164) -/
  | vqma (d : Reg3) (a : Reg) (b : Reg) (c : VCtl)
  /-- INT64 multiply-accumulate into an accumulator register. (R164) -/
  | vqmai (d : Reg3) (a : Reg) (b : Reg) (c : VCtl)
  /-- Narrows FP64 accumulators to FP32. (R164) -/
  | vqnarf (d : Reg) (a : Reg3) (c : VCtl)
  /-- Narrows INT64 accumulators to int32 with saturation. (R164) -/
  | vqnars (d : Reg) (a : Reg3) (c : VCtl)
  /-- Narrows INT64 accumulators by taking the low 32 bits. (R164) -/
  | vqnarw (d : Reg) (a : Reg3) (c : VCtl)
  /-- Clears an accumulator register. (R164) -/
  | vqclr (d : Reg3) (c : VCtl)
  /-- Widens FP32 elements into an accumulator. (R164) -/
  | vqwf (d : Reg3) (a : Reg) (c : VCtl)
  /-- Sign-extends int32 elements into an accumulator. (R164) -/
  | vqwi (d : Reg3) (a : Reg) (c : VCtl)
  /-- Reduces a vector by int32 sum into a scalar. (R165) -/
  | vredadd (d : Reg) (a : Reg) (fold : BitVec 2)
  /-- Reduces a vector by the fixed FP32 tree sum. (R165) -/
  | vredfadd (d : Reg) (a : Reg) (fold : BitVec 2)
  /-- Reduces a vector by int32 minimum. (R165) -/
  | vredmin (d : Reg) (a : Reg) (fold : BitVec 2)
  /-- Reduces a vector by int32 maximum. (R165) -/
  | vredmax (d : Reg) (a : Reg) (fold : BitVec 2)
  /-- Reduces a vector by FP32 minimum. (R165) -/
  | vredfmin (d : Reg) (a : Reg) (fold : BitVec 2)
  /-- Reduces a vector by FP32 maximum. (R165) -/
  | vredfmax (d : Reg) (a : Reg) (fold : BitVec 2)
  /-- Broadcasts a scalar into vector elements. (R166) -/
  | vbcst (d : Reg) (a : Reg) (c : VCtl)
  /-- Extracts one vector element into a scalar. (R166) -/
  | vextr (d : Reg) (a : Reg) (elem : BitVec 6)
  /-- Inserts a scalar into one vector element. (R166) -/
  | vins (d : Reg) (a : Reg) (elem : BitVec 6)
  /-- Writes each element's index. (R166) -/
  | viota (d : Reg) (c : VCtl)
  /-- Permutes elements by an index vector. (R167) -/
  | vperm (d : Reg) (a : Reg) (b : Reg) (c : VCtl)
  /-- Slides elements up by a scalar count. (R167) -/
  | vslup (d : Reg) (a : Reg) (b : Reg) (c : VCtl)
  /-- Slides elements down by a scalar count. (R167) -/
  | vsldn (d : Reg) (a : Reg) (b : Reg) (c : VCtl)
  /-- Packs the elements selected by a mask. (R167) -/
  | vcmpr (d : Reg) (a : Reg) (fold : BitVec 2) (k : Reg3)
  /-- Bitwise AND of masks. (R168) -/
  | mand (d : Reg3) (a : Reg3) (b : Reg3) (fold : BitVec 2)
  /-- Bitwise OR of masks. (R168) -/
  | mor (d : Reg3) (a : Reg3) (b : Reg3) (fold : BitVec 2)
  /-- Bitwise XOR of masks. (R168) -/
  | mxor (d : Reg3) (a : Reg3) (b : Reg3) (fold : BitVec 2)
  /-- Bitwise inversion of a mask. (R168) -/
  | mnot (d : Reg3) (a : Reg3) (fold : BitVec 2)
  /-- Counts set mask bits below n into a scalar. (R168) -/
  | mpop (d : Reg) (a : Reg3) (fold : BitVec 2)
  /-- Finds the lowest set mask bit below n. (R168) -/
  | mfirst (d : Reg) (a : Reg3) (fold : BitVec 2)
  /-- Sets a mask from a scalar. (R168) -/
  | mset (d : Reg3) (a : Reg) (fold : BitVec 2)
  /-- Copies a mask into a scalar. (R168) -/
  | mget (d : Reg) (a : Reg3) (fold : BitVec 2)
  /-- Selects elements of two vectors by a mask. (R166) -/
  | vsel (d : Reg) (a : Reg) (b : Reg) (fold : BitVec 2) (k : Reg3)
  /-- Loads strided words from scratchpad into a vector. (R169) -/
  | vldW (d : Reg) (a : Reg) (b : Reg) (c : VCtl)
  /-- Loads strided sign-extended halfwords. (R169) -/
  | vldH (d : Reg) (a : Reg) (b : Reg) (c : VCtl)
  /-- Loads strided zero-extended halfwords. (R169) -/
  | vldHu (d : Reg) (a : Reg) (b : Reg) (c : VCtl)
  /-- Loads strided sign-extended bytes. (R169) -/
  | vldB (d : Reg) (a : Reg) (b : Reg) (c : VCtl)
  /-- Loads strided zero-extended bytes. (R169) -/
  | vldBu (d : Reg) (a : Reg) (b : Reg) (c : VCtl)
  /-- Stores vector elements as strided words. (R169) -/
  | vstW (d : Reg) (a : Reg) (b : Reg) (c : VCtl)
  /-- Stores vector elements as strided halfwords. (R169) -/
  | vstH (d : Reg) (a : Reg) (b : Reg) (c : VCtl)
  /-- Stores vector elements as strided bytes. (R169) -/
  | vstB (d : Reg) (a : Reg) (b : Reg) (c : VCtl)
  /-- Gathers words at indexed scratchpad addresses. (R170) -/
  | vgath (d : Reg) (a : Reg) (b : Reg) (c : VCtl)
  /-- Scatters words to indexed scratchpad addresses. (R170) -/
  | vscat (d : Reg) (a : Reg) (b : Reg) (c : VCtl)
  /-- Stable sort of int32 keys with source indices. (R171) -/
  | vsortS (d : Reg) (a : Reg) (fold : BitVec 2)
  /-- Stable sort of FP32 keys in total order. (R171) -/
  | vsortF (d : Reg) (a : Reg) (fold : BitVec 2)
  /-- Stable sort of uint32 keys. (R171) -/
  | vsortU (d : Reg) (a : Reg) (fold : BitVec 2)
  /-- Marks the starts of runs of equal elements in a mask. (R172) -/
  | vruns (d : Reg3) (a : Reg) (fold : BitVec 2)
  /-- Sums int32 segments into their start elements. (R172) -/
  | vsegadd (d : Reg) (a : Reg) (fold : BitVec 2) (k : Reg3)
  /-- Tree-sums FP32 segments into their start elements. (R172) -/
  | vsegfadd (d : Reg) (a : Reg) (fold : BitVec 2) (k : Reg3)
  /-- Writes words of the core's vector random stream. (R173) -/
  | vrng (d : Reg) (c : VCtl)
  /-- Quantises FP32 elements into one BFP burst. (R174) -/
  | vbfpq (d : Reg) (a : Reg) (fold : BitVec 2) (w : Reg3)
  /-- Expands a BFP burst into FP32 elements. (R174) -/
  | vbfpx (d : Reg) (a : Reg) (fold : BitVec 2)
  /-- Packs five trit vectors into T5 bytes. (R175) -/
  | vt5pk (d : Reg) (a : Reg) (fold : BitVec 2)
  /-- Unpacks T5 bytes into five trit vectors. (R175) -/
  | vt5up (d : Reg) (a : Reg) (fold : BitVec 2)
  -- The T slot (R114)
  /-- Loads a tile register from scratchpad rows. (R184) -/
  | tld (d : Reg3) (a : Reg) (b : Reg)
  /-- Stores a tile register to scratchpad rows. (R184) -/
  | tst (d : Reg3) (a : Reg) (b : Reg)
  /-- Loads convolution-window pixels into a tile register. (R186) -/
  | twin (d : Reg3) (a : Reg) (b : Reg)
  /-- Zeroes a tile register and its exponent store. (R187) -/
  | tzero (d : Reg3)
  /-- BF16 tile product accumulated into C in scratchpad. (R190) -/
  | tmmaBf16 (d : Reg) (a : Reg3) (b : Reg3)
  /-- BFP tile product accumulated into C. (R190) -/
  | tmmaBfp (d : Reg) (a : Reg3) (b : Reg3)
  /-- INT8 tile product accumulated into C. (R190) -/
  | tmmaI8 (d : Reg) (a : Reg3) (b : Reg3)
  /-- BF16 tile product written into C. (R190) -/
  | tmmaBf16W (d : Reg) (a : Reg3) (b : Reg3)
  /-- BFP tile product written into C. (R190) -/
  | tmmaBfpW (d : Reg) (a : Reg3) (b : Reg3)
  /-- INT8 tile product written into C. (R190) -/
  | tmmaI8W (d : Reg) (a : Reg3) (b : Reg3)
  /-- Transposes one tile register into another. (R188) -/
  | ttrn (d : Reg3) (a : Reg3)
  /-- Moves one tile row into a vector register. (R189) -/
  | trowv (d : Reg) (a : Reg3) (b : Reg)
  /-- Moves a vector register into one tile row. (R189) -/
  | tvrow (d : Reg3) (a : Reg) (b : Reg)
  /-- Zeroes the active accumulator set and tags it with CTX. (R266) -/
  | xclr
  /-- Swaps the active accumulator set. (R266) -/
  | xswap
  /-- Writes the active accumulator set to scratchpad. (R266) -/
  | xsave (a : Reg)
  /-- Loads the active accumulator set from scratchpad. (R266) -/
  | xload (a : Reg)
  -- The W slot (R115)
  /-- Opens a pass that copies tensor elements to scratchpad. (R231) -/
  | pcopy (o : PassOp)
  /-- Opens a pass that gathers listed rows to scratchpad. (R232) -/
  | pgath (o : PassOp)
  /-- Opens a pass summing selected integer elements. (R233) -/
  | pscanSumi (o : PassOp)
  /-- Opens a pass tree-summing selected floating elements. (R233) -/
  | pscanSumf (o : PassOp)
  /-- Opens a pass taking the minimum of selected elements. (R233) -/
  | pscanMin (o : PassOp)
  /-- Opens a pass taking the maximum of selected elements. (R233) -/
  | pscanMax (o : PassOp)
  /-- Opens a pass counting selected elements. (R233) -/
  | pscanCount (o : PassOp)
  /-- Opens a pass listing the selected elements. (R234) -/
  | pfilt (o : PassOp)
  /-- Opens a pass writing scratchpad rows into a tensor. (R235) -/
  | pput (o : PassOp)
  /-- Opens a pass adding int32 values into tensor rows. (R236) -/
  | pupdAddi32 (o : PassOp)
  /-- Opens a pass adding FP32 values into tensor rows. (R236) -/
  | pupdAddf32 (o : PassOp)
  /-- Opens a pass taking int32 minima into tensor rows. (R236) -/
  | pupdMini32 (o : PassOp)
  /-- Opens a pass taking int32 maxima into tensor rows. (R236) -/
  | pupdMaxi32 (o : PassOp)
  /-- Opens a pass ANDing values into tensor rows. (R236) -/
  | pupdAnd (o : PassOp)
  /-- Opens a pass ORing values into tensor rows. (R236) -/
  | pupdOr (o : PassOp)
  /-- Opens a pass XORing values into tensor rows. (R236) -/
  | pupdXor (o : PassOp)
  /-- Opens a pass replacing tensor words with values. (R236) -/
  | pupdSwap (o : PassOp)
  /-- Opens a pass staging ordered FP32 contributions. (R238) -/
  | pupdoAddf32 (o : PassOp)
  /-- Opens a pass staging ordered int32 contributions. (R238) -/
  | pupdoAddi32 (o : PassOp)
  /-- Opens a pass committing staged contributions in key order. (R239) -/
  | pcmt (o : PassOp)
  /-- Opens a pass applying one AdamW step. (R240) -/
  | padam (o : PassOp)
  /-- Opens a pass zeroing tensor rows or blocks. (R241) -/
  | pzero (o : PassOp)
  /-- Supervisor pass zeroing physical stitches of a segment and its page-zero record. (R241) -/
  | pzeroPhys (o : PassOp)
  /-- Opens a pass moving host lines into a tensor. (R242) -/
  | phostIn (o : PassOp)
  /-- Opens a pass writing tensor items to host memory. (R242) -/
  | phostOut (o : PassOp)
  /-- Opens a ternary matrix pass writing outputs. (R259) -/
  | pmatWrite (o : PassOp)
  /-- Opens a ternary matrix pass accumulating outputs. (R259) -/
  | pmatAccum (o : PassOp)
  /-- Reopens a parked pass. (R243) -/
  | preop (a : Reg)
  /-- Cancels an open or parked pass. (R244) -/
  | pcanc (a : Reg)
  /-- Holds its row until the core's earlier passes close. (R245) -/
  | pfence
  /-- Holds its row until some masked tag is set. (R247) -/
  | twany (a : Reg)
  /-- Holds its row until every masked tag is set. (R247) -/
  | twall (a : Reg)
  /-- Returns the lowest set tag in a mask. (R248) -/
  | tfirst (d : Reg) (a : Reg)
  /-- Clears DONE and ERR bits of masked tags. (R249) -/
  | tclr (a : Reg)
  /-- Holds its row until a given stitch is visited. (R206) -/
  | cwait (a : Reg)
  /-- Holds its row until every pass riding the segment has closed. (R245) -/
  | prnd
  -- The L slot (R116)
  /-- Sends a vector message on a port. (R276) -/
  | lsendV (a : Reg) (fold : BitVec 2) (port : BitVec 4)
  /-- Sends a scalar message on a port. (R276) -/
  | lsendS (a : Reg) (port : BitVec 4)
  /-- Takes entries from a port's receive queue into a vector. (R277) -/
  | lrecv (d : Reg) (fold : BitVec 2) (port : BitVec 4)
  /-- Writes vector words into targets' scratchpad. (R278) -/
  | lput (a : Reg) (b : Reg) (fold : BitVec 2) (port : BitVec 4)
  /-- Remote atomic int32 add on targets' words. (R279) -/
  | lamoAdd32 (a : Reg) (b : Reg) (fold : BitVec 2) (port : BitVec 4)
  /-- Remote atomic FP32 add on targets' words. (R279) -/
  | lamoFadd32 (a : Reg) (b : Reg) (fold : BitVec 2) (port : BitVec 4)
  /-- Remote atomic int32 minimum. (R279) -/
  | lamoMin32 (a : Reg) (b : Reg) (fold : BitVec 2) (port : BitVec 4)
  /-- Remote atomic int32 maximum. (R279) -/
  | lamoMax32 (a : Reg) (b : Reg) (fold : BitVec 2) (port : BitVec 4)
  /-- Arrives at a die-scope barrier and waits for its phase. (R288) -/
  | barDie (k : BitVec 4)
  /-- Arrives at a launch-scope barrier and waits. (R288) -/
  | barLaunch (k : BitVec 4)
  /-- Arrives at a system-scope barrier and waits. (R288) -/
  | barSys (k : BitVec 4)
  /-- Records arrival at a die-scope barrier. (R288) -/
  | baraDie (k : BitVec 4)
  /-- Records arrival at a launch-scope barrier. (R288) -/
  | baraLaunch (k : BitVec 4)
  /-- Records arrival at a system-scope barrier. (R288) -/
  | baraSys (k : BitVec 4)
  /-- Waits for the current phase of a barrier id to complete. (R288) -/
  | barw (k : BitVec 4)
  /-- Acquires a free stage of a circular buffer. (R292) -/
  | cbacq (d : Reg) (a : Reg)
  /-- Commits a locally acquired stage. (R292) -/
  | cbcomLocal (a : Reg)
  /-- Appends a vector as a stage to targets' buffers. (R293) -/
  | cbcomRemote (a : Reg) (b : Reg) (fold : BitVec 2) (port : BitVec 4)
  /-- Waits for and hands out a committed stage. (R292) -/
  | cbwait (d : Reg) (a : Reg)
  /-- Releases a consumed stage. (R292) -/
  | cbrel (a : Reg)
  /-- Holds its row until the module tick reaches a value. (R332) -/
  | belay (a : Reg)
  /-- Holds its row until wall time reaches a value. (R333) -/
  | waitt (a : Reg)
  /-- Writes WALLT and PTICK of the issue tick into two scalars. (R334) -/
  | tstmp (d : Reg)
  /-- Submits a launch packet from scratchpad to the launch queue. (R294) -/
  | launch (a : Reg)
  /-- Waits while a submitted child launch is outstanding. (R295) -/
  | ljoin (a : Reg)
  -- The device's own steps
  /-- A row with no slot words issues and occupies 1 + GAP beats. (R92) -/
  | delayRow (gap : Byte)
  /-- A write to RNGKEY0 or RNGKEY1 sets the key and resets both random counters. (R149) -/
  | rngkeyWrite (hi : Bool) (v : Word)
  /-- A write of XCTX.SEL swaps the active accumulator set. (R251) -/
  | xctxWrite (v : Word)
  /-- A write to RACELOG places the ring and resets NEXT to 0. (R315) -/
  | racelogWrite (v : Word)
  /-- A write to FPFLAGS replaces the sticky flags, later arrivals ORed after. (R39) -/
  | fpflagsWrite (v : Word)
  /-- A write of 1 bits to TAGERR clears those error bits. (R223) -/
  | tagerrWrite (v : Word)
  /-- Writing DBGCTL.RELEASE reopens all frozen passes in ascending slot. (R360) -/
  | release (v : Word)
  /-- A host write to a BAR0 register with no behaviour of its own, such as MBX_ARG. (R63) -/
  | registerWrite (off : BitVec 20) (v : Word)
  /-- A host write to the launch window delivers a packet, which is checked and queued or discarded. (R70) -/
  | lwinWrite (off : Nat) (data : List Byte)
  /-- Mailbox command choosing the driver-interface version and opening LWIN. (R66) -/
  | negotiate (seq : BitVec 16)
  /-- Mailbox command reading, checking and storing a Trelnov image. (R73) -/
  | imageLoad (seq : BitVec 16)
  /-- Mailbox command removing a resident image and invalidating its row stores. (R73) -/
  | imageDrop (seq : BitVec 16)
  /-- Mailbox command warming free cores of a die with an image. (R74) -/
  | preload (seq : BitVec 16)
  /-- Mailbox command opening a context id with its policy bits. (R69) -/
  | ctxOpen (seq : BitVec 16)
  /-- Mailbox command closing a context, freeing allocations and key slots. (R69) -/
  | ctxClose (seq : BitVec 16)
  /-- Mailbox command reserving sharded segment space and writing map entries. (R78) -/
  | alloc (seq : BitVec 16)
  /-- Mailbox command freeing an allocation. (R67) -/
  | free (seq : BitVec 16)
  /-- Mailbox command removing or halting a launch. (R77) -/
  | cancel (seq : BitVec 16)
  /-- Mailbox command returning the state of a launch. (R67) -/
  | query (seq : BitVec 16)
  /-- A mailbox command completes: results, RESULT and SEQ written, BUSY cleared, MSI-X raised. (R65) -/
  | mailboxComplete
  /-- A TLP or flit failing its IDE MAC is discarded and the link enters the insecure state. (R61) -/
  | lwIde
  /-- SPDM request for supported versions. (R62) -/
  | getVersion (body : List Byte)
  /-- SPDM request for capabilities. (R62) -/
  | getCapabilities (body : List Byte)
  /-- SPDM request negotiating algorithms. (R62) -/
  | negotiateAlgorithms (body : List Byte)
  /-- SPDM request for certificate digests. (R62) -/
  | getDigests (body : List Byte)
  /-- SPDM request returning the device certificate chain. (R388) -/
  | getCertificate (body : List Byte)
  /-- SPDM challenge request. (R62) -/
  | challenge (body : List Byte)
  /-- SPDM request returning the measurement blocks. (R388) -/
  | getMeasurements (body : List Byte)
  /-- SPDM key exchange starting a secure session. (R62) -/
  | keyExchange (body : List Byte)
  /-- SPDM FINISH completing a secure session. (R62) -/
  | finish (body : List Byte)
  /-- Secured message writing a key pair into a slot on all dies. (R385) -/
  | keySet (body : List Byte)
  /-- Secured message zeroising a key slot on all dies. (R385) -/
  | keyClear (body : List Byte)
  /-- Message staging bytes of a new firmware image. (R385) -/
  | fwData (body : List Byte)
  /-- Message verifying and writing a staged firmware image, then requesting warm reset. (R387) -/
  | fwCommit (body : List Byte)
  /-- The placement engine takes the head eligible launch, commits its reservation and prepares its cores. (R85) -/
  | placeLaunch
  /-- Each die fires the start pulse once PTICK and NOT_BEFORE allow, and cores issue their entry row. (R86) -/
  | startPulse (ctx : Byte) (lid : BitVec 16) (die : DieNo)
  /-- An exiting core's outstanding work completes and it reports its exit to the counter tree. (R145) -/
  | coreExit (die : DieNo) (core : CoreNo)
  /-- The group counter reaches zero and the launch's resources are released. (R372) -/
  | endOfLaunch (ctx : Byte) (lid : BitVec 16)
  /-- A running core is stopped, its state and segment moved to another core, and resumed. (R84) -/
  | migration (die : DieNo) (core : CoreNo) (target : MoveTo)
  /-- In a visit tick each segment visits its next stitch: captures, applications, write-back. (R207) -/
  | sweepVisit (die : DieNo)
  /-- After every 64th visit with a hot bank, a hold tick refreshes hot banks and no visit happens. (R200) -/
  | holdTick (die : DieNo)
  /-- A pass closes four ticks after its last visit or cancel, completing results and setting its tag. (R205) -/
  | passClose (die : DieNo) (core : CoreNo) (slot : SlotNo)
  /-- Four ticks after a refused open, its tag and ERR bit are set. (R225) -/
  | refusedOpen (die : DieNo) (core : CoreNo)
  /-- Firmware starts a remap of a segment to fewer live banks. (R202) -/
  | bankRemap (die : DieNo) (seg : SegNo) (live : W32)
  /-- The remap walker finishes; PERIOD changes and parked passes and the core resume. (R202) -/
  | remapComplete (die : DieNo) (seg : SegNo)
  /-- A TMMA finishes computing and checking and hands its rows to the bank adders. (R191) -/
  | tmmaHandover (die : DieNo) (core : CoreNo)
  /-- A mesh direction entry reaches the neighbour's receive queue. (R154) -/
  | meshDelivery (die : DieNo) (core : CoreNo) (dir : BitVec 2)
  /-- An LSEND message's entries become present in the target receive queue together. (R276) -/
  | messageDelivery (die : DieNo) (core : CoreNo) (port : BitVec 4)
  /-- An arriving LPUT entry is applied at the target bank. (R278) -/
  | remoteWrite (die : DieNo) (core : CoreNo) (port : BitVec 4)
  /-- An arriving LAMO entry is applied as indivisible bank steps. (R279) -/
  | remoteAtomic (die : DieNo) (core : CoreNo) (port : BitVec 4)
  /-- An arriving remote commit waits for room and appends a stage at the target. (R293) -/
  | remoteCommit (die : DieNo) (core : CoreNo) (port : BitVec 4)
  /-- A barrier phase completes at each participant, toggling its phase bit. (R288) -/
  | barrierComplete (ctx : Byte) (lid : BitVec 16) (scope : Scope) (die : DieNo) (id : BitVec 4)
  /-- A send stall lasting LSTALL_LIMIT x 1024 ticks raises LINKSTALL. (R281) -/
  | linkstall (die : DieNo) (core : CoreNo)
  /-- A host line answer for a PHOST transfer arrives or is refused. (R242) -/
  | phostLine (die : DieNo) (core : CoreNo) (slot : SlotNo) (answer : HostAnswer)
  /-- An Igdin data flit is received, CRC-checked and acknowledged. (R284) -/
  | dataFlit (die : DieNo) (link : BitVec 4) (flit : Flit)
  /-- An acknowledge flit frees replay buffer entries. (R284) -/
  | acknowledge (die : DieNo) (link : BitVec 4) (seq : Byte)
  /-- A negative acknowledge makes the sender replay the flit. (R284) -/
  | negativeAcknowledge (die : DieNo) (link : BitVec 4) (seq : Byte)
  /-- A port trains, learning the far identity and a common link version. (R285) -/
  | training (die : DieNo) (link : BitVec 4) (far : FarEnd)
  /-- A port loses its lane lock and retrains. (R286) -/
  | laneLockLoss (die : DieNo) (link : BitVec 4)
  /-- Firmware retires a failed port and affected launches raise LINKDOWN. (R286) -/
  | portRetire (die : DieNo) (link : BitVec 4)
  /-- Every 1,024 ticks each die exchanges tick stamps and updates PTICK estimates. (R322) -/
  | tickStamp
  /-- A die whose stamps reach no other die for 8 periods is cut off and launches across it raise LINKDOWN. (R325) -/
  | dieCutOff (die : DieNo)
  /-- A received Announce message feeds best-master selection. (R326) -/
  | announce (msg : PtpMsg)
  /-- A received Sync message feeds the wall-time servo. (R329) -/
  | sync (msg : PtpMsg)
  /-- A received Follow_Up completes a two-step Sync. (R326) -/
  | followUp (msg : PtpMsg)
  /-- The port sends Delay_Req at the master's interval in E2E mode. (R327) -/
  | delayReq
  /-- A received Delay_Resp gives the E2E delay. (R326) -/
  | delayResp (msg : PtpMsg)
  /-- The port sends Pdelay_Req once per second. (R327) -/
  | pdelayReq
  /-- A received Pdelay_Resp selects P2P and gives the peer delay. (R327) -/
  | pdelayResp (msg : PtpMsg)
  /-- A received Pdelay_Resp_Follow_Up completes a peer delay measurement. (R326) -/
  | pdelayRespFollowUp (msg : PtpMsg)
  /-- Management and signalling messages are received and ignored. (R326) -/
  | management (body : List Byte)
  /-- No matching Pdelay_Resp within 3 s makes the port use E2E. (R327) -/
  | p2pTimeout
  /-- No Sync accepted for 2 s clears TSLOCK and WALLT runs on. (R329) -/
  | holdover
  /-- An offset above 1 us is corrected in one step at the next 1,024-tick boundary. (R329) -/
  | walltStep
  /-- A PPS input edge is timestamped and aligns wall time during holdover. (R330) -/
  | ppsIn
  /-- PPS out rises as WALLT crosses a whole second while locked. (R330) -/
  | ppsOut
  /-- Firmware changes a logic island's operating point at a 16-tick boundary. (R320) -/
  | levelChange (die : DieNo) (level : Level)
  /-- Die sensors pass the trip point and hardware sets level 8. (R321) -/
  | criticalTempTrip (die : DieNo)
  /-- The context's halt line reaches a core, which skids and stops and writes its stop record. (R348) -/
  | haltLine (die : DieNo) (core : CoreNo)
  /-- At a row boundary a core takes a trap into its own handler. (R345) -/
  | trapEntry (die : DieNo) (core : CoreNo)
  /-- A core's trap is delivered to the die anchor's request queue. (R346) -/
  | trapDelivery (die : DieNo) (core : CoreNo)
  /-- The anchor takes the oldest delivered trap request and enters its handler. (R346) -/
  | anchorTakeRequest (die : DieNo)
  /-- Anchors exchange heartbeats every 65,536 ticks. (R393) -/
  | heartbeat (die : DieNo)
  /-- An anchor missing 4 heartbeats is failed, with lead takeover and halts. (R393) -/
  | anchorFailed (die : DieNo)
  /-- The scrub engine zeroes one 128-byte unit and advances DONE and LOW. (R378) -/
  | scrubEngineBeat (die : DieNo)
  /-- Power-on or PERST# powers up the module in order and boots firmware. (R390) -/
  | coldReset
  /-- A stack layer not ready within 10 ms is not brought up and its banks are retired. (R390) -/
  | layerReadyTimeout (die : DieNo) (layer : BitVec 5)
  /-- Hot reset, FLR or firmware request resets logic, ends launches and reboots anchors. (R400) -/
  | warmReset
  /-- A bank becomes hot or stops being hot as firmware judges from the die's thermal sensors; a newly hot bank's refresh pointer starts 2^17 rows ahead and HOLDS changes. (R200) -/
  | hotBankChange (die : DieNo) (seg : SegNo) (bank : BitVec 5) (hot : Bool)
  /-- Firmware clears the critical-temperature trip, ending the forced level 8 so the island may leave it. (R321) -/
  | criticalTripClear (die : DieNo)
  /-- PPS out falls 1 ms after it rose. (R330) -/
  | ppsOutFall
  /-- Firmware soft-repairs a failing via lane by switching one row group of one bank to a spare lane. (R391) -/
  | softRepair (die : DieNo) (seg : SegNo) (bank : BitVec 5) (group : BitVec 6)
  /-- CXL IDE_KM messages inside an SPDM session install IDE keys on the host link. (R61) -/
  | ideKm (body : List Byte)
  /-- The host snoops a line the device holds through CXL.cache, and the device answers with a snoop response. (R60) -/
  | snoop (line : Nat)
  /-- The host answers or refuses a device CXL.cache request that is not part of a PHOST transfer: a completion-record write-back, an IMAGE_LOAD read or a CTXSV or CTXRS image line. (R89) -/
  | cxlCacheResponse (answer : HostReply)
  deriving DecidableEq, Repr

end Sys2Proof
end

