-- ==== Sys2Proof/WellFormed.lean ====
section
/-! DEFINITION. The operand limits that the loader can see (R97): each entry's limits on its fields. -/

namespace Sys2Proof

/-- The control-register numbers that R110 assigns. -/
def crAssigned (n : Nat) : Bool :=
  decide (n ≤ 0x005) || (decide (0x008 ≤ n) && decide (n ≤ 0x011)) || (decide (0x020 ≤ n) && decide (n ≤ 0x041)) ||
  (decide (0x048 ≤ n) && decide (n ≤ 0x051)) || n == 0x060 || n == 0x061 || n == 0x070 ||
  (decide (0x080 ≤ n) && decide (n ≤ 0x084)) || n == 0x090 || n == 0x0A0 || n == 0x0B0 || n == 0x200 || n == 0x201 ||
  n == 0x300 || n == 0x310 || n == 0x311 || n == 0x320

/-- Bit 12 of FLAGS: the index form of `PUPD` and `PUPDO` (R236). -/
def PassOp.idx (o : PassOp) : Bool := o.flags.getLsbD 12
/-- Bit 13 of FLAGS: the old values of `PUPD` are returned (R236). -/
def PassOp.ret (o : PassOp) : Bool := o.flags.getLsbD 13
/-- Compare code of `PSCAN` and `PFILT`, FLAGS[13:11] (R233). -/
def PassOp.cmp (o : PassOp) : BitVec 3 := o.flags.extractLsb' 11 3
/-- Lane of `PMAT`, FLAGS[13:10] (R259). -/
def PassOp.lane (o : PassOp) : BitVec 4 := o.flags.extractLsb' 10 4

/-- A pass that uses no flag. -/
def PassOp.noFlags (o : PassOp) : Bool := decide (o.flags = 0#14)
/-- The selection fields of `PSCAN` and `PFILT`: a code of 0 to 6, with C zero for code 0 (R233). -/
def PassOp.selOk (o : PassOp) : Bool :=
  decide (o.flags.extractLsb' 0 11 = 0#11) && decide (o.cmp ≠ 7#3) && (decide (o.cmp ≠ 0#3) || decide (o.c = 0#5))
/-- The fields of `PUPD` (R236). -/
def PassOp.updOk (o : PassOp) : Bool :=
  decide (o.flags.extractLsb' 0 12 = 0#12) && (if o.idx then decide (o.a = 0#5) else decide (o.c = 0#5)) &&
  (o.ret || decide (o.e = 0#5))

/-- The limits of each instruction's entry (R97, R133 to R149, R158 to R175, R224, R231 to R242, R259, R275, R334). -/
def Instr.wellFormed : Instr → Bool
  | .ldx _ _ _ _ _ w => decide (w ≠ 7#3)
  | .tdw _ _ _ f => decide (f.toNat ≤ 12)
  | .tdr _ _ _ f => decide (f.toNat ≤ 13)
  | .crd _ cr => crAssigned cr.toNat
  | .cwr _ cr => crAssigned cr.toNat
  | .vsortS d _ _ => decide (d.toNat ≤ 30)
  | .vsortF d _ _ => decide (d.toNat ≤ 30)
  | .vsortU d _ _ => decide (d.toNat ≤ 30)
  | .vbfpq _ _ _ w => decide (w ≠ 7#3)
  | .vt5pk _ a _ => decide (a.toNat ≤ 27)
  | .vt5up d _ _ => decide (d.toNat ≤ 27)
  | .pcopy o => o.noFlags && decide (o.c = 0#5) && decide (o.e = 0#5)
  | .pgath o => o.noFlags && decide (o.a = 0#5) && decide (o.e = 0#5)
  | .pscanSumi o => o.selOk && decide (o.e = 0#5)
  | .pscanSumf o => o.selOk && decide (o.e = 0#5)
  | .pscanMin o => o.selOk && decide (o.e = 0#5)
  | .pscanMax o => o.selOk && decide (o.e = 0#5)
  | .pscanCount o => o.selOk && decide (o.e = 0#5)
  | .pfilt o => o.selOk
  | .pput o => o.noFlags && decide (o.c = 0#5) && decide (o.e = 0#5)
  | .pupdAddi32 o => o.updOk
  | .pupdAddf32 o => o.updOk
  | .pupdMini32 o => o.updOk
  | .pupdMaxi32 o => o.updOk
  | .pupdAnd o => o.updOk
  | .pupdOr o => o.updOk
  | .pupdXor o => o.updOk
  | .pupdSwap o => o.updOk
  | .pupdoAddf32 o => o.updOk && !o.ret
  | .pupdoAddi32 o => o.updOk && !o.ret
  | .pcmt o => o.noFlags && decide (o.d = 0#5) && decide (o.c = 0#5) && decide (o.e = 0#5)
  | .padam o => o.noFlags && decide (o.c = 0#5)
  | .pzero o => o.noFlags && decide (o.d = 0#5) && decide (o.c = 0#5) && decide (o.e = 0#5)
  | .pzeroPhys o => o.noFlags && decide (o.d = 0#5) && decide (o.tid = 0#8) && decide (o.e = 0#5)
  | .phostIn o => o.noFlags && decide (o.d = 0#5) && decide (o.e = 0#5)
  | .phostOut o => o.noFlags && decide (o.d = 0#5) && decide (o.e = 0#5)
  | .pmatWrite o => decide (o.flags.extractLsb' 0 10 = 0#10)
  | .pmatAccum o => decide (o.flags.extractLsb' 0 10 = 0#10)
  | .lsendV _ _ p => decide (p ≠ 15#4)
  | .lsendS _ p => decide (p ≠ 15#4)
  | .lrecv _ _ p => decide (p ≠ 15#4)
  | .lput _ _ _ p => decide (p ≠ 15#4)
  | .lamoAdd32 _ _ _ p => decide (p ≠ 15#4)
  | .lamoFadd32 _ _ _ p => decide (p ≠ 15#4)
  | .lamoMin32 _ _ _ p => decide (p ≠ 15#4)
  | .lamoMax32 _ _ _ p => decide (p ≠ 15#4)
  | .cbcomRemote _ _ _ p => decide (p ≠ 15#4)
  | .tstmp d => decide (d.toNat ≤ 30)
  | _ => true

/-- The supervisor forms, assigned only in firmware images (R97, R112, R115). -/
def Instr.isSup : Instr → Bool
  | .eret _ _ _ => true
  | .mapw _ _ _ _ => true
  | .haltctx _ _ _ _ => true
  | .ctxsv _ _ _ _ => true
  | .ctxrs _ _ _ _ => true
  | .keyz _ _ _ => true
  | .scrub _ _ _ _ => true
  | .assign _ _ _ _ => true
  | .pzeroPhys _ => true
  | _ => false

end Sys2Proof
end

