-- ==== Sys2Proof/Decode.lean ====
section
/-! DEFINITION. The decoder of slot words, of rows and of row-store entries, total on any words and refusing by name, and the
encoder written from the same maps (R91 to R94, R97, R105 to R107, R112 to R116). -/

namespace Sys2Proof

/-- Why a word is no instruction (R97). -/
inductive Reject where
  /-- Its opcode or sub-function is not assigned. -/
  | badOp
  /-- A reserved field is nonzero or an operand is outside its limit; `sup` says whether its opcode is a supervisor form. -/
  | resv (sup : Bool)
  deriving DecidableEq, Repr

/-- The instructions of the slots, without operands (R112 to R116). -/
inductive Mn where
  | add | sub | addi | ldi | lui | ldk | mul | mulh
  | mulhu | div | divu | rem | remu | and | or | xor
  | andn | orn | xnor | andi | ori | xori | shl | shr
  | sra | ror | shli | shri | srai | rori | min | max
  | minu | maxu | clz | ctz | popc | brev | sext8 | sext16
  | sext32 | zext8 | zext16 | zext32 | cmpeq | cmpne | cmplt | cmpltu
  | cmple | cmpleu | cmpieq | cmpilt | cmpiltu | sel | pand | por
  | pxor | pandn | pnot | pget | pset | ldb | ldbu | ldh
  | ldhu | ldw | ldwu | ldd | stb | sth | stw | std
  | ldx | stx | aadd | aaddw | amin | amax | aswap | aand
  | aor | afadd | acas | br | jmp | call | jmpr | loop
  | exit | tdfence | mapfence | spfence | syncmark | tdw | tdr | crd
  | cwr | rngs | trap | eret | mapw | haltctx | ctxsv | ctxrs
  | keyz | scrub | assign
  | vadd | vadds | vaddsu | vsub | vsubs | vsubsu | vmul | vmulh
  | vmulhu | vand | vor | vxor | vandn | vshl | vshr | vsra
  | vshli | vshri | vsrai | vmin | vmax | vminu | vmaxu | vcmpeq
  | vcmpne | vcmplt | vcmpltu | vcmple | vcmpleu | vfadd | vfsub | vfmul
  | vfma | vfnma | vfmin | vfmax | vfcmpeq | vfcmplt | vfcmple | vfcmpun
  | vfabs | vfneg | vfsqrt | vrcp | vrsq | vexp2 | vlog2 | vfloor
  | vfceil | vfrint | vcvtfi | vcvtfit | vcvtif | vcvtfb | vcvtbfl | vcvtbfh
  | vdot2 | vdot4 | vdot4us | vqma | vqmai | vqnarf | vqnars | vqnarw
  | vqclr | vqwf | vqwi | vredadd | vredfadd | vredmin | vredmax | vredfmin
  | vredfmax | vbcst | vextr | vins | viota | vperm | vslup | vsldn
  | vcmpr | mand | mor | mxor | mnot | mpop | mfirst | mset
  | mget | vsel | vldW | vldH | vldHu | vldB | vldBu | vstW
  | vstH | vstB | vgath | vscat | vsortS | vsortF | vsortU | vruns
  | vsegadd | vsegfadd | vrng | vbfpq | vbfpx | vt5pk | vt5up
  | tld | tst | twin | tzero | tmmaBf16 | tmmaBfp | tmmaI8 | tmmaBf16W
  | tmmaBfpW | tmmaI8W | ttrn | trowv | tvrow | xclr | xswap | xsave
  | xload
  | pcopy | pgath | pscanSumi | pscanSumf | pscanMin | pscanMax | pscanCount | pfilt
  | pput | pupdAddi32 | pupdAddf32 | pupdMini32 | pupdMaxi32 | pupdAnd | pupdOr | pupdXor
  | pupdSwap | pupdoAddf32 | pupdoAddi32 | pcmt | padam | pzero | pzeroPhys | phostIn
  | phostOut | pmatWrite | pmatAccum | preop | pcanc | pfence | twany | twall
  | tfirst | tclr | cwait | prnd
  | lsendV | lsendS | lrecv | lput | lamoAdd32 | lamoFadd32 | lamoMin32 | lamoMax32
  | barDie | barLaunch | barSys | baraDie | baraLaunch | baraSys | barw | cbacq
  | cbcomLocal | cbcomRemote | cbwait | cbrel | belay | waitt | tstmp | launch
  | ljoin
  deriving DecidableEq, Repr

/-! ### Fields of a slot word (R105, R106) -/

/-- OP, bits 31 to 26. -/
def fOp (w : W32) : BitVec 6 := w.extractLsb' 26 6
/-- D, bits 25 to 21. -/
def fD (w : W32) : BitVec 5 := w.extractLsb' 21 5
/-- A, bits 20 to 16. -/
def fA (w : W32) : BitVec 5 := w.extractLsb' 16 5
/-- B, bits 15 to 11. -/
def fB (w : W32) : BitVec 5 := w.extractLsb' 11 5
/-- F, bits 10 to 0. -/
def fF (w : W32) : BitVec 11 := w.extractLsb' 0 11
/-- IMM16, bits 15 to 0. -/
def fImm (w : W32) : BitVec 16 := w.extractLsb' 0 16
/-- P of a J-form word, bits 25 to 23. -/
def fJp (w : W32) : BitVec 3 := w.extractLsb' 23 3
/-- N of a J-form word, bit 22. -/
def fJn (w : W32) : BitVec 1 := w.extractLsb' 22 1
/-- OFF22, bits 21 to 0. -/
def fJoff (w : W32) : BitVec 22 := w.extractLsb' 0 22
/-- Guard predicate of the S slot, bits 10 to 8. -/
def fG (w : W32) : BitVec 3 := w.extractLsb' 8 3
/-- Guard negate of the S slot, bit 7. -/
def fN (w : W32) : BitVec 1 := w.extractLsb' 7 1
/-- Count bit 5 of opcode 0x0F, bit 6. -/
def fC (w : W32) : BitVec 1 := w.extractLsb' 6 1
/-- SUB of the S, V and T slots, bits 5 to 0. -/
def fSub (w : W32) : BitVec 6 := w.extractLsb' 0 6
/-- FOLD of the V and L slots, bits 10 and 9. -/
def fFold (w : W32) : BitVec 2 := w.extractLsb' 9 2
/-- Write mask of the V slot, bits 8 to 6. -/
def fM (w : W32) : BitVec 3 := w.extractLsb' 6 3
/-- The zero field of the T slot, bits 10 to 6. -/
def fTz (w : W32) : BitVec 5 := w.extractLsb' 6 5
/-- TAG of the W slot, bits 10 to 5. -/
def fTag (w : W32) : BitVec 6 := w.extractLsb' 5 6
/-- PORT of the L slot, bits 8 to 5. -/
def fPort (w : W32) : BitVec 4 := w.extractLsb' 5 4
/-- SUB of the W and L slots, bits 4 to 0. -/
def fSub5 (w : W32) : BitVec 5 := w.extractLsb' 0 5
/-- Low three bits of a register field. -/
def lo3 (r : BitVec 5) : BitVec 3 := r.extractLsb' 0 3
/-- High two bits of a register field. -/
def hi2 (r : BitVec 5) : BitVec 2 := r.extractLsb' 3 2
/-- Low four bits of a five-bit field. -/
def lo4 (r : BitVec 5) : BitVec 4 := r.extractLsb' 0 4
/-- High bit of a five-bit field. -/
def hi1 (r : BitVec 5) : BitVec 1 := r.extractLsb' 4 1
/-- Low three bits of a SUB field. -/
def lo3s (r : BitVec 6) : BitVec 3 := r.extractLsb' 0 3
/-- High three bits of a SUB field. -/
def hi3 (r : BitVec 6) : BitVec 3 := r.extractLsb' 3 3
/-- Bits 5 and 4 of a SUB field. -/
def top2 (r : BitVec 6) : BitVec 2 := r.extractLsb' 4 2
/-- Bit 3 of a SUB field. -/
def bit3 (r : BitVec 6) : BitVec 1 := r.extractLsb' 3 1
/-- Bit 2 of a SUB field. -/
def bit2 (r : BitVec 6) : BitVec 1 := r.extractLsb' 2 1
/-- Bits 1 and 0 of a SUB field. -/
def lo2 (r : BitVec 6) : BitVec 2 := r.extractLsb' 0 2
/-- The guard of an S word. -/
def gOf (w : W32) : Guard := ⟨fG w, fN w⟩
/-- TID of a pass extension word, bits 31 to 24 (R107). -/
def xTid (x : W32) : BitVec 8 := x.extractLsb' 24 8
/-- C of a pass extension word, bits 23 to 19. -/
def xC (x : W32) : BitVec 5 := x.extractLsb' 19 5
/-- E of a pass extension word, bits 18 to 14. -/
def xE (x : W32) : BitVec 5 := x.extractLsb' 14 5
/-- FLAGS of a pass extension word, bits 13 to 0. -/
def xFlags (x : W32) : BitVec 14 := x.extractLsb' 0 14
/-- The operands of a long W word. -/
def passOf (w x : W32) : PassOp := ⟨fD w, fA w, fB w, fTag w, xTid x, xC x, xE x, xFlags x⟩

/-! ### Words from fields -/

/-- An R-form word of the S slot. -/
def wR (op : BitVec 6) (d a b : BitVec 5) (g : Guard) (c : BitVec 1) (sub : BitVec 6) : W32 :=
  op ++ (d ++ (a ++ (b ++ (g.p ++ (g.neg ++ (c ++ sub))))))
/-- An I-form word. -/
def wI (op : BitVec 6) (d a : BitVec 5) (imm : BitVec 16) : W32 := op ++ (d ++ (a ++ imm))
/-- A J-form word. -/
def wJ (op : BitVec 6) (p : BitVec 3) (n : BitVec 1) (off : BitVec 22) : W32 := op ++ (p ++ (n ++ off))
/-- A word of the V slot. -/
def wV (op : BitVec 6) (d a b : BitVec 5) (fold : BitVec 2) (m : BitVec 3) (sub : BitVec 6) : W32 :=
  op ++ (d ++ (a ++ (b ++ (fold ++ (m ++ sub)))))
/-- A word of the T slot. -/
def wT (op : BitVec 6) (d a b : BitVec 5) (sub : BitVec 6) : W32 := op ++ (d ++ (a ++ (b ++ (0#5 ++ sub))))
/-- A word of the W slot. -/
def wW (op : BitVec 6) (d a b : BitVec 5) (tag : BitVec 6) (sub : BitVec 5) : W32 :=
  op ++ (d ++ (a ++ (b ++ (tag ++ sub))))
/-- A word of the L slot. -/
def wL (op : BitVec 6) (d a b : BitVec 5) (fold : BitVec 2) (port : BitVec 4) (sub : BitVec 5) : W32 :=
  op ++ (d ++ (a ++ (b ++ (fold ++ (port ++ sub)))))
/-- The extension word of a pass. -/
def xP (o : PassOp) : W32 := o.tid ++ (o.c ++ (o.e ++ o.flags))

/-! ### The slot maps -/

/-- The entry of a list at an index. -/
def pick (n : Nat) : List (Option Mn) → Option Mn
  | [] => none
  | m :: ms => if n = 0 then m else pick (n - 1) ms

/-- The instruction that an opcode and a sub-function of the S slot name (R112). -/
def lookupS (op sub : Nat) : Option Mn :=
  match op with
  | 1 => pick sub [some .add]
  | 2 => pick sub [some .sub]
  | 3 => some .addi
  | 4 => some .ldi
  | 5 => some .lui
  | 6 => some .ldk
  | 7 => pick sub [some .mul]
  | 8 => pick sub [some .mulh, some .mulhu]
  | 9 => pick sub [some .div, some .divu, some .rem, some .remu]
  | 10 => pick sub [some .and, some .or, some .xor, some .andn, some .orn, some .xnor]
  | 11 => some .andi
  | 12 => some .ori
  | 13 => some .xori
  | 14 => pick sub [some .shl, some .shr, some .sra, some .ror]
  | 15 => pick sub [some .shli, some .shri, some .srai, some .rori]
  | 16 => pick sub [some .min, some .max, some .minu, some .maxu]
  | 17 => pick sub [some .clz, some .ctz, some .popc, some .brev]
  | 18 => pick sub [some .sext8, some .sext16, some .sext32, some .zext8, some .zext16, some .zext32]
  | 19 => pick sub [some .cmpeq, some .cmpne, some .cmplt, some .cmpltu, some .cmple, some .cmpleu]
  | 20 => some .cmpieq
  | 21 => some .cmpilt
  | 22 => some .cmpiltu
  | 23 => some .sel
  | 24 => pick sub [some .pand, some .por, some .pxor, some .pandn, some .pnot]
  | 25 => pick sub [some .pget, some .pset]
  | 26 => some .ldb
  | 27 => some .ldbu
  | 28 => some .ldh
  | 29 => some .ldhu
  | 30 => some .ldw
  | 31 => some .ldwu
  | 32 => some .ldd
  | 33 => some .stb
  | 34 => some .sth
  | 35 => some .stw
  | 36 => some .std
  | 37 => if sub % 8 < 7 then some .ldx else none
  | 38 => if sub % 8 < 4 then some .stx else none
  | 39 => pick sub [some .aadd, some .aaddw, some .amin, some .amax, some .aswap, some .aand, some .aor, some .afadd, some .acas]
  | 40 => some .br
  | 41 => some .jmp
  | 42 => some .call
  | 43 => pick sub [some .jmpr]
  | 44 => some .loop
  | 45 => pick sub [some .exit]
  | 46 => pick sub [some .tdfence, some .mapfence, some .spfence, some .syncmark]
  | 47 => if sub < 13 then some .tdw else none
  | 48 => if sub < 14 then some .tdr else none
  | 49 => some .crd
  | 50 => some .cwr
  | 51 => pick sub [some .rngs]
  | 52 => some .trap
  | 53 => pick sub [some .eret]
  | 54 => pick sub [some .mapw]
  | 55 => pick sub [some .haltctx]
  | 56 => pick sub [some .ctxsv]
  | 57 => pick sub [some .ctxrs]
  | 58 => pick sub [some .keyz]
  | 59 => pick sub [some .scrub]
  | 60 => pick sub [some .assign]
  | _ => none

/-- The instruction that an opcode and a sub-function of the V slot name (R113). -/
def lookupV (op sub : Nat) : Option Mn :=
  match op with
  | 1 => pick sub [some .vadd, some .vadds, some .vaddsu]
  | 2 => pick sub [some .vsub, some .vsubs, some .vsubsu]
  | 3 => pick sub [some .vmul, some .vmulh, some .vmulhu]
  | 4 => pick sub [some .vand, some .vor, some .vxor, some .vandn]
  | 5 => pick sub [some .vshl, some .vshr, some .vsra]
  | 6 => pick sub [some .vshli, some .vshri, some .vsrai]
  | 7 => pick sub [some .vmin, some .vmax, some .vminu, some .vmaxu]
  | 8 => pick sub [some .vcmpeq, some .vcmpne, some .vcmplt, some .vcmpltu, some .vcmple, some .vcmpleu]
  | 9 => pick sub [some .vfadd]
  | 10 => pick sub [some .vfsub]
  | 11 => pick sub [some .vfmul]
  | 12 => pick sub [some .vfma]
  | 13 => pick sub [some .vfnma]
  | 14 => pick sub [some .vfmin, some .vfmax]
  | 15 => pick sub [some .vfcmpeq, some .vfcmplt, some .vfcmple, some .vfcmpun]
  | 16 => pick sub [some .vfabs, some .vfneg, some .vfsqrt, some .vrcp, some .vrsq, some .vexp2, some .vlog2, some .vfloor, some .vfceil, some .vfrint]
  | 17 => pick sub [some .vcvtfi, some .vcvtfit, some .vcvtif, some .vcvtfb, some .vcvtbfl, some .vcvtbfh]
  | 18 => pick sub [some .vdot2]
  | 19 => pick sub [some .vdot4, some .vdot4us]
  | 20 => pick sub [some .vqma, some .vqmai]
  | 21 => pick sub [some .vqnarf, some .vqnars, some .vqnarw]
  | 22 => pick sub [some .vqclr, some .vqwf, some .vqwi]
  | 23 => pick sub [some .vredadd, some .vredfadd, some .vredmin, some .vredmax, some .vredfmin, some .vredfmax]
  | 24 => pick sub [some .vbcst]
  | 25 => some .vextr
  | 26 => some .vins
  | 27 => pick sub [some .viota]
  | 28 => pick sub [some .vperm]
  | 29 => pick sub [some .vslup, some .vsldn]
  | 30 => pick sub [some .vcmpr]
  | 31 => pick sub [some .mand, some .mor, some .mxor, some .mnot, some .mpop, some .mfirst, some .mset, some .mget]
  | 32 => pick sub [some .vsel]
  | 33 => pick sub [some .vldW, some .vldH, some .vldHu, some .vldB, some .vldBu]
  | 34 => pick sub [some .vstW, some .vstH, some .vstB]
  | 35 => pick sub [some .vgath]
  | 36 => pick sub [some .vscat]
  | 37 => pick sub [some .vsortS, some .vsortF, some .vsortU]
  | 38 => pick sub [some .vruns]
  | 39 => pick sub [some .vsegadd, some .vsegfadd]
  | 40 => pick sub [some .vrng]
  | 41 => if sub < 7 then some .vbfpq else none
  | 42 => pick sub [some .vbfpx]
  | 43 => pick sub [some .vt5pk]
  | 44 => pick sub [some .vt5up]
  | _ => none

/-- The instruction that an opcode and a sub-function of the T slot name (R114). -/
def lookupT (op sub : Nat) : Option Mn :=
  match op with
  | 1 => pick sub [some .tld]
  | 2 => pick sub [some .tst]
  | 3 => pick sub [some .twin]
  | 4 => pick sub [some .tzero]
  | 5 => pick (sub % 8) [some .tmmaBf16, some .tmmaBfp, some .tmmaI8, none, some .tmmaBf16W, some .tmmaBfpW, some .tmmaI8W]
  | 6 => pick sub [some .ttrn]
  | 7 => pick sub [some .trowv, some .tvrow]
  | 8 => pick sub [some .xclr]
  | 9 => pick sub [some .xswap]
  | 10 => pick sub [some .xsave]
  | 11 => pick sub [some .xload]
  | _ => none

/-- The instruction that an opcode and a sub-function of the W slot name (R115). -/
def lookupW (op sub : Nat) : Option Mn :=
  match op with
  | 1 => pick sub [some .pcopy]
  | 2 => pick sub [some .pgath]
  | 3 => pick sub [some .pscanSumi, some .pscanSumf, some .pscanMin, some .pscanMax, some .pscanCount]
  | 4 => pick sub [some .pfilt]
  | 5 => pick sub [some .pput]
  | 6 => pick sub [some .pupdAddi32, some .pupdAddf32, some .pupdMini32, some .pupdMaxi32, some .pupdAnd, some .pupdOr, some .pupdXor, some .pupdSwap]
  | 7 => pick sub [some .pupdoAddf32, some .pupdoAddi32]
  | 8 => pick sub [some .pcmt]
  | 9 => pick sub [some .padam]
  | 10 => pick sub [some .pzero, some .pzeroPhys]
  | 11 => pick sub [some .phostIn, some .phostOut]
  | 12 => pick sub [some .pmatWrite, some .pmatAccum]
  | 13 => pick sub [some .preop]
  | 14 => pick sub [some .pcanc]
  | 15 => pick sub [some .pfence]
  | 16 => pick sub [some .twany]
  | 17 => pick sub [some .twall]
  | 18 => pick sub [some .tfirst]
  | 19 => pick sub [some .tclr]
  | 20 => pick sub [some .cwait]
  | 21 => pick sub [some .prnd]
  | _ => none

/-- The instruction that an opcode and a sub-function of the L slot name (R116). -/
def lookupL (op sub : Nat) (local15 : Bool) : Option Mn :=
  match op with
  | 1 => if sub < 16 then some .lsendV else some .lsendS
  | 2 => pick sub [some .lrecv]
  | 3 => pick sub [some .lput]
  | 4 => pick sub [some .lamoAdd32, some .lamoFadd32, some .lamoMin32, some .lamoMax32]
  | 5 => pick sub [some .barDie, some .barLaunch, some .barSys]
  | 6 => pick sub [some .baraDie, some .baraLaunch, some .baraSys]
  | 7 => pick sub [some .barw]
  | 8 => pick sub [some .cbacq]
  | 9 => if sub = 0 then (if local15 then some .cbcomLocal else some .cbcomRemote) else none
  | 10 => pick sub [some .cbwait]
  | 11 => pick sub [some .cbrel]
  | 12 => pick sub [some .belay]
  | 13 => pick sub [some .waitt]
  | 14 => pick sub [some .tstmp]
  | 15 => pick sub [some .launch]
  | 16 => pick sub [some .ljoin]
  | _ => none

/-- The fields that the entry of an instruction shows as zero are zero (R97). -/
def Mn.zerosOk (m : Mn) (w : W32) : Bool :=
  match m with
  | .add | .sub | .mul | .mulh | .mulhu | .div | .divu | .rem | .remu | .and
  | .or | .xor | .andn | .orn | .xnor | .shl | .shr | .sra | .ror | .min
  | .max | .minu | .maxu | .aadd | .aaddw | .amin | .amax | .aswap | .aand | .aor
  | .afadd | .acas | .mapw | .haltctx | .ctxsv | .ctxrs | .scrub | .assign => decide (fC w = 0#1)
  | .addi | .andi | .ori | .xori | .shli | .shri | .srai | .rori | .ldb | .ldbu
  | .ldh | .ldhu | .ldw | .ldwu | .ldd | .stb | .sth | .stw | .std | .br
  | .trap | .vadd | .vadds | .vaddsu | .vsub | .vsubs | .vsubsu | .vmul | .vmulh | .vmulhu
  | .vand | .vor | .vxor | .vandn | .vshl | .vshr | .vsra | .vshli | .vshri | .vsrai
  | .vmin | .vmax | .vminu | .vmaxu | .vfadd | .vfsub | .vfmul | .vfma | .vfnma | .vfmin
  | .vfmax | .vcvtfb | .vdot2 | .vdot4 | .vdot4us | .vperm | .vslup | .vsldn | .vsel | .vldW
  | .vldH | .vldHu | .vldB | .vldBu | .vstW | .vstH | .vstB | .vgath | .vscat | .pcopy
  | .pgath | .pscanSumi | .pscanSumf | .pscanMin | .pscanMax | .pscanCount | .pfilt | .pput | .pupdAddi32 | .pupdAddf32
  | .pupdMini32 | .pupdMaxi32 | .pupdAnd | .pupdOr | .pupdXor | .pupdSwap | .pupdoAddf32 | .pupdoAddi32 | .pcmt | .padam
  | .pzero | .pzeroPhys | .phostIn | .phostOut | .pmatWrite | .pmatAccum => true
  | .ldi | .lui | .loop => decide (fA w = 0#5)
  | .ldk => decide (fA w = 0#5) && decide (fImm w = 0#16)
  | .clz | .ctz | .popc | .brev | .sext8 | .sext16 | .sext32 | .zext8 | .zext16 | .zext32
  | .tdr | .keyz => decide (fB w = 0#5) && decide (fC w = 0#1)
  | .cmpeq | .cmpne | .cmplt | .cmpltu | .cmple | .cmpleu => decide (hi2 (fD w) = 0#2) && decide (fC w = 0#1)
  | .cmpieq | .cmpilt | .cmpiltu | .vcmpeq | .vcmpne | .vcmplt | .vcmpltu | .vcmple | .vcmpleu | .vfcmpeq
  | .vfcmplt | .vfcmple | .vfcmpun | .vqma | .vqmai => decide (hi2 (fD w) = 0#2)
  | .sel => decide (fC w = 0#1) && decide (hi3 (fSub w) = 0#3)
  | .pand | .por | .pxor | .pandn => decide (hi2 (fD w) = 0#2) && decide (hi2 (fA w) = 0#2) && decide (hi2 (fB w) = 0#2) && decide (fC w = 0#1)
  | .pnot => decide (hi2 (fD w) = 0#2) && decide (hi2 (fA w) = 0#2) && decide (fB w = 0#5) && decide (fC w = 0#1)
  | .pget | .rngs => decide (fA w = 0#5) && decide (fB w = 0#5) && decide (fC w = 0#1)
  | .pset | .jmpr => decide (fD w = 0#5) && decide (fB w = 0#5) && decide (fC w = 0#1)
  | .ldx | .stx => decide (fC w = 0#1) && decide (bit3 (fSub w) = 0#1)
  | .jmp | .call => decide (fJp w = 0#3) && decide (fJn w = 0#1)
  | .exit => decide (fD w = 0#5) && decide (fA w = 0#5) && decide (fB w = 0#5) && decide (fC w = 0#1) && decide (fG w = 0#3) && decide (fN w = 0#1)
  | .tdfence | .mapfence | .spfence | .syncmark => decide (fD w = 0#5) && decide (fA w = 0#5) && decide (fB w = 0#5) && decide (fC w = 0#1)
  | .tdw | .eret => decide (fD w = 0#5) && decide (fC w = 0#1)
  | .crd | .viota | .vrng | .lrecv => decide (fA w = 0#5) && decide (fB w = 0#5)
  | .cwr => decide (fD w = 0#5) && decide (fB w = 0#5)
  | .vfabs | .vfneg | .vfsqrt | .vrcp | .vrsq | .vexp2 | .vlog2 | .vfloor | .vfceil | .vfrint
  | .vcvtfi | .vcvtfit | .vcvtif | .vcvtbfl | .vcvtbfh | .vbcst | .vcmpr | .vsegadd | .vsegfadd => decide (fB w = 0#5)
  | .vqnarf | .vqnars | .vqnarw => decide (hi2 (fA w) = 0#2) && decide (fB w = 0#5)
  | .vqclr => decide (hi2 (fD w) = 0#2) && decide (fA w = 0#5) && decide (fB w = 0#5)
  | .vqwf | .vqwi => decide (hi2 (fD w) = 0#2) && decide (fB w = 0#5)
  | .vredadd | .vredfadd | .vredmin | .vredmax | .vredfmin | .vredfmax | .vsortS | .vsortF | .vsortU | .vbfpq
  | .vbfpx | .vt5pk | .vt5up => decide (fB w = 0#5) && decide (fM w = 0#3)
  | .vextr | .vins => decide (fB w = 0#5) && decide (fFold w = 0#2) && decide (fM w = 0#3)
  | .mand | .mor | .mxor => decide (hi2 (fD w) = 0#2) && decide (hi2 (fA w) = 0#2) && decide (hi2 (fB w) = 0#2) && decide (fM w = 0#3)
  | .mnot => decide (hi2 (fD w) = 0#2) && decide (hi2 (fA w) = 0#2) && decide (fB w = 0#5) && decide (fM w = 0#3)
  | .mpop | .mfirst | .mget => decide (hi2 (fA w) = 0#2) && decide (fB w = 0#5) && decide (fM w = 0#3)
  | .mset | .vruns => decide (hi2 (fD w) = 0#2) && decide (fB w = 0#5) && decide (fM w = 0#3)
  | .tld | .tst | .twin | .tvrow => decide (hi2 (fD w) = 0#2) && decide (fTz w = 0#5)
  | .tzero => decide (hi2 (fD w) = 0#2) && decide (fA w = 0#5) && decide (fB w = 0#5) && decide (fTz w = 0#5)
  | .tmmaBf16 | .tmmaBfp | .tmmaI8 | .tmmaBf16W | .tmmaBfpW | .tmmaI8W => decide (hi2 (fA w) = 0#2) && decide (hi2 (fB w) = 0#2) && decide (fTz w = 0#5) && decide (hi3 (fSub w) = 0#3)
  | .ttrn => decide (hi2 (fD w) = 0#2) && decide (hi2 (fA w) = 0#2) && decide (fB w = 0#5) && decide (fTz w = 0#5)
  | .trowv => decide (hi2 (fA w) = 0#2) && decide (fTz w = 0#5)
  | .xclr | .xswap => decide (fD w = 0#5) && decide (fA w = 0#5) && decide (fB w = 0#5) && decide (fTz w = 0#5)
  | .xsave | .xload => decide (fD w = 0#5) && decide (fB w = 0#5) && decide (fTz w = 0#5)
  | .preop | .pcanc | .twany | .twall | .tclr | .cwait => decide (fD w = 0#5) && decide (fB w = 0#5) && decide (fTag w = 0#6)
  | .pfence | .prnd => decide (fD w = 0#5) && decide (fA w = 0#5) && decide (fB w = 0#5) && decide (fTag w = 0#6)
  | .tfirst => decide (fB w = 0#5) && decide (fTag w = 0#6)
  | .lsendV => decide (fD w = 0#5) && decide (fB w = 0#5) && decide (lo4 (fSub5 w) = 0#4)
  | .lsendS => decide (fD w = 0#5) && decide (fB w = 0#5) && decide (fFold w = 0#2) && decide (lo4 (fSub5 w) = 0#4)
  | .lput | .lamoAdd32 | .lamoFadd32 | .lamoMin32 | .lamoMax32 | .cbcomRemote => decide (fD w = 0#5)
  | .barDie | .barLaunch | .barSys | .baraDie | .baraLaunch | .baraSys | .barw => decide (hi1 (fD w) = 0#1) && decide (fA w = 0#5) && decide (fB w = 0#5) && decide (fFold w = 0#2) && decide (fPort w = 0#4)
  | .cbacq | .cbwait => decide (fB w = 0#5) && decide (fFold w = 0#2) && decide (fPort w = 0#4)
  | .cbcomLocal => decide (fD w = 0#5) && decide (fB w = 0#5) && decide (fFold w = 0#2)
  | .cbrel | .belay | .waitt | .launch | .ljoin => decide (fD w = 0#5) && decide (fB w = 0#5) && decide (fFold w = 0#2) && decide (fPort w = 0#4)
  | .tstmp => decide (fA w = 0#5) && decide (fB w = 0#5) && decide (fFold w = 0#2) && decide (fPort w = 0#4)

/-- The supervisor forms (R97). -/
def Mn.isSup : Mn → Bool
  | .eret | .mapw | .haltctx | .ctxsv | .ctxrs | .keyz | .scrub | .assign | .pzeroPhys => true
  | _ => false

/-- The limits of each entry, on the fields of its words (R97, R224). -/
def Mn.limitsOk (m : Mn) (w ext : W32) : Bool :=
  let o := passOf w ext
  match m with
  | .crd | .cwr => crAssigned (fF w).toNat
  | .vsortS | .vsortF | .vsortU | .tstmp => decide ((fD w).toNat ≤ 30)
  | .vt5pk => decide ((fA w).toNat ≤ 27)
  | .vt5up => decide ((fD w).toNat ≤ 27)
  | .pcopy | .pput => o.noFlags && decide (o.c = 0#5) && decide (o.e = 0#5)
  | .pgath => o.noFlags && decide (o.a = 0#5) && decide (o.e = 0#5)
  | .pscanSumi | .pscanSumf | .pscanMin | .pscanMax | .pscanCount => o.selOk && decide (o.e = 0#5)
  | .pfilt => o.selOk
  | .pupdAddi32 | .pupdAddf32 | .pupdMini32 | .pupdMaxi32 | .pupdAnd | .pupdOr | .pupdXor | .pupdSwap => o.updOk
  | .pupdoAddf32 | .pupdoAddi32 => o.updOk && !o.ret
  | .pcmt | .pzero => o.noFlags && decide (o.d = 0#5) && decide (o.c = 0#5) && decide (o.e = 0#5)
  | .padam => o.noFlags && decide (o.c = 0#5)
  | .pzeroPhys => o.noFlags && decide (o.d = 0#5) && decide (o.tid = 0#8) && decide (o.e = 0#5)
  | .phostIn | .phostOut => o.noFlags && decide (o.d = 0#5) && decide (o.e = 0#5)
  | .pmatWrite | .pmatAccum => decide (o.flags.extractLsb' 0 10 = 0#10)
  | .lsendV | .lsendS | .lrecv | .lput | .lamoAdd32 | .lamoFadd32 | .lamoMin32 | .lamoMax32 | .cbcomRemote =>
    decide (fPort w ≠ 15#4)
  | _ => true

/-- The instruction with the operands its word and extension word carry. -/
noncomputable def buildInstr (m : Mn) (w ext : W32) : Instr :=
  match m with
  | .add => .add (gOf w) (fD w) (fA w) (fB w)
  | .sub => .sub (gOf w) (fD w) (fA w) (fB w)
  | .addi => .addi (fD w) (fA w) (fImm w)
  | .ldi => .ldi (fD w) (fImm w)
  | .lui => .lui (fD w) (fImm w)
  | .ldk => .ldk (fD w) ext
  | .mul => .mul (gOf w) (fD w) (fA w) (fB w)
  | .mulh => .mulh (gOf w) (fD w) (fA w) (fB w)
  | .mulhu => .mulhu (gOf w) (fD w) (fA w) (fB w)
  | .div => .div (gOf w) (fD w) (fA w) (fB w)
  | .divu => .divu (gOf w) (fD w) (fA w) (fB w)
  | .rem => .rem (gOf w) (fD w) (fA w) (fB w)
  | .remu => .remu (gOf w) (fD w) (fA w) (fB w)
  | .and => .and (gOf w) (fD w) (fA w) (fB w)
  | .or => .or (gOf w) (fD w) (fA w) (fB w)
  | .xor => .xor (gOf w) (fD w) (fA w) (fB w)
  | .andn => .andn (gOf w) (fD w) (fA w) (fB w)
  | .orn => .orn (gOf w) (fD w) (fA w) (fB w)
  | .xnor => .xnor (gOf w) (fD w) (fA w) (fB w)
  | .andi => .andi (fD w) (fA w) (fImm w)
  | .ori => .ori (fD w) (fA w) (fImm w)
  | .xori => .xori (fD w) (fA w) (fImm w)
  | .shl => .shl (gOf w) (fD w) (fA w) (fB w)
  | .shr => .shr (gOf w) (fD w) (fA w) (fB w)
  | .sra => .sra (gOf w) (fD w) (fA w) (fB w)
  | .ror => .ror (gOf w) (fD w) (fA w) (fB w)
  | .shli => .shli (gOf w) (fD w) (fA w) (fB w) (fC w)
  | .shri => .shri (gOf w) (fD w) (fA w) (fB w) (fC w)
  | .srai => .srai (gOf w) (fD w) (fA w) (fB w) (fC w)
  | .rori => .rori (gOf w) (fD w) (fA w) (fB w) (fC w)
  | .min => .min (gOf w) (fD w) (fA w) (fB w)
  | .max => .max (gOf w) (fD w) (fA w) (fB w)
  | .minu => .minu (gOf w) (fD w) (fA w) (fB w)
  | .maxu => .maxu (gOf w) (fD w) (fA w) (fB w)
  | .clz => .clz (gOf w) (fD w) (fA w)
  | .ctz => .ctz (gOf w) (fD w) (fA w)
  | .popc => .popc (gOf w) (fD w) (fA w)
  | .brev => .brev (gOf w) (fD w) (fA w)
  | .sext8 => .sext8 (gOf w) (fD w) (fA w)
  | .sext16 => .sext16 (gOf w) (fD w) (fA w)
  | .sext32 => .sext32 (gOf w) (fD w) (fA w)
  | .zext8 => .zext8 (gOf w) (fD w) (fA w)
  | .zext16 => .zext16 (gOf w) (fD w) (fA w)
  | .zext32 => .zext32 (gOf w) (fD w) (fA w)
  | .cmpeq => .cmpeq (gOf w) (lo3 (fD w)) (fA w) (fB w)
  | .cmpne => .cmpne (gOf w) (lo3 (fD w)) (fA w) (fB w)
  | .cmplt => .cmplt (gOf w) (lo3 (fD w)) (fA w) (fB w)
  | .cmpltu => .cmpltu (gOf w) (lo3 (fD w)) (fA w) (fB w)
  | .cmple => .cmple (gOf w) (lo3 (fD w)) (fA w) (fB w)
  | .cmpleu => .cmpleu (gOf w) (lo3 (fD w)) (fA w) (fB w)
  | .cmpieq => .cmpieq (lo3 (fD w)) (fA w) (fImm w)
  | .cmpilt => .cmpilt (lo3 (fD w)) (fA w) (fImm w)
  | .cmpiltu => .cmpiltu (lo3 (fD w)) (fA w) (fImm w)
  | .sel => .sel (gOf w) (fD w) (fA w) (fB w) (lo3s (fSub w))
  | .pand => .pand (gOf w) (lo3 (fD w)) (lo3 (fA w)) (lo3 (fB w))
  | .por => .por (gOf w) (lo3 (fD w)) (lo3 (fA w)) (lo3 (fB w))
  | .pxor => .pxor (gOf w) (lo3 (fD w)) (lo3 (fA w)) (lo3 (fB w))
  | .pandn => .pandn (gOf w) (lo3 (fD w)) (lo3 (fA w)) (lo3 (fB w))
  | .pnot => .pnot (gOf w) (lo3 (fD w)) (lo3 (fA w))
  | .pget => .pget (gOf w) (fD w)
  | .pset => .pset (gOf w) (fA w)
  | .ldb => .ldb (fD w) (fA w) (fImm w)
  | .ldbu => .ldbu (fD w) (fA w) (fImm w)
  | .ldh => .ldh (fD w) (fA w) (fImm w)
  | .ldhu => .ldhu (fD w) (fA w) (fImm w)
  | .ldw => .ldw (fD w) (fA w) (fImm w)
  | .ldwu => .ldwu (fD w) (fA w) (fImm w)
  | .ldd => .ldd (fD w) (fA w) (fImm w)
  | .stb => .stb (fD w) (fA w) (fImm w)
  | .sth => .sth (fD w) (fA w) (fImm w)
  | .stw => .stw (fD w) (fA w) (fImm w)
  | .std => .std (fD w) (fA w) (fImm w)
  | .ldx => .ldx (gOf w) (fD w) (fA w) (fB w) (top2 (fSub w)) (lo3s (fSub w))
  | .stx => .stx (gOf w) (fD w) (fA w) (fB w) (top2 (fSub w)) (lo2 (fSub w))
  | .aadd => .aadd (gOf w) (fD w) (fA w) (fB w)
  | .aaddw => .aaddw (gOf w) (fD w) (fA w) (fB w)
  | .amin => .amin (gOf w) (fD w) (fA w) (fB w)
  | .amax => .amax (gOf w) (fD w) (fA w) (fB w)
  | .aswap => .aswap (gOf w) (fD w) (fA w) (fB w)
  | .aand => .aand (gOf w) (fD w) (fA w) (fB w)
  | .aor => .aor (gOf w) (fD w) (fA w) (fB w)
  | .afadd => .afadd (gOf w) (fD w) (fA w) (fB w)
  | .acas => .acas (gOf w) (fD w) (fA w) (fB w)
  | .br => .br (fJp w) (fJn w) (fJoff w)
  | .jmp => .jmp (fJoff w)
  | .call => .call (fJoff w)
  | .jmpr => .jmpr (gOf w) (fA w)
  | .loop => .loop (fD w) (fImm w)
  | .exit => .exit
  | .tdfence => .tdfence (gOf w)
  | .mapfence => .mapfence (gOf w)
  | .spfence => .spfence (gOf w)
  | .syncmark => .syncmark (gOf w)
  | .tdw => .tdw (gOf w) (fA w) (fB w) (fSub w)
  | .tdr => .tdr (gOf w) (fD w) (fA w) (fSub w)
  | .crd => .crd (fD w) (fF w)
  | .cwr => .cwr (fA w) (fF w)
  | .rngs => .rngs (gOf w) (fD w)
  | .trap => .trap (fD w) (fA w) (fImm w)
  | .eret => .eret (gOf w) (fA w) (fB w)
  | .mapw => .mapw (gOf w) (fD w) (fA w) (fB w)
  | .haltctx => .haltctx (gOf w) (fD w) (fA w) (fB w)
  | .ctxsv => .ctxsv (gOf w) (fD w) (fA w) (fB w)
  | .ctxrs => .ctxrs (gOf w) (fD w) (fA w) (fB w)
  | .keyz => .keyz (gOf w) (fD w) (fA w)
  | .scrub => .scrub (gOf w) (fD w) (fA w) (fB w)
  | .assign => .assign (gOf w) (fD w) (fA w) (fB w)
  | .vadd => .vadd (fD w) (fA w) (fB w) ⟨fFold w, fM w⟩
  | .vadds => .vadds (fD w) (fA w) (fB w) ⟨fFold w, fM w⟩
  | .vaddsu => .vaddsu (fD w) (fA w) (fB w) ⟨fFold w, fM w⟩
  | .vsub => .vsub (fD w) (fA w) (fB w) ⟨fFold w, fM w⟩
  | .vsubs => .vsubs (fD w) (fA w) (fB w) ⟨fFold w, fM w⟩
  | .vsubsu => .vsubsu (fD w) (fA w) (fB w) ⟨fFold w, fM w⟩
  | .vmul => .vmul (fD w) (fA w) (fB w) ⟨fFold w, fM w⟩
  | .vmulh => .vmulh (fD w) (fA w) (fB w) ⟨fFold w, fM w⟩
  | .vmulhu => .vmulhu (fD w) (fA w) (fB w) ⟨fFold w, fM w⟩
  | .vand => .vand (fD w) (fA w) (fB w) ⟨fFold w, fM w⟩
  | .vor => .vor (fD w) (fA w) (fB w) ⟨fFold w, fM w⟩
  | .vxor => .vxor (fD w) (fA w) (fB w) ⟨fFold w, fM w⟩
  | .vandn => .vandn (fD w) (fA w) (fB w) ⟨fFold w, fM w⟩
  | .vshl => .vshl (fD w) (fA w) (fB w) ⟨fFold w, fM w⟩
  | .vshr => .vshr (fD w) (fA w) (fB w) ⟨fFold w, fM w⟩
  | .vsra => .vsra (fD w) (fA w) (fB w) ⟨fFold w, fM w⟩
  | .vshli => .vshli (fD w) (fA w) (fB w) ⟨fFold w, fM w⟩
  | .vshri => .vshri (fD w) (fA w) (fB w) ⟨fFold w, fM w⟩
  | .vsrai => .vsrai (fD w) (fA w) (fB w) ⟨fFold w, fM w⟩
  | .vmin => .vmin (fD w) (fA w) (fB w) ⟨fFold w, fM w⟩
  | .vmax => .vmax (fD w) (fA w) (fB w) ⟨fFold w, fM w⟩
  | .vminu => .vminu (fD w) (fA w) (fB w) ⟨fFold w, fM w⟩
  | .vmaxu => .vmaxu (fD w) (fA w) (fB w) ⟨fFold w, fM w⟩
  | .vcmpeq => .vcmpeq (lo3 (fD w)) (fA w) (fB w) ⟨fFold w, fM w⟩
  | .vcmpne => .vcmpne (lo3 (fD w)) (fA w) (fB w) ⟨fFold w, fM w⟩
  | .vcmplt => .vcmplt (lo3 (fD w)) (fA w) (fB w) ⟨fFold w, fM w⟩
  | .vcmpltu => .vcmpltu (lo3 (fD w)) (fA w) (fB w) ⟨fFold w, fM w⟩
  | .vcmple => .vcmple (lo3 (fD w)) (fA w) (fB w) ⟨fFold w, fM w⟩
  | .vcmpleu => .vcmpleu (lo3 (fD w)) (fA w) (fB w) ⟨fFold w, fM w⟩
  | .vfadd => .vfadd (fD w) (fA w) (fB w) ⟨fFold w, fM w⟩
  | .vfsub => .vfsub (fD w) (fA w) (fB w) ⟨fFold w, fM w⟩
  | .vfmul => .vfmul (fD w) (fA w) (fB w) ⟨fFold w, fM w⟩
  | .vfma => .vfma (fD w) (fA w) (fB w) ⟨fFold w, fM w⟩
  | .vfnma => .vfnma (fD w) (fA w) (fB w) ⟨fFold w, fM w⟩
  | .vfmin => .vfmin (fD w) (fA w) (fB w) ⟨fFold w, fM w⟩
  | .vfmax => .vfmax (fD w) (fA w) (fB w) ⟨fFold w, fM w⟩
  | .vfcmpeq => .vfcmpeq (lo3 (fD w)) (fA w) (fB w) ⟨fFold w, fM w⟩
  | .vfcmplt => .vfcmplt (lo3 (fD w)) (fA w) (fB w) ⟨fFold w, fM w⟩
  | .vfcmple => .vfcmple (lo3 (fD w)) (fA w) (fB w) ⟨fFold w, fM w⟩
  | .vfcmpun => .vfcmpun (lo3 (fD w)) (fA w) (fB w) ⟨fFold w, fM w⟩
  | .vfabs => .vfabs (fD w) (fA w) ⟨fFold w, fM w⟩
  | .vfneg => .vfneg (fD w) (fA w) ⟨fFold w, fM w⟩
  | .vfsqrt => .vfsqrt (fD w) (fA w) ⟨fFold w, fM w⟩
  | .vrcp => .vrcp (fD w) (fA w) ⟨fFold w, fM w⟩
  | .vrsq => .vrsq (fD w) (fA w) ⟨fFold w, fM w⟩
  | .vexp2 => .vexp2 (fD w) (fA w) ⟨fFold w, fM w⟩
  | .vlog2 => .vlog2 (fD w) (fA w) ⟨fFold w, fM w⟩
  | .vfloor => .vfloor (fD w) (fA w) ⟨fFold w, fM w⟩
  | .vfceil => .vfceil (fD w) (fA w) ⟨fFold w, fM w⟩
  | .vfrint => .vfrint (fD w) (fA w) ⟨fFold w, fM w⟩
  | .vcvtfi => .vcvtfi (fD w) (fA w) ⟨fFold w, fM w⟩
  | .vcvtfit => .vcvtfit (fD w) (fA w) ⟨fFold w, fM w⟩
  | .vcvtif => .vcvtif (fD w) (fA w) ⟨fFold w, fM w⟩
  | .vcvtfb => .vcvtfb (fD w) (fA w) (fB w) ⟨fFold w, fM w⟩
  | .vcvtbfl => .vcvtbfl (fD w) (fA w) ⟨fFold w, fM w⟩
  | .vcvtbfh => .vcvtbfh (fD w) (fA w) ⟨fFold w, fM w⟩
  | .vdot2 => .vdot2 (fD w) (fA w) (fB w) ⟨fFold w, fM w⟩
  | .vdot4 => .vdot4 (fD w) (fA w) (fB w) ⟨fFold w, fM w⟩
  | .vdot4us => .vdot4us (fD w) (fA w) (fB w) ⟨fFold w, fM w⟩
  | .vqma => .vqma (lo3 (fD w)) (fA w) (fB w) ⟨fFold w, fM w⟩
  | .vqmai => .vqmai (lo3 (fD w)) (fA w) (fB w) ⟨fFold w, fM w⟩
  | .vqnarf => .vqnarf (fD w) (lo3 (fA w)) ⟨fFold w, fM w⟩
  | .vqnars => .vqnars (fD w) (lo3 (fA w)) ⟨fFold w, fM w⟩
  | .vqnarw => .vqnarw (fD w) (lo3 (fA w)) ⟨fFold w, fM w⟩
  | .vqclr => .vqclr (lo3 (fD w)) ⟨fFold w, fM w⟩
  | .vqwf => .vqwf (lo3 (fD w)) (fA w) ⟨fFold w, fM w⟩
  | .vqwi => .vqwi (lo3 (fD w)) (fA w) ⟨fFold w, fM w⟩
  | .vredadd => .vredadd (fD w) (fA w) (fFold w)
  | .vredfadd => .vredfadd (fD w) (fA w) (fFold w)
  | .vredmin => .vredmin (fD w) (fA w) (fFold w)
  | .vredmax => .vredmax (fD w) (fA w) (fFold w)
  | .vredfmin => .vredfmin (fD w) (fA w) (fFold w)
  | .vredfmax => .vredfmax (fD w) (fA w) (fFold w)
  | .vbcst => .vbcst (fD w) (fA w) ⟨fFold w, fM w⟩
  | .vextr => .vextr (fD w) (fA w) (fSub w)
  | .vins => .vins (fD w) (fA w) (fSub w)
  | .viota => .viota (fD w) ⟨fFold w, fM w⟩
  | .vperm => .vperm (fD w) (fA w) (fB w) ⟨fFold w, fM w⟩
  | .vslup => .vslup (fD w) (fA w) (fB w) ⟨fFold w, fM w⟩
  | .vsldn => .vsldn (fD w) (fA w) (fB w) ⟨fFold w, fM w⟩
  | .vcmpr => .vcmpr (fD w) (fA w) (fFold w) (fM w)
  | .mand => .mand (lo3 (fD w)) (lo3 (fA w)) (lo3 (fB w)) (fFold w)
  | .mor => .mor (lo3 (fD w)) (lo3 (fA w)) (lo3 (fB w)) (fFold w)
  | .mxor => .mxor (lo3 (fD w)) (lo3 (fA w)) (lo3 (fB w)) (fFold w)
  | .mnot => .mnot (lo3 (fD w)) (lo3 (fA w)) (fFold w)
  | .mpop => .mpop (fD w) (lo3 (fA w)) (fFold w)
  | .mfirst => .mfirst (fD w) (lo3 (fA w)) (fFold w)
  | .mset => .mset (lo3 (fD w)) (fA w) (fFold w)
  | .mget => .mget (fD w) (lo3 (fA w)) (fFold w)
  | .vsel => .vsel (fD w) (fA w) (fB w) (fFold w) (fM w)
  | .vldW => .vldW (fD w) (fA w) (fB w) ⟨fFold w, fM w⟩
  | .vldH => .vldH (fD w) (fA w) (fB w) ⟨fFold w, fM w⟩
  | .vldHu => .vldHu (fD w) (fA w) (fB w) ⟨fFold w, fM w⟩
  | .vldB => .vldB (fD w) (fA w) (fB w) ⟨fFold w, fM w⟩
  | .vldBu => .vldBu (fD w) (fA w) (fB w) ⟨fFold w, fM w⟩
  | .vstW => .vstW (fD w) (fA w) (fB w) ⟨fFold w, fM w⟩
  | .vstH => .vstH (fD w) (fA w) (fB w) ⟨fFold w, fM w⟩
  | .vstB => .vstB (fD w) (fA w) (fB w) ⟨fFold w, fM w⟩
  | .vgath => .vgath (fD w) (fA w) (fB w) ⟨fFold w, fM w⟩
  | .vscat => .vscat (fD w) (fA w) (fB w) ⟨fFold w, fM w⟩
  | .vsortS => .vsortS (fD w) (fA w) (fFold w)
  | .vsortF => .vsortF (fD w) (fA w) (fFold w)
  | .vsortU => .vsortU (fD w) (fA w) (fFold w)
  | .vruns => .vruns (lo3 (fD w)) (fA w) (fFold w)
  | .vsegadd => .vsegadd (fD w) (fA w) (fFold w) (fM w)
  | .vsegfadd => .vsegfadd (fD w) (fA w) (fFold w) (fM w)
  | .vrng => .vrng (fD w) ⟨fFold w, fM w⟩
  | .vbfpq => .vbfpq (fD w) (fA w) (fFold w) (lo3s (fSub w))
  | .vbfpx => .vbfpx (fD w) (fA w) (fFold w)
  | .vt5pk => .vt5pk (fD w) (fA w) (fFold w)
  | .vt5up => .vt5up (fD w) (fA w) (fFold w)
  | .tld => .tld (lo3 (fD w)) (fA w) (fB w)
  | .tst => .tst (lo3 (fD w)) (fA w) (fB w)
  | .twin => .twin (lo3 (fD w)) (fA w) (fB w)
  | .tzero => .tzero (lo3 (fD w))
  | .tmmaBf16 => .tmmaBf16 (fD w) (lo3 (fA w)) (lo3 (fB w))
  | .tmmaBfp => .tmmaBfp (fD w) (lo3 (fA w)) (lo3 (fB w))
  | .tmmaI8 => .tmmaI8 (fD w) (lo3 (fA w)) (lo3 (fB w))
  | .tmmaBf16W => .tmmaBf16W (fD w) (lo3 (fA w)) (lo3 (fB w))
  | .tmmaBfpW => .tmmaBfpW (fD w) (lo3 (fA w)) (lo3 (fB w))
  | .tmmaI8W => .tmmaI8W (fD w) (lo3 (fA w)) (lo3 (fB w))
  | .ttrn => .ttrn (lo3 (fD w)) (lo3 (fA w))
  | .trowv => .trowv (fD w) (lo3 (fA w)) (fB w)
  | .tvrow => .tvrow (lo3 (fD w)) (fA w) (fB w)
  | .xclr => .xclr
  | .xswap => .xswap
  | .xsave => .xsave (fA w)
  | .xload => .xload (fA w)
  | .pcopy => .pcopy (passOf w ext)
  | .pgath => .pgath (passOf w ext)
  | .pscanSumi => .pscanSumi (passOf w ext)
  | .pscanSumf => .pscanSumf (passOf w ext)
  | .pscanMin => .pscanMin (passOf w ext)
  | .pscanMax => .pscanMax (passOf w ext)
  | .pscanCount => .pscanCount (passOf w ext)
  | .pfilt => .pfilt (passOf w ext)
  | .pput => .pput (passOf w ext)
  | .pupdAddi32 => .pupdAddi32 (passOf w ext)
  | .pupdAddf32 => .pupdAddf32 (passOf w ext)
  | .pupdMini32 => .pupdMini32 (passOf w ext)
  | .pupdMaxi32 => .pupdMaxi32 (passOf w ext)
  | .pupdAnd => .pupdAnd (passOf w ext)
  | .pupdOr => .pupdOr (passOf w ext)
  | .pupdXor => .pupdXor (passOf w ext)
  | .pupdSwap => .pupdSwap (passOf w ext)
  | .pupdoAddf32 => .pupdoAddf32 (passOf w ext)
  | .pupdoAddi32 => .pupdoAddi32 (passOf w ext)
  | .pcmt => .pcmt (passOf w ext)
  | .padam => .padam (passOf w ext)
  | .pzero => .pzero (passOf w ext)
  | .pzeroPhys => .pzeroPhys (passOf w ext)
  | .phostIn => .phostIn (passOf w ext)
  | .phostOut => .phostOut (passOf w ext)
  | .pmatWrite => .pmatWrite (passOf w ext)
  | .pmatAccum => .pmatAccum (passOf w ext)
  | .preop => .preop (fA w)
  | .pcanc => .pcanc (fA w)
  | .pfence => .pfence
  | .twany => .twany (fA w)
  | .twall => .twall (fA w)
  | .tfirst => .tfirst (fD w) (fA w)
  | .tclr => .tclr (fA w)
  | .cwait => .cwait (fA w)
  | .prnd => .prnd
  | .lsendV => .lsendV (fA w) (fFold w) (fPort w)
  | .lsendS => .lsendS (fA w) (fPort w)
  | .lrecv => .lrecv (fD w) (fFold w) (fPort w)
  | .lput => .lput (fA w) (fB w) (fFold w) (fPort w)
  | .lamoAdd32 => .lamoAdd32 (fA w) (fB w) (fFold w) (fPort w)
  | .lamoFadd32 => .lamoFadd32 (fA w) (fB w) (fFold w) (fPort w)
  | .lamoMin32 => .lamoMin32 (fA w) (fB w) (fFold w) (fPort w)
  | .lamoMax32 => .lamoMax32 (fA w) (fB w) (fFold w) (fPort w)
  | .barDie => .barDie (lo4 (fD w))
  | .barLaunch => .barLaunch (lo4 (fD w))
  | .barSys => .barSys (lo4 (fD w))
  | .baraDie => .baraDie (lo4 (fD w))
  | .baraLaunch => .baraLaunch (lo4 (fD w))
  | .baraSys => .baraSys (lo4 (fD w))
  | .barw => .barw (lo4 (fD w))
  | .cbacq => .cbacq (fD w) (fA w)
  | .cbcomLocal => .cbcomLocal (fA w)
  | .cbcomRemote => .cbcomRemote (fA w) (fB w) (fFold w) (fPort w)
  | .cbwait => .cbwait (fD w) (fA w)
  | .cbrel => .cbrel (fA w)
  | .belay => .belay (fA w)
  | .waitt => .waitt (fA w)
  | .tstmp => .tstmp (fD w)
  | .launch => .launch (fA w)
  | .ljoin => .ljoin (fA w)

/-- The instruction that the opcode and sub-function of a word name in a slot, where they are assigned. -/
def lookup (k : Slot) (w : W32) : Option Mn :=
  match k with
  | .s => lookupS (fOp w).toNat (fSub w).toNat
  | .v => lookupV (fOp w).toNat (fSub w).toNat
  | .t => lookupT (fOp w).toNat (fSub w).toNat
  | .w => lookupW (fOp w).toNat (fSub5 w).toNat
  | .l => lookupL (fOp w).toNat (fSub5 w).toNat (decide (fPort w = 15#4))

/-- The instruction of a word in a given slot, or why it is none: the map, then zero fields and limits of its entry (R97). -/
def classify (k : Slot) (w ext : W32) : Except Reject Mn :=
  match lookup k w with
  | none => .error .badOp
  | some m => if Mn.zerosOk m w && Mn.limitsOk m w ext then .ok m else .error (.resv (Mn.isSup m))

/-- Reads a word in a given slot. -/
noncomputable def decodeSlot (k : Slot) (w ext : W32) : Except Reject Instr :=
  match classify k w ext with
  | .ok m => .ok (buildInstr m w ext)
  | .error e => .error e

/-- Whether a word is followed by an extension word in its slot (R92). -/
def isLong (k : Slot) (w : W32) : Bool :=
  match k with
  | .s => decide (fOp w = 0x06#6)
  | .w => decide (1 ≤ (fOp w).toNat ∧ (fOp w).toNat ≤ 12)
  | _ => false

/-- One row of a program: a row-store entry of eight words (R94). -/
structure RowWords where
  header : W32
  s : W32
  sx : W32
  v : W32
  t : W32
  w : W32
  wx : W32
  l : W32
  deriving DecidableEq, Repr

/-- Bits of the row header (R91). -/
def RowWords.uses (r : RowWords) : Slot → Bool
  | .s => r.header.getLsbD 31
  | .v => r.header.getLsbD 30
  | .t => r.header.getLsbD 29
  | .w => r.header.getLsbD 28
  | .l => r.header.getLsbD 27
/-- Extra beats before the next row (R91). -/
def RowWords.gap (r : RowWords) : Byte := r.header.extractLsb' 19 8
/-- Breakpoint (R91). -/
def RowWords.brk (r : RowWords) : Bool := r.header.getLsbD 18
/-- Legal target of `JMPR` (R91). -/
def RowWords.itgt (r : RowWords) : Bool := r.header.getLsbD 17
/-- The word of a slot and its extension word. -/
def RowWords.word (r : RowWords) : Slot → W32 × W32
  | .s => (r.s, r.sx)
  | .v => (r.v, 0#32)
  | .t => (r.t, 0#32)
  | .w => (r.w, r.wx)
  | .l => (r.l, 0#32)

/-- The slots in their order (R92). -/
def Slot.all : List Slot := [.s, .v, .t, .w, .l]

/-- The instructions of a row in slot order, or why one is none. -/
noncomputable def RowWords.decodeFrom (r : RowWords) : List Slot → Except Reject (List Instr)
  | [] => .ok []
  | k :: ks =>
    if r.uses k then
      match decodeSlot k (r.word k).1 (r.word k).2 with
      | .error e => .error e
      | .ok i =>
        match r.decodeFrom ks with
        | .error e => .error e
        | .ok is => .ok (i :: is)
    else r.decodeFrom ks

/-- The instructions of a row in slot order. -/
noncomputable def RowWords.decode (r : RowWords) : Except Reject (List Instr) := r.decodeFrom Slot.all

/-- The row that holds one slot word and nothing else: its header has the slot's mask bit (R91). -/
def RowWords.single (k : Slot) (w ext : W32) : RowWords :=
  match k with
  | .s => ⟨0x80000000#32, w, if isLong .s w then ext else 0#32, 0#32, 0#32, 0#32, 0#32, 0#32⟩
  | .v => ⟨0x40000000#32, 0#32, 0#32, w, 0#32, 0#32, 0#32, 0#32⟩
  | .t => ⟨0x20000000#32, 0#32, 0#32, 0#32, w, 0#32, 0#32, 0#32⟩
  | .w => ⟨0x10000000#32, 0#32, 0#32, 0#32, 0#32, w, if isLong .w w then ext else 0#32, 0#32⟩
  | .l => ⟨0x08000000#32, 0#32, 0#32, 0#32, 0#32, 0#32, 0#32, w⟩

/-- The slots used by a row, each with its instruction and its words, or the slot and reason that one is none. -/
def RowWords.classifyFrom (r : RowWords) : List Slot → Except (Slot × Reject) (List (Slot × Mn))
  | [] => .ok []
  | k :: ks =>
    if r.uses k then
      match classify k (r.word k).1 (r.word k).2 with
      | .error e => .error (k, e)
      | .ok m =>
        match r.classifyFrom ks with
        | .error e => .error e
        | .ok ms => .ok ((k, m) :: ms)
    else r.classifyFrom ks

/-- Split a stream of words into rows, each at most eight words long (R92 to R94); `none` where it ends inside a row.
`fuel` bounds the number of rows. -/
def takeSlots (ks : List Slot) (h : W32) (ws : List W32) : Option (List (Slot × W32 × W32) × List W32) :=
  match ks with
  | [] => some ([], ws)
  | k :: ks =>
    if RowWords.uses ⟨h, 0#32, 0#32, 0#32, 0#32, 0#32, 0#32, 0#32⟩ k then
      match ws with
      | [] => none
      | w :: ws =>
        if isLong k w then
          match ws with
          | [] => none
          | x :: ws => (takeSlots ks h ws).map (fun p => ((k, w, x) :: p.1, p.2))
        else (takeSlots ks h ws).map (fun p => ((k, w, 0#32) :: p.1, p.2))
    else takeSlots ks h ws

/-- Lay one slot word into its row-store places (R94). -/
def RowWords.put (r : RowWords) (e : Slot × W32 × W32) : RowWords :=
  match e.1 with
  | .s => { r with s := e.2.1, sx := e.2.2 }
  | .v => { r with v := e.2.1 }
  | .t => { r with t := e.2.1 }
  | .w => { r with w := e.2.1, wx := e.2.2 }
  | .l => { r with l := e.2.1 }

/-- The row at the head of a stream and the rest of the stream. -/
def takeRow (ws : List W32) : Option (RowWords × List W32) :=
  match ws with
  | [] => none
  | h :: ws =>
    match takeSlots Slot.all h ws with
    | none => none
    | some (es, rest) => some (es.foldl RowWords.put ⟨h, 0#32, 0#32, 0#32, 0#32, 0#32, 0#32, 0#32⟩, rest)

/-- Exactly `n` rows that use up the whole stream (R93). -/
def takeRows : Nat → List W32 → Option (List RowWords)
  | 0, ws => if ws = [] then some [] else none
  | n + 1, ws =>
    match takeRow ws with
    | none => none
    | some (r, rest) => (takeRows n rest).map (fun rs => r :: rs)

/-- The first of the slots S, V, T, W, L in which a word is an instruction (log 3). -/
noncomputable def decodeFirst (ks : List Slot) (w ext : W32) : Option (Slot × Instr) :=
  match ks with
  | [] => none
  | k :: ks =>
    match decodeSlot k w ext with
    | .ok i => some (k, i)
    | .error _ => decodeFirst ks w ext

/-- The instruction that the decoder reads from a word numbered as the opcode table numbers it: the slot word in bits 31 to
0 and, for a long word, the extension word in bits 63 to 32. One word can be an instruction of several slots: the first slot
in the order S, V, T, W, L in which it is one is taken (log 3). The bits above `nbits` are zero. -/
noncomputable def decodeTableWord (nbits w : Nat) : Option Instr :=
  let v := w % 2 ^ nbits
  (decodeFirst Slot.all (BitVec.ofNat 32 v) (BitVec.ofNat 32 (v / 2 ^ 32))).map (fun p => p.2)

/-- The slot, the word and the extension word (0 where there is none) of an instruction of a slot, from the same maps
(R105 to R107, R112 to R116); a step of the device has no word. -/
def encode : Instr → Option (Slot × W32 × W32)
  | .add g d a b => some (.s, wR 0x01#6 d a b g 0#1 0#6, 0#32)
  | .sub g d a b => some (.s, wR 0x02#6 d a b g 0#1 0#6, 0#32)
  | .addi d a imm => some (.s, wI 0x03#6 d a imm, 0#32)
  | .ldi d imm => some (.s, wI 0x04#6 d 0#5 imm, 0#32)
  | .lui d imm => some (.s, wI 0x05#6 d 0#5 imm, 0#32)
  | .ldk d k => some (.s, wI 0x06#6 d 0#5 0#16, k)
  | .mul g d a b => some (.s, wR 0x07#6 d a b g 0#1 0#6, 0#32)
  | .mulh g d a b => some (.s, wR 0x08#6 d a b g 0#1 0#6, 0#32)
  | .mulhu g d a b => some (.s, wR 0x08#6 d a b g 0#1 1#6, 0#32)
  | .div g d a b => some (.s, wR 0x09#6 d a b g 0#1 0#6, 0#32)
  | .divu g d a b => some (.s, wR 0x09#6 d a b g 0#1 1#6, 0#32)
  | .rem g d a b => some (.s, wR 0x09#6 d a b g 0#1 2#6, 0#32)
  | .remu g d a b => some (.s, wR 0x09#6 d a b g 0#1 3#6, 0#32)
  | .and g d a b => some (.s, wR 0x0A#6 d a b g 0#1 0#6, 0#32)
  | .or g d a b => some (.s, wR 0x0A#6 d a b g 0#1 1#6, 0#32)
  | .xor g d a b => some (.s, wR 0x0A#6 d a b g 0#1 2#6, 0#32)
  | .andn g d a b => some (.s, wR 0x0A#6 d a b g 0#1 3#6, 0#32)
  | .orn g d a b => some (.s, wR 0x0A#6 d a b g 0#1 4#6, 0#32)
  | .xnor g d a b => some (.s, wR 0x0A#6 d a b g 0#1 5#6, 0#32)
  | .andi d a imm => some (.s, wI 0x0B#6 d a imm, 0#32)
  | .ori d a imm => some (.s, wI 0x0C#6 d a imm, 0#32)
  | .xori d a imm => some (.s, wI 0x0D#6 d a imm, 0#32)
  | .shl g d a b => some (.s, wR 0x0E#6 d a b g 0#1 0#6, 0#32)
  | .shr g d a b => some (.s, wR 0x0E#6 d a b g 0#1 1#6, 0#32)
  | .sra g d a b => some (.s, wR 0x0E#6 d a b g 0#1 2#6, 0#32)
  | .ror g d a b => some (.s, wR 0x0E#6 d a b g 0#1 3#6, 0#32)
  | .shli g d a b c => some (.s, wR 0x0F#6 d a b g c 0#6, 0#32)
  | .shri g d a b c => some (.s, wR 0x0F#6 d a b g c 1#6, 0#32)
  | .srai g d a b c => some (.s, wR 0x0F#6 d a b g c 2#6, 0#32)
  | .rori g d a b c => some (.s, wR 0x0F#6 d a b g c 3#6, 0#32)
  | .min g d a b => some (.s, wR 0x10#6 d a b g 0#1 0#6, 0#32)
  | .max g d a b => some (.s, wR 0x10#6 d a b g 0#1 1#6, 0#32)
  | .minu g d a b => some (.s, wR 0x10#6 d a b g 0#1 2#6, 0#32)
  | .maxu g d a b => some (.s, wR 0x10#6 d a b g 0#1 3#6, 0#32)
  | .clz g d a => some (.s, wR 0x11#6 d a 0#5 g 0#1 0#6, 0#32)
  | .ctz g d a => some (.s, wR 0x11#6 d a 0#5 g 0#1 1#6, 0#32)
  | .popc g d a => some (.s, wR 0x11#6 d a 0#5 g 0#1 2#6, 0#32)
  | .brev g d a => some (.s, wR 0x11#6 d a 0#5 g 0#1 3#6, 0#32)
  | .sext8 g d a => some (.s, wR 0x12#6 d a 0#5 g 0#1 0#6, 0#32)
  | .sext16 g d a => some (.s, wR 0x12#6 d a 0#5 g 0#1 1#6, 0#32)
  | .sext32 g d a => some (.s, wR 0x12#6 d a 0#5 g 0#1 2#6, 0#32)
  | .zext8 g d a => some (.s, wR 0x12#6 d a 0#5 g 0#1 3#6, 0#32)
  | .zext16 g d a => some (.s, wR 0x12#6 d a 0#5 g 0#1 4#6, 0#32)
  | .zext32 g d a => some (.s, wR 0x12#6 d a 0#5 g 0#1 5#6, 0#32)
  | .cmpeq g d a b => some (.s, wR 0x13#6 (0#2 ++ d) a b g 0#1 0#6, 0#32)
  | .cmpne g d a b => some (.s, wR 0x13#6 (0#2 ++ d) a b g 0#1 1#6, 0#32)
  | .cmplt g d a b => some (.s, wR 0x13#6 (0#2 ++ d) a b g 0#1 2#6, 0#32)
  | .cmpltu g d a b => some (.s, wR 0x13#6 (0#2 ++ d) a b g 0#1 3#6, 0#32)
  | .cmple g d a b => some (.s, wR 0x13#6 (0#2 ++ d) a b g 0#1 4#6, 0#32)
  | .cmpleu g d a b => some (.s, wR 0x13#6 (0#2 ++ d) a b g 0#1 5#6, 0#32)
  | .cmpieq d a imm => some (.s, wI 0x14#6 (0#2 ++ d) a imm, 0#32)
  | .cmpilt d a imm => some (.s, wI 0x15#6 (0#2 ++ d) a imm, 0#32)
  | .cmpiltu d a imm => some (.s, wI 0x16#6 (0#2 ++ d) a imm, 0#32)
  | .sel g d a b k => some (.s, wR 0x17#6 d a b g 0#1 (0#3 ++ k), 0#32)
  | .pand g d a b => some (.s, wR 0x18#6 (0#2 ++ d) (0#2 ++ a) (0#2 ++ b) g 0#1 0#6, 0#32)
  | .por g d a b => some (.s, wR 0x18#6 (0#2 ++ d) (0#2 ++ a) (0#2 ++ b) g 0#1 1#6, 0#32)
  | .pxor g d a b => some (.s, wR 0x18#6 (0#2 ++ d) (0#2 ++ a) (0#2 ++ b) g 0#1 2#6, 0#32)
  | .pandn g d a b => some (.s, wR 0x18#6 (0#2 ++ d) (0#2 ++ a) (0#2 ++ b) g 0#1 3#6, 0#32)
  | .pnot g d a => some (.s, wR 0x18#6 (0#2 ++ d) (0#2 ++ a) 0#5 g 0#1 4#6, 0#32)
  | .pget g d => some (.s, wR 0x19#6 d 0#5 0#5 g 0#1 0#6, 0#32)
  | .pset g a => some (.s, wR 0x19#6 0#5 a 0#5 g 0#1 1#6, 0#32)
  | .ldb d a imm => some (.s, wI 0x1A#6 d a imm, 0#32)
  | .ldbu d a imm => some (.s, wI 0x1B#6 d a imm, 0#32)
  | .ldh d a imm => some (.s, wI 0x1C#6 d a imm, 0#32)
  | .ldhu d a imm => some (.s, wI 0x1D#6 d a imm, 0#32)
  | .ldw d a imm => some (.s, wI 0x1E#6 d a imm, 0#32)
  | .ldwu d a imm => some (.s, wI 0x1F#6 d a imm, 0#32)
  | .ldd d a imm => some (.s, wI 0x20#6 d a imm, 0#32)
  | .stb d a imm => some (.s, wI 0x21#6 d a imm, 0#32)
  | .sth d a imm => some (.s, wI 0x22#6 d a imm, 0#32)
  | .stw d a imm => some (.s, wI 0x23#6 d a imm, 0#32)
  | .std d a imm => some (.s, wI 0x24#6 d a imm, 0#32)
  | .ldx g d a b s w => some (.s, wR 0x25#6 d a b g 0#1 (s ++ 0#1 ++ w), 0#32)
  | .stx g d a b s w => some (.s, wR 0x26#6 d a b g 0#1 (s ++ 0#2 ++ w), 0#32)
  | .aadd g d a b => some (.s, wR 0x27#6 d a b g 0#1 0#6, 0#32)
  | .aaddw g d a b => some (.s, wR 0x27#6 d a b g 0#1 1#6, 0#32)
  | .amin g d a b => some (.s, wR 0x27#6 d a b g 0#1 2#6, 0#32)
  | .amax g d a b => some (.s, wR 0x27#6 d a b g 0#1 3#6, 0#32)
  | .aswap g d a b => some (.s, wR 0x27#6 d a b g 0#1 4#6, 0#32)
  | .aand g d a b => some (.s, wR 0x27#6 d a b g 0#1 5#6, 0#32)
  | .aor g d a b => some (.s, wR 0x27#6 d a b g 0#1 6#6, 0#32)
  | .afadd g d a b => some (.s, wR 0x27#6 d a b g 0#1 7#6, 0#32)
  | .acas g d a b => some (.s, wR 0x27#6 d a b g 0#1 8#6, 0#32)
  | .br p neg off => some (.s, wJ 0x28#6 p neg off, 0#32)
  | .jmp off => some (.s, wJ 0x29#6 0#3 0#1 off, 0#32)
  | .call off => some (.s, wJ 0x2A#6 0#3 0#1 off, 0#32)
  | .jmpr g a => some (.s, wR 0x2B#6 0#5 a 0#5 g 0#1 0#6, 0#32)
  | .loop d imm => some (.s, wI 0x2C#6 d 0#5 imm, 0#32)
  | .exit => some (.s, wR 0x2D#6 0#5 0#5 0#5 ⟨0#3, 0#1⟩ 0#1 0#6, 0#32)
  | .tdfence g => some (.s, wR 0x2E#6 0#5 0#5 0#5 g 0#1 0#6, 0#32)
  | .mapfence g => some (.s, wR 0x2E#6 0#5 0#5 0#5 g 0#1 1#6, 0#32)
  | .spfence g => some (.s, wR 0x2E#6 0#5 0#5 0#5 g 0#1 2#6, 0#32)
  | .syncmark g => some (.s, wR 0x2E#6 0#5 0#5 0#5 g 0#1 3#6, 0#32)
  | .tdw g a b f => some (.s, wR 0x2F#6 0#5 a b g 0#1 f, 0#32)
  | .tdr g d a f => some (.s, wR 0x30#6 d a 0#5 g 0#1 f, 0#32)
  | .crd d cr => some (.s, wI 0x31#6 d 0#5 (0#5 ++ cr), 0#32)
  | .cwr a cr => some (.s, wI 0x32#6 0#5 a (0#5 ++ cr), 0#32)
  | .rngs g d => some (.s, wR 0x33#6 d 0#5 0#5 g 0#1 0#6, 0#32)
  | .trap d a imm => some (.s, wI 0x34#6 d a imm, 0#32)
  | .eret g a b => some (.s, wR 0x35#6 0#5 a b g 0#1 0#6, 0#32)
  | .mapw g d a b => some (.s, wR 0x36#6 d a b g 0#1 0#6, 0#32)
  | .haltctx g d a b => some (.s, wR 0x37#6 d a b g 0#1 0#6, 0#32)
  | .ctxsv g d a b => some (.s, wR 0x38#6 d a b g 0#1 0#6, 0#32)
  | .ctxrs g d a b => some (.s, wR 0x39#6 d a b g 0#1 0#6, 0#32)
  | .keyz g d a => some (.s, wR 0x3A#6 d a 0#5 g 0#1 0#6, 0#32)
  | .scrub g d a b => some (.s, wR 0x3B#6 d a b g 0#1 0#6, 0#32)
  | .assign g d a b => some (.s, wR 0x3C#6 d a b g 0#1 0#6, 0#32)
  | .vadd d a b c => some (.v, wV 0x01#6 d a b c.fold c.m 0#6, 0#32)
  | .vadds d a b c => some (.v, wV 0x01#6 d a b c.fold c.m 1#6, 0#32)
  | .vaddsu d a b c => some (.v, wV 0x01#6 d a b c.fold c.m 2#6, 0#32)
  | .vsub d a b c => some (.v, wV 0x02#6 d a b c.fold c.m 0#6, 0#32)
  | .vsubs d a b c => some (.v, wV 0x02#6 d a b c.fold c.m 1#6, 0#32)
  | .vsubsu d a b c => some (.v, wV 0x02#6 d a b c.fold c.m 2#6, 0#32)
  | .vmul d a b c => some (.v, wV 0x03#6 d a b c.fold c.m 0#6, 0#32)
  | .vmulh d a b c => some (.v, wV 0x03#6 d a b c.fold c.m 1#6, 0#32)
  | .vmulhu d a b c => some (.v, wV 0x03#6 d a b c.fold c.m 2#6, 0#32)
  | .vand d a b c => some (.v, wV 0x04#6 d a b c.fold c.m 0#6, 0#32)
  | .vor d a b c => some (.v, wV 0x04#6 d a b c.fold c.m 1#6, 0#32)
  | .vxor d a b c => some (.v, wV 0x04#6 d a b c.fold c.m 2#6, 0#32)
  | .vandn d a b c => some (.v, wV 0x04#6 d a b c.fold c.m 3#6, 0#32)
  | .vshl d a b c => some (.v, wV 0x05#6 d a b c.fold c.m 0#6, 0#32)
  | .vshr d a b c => some (.v, wV 0x05#6 d a b c.fold c.m 1#6, 0#32)
  | .vsra d a b c => some (.v, wV 0x05#6 d a b c.fold c.m 2#6, 0#32)
  | .vshli d a b c => some (.v, wV 0x06#6 d a b c.fold c.m 0#6, 0#32)
  | .vshri d a b c => some (.v, wV 0x06#6 d a b c.fold c.m 1#6, 0#32)
  | .vsrai d a b c => some (.v, wV 0x06#6 d a b c.fold c.m 2#6, 0#32)
  | .vmin d a b c => some (.v, wV 0x07#6 d a b c.fold c.m 0#6, 0#32)
  | .vmax d a b c => some (.v, wV 0x07#6 d a b c.fold c.m 1#6, 0#32)
  | .vminu d a b c => some (.v, wV 0x07#6 d a b c.fold c.m 2#6, 0#32)
  | .vmaxu d a b c => some (.v, wV 0x07#6 d a b c.fold c.m 3#6, 0#32)
  | .vcmpeq d a b c => some (.v, wV 0x08#6 (0#2 ++ d) a b c.fold c.m 0#6, 0#32)
  | .vcmpne d a b c => some (.v, wV 0x08#6 (0#2 ++ d) a b c.fold c.m 1#6, 0#32)
  | .vcmplt d a b c => some (.v, wV 0x08#6 (0#2 ++ d) a b c.fold c.m 2#6, 0#32)
  | .vcmpltu d a b c => some (.v, wV 0x08#6 (0#2 ++ d) a b c.fold c.m 3#6, 0#32)
  | .vcmple d a b c => some (.v, wV 0x08#6 (0#2 ++ d) a b c.fold c.m 4#6, 0#32)
  | .vcmpleu d a b c => some (.v, wV 0x08#6 (0#2 ++ d) a b c.fold c.m 5#6, 0#32)
  | .vfadd d a b c => some (.v, wV 0x09#6 d a b c.fold c.m 0#6, 0#32)
  | .vfsub d a b c => some (.v, wV 0x0A#6 d a b c.fold c.m 0#6, 0#32)
  | .vfmul d a b c => some (.v, wV 0x0B#6 d a b c.fold c.m 0#6, 0#32)
  | .vfma d a b c => some (.v, wV 0x0C#6 d a b c.fold c.m 0#6, 0#32)
  | .vfnma d a b c => some (.v, wV 0x0D#6 d a b c.fold c.m 0#6, 0#32)
  | .vfmin d a b c => some (.v, wV 0x0E#6 d a b c.fold c.m 0#6, 0#32)
  | .vfmax d a b c => some (.v, wV 0x0E#6 d a b c.fold c.m 1#6, 0#32)
  | .vfcmpeq d a b c => some (.v, wV 0x0F#6 (0#2 ++ d) a b c.fold c.m 0#6, 0#32)
  | .vfcmplt d a b c => some (.v, wV 0x0F#6 (0#2 ++ d) a b c.fold c.m 1#6, 0#32)
  | .vfcmple d a b c => some (.v, wV 0x0F#6 (0#2 ++ d) a b c.fold c.m 2#6, 0#32)
  | .vfcmpun d a b c => some (.v, wV 0x0F#6 (0#2 ++ d) a b c.fold c.m 3#6, 0#32)
  | .vfabs d a c => some (.v, wV 0x10#6 d a 0#5 c.fold c.m 0#6, 0#32)
  | .vfneg d a c => some (.v, wV 0x10#6 d a 0#5 c.fold c.m 1#6, 0#32)
  | .vfsqrt d a c => some (.v, wV 0x10#6 d a 0#5 c.fold c.m 2#6, 0#32)
  | .vrcp d a c => some (.v, wV 0x10#6 d a 0#5 c.fold c.m 3#6, 0#32)
  | .vrsq d a c => some (.v, wV 0x10#6 d a 0#5 c.fold c.m 4#6, 0#32)
  | .vexp2 d a c => some (.v, wV 0x10#6 d a 0#5 c.fold c.m 5#6, 0#32)
  | .vlog2 d a c => some (.v, wV 0x10#6 d a 0#5 c.fold c.m 6#6, 0#32)
  | .vfloor d a c => some (.v, wV 0x10#6 d a 0#5 c.fold c.m 7#6, 0#32)
  | .vfceil d a c => some (.v, wV 0x10#6 d a 0#5 c.fold c.m 8#6, 0#32)
  | .vfrint d a c => some (.v, wV 0x10#6 d a 0#5 c.fold c.m 9#6, 0#32)
  | .vcvtfi d a c => some (.v, wV 0x11#6 d a 0#5 c.fold c.m 0#6, 0#32)
  | .vcvtfit d a c => some (.v, wV 0x11#6 d a 0#5 c.fold c.m 1#6, 0#32)
  | .vcvtif d a c => some (.v, wV 0x11#6 d a 0#5 c.fold c.m 2#6, 0#32)
  | .vcvtfb d a b c => some (.v, wV 0x11#6 d a b c.fold c.m 3#6, 0#32)
  | .vcvtbfl d a c => some (.v, wV 0x11#6 d a 0#5 c.fold c.m 4#6, 0#32)
  | .vcvtbfh d a c => some (.v, wV 0x11#6 d a 0#5 c.fold c.m 5#6, 0#32)
  | .vdot2 d a b c => some (.v, wV 0x12#6 d a b c.fold c.m 0#6, 0#32)
  | .vdot4 d a b c => some (.v, wV 0x13#6 d a b c.fold c.m 0#6, 0#32)
  | .vdot4us d a b c => some (.v, wV 0x13#6 d a b c.fold c.m 1#6, 0#32)
  | .vqma d a b c => some (.v, wV 0x14#6 (0#2 ++ d) a b c.fold c.m 0#6, 0#32)
  | .vqmai d a b c => some (.v, wV 0x14#6 (0#2 ++ d) a b c.fold c.m 1#6, 0#32)
  | .vqnarf d a c => some (.v, wV 0x15#6 d (0#2 ++ a) 0#5 c.fold c.m 0#6, 0#32)
  | .vqnars d a c => some (.v, wV 0x15#6 d (0#2 ++ a) 0#5 c.fold c.m 1#6, 0#32)
  | .vqnarw d a c => some (.v, wV 0x15#6 d (0#2 ++ a) 0#5 c.fold c.m 2#6, 0#32)
  | .vqclr d c => some (.v, wV 0x16#6 (0#2 ++ d) 0#5 0#5 c.fold c.m 0#6, 0#32)
  | .vqwf d a c => some (.v, wV 0x16#6 (0#2 ++ d) a 0#5 c.fold c.m 1#6, 0#32)
  | .vqwi d a c => some (.v, wV 0x16#6 (0#2 ++ d) a 0#5 c.fold c.m 2#6, 0#32)
  | .vredadd d a fold => some (.v, wV 0x17#6 d a 0#5 fold 0#3 0#6, 0#32)
  | .vredfadd d a fold => some (.v, wV 0x17#6 d a 0#5 fold 0#3 1#6, 0#32)
  | .vredmin d a fold => some (.v, wV 0x17#6 d a 0#5 fold 0#3 2#6, 0#32)
  | .vredmax d a fold => some (.v, wV 0x17#6 d a 0#5 fold 0#3 3#6, 0#32)
  | .vredfmin d a fold => some (.v, wV 0x17#6 d a 0#5 fold 0#3 4#6, 0#32)
  | .vredfmax d a fold => some (.v, wV 0x17#6 d a 0#5 fold 0#3 5#6, 0#32)
  | .vbcst d a c => some (.v, wV 0x18#6 d a 0#5 c.fold c.m 0#6, 0#32)
  | .vextr d a elem => some (.v, wV 0x19#6 d a 0#5 0#2 0#3 elem, 0#32)
  | .vins d a elem => some (.v, wV 0x1A#6 d a 0#5 0#2 0#3 elem, 0#32)
  | .viota d c => some (.v, wV 0x1B#6 d 0#5 0#5 c.fold c.m 0#6, 0#32)
  | .vperm d a b c => some (.v, wV 0x1C#6 d a b c.fold c.m 0#6, 0#32)
  | .vslup d a b c => some (.v, wV 0x1D#6 d a b c.fold c.m 0#6, 0#32)
  | .vsldn d a b c => some (.v, wV 0x1D#6 d a b c.fold c.m 1#6, 0#32)
  | .vcmpr d a fold k => some (.v, wV 0x1E#6 d a 0#5 fold k 0#6, 0#32)
  | .mand d a b fold => some (.v, wV 0x1F#6 (0#2 ++ d) (0#2 ++ a) (0#2 ++ b) fold 0#3 0#6, 0#32)
  | .mor d a b fold => some (.v, wV 0x1F#6 (0#2 ++ d) (0#2 ++ a) (0#2 ++ b) fold 0#3 1#6, 0#32)
  | .mxor d a b fold => some (.v, wV 0x1F#6 (0#2 ++ d) (0#2 ++ a) (0#2 ++ b) fold 0#3 2#6, 0#32)
  | .mnot d a fold => some (.v, wV 0x1F#6 (0#2 ++ d) (0#2 ++ a) 0#5 fold 0#3 3#6, 0#32)
  | .mpop d a fold => some (.v, wV 0x1F#6 d (0#2 ++ a) 0#5 fold 0#3 4#6, 0#32)
  | .mfirst d a fold => some (.v, wV 0x1F#6 d (0#2 ++ a) 0#5 fold 0#3 5#6, 0#32)
  | .mset d a fold => some (.v, wV 0x1F#6 (0#2 ++ d) a 0#5 fold 0#3 6#6, 0#32)
  | .mget d a fold => some (.v, wV 0x1F#6 d (0#2 ++ a) 0#5 fold 0#3 7#6, 0#32)
  | .vsel d a b fold k => some (.v, wV 0x20#6 d a b fold k 0#6, 0#32)
  | .vldW d a b c => some (.v, wV 0x21#6 d a b c.fold c.m 0#6, 0#32)
  | .vldH d a b c => some (.v, wV 0x21#6 d a b c.fold c.m 1#6, 0#32)
  | .vldHu d a b c => some (.v, wV 0x21#6 d a b c.fold c.m 2#6, 0#32)
  | .vldB d a b c => some (.v, wV 0x21#6 d a b c.fold c.m 3#6, 0#32)
  | .vldBu d a b c => some (.v, wV 0x21#6 d a b c.fold c.m 4#6, 0#32)
  | .vstW d a b c => some (.v, wV 0x22#6 d a b c.fold c.m 0#6, 0#32)
  | .vstH d a b c => some (.v, wV 0x22#6 d a b c.fold c.m 1#6, 0#32)
  | .vstB d a b c => some (.v, wV 0x22#6 d a b c.fold c.m 2#6, 0#32)
  | .vgath d a b c => some (.v, wV 0x23#6 d a b c.fold c.m 0#6, 0#32)
  | .vscat d a b c => some (.v, wV 0x24#6 d a b c.fold c.m 0#6, 0#32)
  | .vsortS d a fold => some (.v, wV 0x25#6 d a 0#5 fold 0#3 0#6, 0#32)
  | .vsortF d a fold => some (.v, wV 0x25#6 d a 0#5 fold 0#3 1#6, 0#32)
  | .vsortU d a fold => some (.v, wV 0x25#6 d a 0#5 fold 0#3 2#6, 0#32)
  | .vruns d a fold => some (.v, wV 0x26#6 (0#2 ++ d) a 0#5 fold 0#3 0#6, 0#32)
  | .vsegadd d a fold k => some (.v, wV 0x27#6 d a 0#5 fold k 0#6, 0#32)
  | .vsegfadd d a fold k => some (.v, wV 0x27#6 d a 0#5 fold k 1#6, 0#32)
  | .vrng d c => some (.v, wV 0x28#6 d 0#5 0#5 c.fold c.m 0#6, 0#32)
  | .vbfpq d a fold w => some (.v, wV 0x29#6 d a 0#5 fold 0#3 (0#3 ++ w), 0#32)
  | .vbfpx d a fold => some (.v, wV 0x2A#6 d a 0#5 fold 0#3 0#6, 0#32)
  | .vt5pk d a fold => some (.v, wV 0x2B#6 d a 0#5 fold 0#3 0#6, 0#32)
  | .vt5up d a fold => some (.v, wV 0x2C#6 d a 0#5 fold 0#3 0#6, 0#32)
  | .tld d a b => some (.t, wT 0x01#6 (0#2 ++ d) a b 0#6, 0#32)
  | .tst d a b => some (.t, wT 0x02#6 (0#2 ++ d) a b 0#6, 0#32)
  | .twin d a b => some (.t, wT 0x03#6 (0#2 ++ d) a b 0#6, 0#32)
  | .tzero d => some (.t, wT 0x04#6 (0#2 ++ d) 0#5 0#5 0#6, 0#32)
  | .tmmaBf16 d a b => some (.t, wT 0x05#6 d (0#2 ++ a) (0#2 ++ b) 0#6, 0#32)
  | .tmmaBfp d a b => some (.t, wT 0x05#6 d (0#2 ++ a) (0#2 ++ b) 1#6, 0#32)
  | .tmmaI8 d a b => some (.t, wT 0x05#6 d (0#2 ++ a) (0#2 ++ b) 2#6, 0#32)
  | .tmmaBf16W d a b => some (.t, wT 0x05#6 d (0#2 ++ a) (0#2 ++ b) 4#6, 0#32)
  | .tmmaBfpW d a b => some (.t, wT 0x05#6 d (0#2 ++ a) (0#2 ++ b) 5#6, 0#32)
  | .tmmaI8W d a b => some (.t, wT 0x05#6 d (0#2 ++ a) (0#2 ++ b) 6#6, 0#32)
  | .ttrn d a => some (.t, wT 0x06#6 (0#2 ++ d) (0#2 ++ a) 0#5 0#6, 0#32)
  | .trowv d a b => some (.t, wT 0x07#6 d (0#2 ++ a) b 0#6, 0#32)
  | .tvrow d a b => some (.t, wT 0x07#6 (0#2 ++ d) a b 1#6, 0#32)
  | .xclr => some (.t, wT 0x08#6 0#5 0#5 0#5 0#6, 0#32)
  | .xswap => some (.t, wT 0x09#6 0#5 0#5 0#5 0#6, 0#32)
  | .xsave a => some (.t, wT 0x0A#6 0#5 a 0#5 0#6, 0#32)
  | .xload a => some (.t, wT 0x0B#6 0#5 a 0#5 0#6, 0#32)
  | .pcopy o => some (.w, wW 0x01#6 o.d o.a o.b o.tag 0#5, xP o)
  | .pgath o => some (.w, wW 0x02#6 o.d o.a o.b o.tag 0#5, xP o)
  | .pscanSumi o => some (.w, wW 0x03#6 o.d o.a o.b o.tag 0#5, xP o)
  | .pscanSumf o => some (.w, wW 0x03#6 o.d o.a o.b o.tag 1#5, xP o)
  | .pscanMin o => some (.w, wW 0x03#6 o.d o.a o.b o.tag 2#5, xP o)
  | .pscanMax o => some (.w, wW 0x03#6 o.d o.a o.b o.tag 3#5, xP o)
  | .pscanCount o => some (.w, wW 0x03#6 o.d o.a o.b o.tag 4#5, xP o)
  | .pfilt o => some (.w, wW 0x04#6 o.d o.a o.b o.tag 0#5, xP o)
  | .pput o => some (.w, wW 0x05#6 o.d o.a o.b o.tag 0#5, xP o)
  | .pupdAddi32 o => some (.w, wW 0x06#6 o.d o.a o.b o.tag 0#5, xP o)
  | .pupdAddf32 o => some (.w, wW 0x06#6 o.d o.a o.b o.tag 1#5, xP o)
  | .pupdMini32 o => some (.w, wW 0x06#6 o.d o.a o.b o.tag 2#5, xP o)
  | .pupdMaxi32 o => some (.w, wW 0x06#6 o.d o.a o.b o.tag 3#5, xP o)
  | .pupdAnd o => some (.w, wW 0x06#6 o.d o.a o.b o.tag 4#5, xP o)
  | .pupdOr o => some (.w, wW 0x06#6 o.d o.a o.b o.tag 5#5, xP o)
  | .pupdXor o => some (.w, wW 0x06#6 o.d o.a o.b o.tag 6#5, xP o)
  | .pupdSwap o => some (.w, wW 0x06#6 o.d o.a o.b o.tag 7#5, xP o)
  | .pupdoAddf32 o => some (.w, wW 0x07#6 o.d o.a o.b o.tag 0#5, xP o)
  | .pupdoAddi32 o => some (.w, wW 0x07#6 o.d o.a o.b o.tag 1#5, xP o)
  | .pcmt o => some (.w, wW 0x08#6 o.d o.a o.b o.tag 0#5, xP o)
  | .padam o => some (.w, wW 0x09#6 o.d o.a o.b o.tag 0#5, xP o)
  | .pzero o => some (.w, wW 0x0A#6 o.d o.a o.b o.tag 0#5, xP o)
  | .pzeroPhys o => some (.w, wW 0x0A#6 o.d o.a o.b o.tag 1#5, xP o)
  | .phostIn o => some (.w, wW 0x0B#6 o.d o.a o.b o.tag 0#5, xP o)
  | .phostOut o => some (.w, wW 0x0B#6 o.d o.a o.b o.tag 1#5, xP o)
  | .pmatWrite o => some (.w, wW 0x0C#6 o.d o.a o.b o.tag 0#5, xP o)
  | .pmatAccum o => some (.w, wW 0x0C#6 o.d o.a o.b o.tag 1#5, xP o)
  | .preop a => some (.w, wW 0x0D#6 0#5 a 0#5 0#6 0#5, 0#32)
  | .pcanc a => some (.w, wW 0x0E#6 0#5 a 0#5 0#6 0#5, 0#32)
  | .pfence => some (.w, wW 0x0F#6 0#5 0#5 0#5 0#6 0#5, 0#32)
  | .twany a => some (.w, wW 0x10#6 0#5 a 0#5 0#6 0#5, 0#32)
  | .twall a => some (.w, wW 0x11#6 0#5 a 0#5 0#6 0#5, 0#32)
  | .tfirst d a => some (.w, wW 0x12#6 d a 0#5 0#6 0#5, 0#32)
  | .tclr a => some (.w, wW 0x13#6 0#5 a 0#5 0#6 0#5, 0#32)
  | .cwait a => some (.w, wW 0x14#6 0#5 a 0#5 0#6 0#5, 0#32)
  | .prnd => some (.w, wW 0x15#6 0#5 0#5 0#5 0#6 0#5, 0#32)
  | .lsendV a fold port => some (.l, wL 0x01#6 0#5 a 0#5 fold port 0#5, 0#32)
  | .lsendS a port => some (.l, wL 0x01#6 0#5 a 0#5 0#2 port 16#5, 0#32)
  | .lrecv d fold port => some (.l, wL 0x02#6 d 0#5 0#5 fold port 0#5, 0#32)
  | .lput a b fold port => some (.l, wL 0x03#6 0#5 a b fold port 0#5, 0#32)
  | .lamoAdd32 a b fold port => some (.l, wL 0x04#6 0#5 a b fold port 0#5, 0#32)
  | .lamoFadd32 a b fold port => some (.l, wL 0x04#6 0#5 a b fold port 1#5, 0#32)
  | .lamoMin32 a b fold port => some (.l, wL 0x04#6 0#5 a b fold port 2#5, 0#32)
  | .lamoMax32 a b fold port => some (.l, wL 0x04#6 0#5 a b fold port 3#5, 0#32)
  | .barDie k => some (.l, wL 0x05#6 (0#1 ++ k) 0#5 0#5 0#2 0#4 0#5, 0#32)
  | .barLaunch k => some (.l, wL 0x05#6 (0#1 ++ k) 0#5 0#5 0#2 0#4 1#5, 0#32)
  | .barSys k => some (.l, wL 0x05#6 (0#1 ++ k) 0#5 0#5 0#2 0#4 2#5, 0#32)
  | .baraDie k => some (.l, wL 0x06#6 (0#1 ++ k) 0#5 0#5 0#2 0#4 0#5, 0#32)
  | .baraLaunch k => some (.l, wL 0x06#6 (0#1 ++ k) 0#5 0#5 0#2 0#4 1#5, 0#32)
  | .baraSys k => some (.l, wL 0x06#6 (0#1 ++ k) 0#5 0#5 0#2 0#4 2#5, 0#32)
  | .barw k => some (.l, wL 0x07#6 (0#1 ++ k) 0#5 0#5 0#2 0#4 0#5, 0#32)
  | .cbacq d a => some (.l, wL 0x08#6 d a 0#5 0#2 0#4 0#5, 0#32)
  | .cbcomLocal a => some (.l, wL 0x09#6 0#5 a 0#5 0#2 15#4 0#5, 0#32)
  | .cbcomRemote a b fold port => some (.l, wL 0x09#6 0#5 a b fold port 0#5, 0#32)
  | .cbwait d a => some (.l, wL 0x0A#6 d a 0#5 0#2 0#4 0#5, 0#32)
  | .cbrel a => some (.l, wL 0x0B#6 0#5 a 0#5 0#2 0#4 0#5, 0#32)
  | .belay a => some (.l, wL 0x0C#6 0#5 a 0#5 0#2 0#4 0#5, 0#32)
  | .waitt a => some (.l, wL 0x0D#6 0#5 a 0#5 0#2 0#4 0#5, 0#32)
  | .tstmp d => some (.l, wL 0x0E#6 d 0#5 0#5 0#2 0#4 0#5, 0#32)
  | .launch a => some (.l, wL 0x0F#6 0#5 a 0#5 0#2 0#4 0#5, 0#32)
  | .ljoin a => some (.l, wL 0x10#6 0#5 a 0#5 0#2 0#4 0#5, 0#32)
  | .delayRow _ => none
  | .rngkeyWrite _ _ => none
  | .xctxWrite _ => none
  | .racelogWrite _ => none
  | .fpflagsWrite _ => none
  | .tagerrWrite _ => none
  | .release _ => none
  | .registerWrite _ _ => none
  | .lwinWrite _ _ => none
  | .negotiate _ => none
  | .imageLoad _ => none
  | .imageDrop _ => none
  | .preload _ => none
  | .ctxOpen _ => none
  | .ctxClose _ => none
  | .alloc _ => none
  | .free _ => none
  | .cancel _ => none
  | .query _ => none
  | .mailboxComplete => none
  | .lwIde => none
  | .getVersion _ => none
  | .getCapabilities _ => none
  | .negotiateAlgorithms _ => none
  | .getDigests _ => none
  | .getCertificate _ => none
  | .challenge _ => none
  | .getMeasurements _ => none
  | .keyExchange _ => none
  | .finish _ => none
  | .keySet _ => none
  | .keyClear _ => none
  | .fwData _ => none
  | .fwCommit _ => none
  | .placeLaunch => none
  | .startPulse _ _ _ => none
  | .coreExit _ _ => none
  | .endOfLaunch _ _ => none
  | .migration _ _ _ => none
  | .sweepVisit _ => none
  | .holdTick _ => none
  | .passClose _ _ _ => none
  | .refusedOpen _ _ => none
  | .bankRemap _ _ _ => none
  | .remapComplete _ _ => none
  | .tmmaHandover _ _ => none
  | .meshDelivery _ _ _ => none
  | .messageDelivery _ _ _ => none
  | .remoteWrite _ _ _ => none
  | .remoteAtomic _ _ _ => none
  | .remoteCommit _ _ _ => none
  | .barrierComplete _ _ _ _ _ => none
  | .linkstall _ _ => none
  | .phostLine _ _ _ _ => none
  | .dataFlit _ _ _ => none
  | .acknowledge _ _ _ => none
  | .negativeAcknowledge _ _ _ => none
  | .training _ _ _ => none
  | .laneLockLoss _ _ => none
  | .portRetire _ _ => none
  | .tickStamp => none
  | .dieCutOff _ => none
  | .announce _ => none
  | .sync _ => none
  | .followUp _ => none
  | .delayReq => none
  | .delayResp _ => none
  | .pdelayReq => none
  | .pdelayResp _ => none
  | .pdelayRespFollowUp _ => none
  | .management _ => none
  | .p2pTimeout => none
  | .holdover => none
  | .walltStep => none
  | .ppsIn => none
  | .ppsOut => none
  | .levelChange _ _ => none
  | .criticalTempTrip _ => none
  | .haltLine _ _ => none
  | .trapEntry _ _ => none
  | .trapDelivery _ _ => none
  | .anchorTakeRequest _ => none
  | .heartbeat _ => none
  | .anchorFailed _ => none
  | .scrubEngineBeat _ => none
  | .coldReset => none
  | .layerReadyTimeout _ _ => none
  | .warmReset => none
  | .hotBankChange _ _ _ _ => none
  | .criticalTripClear _ => none
  | .ppsOutFall => none
  | .softRepair _ _ _ _ => none
  | .ideKm _ => none
  | .snoop _ => none
  | .cxlCacheResponse _ => none

end Sys2Proof
end

