-- ==== Sys2Proof/Machine/Mem.lean ====
section
/-! DEFINITION. Sparse stores: memories, register files and tables are lists of (key, value) pairs in one canonical form
(keys strictly rising, no value that an unlisted key reads as). Read, write, wide little-endian access, and the check of
the form. -/

namespace Sys2Proof

/-- A byte memory: the canonical list of the host's cells. -/
abbrev Memory := SMap Byte

/-- What key `k` reads as; `d` is what an unlisted key reads as. -/
def SMap.get {α : Type} (d : α) : SMap α → Nat → α
  | [], _ => d
  | (k', v) :: r, k => if k < k' then d else if k = k' then v else SMap.get d r k

/-- Drop the entries at the head whose key is at most `k`. -/
def SMap.dropTo {α : Type} (k : Nat) : SMap α → SMap α
  | [] => []
  | (k', v) :: r => if k' ≤ k then SMap.dropTo k r else (k', v) :: r

/-- Write `v` at key `k`, keeping the canonical form: writing what an unlisted key reads as removes the entry. -/
def SMap.set {α : Type} [DecidableEq α] (d : α) : SMap α → Nat → α → SMap α
  | [], k, v => if v = d then [] else [(k, v)]
  | (k', v') :: r, k, v =>
    if k < k' then (if v = d then (k', v') :: r else (k, v) :: (k', v') :: r)
    else if k = k' then (if v = d then SMap.dropTo k r else (k, v) :: r)
    else (k', v') :: SMap.set d r k v

/-- The keys rise strictly above `lo` and no value is the default. -/
def SMap.wfFrom {α : Type} [DecidableEq α] (d : α) : Option Nat → SMap α → Bool
  | _, [] => true
  | lo, (k, v) :: r =>
    lo.all (fun l => decide (l < k)) && decide (v ≠ d) && SMap.wfFrom d (some k) r

/-- The canonical form. -/
def SMap.wf {α : Type} [DecidableEq α] (d : α) (m : SMap α) : Bool := SMap.wfFrom d none m

/-- Write the values of a list at consecutive keys. -/
def SMap.setList {α : Type} [DecidableEq α] (d : α) (m : SMap α) (k : Nat) : List α → SMap α
  | [] => m
  | v :: vs => SMap.setList d (SMap.set d m k v) (k + 1) vs

/-- The values at `n` consecutive keys. -/
def SMap.getList {α : Type} (d : α) (m : SMap α) (k : Nat) : Nat → List α
  | 0 => []
  | n + 1 => SMap.get d m k :: SMap.getList d m (k + 1) n

/-- Keep the entries whose key the test accepts, past the entries at the head whose key is at most `lo`. -/
def SMap.keepFrom {α : Type} (p : Nat → Bool) : Option Nat → SMap α → SMap α
  | _, [] => []
  | lo, (k, v) :: r =>
    if lo.any (fun l => decide (k ≤ l)) then SMap.keepFrom p lo r
    else if p k then (k, v) :: SMap.keepFrom p none r else SMap.keepFrom p (some k) r

/-- Keep the entries whose key the test accepts. -/
def SMap.keep {α : Type} (p : Nat → Bool) (m : SMap α) : SMap α := SMap.keepFrom p none m

/-- Write every entry of a list, first to last. -/
def SMap.setAll {α : Type} [DecidableEq α] (d : α) (m : SMap α) (es : List (Nat × α)) : SMap α :=
  es.foldl (fun m e => SMap.set d m e.1 e.2) m

/-- A memory is in canonical form: an unlisted address reads as 0 (log 13). -/
def Memory.wf (m : Memory) : Bool := SMap.wf 0 m

/-- The byte at an address. -/
def Memory.byte (m : Memory) (a : Nat) : Byte := SMap.get 0 m a

/-- Write one byte. -/
def Memory.setByte (m : Memory) (a : Nat) (b : Byte) : Memory := SMap.set 0 m a b

/-- The little-endian number held in `n` bytes from `a` (R4). -/
def Memory.load (m : Memory) (a : Nat) : Nat → Nat
  | 0 => 0
  | n + 1 => (Memory.byte m a).toNat + 256 * Memory.load m (a + 1) n

/-- Store the low `n` bytes of `v`, little-endian (R4). -/
def Memory.store (m : Memory) (a v : Nat) : Nat → Memory
  | 0 => m
  | n + 1 => Memory.store (Memory.setByte m a (BitVec.ofNat 8 v)) (a + 1) (v / 256) n

/-- The bytes at `n` consecutive addresses. -/
def Memory.bytes (m : Memory) (a n : Nat) : List Byte := SMap.getList 0 m a n

/-- Write bytes at consecutive addresses. -/
def Memory.setBytes (m : Memory) (a : Nat) (bs : List Byte) : Memory := SMap.setList 0 m a bs

/-- The little-endian number of a list of bytes (R4). -/
def leNat : List Byte → Nat
  | [] => 0
  | b :: bs => b.toNat + 256 * leNat bs

/-- The low `n` bytes of a number, little-endian (R4). -/
def leBytes : Nat → Nat → List Byte
  | 0, _ => []
  | n + 1, v => BitVec.ofNat 8 v :: leBytes n (v / 256)

/-- Bits `lo` to `lo + w - 1` of a number. -/
def natBits (v lo w : Nat) : Nat := (v / 2 ^ lo) % 2 ^ w

/-- Bit `i` of a number. -/
def natBit (v i : Nat) : Bool := v.testBit i

/-- The value of a `w`-bit pattern in two's complement. -/
def signedNat (w v : Nat) : Int := if v % 2 ^ w < 2 ^ (w - 1) then (v % 2 ^ w : Nat) else ((v % 2 ^ w : Nat) : Int) - (2 ^ w : Nat)

end Sys2Proof
end

