-- ==== Sys2Proof/Machine/Flags.lean ====
section
/-! DEFINITION. The flags of `FPFLAGS`: their places, the flags of several elements, and those that arrive in a beat (R38, R39). -/

namespace Sys2Proof.Machine

/-- Flags of one operation, laid out as `FPFLAGS` (R38). -/
abbrev Flags := BitVec 16

/-- Invalid operation. -/
def fNV : Flags := 0x0001
/-- Division by zero. -/
def fDZ : Flags := 0x0002
/-- Overflow. -/
def fOF : Flags := 0x0004
/-- Underflow. -/
def fUF : Flags := 0x0008
/-- Inexact. -/
def fNX : Flags := 0x0010
/-- An integer saturating operation clamped. -/
def fSAT : Flags := 0x0200
/-- `VT5PK` clamped an input. -/
def fTCLAMP : Flags := 0x0400
/-- `VT5UP` met an illegal code. -/
def fTILL : Flags := 0x0800
/-- A `TWIN` window read beyond the last image. -/
def fWBATCH : Flags := 0x1000
/-- BFP quantisation clamped a mantissa. -/
def fBFPCLIP : Flags := 0x2000
/-- A malformed BFP header was consumed. -/
def fBFPHDR : Flags := 0x4000
/-- A `PFILT` list overflowed. -/
def fPFOVF : Flags := 0x8000
/-- The bits of `FPFLAGS` that hold a flag (R38). -/
def flagMask : Flags := 0xFE1F

/-- The flags of the elements below `n` that the test picks. -/
def orFlags (pick : Nat → Bool) (f : Nat → Flags) : Nat → Flags
  | 0 => 0
  | n + 1 => orFlags pick f n ||| (if pick n then f n else 0)

/-- Flags that arrive in a beat. -/
def flagsAt (q : List (Nat × Flags)) (beat : Nat) : Flags :=
  (q.filter (fun e => e.1 == beat)).foldl (fun a e => a ||| e.2) 0

end Sys2Proof.Machine
end

