-- ==== Sys2Proof/Machine/Float.lean ====
section
/-! DEFINITION. Exact arithmetic and where it rounds (chapter 02): the IEEE formats, rounding with flags, exact sums and products,
the fixed tree, the special functions, block floating point and ternary bytes. Every operation forms its exact value in
integers and rounds once. -/

namespace Sys2Proof.Machine

/-- A binary format: exponent bits and fraction bits (R32). -/
structure Fmt where
  eb : Nat
  mb : Nat
  deriving DecidableEq, Repr

/-- FP64. -/
def f64 : Fmt := ⟨11, 52⟩
/-- FP32. -/
def f32 : Fmt := ⟨8, 23⟩
/-- BF16. -/
def bf16 : Fmt := ⟨8, 7⟩

/-- Exponent bias. -/
def Fmt.bias (f : Fmt) : Nat := 2 ^ (f.eb - 1) - 1
/-- All ones in the exponent field. -/
def Fmt.emax (f : Fmt) : Nat := 2 ^ f.eb - 1
/-- The sign bit. -/
def Fmt.signBit (f : Fmt) : Nat := 2 ^ (f.eb + f.mb)
/-- The canonical NaN (R32). -/
def Fmt.nan (f : Fmt) : Nat := f.emax * 2 ^ f.mb + 2 ^ (f.mb - 1)
/-- The infinity of a sign. -/
def Fmt.inf (f : Fmt) (neg : Bool) : Nat := (if neg then f.signBit else 0) + f.emax * 2 ^ f.mb
/-- The zero of a sign. -/
def Fmt.zero (f : Fmt) (neg : Bool) : Nat := if neg then f.signBit else 0

/-- A rounding mode (R33). -/
inductive Rm where
  /-- To nearest, ties to even. -/
  | rne
  /-- Toward zero. -/
  | rtz
  /-- Toward minus infinity. -/
  | rdn
  /-- Toward plus infinity. -/
  | rup
  deriving DecidableEq, Repr

/-- What `FPCTL` selects (R33). -/
structure FpMode where
  rm : Rm
  ftz : Bool
  deriving DecidableEq, Repr

/-- To nearest, subnormals kept: the mode of everything that does not honour `FPCTL` (R35). -/
def rneMode : FpMode := ⟨.rne, false⟩

/-- The mode that a value of `FPCTL` selects (R33). -/
def fpModeOf (fpctl : BitVec 3) : FpMode :=
  ⟨match fpctl.toNat % 4 with | 0 => .rne | 1 => .rtz | 2 => .rdn | _ => .rup, fpctl.getLsbD 2⟩

/-- How a NaN arose, which decides NV (R37). -/
inductive NanKind where
  /-- A quiet NaN input. -/
  | quiet
  /-- A signalling NaN input. -/
  | signalling
  /-- An invalid operation on numbers. -/
  | invalid
  deriving DecidableEq, Repr

/-- An exact value: a NaN, an infinity, or sign × m × 2^e. -/
inductive FVal where
  | nan (k : NanKind)
  | inf (neg : Bool)
  | fin (neg : Bool) (m : Nat) (e : Int)
  deriving DecidableEq, Repr

/-- The exact value of a bit pattern; with `ftz` a subnormal reads as the zero of its sign (R33). -/
def unpack (f : Fmt) (ftz : Bool) (bits : Nat) : FVal :=
  let neg := bits.testBit (f.eb + f.mb)
  let x := bits / 2 ^ f.mb % 2 ^ f.eb
  let fr := bits % 2 ^ f.mb
  if x = f.emax then
    (if fr = 0 then .inf neg else .nan (if fr.testBit (f.mb - 1) then .quiet else .signalling))
  else if x = 0 then
    (if ftz then .fin neg 0 0 else .fin neg fr (1 - (f.bias : Int) - f.mb))
  else .fin neg (2 ^ f.mb + fr) ((x : Int) - f.bias - f.mb)

/-- `m × 2^e`, and a little more where `sticky`, as an integer multiple of 2^q in a mode: the multiple and whether it is
inexact. -/
def quantise (rm : Rm) (neg : Bool) (m : Nat) (e q : Int) (sticky : Bool) : Nat × Bool :=
  if q ≤ e then (m * 2 ^ (e - q).toNat + (if sticky && ((rm == .rup && !neg) || (rm == .rdn && neg)) then 1 else 0), sticky)
  else
    let sh := (q - e).toNat
    let t := m / 2 ^ sh
    let r := m % 2 ^ sh
    let half := 2 ^ (sh - 1)
    let inexact := r != 0 || sticky
    let up := match rm with
      | .rne => decide (half < r) || (r == half && (sticky || t % 2 == 1))
      | .rtz => false
      | .rdn => neg && inexact
      | .rup => !neg && inexact
    (if up then t + 1 else t, inexact)

/-- The result of an overflow (R36). -/
def overflowed (f : Fmt) (rm : Rm) (neg : Bool) : Nat × Flags :=
  (match rm, neg with
    | .rne, _ => f.inf neg
    | .rdn, true => f.inf neg
    | .rup, false => f.inf neg
    | _, _ => f.inf neg - 1, fOF ||| fNX)

/-- Rounds sign × m × 2^e, and a little more in magnitude where `sticky`, to a format: the bits and the flags (R36). Tiny is
judged after rounding. -/
def roundFin (f : Fmt) (md : FpMode) (neg : Bool) (m : Nat) (e : Int) (sticky : Bool) : Nat × Flags :=
  if m = 0 then (f.zero neg, 0)
  else
    let top : Int := (Nat.log2 m : Int) + e
    let emin : Int := 1 - (f.bias : Int)
    let wide := quantise md.rm neg m e (top - f.mb) sticky
    let tiny := decide (top < emin) && !(decide (top = emin - 1) && wide.1 == 2 ^ (f.mb + 1))
    if tiny then
      let r := quantise md.rm neg m e (emin - f.mb) sticky
      if md.ftz && r.1 != 0 && decide (r.1 < 2 ^ f.mb) then (f.zero neg, fUF ||| fNX)
      else (f.zero neg + r.1, if r.2 then fUF ||| fNX else 0)
    else
      let carry := wide.1 == 2 ^ (f.mb + 1)
      let biased := (top + f.bias + (if carry then 1 else 0)).toNat
      if f.emax ≤ biased then overflowed f md.rm neg
      else (f.zero neg + biased * 2 ^ f.mb + (if carry then 0 else wide.1 - 2 ^ f.mb), if wide.2 then fNX else 0)

/-- Rounds an exact value to a format (R36, R37). -/
def roundV (f : Fmt) (md : FpMode) : FVal → Nat × Flags
  | .nan k => (f.nan, if k = .quiet then 0 else fNV)
  | .inf neg => (f.inf neg, 0)
  | .fin neg m e => roundFin f md neg m e false

/-- Which kind of NaN comes of two: a signalling input before a quiet one before an invalid operation (R37). -/
def joinNan : NanKind → NanKind → NanKind
  | .signalling, _ => .signalling
  | _, .signalling => .signalling
  | .quiet, _ => .quiet
  | _, .quiet => .quiet
  | .invalid, .invalid => .invalid

/-- The negated value. -/
def FVal.neg : FVal → FVal
  | .nan k => .nan k
  | .inf n => .inf (!n)
  | .fin n m e => .fin (!n) m e

/-- The exact product (R37, R49). -/
def mulV : FVal → FVal → FVal
  | .nan k, .nan l => .nan (joinNan k l)
  | .nan k, _ => .nan k
  | _, .nan k => .nan k
  | .inf a, .inf b => .inf (a != b)
  | .inf a, .fin b m _ => if m = 0 then .nan .invalid else .inf (a != b)
  | .fin a m _, .inf b => if m = 0 then .nan .invalid else .inf (a != b)
  | .fin a m e, .fin b n f => .fin (a != b) (m * n) (e + f)

/-- The exact sum of two values; an exact zero from operands that are not zeros of one sign is +0, and −0 toward −∞ (R36). -/
def addV (rm : Rm) : FVal → FVal → FVal
  | .nan k, .nan l => .nan (joinNan k l)
  | .nan k, _ => .nan k
  | _, .nan k => .nan k
  | .inf a, .inf b => if a = b then .inf a else .nan .invalid
  | .inf a, .fin _ _ _ => .inf a
  | .fin _ _ _, .inf b => .inf b
  | .fin a m e, .fin b n f =>
    if m = 0 ∧ n = 0 then .fin (if a = b then a else rm == .rdn) 0 0
    else if m = 0 then .fin b n f
    else if n = 0 then .fin a m e
    else
      let g := min e f
      let x : Int := (m * 2 ^ (e - g).toNat : Nat)
      let y : Int := (n * 2 ^ (f - g).toNat : Nat)
      let t := (if a then -x else x) + (if b then -y else y)
      if t = 0 then .fin (rm == .rdn) 0 0 else .fin (decide (t < 0)) t.natAbs g

/-- The exact sum of a list, and of an initial value. -/
def sumV (rm : Rm) (acc : FVal) : List FVal → FVal
  | [] => acc
  | v :: vs => sumV rm (addV rm acc v) vs

/-- Addition rounded to a format. -/
def fpAdd (f : Fmt) (md : FpMode) (a b : Nat) : Nat × Flags :=
  roundV f md (addV md.rm (unpack f md.ftz a) (unpack f md.ftz b))
/-- Subtraction rounded to a format. -/
def fpSub (f : Fmt) (md : FpMode) (a b : Nat) : Nat × Flags :=
  roundV f md (addV md.rm (unpack f md.ftz a) (unpack f md.ftz b).neg)
/-- Multiplication rounded to a format. -/
def fpMul (f : Fmt) (md : FpMode) (a b : Nat) : Nat × Flags :=
  roundV f md (mulV (unpack f md.ftz a) (unpack f md.ftz b))
/-- `a × b + c`, with the product negated where `neg`, rounded once (R159). -/
def fpFma (f : Fmt) (md : FpMode) (neg : Bool) (a b c : Nat) : Nat × Flags :=
  let p := mulV (unpack f md.ftz a) (unpack f md.ftz b)
  roundV f md (addV md.rm (if neg then p.neg else p) (unpack f md.ftz c))

/-- Division rounded to a format (R37, R56, R240). -/
def fpDiv (f : Fmt) (md : FpMode) (a b : Nat) : Nat × Flags :=
  match unpack f md.ftz a, unpack f md.ftz b with
  | .nan k, .nan l => roundV f md (.nan (joinNan k l))
  | .nan k, _ => roundV f md (.nan k)
  | _, .nan k => roundV f md (.nan k)
  | .inf _, .inf _ => (f.nan, fNV)
  | .inf x, .fin y _ _ => (f.inf (x != y), 0)
  | .fin x _ _, .inf y => (f.zero (x != y), 0)
  | .fin x m e, .fin y n g =>
    if n = 0 then (if m = 0 then (f.nan, fNV) else (f.inf (x != y), fDZ))
    else if m = 0 then (f.zero (x != y), 0)
    else
      let k := f.mb + 4 + Nat.log2 n
      let t := m * 2 ^ k
      roundFin f md (x != y) (t / n) (e - g - k) (t % n != 0)

/-- Floor of a square root by trying bits from bit `k - 1` down. -/
def isqrtFrom (n : Nat) : Nat → Nat → Nat
  | 0, r => r
  | k + 1, r => let c := r + 2 ^ k; isqrtFrom n k (if c * c ≤ n then c else r)

/-- Floor of a square root. -/
def isqrt (n : Nat) : Nat := isqrtFrom n (Nat.log2 n / 2 + 1) 0

/-- Square root rounded to a format (R37, R56). -/
def fpSqrt (f : Fmt) (md : FpMode) (a : Nat) : Nat × Flags :=
  match unpack f md.ftz a with
  | .nan k => roundV f md (.nan k)
  | .inf neg => if neg then (f.nan, fNV) else (f.inf false, 0)
  | .fin neg m e =>
    if m = 0 then (f.zero neg, 0)
    else if neg then (f.nan, fNV)
    else
      let odd := e % 2 != 0
      let m1 := if odd then 2 * m else m
      let e1 := if odd then e - 1 else e
      let k := f.mb + 4
      let t := m1 * 2 ^ (2 * k)
      let r := isqrt t
      roundFin f md false r (e1 / 2 - k) (r * r != t)

/-! ### Special functions (R54 to R56, R161) -/

/-- A subnormal exact result is flushed under FTZ, with UF and NX (R55). -/
def flushExact (ftz : Bool) (r : Nat × Flags) : Nat × Flags :=
  let x := r.1 / 2 ^ 23 % 2 ^ 8
  if ftz && x == 0 && r.1 % 2 ^ 23 != 0 && (r.2 &&& fNX) == 0 then (f32.zero (r.1.testBit 31), r.2 ||| fUF ||| fNX) else r

/-- Reciprocal (R54 to R56). -/
def fpRcp (ftz : Bool) (a : Nat) : Nat × Flags := flushExact ftz (fpDiv f32 rneMode 0x3F800000 a)

/-- Reciprocal of the square root (R54 to R56). -/
def fpRsq (a : Nat) : Nat × Flags :=
  match unpack f32 false a with
  | .nan k => roundV f32 rneMode (.nan k)
  | .inf neg => if neg then (f32.nan, fNV) else (0, 0)
  | .fin neg m e =>
    if m = 0 then (f32.inf neg, fDZ)
    else if neg then (f32.nan, fNV)
    else
      let odd := e % 2 != 0
      let m1 := if odd then 2 * m else m
      let e1 := if odd then e - 1 else e
      let k := 30 + Nat.log2 m1
      let t := 2 ^ (2 * k)
      let q := isqrt (t / m1)
      roundFin f32 rneMode false q (-(k : Int) - e1 / 2) (q * q * m1 != t)

/-- Working precision of `fpExp2` in bits (log 19). -/
def expBits : Nat := 256

/-- The product, in units of 2^−256, of 2^(2^−i) over the bits i of a fraction of `n` bits, from the highest: `root` is
2^(2^−i) for the bit before the next. -/
def exp2Frac (fr : Nat) : Nat → Nat → Nat → Nat
  | 0, _, acc => acc
  | n + 1, root, acc =>
    let r := isqrt (root * 2 ^ expBits)
    exp2Frac fr n r (if fr.testBit n then acc * r / 2 ^ expBits else acc)

/-- 2 to the power of a value (R54 to R56): the integer part sets the exponent and the fraction is worked to 256 bits, far more
than any FP32 argument needs (log 19). -/
def fpExp2 (ftz : Bool) (a : Nat) : Nat × Flags :=
  match unpack f32 false a with
  | .nan k => roundV f32 rneMode (.nan k)
  | .inf neg => if neg then (0, 0) else (f32.inf false, 0)
  | .fin neg m e =>
    if m = 0 then (0x3F800000, 0)
    else if 0 ≤ e + (Nat.log2 m : Int) - 9 then
      -- |a| ≥ 512: out of range on either side
      (if neg then (0, fUF ||| fNX) else (f32.inf false, fOF ||| fNX))
    else if e + (Nat.log2 m : Int) < -60 then
      -- |a| below 2^−60: next to 1
      roundFin f32 rneMode false (if neg then 2 ^ 40 - 1 else 2 ^ 40) (-40) true
    else
      let n := (-e).toNat
      let v : Int := if 0 ≤ e then (m * 2 ^ e.toNat : Nat) else m
      let x := if neg then -v else v
      let ip := x / (2 ^ n : Nat)
      let fr := (x % (2 ^ n : Nat)).toNat
      if fr = 0 then flushExact ftz (roundFin f32 rneMode false 1 ip false)
      else roundFin f32 rneMode false (exp2Frac fr n (2 ^ (expBits + 1)) (2 ^ expBits)) (ip - expBits) true

/-- Working precision of `fpLog2` in bits (log 19). -/
def logBits : Nat := 512

/-- The first `n` fraction bits of the logarithm of `y` × 2^−512, which lies from 1 up to 2, by repeated squaring. -/
def log2Frac : Nat → Nat → Nat → Nat
  | 0, _, acc => acc
  | n + 1, y, acc =>
    let s := y * y / 2 ^ logBits
    if 2 ^ (logBits + 1) ≤ s then log2Frac n (s / 2) (2 * acc + 1) else log2Frac n s (2 * acc)

/-- Logarithm to base 2 (R54 to R56, log 19). -/
def fpLog2 (a : Nat) : Nat × Flags :=
  match unpack f32 false a with
  | .nan k => roundV f32 rneMode (.nan k)
  | .inf neg => if neg then (f32.nan, fNV) else (f32.inf false, 0)
  | .fin neg m e =>
    if m = 0 then (f32.inf true, fDZ)
    else if neg then (f32.nan, fNV)
    else
      let l := Nat.log2 m
      let ip : Int := e + l
      if m = 2 ^ l then roundFin f32 rneMode (decide (ip < 0)) ip.natAbs 0 false
      else
        let t := ip * (2 ^ 128 : Nat) + (log2Frac 128 (m * 2 ^ (logBits - l)) 0 : Nat)
        if t < 0 then roundFin f32 rneMode true (t.natAbs - 1) (-128) true
        else roundFin f32 rneMode false t.natAbs (-128) true

/-! ### Comparison, minimum and maximum (R160) -/

/-- Whether a pattern is a NaN. -/
def isNan (f : Fmt) (a : Nat) : Bool :=
  a / 2 ^ f.mb % 2 ^ f.eb == f.emax && a % 2 ^ f.mb != 0
/-- Whether a pattern is a signalling NaN. -/
def isSnan (f : Fmt) (a : Nat) : Bool := isNan f a && !(a.testBit (f.mb - 1))

/-- Order of the patterns that are no NaN: the magnitude with its sign, so that −0 and +0 are equal. -/
def fpKey (f : Fmt) (a : Nat) : Int :=
  let mag : Int := (a % f.signBit : Nat)
  if a.testBit (f.eb + f.mb) then -mag else mag

/-- −0 below +0. -/
def fpKeyZ (f : Fmt) (a : Nat) : Int :=
  if a.testBit (f.eb + f.mb) then -(((a % f.signBit : Nat) : Int)) - 1 else ((a % f.signBit : Nat) : Int)

/-- Minimum or maximum: −0 is below +0, one NaN gives the other operand, two give the canonical NaN; a signalling NaN sets NV
(R160). -/
def fpMinMax (f : Fmt) (max : Bool) (a b : Nat) : Nat × Flags :=
  let fl := if isSnan f a || isSnan f b then fNV else 0
  if isNan f a then (if isNan f b then f.nan else b, fl)
  else if isNan f b then (a, fl)
  else (if max then (if fpKeyZ f a < fpKeyZ f b then b else a) else (if fpKeyZ f b < fpKeyZ f a then b else a), fl)

/-! ### Conversions (R40) -/

/-- FP to FP. -/
def fpConvert (src dst : Fmt) (md : FpMode) (a : Nat) : Nat × Flags := roundV dst md (unpack src md.ftz a)

/-- FP32 to INT32. -/
def fpToInt32 (md : FpMode) (a : Nat) : BitVec 32 × Flags :=
  match unpack f32 md.ftz a with
  | .nan _ => (0, fNV)
  | .inf neg => (if neg then 0x80000000 else 0x7FFFFFFF, fNV)
  | .fin neg m e =>
    let r := quantise md.rm neg m e 0 false
    let v : Int := if neg then -(r.1 : Int) else r.1
    if v < -(2 ^ 31 : Nat) then (0x80000000, fNV)
    else if (2 ^ 31 : Nat) - 1 < v then (0x7FFFFFFF, fNV)
    else (BitVec.ofInt 32 v, if r.2 then fNX else 0)

/-- An integer to FP32. -/
def fpOfInt (md : FpMode) (v : Int) : Nat × Flags := roundFin f32 md (decide (v < 0)) v.natAbs 0 false

/-- Rounds to an integral value in a mode (R161); `nx` says whether an inexact result sets NX. -/
def fpIntegral (rm : Rm) (ftz nx : Bool) (a : Nat) : Nat × Flags :=
  match unpack f32 ftz a with
  | .nan k => roundV f32 rneMode (.nan k)
  | .inf neg => (f32.inf neg, 0)
  | .fin neg m e =>
    let r := quantise rm neg m e 0 false
    ((roundFin f32 rneMode neg r.1 0 false).1, if r.2 && nx then fNX else 0)

/-! ### The fixed tree (R47) -/

/-- One leaf: canonical NaN, FTZ where the mode has it, NV for a signalling NaN. -/
def treeLeaf (f : Fmt) (md : FpMode) (a : Nat) : Nat × Flags :=
  if isNan f a then (f.nan, if isSnan f a then fNV else 0)
  else if md.ftz && a / 2 ^ f.mb % 2 ^ f.eb == 0 then (f.zero (a.testBit (f.eb + f.mb)), 0)
  else (a, 0)

/-- The largest power of two below `n`, for n at least 2. -/
def pow2Below (n : Nat) : Nat := 2 ^ Nat.log2 (n - 1)

/-- The fixed tree over a list, with the flags of its nodes and leaves; `depth` bounds the recursion. -/
def treeSum (f : Fmt) (md : FpMode) : Nat → List Nat → Nat × Flags
  | 0, xs => match xs with | [] => (0, 0) | x :: _ => treeLeaf f md x
  | depth + 1, xs =>
    match xs with
    | [] => (0, 0)
    | [x] => treeLeaf f md x
    | x :: y :: r =>
      let h := pow2Below (r.length + 2)
      let a := treeSum f md depth ((x :: y :: r).take h)
      let b := treeSum f md depth ((x :: y :: r).drop h)
      let c := fpAdd f md a.1 b.1
      (c.1, a.2 ||| b.2 ||| c.2)

/-- The fixed tree over a list (R47). -/
def fixedTree (f : Fmt) (md : FpMode) (xs : List Nat) : Nat × Flags := treeSum f md (Nat.log2 xs.length + 1) xs

/-! ### Block floating point (R41 to R44) -/

/-- The fields of a burst header (R41). -/
structure BfpHeader where
  e : Nat
  length : Nat
  wm2 : Nat
  last : Bool
  bad : Bool
  deriving DecidableEq, Repr

/-- Reads a burst header; a malformed one reads as E = 0xFF with a LENGTH of at least 1 (R43). -/
def bfpHeader (h : W32) : BfpHeader :=
  let len := (h.extractLsb' 8 16).toNat
  let w := (h.extractLsb' 5 3).toNat
  let bad := len == 0 || w == 7 || h.extractLsb' 1 4 != 0#4
  { e := if bad then 0xFF else (h.extractLsb' 24 8).toNat, length := if len = 0 then 1 else len, wm2 := w,
    last := h.getLsbD 0, bad := bad }

/-- The header of a burst. -/
def bfpHeaderWord (e len wm2 : Nat) (last : Bool) : W32 :=
  BitVec.ofNat 32 (e % 256 * 2 ^ 24 + len % 65536 * 2 ^ 8 + wm2 % 8 * 2 ^ 5 + (if last then 1 else 0))

/-- The mantissa in a byte of width w = wm2 + 2: its low bits, sign-extended (R41). -/
def bfpMantissa (wm2 : Nat) (b : Byte) : Int := signedNat (wm2 + 2) b.toNat

/-- The FP32 value of an element (R42, R43), with the flags of a consumer that sets them. -/
def bfpElement (ftz : Bool) (e : Nat) (m : Int) : Nat × Flags :=
  if e = 0xFF then (f32.nan, 0)
  else roundFin f32 ⟨.rne, ftz⟩ (decide (m < 0)) m.natAbs ((e : Int) - 127) false

/-- Whether a value times 2^(127 − E) is an integer, and that integer rounded to nearest even (R44). -/
def bfpQuantOne (e : Nat) (w : Nat) (v : FVal) : Int × Flags :=
  match v with
  | .fin neg m x =>
    if m = 0 then (0, 0)
    else
      let r := quantise .rne neg m x ((e : Int) - 127) false
      let t : Int := if neg then -(r.1 : Int) else r.1
      let lo : Int := -(2 ^ (w - 1) : Nat)
      let hi : Int := (2 ^ (w - 1) : Nat) - 1
      let nx := if r.2 then fNX else 0
      if t < lo then (lo, nx ||| fBFPCLIP ||| fNX) else if hi < t then (hi, nx ||| fBFPCLIP ||| fNX) else (t, nx)
  | _ => (0, fNV)

/-- Exponent of the highest bit of a value, with `none` for zero. -/
def FVal.top : FVal → Option Int
  | .fin _ m e => if m = 0 then none else some ((Nat.log2 m : Int) + e)
  | _ => none

/-- The larger of two exponents. -/
def maxTop : Option Int → Option Int → Option Int
  | none, b => b
  | a, none => a
  | some a, some b => some (max a b)

/-- Whether a value is a NaN or an infinity. -/
def FVal.special : FVal → Bool
  | .fin _ _ _ => false
  | _ => true

/-- Quantises a group to one burst: E, the mantissas and the flags (R44). DESIGN CHOICE (log 50): a group with a NaN or an infinity sets NV alone. -/
def bfpQuant (w : Nat) (xs : List Nat) : Nat × List Int × Flags :=
  let vs := xs.map (unpack f32 false)
  if vs.any FVal.special then (0xFF, vs.map (fun _ => 0), fNV)
  else
    let e := match vs.foldl (fun a v => maxTop a v.top) none with
      | none => 0
      | some t => (max 0 (min 254 (t - ((w : Int) - 2) + 127))).toNat
    let qs := vs.map (bfpQuantOne e w)
    (e, qs.map (fun q => q.1), qs.foldl (fun a q => a ||| q.2) 0)

/-! ### Ternary bytes (R45, R46) -/

/-- The five trits of a byte, lowest input first; `none` for a code above 242. -/
def t5Decode (b : Byte) : Option (List Int) :=
  let n := b.toNat
  if 242 < n then none
  else some [(n % 3 : Nat) - 1, (n / 3 % 3 : Nat) - 1, (n / 9 % 3 : Nat) - 1, (n / 27 % 3 : Nat) - 1, (n / 81 % 3 : Nat) - 1]

/-- The byte of five trits. -/
def t5Encode : List Int → Nat
  | [] => 0
  | t :: ts => (t + 1).toNat + 3 * t5Encode ts

end Sys2Proof.Machine
end

