-- ==== Sys2Proof/Machine/State.lean ====
section
/-! DEFINITION. The state of one YR-7216 module: the cores, the segments of swept memory, the dies, the launches and images, the
host interface, the links to other modules and the clocks; and the state right after reset. All of it is plain data. -/

namespace Sys2Proof.Machine

/-! ### Registers -/

/-- The register files of a core, and the control registers that an instruction samples at issue (R108, R33, R176, R251). -/
structure Regs where
  /-- s0 to s31. -/
  s : SMap Word := []
  /-- Predicates; bit 0 is not used, p0 reads 1. -/
  p : BitVec 8 := 0
  /-- m0 to m7; m0 reads all ones. -/
  m : SMap Word := []
  /-- v0 to v31: register × 64 + element. -/
  v : SMap W32 := []
  /-- q0 to q7: register × 64 + element. -/
  q : SMap Word := []
  /-- t0 to t7: register × 8192 + byte. -/
  t : SMap Byte := []
  /-- Tile exponent stores: register × 64 + row. -/
  texp : SMap Byte := []
  /-- Accumulator sets of the ternary array: set × 2048 + column × 16 + lane. -/
  x : SMap W32 := []
  /-- `TSHAPE0` to `TSHAPE7`. -/
  tshape : SMap (BitVec 23) := []
  /-- `FPCTL`. -/
  fpctl : BitVec 3 := 0
  /-- `XCTX.SEL`. -/
  xsel : BitVec 1 := 0
  /-- `XCTX.TAG0`. -/
  xtag0 : Byte := 0
  /-- `XCTX.TAG1`. -/
  xtag1 : Byte := 0
  deriving DecidableEq, Repr

/-- One place of a register file, with the value written to it (R157, R183). -/
inductive RegCell where
  | s (r : Nat) (v : Word)
  | m (r : Nat) (v : Word)
  | v (i : Nat) (v : W32)
  | q (i : Nat) (v : Word)
  | t (i : Nat) (v : Byte)
  | te (i : Nat) (v : Byte)
  | x (i : Nat) (v : W32)
  deriving DecidableEq, Repr

/-- Where a part of a load in flight goes: an element of a vector or of a mesh entry, its value extended with its sign or not; a row of a tile of a shape (code,
columns, WM2); a row of a window; a lane of an accumulator set. -/
inductive LoadTo where
  | v (i : Nat) (signed : Bool)
  | mesh (dir i : Nat) (signed : Bool)
  | tile (row code cols wm2 : Nat)
  | window (row : Nat)
  | lane (set l : Nat)
  deriving DecidableEq, Repr

/-- A part of a load: its address, the bytes that it brings, and where they go (R153, R181). -/
structure LoadPart where
  addr : Nat := 0
  bytes : List Byte := []
  dest : LoadTo
  deriving DecidableEq, Repr

/-- A V or T operation in flight: the cells that it finishes in each of its beats, with what they held and what they become
(R156, R157, R182, R183; log 5). -/
structure Fly where
  /-- Number of the operation: the core's count of beats at its issue. -/
  id : Nat := 0
  /-- Row of the operation. -/
  row : Nat := 0
  /-- `FPCTL` as it was sampled. -/
  fp : BitVec 3 := 0
  /-- T opcode, 0 for a V operation. -/
  op : Nat := 0
  /-- Beat in which the operation issued. -/
  beat : Nat := 0
  /-- Beats for which it keeps its unit busy. -/
  busy : Nat := 0
  /-- Elements that it writes as it goes; 0 where it writes only in its final step. -/
  each : Nat := 0
  /-- Bytes of a row of a T operation, at 256 bytes a beat; 0 where it keeps no rows (R183). -/
  unit : Nat := 0
  /-- Cells before, by the beat that finishes them. -/
  old : List (List RegCell) := []
  /-- Cells after. -/
  new : List (List RegCell) := []
  /-- Scratchpad bytes that a store writes, by beat and in order: address, byte before, byte after. -/
  mem : List (List (Nat × Byte × Byte)) := []
  /-- What a load reads, by beat. -/
  loads : List (List LoadPart) := []
  /-- Uncorrectable units of tiles and of scratchpad that its writes clear (R180). -/
  clearsT : List Nat := []
  clearsS : List Nat := []
  /-- Beat in which its flags arrive, and its flags. -/
  flagAt : Nat := 0
  flags : BitVec 16 := 0
  /-- Ticks of stalls in which its stores went on (R128). -/
  extra : Nat := 0
  /-- Beats completed when the core stopped; none while it runs. -/
  kept : Option Nat := none
  /-- What its outstanding groups ask of the banks, while it is stopped (R131, R178). -/
  asks : List (List (Nat × Nat)) := []
  /-- Interval of the race detector at issue, and the sectors that other cores have written since (R153, R313). -/
  interval : Word := 0
  met : List Nat := []
  deriving DecidableEq, Repr

/-! ### Tensors and passes -/

/-- A tensor descriptor: its thirteen fields (R23) and VALID (R27). -/
structure Desc where
  format : BitVec 16 := 0
  layout : Byte := 0
  rank : Byte := 0
  dim0 : W32 := 0
  dim1 : W32 := 0
  dim2 : W32 := 0
  dim3 : W32 := 0
  base : Word := 0
  limit : Word := 0
  scaleTid : Byte := 0
  group : BitVec 16 := 0
  density : W32 := 0
  pad : W32 := 0
  valid : Bool := false
  deriving DecidableEq, Repr

/-- What a pass does. -/
inductive PassKind where
  | copy
  | gath
  | scanSumi | scanSumf | scanMin | scanMax | scanCount
  | filt
  | put
  | updAddi | updAddf | updMini | updMaxi | updAnd | updOr | updXor | updSwap
  | updoAddf | updoAddi
  | cmt
  | adam
  | zero
  | zeroPhys
  | hostIn | hostOut
  | matWrite | matAccum
  deriving DecidableEq, Repr

/-- State of a pass slot (R222). -/
inductive PState where
  | idle | riding | parked | closing
  deriving DecidableEq, Repr

/-- Order key of a pass: launch id, logical core, sequence number; supervisor passes come after all user passes, in the order
in which they opened (R208). -/
structure PassKey where
  sup : Bool := false
  launch : Nat := 0
  lcore : Nat := 0
  seq : Nat := 0
  deriving DecidableEq, Repr

/-- A pass slot and the pass in it (R221, R222, R230). -/
structure Pass where
  st : PState := .idle
  kind : PassKind := .copy
  tag : BitVec 6 := 0
  tid : Byte := 0
  /-- Values of the registers A, B, C, D and E at issue. -/
  sa : Nat := 0
  sb : Nat := 0
  sc : Nat := 0
  sd : Nat := 0
  se : Nat := 0
  cmp : BitVec 3 := 0
  idx : Bool := false
  ret : Bool := false
  lane : Nat := 0
  /-- Accumulator set a `PMAT` is bound to (R252). -/
  set : Nat := 0
  /-- Context whose space the pass reads (0 for a supervisor pass). -/
  ctx : Byte := 0
  /-- Descriptors as they stood at open (R29). -/
  desc : Desc := {}
  sdesc : Desc := {}
  key : PassKey := {}
  /-- Segment ridden. -/
  seg : Nat := 0
  /-- Row that opened it, or that last reopened it (R219). -/
  row : Nat := 0
  /-- Row that opened it (R314, R316), and the core's count of beats then. -/
  openRow : Nat := 0
  openBeat : Nat := 0
  openPt : Nat := 0
  visits : Nat := 0
  /-- Visits of the segment that go by before the pass may make its next one (R204, R220). -/
  lead : Nat := 0
  /-- Ticks until it closes (R205). -/
  closeIn : Nat := 0
  /-- Parked by its check at open: the whole check is made again (R220). -/
  atOpen : Bool := false
  /-- Trap pending: code and range-stitch number (R219). -/
  trap : Option (Byte × Nat) := none
  /-- Tick of the die in which it parked: a boundary of a later tick takes the trap (R219). -/
  trapAt : Nat := 0
  /-- Parked by a stop of the core: it reopens when the core resumes (R230). -/
  stopParked : Bool := false
  /-- Frozen by the debugger (R360). -/
  frozen : Bool := false
  /-- Page whose check stands: virtual base and bytes (R216). -/
  page : Option (Nat × Nat) := none
  /-- Range entries that the check at open found (R216, R217). -/
  ranges : List (BitVec 128) := []
  /-- Interval of the race detector at issue (R313). -/
  interval : Word := 0
  /-- For a `PCMT`: the `PUPDO` passes that had closed when it opened (R239). -/
  elig : List PassKey := []
  /-- Scratchpad areas that the pass reads and that it writes: address, length (R228). -/
  srcAreas : List (Nat × Nat) := []
  dstAreas : List (Nat × Nat) := []
  /-- Destination bytes that the program has written meanwhile: their final values are unspecified (R228, log 9). -/
  spoilt : List Nat := []
  /-- Control word of a `PMAT`, as it was read at issue (R253, R259). -/
  ctl : Nat := 0
  /-- Source bytes as they stood at issue (log 10). -/
  src : Memory := []
  /-- Destination bytes formed so far, by scratchpad address. -/
  out : Memory := []
  /-- Captured elements by item, or the partials of a `PMAT` by group × 128 + column. -/
  got : SMap Word := []
  /-- Scales of a `PMAT` by group × 128 + column, as BF16. -/
  scales : SMap (BitVec 16) := []
  /-- Weight stitches visited, by group of a `PMAT`, as a 64-bit set. -/
  done : SMap Nat := []
  /-- Group in the lane plus one; 0 for none. -/
  inLane : Nat := 0
  /-- Nonzero trits added (R264). -/
  trits : Nat := 0
  /-- Charge taken at issue (R263). -/
  charge : Nat := 0
  /-- Host lines that have been transferred or refused, those refused, and the bytes read, by host address (R242, R310). -/
  hostSeen : List Nat := []
  hostRefused : List Nat := []
  hostGot : Memory := []
  /-- The key pair under which its lines were encrypted before their slot was zeroised (R396). -/
  oldPair : Option (BitVec 512) := none
  /-- Groups of a `PMAT` in which an illegal code has been met: they do not drain (R46, R260). -/
  illegal : List Nat := []
  /-- Groups of a `PMAT` of which partials have been stored in their staging rows (R256), and scales that a visit could not capture, by group × 128 +
  column (R210, R257). -/
  stored : List Nat := []
  lost : List Nat := []
  /-- ERR is set at close. -/
  err : Bool := false
  /-- Flags ORed at close (R39). -/
  flags : BitVec 16 := 0
  /-- Cancelled (R244). -/
  cancelled : Bool := false
  deriving DecidableEq, Repr

/-- One contribution staged by a `PUPDO` (R238). -/
structure Contribution where
  ctx : Byte := 0
  tid : Byte := 0
  /-- Word of the segment: stitch × 32 + word of the stitch. -/
  word : Nat := 0
  u : W32 := 0
  fp : Bool := false
  key : PassKey := {}
  k : Nat := 0
  /-- Its `PUPDO` has closed. -/
  closed : Bool := false
  deriving DecidableEq, Repr

/-! ### Links -/

/-- What one L operation sends (R276 to R279, R293). -/
inductive LOp where
  /-- A message of entries. -/
  | send (entries : List (List W32))
  /-- Words written at an address. -/
  | put (addr : Nat) (words : List W32)
  /-- Words combined at an address: 0 add, 1 fp add, 2 minimum, 3 maximum. -/
  | amo (op : Nat) (addr : Nat) (words : List W32)
  /-- A stage appended to the buffer at an address. -/
  | commit (addr : Nat) (words : List W32)
  deriving DecidableEq, Repr

/-- An L operation on its way to one target (R274). -/
structure Sent where
  op : LOp
  /-- Number of the operation among those the core has sent: its copies for several targets share it. -/
  no : Nat := 0
  /-- Entries it fills, and entries that its circuit has accepted. -/
  entries : Nat := 1
  taken : Nat := 0
  /-- Target: a core of this launch, or over a trunk a core of the peer launch. -/
  far : Bool := false
  trunk : Nat := 0
  /-- Logical core and receive port of the target. -/
  core : Nat := 0
  rport : Nat := 0
  /-- Tick of the sender's die from which it may arrive (R274, log 7). -/
  due : Nat := 0
  /-- Entries that the target's banks have applied (R278, R279). -/
  applied : Nat := 0
  /-- Sequence number of its last flit, once it is on an Igdin link. -/
  flit : Option Nat := none
  /-- Interval of the race detector it carries (R312). -/
  interval : Word := 0
  deriving DecidableEq, Repr

/-- An operation that has come over a trunk and is not yet applied (R272, R274): its number, the home port of its trunk, the port on which it came
and the SEQ of its last flit, the launch, logical core and port that sent it, its target, and the tick of die 0 in which its last flit came. -/
structure FarOp where
  id : Nat := 0
  home : Nat := 0
  link : Nat := 0
  flit : Byte := 0
  ctx : Byte := 0
  lid : BitVec 16 := 0
  lcore : Nat := 0
  port : Nat := 0
  core : Nat := 0
  rport : Nat := 0
  op : LOp
  entries : Nat := 1
  applied : Nat := 0
  due : Nat := 0
  deriving DecidableEq, Repr

/-- The target of an operation from a trunk is a logical core of a launch. -/
def FarOp.isFor (o : FarOp) (ctx : Byte) (lid : BitVec 16) (lcore : Nat) : Bool := o.ctx == ctx && o.lid == lid && o.core == lcore

/-- A mesh entry on its way (R154): its words, the operation that sends it, and the tick from which it may arrive, once the last element group has
issued. -/
structure MeshEntry where
  words : List W32 := []
  id : Nat := 0
  due : Option Nat := none
  deriving DecidableEq, Repr

/-- An entry of a receive queue: eight words; the first entry of a message names its sender and the interval it carries. -/
structure Entry where
  words : List W32 := []
  sender : Option (Nat × Word) := none
  deriving DecidableEq, Repr

/-- A stage that another core has committed (R312): address of the object, number of the stage, sender and carried interval. -/
structure Commit where
  obj : Nat := 0
  stage : Nat := 0
  core : Nat := 0
  interval : Word := 0
  /-- Tick of the die in which it was applied. -/
  tick : Nat := 0
  deriving DecidableEq, Repr

/-- An arrival at a barrier id (R288): its effective scope (0 die, 1 launch, 2 system), the number of operations that the core had
sent, the interval it carries, and the tick of the die from which the completion may see it (R290, log 7). -/
structure Arrival where
  scope : Nat := 0
  after : Nat := 0
  interval : Word := 0
  due : Nat := 0
  deriving DecidableEq, Repr

/-- A port binding of the SWITCH section: port and target words (R271, R272). -/
structure Binding where
  port : Nat := 0
  targets : List W32 := []
  deriving DecidableEq, Repr

/-! ### Cores -/

/-- What a core is doing. -/
inductive Run where
  /-- Holds no launch. -/
  | released
  /-- Placed for a launch and not started. -/
  | placed
  /-- Issues rows. -/
  | running
  /-- `EXIT` has issued and outstanding work is awaited (R145). -/
  | exiting
  /-- Has exited and waits for the rest of its launch. -/
  | exited
  /-- Suspended (R367) or stopped for checkpoint. -/
  | suspended
  /-- Halted (R348). -/
  | halted
  deriving DecidableEq, Repr

/-- Why a running core issues no row although none of R129's delays holds it. -/
inductive Hold where
  | none
  /-- A `TRAP` waits for its answer; the destination register (R346). -/
  | trap (d : Nat)
  /-- A delivered class P or debug trap waits for its answer (R346). -/
  | delivered
  /-- A supervisor operation runs until a tick of the die; then the register takes the value (R361, R395). -/
  | op (d : Nat) (due : Nat) (v : Word)
  /-- A `CTXSV` or `CTXRS` waits for lines of the host, or for its supervisor passes (R368). -/
  | host (d : Nat)
  /-- The handler's first row issues at a tick of the die (R345). -/
  | entry (due : Nat)
  deriving DecidableEq, Repr

/-- A position: row, beat, beats still pending before the row issues (R131), and the id at which the `BAR` of that row has arrived
(R288). -/
structure Pos where
  row : Nat := 0
  beat : Word := 0
  pend : Nat := 0
  barIn : Option Nat := none
  deriving DecidableEq, Repr

/-- A class I fault of a core (R342, R349). -/
structure CoreFault where
  code : Byte := 0
  row : Nat := 0
  elem : Word := 0
  slot : Nat := 7
  addr : Word := 0
  deriving DecidableEq, Repr

/-- The halt line on its way to a core or arrived at it (R348). -/
structure Halt where
  /-- Tick h of the die in which the line reaches the core. -/
  at_ : Nat := 0
  /-- Raised by `HALTCTX` (KIND 3) rather than by a fault. -/
  byReq : Bool := false
  /-- A suspension (KIND 2), not a halt. -/
  suspend : Bool := false
  /-- `WALLT` of that tick (R349). -/
  wall : Option Nat := none
  /-- The core has stopped; its record is still to be written. -/
  stopped : Bool := false
  deriving DecidableEq, Repr

/-- The trap registers (R344). -/
structure TrapRegs where
  en : Bool := false
  vec : BitVec 14 := 0
  inh : Bool := false
  cls : BitVec 2 := 0
  code : Byte := 0
  row : BitVec 14 := 0
  elem : Word := 0
  svc : BitVec 16 := 0
  dlv : Bool := false
  req : BitVec 5 := 0
  slot : BitVec 3 := 0
  deriving DecidableEq, Repr

/-- A trap delivered to the anchor (R346). -/
structure TrapReq where
  code : Byte := 0
  cls : BitVec 2 := 0
  row : Nat := 0
  elem : Word := 0
  svc : BitVec 16 := 0
  slot : Nat := 0
  /-- Tick of the die in which it was made. -/
  tick : Nat := 0
  /-- Pass slot of a class P trap. -/
  pslot : Option Nat := none
  deriving DecidableEq, Repr

/-- A `TMMA` that has issued and whose rows have not all been applied (R190 to R192). -/
structure TmmaJob where
  row : Nat := 0
  /-- The core's count of beats at its issue. -/
  beat : Nat := 0
  /-- 0 BF16, 1 BFP, 2 I8. -/
  kind : Nat := 0
  write : Bool := false
  addr : Nat := 0
  /-- Rows 0 to 15 of the operand tiles, and their exponents, as latched. -/
  a : List Byte := []
  b : List Byte := []
  ea : List Byte := []
  eb : List Byte := []
  /-- WM2 of the two tiles. -/
  wa : Nat := 0
  wb : Nat := 0
  fp : BitVec 3 := 0
  busy : Nat := 4
  /-- Tick of the die at whose end it hands over; none while the core is stopped and the work is to be done again. -/
  due : Option Nat := none
  /-- Runs made (R192). -/
  runs : Nat := 0
  /-- Handed over: its rows reach C in the ticks that follow. -/
  handed : Bool := false
  /-- Rows that their banks have applied: the tick from which each can be read. -/
  rows : SMap Nat := []
  flags : BitVec 16 := 0
  deriving DecidableEq, Repr

/-- The scratchpad banks of a core, and its accesses that go on in later beats (R178, R179). -/
structure Banks where
  /-- Tick of the die from which each bank is free. -/
  free : SMap Nat := []
  /-- Tick up to which an access of several granules in one bank holds the core. -/
  hold : Nat := 0
  /-- What the V and the T operation in flight ask of the banks in each beat to come: areas of bytes. -/
  v : List (List (Nat × Nat)) := []
  t : List (List (Nat × Nat)) := []
  /-- Areas of a `TST` whose chunks are still on their way to the banks, and areas of `TST`s that are not ready before a tick (R184). -/
  tst : List (Nat × Nat) := []
  ready : List (Nat × Nat × Nat) := []
  deriving DecidableEq, Repr

/-- A core (R2, R108 to R110, R131). -/
structure Core where
  regs : Regs := {}
  /-- The registers as they stood when the row in hand issued (R125, log 4). -/
  src : Regs := {}
  fpflags : BitVec 16 := 0
  /-- Beats that the core has issued, those of handler rows too: the model's own count (log 4). -/
  beats : Nat := 0
  /-- Flags on their way: the beat of that count in which they arrive, and the flags (R39). -/
  flagQ : List (Nat × BitVec 16) := []
  /-- Flags of passes and of `TMMA` work that arrived last, and the tick of the die in which they did (R39). -/
  arrived : Nat × BitVec 16 := (0, 0)
  rngkey0 : Word := 0
  rngkey1 : Word := 0
  sctr : Word := 0
  vctr : Word := 0
  tags : Word := 0
  tagerr : Word := 0
  /-- Passes and refused opens on each tag (R223). -/
  riders : SMap Nat := []
  /-- Refused opens pending: ticks left, tag (R225). -/
  refusals : List (Nat × BitVec 6) := []
  passes : SMap Pass := []
  seq : W32 := 0
  /-- Rows of `TRANS_SEG` traps of a core with no segment that are still to be taken (R226). -/
  segTrap : List Nat := []
  /-- Tick in which the `PMAT` row in hand fell due, and its charge (R263). -/
  heatDue : Option (Nat × Nat) := none
  /-- The stitch that a `CWAIT` in hand waits for has come (R206). -/
  swept : Bool := false
  /-- Passes that a `PRND` in hand waits for (R245). -/
  prnd : Option (List (Nat × Nat)) := none
  vfly : Option Fly := none
  tfly : Option Fly := none
  /-- Operations that a trap stopped, while the handler runs (R131, R345). -/
  vkept : Option Fly := none
  tkept : Option Fly := none
  tmma : List TmmaJob := []
  banks : Banks := {}
  /-- An upset of the array yet to come: runs it spoils, failing row and column (R192). -/
  tileUpset : Option (Nat × Nat × Nat) := none
  scratch : Memory := []
  /-- Uncorrectable units of 8 bytes: scratchpad address div 8 (R180). -/
  badScratch : List Nat := []
  /-- Uncorrectable units of 8 tile bytes: register × 1024 + byte div 8, and of 8 exponents: 8192 + register × 8 + row div 8. -/
  badTile : List Nat := []
  /-- Row store: row number × 8 + word; the image it holds; rows with a parity error (R94, R95). -/
  rowStore : SMap W32 := []
  rows : Nat := 0
  image : Option W32 := none
  badRows : List Nat := []
  /-- Tick of the die in which the expansion into it is complete (R74); tick in which the core resumes, where it waits for that (R84). -/
  expandAt : Nat := 0
  wakeAt : Option Nat := none
  run : Run := .released
  /-- What a suspended core goes back to. -/
  runKept : Run := .running
  pos : Pos := {}
  hold : Hold := .none
  /-- Target of the branch that the row in hand takes (R127). -/
  jump : Option Nat := none
  /-- Rows after a `CALL`, and ITGT rows, are found in the row store. -/
  ret : Option Pos := none
  /-- An `ERET` of the row in hand has put the core at its return position. -/
  moved : Bool := false
  trap : TrapRegs := {}
  /-- A `TRAP` of an anchor that enters its handler at the next boundary; its register, also while the handler runs (R362). -/
  swtrap : Option TrapReq := none
  trapDst : Nat := 0
  /-- Debug state (R358) and, on an anchor, the core it selects. -/
  step : Bool := false
  brken : Bool := false
  pfreeze : Bool := false
  dbgCore : BitVec 5 := 0
  /-- Debug traps taken at this boundary (R347): break, step. -/
  brkTaken : Bool := false
  stepTaken : Bool := true
  halt : Option Halt := none
  fault : Option CoreFault := none
  skidRows : Nat := 0
  discarded : Nat := 0
  /-- Delay that held the core last: 0 none, 1 to 11 (R129, R349). -/
  held : Nat := 0
  /-- Tick of the die in which the start pulse fired: the entry row issues in it (R324). -/
  startAt : Option Nat := none
  /-- Consecutive ticks under a send stall, its port, and the slot of the instruction that meets it (R281, R342). -/
  stall : Nat := 0
  stallPort : Nat := 0xFF
  stallSlot : Nat := 0
  /-- Beat and row of the last row issued. -/
  lastBeat : Word := 0
  lastRow : Nat := 0
  /-- Launch of the core (R83). -/
  ctx : Byte := 0
  lid : BitVec 16 := 0
  lcore : Nat := 0
  ncores : Nat := 0
  diegrp : Nat := 0
  /-- Segment attached (R82). -/
  seg : Option Nat := none
  /-- Reserved amounts of its launch (R21, R22). -/
  scratchLen : Nat := 0
  passesMax : Nat := 0
  lanes : Nat := 0
  tagsMax : Nat := 0
  barriers : BitVec 16 := 0
  lstall : Nat := 0
  mesh : Bool := false
  det : Bool := false
  bindings : List Binding := []
  /-- Sent and not yet delivered, oldest first, by port (R270, R274). -/
  sends : SMap (List Sent) := []
  /-- Receive queues by port: entries of eight words (R270). -/
  recvQ : SMap (List Entry) := []
  /-- Operations sent so far. -/
  sendNo : Nat := 0
  /-- Stages that other cores have committed and `CBWAIT` has not handed out. -/
  commits : List Commit := []
  /-- Mesh entries on their way, and entries received, by direction N 0, E 1, S 2, W 3 (R154). -/
  meshSend : SMap (List MeshEntry) := []
  meshRecv : SMap (List (List W32)) := []
  /-- `LAUNCH` records, newest first (R294). -/
  launched : List (BitVec 16) := []
  arr : BitVec 16 := 0
  ph : BitVec 16 := 0
  /-- The arrival at each id (R288, R290). -/
  arrivals : SMap Arrival := []
  /-- Race detector (R312 to R315). -/
  racemode : BitVec 2 := 0
  raceLost : Bool := false
  raceCount : BitVec 32 := 0
  raceBase : BitVec 18 := 0
  raceSize : BitVec 4 := 0
  raceNext : BitVec 16 := 0
  interval : Word := 0
  observed : SMap Word := []
  /-- Shadows by sector: writer + 1, interval, atomic (R313). -/
  shadows : SMap (Nat × Word × Bool) := []
  /-- Map-store window of an anchor (R215). -/
  mapCtx : Byte := 0
  mapTable : Bool := false
  mapIndex : BitVec 16 := 0
  /-- Selections of an anchor (R375, R378, R383). -/
  scrubSel : BitVec 6 := 0
  ownSel : BitVec 6 := 0
  keySel : BitVec 6 := 0
  /-- Owner record (R375). -/
  owner : Byte := 0
  placed : Bool := false
  parts : Bool := false
  /-- Tick of the die by which hardware has zeroed the released core (R373). -/
  partsDue : Nat := 0
  low : BitVec 17 := 0
  high : BitVec 17 := 0
  fused : Bool := false
  /-- The core has failed and was moved off: it takes no launch (R84, R392). -/
  failed : Bool := false
  /-- A `TDW` has issued that has not reached the descriptor cache (R146): tick of the die in which it does. -/
  tdwDue : Nat := 0
  /-- Passes a `MAPFENCE` in hand waits for (R216). -/
  mapfence : Option (List (Nat × Nat)) := none
  /-- An anchor that runs a program of its own instead of Boluno firmware (log 15). -/
  own : Bool := false
  /-- Entry row of that program. -/
  entry : Nat := 0
  /-- Trunks on which the core has sent (R286). -/
  farSent : List Nat := []
  deriving DecidableEq, Repr

/-! ### Segments and dies -/

/-- A remap in progress (R202): the new live banks, set-up ticks left, steps of the walker made. The bytes keep their stitch
indices, so that the walk itself moves nothing in `Seg.data`. -/
structure Remap where
  live : BitVec 32 := 0
  setup : Nat := 64
  step : Nat := 0
  deriving DecidableEq, Repr

/-- A segment of a die (R193). -/
structure Seg where
  /-- Bytes of swept memory by stitch × 128 + byte. -/
  data : Memory := []
  /-- Uncorrectable stitches (R210). -/
  bad : List Nat := []
  live : BitVec 32 := 0xFFFFFFFF
  cursor : Nat := 0
  remap : Option Remap := none
  owner : Byte := 0
  /-- Dirty blocks of 16,384 stitches (R377). -/
  dirty : BitVec 512 := 0
  ord : List Contribution := []
  /-- Entries reserved by each `PUPDO` (R238). -/
  reserved : List (PassKey × Byte × Nat) := []
  /-- Page-zero record (R378, R380). -/
  pzValid : Bool := false
  pzFirst : Nat := 0
  pzCount : Nat := 0
  pzNext : Nat := 0
  pzRemain : Nat := 0
  /-- The pass that changes the record, and blocks that user writes have touched since it was replaced (R381, R382). -/
  pzPass : Option PassKey := none
  pzTouched : BitVec 512 := 0
  /-- Row groups on a spare lane: bank × 64 + group of 4,096 rows (R391). -/
  repaired : List Nat := []
  /-- Hot banks and their refresh pointers (R200). -/
  hot : BitVec 32 := 0
  refresh : SMap Nat := []
  deriving DecidableEq, Repr

/-- A key slot (R383). -/
structure KeySlot where
  pair : BitVec 512 := 0
  loaded : Bool := false
  ctx : Byte := 0
  deriving DecidableEq, Repr

/-- The scrub engine of a die (R378). -/
structure Scrub where
  busy : Bool := false
  core : BitVec 5 := 0
  base : Nat := 0
  len : Nat := 0
  done : Nat := 0
  /-- Tick of the die from which the write of its unit has been asked for (R179). -/
  since : Nat := 0
  deriving DecidableEq, Repr

/-- What the supervisor passes of an access to the save region are for (R357, R368): a `CTXSV` or `CTXRS` of an anchor for a core, by their
keys, or the checkpoint or the restoration of a core by firmware. -/
inductive RegionUse where
  | save (anchor core : Nat)
  | restore (anchor core : Nat)
  | checkpoint (core : Nat)
  | resume (core : Nat)
  deriving DecidableEq, Repr

/-- Supervisor passes over stitches of the save region (R208, R368): which, their place in the opening order, the visits that go by first, those
still to make, the ticks until they close, the bytes to write (none: they read) and those read so far, and whether one has met an uncorrectable
stitch. -/
structure RegionJob where
  use : RegionUse
  base : Nat := 0
  count : Nat := 0
  seq : Nat := 0
  lead : Nat := 0
  left : Nat := 0
  closeIn : Nat := 0
  data : Option (List Byte) := none
  got : Memory := []
  bad : Bool := false
  deriving DecidableEq, Repr

/-- A die (R2, R198, R262, R319 to R325, R345). -/
structure Die where
  tick : Nat := 0
  /-- Tick of the module as this die reckons it (R322, R323). -/
  ptick : Nat := 0
  /-- Estimates of how far the ticks of other dies are ahead of this die's. -/
  estimates : List (Nat × Int) := []
  cutOff : Bool := false
  /-- Wall time of a die other than die 0, in units of 2^−32 ns, and what its tick adds to it beyond the nominal rate (R328). -/
  wallt : Nat := 0
  wallRate : Int := 0
  /-- How far its wall time was ahead of die 0's, and is still to be held while the time is locked (R328, R329). -/
  wallOver : Nat := 0
  /-- The die's clock has let a round of the module's ticks go by (R318, log 1). -/
  slipped : Bool := false
  visits : Nat := 0
  /-- This tick is a hold tick. -/
  holdTick : Bool := false
  /-- The next tick is a hold tick. -/
  holdNext : Bool := false
  level : Level := .full
  /-- Level that firmware asked for, applied at the next 16-tick boundary. -/
  levelNext : Level := .full
  critical : Bool := false
  heatCap : BitVec 32 := 0
  /-- Balance in units of 1/1,024 token. -/
  heat : Int := 0
  heatRate : Nat := 0
  /-- Cores whose `PMAT` rows wait for heat (R263). -/
  heatQ : List Nat := []
  /-- Range entries by context × 256 + index, and page entries by index (R212, R213). -/
  ranges : SMap (BitVec 128) := []
  pages : SMap (BitVec 128) := []
  keys : SMap KeySlot := []
  scrub : Scrub := {}
  /-- Delivered traps waiting, by physical core (R346). -/
  reqs : SMap (Option TrapReq) := []
  /-- The request being answered (R346, R363): core, pass slot. -/
  serving : Option (Nat × TrapReq) := none
  /-- A `MAPFENCE` of firmware before it answers that request (R363): the passes that it waits for, and the two words of the answer. -/
  fence : Option (List (Nat × Nat) × Word × Word) := none
  /-- Supervisor passes of the save region (R368). -/
  region : List RegionJob := []
  /-- Heartbeats missed by this die's anchor, and the tick of the last exchange (R393). -/
  missed : Nat := 0
  beatAt : Nat := 0
  anchorFailed : Bool := false
  /-- Layers that were not brought up (R390): layers 1 to 8. -/
  layersDown : List Nat := []
  /-- Uncorrectable stitches that visits without a reader have reported to the anchor: segment × 2^23 + stitch (R210). -/
  reported : List Nat := []
  /-- Place of the die's supervisor passes in their opening order (R208). -/
  supSeq : Nat := 0
  deriving DecidableEq, Repr

/-! ### Launches, images, contexts -/

/-- A launch packet (R17, R18). -/
structure Packet where
  version : BitVec 16 := 0
  flags : BitVec 16 := 0
  image : W32 := 0
  lid : BitVec 16 := 0
  entry : BitVec 16 := 0
  cores : Nat := 0
  dies : Nat := 0
  ctx : Byte := 0
  scratch : Nat := 0
  passes : Nat := 0
  lanes : Nat := 0
  tags : Nat := 0
  prio : Byte := 0
  barriers : BitVec 16 := 0
  heat : Nat := 0
  prioTokens : Nat := 0
  lstall : Nat := 0
  remain : Nat := 0
  aff : List Byte := []
  deps : List (BitVec 16) := []
  notBefore : Nat := 0
  completion : Nat := 0
  args : List Word := []
  deriving DecidableEq, Repr

/-- An image of a core that the device has formed, and what it stands for (R352, R353, R368). -/
structure Save where
  /-- The core that was saved, which names its slot of the save region (R357). -/
  slot : Nat := 0
  /-- Bytes as they are stored, and the key pair they are encrypted under. -/
  image : List Byte := []
  pair : Option (BitVec 512) := none
  core : Core := {}
  /-- The delivered trap that the core waits for. -/
  req : Option TrapReq := none
  deriving DecidableEq, Repr

/-- State of an outstanding launch (R67). -/
inductive LState where
  | waiting | placed | running | suspended
  deriving DecidableEq, Repr

/-- An outstanding launch (R71). -/
structure Launch where
  pkt : Packet := {}
  st : LState := .waiting
  /-- Place in the order of arrival: by tick, then by offset in LWIN (R71). -/
  order : Nat := 0
  arrive : Nat := 0
  /-- Sent by `LAUNCH`: launch id and logical core of the sender (R294). -/
  parent : Option (BitVec 16 × Nat) := none
  /-- Places of its logical cores: die × 32 + core (R80). -/
  place : List Nat := []
  /-- Segments of its logical cores: segment + 1, or 0 (R79). -/
  segs : List Nat := []
  /-- Dies of its die groups. -/
  dieOf : List Nat := []
  /-- Start tick P_s, and the dies that have fired (R86). -/
  startAt : Nat := 0
  fired : List Nat := []
  first : Nat := 0
  last : Nat := 0
  beats : Nat := 0
  suspends : Nat := 0
  /-- First fault: cause, logical core, and `WALLT` as it was detected (R88). -/
  cause : Byte := 0
  faultCore : Nat := 0xFFFF
  faultAt : Nat := 0
  /-- Tick of die 0 from which the end may be detected (R372, log 7). -/
  endAt : Nat := 0
  /-- Status asked for by a halt: none, or the STATUS (R90, R367). -/
  status : Option Byte := none
  /-- The servo was locked at T_FIRST and at T_LAST (R88). -/
  tslockFirst : Bool := false
  tslockLast : Bool := false
  /-- It has ended, or never ran: its record is on its way, and it is outstanding until that is written (R75, R89). -/
  ended : Bool := false
  /-- Checkpointed: it waits to be placed again and restored, and the images of its logical cores (R357). -/
  restoring : Bool := false
  images : List Save := []
  /-- Tick of the lead die's PTICK in which step 3 of its start begins; none once TENSORS and INIT are written (R85). -/
  writeAt : Option Nat := none
  /-- Ports that carry its circuits, by trunk: port + 1 (R283). -/
  trunks : SMap Nat := []
  /-- System barriers (R289): the reports of children, by id and trunk; the ids whose phase this module has reported to its parent; and those
  whose release has come. -/
  sysIn : List (Nat × Nat) := []
  sysSent : BitVec 16 := 0
  sysGo : BitVec 16 := 0
  /-- Pre-emption in progress: 0 none, 1 drain, 2 checkpoint, 3 kill (R355); 4 its images are being written, 5 it has been placed again and they are
  being read (R357). -/
  preempt : Nat := 0
  deriving DecidableEq, Repr

/-- A resident image (R13, R14, R73). -/
structure Image where
  id : W32 := 0
  bytes : Nat := 0
  signed : Bool := false
  rows : List RowWords := []
  entry : Nat := 0
  minScratch : Nat := 0
  minPasses : Nat := 0
  minLanes : Nat := 0
  minTags : Nat := 0
  minHeat : Nat := 0
  tensors : List (Byte × Desc) := []
  inits : List (Nat × List Byte) := []
  switch : List Binding := []
  /-- SHA-512 digest of its bytes (R388). -/
  digest : BitVec 512 := 0
  deriving DecidableEq, Repr

/-- An open context (R69). -/
structure Ctx where
  opened : Bool := false
  signedOnly : Bool := false
  prot : Bool := false
  deriving DecidableEq, Repr

/-- An allocation (R78). -/
structure Alloc where
  handle : Word := 0
  ctx : Byte := 0
  base : Nat := 0
  stride : Nat := 0
  shards : Nat := 0
  dies : List Nat := []
  /-- Die × 32 + segment of each part. -/
  parts : List Nat := []
  paged : Bool := false
  page : Nat := 0
  deriving DecidableEq, Repr

/-! ### Host interface, links between modules, wall time -/

/-- A mailbox command in progress (R65). -/
structure MbxJob where
  code : Byte := 0
  seq : BitVec 16 := 0
  result : Byte := 0
  res : List (Nat × Word) := []
  /-- Tick of die 0 from which it may complete (log 7). -/
  due : Nat := 0
  /-- For a CANCEL: the state of the launch as it stood at the start of this tick, as QUERY codes it; none where it is not outstanding
  (R77). -/
  seen : Option Nat := none
  /-- For a CANCEL: the tick of die 0 from which it takes effect, and whether it has (R77). -/
  at_ : Nat := 0
  acted : Bool := false
  deriving DecidableEq, Repr

/-- A packet that has arrived in this tick and waits for its checks (R70, R71): its bytes, the offset in LWIN, the tick of die 0 and the
wall time in ns of its arrival, and for one sent by `LAUNCH` its sender and that core's context. -/
structure Arrived where
  bytes : List Byte := []
  off : Nat := 0
  tick : Nat := 0
  wall : Nat := 0
  parent : Option (BitVec 16 × Nat) := none
  sender : Option Byte := none
  deriving DecidableEq, Repr

/-- What a CXL.cache request that is not part of a `PHOST` is for (R73, R89, R368). -/
inductive CacheUse where
  /-- A completion record is written: context, launch, whether an interrupt follows, and whether it is the record of an outstanding
  launch. -/
  | record (ctx : Byte) (lid : BitVec 16) (msix out : Bool)
  /-- The image of an IMAGE_LOAD is read. -/
  | image
  /-- A `CTXSV` of an anchor writes the image of a core: the anchor's key and the core's. -/
  | save (anchor core : Nat)
  /-- A `CTXRS` of an anchor reads an image for a core. -/
  | restore (anchor core : Nat)
  deriving DecidableEq, Repr

/-- A CXL.cache request whose answers are awaited, line by line (R60, R89). -/
structure CacheReq where
  use : CacheUse
  /-- Number of the request, which its answers name. -/
  id : Nat := 0
  /-- Host address of its first line, and bytes in all. -/
  base : Nat := 0
  len : Nat := 0
  /-- Lines answered. -/
  done : Nat := 0
  /-- Bytes to write, or bytes read so far. -/
  data : List Byte := []
  /-- Tick of die 0 from which the host's answer comes (log 7). -/
  due : Nat := 0
  deriving DecidableEq, Repr

/-- The SPDM connection (R62, R385). -/
structure Spdm where
  /-- The steps of connection set-up that have been made. -/
  version : Bool := false
  caps : Bool := false
  algs : Bool := false
  /-- Sessions whose key exchange awaits `FINISH`, and sessions in force. -/
  pending : Nat := 0
  sessions : Nat := 0
  /-- The last response. -/
  answer : List Byte := []
  /-- IDE keys installed. -/
  ideKeys : List Byte := []
  deriving DecidableEq, Repr

/-- An Igdin port (R283 to R286). -/
structure Port where
  up : Bool := false
  retired : Bool := false
  /-- It has trained; training has failed. -/
  everUp : Bool := false
  failed : Bool := false
  /-- Identity of the far module, home port of the trunk, link version. -/
  identity : BitVec 64 := 0
  home : Nat := 0
  version : BitVec 16 := 0
  /-- Flits sent and flits accepted since the reset, and those sent that await acknowledgement, oldest first, each with its number. -/
  nextSend : Nat := 0
  nextRecv : Nat := 0
  replay : List (Nat × Flit) := []
  /-- Flits that are to go out, oldest first, the one whose last bit the lane carries in this tick, and the ninths of a bit of the next that it has
  carried (R283, R284). -/
  out : List Flit := []
  lane : Option Flit := none
  credit : Nat := 0
  /-- Times that a flit of a sequence number has failed its CRC here, and at the far end (R286). -/
  crcFails : SMap Nat := []
  naks : SMap Nat := []
  /-- Bytes received and not yet made an operation, by circuit. -/
  received : SMap (List Byte) := []
  /-- Its trunk has formed in the start-up under way: the trunk is still to find its lowest port (R283). -/
  newTrunk : Bool := false
  /-- Tick of the die in which the lane lost lock. -/
  lostAt : Option Nat := none
  deriving DecidableEq, Repr

/-- The states of the timing port (R326). -/
inductive PtpState where
  | initializing | listening | uncalibrated | slave | faulty | disabled
  deriving DecidableEq, Repr

/-- The timing port and the servo of wall time (R326 to R330); its times are in units of 2^−32 ns, its ticks are die 0's. -/
structure Ptp where
  st : PtpState := .initializing
  /-- The selected master and its data set. -/
  master : Option (BitVec 80) := none
  dataset : List Byte := []
  /-- Delay mechanism: none until it is chosen, then whether it is P2P. -/
  p2p : Option Bool := none
  listenAt : Nat := 0
  /-- Transport of the selected master's last Sync, and that of the port's last Delay_Req (R327). -/
  transport : Option Transport := none
  delayVia : Option Transport := none
  /-- A two-step Sync that awaits its Follow_Up: sequence number, time of receipt, correction. -/
  sync : Option (BitVec 16 × Int × Int) := none
  /-- Difference t2 − t1 of the last Sync, corrected, and the tick in which it was accepted. -/
  syncDiff : Int := 0
  lastSync : Nat := 0
  /-- A Delay_Req that awaits its Delay_Resp: sequence number and time sent; its sequence, tick and interval. -/
  delay : Option (BitVec 16 × Int) := none
  delaySeq : BitVec 16 := 0
  delayAt : Nat := 0
  delayEvery : Nat := 3600000000
  /-- A Pdelay_Req that awaits its Pdelay_Resp: sequence number and time sent. -/
  pdelay : Option (BitVec 16 × Int) := none
  pdelaySeq : BitVec 16 := 0
  pdelayAt : Option Nat := none
  /-- A two-step Pdelay_Resp that awaits its follow-up: sequence number, t4 − t1 + t2, corrected. -/
  pdelayResp : Option (BitVec 16 × Int) := none
  meanDelay : Int := 0
  /-- Filtered offset, and the rate that the servo adds in each tick. -/
  offset : Int := 0
  rate : Int := 0
  holdover : Bool := false
  /-- A step that is due. -/
  stepDue : Option Int := none
  /-- `WALLT` has crossed a whole second in this tick; PPS out is high, and since which tick. -/
  crossed : Bool := false
  ppsOut : Bool := false
  ppsAt : Nat := 0
  /-- Time of the last edge of PPS in. -/
  ppsIn : Int := 0
  deriving DecidableEq, Repr

/-- What belongs to the module as a whole. -/
structure Module where
  ifver : BitVec 16 := 0
  lead : DieNo := 0
  tslock : Bool := false
  leadchg : Bool := false
  neg : Bool := false
  ready : Bool := false
  /-- Ticks left of a start-up or a reset in progress; none when it is complete. -/
  boot : Option Nat := none
  /-- Ticks within which READY is set whatever ports have not trained (R390). -/
  bootLeft : Nat := 0
  /-- That start-up follows a cold reset (R390). -/
  coldBoot : Bool := false
  mbx : Option MbxJob := none
  result : Byte := 0
  seqDone : BitVec 16 := 0
  args : SMap Word := []
  res : SMap Word := []
  errlog : List (List Byte) := []
  errhead : W32 := 0
  msix : List Nat := []
  /-- MSI-X vectors that the host has masked (R65, log 34). -/
  msixMask : BitVec 64 := 0
  launches : List Launch := []
  /-- Packets of this tick whose checks are to come (R71). -/
  inbox : List Arrived := []
  /-- The launch at the head, by its place in the order of arrival, once it has had to wait there (R76). -/
  head : Option Nat := none
  arrivals : Nat := 0
  images : List Image := []
  contexts : SMap Ctx := []
  /-- Descriptor tables: context × 256 + TID (R23). -/
  descs : SMap Desc := []
  /-- Contexts of which descriptors have been written in this tick: VALID of their others follows in the next (R27). -/
  descDue : List Byte := []
  allocs : List Alloc := []
  handles : Nat := 0
  /-- Exit counters of launches: (context × 65536 + launch id) × 32 + die group, or + 31 for the group counter (R372). -/
  counters : SMap Nat := []
  cacheReqs : List CacheReq := []
  /-- Lines the device holds through CXL.cache (R60). -/
  lines : List Nat := []
  /-- Host memory, and host lines that refuse (R89, R242): outside the device. -/
  hostMem : Memory := []
  hostRefuse : List Nat := []
  spdm : Spdm := {}
  ide : Bool := false
  insecure : Bool := false
  ports : SMap Port := []
  /-- Operations that have come over trunks, oldest first. -/
  farIn : List FarOp := []
  ptp : Ptp := {}
  /-- Wall time of die 0 in units of 2^−32 ns (R328). -/
  wallt : Nat := 0
  /-- Firmware image in flash, the image staged, fused minimum security version (R385 to R387). -/
  flash : List Byte := []
  staged : Memory := []
  minVersion : Nat := 0
  /-- A warm reset has been asked for in this tick. -/
  resetReq : Bool := false
  /-- Images of cores that the device has formed (R352). -/
  saves : List Save := []
  deriving DecidableEq, Repr

/-! ### The machine -/

/-- The next thing that happens (log 1). -/
inductive Turn where
  /-- A core's row falls due, or the core takes its tick. -/
  | core (die : DieNo) (core : CoreNo)
  /-- A step of the device, or one posted from outside. -/
  | event (i : Instr)
  /-- An operation from a trunk, by its number, reaches its target where it can (R274). -/
  | far (id : Nat)
  /-- A copy of an operation that a core sent on a port, by its number and circuit, reaches its target where it can (R179). -/
  | land (sender port no : Nat) (circuit : Bool × Nat × Nat × Nat)
  deriving DecidableEq, Repr

structure State where
  /-- Cores by die × 32 + physical core. -/
  cores : SMap Core
  /-- Segments by die × 32 + segment. -/
  segs : SMap Seg
  dies : SMap Die
  mod : Module
  /-- The core whose slot instructions run: die × 32 + core. -/
  cur : Nat
  /-- What happens next, first to last (log 1). -/
  turns : List Turn
  /-- How many free values have been used (log 7). -/
  fresh : Nat
  deriving DecidableEq, Repr

/-- Why the machine stops with a fault. -/
inductive Fault where
  /-- Raised by the step when the row of a core that issues holds a word that is no instruction: no image that the loader
  accepts holds one (R97). Safe: the machine goes no further than the manual says it may. -/
  | illegalRow
  deriving DecidableEq, Repr

/-- Why the machine has no meaning for a step. -/
inductive Refusal where
  /-- Raised by a constructor whose meaning is not written yet. Safe: nothing is claimed of it. -/
  | notModelled (mnemonic : String)
  /-- Raised by a step of the device that cannot come about in this state: no such launch, pass, message, request or core is
  waiting for it (log 1). Safe: the manual gives it no effect there, because it does not happen there. -/
  | notEnabled
  deriving DecidableEq, Repr

/-- The outcome of a step. -/
abbrev Out := Host.Outcome State Fault Refusal

/-- Ticks within which READY is set after a reset: 2 s (R390). -/
def bootTicks : Nat := 7200000000

/-- Right after reset: every field as the Reset columns give it, and nothing placed; the module boots (R389, R390, log 14). -/
def State.reset : State :=
  { cores := [], segs := [], dies := []
    mod := { boot := some (Config.freeTicks .boot 0 % (bootTicks + 1)), bootLeft := bootTicks, coldBoot := true, flash := Config.factoryFirmware, minVersion := Config.fusedMinVersion }
    cur := 0, turns := [], fresh := 1 }

end Sys2Proof.Machine
end

