-- ==== Sys2Proof/Machine/Ops.lean ====
section
/-! DEFINITION. The named operations over the machine: the core whose instructions run, its registers, free values, class I faults
and the halt line, scratchpad access with its checks, trap entry and return. -/

namespace Sys2Proof.Machine

/-! ### Where things stand -/

/-- Key of a core: die × 32 + physical core. -/
def coreKey (die : DieNo) (core : CoreNo) : Nat := die.toNat * 32 + core.toNat
/-- Die of a core or segment key. -/
def keyDie (k : Nat) : Nat := k / 32
/-- Physical number of a core key. -/
def keyNo (k : Nat) : Nat := k % 32
/-- Whether a key is an anchor's: supervisor mode (R2, R111). -/
def isAnchor (k : Nat) : Bool := keyNo k == Config.anchorNo

/-- The core at a key. -/
def State.coreAt (s : State) (k : Nat) : Core := SMap.get {} s.cores k
/-- Write the core at a key. -/
def State.setCoreAt (s : State) (k : Nat) (c : Core) : State := { s with cores := SMap.set {} s.cores k c }
/-- The core whose instructions run. -/
def State.core (s : State) : Core := s.coreAt s.cur
/-- Write the core whose instructions run. -/
def State.setCore (s : State) (c : Core) : State := s.setCoreAt s.cur c
/-- Change the core whose instructions run. -/
def State.onCore (s : State) (f : Core → Core) : State := s.setCore (f s.core)
/-- Change the core at a key. -/
def State.onCoreAt (s : State) (k : Nat) (f : Core → Core) : State := s.setCoreAt k (f (s.coreAt k))
/-- The segment at a key: die × 32 + segment. -/
def State.segAt (s : State) (k : Nat) : Seg := SMap.get {} s.segs k
/-- Write a segment. -/
def State.setSegAt (s : State) (k : Nat) (g : Seg) : State := { s with segs := SMap.set {} s.segs k g }
/-- A die. -/
def State.dieAt (s : State) (d : Nat) : Die := SMap.get {} s.dies d
/-- Write a die. -/
def State.setDieAt (s : State) (d : Nat) (x : Die) : State := { s with dies := SMap.set {} s.dies d x }
/-- Change a die. -/
def State.onDieAt (s : State) (d : Nat) (f : Die → Die) : State := s.setDieAt d (f (s.dieAt d))
/-- Change what belongs to the module. -/
def State.onMod (s : State) (f : Module → Module) : State := { s with mod := f s.mod }
/-- The die of the core whose instructions run. -/
def State.die (s : State) : Nat := keyDie s.cur
/-- The tick of that die. -/
def State.tick (s : State) : Nat := (s.dieAt s.die).tick
/-- Whether the core whose instructions run is in supervisor mode (R111). -/
def State.sup (s : State) : Bool := isAnchor s.cur
/-- Wall time as a die has it, in units of 2^−32 ns and in ns: die 0 keeps it (R328). -/
def State.wallAt (s : State) (d : Nat) : Nat := if d = 0 then s.mod.wallt else (s.dieAt d).wallt
def State.wallNs (s : State) (d : Nat) : Nat := s.wallAt d / 2 ^ 32
/-- Wall time of die 0 in ns. -/
def State.walltNs (s : State) : Nat := s.mod.wallt / 2 ^ 32

/-- A free choice of a number from 0 up to a bound (log 7), and the state with the choice used up. -/
def State.choose (s : State) (w : Wait) (bound : Nat) : Nat × State :=
  (Config.freeTicks w s.fresh % (bound + 1), { s with fresh := s.fresh + 1 })

/-- A request goes to the host over CXL.cache: a record is written within 144 ticks, and other answers take a time that nothing bounds
(R89, log 7). -/
def State.askHost (s : State) (r : CacheReq) : State :=
  let n := Config.freeTicks .host s.fresh
  let wait := match r.use with | .record _ _ _ _ => n % 145 | _ => n
  { s with mod := { s.mod with cacheReqs := s.mod.cacheReqs ++ [{ r with id := s.fresh, due := (s.dieAt 0).tick + wait }] }, fresh := s.fresh + 1 }

/-! ### Registers: reads see the row's issue, writes reach later rows (R125) -/

/-- Scalar register read; s0 reads zero (R108). -/
def Core.rdS (c : Core) (r : Reg) : Word := if r = 0 then 0 else SMap.get 0 c.src.s r.toNat
/-- Scalar register write; a write to s0 is discarded (R98). -/
def Core.wrS (c : Core) (r : Reg) (v : Word) : Core :=
  if r = 0 then c else { c with regs := { c.regs with s := SMap.set 0 c.regs.s r.toNat v } }
/-- Predicate read; p0 reads 1. -/
def Core.rdP (c : Core) (r : Reg3) : Bool := r == 0 || c.src.p.getLsbD r.toNat
/-- Predicate write; a write to p0 is discarded. -/
def Core.wrP (c : Core) (r : Reg3) (b : Bool) : Core :=
  if r = 0 then c
  else
    let bit : BitVec 8 := 1#8 <<< r.toNat
    { c with regs := { c.regs with p := if b then c.regs.p ||| bit else c.regs.p &&& ~~~bit } }
/-- Mask read; m0 reads all ones. -/
def Core.rdM (c : Core) (r : Reg3) : Word := if r = 0 then ~~~0#64 else SMap.get 0 c.src.m r.toNat
/-- Mask write; a write to m0 is discarded. -/
def Core.wrM (c : Core) (r : Reg3) (v : Word) : Core :=
  if r = 0 then c else { c with regs := { c.regs with m := SMap.set 0 c.regs.m r.toNat v } }
/-- Vector element read. -/
def Core.rdV (c : Core) (r : Reg) (i : Nat) : W32 := SMap.get 0 c.src.v (r.toNat * 64 + i)
/-- Vector element write. -/
def Core.wrV (c : Core) (r : Reg) (i : Nat) (v : W32) : Core :=
  { c with regs := { c.regs with v := SMap.set 0 c.regs.v (r.toNat * 64 + i) v } }
/-- Accumulator element read. -/
def Core.rdQ (c : Core) (r : Reg3) (i : Nat) : Word := SMap.get 0 c.src.q (r.toNat * 64 + i)
/-- Accumulator element write. -/
def Core.wrQ (c : Core) (r : Reg3) (i : Nat) (v : Word) : Core :=
  { c with regs := { c.regs with q := SMap.set 0 c.regs.q (r.toNat * 64 + i) v } }

/-- Whether a guarded instruction executes: p(guard) XOR negate (R106). -/
def Core.guardOn (c : Core) (g : Guard) : Bool := c.rdP g.p != (g.neg == 1)

/-- What `FPCTL` selected when the row issued (R34). -/
def Core.fpMode (c : Core) : FpMode := fpModeOf c.src.fpctl

/-- Flags that become visible `n` beats after the row's issue (R39). -/
def Core.addFlags (c : Core) (n : Nat) (f : Flags) : Core :=
  if f = 0 then c else { c with flagQ := c.flagQ ++ [(c.beats + n, f)] }

/-- A scalar result. -/
def State.setS (s : State) (r : Reg) (v : Word) : State := s.onCore (fun c => c.wrS r v)

/-- An instruction under its guard: guarded off it does nothing (R133). -/
def guarded (s : State) (g : Guard) (act : State) : Out := if s.core.guardOn g then .next act else .next s

/-! ### Class I faults and the halt line (R342, R343, R348) -/

/-- Codes of R342. -/
def cMISS : Byte := 0x01
def cPERM : Byte := 0x02
def cSEG : Byte := 0x03
def cSWTRAP : Byte := 0x10
def cSTEP : Byte := 0x11
def cBRK : Byte := 0x12
def cSPBOUND : Byte := 0x20
def cBADTRIT : Byte := 0x21
def cECC : Byte := 0x22
def cTILECHK : Byte := 0x23
def cROWPAR : Byte := 0x24
def cLINKSTALL : Byte := 0x25
def cBADJUMP : Byte := 0x26
def cRACE : Byte := 0x27
def cLINKDOWN : Byte := 0x28
def cHALTREQ : Byte := 0x29
def cCBMISUSE : Byte := 0x2A

/-- Whether a core takes part in its launch and has not left it: the halt line stops it. -/
def Run.live : Run → Bool
  | .placed => true
  | .running => true
  | .exiting => true
  | .suspended => true
  | _ => false

/-- The tick of each core's die in which a halt line raised now reaches it: at once at the core that raised it, within 4 ticks
on its die, within 40 elsewhere (R348); the delay is a free choice (log 7). -/
def haltTick (s : State) (origin k n : Nat) : Nat :=
  (s.dieAt (keyDie k)).tick +
    (if k = origin then 0
     else if keyDie k = keyDie origin then Config.freeTicks .haltDie (s.fresh + n) % 5
     else Config.freeTicks .haltModule (s.fresh + n) % 41)

/-- The halt line of a core after the line has been raised once more, to reach it in tick h: a halt overrides a suspension, and of two
that are on their way the earlier one counts. -/
def Halt.merge (old : Option Halt) (new : Halt) : Halt :=
  match old with
  | none => new
  | some x =>
    if x.suspend && !new.suspend then new
    else if !x.stopped && decide (new.at_ < x.at_) then { x with at_ := new.at_, wall := new.wall }
    else x

/-- Send the halt line to every core the test picks. -/
def haltCores (s : State) (origin : Nat) (pick : Nat → Core → Bool) (byReq suspend : Bool) : Nat → SMap Core → SMap Core
  | _, [] => []
  | n, (k, c) :: r =>
    (k, if pick k c then
        let h := haltTick s origin k n
        { c with halt := some (Halt.merge c.halt { at_ := h, byReq := byReq, suspend := suspend,
                                                   wall := if h = (s.dieAt (keyDie k)).tick then some (s.wallAt (keyDie k)) else none }) }
      else c) ::
      haltCores s origin pick byReq suspend (n + 1) r

/-- Raise the halt line from a core to the cores a test picks. -/
def State.raiseHalt (s : State) (origin : Nat) (pick : Nat → Core → Bool) (byReq suspend : Bool) : State :=
  { s with cores := haltCores s origin pick byReq suspend 0 s.cores, fresh := s.fresh + s.cores.length }

/-- Whether a core belongs to a context's halt: the cores of the context, and for an anchor the anchor alone (R348). -/
def inContext (s : State) (origin : Nat) (k : Nat) (c : Core) : Bool :=
  if isAnchor origin then k == origin else !(isAnchor k) && c.ctx == (s.coreAt origin).ctx && c.run.live

/-- Record a fault as the launch's first when it has none yet or this one has a lower `WALLT`, or the same in a lower logical core (R88). -/
def Launch.noteFault (l : Launch) (code : Byte) (lcore now : Nat) (mine : Bool) : Launch :=
  let st : Option Byte := match l.status with | none => some 0x10 | some x => some x
  if l.cause = 0 || now < l.faultAt || (now == l.faultAt && mine && lcore < l.faultCore) then
    { l with cause := code, faultCore := if mine then lcore else l.faultCore, faultAt := now, status := st }
  else { l with status := st }

/-- A class I fault in a core: its record (the first of a row stands), the halt line of its context, the launches' first fault
(R343, R348). The offending instruction does nothing else. -/
def State.raiseAt (s : State) (k : Nat) (f : CoreFault) : State :=
  let c := s.coreAt k
  let s1 := s.setCoreAt k { c with fault := match c.fault with | none => some f | some g => some g }
  let s2 := s1.raiseHalt k (inContext s k) false false
  s2.onMod (fun m => { m with launches := m.launches.map (fun l =>
    if l.pkt.ctx = c.ctx && !(isAnchor k) && decide (l.st ≠ .waiting) then
      l.noteFault f.code c.lcore (s.wallNs (keyDie k)) (decide (l.pkt.lid = c.lid)) else l) })

/-- A class I fault of an instruction in a slot of the row in hand. -/
def State.raise (s : State) (code : Byte) (slot : Nat) (elem : Word) (addr : Word) : State :=
  s.raiseAt s.cur { code := code, row := s.core.pos.row, elem := elem, slot := slot, addr := addr }

/-! ### Scratchpad (R22, R133, R178 to R180, R312 to R316) -/

/-- The result of an access: a value and the state after it, or the state after the fault it raised. -/
inductive Got (α : Type) where
  | ok (s : State) (v : α)
  | stop (s : State)

/-- The end of a core's scratchpad addresses: SCRATCH of its launch, all of it for supervisor code (R22, R399). -/
def State.spEnd (s : State) (k : Nat) : Nat := if isAnchor k then Config.scratchBytes else (s.coreAt k).scratchLen

/-- An access of size z at x is aligned and in range (R133). -/
def State.spOk (s : State) (x z : Nat) : Bool := x % z == 0 && decide (x + z ≤ s.spEnd s.cur)

/-- Whether an area and a range of bytes overlap. -/
def overlaps (a : Nat × Nat) (x n : Nat) : Bool := decide (a.1 < x + n ∧ x < a.1 + a.2)

/-- Whether a range of bytes holds an uncorrectable unit (R180). -/
def badIn (bad : List Nat) (x n : Nat) : Bool := bad.any (fun u => overlaps (u * 8, 8) x n)

/-- Whether a write of `n` bytes at `x` covers only part of an uncorrectable unit (R180). -/
def badPartly (bad : List Nat) (x n : Nat) : Bool :=
  bad.any (fun u => overlaps (u * 8, 8) x n && !(decide (x ≤ u * 8 ∧ u * 8 + 8 ≤ x + n)))

/-- Whether a pass is open, parked or closing. -/
def Pass.open_ (p : Pass) : Bool := decide (p.st ≠ .idle)

/-- Whether a byte lies in a destination area of a pass of the core that has not closed (R228). -/
def Core.inPassDst (c : Core) (a : Nat) : Bool :=
  c.passes.any (fun e => e.2.open_ && e.2.dstAreas.any (fun r => overlaps r a 1))

/-- Bytes that a load delivers: a byte of an open pass's destination area is unspecified (R228, log 9). -/
def loadByte (s : State) (c : Core) (a : Nat) : Byte :=
  if c.inPassDst a then Config.freeByte s.fresh a else Memory.byte c.scratch a

/-- The little-endian number that a load delivers. -/
def loadNat (s : State) (c : Core) (a : Nat) : Nat → Nat
  | 0 => 0
  | n + 1 => (loadByte s c a).toNat + 256 * loadNat s c (a + 1) n

/-- Note what a write does to a pass that it comes after: destination bytes are spoilt, and source bytes become unspecified (R228,
log 9). -/
def spoil (fresh x n : Nat) (p : Pass) : Pass :=
  if p.open_ && (p.dstAreas ++ p.srcAreas).any (fun r => overlaps r x n) then
    let hit := fun (areas : List (Nat × Nat)) =>
      (List.range n).filterMap (fun i => if areas.any (fun r => overlaps r (x + i) 1) then some (x + i) else none)
    { p with spoilt := p.spoilt ++ hit p.dstAreas
             src := SMap.setAll 0 p.src ((hit p.srcAreas).map (fun a => (a, Config.freeByte fresh a))) }
  else p

/-- A write that was issued before a pass opened reaches its bank: the pass reads what it wrote (R306). -/
def seeWrite (x : Nat) (bs : List Byte) (p : Pass) : Pass :=
  { p with src := SMap.setAll 0 p.src (bs.zipIdx.filterMap (fun b =>
      if p.srcAreas.any (fun r => overlaps r (x + b.2) 1) then some (x + b.2, b.1) else none)) }

/-- Bytes written at `x`, and the errors of whole units cleared (R180). -/
def Core.fill (c : Core) (x : Nat) (bs : List Byte) : Core :=
  { c with
    scratch := Memory.setBytes c.scratch x bs
    badScratch := c.badScratch.filter (fun u => !(decide (x ≤ u * 8 ∧ u * 8 + 8 ≤ x + bs.length))) }

/-- The core after `bs` are stored at `x`: bytes written, errors of whole units cleared, passes' areas spoilt. -/
def Core.putBytes (c : Core) (fresh x : Nat) (bs : List Byte) : Core :=
  { c.fill x bs with passes := c.passes.map (fun e => (e.1, spoil fresh x bs.length e.2)) }

/-- The same for a write that was issued in a beat of the core's count and reaches its bank later. -/
def Core.putSince (c : Core) (beat fresh x : Nat) (bs : List Byte) : Core :=
  { c.fill x bs with passes := c.passes.map (fun e =>
      (e.1, if beat ≤ e.2.openBeat then seeWrite x bs e.2 else spoil fresh x bs.length e.2)) }

/-- Bytes stored in the scratchpad of the core at `k`. -/
def State.putAt (s : State) (k x : Nat) (bs : List Byte) : State :=
  let s1 := s.onCoreAt k (fun c => c.putBytes s.fresh x bs)
  if (s.coreAt k).passes = [] then s1 else { s1 with fresh := s.fresh + 1 }

/-- Bytes that a write issued in a beat of the core at `k` puts in its scratchpad. -/
def State.putSinceAt (s : State) (k beat x : Nat) (bs : List Byte) : State :=
  let s1 := s.onCoreAt k (fun c => c.putSince beat s.fresh x bs)
  if (s.coreAt k).passes = [] then s1 else { s1 with fresh := s.fresh + 1 }

/-- Kinds of access that the race detector tells apart (R316). -/
inductive Access where
  | load | store | atomic | buffer | passRead | passWrite
  deriving DecidableEq, Repr

/-- KIND of a race record (R316). -/
def Access.code : Access → Nat
  | .load => 0 | .store => 1 | .atomic => 2 | .buffer => 3 | .passRead => 4 | .passWrite => 5
/-- Whether an access writes. -/
def Access.writes : Access → Bool
  | .load => false | .passRead => false | _ => true
/-- Whether an access counts as atomic for the shadow (R313). -/
def Access.atom : Access → Bool
  | .atomic => true | .buffer => true | _ => false

/-- The lowest sector from `lo` on, of `n` sectors, in which an access of the core conflicts (R313). -/
def conflictAt (c : Core) (kind : Access) (lo : Nat) : Nat → Option Nat
  | 0 => none
  | n + 1 =>
    let sh := SMap.get (0, 0#64, false) c.shadows lo
    if sh.1 != 0 && sh.1 != c.lcore + 1 && decide ((SMap.get 0 c.observed (sh.1 - 1)).toNat < sh.2.1.toNat) &&
        !(kind.atom && sh.2.2) then some lo
    else conflictAt c kind (lo + 1) n

/-- `BEAT` of a core in this tick: it counts up to the beat in which the next row is due, and stands in a handler (R126, R345). -/
def Core.beatNow (c : Core) : Word := if c.ret.isSome then c.pos.beat else c.pos.beat - BitVec.ofNat 64 c.pos.pend

/-- The bytes of a race record (R316). -/
def raceRecord (c : Core) (kind : Access) (slot row addr sector : Nat) : List Byte :=
  let sh := SMap.get (0, 0#64, false) c.shadows sector
  leBytes 4 c.raceCount.toNat ++ leBytes 2 0 ++ leBytes 1 slot ++ leBytes 1 kind.code ++ leBytes 2 (sh.1 - 1) ++
    leBytes 2 row ++ leBytes 4 (max addr (sector * 64)) ++ leBytes 4 (SMap.get 0 c.observed (sh.1 - 1)).toNat ++
    leBytes 4 sh.2.1.toNat ++ leBytes 8 c.beatNow.toNat

/-- Write a race record to the ring as a store of the core, which changes no shadow, or note that it was lost (R315). -/
def logRace (s : State) (k : Nat) (kind : Access) (slot row addr sector : Nat) : State :=
  let c := s.coreAt k
  let size := 2 ^ c.raceSize.toNat
  let base := c.raceBase.toNat * 32
  if s.spEnd k < base + 32 * size then s.setCoreAt k { c with raceLost := true }
  else (s.putAt k (base + 32 * c.raceNext.toNat) (raceRecord c kind slot row addr sector)).onCoreAt k (fun c =>
    { c with raceNext := BitVec.ofNat 16 ((c.raceNext.toNat + 1) % size) })

/-- Count a conflict, up to 2^32 − 1 (R314). -/
def satInc (v : BitVec 32) : BitVec 32 := if v = 0xFFFFFFFF then v else v + 1

/-- Sectors covered by `n` bytes from `x`. -/
def sectors (x n : Nat) : Nat := if n = 0 then 0 else (x + n - 1) / 64 - x / 64 + 1

/-- Update the shadows of the sectors a core's own write covers (R313). -/
def shadowOwn (c : Core) (kind : Access) (lo : Nat) : Nat → Core
  | 0 => c
  | n + 1 => shadowOwn { c with shadows := SMap.set (0, 0#64, false) c.shadows lo (c.lcore + 1, c.interval, kind.atom) } kind (lo + 1) n

/-- A conflict in a sector is logged, counted and trapped as `RACECTL` says (R314). -/
def State.conflict (s : State) (k : Nat) (kind : Access) (slot row addr sec : Nat) : State :=
  let s2 := if (s.coreAt k).racemode.getLsbD 0 then logRace s k kind slot row addr sec else s
  let s3 := s2.onCoreAt k (fun c => { c with raceCount := satInc c.raceCount })
  if (s.coreAt k).racemode.getLsbD 1 then
    s3.raiseAt k { code := cRACE, row := row, elem := BitVec.ofNat 64 sec, slot := slot, addr := BitVec.ofNat 64 addr }
  else s3

/-- The race detector's part of an access that the core at `k` makes: a conflict is reported, and a write updates the shadows (R313,
R314). -/
def State.touchAt (s : State) (k : Nat) (kind : Access) (slot row x n : Nat) : State :=
  let s1 := match conflictAt (s.coreAt k) kind (x / 64) (sectors x n) with
    | none => s
    | some sec => s.conflict k kind slot row x sec
  if kind.writes then s1.onCoreAt k (fun c => shadowOwn c kind (x / 64) (sectors x n)) else s1

/-- The lowest sector of some areas in which an access conflicts. -/
def conflictIn (c : Core) (kind : Access) (areas : List (Nat × Nat)) : Option Nat :=
  areas.foldl (fun best r => match conflictAt c kind (r.1 / 64) (sectors r.1 r.2), best with
    | none, _ => best
    | some x, none => some x
    | some x, some y => some (min x y)) none
/-- The lowest byte of some areas within a sector. -/
def lowestIn (areas : List (Nat × Nat)) (sec : Nat) : Nat :=
  ((areas.filter (fun r => overlaps r (sec * 64) 64)).map (fun r => max r.1 (sec * 64))).foldl min (sec * 64 + 63)

/-- The race detector's part of an access that touches several areas, with the row and the interval of its issue: it is one access, so of the
sectors that conflict only the lowest is reported (R313). -/
def State.touchAllAt (s : State) (kind : Access) (slot row : Nat) (interval : Word) (areas : List (Nat × Nat)) : State :=
  let s1 := match conflictIn s.core kind areas with
    | none => s
    | some sec => s.conflict s.cur kind slot row (lowestIn areas sec) sec
  if kind.writes then
    s1.onCoreAt s.cur (fun c =>
      { areas.foldl (fun c r => shadowOwn c kind (r.1 / 64) (sectors r.1 r.2)) { c with interval := interval } with interval := c.interval })
  else s1

/-- The same for an access of the row in hand. -/
def State.touchAll (s : State) (kind : Access) (slot : Nat) (areas : List (Nat × Nat)) : State :=
  s.touchAllAt kind slot s.core.pos.row s.core.interval areas

/-- The same for an access of the row in hand to one area. -/
def State.touch (s : State) (kind : Access) (slot x n : Nat) : State := s.touchAt s.cur kind slot s.core.pos.row x n

/-- A part of a load: `z` bytes at `x` by an instruction of a slot, for an element: `SPBOUND` where it is not aligned or not in range of
SCRATCH, `ECC_UNCORR` where a unit is uncorrectable (R133, R180). -/
def spRead (s : State) (slot : Nat) (elem : Nat) (x z align : Nat) : Got Nat :=
  if !(x % align == 0 && decide (x + z ≤ s.spEnd s.cur)) then .stop (s.raise cSPBOUND slot elem (BitVec.ofNat 64 x))
  else if badIn s.core.badScratch x z then .stop (s.raise cECC slot elem (BitVec.ofNat 64 x))
  else .ok (if s.core.passes = [] then s else { s with fresh := s.fresh + 1 }) (loadNat s s.core x z)

/-- A load of `z` bytes at `x`. -/
def spLoad (s : State) (slot : Nat) (elem : Nat) (x z align : Nat) : Got Nat :=
  match spRead s slot elem x z align with
  | .stop s1 => .stop s1
  | .ok s1 v => .ok (s1.touch .load slot x z) v

/-- A part of a store: bytes at `x`. -/
def spWrite (s : State) (slot : Nat) (elem : Nat) (x align : Nat) (bs : List Byte) : Got Unit :=
  if !(x % align == 0 && decide (x + bs.length ≤ s.spEnd s.cur)) then .stop (s.raise cSPBOUND slot elem (BitVec.ofNat 64 x))
  else if badPartly s.core.badScratch x bs.length then .stop (s.raise cECC slot elem (BitVec.ofNat 64 x))
  else .ok (s.putAt s.cur x bs) ()

/-- A store of bytes at `x`. -/
def spStore (s : State) (kind : Access) (slot : Nat) (elem : Nat) (x align : Nat) (bs : List Byte) : Got Unit :=
  match spWrite s slot elem x align bs with
  | .stop s1 => .stop s1
  | .ok s1 u => .ok (s1.touch kind slot x bs.length) u

/-- An atomic of `z` bytes at `x`: the old value, and the new value written, in one step (R140, R141). -/
def spAtomic (s : State) (slot : Nat) (x z : Nat) (f : Nat → Nat) : Got Nat :=
  if !(s.spOk x z) then .stop (s.raise cSPBOUND slot 0 (BitVec.ofNat 64 x))
  else if badIn s.core.badScratch x z then .stop (s.raise cECC slot 0 (BitVec.ofNat 64 x))
  else
    let v := loadNat s s.core x z
    let s1 := if s.core.passes = [] then s else { s with fresh := s.fresh + 1 }
    .ok ((s1.putAt s1.cur x (leBytes z (f v))).touch .atomic slot x z) v

end Sys2Proof.Machine
end

