-- ==== Sys2Proof/Machine/Banks.lean ====
section
/-! DEFINITION. The scratchpad banks of a core: what accesses ask of them, when they are granted, and for how long they then take the
banks (R178, R179; log 6). -/

namespace Sys2Proof.Machine

/-- The 64-byte granules that a range of bytes lies in. -/
def granules (x n : Nat) : List Nat := if n = 0 then [] else List.range' (x / 64) ((x + n - 1) / 64 - x / 64 + 1)

/-- An access that is due: the areas of bytes it touches, and whether its steps are read-modify-writes. -/
structure Ask where
  areas : List (Nat × Nat) := []
  rmw : Bool := false
  deriving DecidableEq, Repr

/-- The granules of an access, each once. -/
def Ask.granules (a : Ask) : List Nat := (a.areas.flatMap (fun (r : Nat × Nat) => Machine.granules r.1 r.2)).dedup
/-- Granules of an access in a bank. -/
def Ask.inBank (a : Ask) (b : Nat) : Nat := (a.granules.filter (fun g => g % 32 == b)).length
/-- Ticks for which an access takes a bank. -/
def Ask.ticks (a : Ask) (b : Nat) : Nat := a.inBank b * (if a.rmw then 2 else 1)

/-- The banks that accesses due together need, each once. -/
def banksOf (as : List Ask) : List Nat := ((as.flatMap Ask.granules).map (fun g => g % 32)).dedup

/-- A bank of a core is free in a tick. -/
def Core.bankFree (c : Core) (tick bank : Nat) : Bool := decide (SMap.get 0 c.banks.free bank ≤ tick)
/-- Every bank that accesses need is free, so that each grants them. -/
def Core.grants (c : Core) (tick : Nat) (as : List Ask) : Bool := (banksOf as).all (c.bankFree tick)
/-- Accesses granted in a tick take their banks. -/
def Core.takeBanks (c : Core) (tick : Nat) (as : List Ask) : Core :=
  { c with banks := { c.banks with
    free := SMap.setAll 0 c.banks.free ((banksOf as).map (fun b => (b, tick + (as.map (fun a => a.ticks b)).sum))) } }

/-- The most granules that core-side accesses have in one bank: they hold the core for one tick less after the grant. -/
def granulesMost (as : List Ask) : Nat := ((banksOf as).map (fun b => (as.map (fun a => a.inBank b)).sum)).foldl max 0
/-- Core-side accesses granted in a tick. -/
def Core.grantCore (c : Core) (tick : Nat) (as : List Ask) : Core :=
  let n := granulesMost as
  let c1 := c.takeBanks tick as
  if n ≤ 1 then c1 else { c1 with banks := { c1.banks with hold := tick + n } }

/-! ### Groups and chunks of later beats (R153, R178, R181) -/

/-- What the V and the T operation in flight ask for in this beat. -/
def Core.nextAsks (c : Core) : List Ask := [⟨c.banks.v.headD [], false⟩, ⟨c.banks.t.headD [], false⟩]
/-- Where the last chunk of a `TST` has been granted in a tick, its areas are ready 4 beats after its busy period ends (R184). -/
def Banks.tstDone (b : Banks) (tick : Nat) : Banks :=
  if b.t = [] then
    { b with tst := [], ready := b.ready.filter (fun r => decide (tick < r.1)) ++ b.tst.map (fun r => (tick + 5, r)) }
  else b
/-- They have been granted it. -/
def Core.popAsks (c : Core) (tick : Nat) : Core :=
  { c with banks := Banks.tstDone { c.banks with v := c.banks.v.drop 1, t := c.banks.t.drop 1 } tick }
/-- A beat of the operations in flight. -/
def Core.beatAsks (c : Core) (tick : Nat) : Core := (c.grantCore tick c.nextAsks).popAsks tick

/-- A store goes on through a stalled tick (R128). -/
def Fly.stores (f : Fly) : Bool := f.kept.isNone && !f.mem.isEmpty
/-- An operation in flight that is a store. -/
def storing (f : Option Fly) : Bool := match f with | none => false | some x => x.stores
/-- A store has gone on for a tick in which its core was stalled. -/
def Fly.stalled (f : Fly) : Fly := { f with extra := f.extra + 1 }
/-- A store in flight goes on in a stalled tick: the banks of its next group are free. -/
def Core.stallGoes (c : Core) (tick : Nat) (f : Option Fly) (gs : List (List (Nat × Nat))) : Bool :=
  storing f && c.grants tick [⟨gs.headD [], false⟩]
/-- The V store in flight goes on. -/
def Core.stallV (c : Core) (tick : Nat) : Core :=
  let a : List Ask := [⟨c.banks.v.headD [], false⟩]
  if c.stallGoes tick c.vfly c.banks.v then
    let c1 := c.takeBanks tick a
    { c1 with vfly := c.vfly.map Fly.stalled, banks := { c1.banks with v := c.banks.v.drop 1 } }
  else c
/-- The T store in flight goes on. -/
def Core.stallT (c : Core) (tick : Nat) : Core :=
  let a : List Ask := [⟨c.banks.t.headD [], false⟩]
  if c.stallGoes tick c.tfly c.banks.t then
    let c1 := c.takeBanks tick a
    { c1 with tfly := c.tfly.map Fly.stalled, banks := Banks.tstDone { c1.banks with t := c.banks.t.drop 1 } tick }
  else c
/-- A stalled tick of a core (R128). -/
def Core.stallTick (c : Core) (tick : Nat) : Core := (c.stallV tick).stallT tick

/-- Bytes overlap a group or chunk of a store in flight that has not reached its banks, or an area of a `TST` that is not yet ready (R119, R129,
R184). -/
def Core.storePending (c : Core) (tick x n : Nat) : Bool :=
  (storing c.vfly && c.banks.v.any (fun g => g.any (fun r => overlaps r x n))) ||
    (storing c.tfly && c.banks.t.any (fun g => g.any (fun r => overlaps r x n))) ||
    c.banks.tst.any (fun r => overlaps r x n) || c.banks.ready.any (fun r => decide (tick < r.1) && overlaps r.2 x n)

/-! ### Groups that follow a remote write (R153, R313) -/

/-- The parts of a group that lie in sectors that other cores have written since the operation issued. -/
def Fly.metAreas (f : Fly) (g : List (Nat × Nat)) : List (Nat × Nat) :=
  g.flatMap (fun r => (f.met.filter (fun n => overlaps r (64 * n) 64)).map (fun n =>
    (max r.1 (64 * n), min (r.1 + r.2) (64 * n + 64) - max r.1 (64 * n))))
/-- A group of an operation in flight reaches the banks after such a write: an access of its own for the race detector. -/
def State.touchMet (s : State) (slot : Nat) (f : Option Fly) (g : List (Nat × Nat)) : State :=
  match f with
  | none => s
  | some x => if x.metAreas g = [] then s else s.touchAllAt (if x.stores then .store else .load) slot x.row x.interval (x.metAreas g)
/-- The groups that go to the banks in this beat. -/
def State.touchBeat (s : State) : State :=
  let c := s.core
  (s.touchMet 1 c.vfly (c.banks.v.headD [])).touchMet 2 c.tfly (c.banks.t.headD [])
/-- The groups of stores that go on in a stalled tick. -/
def State.touchStall (s : State) (tick : Nat) : State :=
  let c := s.core
  let s1 := if c.stallGoes tick c.vfly c.banks.v then s.touchMet 1 c.vfly (c.banks.v.headD []) else s
  if (c.stallV tick).stallGoes tick c.tfly c.banks.t then s1.touchMet 2 c.tfly (c.banks.t.headD []) else s1
/-- A stalled tick of the core whose instructions run. -/
def State.stallTick (s : State) : State := (s.touchStall s.tick).onCore (fun c => c.stallTick s.tick)

end Sys2Proof.Machine
end

