-- ==== Sys2Proof/Machine/Flits.lean ====
section
/-! DEFINITION. The flits of an Igdin link with their CRC, acknowledgements, and the operations from trunks that a module discards (R272, R274,
R283, R284). -/

namespace Sys2Proof.Machine

/-- A port. -/
def State.port (s : State) (n : Nat) : Port := SMap.get {} s.mod.ports n
/-- Change a port. -/
def State.onPort (s : State) (n : Nat) (f : Port → Port) : State := s.onMod (fun m => { m with ports := SMap.set {} m.ports n (f (s.port n)) })

/-! ### Flits -/

/-- The bits of a flit that its CRC covers, from bit 255 down to bit 24. -/
def flitCovered (f : Flit) : List Bool :=
  let v := f.type ++ f.seq ++ f.circuit ++ f.payload
  (List.range 232).map (fun i => v.getLsbD (231 - i))
/-- CRC-24: polynomial 0x864CFB, initial value 0xB704CE. -/
def crc24 (bits : List Bool) : BitVec 24 :=
  bits.foldl (fun (c : BitVec 24) b => let d := c <<< (1 : Nat); if c.getLsbD 23 != b then d ^^^ 0x864CFB#24 else d) 0xB704CE#24
/-- The CRC of a flit is good. -/
def flitGood (f : Flit) : Bool := f.crc == crc24 (flitCovered f)
/-- A flit with its CRC. -/
def flitSealed (f : Flit) : Flit := { f with crc := crc24 (flitCovered f) }
/-- The 26 bytes of a payload, the one of lowest order first (R4). -/
def flitBytes (f : Flit) : List Byte := (List.range 26).map (fun i => f.payload.extractLsb' (8 * i) 8)
/-- The payload that some bytes make. -/
def payloadOf (bs : List Byte) : BitVec 208 := BitVec.ofNat 208 (leNat bs)
/-- An acknowledgement (TYPE 2) or negative acknowledgement (TYPE 3) of a flit. -/
def controlFlit (type : BitVec 4) (seq : Byte) : Flit :=
  flitSealed { type := type, seq := seq, circuit := Config.controlCircuit, payload := Config.controlPayload, crc := 0 }

/-! ### Acknowledgement (R274, R284; log 25) -/

/-- A flit received on a port is acknowledged, while the port is up. -/
def State.ackFlit (s : State) (n : Nat) (seq : Byte) : State :=
  if (s.port n).up then s.onPort n (fun p => { p with out := p.out ++ [controlFlit 2 seq] }) else s
/-- An operation from a trunk leaves the module: it has reached its target's queue or banks, or is discarded. The last of its flits is acknowledged
with that, so that its entries stay in their circuit until then. -/
def State.leaveFar (s : State) (o : FarOp) : State := s.ackFlit o.link o.flit
/-- Operations from trunks that a test picks are discarded. -/
def State.dropFars (s : State) (f : FarOp → Bool) : State :=
  ((s.mod.farIn.filter f).foldl State.leaveFar s).onMod (fun m => { m with farIn := m.farIn.filter (fun o => !(f o)) })

end Sys2Proof.Machine
end

