-- ==== Sys2Proof/Machine/Tensor.lean ====
section
/-! DEFINITION. Tensor descriptors: sizes, placement of elements, validity, and the reading and writing of fields (R23 to R29,
R147). -/

namespace Sys2Proof.Machine

/-- Formats of R24. -/
inductive Format where
  | i8 | i32 | f32 | bf16
  /-- Block floating point of a mantissa width. -/
  | bfp (w : Nat)
  | t5
  deriving DecidableEq, Repr

/-- The format that a FORMAT field names, if any (R24). -/
def Desc.fmt (d : Desc) : Option Format :=
  match d.format.toNat with
  | 0x01 => some .i8
  | 0x02 => some .i32
  | 0x03 => some .f32
  | 0x04 => some .bf16
  | 0x10 => some .t5
  | n => if n % 256 = 0x08 ∧ 2 ≤ n / 256 ∧ n / 256 ≤ 8 then some (.bfp (n / 256)) else none

/-- Bytes of an element in storage. -/
def Format.esize : Format → Nat
  | .i8 => 1
  | .i32 => 4
  | .f32 => 4
  | .bf16 => 2
  | .bfp _ => 1
  | .t5 => 1

/-- A size, where a dimension above RANK counts as 1 (R25). -/
def Desc.dim (d : Desc) (n : Nat) : Nat :=
  if d.rank.toNat ≤ n then 1
  else match n with
    | 0 => d.dim0.toNat
    | 1 => d.dim1.toNat
    | 2 => d.dim2.toNat
    | _ => d.dim3.toNat

/-- Rows: the outer indices (R227). -/
def Desc.outer (d : Desc) : Nat := d.dim 1 * d.dim 2 * d.dim 3
/-- Elements. -/
def Desc.count (d : Desc) : Nat := d.dim 0 * d.outer
/-- Bytes of a DIM0 block of BFP: a burst padded to 4 bytes (R26). -/
def Desc.blk (d : Desc) : Nat := 4 * ((4 + d.dim 0 + 3) / 4)
/-- Whether the format is BFP. -/
def Desc.isBfp (d : Desc) : Bool := match d.fmt with | some (.bfp _) => true | _ => false
/-- Bytes of an element. -/
def Desc.esize (d : Desc) : Nat := match d.fmt with | some f => f.esize | none => 1
/-- Stored bytes of a row (R227). -/
def Desc.rb (d : Desc) : Nat := if d.isBfp then d.blk else d.dim 0 * d.esize
/-- Stitches of a row in ROWS layout (R26). -/
def Desc.spr (d : Desc) : Nat := (d.rb + 127) / 128
/-- Byte offset from BASE of the first byte of row `o`. -/
def Desc.rowOff (d : Desc) (o : Nat) : Nat := if d.layout = 1 then o * d.spr * 128 else o * d.rb
/-- Byte offset from BASE of element `i` (R26). -/
def Desc.elemOff (d : Desc) (i : Nat) : Nat :=
  if d.layout = 2 then
    let k := i % d.dim 0
    let j := i / d.dim 0
    (j / 128 * (d.dim 0 / 5) + k / 5) * 128 + j % 128
  else d.rowOff (i / d.dim 0) + (if d.isBfp then 4 else 0) + (i % d.dim 0) * d.esize
/-- Bytes of a column block of T5BLOCK (R227). -/
def Desc.t5blk (d : Desc) : Nat := d.dim 0 / 5 * 128
/-- Offset just past the last element (R26). -/
def Desc.footprint (d : Desc) : Nat :=
  if d.layout = 2 then d.dim 1 / 128 * d.t5blk
  else if d.layout = 1 then d.outer * d.spr * 128
  else d.outer * d.rb

/-- Dimensions up to RANK are at least 1. -/
def Desc.dimsOk (d : Desc) : Bool :=
  decide (1 ≤ d.rank.toNat) && decide (d.rank.toNat ≤ 4) && decide (1 ≤ d.dim 0) && decide (1 ≤ d.dim 1) &&
    decide (1 ≤ d.dim 2) && decide (1 ≤ d.dim 3)

/-- Alignment of BASE (R27). -/
def Desc.baseAlign (d : Desc) : Nat := if d.layout = 1 ∨ d.layout = 2 then 128 else if d.isBfp then 4 else d.esize

/-- The rules of R27 that concern the descriptor alone. -/
def Desc.ruleOk (d : Desc) : Bool :=
  match d.fmt with
  | none => false
  | some f =>
    decide (d.layout.toNat ≤ 2) && d.dimsOk && (decide (f = .t5) == decide (d.layout = 2)) &&
    (match f with
      | .t5 => decide (d.dim 0 % 320 = 0) && decide (d.dim 1 % 128 = 0) && decide (d.group = 64)
      | .bfp _ => decide (d.dim 0 ≤ 65535)
      | _ => true) &&
    (decide (f = .t5) || (decide (d.group = 0) && decide (d.scaleTid = 0) && decide (d.density = 0))) &&
    decide (d.base.toNat < 2 ^ 48) && decide (d.base.toNat % d.baseAlign = 0) &&
    decide (d.footprint ≤ d.limit.toNat) && decide (d.base.toNat + d.limit.toNat ≤ 2 ^ 48)

/-- The scale descriptor that a T5 descriptor needs (R27). -/
def Desc.scaleOk (d sc : Desc) : Bool :=
  sc.ruleOk && decide (sc.fmt = some .bf16) && decide (sc.dim 0 = d.dim 1) && decide (sc.dim 1 = d.dim 0 / 320)

/-- Whether a descriptor is valid beside its table (R27). -/
def Desc.isValid (table : Nat → Desc) (d : Desc) : Bool :=
  d.ruleOk && (decide (d.fmt ≠ some .t5) || d.scaleOk (table d.scaleTid.toNat))

/-- The descriptor at a TID of a context. -/
def State.desc (s : State) (ctx : Byte) (tid : Nat) : Desc := SMap.get {} s.mod.descs (ctx.toNat * 256 + tid)

/-- VALID of every descriptor of a context evaluated afresh (R27). -/
def revalidate (descs : SMap Desc) (ctx : Byte) : SMap Desc :=
  descs.map (fun e =>
    if e.1 / 256 = ctx.toNat then
      (e.1, { e.2 with valid := e.2.isValid (fun t => SMap.get {} descs (ctx.toNat * 256 + t)) })
    else e)

/-- Write a descriptor; a descriptor of zeros is not listed (R23). Its own VALID follows at once, that of the descriptors that it is the scale of in
the next tick (R27). -/
def State.setDesc (s : State) (ctx : Byte) (tid : Nat) (d : Desc) : State :=
  s.onMod (fun m => { m with
    descs := SMap.set {} m.descs (ctx.toNat * 256 + tid)
      { d with valid := d.isValid (fun t => if t = tid then d else SMap.get {} m.descs (ctx.toNat * 256 + t)) }
    descDue := if m.descDue.contains ctx then m.descDue else m.descDue ++ [ctx] })

/-- VALID of the descriptors of every context that was written to in the tick before (R27). -/
def Module.settleDescs (m : Module) : Module := { m with descs := m.descDue.foldl revalidate m.descs, descDue := [] }

/-- Write field `f` of a descriptor: the low bits of a value, up to the width of the field (R147). -/
def Desc.put (d : Desc) (f : Nat) (v : Word) : Desc :=
  match f with
  | 0 => { d with format := v.setWidth 16 }
  | 1 => { d with layout := v.setWidth 8 }
  | 2 => { d with rank := v.setWidth 8 }
  | 3 => { d with dim0 := v.setWidth 32 }
  | 4 => { d with dim1 := v.setWidth 32 }
  | 5 => { d with dim2 := v.setWidth 32 }
  | 6 => { d with dim3 := v.setWidth 32 }
  | 7 => { d with base := v }
  | 8 => { d with limit := v }
  | 9 => { d with scaleTid := v.setWidth 8 }
  | 10 => { d with group := v.setWidth 16 }
  | 11 => { d with density := v.setWidth 32 }
  | 12 => { d with pad := v.setWidth 32 }
  | _ => d

/-- FLAGS.ORD: a segment's ordered-atomic buffer holds contributions to the tensor (R28). -/
def State.ordBit (s : State) (ctx : Byte) (tid : Nat) : Bool :=
  s.segs.any (fun e => e.2.ord.any (fun c => c.ctx == ctx && c.tid.toNat == tid))

/-- Field `f` of a descriptor, extended with zeros (R23, R147). -/
def Desc.field (d : Desc) (ord : Bool) (f : Nat) : Word :=
  match f with
  | 0 => d.format.setWidth 64
  | 1 => d.layout.setWidth 64
  | 2 => d.rank.setWidth 64
  | 3 => d.dim0.setWidth 64
  | 4 => d.dim1.setWidth 64
  | 5 => d.dim2.setWidth 64
  | 6 => d.dim3.setWidth 64
  | 7 => d.base
  | 8 => d.limit
  | 9 => d.scaleTid.setWidth 64
  | 10 => d.group.setWidth 64
  | 11 => d.density.setWidth 64
  | 12 => d.pad.setWidth 64
  | _ => (if d.valid then 2 else 0) + (if ord then 1 else 0)

/-- The descriptor that 64 bytes of a TENSORS entry hold (R14, R23). -/
def descOfBytes (b : List Byte) : Desc :=
  let n := fun (lo k : Nat) => leNat ((b.drop lo).take k)
  { format := BitVec.ofNat 16 (n 0x00 2), layout := BitVec.ofNat 8 (n 0x02 1), rank := BitVec.ofNat 8 (n 0x03 1),
    dim0 := BitVec.ofNat 32 (n 0x04 4), dim1 := BitVec.ofNat 32 (n 0x08 4), dim2 := BitVec.ofNat 32 (n 0x0C 4),
    dim3 := BitVec.ofNat 32 (n 0x10 4), base := BitVec.ofNat 64 (n 0x18 8), limit := BitVec.ofNat 64 (n 0x20 8),
    scaleTid := BitVec.ofNat 8 (n 0x28 1), group := BitVec.ofNat 16 (n 0x2A 2), density := BitVec.ofNat 32 (n 0x2C 4),
    pad := BitVec.ofNat 32 (n 0x30 4) }

/-- The bytes of a descriptor that are zero, and the FLAGS bytes, are zero in an image (R15, R23). -/
def descZerosOk (b : List Byte) : Bool :=
  leNat ((b.drop 0x14).take 4) == 0 && leNat ((b.drop 0x29).take 1) == 0 && leNat ((b.drop 0x34).take 12) == 0

end Sys2Proof.Machine
end

