-- ==== Sys2Proof/Machine/MapStore.lean ====
section
/-! DEFINITION. The map store of a die: range entries and page entries, what they cover, and the checks of a pass (R211 to R214,
R217). -/

namespace Sys2Proof.Machine

/-! ### Range entries (R212) -/

/-- Valid. -/
def rgV (r : BitVec 128) : Bool := r.getLsbD 127
/-- Read permitted. -/
def rgRd (r : BitVec 128) : Bool := r.getLsbD 126
/-- Write permitted. -/
def rgWr (r : BitVec 128) : Bool := r.getLsbD 125
/-- Presence and permission come from page entries. -/
def rgPaged (r : BitVec 128) : Bool := r.getLsbD 124
/-- Virtual base. -/
def rgBase (r : BitVec 128) : Nat := (r.extractLsb' 64 48).toNat
/-- Stitches. -/
def rgCount (r : BitVec 128) : Nat := (r.extractLsb' 40 24).toNat
/-- Segment. -/
def rgSeg (r : BitVec 128) : Nat := (r.extractLsb' 24 5).toNat
/-- First stitch. -/
def rgStitch (r : BitVec 128) : Nat := (r.extractLsb' 0 24).toNat
/-- The range covers a virtual address (R211). -/
def rgCovers (r : BitVec 128) (va : Nat) : Bool := rgV r && decide (rgBase r ≤ va ∧ va < rgBase r + 128 * rgCount r)

/-! ### Page entries (R213) -/

/-- Size of a page by its code. -/
def pageBytes (code : Nat) : Nat := match code with | 0 => 4096 | 1 => 2 ^ 21 | _ => 2 ^ 30
/-- Size of the page. -/
def pgSize (p : BitVec 128) : Nat := pageBytes (p.extractLsb' 123 2).toNat
/-- Virtual base. -/
def pgBase (p : BitVec 128) : Nat := (p.extractLsb' 64 48).toNat
/-- Context. -/
def pgCtx (p : BitVec 128) : Nat := (p.extractLsb' 40 8).toNat
/-- Range entry of that context. -/
def pgRange (p : BitVec 128) : Nat := (p.extractLsb' 32 8).toNat
/-- The page covers a virtual address. -/
def pgCovers (p : BitVec 128) (va : Nat) : Bool := rgV p && decide (pgBase p ≤ va ∧ va < pgBase p + pgSize p)

/-! ### Lookups -/

/-- The valid range of a context that covers a virtual address: its index and the entry. -/
def Die.rangeAt (d : Die) (ctx va : Nat) : Option (Nat × BitVec 128) :=
  (d.ranges.find? (fun e => e.1 / 256 == ctx && rgCovers e.2 va)).map (fun e => (e.1 % 256, e.2))

/-- The valid page of a range that covers a virtual address. -/
def Die.pageAt (d : Die) (ctx range va : Nat) : Option (BitVec 128) :=
  (d.pages.find? (fun e => pgCtx e.2 == ctx && pgRange e.2 == range && pgCovers e.2 va)).map (fun e => e.2)

/-- Permissions that a check asks for: read, write. -/
structure Perm where
  rd : Bool
  wr : Bool
  deriving DecidableEq, Repr

/-- An entry gives the permissions. -/
def Perm.given (p : Perm) (e : BitVec 128) : Bool := (!p.rd || rgRd e) && (!p.wr || rgWr e)

/-- The check at open of one virtual byte for a pass on a segment of the die: the fault, or the range that covers it (R217). -/
def Die.checkOpen (d : Die) (ctx segNo period : Nat) (need : Perm) (va : Nat) : Byte ⊕ BitVec 128 :=
  match d.rangeAt ctx va with
  | none => .inl cMISS
  | some (_, r) =>
    if rgSeg r ≠ segNo ∨ period < rgStitch r + rgCount r then .inl cSEG
    else if !(rgPaged r) && !(need.given r) then .inl cPERM
    else .inr r

/-- The check of the page that a virtual byte lies in: the fault, or the page's base and size, or none where its range is whole
(R214, R217). -/
def Die.checkPage (d : Die) (ctx : Nat) (need : Perm) (va : Nat) : Byte ⊕ Option (Nat × Nat) :=
  match d.rangeAt ctx va with
  | none => .inl cMISS
  | some (i, r) =>
    if !(rgPaged r) then (if need.given r then .inr none else .inl cPERM)
    else
      match d.pageAt ctx i va with
      | none => .inl cMISS
      | some p => if need.given r && need.given p then .inr (some (pgBase p, pgSize p)) else .inl cPERM

/-! ### Writing entries (R366) -/

/-- The fields of a valid range entry are within R212. -/
def rgFieldsOk (r : BitVec 128) : Bool :=
  decide (r.extractLsb' 112 12 = 0#12) && decide (r.extractLsb' 29 11 = 0#11) && rgBase r % 128 == 0 && decide (1 ≤ rgCount r) &&
    decide (rgCount r ≤ 8388608) && decide (rgSeg r ≤ 23) && decide (rgStitch r + rgCount r ≤ 2 ^ 23)
/-- The fields of a valid page entry are within R213. -/
def pgFieldsOk (p : BitVec 128) : Bool :=
  decide (p.extractLsb' 112 11 = 0#11) && decide (p.extractLsb' 48 16 = 0#16) && decide (p.extractLsb' 0 32 = 0#32) &&
    decide (p.extractLsb' 123 2 ≠ 3#2) && pgBase p % pgSize p == 0 && decide (pgCtx p ≠ 0)
/-- Two runs of numbers have one in common. -/
def runsMeet (a n b m : Nat) : Bool := decide (a < b + m ∧ b < a + n)
/-- A range entry for a place overlaps another valid one: virtual bytes of its context, or stitches of its segment. -/
def Die.rangeClash (d : Die) (place ctx : Nat) (r : BitVec 128) : Bool :=
  d.ranges.any (fun e => e.1 != place && rgV e.2 &&
    ((e.1 / 256 == ctx && runsMeet (rgBase r) (128 * rgCount r) (rgBase e.2) (128 * rgCount e.2)) ||
     (rgSeg e.2 == rgSeg r && runsMeet (rgStitch r) (rgCount r) (rgStitch e.2) (rgCount e.2))))
/-- A page entry for a place overlaps another valid page of its range, or does not fit its range. -/
def Die.pageClash (d : Die) (place : Nat) (p : BitVec 128) : Bool :=
  let r := SMap.get 0 d.ranges (pgCtx p * 256 + pgRange p)
  d.pages.any (fun e => e.1 != place && rgV e.2 && pgCtx e.2 == pgCtx p && pgRange e.2 == pgRange p &&
    runsMeet (pgBase p) (pgSize p) (pgBase e.2) (pgSize e.2)) ||
    !(rgV r && rgPaged r && decide (rgBase r ≤ pgBase p ∧ pgBase p + pgSize p ≤ rgBase r + 128 * rgCount r) &&
      rgBase r % pgSize p == 0 && 128 * rgStitch r % pgSize p == 0)

/-- Write a range entry; one that is not valid takes its pages with it. -/
def Die.putRange (d : Die) (place : Nat) (e : BitVec 128) : Die :=
  { d with
    ranges := SMap.set 0 d.ranges place e
    pages := if rgV e then d.pages else d.pages.filter (fun q => decide (pgCtx q.2 * 256 + pgRange q.2 ≠ place)) }

/-- `MAPW` at a place of the map store: the code of the first check that fails and the die after it. -/
def Die.mapw (d : Die) (table : Bool) (ctx index : Nat) (e : BitVec 128) : Nat × Die :=
  let place := ctx * 256 + index
  if !table && decide (255 < index) then (3, d)
  else if !(rgV e) then (0, if table then { d with pages := SMap.set 0 d.pages index e } else d.putRange place e)
  else if table then
    if !(pgFieldsOk e) then (1, d)
    else if d.pageClash index e then (2, d)
    else (0, { d with pages := SMap.set 0 d.pages index e })
  else if !(rgFieldsOk e) || ctx == 0 then (1, d)
  else if d.rangeClash place ctx e then (2, d)
  else (0, d.putRange place e)

/-- A page entry from its fields. -/
def pageEntry (rd wr : Bool) (size base ctx range : Nat) : BitVec 128 :=
  BitVec.ofNat 128 (2 ^ 127 + (if rd then 2 ^ 126 else 0) + (if wr then 2 ^ 125 else 0) + size * 2 ^ 123 + base * 2 ^ 64 + ctx * 2 ^ 40 +
    range * 2 ^ 32)
/-- A range entry from its fields. -/
def rangeEntry (rd wr paged : Bool) (base count seg stitch : Nat) : BitVec 128 :=
  BitVec.ofNat 128 (2 ^ 127 + (if rd then 2 ^ 126 else 0) + (if wr then 2 ^ 125 else 0) + (if paged then 2 ^ 124 else 0) + base * 2 ^ 64 +
    count * 2 ^ 40 + seg * 2 ^ 24 + stitch)

/-! ### Segments -/

/-- Live banks of a segment (R195). -/
def Seg.l (g : Seg) : Nat := (List.range 32).foldl (fun n i => if g.live.getLsbD i then n + 1 else n) 0
/-- Stitches of a segment (R195). -/
def Seg.period (g : Seg) : Nat := g.l * Config.bankStitches

end Sys2Proof.Machine
end

