-- ==== Sys2Proof/Machine/Scalar.lean ====
section
/-! DEFINITION. The S slot but its control-register and supervisor instructions: integer operations, compares, predicates,
scratchpad access, control transfer, fences, descriptors, random numbers (R133 to R149). -/

namespace Sys2Proof.Machine

/-! ### Integer operations (R31, R134, R135) -/

/-- Quotient truncated toward zero; all ones for a divisor of zero (R31). -/
def divS (a b : Word) : Word := if b = 0 then ~~~0#64 else BitVec.ofInt 64 (a.toInt.tdiv b.toInt)
/-- Remainder with the sign of the dividend; the dividend for a divisor of zero. -/
def remS (a b : Word) : Word := if b = 0 then a else BitVec.ofInt 64 (a.toInt.tmod b.toInt)
/-- Unsigned quotient. -/
def divU (a b : Word) : Word := if b = 0 then ~~~0#64 else BitVec.ofNat 64 (a.toNat / b.toNat)
/-- Unsigned remainder. -/
def remU (a b : Word) : Word := if b = 0 then a else BitVec.ofNat 64 (a.toNat % b.toNat)
/-- Upper half of the exact signed product. -/
def mulhS (a b : Word) : Word := BitVec.ofInt 64 (a.toInt * b.toInt / (2 ^ 64 : Nat))
/-- Upper half of the exact unsigned product. -/
def mulhU (a b : Word) : Word := BitVec.ofNat 64 (a.toNat * b.toNat / 2 ^ 64)
/-- Count of a shift: taken modulo 64 (R31). -/
def cnt64 (b : Word) : Nat := b.toNat % 64
/-- Rotate right by a count below 64. -/
def ror64 (a : Word) (n : Nat) : Word := (a >>> n) ||| (a <<< ((64 - n) % 64))
/-- Signed minimum. -/
def minS (a b : Word) : Word := if b.toInt < a.toInt then b else a
/-- Signed maximum. -/
def maxS (a b : Word) : Word := if a.toInt < b.toInt then b else a
/-- Unsigned minimum. -/
def minU (a b : Word) : Word := if b.toNat < a.toNat then b else a
/-- Unsigned maximum. -/
def maxU (a b : Word) : Word := if a.toNat < b.toNat then b else a
/-- Leading zeros; 64 for zero. -/
def clz64 (a : Word) : Nat := if a = 0 then 64 else 63 - Nat.log2 a.toNat
/-- Trailing zeros below bit `n`, counted from `i`. -/
def ctzFrom (a i : Nat) : Nat → Nat
  | 0 => i
  | n + 1 => if a.testBit i then i else ctzFrom a (i + 1) n
/-- Trailing zeros; 64 for zero. -/
def ctz64 (a : Word) : Nat := ctzFrom a.toNat 0 64
/-- Ones among the low `n` bits. -/
def onesBelow (a : Nat) : Nat → Nat
  | 0 => 0
  | n + 1 => onesBelow a n + (if a.testBit n then 1 else 0)
/-- Count of ones. -/
def popc64 (a : Word) : Nat := onesBelow a.toNat 64
/-- The low `n` bits in reverse order. -/
def reverseBits (a : Nat) : Nat → Nat
  | 0 => 0
  | n + 1 => reverseBits (a / 2) n + (if a.testBit 0 then 2 ^ n else 0)
/-- Bit i moves to bit 63 − i. -/
def brev64 (a : Word) : Word := BitVec.ofNat 64 (reverseBits a.toNat 64)

/-- A guarded instruction of two scalar sources and a scalar result. -/
def alu3 (s : State) (g : Guard) (d a b : Reg) (f : Word → Word → Word) : Out :=
  guarded s g (s.setS d (f (s.core.rdS a) (s.core.rdS b)))
/-- A guarded instruction of one scalar source and a scalar result. -/
def alu2 (s : State) (g : Guard) (d a : Reg) (f : Word → Word) : Out :=
  guarded s g (s.setS d (f (s.core.rdS a)))
/-- An immediate instruction. -/
def aluI (s : State) (d a : Reg) (f : Word → Word) : Out := .next (s.setS d (f (s.core.rdS a)))
/-- Count of a shift-immediate: F[6] × 32 + B (R135). -/
def immCount (b : Reg) (c : BitVec 1) : Nat := c.toNat * 32 + b.toNat
/-- IMM16 with its sign (R105). -/
def sx16 (i : BitVec 16) : Word := i.signExtend 64
/-- IMM16 with zeros (R105). -/
def zx16 (i : BitVec 16) : Word := i.setWidth 64

def execAdd (g : Guard) (d a b : Reg) (s : State) : Out := alu3 s g d a b (fun x y => x + y)
def execSub (g : Guard) (d a b : Reg) (s : State) : Out := alu3 s g d a b (fun x y => x - y)
def execMul (g : Guard) (d a b : Reg) (s : State) : Out := alu3 s g d a b (fun x y => x * y)
def execMulh (g : Guard) (d a b : Reg) (s : State) : Out := alu3 s g d a b mulhS
def execMulhu (g : Guard) (d a b : Reg) (s : State) : Out := alu3 s g d a b mulhU
def execDiv (g : Guard) (d a b : Reg) (s : State) : Out := alu3 s g d a b divS
def execDivu (g : Guard) (d a b : Reg) (s : State) : Out := alu3 s g d a b divU
def execRem (g : Guard) (d a b : Reg) (s : State) : Out := alu3 s g d a b remS
def execRemu (g : Guard) (d a b : Reg) (s : State) : Out := alu3 s g d a b remU
def execAnd (g : Guard) (d a b : Reg) (s : State) : Out := alu3 s g d a b (fun x y => x &&& y)
def execOr (g : Guard) (d a b : Reg) (s : State) : Out := alu3 s g d a b (fun x y => x ||| y)
def execXor (g : Guard) (d a b : Reg) (s : State) : Out := alu3 s g d a b (fun x y => x ^^^ y)
def execAndn (g : Guard) (d a b : Reg) (s : State) : Out := alu3 s g d a b (fun x y => x &&& ~~~y)
def execOrn (g : Guard) (d a b : Reg) (s : State) : Out := alu3 s g d a b (fun x y => x ||| ~~~y)
def execXnor (g : Guard) (d a b : Reg) (s : State) : Out := alu3 s g d a b (fun x y => ~~~(x ^^^ y))
def execShl (g : Guard) (d a b : Reg) (s : State) : Out := alu3 s g d a b (fun x y => x <<< cnt64 y)
def execShr (g : Guard) (d a b : Reg) (s : State) : Out := alu3 s g d a b (fun x y => x >>> cnt64 y)
def execSra (g : Guard) (d a b : Reg) (s : State) : Out := alu3 s g d a b (fun x y => x.sshiftRight (cnt64 y))
def execRor (g : Guard) (d a b : Reg) (s : State) : Out := alu3 s g d a b (fun x y => ror64 x (cnt64 y))
def execMin (g : Guard) (d a b : Reg) (s : State) : Out := alu3 s g d a b minS
def execMax (g : Guard) (d a b : Reg) (s : State) : Out := alu3 s g d a b maxS
def execMinu (g : Guard) (d a b : Reg) (s : State) : Out := alu3 s g d a b minU
def execMaxu (g : Guard) (d a b : Reg) (s : State) : Out := alu3 s g d a b maxU
def execClz (g : Guard) (d a : Reg) (s : State) : Out := alu2 s g d a (fun x => BitVec.ofNat 64 (clz64 x))
def execCtz (g : Guard) (d a : Reg) (s : State) : Out := alu2 s g d a (fun x => BitVec.ofNat 64 (ctz64 x))
def execPopc (g : Guard) (d a : Reg) (s : State) : Out := alu2 s g d a (fun x => BitVec.ofNat 64 (popc64 x))
def execBrev (g : Guard) (d a : Reg) (s : State) : Out := alu2 s g d a brev64
def execSext8 (g : Guard) (d a : Reg) (s : State) : Out := alu2 s g d a (fun x => (x.setWidth 8).signExtend 64)
def execSext16 (g : Guard) (d a : Reg) (s : State) : Out := alu2 s g d a (fun x => (x.setWidth 16).signExtend 64)
def execSext32 (g : Guard) (d a : Reg) (s : State) : Out := alu2 s g d a (fun x => (x.setWidth 32).signExtend 64)
def execZext8 (g : Guard) (d a : Reg) (s : State) : Out := alu2 s g d a (fun x => (x.setWidth 8).setWidth 64)
def execZext16 (g : Guard) (d a : Reg) (s : State) : Out := alu2 s g d a (fun x => (x.setWidth 16).setWidth 64)
def execZext32 (g : Guard) (d a : Reg) (s : State) : Out := alu2 s g d a (fun x => (x.setWidth 32).setWidth 64)

def execAddi (d a : Reg) (imm : BitVec 16) (s : State) : Out := aluI s d a (fun x => x + sx16 imm)
def execLdi (d : Reg) (imm : BitVec 16) (s : State) : Out := .next (s.setS d (sx16 imm))
def execLui (d : Reg) (imm : BitVec 16) (s : State) : Out := .next (s.setS d (sx16 imm <<< (16 : Nat)))
def execLdk (d : Reg) (k : W32) (s : State) : Out := .next (s.setS d (k.signExtend 64))
def execAndi (d a : Reg) (imm : BitVec 16) (s : State) : Out := aluI s d a (fun x => x &&& zx16 imm)
def execOri (d a : Reg) (imm : BitVec 16) (s : State) : Out := aluI s d a (fun x => x ||| zx16 imm)
def execXori (d a : Reg) (imm : BitVec 16) (s : State) : Out := aluI s d a (fun x => x ^^^ zx16 imm)
def execShli (g : Guard) (d a b : Reg) (c : BitVec 1) (s : State) : Out := alu2 s g d a (fun x => x <<< immCount b c)
def execShri (g : Guard) (d a b : Reg) (c : BitVec 1) (s : State) : Out := alu2 s g d a (fun x => x >>> immCount b c)
def execSrai (g : Guard) (d a b : Reg) (c : BitVec 1) (s : State) : Out := alu2 s g d a (fun x => x.sshiftRight (immCount b c))
def execRori (g : Guard) (d a b : Reg) (c : BitVec 1) (s : State) : Out := alu2 s g d a (fun x => ror64 x (immCount b c))

/-! ### Compares, selection, predicates (R136, R137) -/

/-- A guarded compare into a predicate. -/
def cmpR (s : State) (g : Guard) (d : Reg3) (a b : Reg) (f : Word → Word → Bool) : Out :=
  guarded s g (s.onCore (fun c => c.wrP d (f (c.rdS a) (c.rdS b))))
/-- A compare with an immediate. -/
def cmpI (s : State) (d : Reg3) (a : Reg) (f : Word → Bool) : Out := .next (s.onCore (fun c => c.wrP d (f (c.rdS a))))

def execCmpeq (g : Guard) (d : Reg3) (a b : Reg) (s : State) : Out := cmpR s g d a b (fun x y => x == y)
def execCmpne (g : Guard) (d : Reg3) (a b : Reg) (s : State) : Out := cmpR s g d a b (fun x y => x != y)
def execCmplt (g : Guard) (d : Reg3) (a b : Reg) (s : State) : Out := cmpR s g d a b (fun x y => decide (x.toInt < y.toInt))
def execCmpltu (g : Guard) (d : Reg3) (a b : Reg) (s : State) : Out := cmpR s g d a b (fun x y => decide (x.toNat < y.toNat))
def execCmple (g : Guard) (d : Reg3) (a b : Reg) (s : State) : Out := cmpR s g d a b (fun x y => decide (x.toInt ≤ y.toInt))
def execCmpleu (g : Guard) (d : Reg3) (a b : Reg) (s : State) : Out := cmpR s g d a b (fun x y => decide (x.toNat ≤ y.toNat))
def execCmpieq (d : Reg3) (a : Reg) (imm : BitVec 16) (s : State) : Out := cmpI s d a (fun x => x == sx16 imm)
def execCmpilt (d : Reg3) (a : Reg) (imm : BitVec 16) (s : State) : Out :=
  cmpI s d a (fun x => decide (x.toInt < (sx16 imm).toInt))
def execCmpiltu (d : Reg3) (a : Reg) (imm : BitVec 16) (s : State) : Out :=
  cmpI s d a (fun x => decide (x.toNat < (sx16 imm).toNat))
def execSel (g : Guard) (d a b : Reg) (k : Reg3) (s : State) : Out :=
  guarded s g (s.setS d (if s.core.rdP k then s.core.rdS a else s.core.rdS b))

/-- A guarded operation of predicates. -/
def predOp (s : State) (g : Guard) (d a b : Reg3) (f : Bool → Bool → Bool) : Out :=
  guarded s g (s.onCore (fun c => c.wrP d (f (c.rdP a) (c.rdP b))))

def execPand (g : Guard) (d a b : Reg3) (s : State) : Out := predOp s g d a b (fun x y => x && y)
def execPor (g : Guard) (d a b : Reg3) (s : State) : Out := predOp s g d a b (fun x y => x || y)
def execPxor (g : Guard) (d a b : Reg3) (s : State) : Out := predOp s g d a b (fun x y => x != y)
def execPandn (g : Guard) (d a b : Reg3) (s : State) : Out := predOp s g d a b (fun x y => x && !y)
def execPnot (g : Guard) (d a : Reg3) (s : State) : Out := predOp s g d a a (fun x _ => !x)
/-- The predicates as a word: bit 0 reads 1 (R137). -/
def Core.predWord (c : Core) : Word := (c.src.p ||| 1#8).setWidth 64
def execPget (g : Guard) (d : Reg) (s : State) : Out := guarded s g (s.setS d s.core.predWord)
/-- p1 to p7 from the bits of a word (R137). -/
def Core.putPreds (c : Core) (v : Word) : Core := { c with regs := { c.regs with p := v.setWidth 8 &&& 0xFE#8 } }
def execPset (g : Guard) (a : Reg) (s : State) : Out := guarded s g (s.onCore (fun c => c.putPreds (c.rdS a)))

/-! ### Scratchpad access (R138 to R141) -/

/-- A loaded value of `z` bytes, with its sign or with zeros. -/
def extend (z : Nat) (signed : Bool) (v : Nat) : Word :=
  if signed then BitVec.ofInt 64 (signedNat (8 * z) v) else BitVec.ofNat 64 v

/-- Load `z` bytes into a scalar register. -/
def loadS (s : State) (d : Reg) (x : Word) (z : Nat) (signed : Bool) : Out :=
  match spLoad s 0 0 x.toNat z z with
  | .stop s' => .next s'
  | .ok s' v => .next (s'.setS d (extend z signed v))

/-- Store the low `z` bytes of a value. -/
def storeS (s : State) (x v : Word) (z : Nat) : Out :=
  match spStore s .store 0 0 x.toNat z (leBytes z v.toNat) with
  | .stop s' => .next s'
  | .ok s' _ => .next s'

/-- Address of an I-form access. -/
def addrI (s : State) (a : Reg) (imm : BitVec 16) : Word := s.core.rdS a + sx16 imm
/-- Address of an indexed access (R139). -/
def addrX (s : State) (a b : Reg) (sc : BitVec 2) : Word := s.core.rdS a + s.core.rdS b <<< sc.toNat

def execLdb (d a : Reg) (imm : BitVec 16) (s : State) : Out := loadS s d (addrI s a imm) 1 true
def execLdbu (d a : Reg) (imm : BitVec 16) (s : State) : Out := loadS s d (addrI s a imm) 1 false
def execLdh (d a : Reg) (imm : BitVec 16) (s : State) : Out := loadS s d (addrI s a imm) 2 true
def execLdhu (d a : Reg) (imm : BitVec 16) (s : State) : Out := loadS s d (addrI s a imm) 2 false
def execLdw (d a : Reg) (imm : BitVec 16) (s : State) : Out := loadS s d (addrI s a imm) 4 true
def execLdwu (d a : Reg) (imm : BitVec 16) (s : State) : Out := loadS s d (addrI s a imm) 4 false
def execLdd (d a : Reg) (imm : BitVec 16) (s : State) : Out := loadS s d (addrI s a imm) 8 false
def execStb (d a : Reg) (imm : BitVec 16) (s : State) : Out := storeS s (addrI s a imm) (s.core.rdS d) 1
def execSth (d a : Reg) (imm : BitVec 16) (s : State) : Out := storeS s (addrI s a imm) (s.core.rdS d) 2
def execStw (d a : Reg) (imm : BitVec 16) (s : State) : Out := storeS s (addrI s a imm) (s.core.rdS d) 4
def execStd (d a : Reg) (imm : BitVec 16) (s : State) : Out := storeS s (addrI s a imm) (s.core.rdS d) 8

/-- Size and sign of an `LDX` width code (R139). -/
def ldxWidth (w : BitVec 3) : Nat × Bool :=
  match w.toNat with
  | 0 => (1, true) | 1 => (1, false) | 2 => (2, true) | 3 => (2, false) | 4 => (4, true) | 5 => (4, false) | _ => (8, false)

def execLdx (g : Guard) (d a b : Reg) (sc : BitVec 2) (w : BitVec 3) (s : State) : Out :=
  if s.core.guardOn g then loadS s d (addrX s a b sc) (ldxWidth w).1 (ldxWidth w).2 else .next s
def execStx (g : Guard) (d a b : Reg) (sc w : BitVec 2) (s : State) : Out :=
  if s.core.guardOn g then storeS s (addrX s a b sc) (s.core.rdS d) (2 ^ w.toNat) else .next s

/-- A guarded scratchpad atomic of `z` bytes: new value from old, result from old (R140). -/
def atomicS (s : State) (g : Guard) (d a : Reg) (z : Nat) (f : Word → Word) (r : Word → Word) : Out :=
  if s.core.guardOn g then
    match spAtomic s 0 (s.core.rdS a).toNat z (fun v => (f (BitVec.ofNat 64 v)).toNat) with
    | .stop s' => .next s'
    | .ok s' v => .next (s'.setS d (r (BitVec.ofNat 64 v)))
  else .next s

def execAadd (g : Guard) (d a b : Reg) (s : State) : Out := atomicS s g d a 8 (fun o => o + s.core.rdS b) id
def execAaddw (g : Guard) (d a b : Reg) (s : State) : Out :=
  atomicS s g d a 4 (fun o => o + s.core.rdS b) (fun o => (o.setWidth 32).signExtend 64)
def execAmin (g : Guard) (d a b : Reg) (s : State) : Out := atomicS s g d a 8 (fun o => minS o (s.core.rdS b)) id
def execAmax (g : Guard) (d a b : Reg) (s : State) : Out := atomicS s g d a 8 (fun o => maxS o (s.core.rdS b)) id
def execAswap (g : Guard) (d a b : Reg) (s : State) : Out := atomicS s g d a 8 (fun _ => s.core.rdS b) id
def execAand (g : Guard) (d a b : Reg) (s : State) : Out := atomicS s g d a 8 (fun o => o &&& s.core.rdS b) id
def execAor (g : Guard) (d a b : Reg) (s : State) : Out := atomicS s g d a 8 (fun o => o ||| s.core.rdS b) id
/-- FP32 addition to nearest, subnormals kept, no flags (R35, R39). -/
def faddRne (a b : Nat) : Nat := (fpAdd f32 rneMode a b).1
def execAfadd (g : Guard) (d a b : Reg) (s : State) : Out :=
  atomicS s g d a 4 (fun o => BitVec.ofNat 64 (faddRne o.toNat ((s.core.rdS b).toNat % 2 ^ 32))) id
def execAcas (g : Guard) (d a b : Reg) (s : State) : Out :=
  atomicS s g d a 8 (fun o => if o = s.core.rdS d then s.core.rdS b else o) id

/-! ### Control transfer (R142 to R145) -/

/-- The row-store entry of a row (R94). -/
def Core.rowAt (c : Core) (r : Nat) : RowWords :=
  let w := fun i => SMap.get 0 c.rowStore (r * 8 + i)
  ⟨w 0, w 1, w 2, w 3, w 4, w 5, w 6, w 7⟩
/-- Whether a row holds a `CALL`. -/
def Core.isCallRow (c : Core) (r : Nat) : Bool := let x := c.rowAt r; x.uses .s && fOp x.s == 0x2A#6
/-- Whether a row is a legal target of `JMPR`: below ROWS, an ITGT row or the row after a `CALL` (R104). -/
def Core.isTarget (c : Core) (r : Nat) : Bool :=
  decide (r < c.rows) && ((c.rowAt r).itgt || (decide (0 < r) && c.isCallRow (r - 1)))

/-- The row in hand branches to a row. -/
def Core.branchTo (c : Core) (r : Nat) : Core := { c with jump := some r }
/-- A target given as a signed offset from the row in hand (R105). -/
def Core.rel (c : Core) (off : Int) : Nat := ((c.pos.row : Int) + off).toNat

def execBr (p : Reg3) (neg : BitVec 1) (off : BitVec 22) (s : State) : Out :=
  if s.core.rdP p != (neg == 1) then .next (s.onCore (fun c => c.branchTo (c.rel off.toInt))) else .next s
def execJmp (off : BitVec 22) (s : State) : Out := .next (s.onCore (fun c => c.branchTo (c.rel off.toInt)))
def execCall (off : BitVec 22) (s : State) : Out :=
  .next (s.onCore (fun c => (c.branchTo (c.rel off.toInt)).wrS 31 (BitVec.ofNat 64 (c.pos.row + 1))))
def execJmpr (g : Guard) (a : Reg) (s : State) : Out :=
  if s.core.guardOn g then
    let t := (s.core.rdS a).toNat
    if s.core.isTarget t then .next (s.onCore (fun c => c.branchTo t))
    else .next (s.raise cBADJUMP 0 (s.core.rdS a) 0)
  else .next s
def execLoop (d : Reg) (imm : BitVec 16) (s : State) : Out :=
  let v := s.core.rdS d - 1
  .next (s.onCore (fun c => let c1 := c.wrS d v; if v = 0 then c1 else c1.branchTo (c.rel imm.toInt)))

/-- A pass cancelled: it acts no more and closes 4 ticks later with ERR (R244). -/
def Pass.cancel (p : Pass) : Pass := { p with st := .closing, closeIn := 4, err := true, cancelled := true, trap := none }

/-- `EXIT`: no later row issues, parked passes are cancelled, and the core waits for its outstanding work (R145). -/
def execExit (s : State) : Out :=
  .next (s.onCore (fun c => { c with
    run := .exiting
    ret := none
    lastBeat := c.pos.beat
    passes := c.passes.map (fun e => (e.1, if e.2.st = .parked then e.2.cancel else e.2)) }))

/-! ### Fences (R146) -/

/-- A core's `TDW` has not yet reached the descriptor cache. -/
def tdfenceWaits (s : State) : Bool := decide (s.tick < s.core.tdwDue)

/-- A pass rides: it has not parked, and has visits left. -/
def Pass.rides (p : Pass) : Bool := decide (p.st = .riding) && p.closeIn == 0

/-- The key under which the supervisor passes over the save region of a die stand among passes that an instruction waits for: that of no
core (R368). -/
def regionKey (die : Nat) : Nat := die * 32 + 31
/-- They have visits left. -/
def RegionJob.rides (j : RegionJob) : Bool := decide (j.left ≠ 0)

/-- The passes riding on a die: core key and pass slot, or the place in the opening order of one over the save region (R216). -/
def ridingOn (s : State) (d : Nat) : List (Nat × Nat) :=
  s.cores.flatMap (fun e => if keyDie e.1 = d then
    e.2.passes.filterMap (fun p => if p.2.rides then some (e.1, p.1) else none) else []) ++
    ((s.dieAt d).region.filter RegionJob.rides).map (fun j => (regionKey d, j.seq))

/-- The passes of a list that still ride. -/
def stillRiding (s : State) (l : List (Nat × Nat)) : List (Nat × Nat) :=
  l.filter (fun e =>
    if keyNo e.1 = 31 then (s.dieAt (keyDie e.1)).region.any (fun j => j.rides && j.seq == e.2)
    else (SMap.get {} (s.coreAt e.1).passes e.2).rides)

/-- The covered set of a `MAPFENCE` taken when its row first falls due (R216). -/
def mapfenceArm (s : State) : State :=
  match s.core.mapfence with
  | none => s.onCore (fun c => { c with mapfence := some (ridingOn s s.die) })
  | some l => s.onCore (fun c => { c with mapfence := some (stillRiding s l) })
/-- A covered pass still rides. -/
def mapfenceWaits (s : State) : Bool := match s.core.mapfence with | none => false | some l => !l.isEmpty

/-- Whether an operation writes scratchpad at its target. -/
def LOp.writes : LOp → Bool
  | .put _ _ => true
  | .amo _ _ _ => true
  | _ => false

/-- Whether `EXIT` waits until an operation has been applied at its target (R145). -/
def LOp.awaited : LOp → Bool
  | .commit _ _ => false
  | _ => true

/-- An `LPUT` or `LAMO` of the core has not been applied at its target. -/
def spfenceWaits (s : State) : Bool := s.core.sends.any (fun q => q.2.any (fun m => m.op.writes))

def execTdfence (_ : Guard) (s : State) : Out := .next s
def execMapfence (g : Guard) (s : State) : Out :=
  if s.core.guardOn g then
    let s1 := mapfenceArm s
    if mapfenceWaits s1 then .next s1 else .next (s1.onCore (fun c => { c with mapfence := none }))
  else .next s
def execSpfence (_ : Guard) (s : State) : Out := .next s
def execSyncmark (g : Guard) (s : State) : Out := guarded s g (s.onCore (fun c => { c with interval := c.interval + 1 }))

/-! ### Descriptors (R147) -/

def execTdw (g : Guard) (a b : Reg) (f : BitVec 6) (s : State) : Out :=
  if s.core.guardOn g then
    let t := (s.core.rdS a).toNat
    if s.sup then .next s
    else if 255 < t then .next (s.raise cSPBOUND 0 0 0)
    else
      let n := s.choose .descriptor 4
      .next ((n.2.setDesc s.core.ctx t ((s.desc s.core.ctx t).put f.toNat (s.core.rdS b))).onCore
        (fun c => { c with tdwDue := max c.tdwDue (s.tick + n.1) }))
  else .next s
def execTdr (g : Guard) (d a : Reg) (f : BitVec 6) (s : State) : Out :=
  if s.core.guardOn g then
    let t := (s.core.rdS a).toNat
    if s.sup then .next (s.setS d 0)
    else if 255 < t then .next (s.raise cSPBOUND 0 0 0)
    else .next (s.setS d ((s.desc s.core.ctx t).field (s.ordBit s.core.ctx t) f.toNat))
  else .next s

/-! ### Random numbers (R149) -/

/-- The mixing function of both streams. -/
def mix64 (z : Word) : Word :=
  let z1 := (z ^^^ (z >>> (30 : Nat))) * 0xBF58476D1CE4E5B9#64
  let z2 := (z1 ^^^ (z1 >>> (27 : Nat))) * 0x94D049BB133111EB#64
  z2 ^^^ (z2 >>> (31 : Nat))

/-- The step between successive values of a stream. -/
def goldenGamma : Word := 0x9E3779B97F4A7C15#64

/-- The next word of a core's scalar stream. -/
def Core.rngs (c : Core) : Word :=
  mix64 (mix64 (c.rngkey1 ^^^ (BitVec.ofNat 64 c.lcore <<< (40 : Nat)) ^^^ 0x5253#64) + c.rngkey0 + c.sctr * goldenGamma)

def execRngs (g : Guard) (d : Reg) (s : State) : Out :=
  guarded s g (s.onCore (fun c => { c.wrS d c.rngs with sctr := c.sctr + 1 }))

end Sys2Proof.Machine
end

