-- ==== Sys2Proof/Machine/Operands.lean ====
section
/-! DEFINITION. The operand forms of the V slot: folds, masks, vector sources and destinations, mesh directions, operations in
flight (R109, R150 to R157, R269). -/

namespace Sys2Proof.Machine

/-! ### Folds (R106, R150) -/

/-- Beats of a fold: 1, 2, 4 or 8. -/
def foldBeats (fold : BitVec 2) : Nat := 2 ^ fold.toNat
/-- Logical elements of a fold. -/
def foldN (fold : BitVec 2) : Nat := 8 * foldBeats fold

/-! ### Mesh directions (R109, R154, R155, R269) -/

/-- Row and column of a physical core in the mesh. -/
def meshPos (n : Nat) : Nat × Nat := if n ≤ 8 then (0, n) else if n ≤ 17 then (1, 17 - n) else (2, n - 18)
/-- Physical core at a row and column. -/
def meshAt : Nat → Nat → Nat
  | 0, c => c
  | 1, c => 17 - c
  | _, c => 18 + c
/-- Neighbour of a physical core to the north 0, east 1, south 2 or west 3. -/
def meshNeighbour (n dir : Nat) : Option Nat :=
  let p := meshPos n
  match dir with
  | 0 => if p.1 = 0 then none else some (meshAt (p.1 - 1) p.2)
  | 1 => if p.2 = 8 then none else some (meshAt p.1 (p.2 + 1))
  | 2 => if p.1 = 2 then none else some (meshAt (p.1 + 1) p.2)
  | _ => if p.2 = 0 then none else some (meshAt p.1 (p.2 - 1))

/-- Whether v28 to v31 name directions for the core in hand (R109). -/
def State.meshOn (s : State) : Bool := s.sup || s.core.mesh
/-- Whether a vector register number names a direction. -/
def State.isDir (s : State) (r : Reg) : Bool := s.meshOn && decide (28 ≤ r.toNat)
/-- The direction a register number names. -/
def dirOf (r : Reg) : Nat := r.toNat - 28

/-- The core that a core may address in a direction: another core of its launch, or for an anchor an adjacent compute core that
runs a launch with MESH (R155). -/
def State.dirTarget (s : State) (k dir : Nat) : Option Nat :=
  match meshNeighbour (keyNo k) dir with
  | none => none
  | some n =>
    let j := keyDie k * 32 + n
    let me := s.coreAt k
    let c := s.coreAt j
    if isAnchor j || c.fused then none
    else if isAnchor k then (if c.run.live && c.mesh then some j else none)
    else if decide (c.run ≠ .released) && c.ctx == me.ctx && c.lid == me.lid then some j else none

/-- The directions among some registers, each once. -/
def State.dirs (s : State) (rs : List Reg) : List Nat := ((rs.filter s.isDir).map dirOf).dedup

/-- A direction among some registers has nowhere to go (R155). -/
def State.badDir (s : State) (rs : List Reg) : Bool := (s.dirs rs).any (fun d => (s.dirTarget s.cur d).isNone)

/-- A V instruction is held: a direction it reads holds no entry, or one it sends to has no room (R129, R154). -/
def vWaits (s : State) (reads writes : List Reg) : Bool :=
  !(s.badDir (reads ++ writes)) &&
    ((s.dirs reads).any (fun d => decide (SMap.get [] s.core.meshRecv d = [])) ||
     (s.dirs writes).any (fun d => decide (2 ≤ (SMap.get [] s.core.meshSend d).length)))

/-- Element i of a vector source: of the oldest entry of a direction, or of the register (R154). -/
def State.vsrc (s : State) (r : Reg) (i : Nat) : W32 :=
  if s.isDir r then
    match SMap.get [] s.core.meshRecv (dirOf r) with
    | [] => 0
    | e :: _ => e.getD i 0
  else s.core.rdV r i

/-- Remove the entries that were read (R154). -/
def Core.popDirs (c : Core) : List Nat → Core
  | [] => c
  | d :: ds => { c with meshRecv := SMap.set [] c.meshRecv d ((SMap.get [] c.meshRecv d).drop 1) }.popDirs ds

/-- Send an entry to a direction (R154). -/
def Core.meshPut (c : Core) (dir : Nat) (e : List W32) : Core :=
  { c with meshSend := SMap.set [] c.meshSend dir (SMap.get [] c.meshSend dir ++ [{ words := e, id := c.beats }]) }

/-! ### Writing elements -/

/-- A value of `z` bytes loaded into an element. -/
def extend32 (z : Nat) (signed : Bool) (v : Nat) : W32 := if signed then BitVec.ofInt 32 (signedNat (8 * z) v) else BitVec.ofNat 32 v

/-- Write `f i` at keys `base + i` for the i below `n` that the test picks. -/
def putElems {α : Type} [DecidableEq α] (dflt : α) (m : SMap α) (base : Nat) (pick : Nat → Bool) (f : Nat → α) : Nat → SMap α
  | 0 => m
  | n + 1 =>
    let m1 := putElems dflt m base pick f n
    if pick n then SMap.set dflt m1 (base + n) (f n) else m1

/-- A vector destination: the elements below `n` that the test picks, in a register or in an entry sent to a direction, where
the others are 0 (R151, R154). -/
def State.vdst (s : State) (d : Reg) (n : Nat) (pick : Nat → Bool) (f : Nat → W32) : State :=
  if s.isDir d then
    s.onCore (fun c => c.meshPut (dirOf d)
      ((List.range 64).map (fun i => if decide (i < n) && pick i then f i else 0)))
  else s.onCore (fun c => { c with regs := { c.regs with v := putElems 0 c.regs.v (d.toNat * 64) pick f n } })

/-! ### Operations in flight (R156, R157) -/

/-- A place in a register file. -/
inductive CellKey where
  | s (r : Nat)
  | m (r : Nat)
  | v (i : Nat)
  | q (i : Nat)
  | t (i : Nat)
  | te (i : Nat)
  | x (i : Nat)
  deriving DecidableEq, Repr

/-- The place of a cell. -/
def RegCell.key : RegCell → CellKey
  | .s r _ => .s r
  | .m r _ => .m r
  | .v i _ => .v i
  | .q i _ => .q i
  | .t i _ => .t i
  | .te i _ => .te i
  | .x i _ => .x i

/-- The cell that stands at a place. -/
def Regs.cell (r : Regs) : CellKey → RegCell
  | .s k => .s k (SMap.get 0 r.s k)
  | .m k => .m k (SMap.get 0 r.m k)
  | .v k => .v k (SMap.get 0 r.v k)
  | .q k => .q k (SMap.get 0 r.q k)
  | .t k => .t k (SMap.get 0 r.t k)
  | .te k => .te k (SMap.get 0 r.texp k)
  | .x k => .x k (SMap.get 0 r.x k)

/-- Put a cell back in its place. -/
def Regs.putCell (r : Regs) : RegCell → Regs
  | .s k v => { r with s := SMap.set 0 r.s k v }
  | .m k v => { r with m := SMap.set 0 r.m k v }
  | .v k v => { r with v := SMap.set 0 r.v k v }
  | .q k v => { r with q := SMap.set 0 r.q k v }
  | .t k v => { r with t := SMap.set 0 r.t k v }
  | .te k v => { r with texp := SMap.set 0 r.texp k v }
  | .x k v => { r with x := SMap.set 0 r.x k v }

/-- Put cells back, first to last. -/
def Regs.putCells (r : Regs) (cs : List RegCell) : Regs := cs.foldl Regs.putCell r

/-- The places of an elementwise result, one group of eight for each beat. -/
def groupKeys (key : Nat → CellKey) (base beats : Nat) : List (List CellKey) :=
  (List.range beats).map (fun g => (List.range 8).map (fun j => key (base + 8 * g + j)))

/-- The places of a result that is written in the final step only. -/
def finalKeys (busy : Nat) (keys : List CellKey) : List (List CellKey) :=
  List.replicate (busy - 1) [] ++ [keys]

/-- Note an operation that is in flight after its issue beat. -/
def flight (before after : State) (busy lat each : Nat) (keys : List (List CellKey)) (mem : List (List (Nat × Byte × Byte))) : Option Fly :=
  let c := before.core
  let d := after.core
  if busy ≤ 1 then none
  else some { id := c.beats, row := c.pos.row, fp := c.src.fpctl, beat := c.beats, busy := busy, each := each, flagAt := c.beats + lat,
              interval := c.interval, old := keys.map (fun g => g.map c.regs.cell), new := keys.map (fun g => g.map d.regs.cell), mem := mem
              clearsT := c.badTile.filter (fun u => !(d.badTile.contains u)), clearsS := c.badScratch.filter (fun u => !(d.badScratch.contains u)) }

/-- Beats that an operation has completed. -/
def Fly.steps (f : Fly) (beats : Nat) : Nat := match f.kept with | some n => n | none => beats - f.beat + f.extra
/-- Whether beats of an operation are outstanding. -/
def Fly.active (f : Fly) (beats : Nat) : Bool := decide (f.steps beats < f.busy)

/-- Beats up to the last element group of an operation; DESIGN CHOICE (log 50): one that writes only in its final step has its
last group at the end of its busy period (R154). -/
def Fly.groups (f : Fly) : Nat := if f.each = 0 then f.busy else (f.each + 7) / 8
/-- An operation with a number has element groups outstanding. -/
def outstandingFly (id beats : Nat) (f : Option Fly) : Bool :=
  match f with | none => false | some x => x.id == id && decide (x.steps beats < x.groups)
/-- A mesh entry whose last element group has issued in a tick may arrive 4 ticks later (R154). -/
def MeshEntry.settle (c : Core) (tick : Nat) (e : MeshEntry) : MeshEntry :=
  if e.due.isNone && !(outstandingFly e.id c.beats c.vfly || outstandingFly e.id c.beats c.vkept) then { e with due := some (tick + 4) } else e
/-- A beat of a core is over. -/
def Core.meshTick (c : Core) (tick : Nat) : Core :=
  if c.meshSend = [] then c else { c with meshSend := c.meshSend.map (fun q => (q.1, q.2.map (MeshEntry.settle c tick))) }

/-- The V operation whose progress `PROGV` shows: the one in flight, or the one that a trap stopped. -/
def Core.shownV (c : Core) : Option Fly :=
  match c.vfly with
  | some f => if f.active c.beats then some f else c.vkept
  | none => c.vkept
/-- `PROGV` (R156). -/
def Core.progv (c : Core) : Word :=
  match c.shownV with
  | none => 0
  | some f =>
    let n := f.steps c.beats
    BitVec.ofNat 64 (2 ^ 63 + f.row * 2 ^ 32 + f.fp.toNat * 2 ^ 24 + n * 2 ^ 8 + min (8 * n) f.each)

/-- The V instruction in hand ends: entries read are removed, flags are on their way, and its later beats are noted. -/
def State.vEnd (before after : State) (reads : List Reg) (lat : Nat) (fl : Flags) (fly : Option Fly) : State :=
  after.onCore (fun c => { (c.popDirs (before.dirs reads)).addFlags lat fl with vfly := fly.map (fun f => { f with flags := fl }) })

/-- A V instruction: `SPBOUND` for a direction that leads nowhere, else its effect (R155). -/
def vGuard (s : State) (rs : List Reg) (act : State) : Out :=
  if s.badDir rs then .next (s.raise cSPBOUND 1 0 0) else .next act

end Sys2Proof.Machine
end

