-- ==== Sys2Proof/Machine/Tile.lean ====
section
/-! DEFINITION. The T slot: tile registers and shapes, loads and stores, windows, zero, transpose and row moves, `TMMA` and its
hand-over, and the accumulator sets of the ternary array (R176 to R192, R251, R266, R267). -/

namespace Sys2Proof.Machine

/-! ### Tiles and shapes (R176, R177) -/

/-- A shape as sampled. -/
structure Shape where
  code : Nat
  cols : Nat
  rows : Nat
  wm2 : Nat
  deriving DecidableEq, Repr

/-- The shape that a value of `TSHAPEn` gives: columns and rows counted from 1. -/
def shapeOf (v : BitVec 23) : Shape :=
  ⟨(v.extractLsb' 16 2).toNat, (v.extractLsb' 8 7).toNat + 1, (v.extractLsb' 0 6).toNat + 1, (v.extractLsb' 20 3).toNat⟩
/-- The shape of a tile as the row in hand samples it; 64 rows of 32 words at reset. -/
def Core.shape (c : Core) (t : Reg3) : Shape := shapeOf (SMap.get 0x21F3F#23 c.src.tshape t.toNat)
/-- Bytes of an element. -/
def Shape.z (h : Shape) : Nat := match h.code with | 1 => 2 | 2 => 4 | _ => 1
/-- A legal shape (R177). -/
def Shape.legal (h : Shape) : Bool := decide (h.cols * h.z * 8 ≤ 1024) && (decide (h.code ≠ 3) || decide (h.wm2 ≤ 6))
/-- Natural row size (R184). -/
def Shape.u (h : Shape) : Nat := if h.code = 3 then 4 + (h.cols + 3) / 4 * 4 else h.cols * h.z
/-- Alignment of a row in scratchpad. -/
def Shape.align (h : Shape) : Nat := if h.code = 3 then 4 else h.z

/-- The first `n` bytes of a row of a tile, as the row in hand reads them. -/
def Core.tileRow (c : Core) (t : Reg3) (r n : Nat) : List Byte := SMap.getList 0 c.src.t (t.toNat * 8192 + 128 * r) n
/-- Exponent byte of a row. -/
def Core.tileExp (c : Core) (t : Reg3) (r : Nat) : Byte := SMap.get 0 c.src.texp (t.toNat * 64 + r)
/-- Write a whole row of a tile; its errors are cleared (R180). -/
def Core.wrTileRow (c : Core) (t : Reg3) (r : Nat) (bs : List Byte) : Core :=
  let base := t.toNat * 8192 + 128 * r
  { c with
    regs := { c.regs with t := SMap.setList 0 c.regs.t base (bs ++ List.replicate (128 - bs.length) 0) }
    badTile := c.badTile.filter (fun u => decide (u / 16 ≠ base / 128)) }
/-- Write an exponent byte. -/
def Core.wrTileExp (c : Core) (t : Reg3) (r : Nat) (e : Byte) : Core :=
  { c with regs := { c.regs with texp := SMap.set 0 c.regs.texp (t.toNat * 64 + r) e } }
/-- Whether the first `n` bytes of a row of a tile hold an uncorrectable unit (R180). -/
def Core.tileRowBad (c : Core) (t : Reg3) (r n : Nat) : Bool :=
  c.badTile.any (fun u => u / 16 == t.toNat * 64 + r && decide (u % 16 * 8 < n))
/-- Whether the unit of the exponent of a row is uncorrectable. -/
def Core.tileExpBad (c : Core) (t : Reg3) (r : Nat) : Bool := c.badTile.contains (8192 + t.toNat * 8 + r / 8)

/-- A fault of the T slot. -/
def State.raiseT (s : State) (code : Byte) (elem addr : Nat) : State := s.raise code 2 (BitVec.ofNat 64 elem) (BitVec.ofNat 64 addr)
/-- `SPBOUND` at issue, nothing written (R177). -/
def tBound (s : State) : Out := .next (s.raiseT cSPBOUND 0 0)

/-- A T operation notes its flight: its rows begin at 256 bytes a beat (R183). -/
def State.tEnd (after : State) (lat : Nat) (fl : Flags) (fly : Option Fly) : State :=
  after.onCore (fun c => { c.addFlags lat fl with tfly := fly.map (fun f => { f with flags := fl }) })

/-- The groups of a T operation of `rows` rows of `u` bytes: row r belongs to the beat in which it begins. -/
def rowGroups {α : Type} (busy u rows : Nat) (f : Nat → List α) : List (List α) :=
  (List.range busy).map (fun b => ((List.range rows).filter (fun r => r * u / 256 == b)).flatMap f)

/-- The places of a row of a tile and of its exponent. -/
def tileKeys (t : Reg3) (r : Nat) : List CellKey :=
  CellKey.te (t.toNat * 64 + r) :: (List.range 128).map (fun i => CellKey.t (t.toNat * 8192 + 128 * r + i))

/-- Beats of a transfer of `n` bytes (R117). -/
def tBusy (n : Nat) : Nat := (n + 255) / 256

/-! ### Loads and stores (R184) -/

/-- Address of row r. -/
def tileAddr (s : State) (a b : Reg) (u r : Nat) : Nat :=
  let st := s.core.rdS b
  (s.core.rdS a + BitVec.ofNat 64 r * (if st = 0 then BitVec.ofNat 64 u else st)).toNat

/-- Row r of a `TLD` from its bytes: the exponent where it changes, the row, and the flags. -/
def tileRowOf (h : Shape) (bs : List Byte) : Option Byte × List Byte × Flags :=
  if h.code < 3 then (none, bs, 0)
  else
    let hd := bfpHeader (BitVec.ofNat 32 (leNat (bs.take 4)))
    if hd.bad || decide (hd.length ≠ h.cols) || decide (hd.wm2 ≠ h.wm2) then (some 0xFF, [], fBFPHDR)
    else (some (BitVec.ofNat 8 hd.e), (bs.drop 4).take h.cols, 0)

/-- The bytes of row r that a `TST` writes. -/
def tileBytes (c : Core) (t : Reg3) (h : Shape) (r : Nat) : List Byte :=
  if h.code < 3 then c.tileRow t r h.u
  else
    let e := (c.tileExp t r).toNat
    leBytes 4 (e * 2 ^ 24 + h.cols * 2 ^ 8 + h.wm2 * 2 ^ 5 + (if r + 1 = h.rows then 1 else 0)) ++ c.tileRow t r h.cols ++
      List.replicate (h.u - 4 - h.cols) 0

/-- The parts of a load that rows make, by beat. -/
def rowParts (busy u rows : Nat) (l : List (Nat × LoadPart)) : List (List LoadPart) :=
  rowGroups busy u rows (fun r => (l.filter (fun e => e.1 == r)).map (fun e => e.2))
/-- The areas of bytes that parts of a load read. -/
def partAreas (l : List (Nat × LoadPart)) : List (Nat × Nat) := l.map (fun e => (e.2.addr, e.2.bytes.length))

/-- Load rows from `r` on: the state, the first row that is not complete, the flags, and what each row reads. A header's exponent is written
to part of a unit, which must not be uncorrectable (R180). -/
def loadRows (t : Reg3) (h : Shape) (addr : Nat → Nat) : Nat → Nat → State → State × Nat × Flags × List (Nat × LoadPart)
  | 0, r, s => (s, r, 0, [])
  | n + 1, r, s =>
    match spRead s 2 r (addr r) h.u h.align with
    | .stop s1 => (s1, r, 0, [])
    | .ok s1 v =>
      if h.code = 3 ∧ s.core.tileExpBad t r = true then (s.raiseT cECC r 0, r, 0, [])
      else
        let bs := leBytes h.u v
        let x := tileRowOf h bs
        let s2 := s1.onCore (fun c => (match x.1 with | none => c | some e => c.wrTileExp t r e).wrTileRow t r x.2.1)
        let q := loadRows t h addr n (r + 1) s2
        (q.1, q.2.1, x.2.2 ||| q.2.2.1, (r, { addr := addr r, bytes := bs, dest := .tile (t.toNat * 64 + r) h.code h.cols h.wm2 }) :: q.2.2.2)

def execTld (d : Reg3) (a b : Reg) (s : State) : Out :=
  let h := s.core.shape d
  if !h.legal then tBound s
  else
    let q := loadRows d h (tileAddr s a b h.u) h.rows 0 s
    let s1 := q.1.touchAll .load 2 (partAreas q.2.2.2)
    let busy := tBusy (h.rows * h.u)
    let fly := if q.2.1 < h.rows then none
      else (flight s s1 busy (busy + 4) h.rows (rowGroups busy h.u h.rows (tileKeys d)) []).map
        (fun f => { f with op := 1, unit := h.u, loads := rowParts busy h.u h.rows q.2.2.2 })
    .next (s1.tEnd (busy + 4) q.2.2.1 fly)

/-- What stores of rows write: for each row its address, and for each byte what was there and what it becomes. -/
abbrev RowStores := List (Nat × List (Nat × Byte × Byte))
/-- The bytes of a row as a store of it at `x` writes them. -/
def storedAt (c : Core) (r x : Nat) (bs : List Byte) : Nat × List (Nat × Byte × Byte) :=
  (r, (List.range bs.length).map (fun j => (x + j, Memory.byte c.scratch (x + j), bs.getD j 0)))
/-- The areas of bytes that stores of rows write. -/
def RowStores.areas (l : RowStores) : List (Nat × Nat) := l.map (fun e => ((e.2.headD (0, 0, 0)).1, e.2.length))
/-- The bytes that rows write, by beat. -/
def RowStores.groups (l : RowStores) (busy u rows : Nat) : List (List (Nat × Byte × Byte)) :=
  rowGroups busy u rows (fun r => (l.filter (fun e => e.1 == r)).flatMap (fun e => e.2))
/-- Row r of a tile holds an uncorrectable unit that a `TST` reads. -/
def Core.tstBad (c : Core) (t : Reg3) (h : Shape) (r : Nat) : Bool :=
  c.tileRowBad t r (if h.code = 3 then h.cols else h.u) || (decide (h.code = 3) && c.tileExpBad t r)

/-- Store rows from `r` on: the state, the first row that is not complete, and what each row writes. -/
def storeRows (t : Reg3) (h : Shape) (addr : Nat → Nat) : Nat → Nat → State → State × Nat × RowStores
  | 0, r, s => (s, r, [])
  | n + 1, r, s =>
    let bs := tileBytes s.core t h r
    let x := addr r
    if (x % h.align == 0 && decide (x + bs.length ≤ s.spEnd s.cur)) && s.core.tstBad t h r then (s.raiseT cECC r 0, r, [])
    else
      match spWrite s 2 r x h.align bs with
      | .stop s1 => (s1, r, [])
      | .ok s1 _ =>
        let q := storeRows t h addr n (r + 1) s1
        (q.1, q.2.1, storedAt s.core r x bs :: q.2.2)

def execTst (d : Reg3) (a b : Reg) (s : State) : Out :=
  let h := s.core.shape d
  if !h.legal then tBound s
  else
    let q := storeRows d h (tileAddr s a b h.u) h.rows 0 s
    let s1 := q.1.touchAll .store 2 (RowStores.areas q.2.2)
    let busy := tBusy (h.rows * h.u)
    let fly := if q.2.1 < h.rows then none
      else (flight s s1 busy 0 h.rows [] (RowStores.groups q.2.2 busy h.u h.rows)).map (fun f => { f with op := 2, unit := h.u })
    .next (s1.tEnd 0 0 fly)

/-! ### Convolution windows (R185, R186) -/

/-- A window descriptor. -/
structure Window where
  ibase : Nat
  h : Nat
  w : Nat
  batch : Nat
  oh : Nat
  ow : Nat
  pstride : Nat
  c0 : Nat
  fy : Nat
  fx : Nat
  sy : Nat
  sx : Nat
  py : Nat
  px : Nat
  pad : Nat
  zeros : Bool
  deriving DecidableEq, Repr

/-- Reads a window descriptor from the number that its 64 bytes hold. -/
def windowOf (v : Nat) : Window :=
  let f := fun (lo n : Nat) => natBits v (8 * lo) (8 * n)
  { ibase := f 0x00 4, h := f 0x04 2, w := f 0x06 2, batch := f 0x08 2, oh := f 0x0A 2, ow := f 0x0C 2, pstride := f 0x10 4,
    c0 := f 0x14 2, fy := f 0x18 1, fx := f 0x19 1, sy := f 0x1A 1, sx := f 0x1B 1, py := f 0x1C 1, px := f 0x1D 1,
    pad := f 0x20 4, zeros := f 0x0E 2 == 0 && f 0x16 2 == 0 && f 0x1E 2 == 0 && f 0x24 28 == 0 }

/-- The limits of a descriptor. -/
def Window.ok (w : Window) (z : Nat) : Bool :=
  w.zeros && decide (1 ≤ w.sx) && decide (1 ≤ w.sy) && decide (1 ≤ w.oh) && decide (1 ≤ w.ow) && decide (1 ≤ w.batch) &&
    w.pstride % z == 0

/-- Where row p of a window lies: none for padding, and whether it is beyond the batch. -/
def Window.pixel (w : Window) (p : Nat) : Option Nat × Bool :=
  let b := p / (w.oh * w.ow)
  let oy := p % (w.oh * w.ow) / w.ow
  let ox := p % w.ow
  let iy : Int := (oy * w.sy + w.fy : Nat) - (w.py : Int)
  let ix : Int := (ox * w.sx + w.fx : Nat) - (w.px : Int)
  if w.batch ≤ b then (none, true)
  else if iy < 0 ∨ (w.h : Int) ≤ iy ∨ ix < 0 ∨ (w.w : Int) ≤ ix then (none, false)
  else (some (w.ibase + ((b * w.h + iy.toNat) * w.w + ix.toNat) * w.pstride), false)

/-- Load window rows from `r` on. -/
def windowRows (t : Reg3) (h : Shape) (w : Window) (p0 : Nat) : Nat → Nat → State → State × Nat × Flags × List (Nat × LoadPart)
  | 0, r, s => (s, r, 0, [])
  | n + 1, r, s =>
    let p := w.pixel (p0 + r)
    match p.1 with
    | none =>
      let row := (List.replicate h.cols (leBytes h.z w.pad)).flatten
      let q := windowRows t h w p0 n (r + 1) (s.onCore (fun c => c.wrTileRow t r row))
      (q.1, q.2.1, (if p.2 then fWBATCH else 0) ||| q.2.2.1, q.2.2.2)
    | some x =>
      match spRead s 2 r (x + w.c0 * h.z) h.u h.z with
      | .stop s1 => (s1, r, 0, [])
      | .ok s1 v =>
        let bs := leBytes h.u v
        let q := windowRows t h w p0 n (r + 1) (s1.onCore (fun c => c.wrTileRow t r bs))
        (q.1, q.2.1, q.2.2.1, (r, { addr := x + w.c0 * h.z, bytes := bs, dest := .window (t.toNat * 64 + r) }) :: q.2.2.2)

def execTwin (d : Reg3) (a b : Reg) (s : State) : Out :=
  let h := s.core.shape d
  if !h.legal || decide (h.code = 3) then tBound s
  else
    let x := (s.core.rdS a).toNat
    match spRead s 2 0 x 64 64 with
    | .stop s1 => .next s1
    | .ok s0 v =>
      let w := windowOf v
      if !(w.ok h.z) then tBound s
      else
        let q := windowRows d h w (s.core.rdS b).toNat h.rows 0 s0
        let s1 := q.1.touchAll .load 2 ((x, 64) :: partAreas q.2.2.2)
        let busy := tBusy (h.rows * h.u)
        let fly := if q.2.1 < h.rows then none
          else (flight s s1 busy (busy + 4) h.rows (rowGroups busy h.u h.rows (tileKeys d)) []).map
            (fun f => { f with op := 3, unit := h.u, loads := rowParts busy h.u h.rows q.2.2.2 })
        .next (s1.tEnd (busy + 4) q.2.2.1 fly)

/-! ### Zero, transpose, row moves (R187 to R189) -/

def execTzero (d : Reg3) (s : State) : Out :=
  .next (s.onCore (fun c => { c with
    regs := { c.regs with
      t := SMap.keep (fun k => k / 8192 != d.toNat) c.regs.t
      texp := SMap.keep (fun k => k / 64 != d.toNat) c.regs.texp }
    badTile := c.badTile.filter (fun u => decide (u / 1024 ≠ d.toNat ∧ u / 8 ≠ 1024 + d.toNat)) }))

/-- Write rows from `r` on. -/
def putRows (t : Reg3) (f : Nat → List Byte) : Nat → Nat → Core → Core
  | 0, _, c => c
  | n + 1, r, c => putRows t f n (r + 1) (c.wrTileRow t r (f r))

def execTtrn (d a : Reg3) (s : State) : Out :=
  let ha := s.core.shape a
  let hd := s.core.shape d
  if !(ha.legal && hd.legal && decide (ha.code < 3) && decide (hd.code = ha.code) && decide (hd.rows = ha.cols) &&
      decide (hd.cols = ha.rows) && (decide (d ≠ a) || decide (ha.rows = ha.cols))) then tBound s
  else if (List.range ha.rows).any (fun r => s.core.tileRowBad a r ha.u) then .next (s.raiseT cECC 0 0)
  else
    let z := ha.z
    let row := fun (c : Nat) => (List.range ha.rows).flatMap (fun r => ((s.core.tileRow a r 128).drop (c * z)).take z)
    let s1 := s.onCore (putRows d row ha.cols 0)
    let keys := finalKeys 8 ((List.range ha.cols).flatMap (tileKeys d))
    .next (s1.tEnd 12 0 ((flight s s1 8 12 0 keys []).map (fun f => { f with op := 6 })))

def execTrowv (d : Reg) (a : Reg3) (b : Reg) (s : State) : Out :=
  let r := (s.core.rdS b).toNat
  if 64 ≤ r then tBound s
  else if s.core.tileRowBad a r 128 then .next (s.raiseT cECC 0 0)
  else
    let row := s.core.tileRow a r 128
    .next (s.onCore (fun c => { c with regs := { c.regs with
      v := putElems 0 c.regs.v (d.toNat * 64) (fun _ => true) (fun i => BitVec.ofNat 32 (leNat ((row.drop (4 * i)).take 4))) 32 } }))

def execTvrow (d : Reg3) (a b : Reg) (s : State) : Out :=
  let r := (s.core.rdS b).toNat
  if 64 ≤ r then tBound s
  else .next (s.onCore (fun c => c.wrTileRow d r ((List.range 32).flatMap (fun i => leBytes 4 (s.core.rdV a i).toNat))))

/-! ### Matrix multiply-accumulate (R190 to R192) -/

/-- Element code and columns that a format needs (R190). -/
def mmaShape : Nat → Nat × Nat
  | 0 => (1, 32)
  | 1 => (3, 128)
  | _ => (0, 64)

/-- Row r of an operand tile of a `TMMA` holds an uncorrectable unit that the product reads (R180). -/
def Core.mmaBad (c : Core) (kind : Nat) (t : Reg3) (r : Nat) : Bool :=
  c.tileRowBad t r (if kind = 1 then 128 else 64) || (decide (kind = 1) && c.tileExpBad t r)

/-- `TMMA`: checks at issue, operands latched, and the work begun. -/
def tmma (s : State) (kind : Nat) (write : Bool) (d : Reg) (a b : Reg3) : Out :=
  let ha := s.core.shape a
  let hb := s.core.shape b
  let ok := fun (h : Shape) => h.legal && decide (h.code = (mmaShape kind).1) && decide (h.cols = (mmaShape kind).2) && decide (16 ≤ h.rows)
  let x := (s.core.rdS d).toNat
  if !(ok ha && ok hb) then tBound s
  else if !(x % 64 == 0 && decide (x + 1024 ≤ s.spEnd s.cur)) then .next (s.raiseT cSPBOUND 0 x)
  else if (List.range 16).any (fun r => s.core.mmaBad kind a r || s.core.mmaBad kind b r) then .next (s.raiseT cECC 0 0)
  else
    let busy := if kind = 1 then max ha.wm2 hb.wm2 + 2 else 4
    let rows := fun (t : Reg3) => (List.range 16).flatMap (fun r => s.core.tileRow t r 128)
    let exps := fun (t : Reg3) => (List.range 16).map (s.core.tileExp t)
    let job : TmmaJob := { row := s.core.pos.row, beat := s.core.beats, kind := kind, write := write, addr := x, a := rows a, b := rows b, ea := exps a,
                           eb := exps b, wa := ha.wm2, wb := hb.wm2, fp := s.core.src.fpctl, busy := busy, due := some (s.tick + busy) }
    .next ((s.onCore (fun c => { c with tmma := c.tmma ++ [job] })).touch .store 2 x 1024)

def execTmmaBf16 (d : Reg) (a b : Reg3) (s : State) : Out := tmma s 0 false d a b
def execTmmaBfp (d : Reg) (a b : Reg3) (s : State) : Out := tmma s 1 false d a b
def execTmmaI8 (d : Reg) (a b : Reg3) (s : State) : Out := tmma s 2 false d a b
def execTmmaBf16W (d : Reg) (a b : Reg3) (s : State) : Out := tmma s 0 true d a b
def execTmmaBfpW (d : Reg) (a b : Reg3) (s : State) : Out := tmma s 1 true d a b
def execTmmaI8W (d : Reg) (a b : Reg3) (s : State) : Out := tmma s 2 true d a b

/-- Element k of row i of a latched operand: BF16 bits, an INT8 value or a mantissa, as an integer. -/
def TmmaJob.elem (j : TmmaJob) (tile : List Byte) (wm2 i k : Nat) : Int :=
  if j.kind = 0 then (leNat ((tile.drop (128 * i + 2 * k)).take 2) : Nat)
  else if j.kind = 1 then bfpMantissa wm2 (tile.getD (128 * i + k) 0)
  else signedNat 8 (tile.getD (128 * i + k) 0).toNat

/-- The sum of products of integers. -/
def TmmaJob.dot (j : TmmaJob) (i n : Nat) (c : Nat) : Int :=
  (List.range n).foldl (fun acc k => acc + j.elem j.a j.wa i k * j.elem j.b j.wb c k) 0

/-- The product p of row i and column c (R49), with its flags. -/
def TmmaJob.product (j : TmmaJob) (i c : Nat) : Nat × Flags :=
  let md := fpModeOf j.fp
  let n := (mmaShape j.kind).2
  if j.kind = 0 then
    let bf := fun (t : List Byte) (r k : Nat) => unpack bf16 md.ftz (leNat ((t.drop (128 * r + 2 * k)).take 2))
    let ps := (List.range n).map (fun k => mulV (bf j.a i k) (bf j.b c k))
    match ps with
    | [] => (0, 0)
    | p :: r => roundV f32 md (sumV md.rm p r)
  else if j.kind = 1 then
    let ea := (j.ea.getD i 0).toNat
    let eb := (j.eb.getD c 0).toNat
    if ea = 0xFF ∨ eb = 0xFF then (f32.nan, 0)
    else
      let v := j.dot i n c
      roundFin f32 md (decide (v < 0)) v.natAbs ((ea : Int) + eb - 254) false
  else ((BitVec.ofInt 32 (j.dot i n c)).toNat, 0)

/-- The new value of C at (i, c) from the old (R49). -/
def TmmaJob.newC (j : TmmaJob) (i c old : Nat) : Nat × Flags :=
  let p := j.product i c
  if j.write then p
  else if j.kind = 2 then ((old + p.1) % 2 ^ 32, 0)
  else
    let r := fpAdd f32 (fpModeOf j.fp) old p.1
    (r.1, p.2 ||| r.2)

/-- The words of row i of C over a scratchpad. -/
def TmmaJob.rowOn (j : TmmaJob) (m : Memory) (i : Nat) : List (Nat × Flags) :=
  (List.range 16).map (fun n => j.newC i n (Memory.load m (j.addr + 64 * i + 4 * n) 4))
/-- Row i of C is applied at its bank, as one step on each word (R191); an uncorrectable word stops it (R180). -/
def applyRow (k : Nat) (j : TmmaJob) (s : State) (i : Nat) : State × Flags :=
  let c := s.coreAt k
  let x := j.addr + 64 * i
  if !j.write && badIn c.badScratch x 64 then
    (s.raiseAt k { code := cECC, row := j.row, elem := 0, slot := 5, addr := BitVec.ofNat 64 x }, 0)
  else
    let ws := j.rowOn c.scratch i
    (s.putSinceAt k j.beat x (ws.flatMap (fun w => leBytes 4 w.1)), ws.foldl (fun a w => a ||| w.2) 0)

/-- What row i of C asks of its bank. -/
def TmmaJob.ask (j : TmmaJob) (i : Nat) : Ask := ⟨[(j.addr + 64 * i, 64)], !j.write⟩
/-- A row has been applied. -/
def TmmaJob.landed (j : TmmaJob) (i : Nat) : Bool := decide (SMap.get 0 j.rows i ≠ 0)
/-- Every row has been applied. -/
def TmmaJob.complete (j : TmmaJob) : Bool := (List.range 16).all j.landed
/-- Row i of handed-over work is requested in a tick (R191). -/
def TmmaJob.requests (j : TmmaJob) (tick i : Nat) : Bool := match j.due with | none => false | some d => decide (d + 1 + i / 4 ≤ tick)

/-- The row of work of a core, in a tick: it is applied where its bank grants it; the banks that an earlier row waits for are kept for
that row (R179, R191). -/
def State.accRow (k tick : Nat) (q : State × List Nat) (e : Nat × Nat) : State × List Nat :=
  match (q.1.coreAt k).tmma[e.1]? with
  | none => q
  | some j =>
    if !j.handed || j.landed e.2 then q
    else
      let b := (j.addr / 64 + e.2) % 32
      if !(j.requests tick e.2) || q.2.contains b || !((q.1.coreAt k).bankFree tick b) then (q.1, b :: q.2)
      else
        let r := applyRow k j q.1 e.2
        (r.1.onCoreAt k (fun c => { c.takeBanks tick [j.ask e.2] with
          tmma := c.tmma.set e.1 { j with rows := SMap.set 0 j.rows e.2 (tick + 2), flags := j.flags ||| r.2 } }), q.2)

/-- A tick of the handed-over work of a core: the rows of the oldest first. -/
def State.accumulate (s : State) (k : Nat) : State :=
  let c := s.coreAt k
  if c.tmma.any (fun j => j.handed && !j.complete) then
    (((List.range c.tmma.length).flatMap (fun n => (List.range 16).map (fun i => (n, i)))).foldl
      (State.accRow k (s.dieAt (keyDie k)).tick) (s, [])).1
  else s

/-- `TMMA` work that has not handed over, oldest first: its place in the list and the work. -/
def Core.nextTmma (c : Core) : Option (Nat × TmmaJob) :=
  match c.tmma.findIdx? (fun j => !j.handed && j.due.isSome) with
  | none => none
  | some n => (c.tmma[n]?).map (fun j => (n, j))

/-- A `TMMA` comes to the end of a run: a run that the check refuses is made again after busy + 1 ticks, a second failure raises
`TILECHK`, and else the rows are handed to the bank adders (R191, R192). -/
def execTmmaHandover (die : DieNo) (core : CoreNo) (s : State) : Out :=
  let k := coreKey die core
  let c := s.coreAt k
  match c.nextTmma with
  | none => .refused .notEnabled
  | some (n, j) =>
    match j.due with
    | none => .refused .notEnabled
    | some due =>
      if (s.dieAt die.toNat).tick < due then .refused .notEnabled
      else
        match c.tileUpset with
        | some (m, fi, fj) =>
          if j.runs < m then
            if j.runs = 0 then
              .next (s.setCoreAt k { c with tmma := c.tmma.set n { j with runs := 1, due := some (due + j.busy + 1) }, held := 9 })
            else
              .next ((s.setCoreAt k { c with tmma := c.tmma.eraseIdx n, tileUpset := none }).raiseAt k
                { code := cTILECHK, row := j.row, elem := BitVec.ofNat 64 (16 * fi + fj), slot := 2, addr := 0 })
          else
            .next (s.setCoreAt k { c with tmma := c.tmma.set n { j with handed := true }, tileUpset := none })
        | none => .next (s.setCoreAt k { c with tmma := c.tmma.set n { j with handed := true } })

/-- The tick from which every row of work that has been applied can be read (R191). -/
def TmmaJob.lastTick (j : TmmaJob) : Nat := (j.rows.map (fun r => r.2)).foldl max 0
/-- The work of the unit is over: every row can be read. -/
def TmmaJob.over (j : TmmaJob) (tick : Nat) : Bool := j.handed && j.complete && decide (j.lastTick ≤ tick)
/-- An access of `n` bytes at `x` overlaps a row of C that has not been applied (R179). -/
def TmmaJob.blocks (j : TmmaJob) (tick x n : Nat) : Bool :=
  (List.range 16).any (fun i => overlaps (j.addr + 64 * i, 64) x n &&
    j.due.isSome && (!j.landed i || decide (tick < SMap.get 0 j.rows i)))
/-- The store-to-load delay of an access (R119, R129, R179). -/
def spWaits (s : State) (x n : Nat) : Bool := s.core.tmma.any (fun j => j.blocks s.tick x n) || s.core.storePending s.tick x n
/-- A checksum rerun stalls the core (R192). -/
def rerunWaits (s : State) : Bool := s.core.tmma.any (fun j => decide (j.runs = 1) && !j.handed)

/-- Flags that a tick brings from passes and from `TMMA` work (R39). -/
def Core.flagsArrive (c : Core) (tick : Nat) (f : Flags) : Core :=
  if f = 0 then c
  else { c with fpflags := c.fpflags ||| f, arrived := (tick, if c.arrived.1 = tick then c.arrived.2 ||| f else f) }

/-- Work whose last row has been applied leaves the unit, and its flags arrive (R190, R191). -/
def Core.settleTmma (c : Core) (tick : Nat) : Core :=
  let out := c.tmma.filter (fun j => j.over tick)
  out.foldl (fun c j => c.flagsArrive j.lastTick j.flags) { c with tmma := c.tmma.filter (fun j => !(j.over tick)) }

/-- The T operation whose progress `PROGT` shows, besides a `TMMA`. -/
def Core.shownT (c : Core) : Option Fly :=
  match c.tfly with
  | some f => if f.active c.beats then some f else c.tkept
  | none => c.tkept
/-- `PROGT` (R182). -/
def Core.progt (c : Core) : Word :=
  let form := fun (row op fp done : Nat) => BitVec.ofNat 64 (2 ^ 63 + row * 2 ^ 32 + op * 2 ^ 24 + fp * 2 ^ 8 + done)
  match c.tmma.find? (fun j => !j.handed) with
  | some j => form j.row 5 j.fp.toNat 0
  | none =>
    match c.shownT with
    | none => 0
    | some f => form f.row f.op f.fp.toNat (if f.unit = 0 then 0 else min f.each ((f.steps c.beats * 256 + f.unit - 1) / f.unit))

/-! ### The accumulator sets (R251, R266, R267) -/

/-- Context tag of a set. -/
def Regs.xtag (r : Regs) (set : Nat) : Byte := if set = 0 then r.xtag0 else r.xtag1
/-- Give a set a tag. -/
def Regs.setXtag (r : Regs) (set : Nat) (t : Byte) : Regs := if set = 0 then { r with xtag0 := t } else { r with xtag1 := t }
/-- A set zeroed. -/
def Regs.zeroSet (r : Regs) (set : Nat) : Regs := { r with x := SMap.keep (fun k => k / 2048 != set) r.x }
/-- The set that is active as the row in hand issues. -/
def Core.activeSet (c : Core) : Nat := c.src.xsel.toNat
/-- The tag that the core's context gives a set; an anchor holds no context (R83). -/
def State.ctxTag (s : State) : Byte := if s.sup then 0 else s.core.ctx

/-- Whether a pass is a `PMAT` bound to a set. -/
def Pass.boundTo (p : Pass) (set : Nat) : Bool := (decide (p.kind = .matWrite) || decide (p.kind = .matAccum)) && decide (p.set = set)
/-- A `PMAT` bound to the active set is open or closing, or, where `parked` says so, parked (R267). -/
def setBusy (s : State) (parked : Bool) : Bool :=
  s.core.passes.any (fun e => e.2.boundTo s.core.activeSet &&
    (decide (e.2.st = .riding) || decide (e.2.st = .closing) || (parked && decide (e.2.st = .parked))))

def execXclr (s : State) : Out :=
  if setBusy s (!s.sup) then tBound s
  else .next (s.onCore (fun c => { c with regs := (c.regs.zeroSet c.activeSet).setXtag c.activeSet s.ctxTag }))
def execXswap (s : State) : Out := .next (s.onCore (fun c => { c with regs := { c.regs with xsel := ~~~c.src.xsel } }))

/-- The words of a lane of a set, column by column. -/
def Regs.lane (r : Regs) (set lane : Nat) : List W32 := (List.range 128).map (fun j => SMap.get 0 r.x (set * 2048 + j * 16 + lane))
/-- Write a lane of a set from a list of words. -/
def Regs.putLane (r : Regs) (set lane : Nat) (ws : List W32) : Regs :=
  { r with x := SMap.setAll 0 r.x ((List.range 128).map (fun j => (set * 2048 + j * 16 + lane, ws.getD j 0))) }

/-- Store lanes from `l` on. -/
def saveLanes (f : Nat → List W32) (x : Nat) : Nat → Nat → State → State × Nat × RowStores
  | 0, l, s => (s, l, [])
  | n + 1, l, s =>
    let bs := (f l).flatMap (fun w => leBytes 4 w.toNat)
    match spWrite s 2 l (x + 512 * l) 4 bs with
    | .stop s1 => (s1, l, [])
    | .ok s1 _ =>
      let q := saveLanes f x n (l + 1) s1
      (q.1, q.2.1, storedAt s.core l (x + 512 * l) bs :: q.2.2)

def execXsave (a : Reg) (s : State) : Out :=
  let x := (s.core.rdS a).toNat
  if !(x % 64 == 0 && decide (x + 8192 ≤ s.spEnd s.cur)) then .next (s.raiseT cSPBOUND 0 x)
  else if setBusy s false then tBound s
  else
    let set := s.core.activeSet
    let mine := s.core.src.xtag set == s.ctxTag
    let q := saveLanes (fun l => if mine then s.core.src.lane set l else List.replicate 128 0) x 16 0 s
    let s1 := q.1.touchAll .store 2 (RowStores.areas q.2.2)
    let fly := if q.2.1 < 16 then none
      else (flight s s1 32 0 16 [] (RowStores.groups q.2.2 32 512 16)).map (fun f => { f with op := 0x0A, unit := 512 })
    .next (s1.tEnd 0 0 fly)

/-- The words that bytes hold. -/
def wordsOf (bs : List Byte) : List W32 := (List.range (bs.length / 4)).map (fun j => BitVec.ofNat 32 (leNat ((bs.drop (4 * j)).take 4)))
/-- Load lanes from `l` on. -/
def loadLanes (set x : Nat) : Nat → Nat → State → State × Nat × List (Nat × LoadPart)
  | 0, l, s => (s, l, [])
  | n + 1, l, s =>
    match spRead s 2 l (x + 512 * l) 512 4 with
    | .stop s1 => (s1, l, [])
    | .ok s1 v =>
      let bs := leBytes 512 v
      let q := loadLanes set x n (l + 1) (s1.onCore (fun c => { c with regs := c.regs.putLane set l (wordsOf bs) }))
      (q.1, q.2.1, (l, { addr := x + 512 * l, bytes := bs, dest := .lane set l }) :: q.2.2)

def execXload (a : Reg) (s : State) : Out :=
  let x := (s.core.rdS a).toNat
  if !(x % 64 == 0 && decide (x + 8192 ≤ s.spEnd s.cur)) then .next (s.raiseT cSPBOUND 0 x)
  else if setBusy s (!s.sup) then tBound s
  else
    let set := s.core.activeSet
    let q := loadLanes set x 16 0 s
    let s0 := q.1.touchAll .load 2 (partAreas q.2.2)
    let s1 := if q.2.1 < 16 then s0 else s0.onCore (fun c => { c with regs := c.regs.setXtag set s.ctxTag })
    let keys := rowGroups 32 512 16 (fun l => (List.range 128).map (fun j => CellKey.x (set * 2048 + j * 16 + l)))
    let fly := if q.2.1 < 16 then none
      else (flight s s1 32 32 16 keys []).map (fun f => { f with op := 0x0B, unit := 512, loads := rowParts 32 512 16 q.2.2 })
    .next (s1.tEnd 0 0 fly)

end Sys2Proof.Machine
end

