-- ==== Sys2Proof/Machine/Passes.lean ====
section
/-! DEFINITION. The W slot: pass slots and tags, the checks of a pass row, what each entry names, opening, parking and reopening,
and the short pass instructions (R204 to R206, R217 to R249, R259, R263). -/

namespace Sys2Proof.Machine

/-! ### Slots and tags (R221 to R223, R399) -/

/-- The pass in a slot. -/
def Core.pass (c : Core) (n : Nat) : Pass := SMap.get {} c.passes n
/-- Write a slot. -/
def Core.setPass (c : Core) (n : Nat) (p : Pass) : Core := { c with passes := SMap.set {} c.passes n p }
/-- The pass in a slot of the core at a key. -/
def State.passAt (s : State) (k n : Nat) : Pass := (s.coreAt k).pass n
/-- Write a slot of the core at a key. -/
def State.setPassAt (s : State) (k n : Nat) (p : Pass) : State := s.onCoreAt k (fun c => c.setPass n p)

/-- Tags of a core: 64 for an anchor (R399). -/
def State.tagCount (s : State) (k : Nat) : Nat := if isAnchor k then 64 else (s.coreAt k).tagsMax
/-- Pass slots of a core: 32 for an anchor (R399). -/
def State.slotCount (s : State) (k : Nat) : Nat := if isAnchor k then 32 else (s.coreAt k).passesMax
/-- A word's bits below the number of tags of a core. -/
def State.tagMask (s : State) (k : Nat) (v : Word) : Word := v &&& (BitVec.ofNat 64 (2 ^ s.tagCount k - 1))

/-- The issue of a pass row with a tag (R223). -/
def Core.tagIssue (c : Core) (t : BitVec 6) : Core :=
  { c with tags := c.tags &&& ~~~(1#64 <<< t.toNat), riders := SMap.set 0 c.riders t.toNat (SMap.get 0 c.riders t.toNat + 1) }
/-- A close, or the completion of a refused open (R223). -/
def Core.tagDone (c : Core) (t : BitVec 6) (err : Bool) : Core :=
  let n := SMap.get 0 c.riders t.toNat - 1
  { c with
    riders := SMap.set 0 c.riders t.toNat n
    tagerr := if err then c.tagerr ||| 1#64 <<< t.toNat else c.tagerr
    tags := if n = 0 then c.tags ||| 1#64 <<< t.toNat else c.tags }
/-- A tag counts as set: DONE, or no riders (R247). -/
def Core.tagSet (c : Core) (n : Nat) : Bool := c.tags.getLsbD n || SMap.get 0 c.riders n == 0

/-- Word of a memory. -/
def memW (m : Memory) (a : Nat) : W32 := BitVec.ofNat 32 (Memory.load m a 4)

/-! ### What a pass names (R227, R231 to R242, R255) -/

/-- A run of stored bytes: item, virtual address, length, and its place in scratchpad or host memory. -/
structure Ext where
  k : Nat
  va : Nat
  len : Nat
  place : Nat
  deriving DecidableEq, Repr

/-- The part of a run that lies in one stitch: item, offset in the run, offset in the stitch, length, place of the run. -/
structure Cut where
  k : Nat
  lo : Nat
  pos : Nat
  n : Nat
  place : Nat
  deriving DecidableEq, Repr

/-- The part of a run in the stitch at a virtual address. -/
def Ext.cut (va : Nat) (e : Ext) : List Cut :=
  let lo := max va e.va
  let hi := min (va + 128) (e.va + e.len)
  if lo < hi then [⟨e.k, lo - e.va, lo - va, hi - lo, e.place⟩] else []

/-- The stitches that some runs occupy, by virtual address div 128. -/
def stitchSet (es : List Ext) : SMap Bool :=
  es.foldl (fun m e => if e.len = 0 then m else
    SMap.setList false m (e.va / 128) (List.replicate ((e.va + e.len - 1) / 128 - e.va / 128 + 1) true)) []

/-- A `PSCAN`. -/
def PassKind.isScan : PassKind → Bool
  | .scanSumi | .scanSumf | .scanMin | .scanMax | .scanCount => true
  | _ => false
/-- A `PUPD`. -/
def PassKind.isUpd : PassKind → Bool
  | .updAddi | .updAddf | .updMini | .updMaxi | .updAnd | .updOr | .updXor | .updSwap => true
  | _ => false
/-- A `PUPDO`. -/
def PassKind.isUpdo : PassKind → Bool
  | .updoAddf | .updoAddi => true
  | _ => false
/-- A `PMAT`. -/
def PassKind.isMat : PassKind → Bool
  | .matWrite | .matAccum => true
  | _ => false
/-- The read-side passes (R207). -/
def PassKind.isReader (k : PassKind) : Bool :=
  k.isScan || k.isMat || (match k with | .copy | .gath | .filt | .hostOut => true | _ => false)
/-- The passes that count elements; the others count rows or column blocks. -/
def PassKind.isElem (k : PassKind) : Bool := k.isScan || (match k with | .copy | .filt => true | _ => false)
/-- A pass that needs the value of a stitch it acts on (R210). -/
def PassKind.needsValue (k : PassKind) : Bool :=
  k.isReader || k.isUpd || (match k with | .cmt | .adam => true | _ => false)
/-- The permissions that a pass needs (R214). -/
def PassKind.need (k : PassKind) : Perm := ⟨k.needsValue, !k.isReader⟩

/-- Bytes of a row, or of a column block (R227). -/
def Desc.itemBytes (d : Desc) : Nat := if d.layout = 2 then d.t5blk else d.rb
/-- Offset of a row, or of a column block. -/
def Desc.itemOff (d : Desc) (o : Nat) : Nat := if d.layout = 2 then o * d.t5blk else d.rowOff o
/-- Rows, or column blocks. -/
def Desc.itemCount (d : Desc) : Nat := if d.layout = 2 then d.dim 1 / 128 else d.outer

/-- A word of a pass's source bytes. -/
def Pass.srcNat (p : Pass) (a n : Nat) : Nat := Memory.load p.src a n
/-- Row of item k: its list entry, or counted from A; none for a bad index (R227). -/
def Pass.rowOf (p : Pass) (k : Nat) : Option Nat :=
  if p.idx then (let r := p.srcNat (p.sc + 4 * k) 4; if r < p.desc.outer then some r else none) else some (p.sa + k)
/-- Where the items of a pass lie outside the swept memory. -/
def Pass.placeBase (p : Pass) : Nat := match p.kind with | .hostIn => p.sc | .hostOut => p.sc | _ => p.sd

/-- First K-group covered by a `PMAT` (R253). -/
def Pass.gfirst (p : Pass) : Nat := natBits p.ctl 0 16
/-- Groups covered, G′. -/
def Pass.groups (p : Pass) : Nat :=
  let n := natBits p.ctl 16 16
  if n = 0 then p.desc.dim 0 / 320 - p.gfirst else n
/-- Weight runs of a `PMAT`: the 64 stitches of each block and covered group (R255). -/
def Pass.weightExts (p : Pass) : List Ext :=
  (List.range p.sb).flatMap (fun c => (List.range p.groups).map (fun h =>
    ⟨c * p.groups + h, p.desc.base.toNat + ((p.sa + c) * (p.desc.dim 0 / 5) + 64 * (p.gfirst + h)) * 128, 8192, 0⟩))
/-- Scale runs of a `PMAT`: the BF16 elements of its blocks and groups, by group × 128 + column. -/
def Pass.scaleExts (p : Pass) : List Ext :=
  (List.range p.sb).flatMap (fun c => (List.range p.groups).flatMap (fun h => (List.range 128).map (fun j =>
    ⟨(c * p.groups + h) * 128 + j,
     p.sdesc.base.toNat + p.sdesc.elemOff ((p.sa + c) * 128 + j + p.desc.dim 1 * (p.gfirst + h)), 2, 0⟩)))

/-- The runs that a pass names. -/
def Pass.exts (p : Pass) : List Ext :=
  if p.kind = .zeroPhys then []
  else if p.kind.isMat then p.weightExts ++ p.scaleExts
  else if p.kind.isElem then
    (List.range p.sb).map (fun k =>
      ⟨k, p.desc.base.toNat + p.desc.elemOff (p.sa + k), p.desc.esize, p.sd + k * p.desc.esize⟩)
  else
    (List.range p.sb).filterMap (fun k => (p.rowOf k).map (fun o =>
      ⟨k, p.desc.base.toNat + p.desc.itemOff o, p.desc.itemBytes, p.placeBase + k * p.desc.itemBytes⟩))

/-- The range stitches in the order of their numbers: ascending, and for a `PMAT` weights before scales (R217, R255). -/
def Pass.stitches (p : Pass) : List Nat :=
  if p.kind.isMat then (stitchSet p.weightExts).map Prod.fst ++ (stitchSet p.scaleExts).map Prod.fst
  else (stitchSet p.exts).map Prod.fst
/-- Number of a range stitch. -/
def Pass.rangeNo (p : Pass) (va : Nat) : Nat := p.stitches.idxOf (va / 128)

/-! ### Opening (R204, R217, R218, R220) -/

/-- Period of the segment at a key. -/
def State.period (s : State) (seg : Nat) : Nat := (s.segAt seg).period
/-- Whether the tick of a die is a hold tick. -/
def State.holding (s : State) (die : Nat) : Bool := (s.dieAt die).holdTick
/-- `CURSOR` of the segment at a key: the stitch visited, or in a hold tick the next one (R199). -/
def State.cursorOf (s : State) (seg : Nat) : Nat :=
  let g := s.segAt seg
  if s.holding (keyDie seg) then (g.cursor + 1) % g.period else g.cursor

/-- The check at open of a list of stitches: the first failure with its stitch, or the ranges found (R217). -/
def checkStitches (d : Die) (ctx segNo period : Nat) (need : Perm) : List Nat → List (BitVec 128) → (Byte × Nat) ⊕ List (BitVec 128)
  | [], rs => .inr rs
  | v :: r, rs =>
    match d.checkOpen ctx segNo period need (128 * v) with
    | .inl code => .inl (code, v)
    | .inr e => checkStitches d ctx segNo period need r (if rs.contains e then rs else rs ++ [e])

/-- A pass after its check at open: riding, or parked at its open point (R217, R218, R220). -/
def State.openCheck (s : State) (p : Pass) : Pass :=
  if p.kind = .zeroPhys then { p with st := .riding, atOpen := false }
  else
    match checkStitches (s.dieAt (keyDie p.seg)) p.ctx.toNat (keyNo p.seg) (s.period p.seg) p.kind.need
        ((stitchSet p.exts).map Prod.fst) [] with
    | .inl f => { p with st := .parked, atOpen := true, trap := some (f.1, p.rangeNo (128 * f.2)), page := none,
                         trapAt := (s.dieAt (keyDie p.seg)).tick }
    | .inr rs => { p with st := .riding, atOpen := false, ranges := rs, page := none }

/-- Visits of the segment that go by before the next visit of a pass that a row of this tick opens or reopens (R204, R220). -/
def State.leadOf (s : State) (seg : Nat) : Nat := if s.holding (keyDie seg) then 2 else 1

/-- The lowest idle slot of a core (R221). -/
def State.idleSlot (s : State) (k : Nat) : Option Nat :=
  (List.range (s.slotCount k)).find? (fun n => decide ((s.passAt k n).st = .idle))

/-- Race-detector checks of the areas a pass reads (R313). -/
def touchAreas (s : State) (kind : Access) : List (Nat × Nat) → State
  | [] => s
  | r :: rs => touchAreas (s.touch kind 3 r.1 r.2) kind rs

/-- A core with one row of C of a `TMMA` in its scratchpad. -/
def Core.withRowOf (j : TmmaJob) (c : Core) (i : Nat) : Core :=
  if j.landed i || (!j.write && badIn c.badScratch (j.addr + 64 * i) 64) then c else c.fill (j.addr + 64 * i) ((j.rowOn c.scratch i).flatMap (fun w => leBytes 4 w.1))
/-- A core as an access that comes now in issue order finds its scratchpad: with the rows of C that its `TMMA`s have still to apply (R119, R306). -/
def Core.settled (c : Core) : Core := (c.tmma.filter (fun j => j.due.isSome)).foldl (fun c j => (List.range 16).foldl (Core.withRowOf j) c) c

/-- The bytes of a pass's source areas at issue (R228, R306, log 10). -/
def Core.areaBytes (c : Core) (fresh : Nat) (areas : List (Nat × Nat)) : Memory :=
  let m := SMap.keep (fun a => areas.any (fun r => overlaps r a 1)) c.settled.scratch
  let open_ := c.passes.filter (fun e => e.2.open_)
  if areas.any (fun r => open_.any (fun e => e.2.dstAreas.any (fun d => overlaps d r.1 r.2))) then
    SMap.setAll 0 m (areas.flatMap (fun r => (List.range r.2).filterMap (fun i =>
      if c.inPassDst (r.1 + i) then some (r.1 + i, Config.freeByte fresh (r.1 + i)) else none)))
  else m

/-- A block of 16,384 stitches as a bit of a segment's set (R377). -/
def blockBit (x : Nat) : BitVec 512 := 1#512 <<< (x / 16384)

/-- The page-zero record as a supervisor `PZERO` opens: continued or replaced (R380). -/
def Seg.openZero (g : Seg) (p : Pass) : Seg :=
  if p.sb = 0 then g
  else if g.pzValid && decide (p.sa = g.pzNext ∧ p.sb = g.pzRemain ∧ g.pzNext + g.pzRemain ≤ g.pzFirst + g.pzCount) then
    { g with pzPass := some p.key }
  else { g with pzValid := true, pzFirst := p.sa, pzCount := p.sb, pzNext := p.sa, pzRemain := p.sb, pzPass := some p.key,
                pzTouched := 0 }

/-- Entries of a segment's ordered-atomic buffer that no `PUPDO` has reserved (R238). -/
def Seg.ordFree (g : Seg) : Nat := Config.orderedEntries - (g.reserved.map (fun e => e.2.2)).sum

/-- An `XLOAD` in flight has had its effect on the sets: a stop puts nothing back (R266). -/
def Fly.complete (f : Fly) : Fly := if f.op = 0x0B then { f with old := [], new := [], loads := [] } else f

/-- The sets of a core whose later `PMAT` opens: an `XLOAD` in flight, or one that a trap stopped, has had its effect on them (R266). -/
def Core.finishLoad (c : Core) : Core :=
  let c1 := match c.tkept with
    | none => c
    | some f => if f.op = 0x0B then { c with regs := c.regs.putCells (f.new.drop (f.kept.getD 0)).flatten } else c
  { c1 with tfly := c.tfly.map Fly.complete, tkept := c.tkept.map Fly.complete }

/-- What opening does besides, by the kind of pass: the record of a physical zero, a reservation, the set of a `PCMT`, the lane and
the charge of a `PMAT` (R238, R239, R252, R263, R380). -/
def State.openKind (s : State) (p : Pass) : State × Pass :=
  let g := s.segAt p.seg
  if p.kind = .zeroPhys then (s.setSegAt p.seg (g.openZero p), p)
  else if p.kind.isUpdo then
    (s.setSegAt p.seg { g with reserved := g.reserved ++ [(p.key, p.ctx, p.sb * p.desc.dim 0)] }, p)
  else if p.kind = .cmt then (s, { p with elig := ((g.ord.filter (fun e => e.closed)).map (fun e => e.key)).dedup })
  else if p.kind.isMat then
    let s0 := s.onCore Core.finishLoad
    let set := s0.core.activeSet
    let s1 := s0.onCore (fun c =>
      let r := if c.regs.xtag set = s.ctxTag then c.regs else (c.regs.zeroSet set).setXtag set s.ctxTag
      { c with regs := r.putLane set p.lane [] })
    (s1.onDieAt s.die (fun d => { d with heat := d.heat - 1024 * (p.charge : Int) }), { p with set := set })
  else (s, p)

/-- A pass opens in a slot of the core whose row is in hand (R204, R208, R221 to R223); one opened while the core is stepped with
PFREEZE parks at once (R360). -/
def State.openPass (s : State) (n : Nat) (p : Pass) : State :=
  let key : PassKey := if s.sup then { sup := true, seq := (s.dieAt s.die).supSeq }
    else { launch := s.core.lid.toNat, lcore := s.core.lcore, seq := s.core.seq.toNat }
  let q := s.openKind { p with key := key, row := s.core.pos.row, openRow := s.core.pos.row, openBeat := s.core.beats,
                               openPt := (s.cursorOf p.seg + 2) % s.period p.seg, lead := s.leadOf p.seg, interval := s.core.interval }
  let f := if s.core.step && s.core.pfreeze then { q.2 with st := .parked, atOpen := true, frozen := true } else s.openCheck q.2
  let s1 := q.1.onCore (fun c => { (c.tagIssue p.tag).setPass n f with seq := c.seq + 1 })
  if s.sup then s1.onDieAt s.die (fun d => { d with supSeq := d.supSeq + 1 }) else s1

/-- A refused open: it takes no slot, and sets its tag and ERR bit 4 ticks later (R221, R225). -/
def State.refuseOpen (s : State) (tag : BitVec 6) : State :=
  s.onCore (fun c => { c.tagIssue tag with seq := c.seq + 1, refusals := c.refusals ++ [(4, tag)] })

/-- A bad index in a pass's list (R227). -/
def Pass.badIndex (p : Pass) : Bool := p.idx && (List.range p.sb).any (fun k => (p.rowOf k).isNone)

/-- A pass that has met its checks reads its source areas and opens (R228; an uncorrectable source byte, R180). -/
def State.takePass (s : State) (n : Nat) (p : Pass) (srcs dsts : List (Nat × Nat)) : State :=
  match srcs.find? (fun r => badIn s.core.settled.badScratch r.1 r.2) with
  | some r => s.raise cECC 5 0 (BitVec.ofNat 64 r.1)
  | none =>
    let p1 := { p with src := s.core.areaBytes s.fresh srcs, srcAreas := srcs, dstAreas := dsts }
    ({ touchAreas s .passRead srcs with fresh := s.fresh + 1 }).openPass n { p1 with err := p1.badIndex }

/-! ### The checks of a pass row (R225, R226) -/

/-- What an entry asks of its operands. -/
structure Plan where
  /-- The pass as it would open. -/
  pass : Pass
  /-- Scratchpad areas: address, length, alignment. -/
  areas : List (Nat × Nat × Nat) := []
  /-- Areas that the pass reads and that it writes. -/
  srcs : List (Nat × Nat) := []
  dsts : List (Nat × Nat) := []
  /-- The sizes of the areas are taken from the descriptor, so that its part of check 5 comes first. -/
  early : Bool := false
  /-- The part of check 5 that concerns the descriptor. -/
  descOk : Bool := true
  /-- The rest of check 5. -/
  limits : Bool := true

/-- An area is aligned and lies below SCRATCH. -/
def areaOk (top : Nat) (a : Nat × Nat × Nat) : Bool := a.1 % a.2.2 == 0 && decide (a.1 + a.2.1 ≤ top)

/-- `SPBOUND` of the W slot. -/
def State.passBound (s : State) : State := s.raise cSPBOUND 3 0 0
/-- `SPBOUND` of the W slot for the first area that is out of range or not aligned. -/
def State.areaBound (s : State) (areas : List (Nat × Nat × Nat)) : State :=
  match areas.find? (fun a => !(areaOk (s.spEnd s.cur) a)) with
  | none => s.passBound
  | some a => s.raise cSPBOUND 3 0 (BitVec.ofNat 64 a.1)

/-- Checks 1 to 3: the segment and the slot that the pass takes, or what becomes of the row. -/
def State.passEntry (s : State) (seg : Option Nat) (tag : BitVec 6) : State ⊕ (Nat × Nat) :=
  match seg with
  | none => .inl ((s.refuseOpen tag).onCore (fun c => { c with segTrap := c.segTrap ++ [c.pos.row] }))
  | some k =>
    if s.tagCount s.cur ≤ tag.toNat then .inl s.passBound
    else match s.idleSlot s.cur with
      | none => .inl s.passBound
      | some n => .inr (k, n)

/-- A pass row in its issue tick: the checks in order, and the opening. -/
def State.issuePass (s : State) (seg : Option Nat) (pl : Plan) : State :=
  match s.passEntry seg pl.pass.tag with
  | .inl s1 => s1
  | .inr (k, n) =>
    if pl.early && !pl.descOk then s.refuseOpen pl.pass.tag
    else if !(pl.areas.all (areaOk (s.spEnd s.cur))) then s.areaBound pl.areas
    else if !(pl.descOk && pl.limits) then s.refuseOpen pl.pass.tag
    else s.takePass n { pl.pass with seg := k } pl.srcs pl.dsts

/-! ### The entries (R231 to R242) -/

/-- The operands of a pass row, read at issue (R224), with the descriptor as it stands (R29). -/
def State.passOf (s : State) (kind : PassKind) (o : PassOp) : Pass :=
  let d := s.desc s.ctxTag o.tid.toNat
  let r := fun (x : Reg) => (s.core.rdS x).toNat
  { kind := kind, tag := o.tag, tid := o.tid, sa := r o.a, sb := r o.b, sc := r o.c, sd := r o.d, se := r o.e, cmp := o.cmp,
    lane := o.lane.toNat, ctx := s.ctxTag, desc := d, sdesc := s.desc s.ctxTag d.scaleTid.toNat }

/-- A descriptor is valid, in PACKED or ROWS layout, and of a format that the test accepts. -/
def Desc.flat (d : Desc) (f : Format → Bool) : Bool :=
  d.valid && decide (d.layout.toNat ≤ 1) && (match d.fmt with | some x => f x | none => false)
/-- I8, I32, F32 and BF16. -/
def Format.isElem : Format → Bool
  | .bfp _ => false
  | .t5 => false
  | _ => true
/-- Every format but T5. -/
def Format.notT5 (f : Format) : Bool := decide (f ≠ .t5)
/-- Items A to A + B − 1 lie within a count. -/
def Pass.within (p : Pass) (count : Nat) : Bool := decide (p.sb = 0) || decide (p.sa + p.sb ≤ count)

/-- The free entries of the segment's buffer hold a `PUPDO`'s contributions (R238). -/
def ordRoom (s : State) (p : Pass) : Bool :=
  match s.core.seg with
  | none => false
  | some k => decide (p.sb * p.desc.dim 0 ≤ (s.segAt k).ordFree)

/-- A `PSCAN` over formats that its form accepts (R233). -/
def scanPlan (p : Pass) (f : Format → Bool) : Plan :=
  { pass := p, areas := [(p.sd, 8, 8)], dsts := [(p.sd, 8)], descOk := p.desc.flat f, limits := p.within p.desc.count }

/-- A `PUPD` or `PUPDO` in range form or index form (R236, R238). -/
def updPlan (o : PassOp) (q : Pass) (f : Format → Bool) (room : Pass → Bool) : Plan :=
  let ret := q.kind.isUpd && o.ret
  let p : Pass := { q with idx := o.idx, ret := ret }
  let n := p.sb * p.desc.rb
  let list := if o.idx then [(p.sc, 4 * p.sb)] else []
  let old := if ret then [(p.se, n)] else []
  { pass := p, areas := ((p.sd, n) :: (list ++ old)).map (fun a => (a.1, a.2, 4)), srcs := (p.sd, n) :: list, dsts := old, early := true
    descOk := p.desc.flat f, limits := (o.idx || p.within p.desc.outer) && room p }

/-- The key slot of a die that is bound to a context and loaded (R384). -/
def State.keyOf (s : State) (die : Nat) (ctx : Byte) : Option KeySlot :=
  ((s.dieAt die).keys.find? (fun e => e.2.loaded && e.2.ctx == ctx)).map (fun e => e.2)
/-- Whether a context is protected (R384). -/
def State.isProtected (s : State) (ctx : Byte) : Bool := (SMap.get {} s.mod.contexts ctx.toNat).prot

/-- A `PHOST` (R242, R384). -/
def hostPlan (s : State) (p : Pass) : Plan :=
  { pass := p, descOk := p.desc.valid
    limits := p.within p.desc.itemCount && p.sc % 64 == 0 && decide (p.sc + p.sb * p.desc.itemBytes ≤ 2 ^ 52) &&
      (!(s.isProtected p.ctx) || (s.keyOf s.die p.ctx).isSome) }

/-- What each entry asks of its operands, but for the ternary passes, whose checks come in an order of their own (R231 to R242). -/
def State.planOf (s : State) (kind : PassKind) (o : PassOp) : Plan :=
  let p := s.passOf kind o
  match kind with
  | .copy =>
    let n := p.sb * p.desc.esize
    { pass := p, areas := [(p.sd, n, p.desc.esize)], dsts := [(p.sd, n)], early := true, descOk := p.desc.flat Format.isElem
      limits := p.within p.desc.count }
  | .gath =>
    let n := p.sb * p.desc.rb
    { pass := { p with idx := true }, areas := [(p.sc, 4 * p.sb, 4), (p.sd, n, 4)], srcs := [(p.sc, 4 * p.sb)], dsts := [(p.sd, n)]
      early := true, descOk := p.desc.flat Format.notT5 }
  | .scanSumi => scanPlan p (fun f => decide (f = .i8 ∨ f = .i32))
  | .scanSumf => scanPlan p (fun f => decide (f = .f32 ∨ f = .bf16))
  | .scanMin | .scanMax | .scanCount => scanPlan p Format.isElem
  | .filt =>
    let n := 8 + 8 * p.se
    { pass := p, areas := [(p.sd, n, 8)], dsts := [(p.sd, n)], descOk := p.desc.flat Format.isElem
      limits := decide (p.se ≤ 2 ^ 20) && p.within p.desc.count }
  | .put =>
    let n := p.sb * p.desc.rb
    { pass := p, areas := [(p.sd, n, 4)], srcs := [(p.sd, n)], early := true, descOk := p.desc.flat Format.notT5
      limits := p.within p.desc.outer }
  | .updAddi | .updMini | .updMaxi => updPlan o p (fun f => decide (f = .i32)) (fun _ => true)
  | .updAddf => updPlan o p (fun f => decide (f = .f32)) (fun _ => true)
  | .updAnd | .updOr | .updXor | .updSwap => updPlan o p (fun f => decide (f = .i32 ∨ f = .f32)) (fun _ => true)
  | .updoAddf => updPlan o p (fun f => decide (f = .f32)) (ordRoom s)
  | .updoAddi => updPlan o p (fun f => decide (f = .i32)) (ordRoom s)
  | .cmt => { pass := p, descOk := p.desc.flat (fun f => decide (f = .i32 ∨ f = .f32)), limits := p.within p.desc.outer }
  | .adam =>
    { pass := p, areas := [(p.sd, 40 * p.sb, 4), (p.se, 64, 64)], srcs := [(p.sd, 40 * p.sb), (p.se, 64)]
      descOk := p.desc.flat (fun f => decide (f = .f32)) && decide (p.desc.layout = 1)
      limits := decide (p.desc.dim 0 = 30) && p.within p.desc.outer }
  | .zero => { pass := p, descOk := p.desc.valid, limits := p.within p.desc.itemCount }
  | .zeroPhys =>
    { pass := { p with tid := BitVec.ofNat 8 (p.sc % 32) }
      limits := decide (p.sc < Config.segments) && decide (p.sa + p.sb ≤ s.period (s.die * 32 + p.sc)) }
  | .hostIn | .hostOut => hostPlan s p
  | .matWrite | .matAccum => { pass := p }

/-- A pass row of a kind, on the segment attached to the core. -/
def passRow (s : State) (kind : PassKind) (o : PassOp) : Out := .next (s.issuePass s.core.seg (s.planOf kind o))

def execPcopy (o : PassOp) (s : State) : Out := passRow s .copy o
def execPgath (o : PassOp) (s : State) : Out := passRow s .gath o
def execPscanSumi (o : PassOp) (s : State) : Out := passRow s .scanSumi o
def execPscanSumf (o : PassOp) (s : State) : Out := passRow s .scanSumf o
def execPscanMin (o : PassOp) (s : State) : Out := passRow s .scanMin o
def execPscanMax (o : PassOp) (s : State) : Out := passRow s .scanMax o
def execPscanCount (o : PassOp) (s : State) : Out := passRow s .scanCount o
def execPfilt (o : PassOp) (s : State) : Out := passRow s .filt o
def execPput (o : PassOp) (s : State) : Out := passRow s .put o
def execPupdAddi32 (o : PassOp) (s : State) : Out := passRow s .updAddi o
def execPupdAddf32 (o : PassOp) (s : State) : Out := passRow s .updAddf o
def execPupdMini32 (o : PassOp) (s : State) : Out := passRow s .updMini o
def execPupdMaxi32 (o : PassOp) (s : State) : Out := passRow s .updMaxi o
def execPupdAnd (o : PassOp) (s : State) : Out := passRow s .updAnd o
def execPupdOr (o : PassOp) (s : State) : Out := passRow s .updOr o
def execPupdXor (o : PassOp) (s : State) : Out := passRow s .updXor o
def execPupdSwap (o : PassOp) (s : State) : Out := passRow s .updSwap o
def execPupdoAddf32 (o : PassOp) (s : State) : Out := passRow s .updoAddf o
def execPupdoAddi32 (o : PassOp) (s : State) : Out := passRow s .updoAddi o
def execPcmt (o : PassOp) (s : State) : Out := passRow s .cmt o
def execPadam (o : PassOp) (s : State) : Out := passRow s .adam o
def execPzero (o : PassOp) (s : State) : Out := passRow s .zero o
def execPhostIn (o : PassOp) (s : State) : Out := passRow s .hostIn o
def execPhostOut (o : PassOp) (s : State) : Out := passRow s .hostOut o

/-- An instruction that only firmware images may hold (R97, R112): no row of another image holds one. -/
def supOnly (s : State) (act : State) : Out := if s.sup then .next act else .fault .illegalRow

def execPzeroPhys (o : PassOp) (s : State) : Out :=
  supOnly s (s.issuePass (some (s.die * 32 + (s.core.rdS o.c).toNat % 32)) (s.planOf .zeroPhys o))

/-! ### Ternary matrix passes (R259, R263) -/

/-- BALANCE of a die (R262). -/
def Die.balance (d : Die) : Int := d.heat / 1024
/-- The charge of a `PMAT` row that falls due (R263). -/
def heatCharge (s : State) (o : PassOp) : Nat :=
  min ((s.desc s.ctxTag o.tid.toNat).density.toNat * (s.core.rdS o.b).toNat) (s.dieAt s.die).heatCap.toNat
/-- The charge of the row in hand: that with which it fell due. -/
def heatOf (s : State) (o : PassOp) : Nat := match s.core.heatDue with | none => heatCharge s o | some q => q.2
/-- When the row in hand fell due, for the order of waiting rows. -/
def State.heatSince (s : State) (k : Nat) : Nat := match (s.coreAt k).heatDue with | none => (s.dieAt (keyDie k)).tick | some q => q.1
/-- A waiting row is ahead of the row in hand: it fell due earlier, or in the same tick on a lower core (R263). -/
def heatBehind (s : State) : Bool :=
  (s.dieAt s.die).heatQ.any (fun k => decide (s.heatSince k < s.heatSince s.cur) || (s.heatSince k == s.heatSince s.cur && decide (k < s.cur)))
/-- The row is held for heat: a waiting row is ahead of it, or its charge exceeds BALANCE. -/
def heatWaits (s : State) (o : PassOp) : Bool := heatBehind s || decide ((s.dieAt s.die).balance < (heatOf s o : Int))
/-- The row falls due: its charge is fixed, and where it has to wait it takes its place in the order of waiting rows (R263). -/
def heatArm (s : State) (o : PassOp) : State :=
  let s1 := if s.core.heatDue.isSome then s else s.onCore (fun c => { c with heatDue := some (s.tick, heatCharge s o) })
  if heatWaits s1 o && !((s1.dieAt s.die).heatQ.contains s.cur) then s1.onDieAt s.die (fun d => { d with heatQ := d.heatQ ++ [s.cur] }) else s1
/-- The row issues: it leaves the order. -/
def State.heatLeave (s : State) : State :=
  (s.onDieAt s.die (fun d => { d with heatQ := d.heatQ.filter (fun k => k != s.cur) })).onCore (fun c => { c with heatDue := none })

/-- The areas of a `PMAT` of some groups: address, length, alignment. -/
def Pass.matAreas (p : Pass) (g : Nat) : List (Nat × Nat × Nat) :=
  [(p.sd, 8 + 324 * g, 8), (p.sc, 512 * p.sb, 4), (p.se, 1024 * g * p.sb, 64)]

/-- A `PMAT`: the heat wait, then checks 1, 2, 3, 3a, 4a, 5a, 4 and 5. -/
def pmat (s : State) (kind : PassKind) (o : PassOp) : Out :=
  if heatWaits (heatArm s o) o then .next (heatArm s o)
  else
    let s0 := s.heatLeave
    let p : Pass := { s.passOf kind o with charge := heatOf s o }
    let top := s.spEnd s.cur
    .next (match s0.passEntry s.core.seg o.tag with
      | .inl s1 => s1
      | .inr (k, n) =>
        if s.core.lanes ≤ p.lane then s0.passBound
        else if !(areaOk top (p.sd, 8, 8)) then s0.areaBound [(p.sd, 8, 8)]
        else if badIn s.core.settled.badScratch p.sd 8 then s0.raise cECC 5 0 (BitVec.ofNat 64 p.sd)
        else
          let p1 : Pass := { p with seg := k, ctl := Memory.load (s.core.areaBytes s.fresh [(p.sd, 8)]) p.sd 8 }
          let g := p1.groups
          let ok : Bool := p.desc.valid && decide (p.desc.fmt = some .t5) && decide (p.desc.layout = 2) &&
            decide (natBits p1.ctl 32 32 = 0) && decide (1 ≤ g) && decide (p1.gfirst + g ≤ p.desc.dim 0 / 320)
          if !ok then s0.refuseOpen o.tag
          else if !((p1.matAreas g).all (areaOk top)) then s0.areaBound (p1.matAreas g)
          else if !(decide (p.sa + p.sb ≤ p.desc.dim 1 / 128)) ||
              s.core.passes.any (fun e => e.2.open_ && e.2.kind.isMat && decide (e.2.lane = p.lane)) then s0.refuseOpen o.tag
          else s0.takePass n p1 [(p.sd, 8 + 324 * g)] [(p.sc, 512 * p.sb), (p.se, 1024 * g * p.sb)])

def execPmatWrite (o : PassOp) (s : State) : Out := pmat s .matWrite o
def execPmatAccum (o : PassOp) (s : State) : Out := pmat s .matAccum o

/-! ### Parking, reopening, cancelling (R218, R220, R230, R243, R244) -/

/-- A pass reopens: its next visit is at its parked stitch, no earlier than a pass opened now would make its first; parked by its
check at open, it makes the whole check again (R220). -/
def State.reopened (s : State) (p : Pass) (row : Nat) : Pass :=
  let q := { p with st := .riding, trap := none, page := none, stopParked := false, frozen := false, row := row, lead := s.leadOf p.seg }
  if p.atOpen then s.openCheck q else q

/-- The riding passes of a core park at their next stitch, without a trap: those that have visits left (R230). -/
def Core.parkAll (c : Core) : Core :=
  { c with passes := c.passes.map (fun e =>
      if e.2.st = .riding ∧ e.2.closeIn = 0 then (e.1, { e.2 with st := .parked, stopParked := true, page := none }) else e) }

/-- The passes that a stop parked reopen as the core resumes, as if by `PREOP` (R230). -/
def State.unparkAll (s : State) (k : Nat) : State :=
  s.onCoreAt k (fun c => { c with passes := c.passes.map (fun e =>
    if e.2.st = .parked ∧ e.2.stopParked = true then (e.1, s.reopened e.2 e.2.row) else e) })

def execPreop (a : Reg) (s : State) : Out :=
  let n := (s.core.rdS a).toNat % 32
  let p := s.core.pass n
  if n < s.slotCount s.cur ∧ p.st = .parked ∧ p.frozen = false then .next (s.onCore (fun c => c.setPass n (s.reopened p c.pos.row))) else .next s

def execPcanc (a : Reg) (s : State) : Out :=
  let n := (s.core.rdS a).toNat % 32
  let p := s.core.pass n
  if p.st = .parked ∨ p.st = .riding then .next (s.onCore (fun c => c.setPass n p.cancel)) else .next s

/-! ### Waiting (R206, R245 to R249) -/

/-- A pass of the core has not closed. -/
def pfenceWaits (s : State) : Bool := s.core.passes.any (fun e => e.2.open_)
def execPfence (s : State) : Out := .next s

/-- The passes of a segment: core and sequence number of each, and those over the save region (R368). -/
def passesOn (s : State) (seg : Nat) : List (Nat × Nat) :=
  s.cores.flatMap (fun e => e.2.passes.filterMap (fun p =>
    if p.2.open_ && p.2.seg == seg then some (e.1, p.2.key.seq) else none)) ++
    (if keyNo seg = 23 then (s.dieAt (keyDie seg)).region.map (fun j => (regionKey (keyDie seg), j.seq)) else [])
/-- The covered set of a `PRND`: taken as its row first falls due, and then those that remain (R245). -/
def prndArm (s : State) : State :=
  match s.core.seg with
  | none => s.onCore (fun c => { c with prnd := some [] })
  | some k =>
    let now := passesOn s k
    s.onCore (fun c => { c with prnd := some (match c.prnd with | none => now | some l => l.filter now.contains) })
/-- A covered pass has not closed. -/
def prndWaits (s : State) : Bool := match s.core.prnd with | none => false | some l => !l.isEmpty
def execPrnd (s : State) : Out :=
  let s1 := prndArm s
  if prndWaits s1 then .next s1 else .next (s1.onCore (fun c => { c with prnd := none }))

/-- The tags of a mask. -/
def maskTags (v : Word) : List Nat := (List.range 64).filter v.getLsbD
/-- A mask names a tag at or above TAGS. -/
def maskBeyond (s : State) (v : Word) : Bool := decide (v ≠ s.tagMask s.cur v)
/-- A `TWANY` is held. -/
def twanyWaits (s : State) (a : Reg) : Bool :=
  let v := s.core.rdS a
  !(maskBeyond s v) && decide (v ≠ 0) && !((maskTags v).any s.core.tagSet)
/-- A `TWALL` is held. -/
def twallWaits (s : State) (a : Reg) : Bool :=
  let v := s.core.rdS a
  !(maskBeyond s v) && !((maskTags v).all s.core.tagSet)
def execTwany (a : Reg) (s : State) : Out := if maskBeyond s (s.core.rdS a) then .next s.passBound else .next s
def execTwall (a : Reg) (s : State) : Out := if maskBeyond s (s.core.rdS a) then .next s.passBound else .next s

def execTfirst (d a : Reg) (s : State) : Out :=
  .next (s.setS d (BitVec.ofNat 64 (((maskTags (s.core.rdS a &&& s.tagMask s.cur s.core.tags)).head?).getD 64)))
def execTclr (a : Reg) (s : State) : Out :=
  .next (s.onCore (fun c => { c with tags := c.tags &&& ~~~(c.rdS a), tagerr := c.tagerr &&& ~~~(c.rdS a) }))

/-- The segment and stitch that a `CWAIT` waits for; none where it raises `SPBOUND` (R206, R399). -/
def cwaitTarget (s : State) (a : Reg) : Option (Nat × Nat) :=
  let v := (s.core.rdS a).toNat
  if s.sup then
    let k := s.die * 32 + natBits v 24 5
    if natBits v 24 5 < Config.segments ∧ (s.segAt k).remap = none then
      let p := s.period k
      some (k, (natBits v 0 24 % p + p - 3) % p)
    else none
  else s.core.seg.map (fun k => let p := s.period k; (k, (v % p + p - 3) % p))
/-- Note that the stitch is visited in this tick. -/
def cwaitArm (s : State) (a : Reg) : State :=
  match cwaitTarget s a with
  | none => s
  | some (k, x) =>
    if !(s.holding s.die) && decide ((s.segAt k).cursor = x) then s.onCore (fun c => { c with swept := true }) else s
/-- The stitch has not come. -/
def cwaitWaits (s : State) (a : Reg) : Bool := (cwaitTarget s a).isSome && !s.core.swept
def execCwait (a : Reg) (s : State) : Out :=
  match cwaitTarget s a with
  | none => .next s.passBound
  | some _ =>
    let s1 := cwaitArm s a
    if cwaitWaits s1 a then .next s1 else .next (s1.onCore (fun c => { c with swept := false }))

end Sys2Proof.Machine
end

