-- ==== Sys2Proof/Machine/Links.lean ====
section
/-! DEFINITION. The L slot but for time: ports and circuits, messages, remote writes, atomics and commits, barriers, circular buffers,
and their deliveries; mesh entries; the Igdin link (R154, R269 to R295, R312, R313). -/

namespace Sys2Proof.Machine

/-! ### Targets (R271 to R273) -/

/-- A target word's KIND: a core of the peer launch. -/
def tgFar (w : W32) : Bool := w.getLsbD 31
/-- REL: CORE counts from the sender. -/
def tgRel (w : W32) : Bool := w.getLsbD 30
/-- TRUNK. -/
def tgTrunk (w : W32) : Nat := (w.extractLsb' 23 7).toNat
/-- RPORT. -/
def tgPort (w : W32) : Nat := (w.extractLsb' 0 4).toNat
/-- The logical core that a target word names for a sender. -/
def tgCore (w : W32) (lcore ncores : Nat) : Nat :=
  if tgRel w then (((lcore : Int) + (w.extractLsb' 13 10).toInt) % (ncores : Int)).toNat else (w.extractLsb' 13 10).toNat

/-- The targets bound to a port of a core. -/
def Core.targets (c : Core) (port : Nat) : List W32 := (c.bindings.filter (fun b => b.port == port)).flatMap (fun b => b.targets)
/-- Every target of a port resolves: it has some, and none is an absolute core at or above `NCORES` (R273). -/
def Core.bound (c : Core) (port : Nat) : Bool :=
  !(c.targets port).isEmpty &&
    (c.targets port).all (fun w => tgFar w || tgRel w || decide (tgCore w c.lcore c.ncores < c.ncores))

/-- The physical place of a logical core of a launch (R80). -/
def State.launchCore (s : State) (ctx : Byte) (lid : BitVec 16) (n : Nat) : Option Nat :=
  (s.cores.find? (fun e => !(isAnchor e.1) && decide (e.2.run ≠ .released) && e.2.ctx == ctx && e.2.lid == lid && e.2.lcore == n)).map
    (fun e => e.1)

/-! ### Send queues and circuits (R270, R274, R275) -/

/-- The circuit that an operation takes. -/
def Sent.circuit (m : Sent) : Bool × Nat × Nat × Nat := (m.far, m.trunk, m.core, m.rport)
/-- Entries of a send queue that are taken: those of each operation that some copy's circuit has not accepted. -/
def occupancy (l : List Sent) : Nat :=
  (((l.map (fun m => m.no)).dedup).map (fun n => ((l.filter (fun m => m.no == n)).map (fun m => m.entries - m.taken)).foldl max 0)).sum
/-- The send queue of a port. -/
def Core.sendQ (c : Core) (port : Nat) : List Sent := SMap.get [] c.sends port
/-- An operation of some entries finds too few free (R129, R275). -/
def sendFull (s : State) (port entries : Nat) : Bool := decide (Config.sendEntries < occupancy (s.core.sendQ port) + entries)
/-- A fault of the L slot. -/
def State.raiseL (s : State) (code : Byte) (elem : Nat) : State := s.raise code 4 (BitVec.ofNat 64 elem) 0
/-- `SPBOUND` of the L slot for a port or an id. -/
def State.linkBound (s : State) : State := s.raiseL cSPBOUND 0
/-- `SPBOUND` of the L slot for an address. -/
def State.linkBoundAt (s : State) (x : Nat) : State := s.raise cSPBOUND 4 0 (BitVec.ofNat 64 x)

/-- A copy for one target: it may arrive within the bound of its path (R274, log 7). -/
def copyFor (s : State) (c : Core) (n entries : Nat) (op : LOp) (carry : Word) (w : W32) (i : Nat) : Sent :=
  let core := tgCore w c.lcore c.ncores
  let near := match s.launchCore c.ctx c.lid core with | none => true | some k => decide (keyDie k = keyDie s.cur)
  { op := op, no := n, entries := entries, far := tgFar w, trunk := tgTrunk w, core := core, rport := tgPort w,
    due := s.tick + 1 + (if near then Config.freeTicks .linkDie (s.fresh + i) % 16 else Config.freeTicks .linkModule (s.fresh + i) % 64), interval := carry }

/-- An operation enters the send queue of a port, with a copy for each target; a synchronising one ends the interval (R275, R312). -/
def State.sendOp (s : State) (port entries : Nat) (op : LOp) (sync : Bool) : State :=
  let c := s.core
  let copies := (c.targets port).zipIdx.map (fun t => copyFor s c c.sendNo entries op c.interval t.1 t.2)
  { s.setCore { c with
      sends := SMap.set [] c.sends port (c.sendQ port ++ copies)
      sendNo := c.sendNo + 1
      farSent := (copies.filter (fun m => m.far)).foldl (fun l m => if l.contains m.trunk then l else l ++ [m.trunk]) c.farSent
      interval := if sync then c.interval + 1 else c.interval }
    with fresh := s.fresh + copies.length }

/-- Entries of eight words. -/
def entriesOf : Nat → List W32 → List (List W32)
  | 0, _ => []
  | n + 1, ws => ws.take 8 :: entriesOf n (ws.drop 8)
/-- The 8F elements of a vector register that an L instruction sends. -/
def Core.sendWords (c : Core) (a : Reg) (f : BitVec 2) : List W32 := (List.range (foldN f)).map (c.rdV a)

/-- A send is held for room (R129). -/
def lsendWaits (s : State) (port : BitVec 4) (entries : Nat) : Bool :=
  s.core.bound port.toNat && sendFull s port.toNat entries

def execLsendV (a : Reg) (f : BitVec 2) (port : BitVec 4) (s : State) : Out :=
  let n := foldBeats f
  if !(s.core.bound port.toNat) then .next s.linkBound
  else if lsendWaits s port n then .next s
  else .next (s.sendOp port.toNat n (.send (entriesOf n (s.core.sendWords a f))) true)
def execLsendS (a : Reg) (port : BitVec 4) (s : State) : Out :=
  let v := s.core.rdS a
  if !(s.core.bound port.toNat) then .next s.linkBound
  else if lsendWaits s port 1 then .next s
  else .next (s.sendOp port.toNat 1 (.send [[v.setWidth 32, (v >>> (32 : Nat)).setWidth 32, 0, 0, 0, 0, 0, 0]]) true)

/-- A remote write or atomic: the checks of R273 and R278, the send-full delay, and the operation sent. -/
def remote (s : State) (a b : Reg) (f : BitVec 2) (port : BitVec 4) (op : Nat → List W32 → LOp) : Out :=
  let n := foldBeats f
  let x := (s.core.rdS b).toNat
  if !(s.core.bound port.toNat) then .next s.linkBound
  else if !(x % 4 == 0 && decide (x + 32 * n ≤ s.spEnd s.cur)) then .next (s.linkBoundAt x)
  else if lsendWaits s port n then .next s
  else .next (s.sendOp port.toNat n (op x (s.core.sendWords a f)) false)
/-- The send-full delay of a remote write, atomic or commit, whose address must be a multiple of `align` (R129). -/
def remoteWaits (s : State) (b : Reg) (f : BitVec 2) (port : BitVec 4) (align len : Nat) : Bool :=
  let x := (s.core.rdS b).toNat
  x % align == 0 && decide (x + len ≤ s.spEnd s.cur) && lsendWaits s port (foldBeats f)

def execLput (a b : Reg) (f : BitVec 2) (port : BitVec 4) (s : State) : Out := remote s a b f port .put
def execLamoAdd32 (a b : Reg) (f : BitVec 2) (port : BitVec 4) (s : State) : Out := remote s a b f port (.amo 0)
def execLamoFadd32 (a b : Reg) (f : BitVec 2) (port : BitVec 4) (s : State) : Out := remote s a b f port (.amo 1)
def execLamoMin32 (a b : Reg) (f : BitVec 2) (port : BitVec 4) (s : State) : Out := remote s a b f port (.amo 2)
def execLamoMax32 (a b : Reg) (f : BitVec 2) (port : BitVec 4) (s : State) : Out := remote s a b f port (.amo 3)

/-! ### Receiving (R277, R312) -/

/-- The receive queue of a port. -/
def Core.recv (c : Core) (port : Nat) : List Entry := SMap.get [] c.recvQ port
/-- A core observes an interval of another (R312). -/
def Core.observe (c : Core) (y : Nat) (i : Word) : Core :=
  { c with observed := SMap.set 0 c.observed y (if (SMap.get 0 c.observed y).toNat < i.toNat then i else SMap.get 0 c.observed y) }
/-- An `LRECV` is held for entries (R129). -/
def lrecvWaits (s : State) (f : BitVec 2) (port : BitVec 4) : Bool := decide ((s.core.recv port.toNat).length < foldBeats f)

def execLrecv (d : Reg) (f : BitVec 2) (port : BitVec 4) (s : State) : Out :=
  if lrecvWaits s f port then .next s
  else
    let q := s.core.recv port.toNat
    let es := q.take (foldBeats f)
    let ws := es.flatMap (fun e => (List.range 8).map (fun i => e.words.getD i 0))
    .next (s.onCore (fun c =>
      let c1 := es.foldl (fun c e => match e.sender with | none => c | some y => c.observe y.1 y.2) c
      { c1 with
        recvQ := SMap.set [] c1.recvQ port.toNat (q.drop (foldBeats f))
        regs := { c1.regs with v := putElems 0 c1.regs.v (d.toNat * 64) (fun _ => true) (fun i => ws.getD i 0) (foldN f) } }))

/-! ### Barriers (R287 to R290) -/

/-- Cores of a launch: core keys. -/
def State.launchCores (s : State) (ctx : Byte) (lid : BitVec 16) : List (Nat × Core) :=
  s.cores.filter (fun e => !(isAnchor e.1) && decide (e.2.run ≠ .released) && e.2.ctx == ctx && e.2.lid == lid)
/-- The effective scope of an arrival: without port-15 records, system scope is launch scope (R289, R290). -/
def Core.effScope (c : Core) (scope : Nat) : Nat := if scope = 2 ∧ (c.targets 15).isEmpty then 1 else scope
/-- An arrival disagrees with a scope recorded for the id in the same phase (R290). -/
def scopeClash (s : State) (id scope : Nat) : Bool :=
  (s.launchCores s.core.ctx s.core.lid).any (fun e => e.2.arr.getLsbD id && (SMap.get {} e.2.arrivals id).scope != scope)
/-- A core arrives at an id; the arrival ends its interval (R288, R312). -/
def Core.arrive (c : Core) (id scope due : Nat) : Core :=
  { c with arr := c.arr ||| 1#16 <<< id, arrivals := SMap.set {} c.arrivals id ⟨scope, c.sendNo, c.interval, due⟩, interval := c.interval + 1 }
/-- An id is reserved (R22). -/
def Core.barOk (c : Core) (k : BitVec 4) : Bool := c.barriers.getLsbD k.toNat
/-- The tick from which a completion may see an arrival made now at a scope: 16 or 64 ticks at most (R290, log 7). -/
def State.arrivalDue (s : State) (scope : Nat) : Nat :=
  s.tick + 1 + (if scope = 0 then Config.freeTicks .barrierDie s.fresh % 16 else Config.freeTicks .barrierLaunch s.fresh % 64)
/-- The core in hand arrives at an id. -/
def State.arriveAt (s : State) (k : BitVec 4) (scope : Nat) : State :=
  let n := s.core.effScope scope
  { s.onCore (fun c => c.arrive k.toNat n (s.arrivalDue n)) with fresh := s.fresh + 1 }

/-- `BARA` and `BARW` are held while the phase of the id is incomplete (R129). -/
def barWaits (s : State) (k : BitVec 4) : Bool := s.core.barOk k && s.core.arr.getLsbD k.toNat
/-- `BARA`. -/
def bara (s : State) (k : BitVec 4) (scope : Nat) : Out :=
  if !(s.core.barOk k) then .next s.linkBound
  else if barWaits s k then .next s
  else if scopeClash s k.toNat (s.core.effScope scope) then .next (s.raiseL cCBMISUSE 0)
  else .next (s.arriveAt k scope)

def execBaraDie (k : BitVec 4) (s : State) : Out := bara s k 0
def execBaraLaunch (k : BitVec 4) (s : State) : Out := bara s k 1
def execBaraSys (k : BitVec 4) (s : State) : Out := bara s k 2
def execBarw (k : BitVec 4) (s : State) : Out := if !(s.core.barOk k) then .next s.linkBound else .next s

/-- `BAR`: the arrival, which is made once, and then the wait (R288). -/
def bar (s : State) (k : BitVec 4) (scope : Nat) : Out :=
  if !(s.core.barOk k) then .next s.linkBound
  else if s.core.arr.getLsbD k.toNat then .next s
  else
    match s.core.pos.barIn with
    | some _ => .next (s.onCore (fun c => { c with pos := { c.pos with barIn := none } }))
    | none =>
      if scopeClash s k.toNat (s.core.effScope scope) then .next (s.raiseL cCBMISUSE 0)
      else .next ((s.arriveAt k scope).onCore (fun c => { c with pos := { c.pos with barIn := some k.toNat } }))

def execBarDie (k : BitVec 4) (s : State) : Out := bar s k 0
def execBarLaunch (k : BitVec 4) (s : State) : Out := bar s k 1
def execBarSys (k : BitVec 4) (s : State) : Out := bar s k 2

/-- A remote write, atomic or commit that the core issued before its operation number `n` has not been applied (R288). -/
def Core.pendingBefore (c : Core) (n : Nat) : Bool :=
  c.sends.any (fun q => q.2.any (fun m => decide (m.no < n) && (match m.op with | .send _ => false | _ => true)))
/-- A core has left its launch: it counts as arrived in every later phase (R290). -/
def Run.left : Run → Bool
  | .exited => true
  | .halted => true
  | _ => false
/-- The arrival of a core at an id counts. -/
def Core.hasArrived (c : Core) (tick id scope : Nat) : Bool :=
  let a := SMap.get {} c.arrivals id
  c.run.left || (c.arr.getLsbD id && a.scope == scope && decide (a.due ≤ tick) && !(c.pendingBefore a.after))

/-- Number of a scope. -/
def scopeNo : Scope → Nat
  | .die => 0 | .launch => 1 | .sys => 2

/-- The participants of a phase on this module. -/
def participants (s : State) (ctx : Byte) (lid : BitVec 16) (scope : Scope) (die : Nat) : List (Nat × Core) :=
  (s.launchCores ctx lid).filter (fun e => decide (scope ≠ .die) || keyDie e.1 == die)

/-- The completion of a phase at one participant: what it has observed of the others, and its bits (R288, R312). -/
def Core.completePhase (ps : List (Nat × Core)) (id : Nat) (c : Core) : Core :=
  let c1 := ps.foldl (fun c p => if p.2.arr.getLsbD id then c.observe p.2.lcore (SMap.get {} p.2.arrivals id).interval else c) c
  { c1 with arr := c1.arr &&& ~~~(1#16 <<< id), ph := c1.ph ^^^ 1#16 <<< id, arrivals := SMap.set {} c1.arrivals id {} }

/-- Every participant has arrived, and not all by having left; of a system phase this module has its part then too (R289, R290). -/
def phaseReady (s : State) (ctx : Byte) (lid : BitVec 16) (scope : Scope) (die id : Nat) : Bool :=
  let ps := participants s ctx lid scope die
  ps.all (fun e => e.2.hasArrived (s.dieAt (keyDie e.1)).tick id (scopeNo scope)) && (ps.any (fun e => !e.2.run.left) || (decide (scope = .sys) && !ps.isEmpty))

/-- A phase completes at its participants on this module (R288). -/
def State.completeAt (s : State) (ctx : Byte) (lid : BitVec 16) (scope : Scope) (die id : Nat) : State :=
  let ps := participants s ctx lid scope die
  ps.foldl (fun t e => t.onCoreAt e.1 (Core.completePhase ps id)) s

/-! ### Circular buffers (R291 to R293) -/

/-- A buffer object. -/
structure Cbuf where
  base : Nat
  ssize : Nat
  stages : Nat
  head : W32
  tail : W32
  acq : W32
  waited : W32
  zeros : Bool
  deriving DecidableEq, Repr

/-- Reads an object from the number that its 64 bytes hold. -/
def cbufOf (v : Nat) : Cbuf :=
  let f := fun (lo n : Nat) => natBits v (8 * lo) (8 * n)
  let w := fun (lo : Nat) => BitVec.ofNat 32 (f lo 4)
  { base := f 0 4, ssize := f 4 4, stages := f 8 2, head := w 0x0C, tail := w 0x10, acq := w 0x14, waited := w 0x18,
    zeros := f 0x0A 2 == 0 && f 0x1C 36 == 0 }

/-- A power of two from 1 to 256. -/
def stagesOk (n : Nat) : Bool := (List.range 9).any (fun i => n == 2 ^ i)

/-- An object is well formed below an end of scratchpad (R291). -/
def Cbuf.ok (b : Cbuf) (top : Nat) : Bool :=
  b.zeros && b.base % 32 == 0 && b.ssize % 32 == 0 && decide (32 ≤ b.ssize) && decide (b.ssize ≤ 65536) && stagesOk b.stages &&
    decide (b.base + b.stages * b.ssize ≤ top) &&
    decide ((b.waited - b.tail).toNat ≤ (b.head - b.tail).toNat) && decide ((b.head - b.tail).toNat ≤ (b.acq - b.tail).toNat) &&
    decide ((b.acq - b.tail).toNat ≤ b.stages)

/-- The object with its counters put back: WAITED, ACQ, TAIL, HEAD. -/
def Cbuf.counters (b : Cbuf) (v : Nat) : Nat :=
  v % 2 ^ 96 + b.head.toNat * 2 ^ 96 + b.tail.toNat * 2 ^ 128 + b.acq.toNat * 2 ^ 160 + b.waited.toNat * 2 ^ 192 + v / 2 ^ 224 * 2 ^ 224

/-- Address of a stage. -/
def Cbuf.stage (b : Cbuf) (n : W32) : Nat := b.base + n.toNat % b.stages * b.ssize

/-- A buffer instruction at an address: `SPBOUND`, `CBMISUSE`, or its result and the object after it, in one step (R292). -/
def cbStep (s : State) (a : Reg) (f : Cbuf → Option (Nat × Cbuf)) : Got Nat :=
  let x := (s.core.rdS a).toNat
  if !(x % 64 == 0 && decide (x + 64 ≤ s.spEnd s.cur)) then .stop (s.linkBoundAt x)
  else if badIn s.core.badScratch x 64 then .stop (s.raise cECC 4 0 (BitVec.ofNat 64 x))
  else
    let v := loadNat s s.core x 64
    let b := cbufOf v
    if !(b.ok (s.spEnd s.cur)) then .stop (s.raiseL cCBMISUSE x)
    else
      match f b with
      | none => .stop (s.raiseL cCBMISUSE x)
      | some (r, b1) => .ok ((s.putAt s.cur x (leBytes 64 (b1.counters v))).touch .buffer 4 x 64) r

/-- The object that a buffer instruction names, where its address is good and it is well formed. -/
def cbObj (s : State) (a : Reg) : Option Cbuf :=
  let x := (s.core.rdS a).toNat
  let b := cbufOf (loadNat s s.core x 64)
  if x % 64 == 0 && decide (x + 64 ≤ s.spEnd s.cur) && !(badIn s.core.badScratch x 64) && b.ok (s.spEnd s.cur) then some b else none

/-- `CBACQ` is held: no stage is free (R129). -/
def cbacqWaits (s : State) (a : Reg) : Bool := match cbObj s a with | none => false | some b => decide (b.stages ≤ (b.acq - b.tail).toNat)
/-- The remote commit of the stage that a `CBWAIT` would hand out. -/
def Core.commitOf (c : Core) (obj : Nat) (stage : W32) : Option Commit := c.commits.find? (fun m => m.obj == obj && m.stage == stage.toNat)
/-- `CBWAIT` is held: no stage has been committed, or only in this tick (R129, R292). -/
def cbwaitWaits (s : State) (a : Reg) : Bool :=
  match cbObj s a with
  | none => false
  | some b => decide (b.head = b.waited) ||
    (match s.core.commitOf (s.core.rdS a).toNat b.waited with | none => false | some m => decide (s.tick ≤ m.tick))

def execCbacq (d a : Reg) (s : State) : Out :=
  if cbacqWaits s a then .next s
  else
    match cbStep s a (fun b => some (b.stage b.acq, { b with acq := b.acq + 1 })) with
    | .stop s1 => .next s1
    | .ok s1 v => .next (s1.setS d (BitVec.ofNat 64 v))
def execCbcomLocal (a : Reg) (s : State) : Out :=
  match cbStep s a (fun b => if b.head = b.acq then none else some (0, { b with head := b.head + 1 })) with
  | .stop s1 => .next s1
  | .ok s1 _ => .next s1
def execCbwait (d a : Reg) (s : State) : Out :=
  if cbwaitWaits s a then .next s
  else
    match cbStep s a (fun b => some (b.stage b.waited, { b with waited := b.waited + 1 })) with
    | .stop s1 => .next s1
    | .ok s1 v =>
      let x := (s.core.rdS a).toNat
      let st := match cbObj s a with | none => 0 | some b => b.waited
      .next ((s1.setS d (BitVec.ofNat 64 v)).onCore (fun c =>
        match c.commitOf x st with
        | none => c
        | some m => { c.observe m.core m.interval with commits := c.commits.filter (fun e => e != m) }))
def execCbrel (a : Reg) (s : State) : Out :=
  match cbStep s a (fun b => if b.tail = b.waited then none else some (0, { b with tail := b.tail + 1 })) with
  | .stop s1 => .next s1
  | .ok s1 _ => .next s1
def execCbcomRemote (a b : Reg) (f : BitVec 2) (port : BitVec 4) (s : State) : Out :=
  let n := foldBeats f
  let x := (s.core.rdS b).toNat
  if !(s.core.bound port.toNat) then .next s.linkBound
  else if !(x % 64 == 0 && decide (x + 64 ≤ s.spEnd s.cur)) then .next (s.linkBoundAt x)
  else if lsendWaits s port n then .next s
  else .next (s.sendOp port.toNat n (.commit x (s.core.sendWords a f)) true)

/-! ### Arrivals at a target (R276 to R280, R293, R313) -/

/-- The cells of a row of a tile. -/
def rowCells (row : Nat) (bs : List Byte) : List RegCell := (List.range 128).map (fun i => .t (row * 128 + i) (bs.getD i 0))
/-- What a part of a load writes to the register files, and its flags. -/
def LoadPart.cells (p : LoadPart) : List RegCell × Flags :=
  match p.dest with
  | .v i signed => ([.v i (extend32 p.bytes.length signed (leNat p.bytes))], 0)
  | .mesh _ _ _ => ([], 0)
  | .tile row code cols wm2 =>
    let x := tileRowOf ⟨code, cols, 0, wm2⟩ p.bytes
    ((match x.1 with | none => [] | some e => [.te row e]) ++ rowCells row x.2.1, x.2.2)
  | .window row => (rowCells row p.bytes, 0)
  | .lane set l => ((wordsOf p.bytes).zipIdx.map (fun w => .x (set * 2048 + w.2 * 16 + l) w.1), 0)
/-- A part of a load that finds bytes written at `x`. -/
def LoadPart.see (x : Nat) (bs : List Byte) (p : LoadPart) : LoadPart :=
  { p with bytes := p.bytes.zipIdx.map (fun b =>
      if x ≤ p.addr + b.2 ∧ p.addr + b.2 < x + bs.length then bs.getD (p.addr + b.2 - x) 0 else b.1) }
/-- What a load reads once bytes have been written at `x`: its groups or chunks to come see them (R153, R181, R303). -/
def Fly.hit (f : Fly) (beats x : Nat) (bs : List Byte) : List (List LoadPart) :=
  f.loads.zipIdx.map (fun g => if f.steps beats ≤ g.2 then g.1.map (LoadPart.see x bs) else g.1)
/-- The cells that a load is to write, before and after. -/
def Fly.swaps (f : Fly) (after : List (List LoadPart)) : List (RegCell × RegCell) :=
  (f.loads.flatten.flatMap (fun p => p.cells.1)).zip (after.flatten.flatMap (fun p => p.cells.1))
/-- A load in flight with what it now reads. -/
def Fly.reads (f : Fly) (after : List (List LoadPart)) : Fly :=
  let sw := f.swaps after
  { f with
    loads := after
    new := f.new.map (fun g => g.map (fun c => match sw.find? (fun e => e.2.key == c.key) with | none => c | some e => e.2))
    flags := if f.op = 1 then after.flatten.foldl (fun a p => a ||| p.cells.2) 0 else f.flags }
/-- A mesh entry that a load sends, with what it now reads. -/
def MeshEntry.reads (id dir : Nat) (after : List LoadPart) (e : MeshEntry) : MeshEntry :=
  if e.id ≠ id then e
  else { e with words := after.foldl (fun ws p => match p.dest with
      | .mesh d i signed => if d = dir then ws.set i (extend32 p.bytes.length signed (leNat p.bytes)) else ws
      | _ => ws) e.words }
/-- The effect on a core of bytes written at `x` by another while a load of it is in flight. -/
def Core.seeFly (c : Core) (x : Nat) (bs : List Byte) (f : Fly) : Core :=
  let after := f.hit c.beats x bs
  if after = f.loads then c
  else
    let g := f.reads after
    let c1 := { c with meshSend := c.meshSend.map (fun q => (q.1, q.2.map (MeshEntry.reads f.id q.1 after.flatten))) }
    if f.kept.isSome then c1
    else { c1 with
      regs := (f.swaps after).foldl (fun r e => if r.cell e.1.key = e.1 then r.putCell e.2 else r) c1.regs
      flagQ := if g.flags = f.flags then c1.flagQ
        else c1.flagQ.erase (f.flagAt, f.flags) ++ (if g.flags = 0 then [] else [(f.flagAt, g.flags)]) }
/-- The same for the note of the load. -/
def Fly.see (f : Fly) (beats x : Nat) (bs : List Byte) : Fly := if f.loads = [] then f else f.reads (f.hit beats x bs)
/-- Loads in flight of a core see bytes that another writes at `x`. -/
def Core.see (c : Core) (x : Nat) (bs : List Byte) : Core :=
  let c1 := ([c.vfly, c.tfly, c.vkept, c.tkept].filterMap id).foldl (fun c f => c.seeFly x bs f) c
  { c1 with
    vfly := c.vfly.map (fun f => f.see c.beats x bs), tfly := c.tfly.map (fun f => f.see c.beats x bs)
    vkept := c.vkept.map (fun f => f.see c.beats x bs), tkept := c.tkept.map (fun f => f.see c.beats x bs) }

/-- What the stores in flight of a core have still to write. -/
def Fly.toCome (f : Option Fly) (beats : Nat) : List (Nat × Byte × Byte) :=
  match f with
  | none => []
  | some x => if x.kept.isSome then [] else (x.mem.drop (x.steps beats)).flatten
def Core.toCome (c : Core) : List (Nat × Byte × Byte) := Fly.toCome c.vfly c.beats ++ Fly.toCome c.tfly c.beats
/-- A byte as its bank holds it: before the stores in flight that have not reached it (R153, R181). -/
def Core.bankByte (c : Core) (a : Nat) : Byte :=
  match c.toCome.find? (fun w => w.1 == a) with | none => Memory.byte c.scratch a | some w => w.2.1
/-- The little-endian number that `n` bytes hold in their banks. -/
def Core.bankLoad (c : Core) (a n : Nat) : Nat := leNat ((List.range n).map (fun i => c.bankByte (a + i)))
/-- A byte is written under the first store of some that has still to write it; whether there is one. -/
def underBytes (a : Nat) (b : Byte) : List (Nat × Byte × Byte) → List (Nat × Byte × Byte) × Bool
  | [] => ([], false)
  | w :: r => if w.1 = a then ((a, b, w.2.2) :: r, true) else let q := underBytes a b r; (w :: q.1, q.2)
/-- The same for the beats of a store. -/
def underBeats (a : Nat) (b : Byte) : List (List (Nat × Byte × Byte)) → List (List (Nat × Byte × Byte)) × Bool
  | [] => ([], false)
  | g :: r => let q := underBytes a b g; if q.2 then (q.1 :: r, true) else let t := underBeats a b r; (g :: t.1, t.2)
/-- The same for an operation in flight. -/
def Fly.under (a : Nat) (b : Byte) (beats : Nat) (f : Option Fly) : Option Fly × Bool :=
  match f with
  | none => (none, false)
  | some x =>
    if x.kept.isSome then (some x, false)
    else
      let n := x.steps beats
      let q := underBeats a b (x.mem.drop n)
      (some { x with mem := x.mem.take n ++ q.1 }, q.2)
/-- A byte is written in a bank under the stores in flight of the core. -/
def Core.setUnder (c : Core) (a : Nat) (b : Byte) : Core :=
  let q := Fly.under a b c.beats c.vfly
  if q.2 then { c with vfly := q.1 } else { c with tfly := (Fly.under a b c.beats c.tfly).1 }
/-- Bytes as a core's scratchpad has them once its stores in flight are done, where another writes them at `x` now. -/
def Core.overlaid (c : Core) (x : Nat) (bs : List Byte) : List Byte :=
  let w := c.toCome
  if w = [] then bs else bs.zipIdx.map (fun b => if w.any (fun e => e.1 == x + b.2) then Memory.byte c.scratch (x + b.2) else b.1)
/-- Bytes that another writes at `x` go under the stores in flight, and loads in flight see them. -/
def Core.meet (c : Core) (x : Nat) (bs : List Byte) : Core :=
  bs.zipIdx.foldl (fun c b => c.setUnder (x + b.2) b.1) (c.see x bs)

/-- Another core's write updates the shadows of the sectors it covers (R313). -/
def shadowFrom (c : Core) (y : Nat) (i : Word) (atom : Bool) (lo : Nat) : Nat → Core
  | 0 => c
  | n + 1 => shadowFrom { c with shadows := SMap.set (0, 0#64, false) c.shadows lo (y + 1, i, atom) } y i atom (lo + 1) n

/-- Another core has written sectors while an operation is in flight, or stopped. -/
def Fly.meets (x n : Nat) (f : Fly) : Fly := { f with met := (f.met ++ List.range' (x / 64) (sectors x n)).dedup }
/-- The same for the operations of a core. -/
def Core.meets (c : Core) (x n : Nat) : Core :=
  { c with vfly := c.vfly.map (Fly.meets x n), tfly := c.tfly.map (Fly.meets x n), vkept := c.vkept.map (Fly.meets x n), tkept := c.tkept.map (Fly.meets x n) }

/-- Bytes that a remote operation writes at a core. -/
def State.remotePut (s : State) (k x : Nat) (bs : List Byte) (y : Nat) (i : Word) (atom : Bool) : State :=
  (((s.onCoreAt k (fun c => c.meet x bs)).putAt k x ((s.coreAt k).overlaid x bs))).onCoreAt k (fun c =>
    (shadowFrom c y i atom (x / 64) (sectors x bs.length)).meets x bs.length)

/-- A fault of an arrival, in the target core (R278, R293). -/
def State.raiseAtTarget (s : State) (k : Nat) (code : Byte) (elem addr : Nat) : State :=
  s.raiseAt k { code := code, row := 0, elem := BitVec.ofNat 64 elem, slot := 5, addr := BitVec.ofNat 64 addr }

/-- The new word of a remote atomic (R279). -/
def amoWord (op : Nat) (o u : W32) : W32 :=
  match op with
  | 0 => o + u
  | 1 => BitVec.ofNat 32 (faddRne o.toNat u.toNat)
  | 2 => if u.toInt < o.toInt then u else o
  | _ => if o.toInt < u.toInt then u else o

/-- The bytes of some words. -/
def wordBytes (ws : List W32) : List Byte := ws.flatMap (fun w => leBytes 4 w.toNat)

/-- Bytes of an entry of a write or atomic: address and number. -/
def LOp.entryArea (x : Nat) (ws : List W32) (n : Nat) : Nat × Nat := (x + 32 * n, 4 * min 8 (ws.length - 8 * n))
/-- What entry n of a write or an atomic, or a commit's object, asks of the banks; a message asks for none. -/
def LOp.ask (op : LOp) (n : Nat) : Ask :=
  match op with
  | .send _ => {}
  | .put x ws => ⟨[LOp.entryArea x ws n], false⟩
  | .amo _ x ws => ⟨[LOp.entryArea x ws n], true⟩
  | .commit x _ => ⟨[(x, 64)], true⟩

/-- Entry n of a write or atomic is applied at its banks, each word of an atomic in one step (R141, R278, R279); an uncorrectable unit
stops it (R180). -/
def State.landEntry (s : State) (k : Nat) (op : LOp) (y : Nat) (i : Word) (n : Nat) : State :=
  let c := s.coreAt k
  match op with
  | .put x ws =>
    let a := LOp.entryArea x ws n
    if badPartly c.badScratch a.1 a.2 then s.raiseAtTarget k cECC 0 a.1
    else s.remotePut k a.1 (wordBytes ((ws.drop (8 * n)).take 8)) y i false
  | .amo o x ws =>
    let a := LOp.entryArea x ws n
    if badIn c.badScratch a.1 a.2 then s.raiseAtTarget k cECC 0 a.1
    else s.remotePut k a.1 (wordBytes (((ws.drop (8 * n)).take 8).zipIdx.map (fun w => amoWord o (BitVec.ofNat 32 (c.bankLoad (a.1 + 4 * w.2) 4)) w.1))) y i true
  | _ => s

/-- Entries from n on are applied, as far as the banks grant them in this tick; how many have been. -/
def State.landEntries (k : Nat) (op : LOp) (y : Nat) (i : Word) : Nat → Nat → State → State × Nat
  | 0, n, s => (s, n)
  | fuel + 1, n, s =>
    let tick := (s.dieAt (keyDie k)).tick
    if (s.coreAt k).grants tick [op.ask n] then
      State.landEntries k op y i fuel (n + 1) ((s.onCoreAt k (fun c => c.takeBanks tick [op.ask n])).landEntry k op y i n)
    else (s, n)

/-- A message reaches a receive queue where there is room for it; its first entry names the sender (R276, R312). -/
def State.landMessage (s : State) (k rport : Nat) (es : List (List W32)) (y : Nat) (i : Word) : Option State :=
  let q := (s.coreAt k).recv rport
  if Config.recvEntries < q.length + es.length then none
  else
    let new := es.zipIdx.map (fun e => ({ words := e.1, sender := if e.2 = 0 then some (y, i) else none } : Entry))
    some (s.onCoreAt k (fun c => { c with recvQ := SMap.set [] c.recvQ rport (q ++ new) }))

/-- A commit appends a stage to the buffer whose object lies at an address, in one step, where a stage is free and the banks grant it
(R293). -/
def State.landCommit (s : State) (k x : Nat) (ws : List W32) (y : Nat) (i : Word) : Option State :=
  let c := s.coreAt k
  let tick := (s.dieAt (keyDie k)).tick
  if s.spEnd k < x + 64 then some (s.raiseAtTarget k cSPBOUND 0 x)
  else if badIn c.badScratch x 64 then some (s.raiseAtTarget k cECC 0 x)
  else
    let v := c.bankLoad x 64
    let b := cbufOf v
    let asks : List Ask := [⟨[(x, 64)], true⟩, ⟨[(b.stage b.acq, 4 * ws.length)], false⟩]
    if !(b.ok (s.spEnd k)) || decide (b.ssize < 4 * ws.length) then some (s.raiseAtTarget k cCBMISUSE x 0)
    else if b.head ≠ b.acq ∨ b.stages ≤ (b.acq - b.tail).toNat ∨ c.grants tick asks = false then none
    else
      let s0 := s.onCoreAt k (fun c => c.takeBanks tick asks)
      let s1 := s0.remotePut k (b.stage b.acq) (wordBytes ws) y i false
      let s2 := s1.remotePut k x (leBytes 64 ({ b with acq := b.acq + 1, head := b.head + 1 }.counters v)) y i true
      some (s2.onCoreAt k (fun c => { c with commits := c.commits ++ [⟨x, b.acq.toNat, y, i, tick⟩] }))

/-- The address of a write or atomic that does not fit below an end of scratchpad (R278). -/
def LOp.beyond (op : LOp) (top : Nat) : Option Nat :=
  match op with
  | .put x ws => if top < x + 4 * ws.length then some x else none
  | .amo _ x ws => if top < x + 4 * ws.length then some x else none
  | _ => none

/-- What an arrival comes to: it waits, its first entries have been applied, or it is over. -/
inductive Landing where
  | waits
  | part (s : State) (n : Nat)
  | over (s : State)

/-- An operation of a core `y` with interval `i`, some of whose entries have been applied, arrives at a core (R276 to R279, R293). -/
def State.arrival (s : State) (k rport : Nat) (op : LOp) (applied y : Nat) (i : Word) : Landing :=
  match op with
  | .send es => match s.landMessage k rport es y i with | none => .waits | some s1 => .over s1
  | .commit x ws => match s.landCommit k x ws y i with | none => .waits | some s1 => .over s1
  | .put _ ws | .amo _ _ ws =>
    match op.beyond (s.spEnd k) with
    | some x => .over (s.raiseAtTarget k cSPBOUND 0 x)
    | none =>
      let n := (ws.length + 7) / 8
      let r := State.landEntries k op y i (n - applied) applied s
      if r.2 = n then .over r.1 else if r.2 = applied then .waits else .part r.1 r.2

/-- The operations of a queue that are first on their circuits, due, and of a kind. -/
def headsOf (kind : LOp → Bool) (tick : Nat) : List (Bool × Nat × Nat × Nat) → List Sent → List Sent
  | _, [] => []
  | seen, m :: r =>
    let rest := headsOf kind tick (m.circuit :: seen) r
    if !(seen.contains m.circuit) && kind m.op && !m.far && decide (m.taken = m.entries) && decide (m.due ≤ tick) then m :: rest else rest

/-- An arrival that banks grant only after the core-side access of the tick: one of a write, atomic or commit that has waited for less
than 4 ticks (R179). -/
def Sent.yields (m : Sent) (tick : Nat) : Bool := (match m.op with | .send _ => false | _ => true) && decide (tick < m.due + 4)
/-- Those of some arrivals that do not yield, where there are any. -/
def firstServed (tick : Nat) (ms : List Sent) : List Sent :=
  let os := ms.filter (fun m => !(m.yields tick))
  if os.isEmpty then ms else os

/-- The same copy of an operation. -/
def Sent.same (m e : Sent) : Bool := e.no == m.no && e.circuit == m.circuit
/-- A copy leaves a queue. -/
def dropSent (m : Sent) (q : List Sent) : List Sent := q.eraseP (fun e => e.same m)
/-- Entries of a copy have been applied. -/
def markSent (m : Sent) (n : Nat) : List Sent → List Sent
  | [] => []
  | e :: r => if e.same m then { e with applied := n } :: r else e :: markSent m n r

/-- The skid of a core of a halted context is over: what comes to it is discarded (R282). -/
def Core.deaf (c : Core) : Bool := decide (c.run = .halted) && c.halt.isNone

/-- A copy of an operation arrives at its target: none where it waits. One towards a core that has left, or whose skid is over, is discarded
(R280, R282). -/
def State.deliverOne (s : State) (k port : Nat) (m : Sent) : Option State :=
  let c := s.coreAt k
  let onQ := fun (t : State) (f : List Sent → List Sent) => t.onCoreAt k (fun c => { c with sends := SMap.set [] c.sends port (f (c.sendQ port)) })
  let lost := some ((onQ s (dropSent m)).onCoreAt k (fun c => { c with discarded := c.discarded + m.entries }))
  match s.launchCore c.ctx c.lid m.core with
  | none => lost
  | some j =>
    if (s.coreAt j).deaf then lost
    else
      match s.arrival j m.rport m.op m.applied c.lcore m.interval with
      | .waits => none
      | .part s1 n => some (onQ s1 (markSent m n))
      | .over s1 => some (onQ s1 (dropSent m))

/-- One copy that is first on its circuit arrives, where it is due and its target can take it. -/
def State.landCopy (s : State) (k port no : Nat) (circuit : Bool × Nat × Nat × Nat) : State :=
  match (headsOf (fun _ => true) (s.dieAt (keyDie k)).tick [] ((s.coreAt k).sendQ port)).find? (fun m => m.no == no && m.circuit == circuit) with
  | none => s
  | some m => (s.deliverOne k port m).getD s

/-- Copies of operations arrive, one after the other; whether any did. -/
def State.deliverAll (k port : Nat) : List Sent → State × Bool → State × Bool
  | [], q => q
  | m :: r, q => State.deliverAll k port r (match q.1.deliverOne k port m with | none => q | some s1 => (s1, true))

/-- The operations of one kind that a core sent on a port arrive, where they are due and their targets can take them; those that do not yield go
first (R179). -/
def deliver (s : State) (die : DieNo) (core : CoreNo) (port : BitVec 4) (kind : LOp → Bool) : Out :=
  let k := coreKey die core
  let tick := (s.dieAt die.toNat).tick
  let r := State.deliverAll k port.toNat (firstServed tick (headsOf kind tick [] ((s.coreAt k).sendQ port.toNat))) (s, false)
  if r.2 then .next r.1 else .refused .notEnabled

def execMessageDelivery (die : DieNo) (core : CoreNo) (port : BitVec 4) (s : State) : Out :=
  deliver s die core port (fun o => match o with | .send _ => true | _ => false)
def execRemoteWrite (die : DieNo) (core : CoreNo) (port : BitVec 4) (s : State) : Out :=
  deliver s die core port (fun o => match o with | .put _ _ => true | _ => false)
def execRemoteAtomic (die : DieNo) (core : CoreNo) (port : BitVec 4) (s : State) : Out :=
  deliver s die core port (fun o => match o with | .amo _ _ _ => true | _ => false)
def execRemoteCommit (die : DieNo) (core : CoreNo) (port : BitVec 4) (s : State) : Out :=
  deliver s die core port (fun o => match o with | .commit _ _ => true | _ => false)

/-- A mesh entry reaches the neighbour's receive queue (R154). -/
def execMeshDelivery (die : DieNo) (core : CoreNo) (dir : BitVec 2) (s : State) : Out :=
  let k := coreKey die core
  let d := dir.toNat
  match SMap.get [] (s.coreAt k).meshSend d with
  | [] => .refused .notEnabled
  | e :: r =>
    let s1 := s.onCoreAt k (fun c => { c with meshSend := SMap.set [] c.meshSend d r })
    if !(e.due.any (fun t => decide (t ≤ (s.dieAt die.toNat).tick))) then .refused .notEnabled
    else
      match s.dirTarget k d with
      | none => .next s1
      | some j =>
        let back := (d + 2) % 4
        let q := SMap.get [] (s.coreAt j).meshRecv back
        if 4 ≤ q.length then .refused .notEnabled
        else .next (s1.onCoreAt j (fun c => { c with meshRecv := SMap.set [] c.meshRecv back (q ++ [e.words]) }))

/-! ### Send stalls (R281) -/

/-- A send stall has lasted for LSTALL_LIMIT × 1,024 ticks: `LINKSTALL`. The slot is 4, 1 for a mesh direction (16 to 19), 0 for
`SPFENCE` and `EXIT`. -/
def execLinkstall (die : DieNo) (core : CoreNo) (s : State) : Out :=
  let k := coreKey die core
  let c := s.coreAt k
  if c.stall = 0 ∨ c.stall < c.lstall * 1024 ∨ c.halt.isSome then .refused .notEnabled
  else
    .next (s.raiseAt k { code := cLINKSTALL, row := c.pos.row, elem := BitVec.ofNat 64 c.stallPort, slot := c.stallSlot, addr := 0 })

/-! ### Circuits in a tick (R274) -/

/-- Entries in flight on a circuit. -/
def inFlight (l : List Sent) (id : Bool × Nat × Nat × Nat) : Nat :=
  ((l.filter (fun m => m.circuit == id)).map (fun m => m.taken - m.applied)).sum

/-- Each circuit of a port accepts an entry where it has room. -/
def acceptPort (all : List Sent) : List (Bool × Nat × Nat × Nat) → List Sent → List Sent
  | _, [] => []
  | served, m :: r =>
    if m.taken < m.entries && !(served.contains m.circuit) then
      (if inFlight all m.circuit < Config.circuitEntries then { m with taken := m.taken + 1 } else m) ::
        acceptPort all (m.circuit :: served) r
    else m :: acceptPort all served r

/-- A tick of the circuits of a core. -/
def Core.acceptSends (c : Core) : Core := { c with sends := c.sends.map (fun q => (q.1, acceptPort q.2 [] q.2)) }

end Sys2Proof.Machine
end

