-- ==== Sys2Proof/Machine/Loader.lean ====
section
/-! DEFINITION. The loader: header, sections and signature of an image, its row stream, the words of its rows, and the register and
occupancy checks on every path (R13 to R15, R27, R91 to R103, R117, R118, R271). -/

namespace Sys2Proof
open Sys2Proof.Machine

/-! ### Registers that an instruction reads and writes (R98, R99): file × 64 + number, files s, p, m, v, q, t -/

/-- A scalar register. -/
def rcS (r : BitVec 5) : Nat := r.toNat
/-- A predicate. -/
def rcP (r : BitVec 3) : Nat := 64 + r.toNat
/-- A mask. -/
def rcM (r : BitVec 3) : Nat := 128 + r.toNat
/-- A vector register. -/
def rcV (r : BitVec 5) : Nat := 192 + r.toNat
/-- An accumulator. -/
def rcQ (r : BitVec 3) : Nat := 256 + r.toNat
/-- A tile. -/
def rcT (r : BitVec 3) : Nat := 320 + r.toNat
/-- s0, p0 and m0: writes to them are discarded. -/
def rcFixed (n : Nat) : Bool := n == 0 || n == 64 || n == 128

/-- The registers that a word reads. DESIGN CHOICE (log 50): `VINS` writes one element and does not read its destination. -/
def Mn.reads (m : Mn) (w x : W32) : List Nat :=
  let sd := rcS (fD w)
  let sa := rcS (fA w)
  let sb := rcS (fB w)
  let vd := rcV (fD w)
  let va := rcV (fA w)
  let vb := rcV (fB w)
  let g := rcP (fG w)
  let mm := rcM (fM w)
  let pa := rcP (lo3 (fA w))
  let pb := rcP (lo3 (fB w))
  let ma := rcM (lo3 (fA w))
  let mb := rcM (lo3 (fB w))
  let qd := rcQ (lo3 (fD w))
  let qa := rcQ (lo3 (fA w))
  let td := rcT (lo3 (fD w))
  let ta := rcT (lo3 (fA w))
  let tb := rcT (lo3 (fB w))
  match m with
  | .add | .sub | .mul | .mulh | .mulhu | .div | .divu | .rem | .remu | .and | .or | .xor | .andn | .orn | .xnor | .shl | .shr
  | .sra | .ror | .min | .max | .minu | .maxu | .cmpeq | .cmpne | .cmplt | .cmpltu | .cmple | .cmpleu | .ldx | .aadd | .aaddw
  | .amin | .amax | .aswap | .aand | .aor | .afadd | .tdw | .eret | .mapw | .haltctx | .ctxsv | .ctxrs | .scrub | .assign => [g, sa, sb]
  | .acas | .stx => [g, sa, sb, sd]
  | .shli | .shri | .srai | .rori | .clz | .ctz | .popc | .brev | .sext8 | .sext16 | .sext32 | .zext8 | .zext16 | .zext32 | .tdr
  | .pset | .jmpr | .keyz => [g, sa]
  | .addi | .andi | .ori | .xori | .cmpieq | .cmpilt | .cmpiltu | .ldb | .ldbu | .ldh | .ldhu | .ldw | .ldwu | .ldd | .cwr
  | .trap => [sa]
  | .ldi | .lui | .ldk | .jmp | .call | .exit | .crd => []
  | .stb | .sth | .stw | .std => [sa, sd]
  | .sel => [g, rcP (lo3s (fSub w)), sa, sb]
  | .pand | .por | .pxor | .pandn => [g, pa, pb]
  | .pnot => [g, pa]
  | .pget => g :: (List.range 7).map (fun i => 65 + i)
  | .br => [rcP (fJp w)]
  | .loop => [sd]
  | .tdfence | .mapfence | .spfence | .syncmark | .rngs => [g]
  | .vadd | .vadds | .vaddsu | .vsub | .vsubs | .vsubsu | .vmul | .vmulh | .vmulhu | .vand | .vor | .vxor | .vandn | .vshl | .vshr
  | .vsra | .vmin | .vmax | .vminu | .vmaxu | .vcmpeq | .vcmpne | .vcmplt | .vcmpltu | .vcmple | .vcmpleu | .vfadd | .vfsub | .vfmul
  | .vfmin | .vfmax | .vfcmpeq | .vfcmplt | .vfcmple | .vfcmpun | .vcvtfb | .vperm | .vsel => [va, vb, mm]
  | .vfma | .vfnma | .vdot2 | .vdot4 | .vdot4us => [va, vb, vd, mm]
  | .vqma | .vqmai => [va, vb, qd, mm]
  | .vqnarf | .vqnars | .vqnarw => [qa, mm]
  | .vshli | .vshri | .vsrai | .vfabs | .vfneg | .vfsqrt | .vrcp | .vrsq | .vexp2 | .vlog2 | .vfloor | .vfceil | .vfrint | .vcvtfi
  | .vcvtfit | .vcvtif | .vcvtbfl | .vcvtbfh | .vqwf | .vqwi | .vcmpr | .vsegadd | .vsegfadd => [va, mm]
  | .vqclr | .viota | .vrng => [mm]
  | .vredadd | .vredfadd | .vredmin | .vredmax | .vredfmin | .vredfmax | .vextr | .vsortS | .vsortF | .vsortU | .vruns | .vbfpq
  | .vbfpx | .vt5up => [va]
  | .vt5pk => (List.range 5).map (fun i => va + i)
  | .vbcst | .mset | .vins => if m = .vbcst then [sa, mm] else [sa]
  | .vslup | .vsldn => [va, sb, mm]
  | .mand | .mor | .mxor => [ma, mb]
  | .mnot | .mpop | .mfirst | .mget => [ma]
  | .vldW | .vldH | .vldHu | .vldB | .vldBu => [sa, sb, mm]
  | .vstW | .vstH | .vstB => [sa, sb, vd, mm]
  | .vgath => [sa, vb, mm]
  | .vscat => [sa, vb, vd, mm]
  | .tld | .twin => [sa, sb]
  | .tst => [td, sa, sb]
  | .tzero | .xclr | .xswap => []
  | .tmmaBf16 | .tmmaBfp | .tmmaI8 | .tmmaBf16W | .tmmaBfpW | .tmmaI8W => [sd, ta, tb]
  | .ttrn => [ta]
  | .trowv => [ta, sb]
  | .tvrow => [va, sb]
  | .xsave | .xload => [sa]
  | .pcopy | .pgath | .pscanSumi | .pscanSumf | .pscanMin | .pscanMax | .pscanCount | .pfilt | .pput | .pupdAddi32 | .pupdAddf32
  | .pupdMini32 | .pupdMaxi32 | .pupdAnd | .pupdOr | .pupdXor | .pupdSwap | .pupdoAddf32 | .pupdoAddi32 | .pcmt | .padam | .pzero
  | .pzeroPhys | .phostIn | .phostOut | .pmatWrite | .pmatAccum => [sd, sa, sb, rcS (xC x), rcS (xE x)]
  | .preop | .pcanc | .twany | .twall | .tfirst | .tclr | .cwait => [sa]
  | .pfence | .prnd | .lrecv | .barDie | .barLaunch | .barSys | .baraDie | .baraLaunch | .baraSys | .barw | .tstmp => []
  | .lsendV => [va]
  | .lsendS | .cbacq | .cbcomLocal | .cbwait | .cbrel | .belay | .waitt | .launch | .ljoin => [sa]
  | .lput | .lamoAdd32 | .lamoFadd32 | .lamoMin32 | .lamoMax32 | .cbcomRemote => [va, sb]

/-- The registers that a word writes. -/
def Mn.writes (m : Mn) (w : W32) : List Nat :=
  let sd := rcS (fD w)
  let vd := rcV (fD w)
  match m with
  | .add | .sub | .addi | .ldi | .lui | .ldk | .mul | .mulh | .mulhu | .div | .divu | .rem | .remu | .and | .or | .xor | .andn | .orn
  | .xnor | .andi | .ori | .xori | .shl | .shr | .sra | .ror | .shli | .shri | .srai | .rori | .min | .max | .minu | .maxu | .clz
  | .ctz | .popc | .brev | .sext8 | .sext16 | .sext32 | .zext8 | .zext16 | .zext32 | .sel | .pget | .ldb | .ldbu | .ldh | .ldhu
  | .ldw | .ldwu | .ldd | .ldx | .aadd | .aaddw | .amin | .amax | .aswap | .aand | .aor | .afadd | .acas | .loop | .tdr | .crd | .rngs
  | .trap | .mapw | .haltctx | .ctxsv | .ctxrs | .keyz | .scrub | .assign | .vredadd | .vredfadd | .vredmin | .vredmax | .vredfmin
  | .vredfmax | .vextr | .mpop | .mfirst | .mget | .tfirst | .cbacq | .cbwait => [sd]
  | .cmpeq | .cmpne | .cmplt | .cmpltu | .cmple | .cmpleu | .cmpieq | .cmpilt | .cmpiltu | .pand | .por | .pxor | .pandn
  | .pnot => [rcP (lo3 (fD w))]
  | .pset => (List.range 7).map (fun i => 65 + i)
  | .call => [31]
  | .tstmp => [sd, sd + 1]
  | .vcmpeq | .vcmpne | .vcmplt | .vcmpltu | .vcmple | .vcmpleu | .vfcmpeq | .vfcmplt | .vfcmple | .vfcmpun | .mand | .mor | .mxor
  | .mnot | .mset | .vruns => [rcM (lo3 (fD w))]
  | .vqma | .vqmai | .vqclr | .vqwf | .vqwi => [rcQ (lo3 (fD w))]
  | .vsortS | .vsortF | .vsortU => [vd, vd + 1]
  | .vt5up => (List.range 5).map (fun i => vd + i)
  | .vadd | .vadds | .vaddsu | .vsub | .vsubs | .vsubsu | .vmul | .vmulh | .vmulhu | .vand | .vor | .vxor | .vandn | .vshl | .vshr
  | .vsra | .vshli | .vshri | .vsrai | .vmin | .vmax | .vminu | .vmaxu | .vfadd | .vfsub | .vfmul | .vfma | .vfnma | .vfmin | .vfmax
  | .vfabs | .vfneg | .vfsqrt | .vrcp | .vrsq | .vexp2 | .vlog2 | .vfloor | .vfceil | .vfrint | .vcvtfi | .vcvtfit | .vcvtif | .vcvtfb
  | .vcvtbfl | .vcvtbfh | .vdot2 | .vdot4 | .vdot4us | .vqnarf | .vqnars | .vqnarw | .vbcst | .vins | .viota | .vperm | .vslup
  | .vsldn | .vcmpr | .vsel | .vldW | .vldH | .vldHu | .vldB | .vldBu | .vgath | .vsegadd | .vsegfadd | .vrng | .vbfpq | .vbfpx
  | .vt5pk | .trowv | .lrecv => [vd]
  | .tld | .twin | .tzero | .ttrn | .tvrow => [rcT (lo3 (fD w))]
  | _ => []

/-- Latency of a word in beats (R117, R118). -/
def Mn.latency (m : Mn) (w : W32) : Nat :=
  let f := foldBeats (fFold w)
  match m with
  | .mul | .mulh | .mulhu | .vextr | .vins | .trowv | .tvrow => 3
  | .div | .divu | .rem | .remu => 20
  | .ldb | .ldbu | .ldh | .ldhu | .ldw | .ldwu | .ldd | .ldx | .tdr | .rngs | .cbacq | .cbwait => 4
  | .aadd | .aaddw | .amin | .amax | .aswap | .aand | .aor | .afadd | .acas => 6
  | .crd | .mapw | .tzero | .xclr | .xswap | .tfirst | .lrecv | .tstmp => 2
  | .vadd | .vadds | .vaddsu | .vsub | .vsubs | .vsubsu | .vand | .vor | .vxor | .vandn | .vshl | .vshr | .vsra | .vshli | .vshri
  | .vsrai | .vmin | .vmax | .vminu | .vmaxu | .vcmpeq | .vcmpne | .vcmplt | .vcmpltu | .vcmple | .vcmpleu | .mand | .mor | .mxor
  | .mnot | .mpop | .mfirst | .mset | .mget | .vbcst | .viota | .vsel | .vqclr | .vqwf | .vqwi => f + 1
  | .vmul | .vmulh | .vmulhu | .vrng => f + 3
  | .vfadd | .vfsub | .vfmul | .vfma | .vfnma | .vfmin | .vfmax | .vfcmpeq | .vfcmplt | .vfcmple | .vfcmpun | .vcvtfi | .vcvtfit
  | .vcvtif | .vcvtfb | .vcvtbfl | .vcvtbfh | .vqnarf | .vldW | .vldH | .vldHu | .vldB | .vldBu | .vbfpq | .vbfpx => f + 4
  | .vdot2 | .vdot4 | .vdot4us | .vqma | .vqmai => f + 5
  | .vfabs | .vfneg | .vfloor | .vfceil | .vfrint | .vperm | .vslup | .vsldn | .vcmpr | .vruns | .vqnars | .vqnarw => f + 2
  | .vfsqrt | .vrcp | .vrsq | .vexp2 | .vlog2 | .vredadd | .vredfadd | .vredmin | .vredmax | .vredfmin | .vredfmax | .vsegadd
  | .vsegfadd => f + 8
  | .vgath => 2 * f + 4
  | .vsortS | .vsortF | .vsortU => 24
  | .vt5pk | .vt5up => 10
  | .tld | .tst => 37
  | .twin => 36
  | .ttrn => 12
  | .xsave | .xload => 32
  | _ => 1

/-- Beats for which a word keeps its slot busy (R117, R118, R150). -/
def Mn.busy (m : Mn) (k : Slot) (w : W32) : Nat :=
  let f := foldBeats (fFold w)
  match m with
  | .div | .divu | .rem | .remu => 20
  | .vgath | .vscat => 2 * f
  | .vsortS | .vsortF | .vsortU => 24
  | .vt5pk | .vt5up => 10
  | .tld | .tst => 33
  | .twin | .xsave | .xload => 32
  | .ttrn | .tmmaBfp | .tmmaBfpW => 8
  | .tmmaBf16 | .tmmaI8 | .tmmaBf16W | .tmmaI8W => 4
  | .xclr | .xswap => 2
  | _ => if k = .v then f else 1

/-! ### Refusals (R68, R96, R101) -/

/-- Why an image is refused: the RESULT and what MBX_RES1 to MBX_RES3 hold. -/
structure LoadFault where
  code : Byte
  row : Nat := 0xFFFFFFFF
  slot : Nat := 0xFFFFFFFF
  reg : Nat := 0xFFFFFFFF
  deriving DecidableEq, Repr

/-- RESULT codes of the loader. -/
def ldBADOP : Byte := 0x10
def ldRESV : Byte := 0x11
def ldSLOT : Byte := 0x12
def ldLATENCY : Byte := 0x13
def ldBUSY : Byte := 0x14
def ldSIZE : Byte := 0x15
def ldVERSION : Byte := 0x16
def ldSIG : Byte := 0x17

/-- Number of a slot (R99). -/
def Slot.no : Slot → Nat
  | .s => 0 | .v => 1 | .t => 2 | .w => 3 | .l => 4

/-! ### Header and sections (R13 to R15, R27, R271, R272) -/

/-- The little-endian number in `n` bytes of an image. -/
def leAt (bs : List Byte) (off n : Nat) : Nat := leNat ((bs.drop off).take n)
/-- Bytes of an image are zero. -/
def zerosAt (bs : List Byte) (off n : Nat) : Bool := ((bs.drop off).take n).all (fun b => b == 0)

/-- A section-table entry. -/
structure Section where
  type : Nat
  off : Nat
  size : Nat
  count : Nat
  deriving DecidableEq, Repr

/-- The entries of the section table. -/
def sectionsOf (bs : List Byte) (n : Nat) : List Section :=
  (List.range n).map (fun i =>
    let x := 64 + 16 * i
    ⟨leAt bs x 1, leAt bs (x + 4) 4, leAt bs (x + 8) 4, leAt bs (x + 12) 4⟩)
/-- The section of a type. -/
def sectionOf (ss : List Section) (t : Nat) : Option Section := ss.find? (fun e => e.type == t)
/-- The bytes of a section. -/
def Section.bytes (bs : List Byte) (e : Section) : List Byte := (bs.drop e.off).take e.size

/-- The header's fields are within R13. -/
def headerOk (bs : List Byte) : Bool :=
  zerosAt bs 0x0F 1 && zerosAt bs 0x1B 1 && zerosAt bs 0x20 32 && decide (leAt bs 0x06 2 ≤ 1) &&
    decide (1 ≤ leAt bs 0x0C 2 ∧ leAt bs 0x0C 2 ≤ 16384) && decide (1 ≤ leAt bs 0x0E 1 ∧ leAt bs 0x0E 1 ≤ 5) &&
    leAt bs 0x14 4 % 4096 == 0 && decide (leAt bs 0x18 1 ≤ 32) && decide (leAt bs 0x19 1 ≤ 16) && decide (leAt bs 0x1A 1 ≤ 64) &&
    decide (leAt bs 0x1E 2 < leAt bs 0x0C 2)

/-- No two of some runs of bytes have one in common. -/
def runsApart : List (Nat × Nat) → Bool
  | [] => true
  | r :: rs => rs.all (fun q => !(decide (r.1 < q.1 + q.2 ∧ q.1 < r.1 + r.2))) && runsApart rs

/-- The section table is within R14 and R15. -/
def tableOk (bs : List Byte) (n : Nat) (ss : List Section) : Bool :=
  decide (64 + 16 * n ≤ bs.length) && (List.range n).all (fun i => zerosAt bs (65 + 16 * i) 3) &&
    ss.all (fun e => decide (1 ≤ e.type ∧ e.type ≤ 5) && decide (e.off + e.size ≤ bs.length)) &&
    decide ((ss.map (fun e => e.type)).Nodup) && (sectionOf ss 1).isSome &&
    runsApart ((0, 64 + 16 * n) :: (ss.filter (fun e => e.size != 0)).map (fun e => (e.off, e.size)))

/-- The descriptors of a TENSORS section, with their zero bytes checked. -/
def tensorsOf (b : List Byte) : Nat → Option (List (Byte × Desc))
  | 0 => some []
  | n + 1 =>
    if zerosAt b 1 7 && descZerosOk (b.drop 8) then
      (tensorsOf (b.drop 72) n).map (fun r => (BitVec.ofNat 8 (leAt b 0 1), descOfBytes ((b.drop 8).take 64)) :: r)
    else none

/-- The descriptors of an image are valid, as if written together into a table of zeros (R27). -/
def tensorsOk (ts : List (Byte × Desc)) : Bool :=
  decide ((ts.map (fun t => t.1)).Nodup) &&
    ts.all (fun t => t.2.ruleOk && (decide (t.2.fmt ≠ some .t5) ||
      (match ts.find? (fun u => u.1 == t.2.scaleTid) with | none => true | some u => t.2.scaleOk u.2)))

/-- The records of an INIT section that uses up its bytes: scratchpad address and data. DESIGN CHOICE (log 22): R15 pads a record to 8
bytes and does not say what the padding holds; the model takes it as reserved, so that a nonzero byte of it is refused. -/
def initsOf : Nat → List Byte → Option (List (Nat × List Byte))
  | 0, b => if b = [] then some [] else none
  | n + 1, b =>
    let len := leAt b 4 4
    let whole := 8 + (len + 7) / 8 * 8
    if decide (8 ≤ b.length) && decide (whole ≤ b.length) && zerosAt b (8 + len) (whole - 8 - len) then
      (initsOf n (b.drop whole)).map (fun r => (leAt b 0 4, (b.drop 8).take len) :: r)
    else none

/-- A target word is within R272; `tree` says that it stands in a port-15 record. -/
def targetOk (tree : Bool) (w : W32) : Bool :=
  let core := w.extractLsb' 13 10
  decide (w.extractLsb' 4 9 = 0#9) &&
    (if tgFar w then !(tgRel w) && decide (tgTrunk w ≤ 71) else decide (tgTrunk w = 0)) &&
    (if tgRel w then decide (-383 ≤ core.toInt ∧ core.toInt ≤ 383) else decide (core.toNat ≤ 383)) &&
    (if tree then tgFar w && decide (tgPort w ≤ 1) else decide (tgPort w ≤ 14))

/-- The records of a SWITCH section, with their fields checked. -/
def switchOf (b : List Byte) : Nat → Option (List Binding)
  | 0 => some []
  | n + 1 =>
    let port := leAt b 0 1
    let k := leAt b 1 1
    let ws := (List.range k).map (fun i => BitVec.ofNat 32 (leAt b (8 + 4 * i) 4))
    if decide (port ≤ 15) && decide (1 ≤ k ∧ k ≤ 4) && zerosAt b 2 6 && zerosAt b (8 + 4 * k) (16 - 4 * k) && ws.all (targetOk (port == 15)) then
      (switchOf (b.drop 24) n).map (fun r => ⟨port, ws⟩ :: r)
    else none
/-- The records together: ports 0 to 14 named once, at most two records of port 15, with at most one parent. -/
def switchOk (bs : List Binding) : Bool :=
  let tree := bs.filter (fun b => b.port == 15)
  decide (((bs.filter (fun b => b.port != 15)).map (fun b => b.port)).Nodup) && decide (tree.length ≤ 2) &&
    decide (((tree.flatMap (fun b => b.targets)).filter (fun w => tgPort w == 1)).length ≤ 1)

/-- The placement, size and count of the SIG section, and the signature (R15). -/
def sigOk (bs : List Byte) (ss : List Section) : Bool :=
  let signed := leAt bs 0x06 2 == 1
  match sectionOf ss 5 with
  | none => !signed
  | some g =>
    signed && decide (ss.getLast? = some g) && ss.all (fun e => e.type == 5 || decide (e.off + e.size ≤ g.off)) &&
      decide (g.off + g.size = bs.length) && decide (g.size = 512) && decide (g.count = 1) &&
      Config.rsaGood (g.bytes bs) (Config.sha512 (bs.take g.off))

/-! ### Words of rows (R97, R98) -/

/-- A word of a row with what the path checks need of it. -/
structure SlotUse where
  slot : Slot
  mn : Mn
  word : W32
  reads : List Nat
  writes : List Nat
  lat : Nat
  busy : Nat
  deriving DecidableEq, Repr

/-- The words of a row in slot order; those that are no instruction are left out. -/
def RowWords.slotUses (r : RowWords) : List SlotUse :=
  Slot.all.filterMap (fun k =>
    if r.uses k then
      let q := r.word k
      (lookup k q.1).map (fun m =>
        ⟨k, m, q.1, m.reads q.1 q.2, (m.writes q.1).filter (fun n => !(rcFixed n)), m.latency q.1, m.busy k q.1⟩)
    else none)

/-- The first slot of a row that a test picks. -/
def RowWords.firstSlot (r : RowWords) (f : Slot → W32 → W32 → Bool) : Option Nat :=
  (Slot.all.find? (fun k => r.uses k && f k (r.word k).1 (r.word k).2)).map Slot.no

/-- Check 6: opcodes and sub-functions are assigned, and none is a supervisor form. -/
def RowWords.badOp (r : RowWords) : Option Nat :=
  r.firstSlot (fun k w _ => match lookup k w with | none => true | some m => m.isSup)

/-- Whether an instruction sends on a port that must have a record (R271). -/
def Mn.sends : Mn → Bool
  | .lsendV | .lsendS | .lput | .lamoAdd32 | .lamoFadd32 | .lamoMin32 | .lamoMax32 | .cbcomRemote => true
  | _ => false

/-- Check 7: fields are zero and within their limits; 7 names the row header. -/
def RowWords.badField (r : RowWords) (bound : Nat → Bool) : Option Nat :=
  if r.header.extractLsb' 0 17 ≠ 0#17 then some 7
  else r.firstSlot (fun k w x =>
    match classify k w x with
    | .error _ => true
    | .ok m => m.sends && !(bound (fPort w).toNat))

/-- Check 8: a later word of a row writes a register that an earlier one writes. -/
def sameWrites : List Nat → List SlotUse → Option Nat
  | _, [] => none
  | seen, u :: us => if u.writes.any seen.contains then some u.slot.no else sameWrites (seen ++ u.writes) us

/-- The first row, from `n` on, at which a test finds a fault. -/
def firstRow {α : Type} (f : Nat → RowWords → Option α) : Nat → List RowWords → Option α
  | _, [] => none
  | n, r :: rs => match f n r with | some x => some x | none => firstRow f (n + 1) rs

/-! ### Paths (R99 to R103) -/

/-- The S word of a row, if it has one. -/
def sUse (us : List SlotUse) : Option SlotUse := us.find? (fun u => u.slot == .s)

/-- The signed offset of a direct branch. -/
def branchOff (u : SlotUse) : Option Int :=
  match u.mn with
  | .br | .jmp | .call => some (fJoff u.word).toInt
  | .loop => some (fImm u.word).toInt
  | _ => none
/-- A row may be followed by the next one: not after `JMP`, `EXIT`, a branch on p0 or a `JMPR` without a condition (log 22). -/
def fallsThrough (u : Option SlotUse) : Bool :=
  match u with
  | none => true
  | some u =>
    match u.mn with
    | .jmp | .exit | .call => false
    | .br => !(fJp u.word == 0 && fJn u.word == 0)
    | .jmpr => !(fG u.word == 0 && fN u.word == 0)
    | _ => true
/-- Whether a row holds a `CALL`. -/
def isCall (u : Option SlotUse) : Bool := match u with | none => false | some u => decide (u.mn = .call)
/-- Whether a row holds a `JMPR`. -/
def isJmpr (u : Option SlotUse) : Bool := match u with | none => false | some u => decide (u.mn = .jmpr)

/-- Check 9 at one row: a target outside the image, or a path that leaves its last row. -/
def leavesImage (count n : Nat) (r : RowWords) : Option LoadFault :=
  let u := sUse r.slotUses
  let t := match u with | none => none | some u => branchOff u
  let out := match t with | none => false | some o => decide ((n : Int) + o < 0 ∨ (count : Int) ≤ n + o)
  if out then some ⟨ldRESV, n, 0, 0xFFFFFFFF⟩
  else if n + 1 = count ∧ (fallsThrough u || isCall u) = true then some ⟨ldSIZE, n, 0, 0xFFFFFFFF⟩
  else none

/-- What is pending before a row: for each register the beats until it may be read and the slot of its writer, and for each slot the
beats until it is free. -/
structure Pend where
  regs : SMap (Nat × Nat) := []
  busy : SMap Nat := []
  deriving DecidableEq, Repr

/-- The later of two pending times; of equal ones the lower slot. -/
def laterOf (a b : Nat × Nat) : Nat × Nat := if a.1 < b.1 ∨ (a.1 = b.1 ∧ b.2 < a.2) then b else a
/-- What is pending on either of two paths. -/
def Pend.join (a b : Pend) : Pend :=
  { regs := b.regs.foldl (fun m e => SMap.set (0, 0) m e.1 (laterOf (SMap.get (0, 0) m e.1) e.2)) a.regs
    busy := b.busy.foldl (fun m e => SMap.set 0 m e.1 (max (SMap.get 0 m e.1) e.2)) a.busy }
/-- What is pending `d` beats later. -/
def Pend.after (p : Pend) (d : Nat) : Pend :=
  { regs := (p.regs.filter (fun e => decide (d < e.2.1))).map (fun e => (e.1, e.2.1 - d, e.2.2))
    busy := (p.busy.filter (fun e => decide (d < e.2))).map (fun e => (e.1, e.2 - d)) }
/-- What is pending as a row issues. -/
def Pend.issue (p : Pend) (us : List SlotUse) : Pend :=
  { regs := us.foldl (fun m u => u.writes.foldl (fun m r => SMap.set (0, 0) m r (u.lat, u.slot.no)) m) p.regs
    busy := us.foldl (fun m u => SMap.set 0 m u.slot.no u.busy) p.busy }

/-- A row with what the path checks need of it. -/
structure PathRow where
  uses : List SlotUse
  gap : Nat
  deriving DecidableEq, Repr

/-- The rows of an image for the path checks. -/
def pathRows (rows : List RowWords) : List PathRow := rows.map (fun r => ⟨r.slotUses, r.gap.toNat⟩)

/-- Add what is pending on a path into a row. -/
def flowTo (m : SMap (Option Pend)) (t : Nat) (p : Pend) : SMap (Option Pend) :=
  SMap.set none m t (some (match SMap.get none m t with | none => p | some q => q.join p))

/-- What a row passes on to the rows after it. DESIGN CHOICE (log 50): the taken edge of a branch counts as a path whatever its guard. -/
def flowRow (m : SMap (Option Pend)) (n : Nat) (r : PathRow) : SMap (Option Pend) :=
  match SMap.get none m n with
  | none => m
  | some p =>
    let q := p.issue r.uses
    let u := sUse r.uses
    let m1 := if fallsThrough u then flowTo m (n + 1) (q.after (1 + r.gap)) else m
    match u with
    | none => m1
    | some u => match branchOff u with
      | none => m1
      | some o => flowTo m1 ((n : Int) + o).toNat (q.after (4 + r.gap))

/-- One sweep over the rows. -/
def flowAll : Nat → List PathRow → SMap (Option Pend) → SMap (Option Pend)
  | _, [], m => m
  | n, r :: rs, m => flowAll (n + 1) rs (flowRow m n r)
/-- Sweeps until nothing changes. -/
def settleFlow (rows : List PathRow) : Nat → SMap (Option Pend) → SMap (Option Pend)
  | 0, m => m
  | fuel + 1, m =>
    let m1 := flowAll 0 rows m
    if m1 = m then m else settleFlow rows fuel m1
/-- What is pending before each row. A packet may name any row of the image as its launch's entry row (R17, R19), so a path with nothing
pending begins at every row, and with that at each ITGT row and after each `CALL` (R102). -/
def pendingAt (rows : List PathRow) : SMap (Option Pend) :=
  settleFlow rows (rows.length + 64) (rows.zipIdx.map (fun e => (e.2, some ({} : Pend))))

/-- The lowest number of a list. -/
def lowest : List Nat → Option Nat
  | [] => none
  | x :: xs => some (xs.foldl min x)

/-- Check 10 for a word: the lowest register that it reads too early, or writes out of order. -/
def tooEarly (p : Pend) (u : SlotUse) : Option Nat :=
  lowest ((u.reads.filter (fun r => decide (0 < (SMap.get (0, 0) p.regs r).1))) ++
    u.writes.filter (fun r => decide (0 < (SMap.get (0, 0) p.regs r).1 ∧ u.lat ≤ (SMap.get (0, 0) p.regs r).1)))

/-- Check 10 at a row. -/
def lateRow (m : SMap (Option Pend)) (n : Nat) (r : PathRow) : Option LoadFault :=
  match SMap.get none m n with
  | none => none
  | some p =>
    match (if isJmpr (sUse r.uses) then p.regs.head? else none) with
    | some e => some ⟨ldLATENCY, n, e.2.2, e.1⟩
    | none => r.uses.findSome? (fun u => (tooEarly p u).map (fun x => ⟨ldLATENCY, n, u.slot.no, x⟩))

/-- Check 11 at a row. -/
def busyRow (m : SMap (Option Pend)) (n : Nat) (r : PathRow) : Option LoadFault :=
  match SMap.get none m n with
  | none => none
  | some p =>
    match (if isJmpr (sUse r.uses) then p.busy.head? else none) with
    | some e => some ⟨ldBUSY, n, e.1, 0xFFFFFFFF⟩
    | none => (r.uses.find? (fun u => decide (0 < SMap.get 0 p.busy u.slot.no))).map (fun u => ⟨ldBUSY, n, u.slot.no, 0xFFFFFFFF⟩)

/-- The first row at which a path check finds a fault. -/
def firstPath (f : Nat → PathRow → Option LoadFault) : Nat → List PathRow → Option LoadFault
  | _, [] => none
  | n, r :: rs => match f n r with | some x => some x | none => firstPath f (n + 1) rs

/-! ### The checks in order (R96) -/

/-- Checks 6 to 11 on the rows of an image. -/
def rowFault (rows : List RowWords) (bound : Nat → Bool) : Option LoadFault :=
  let at_ := fun (code : Byte) (f : RowWords → Option Nat) =>
    firstRow (fun n r => (f r).map (fun k => (⟨code, n, k, 0xFFFFFFFF⟩ : LoadFault))) 0 rows
  let paths := pathRows rows
  let m := pendingAt paths
  (at_ ldBADOP RowWords.badOp).or ((at_ ldRESV (fun r => r.badField bound)).or ((at_ ldSLOT (fun r => sameWrites [] r.slotUses)).or
    ((firstRow (leavesImage rows.length) 0 rows).or ((firstPath (lateRow m) 0 paths).or (firstPath (busyRow m) 0 paths)))))

/-- Words of a list of bytes. -/
def wordsOf : Nat → List Byte → List W32
  | 0, _ => []
  | n + 1, b => BitVec.ofNat 32 (leAt b 0 4) :: wordsOf n (b.drop 4)

/-- The row stream of an image (R93). -/
def rowStream (bs : List Byte) (ss : List Section) : Option (List RowWords) :=
  match sectionOf ss 1 with
  | none => none
  | some e =>
    if e.size % 4 = 0 ∧ e.count = leAt bs 0x0C 2 then takeRows e.count (wordsOf (e.size / 4) (e.bytes bs)) else none

/-- A section of counted entries: its entries, or none where it is malformed; an absent section holds none. -/
def entriesIn {α : Type} (ss : List Section) (t : Nat) (bs : List Byte) (f : Nat → List Byte → Option (List α)) : Option (List α) :=
  match sectionOf ss t with
  | none => some []
  | some e => f e.count (e.bytes bs)

/-- The loader: what an image given with a byte length holds, or why it is refused. -/
def loadImage (len : Nat) (bs : List Byte) : LoadFault ⊕ Image :=
  let ss := sectionsOf bs (leAt bs 0x0E 1)
  if len < 64 ∨ leAt bs 0x10 4 ≠ len then .inl ⟨ldSIZE, 0xFFFFFFFF, 0xFFFFFFFF, 0xFFFFFFFF⟩
  else if leAt bs 0 4 ≠ 0x564C5254 then .inl ⟨ldRESV, 0xFFFFFFFF, 0xFFFFFFFF, 0xFFFFFFFF⟩
  else if leAt bs 4 2 ≠ 0x0100 then .inl ⟨ldVERSION, 0xFFFFFFFF, 0xFFFFFFFF, 0xFFFFFFFF⟩
  else if !(headerOk bs && tableOk bs (leAt bs 0x0E 1) ss) then .inl ⟨ldRESV, 0xFFFFFFFF, 0xFFFFFFFF, 0xFFFFFFFF⟩
  else
    let ts := entriesIn ss 2 bs (fun n b => if b.length = 72 * n then tensorsOf b n else none)
    let is := entriesIn ss 3 bs initsOf
    let bd := entriesIn ss 4 bs (fun n b => if b.length = 24 * n then switchOf b n else none)
    match ts, is, bd with
    | some ts, some is, some bd =>
      if !(tensorsOk ts && switchOk bd) then .inl ⟨ldRESV, 0xFFFFFFFF, 0xFFFFFFFF, 0xFFFFFFFF⟩
      else if !(sigOk bs ss) then .inl ⟨ldSIG, 0xFFFFFFFF, 0xFFFFFFFF, 0xFFFFFFFF⟩
      else
        match rowStream bs ss with
        | none => .inl ⟨ldSIZE, 0xFFFFFFFF, 0xFFFFFFFF, 0xFFFFFFFF⟩
        | some rows =>
          match rowFault rows (fun p => bd.any (fun b => b.port == p)) with
          | some f => .inl f
          | none =>
            .inr { id := BitVec.ofNat 32 (leAt bs 8 4), bytes := len, signed := leAt bs 6 2 == 1, rows := rows, entry := leAt bs 0x1E 2,
                   minScratch := leAt bs 0x14 4, minPasses := leAt bs 0x18 1, minLanes := leAt bs 0x19 1, minTags := leAt bs 0x1A 1,
                   minHeat := leAt bs 0x1C 2, tensors := ts, inits := is, switch := bd, digest := Config.sha512 bs }
    | _, _, _ => .inl ⟨ldRESV, 0xFFFFFFFF, 0xFFFFFFFF, 0xFFFFFFFF⟩

end Sys2Proof
end

