-- ==== Sys2Proof/Machine/Sweep.lean ====
section
/-! DEFINITION. The sweep: ticks of a die, visits of a stitch by the passes that ride its segment, and the close of a pass (R198 to
R210, R217, R218, R222, R228 to R242, R253 to R264, R380 to R382). -/

namespace Sys2Proof.Machine

/-! ### What a pass names in a stitch -/

/-- The virtual addresses at which the ranges found at open hold a stitch of the segment (R211). -/
def Pass.vas (p : Pass) (x : Nat) : List Nat :=
  p.ranges.filterMap (fun r =>
    if rgStitch r ≤ x ∧ x < rgStitch r + rgCount r then some (rgBase r + 128 * (x - rgStitch r)) else none)

/-- The parts of some runs that lie in a stitch. -/
def Pass.cutsOf (p : Pass) (es : List Ext) (x : Nat) : List Cut := (p.vas x).flatMap (fun va => es.flatMap (Ext.cut va))

/-- The parts of a pass's runs that lie in a stitch. -/
def Pass.cuts (p : Pass) (x : Nat) : List Cut :=
  if p.kind = .zeroPhys then (if p.sa ≤ x ∧ x < p.sa + p.sb then [⟨x - p.sa, 0, 0, 128, 0⟩] else [])
  else p.cutsOf p.exts x

/-- The stitch's virtual addresses at which the pass names bytes. -/
def Pass.hitVas (p : Pass) (x : Nat) : List Nat := (p.vas x).filter (fun va => p.exts.any (fun e => !(e.cut va).isEmpty))

/-- Number of the range stitch that a stitch of the segment is. -/
def Pass.numberOf (p : Pass) (x : Nat) : Nat := match p.hitVas x with | va :: _ => p.rangeNo va | [] => x - p.sa

/-- The bytes of a stitch. -/
def Seg.stitch (g : Seg) (x : Nat) : List Byte := Memory.bytes g.data (x * 128) 128

/-! ### Page checks (R217, R218, R229) -/

/-- The address lies in the page whose check stands. -/
def Pass.inPage (p : Pass) (va : Nat) : Bool := match p.page with | none => false | some q => decide (q.1 ≤ va ∧ va < q.1 + q.2)
/-- The range found at open is paged. -/
def Pass.pagedAt (p : Pass) (va : Nat) : Bool := p.ranges.any (fun r => rgCovers r va && rgPaged r)

/-- A pass that comes to a stitch of which no part lies in the page leaves it, and the result of its check with it (R216). -/
def Pass.leavesPage (p : Pass) (x : Nat) : Pass := if (p.vas x).any p.inPage then p else { p with page := none }

/-- The page checks of a stitch: the first failure and its address, or the page whose check stands. -/
def pageChecks (d : Die) (p : Pass) : List Nat → (Byte × Nat) ⊕ Option (Nat × Nat)
  | [] => .inr p.page
  | va :: r =>
    if p.inPage va || !(p.pagedAt va) then pageChecks d p r
    else
      match d.checkPage p.ctx.toNat p.kind.need va with
      | .inl code => .inl (code, va)
      | .inr pg => pageChecks d { p with page := pg } r

/-- A pass comes to a visit of a stitch of its segment: whether it makes the visit, and the pass. It waits for its lead and for its
next stitch, and parks where a page check fails (R204, R218, R220). -/
def Pass.approach (d : Die) (period x : Nat) (p : Pass) : Bool × Pass :=
  if p.lead ≠ 0 then (false, { p with lead := p.lead - 1 })
  else if (p.openPt + p.visits) % period ≠ x then (false, p)
  else
    match pageChecks d (p.leavesPage x) (p.hitVas x) with
    | .inl f => (false, { p with st := .parked, trap := some (f.1, p.rangeNo f.2), trapAt := d.tick, page := none })
    | .inr pg => (true, { p with page := pg })

/-! ### Captures (R207, R231 to R234, R255, R256) -/

/-- Part of a stitch's bytes. -/
def part (bs : List Byte) (pos n : Nat) : List Byte := (bs.drop pos).take n

/-- Captured bytes go to their places. -/
def captureBytes (bs : List Byte) (cs : List Cut) (m : Memory) : Memory :=
  cs.foldl (fun m c => Memory.setBytes m (c.place + c.lo) (part bs c.pos c.n)) m
/-- Captured elements, by item. -/
def captureElems (bs : List Byte) (cs : List Cut) (m : SMap Word) : SMap Word :=
  cs.foldl (fun m c => SMap.set 0 m c.k (BitVec.ofNat 64 (leNat (part bs c.pos c.n)))) m

/-- Add the lane's words to the partials of a group. -/
def addLane (got : SMap Word) (group : Nat) (lane : List W32) : SMap Word :=
  (List.range 128).foldl (fun m j =>
    let key := group * 128 + j
    SMap.set 0 m key (((SMap.get 0 m key).setWidth 32 + lane.getD j 0).setWidth 64)) got

/-- Header of burst h of a `PMAT`'s activations, with a length of 320 (R253). -/
def Pass.burst (p : Pass) (h : Nat) : BfpHeader := bfpHeader (BitVec.ofNat 32 (p.srcNat (p.sd + 8 + 324 * h) 4))
/-- The burst is read as a NaN gauge. -/
def Pass.badBurst (p : Pass) (h : Nat) : Bool := (p.burst h).bad || decide ((p.burst h).length ≠ 320)
/-- Mantissa k of burst h. -/
def Pass.mantissa (p : Pass) (h k : Nat) : Int := bfpMantissa (p.burst h).wm2 (Memory.byte p.src (p.sd + 12 + 324 * h + k))

/-- What five trits add for the inputs from 5q of group h (R255). -/
def tritSum (p : Pass) (h q : Nat) (ts : List Int) : Int :=
  (List.range 5).foldl (fun a i => a + ts.getD i 0 * p.mantissa h (5 * q + i)) 0

/-- A visit of weight stitch q of a group by a pass: the registers of its core and the pass; none for an illegal code (R255, R256,
R260). -/
def matVisit (r : Regs) (p : Pass) (bs : List Byte) (c : Cut) : Option (Regs × Pass) :=
  let q := c.lo / 128
  let h := c.k % p.groups
  match bs.mapM t5Decode with
  | none => none
  | some cols =>
    let same := p.inLane == c.k + 1
    let lane0 := r.lane p.set p.lane
    let got0 := if p.inLane = 0 || same then p.got else addLane p.got (p.inLane - 1) lane0
    let start := if same then lane0 else []
    let lane1 := (List.range 128).map (fun j => start.getD j 0 + BitVec.ofInt 32 (tritSum p h q (cols.getD j [])))
    let mask := SMap.get 0 p.done c.k ||| 2 ^ q
    let full := mask == 2 ^ 64 - 1 || q == 63
    let nz := (cols.map (fun ts => (ts.filter (fun t => t != 0)).length)).sum
    some (r.putLane p.set p.lane (if full then [] else lane1),
          { p with got := if full then addLane got0 c.k lane1 else got0, done := SMap.set 0 p.done c.k mask,
                   stored := p.stored ++ (if p.inLane = 0 || same then [] else [p.inLane - 1]) ++ (if full then [c.k] else []),
                   inLane := if full then 0 else c.k + 1, trits := p.trits + nz })

/-- The scales that a stitch holds. -/
def captureScales (bs : List Byte) (cs : List Cut) (m : SMap (BitVec 16)) : SMap (BitVec 16) :=
  cs.foldl (fun m c => SMap.set 0 m c.k (BitVec.ofNat 16 (leNat (part bs c.pos c.n)))) m

/-- A fault of a visit, in the context of the pass (R210, R260). -/
def State.visitFault (s : State) (k : Nat) (p : Pass) (code : Byte) (x : Nat) : State :=
  s.raiseAt k { code := code, row := p.row, elem := BitVec.ofNat 64 (p.numberOf x), slot := 3, addr := 0 }

/-- A reader captures a stitch as it stood before the visit (R207, R210). -/
def State.capture (s : State) (seg x : Nat) (bs : List Byte) (e : Nat × Nat) : State :=
  let p := s.passAt e.1 e.2
  let cs := p.cuts x
  if cs.isEmpty then s
  else if (s.segAt seg).bad.contains x then
    (s.setPassAt e.1 e.2 { p with lost := p.lost ++ (p.cutsOf p.scaleExts x).map (fun c => c.k) }).visitFault e.1 p cECC x
  else if p.kind.isMat then
    let step := fun (q : Option (Regs × Pass)) c => match q with | none => none | some (r, p) => matVisit r p bs c
    match (p.cutsOf p.weightExts x).foldl step (some ((s.coreAt e.1).regs, p)) with
    | none =>
      (s.setPassAt e.1 e.2 { p with
        illegal := p.illegal ++ (p.cutsOf p.weightExts x).map (fun c => c.k)
        scales := captureScales bs (p.cutsOf p.scaleExts x) p.scales }).visitFault e.1 p cBADTRIT x
    | some (r, p1) =>
      s.onCoreAt e.1 (fun c => { c with regs := r }.setPass e.2
        { p1 with scales := captureScales bs (p.cutsOf p.scaleExts x) p1.scales })
  else if p.kind.isScan || decide (p.kind = .filt) then s.setPassAt e.1 e.2 { p with got := captureElems bs cs p.got }
  else s.setPassAt e.1 e.2 { p with out := captureBytes bs cs p.out }

/-! ### Applications (R207, R208, R235 to R242) -/

/-- Order of passes within a visit (R208). -/
def PassKey.le (a b : PassKey) : Bool :=
  if a.sup != b.sup then b.sup
  else if a.launch ≠ b.launch then decide (a.launch < b.launch)
  else if a.lcore ≠ b.lcore then decide (a.lcore < b.lcore)
  else decide (a.seq ≤ b.seq)

/-- The new word of an update from the old and the value (R236). -/
def updWord (kind : PassKind) (o u : W32) : W32 :=
  match kind with
  | .updAddi | .updoAddi => o + u
  | .updAddf | .updoAddf => BitVec.ofNat 32 (faddRne o.toNat u.toNat)
  | .updMini => if u.toInt < o.toInt then u else o
  | .updMaxi => if o.toInt < u.toInt then u else o
  | .updAnd => o &&& u
  | .updOr => o ||| u
  | .updXor => o ^^^ u
  | _ => u

/-- The words of a part of a run: word offset in the stitch, and its place outside. -/
def Cut.words (c : Cut) : List (Nat × Nat) := (List.range (c.n / 4)).map (fun w => (c.pos + 4 * w, c.place + c.lo + 4 * w))

/-- An update's words in a stitch: the memory of the segment, and the old values (R236). -/
def applyUpd (p : Pass) (x : Nat) (cs : List Cut) (q : Memory × Memory) : Memory × Memory :=
  (cs.flatMap Cut.words).foldl (fun q w =>
    let a := x * 128 + w.1
    let o := memW q.1 a
    (Memory.store q.1 a (updWord p.kind o (BitVec.ofNat 32 (p.srcNat w.2 4))).toNat 4,
     if p.ret then Memory.store q.2 (p.se + (w.2 - p.sd)) o.toNat 4 else q.2)) q

/-- What a `PUPDO` stages in a stitch (R238). -/
def stageUpdo (p : Pass) (x : Nat) (cs : List Cut) : List Contribution :=
  cs.flatMap (fun c => c.words.map (fun w =>
    { ctx := p.ctx, tid := p.tid, word := x * 32 + w.1 / 4, u := BitVec.ofNat 32 (p.srcNat w.2 4), fp := decide (p.kind = .updoAddf),
      key := p.key, k := c.k }))

/-- Entries that a `PUPDO` has reserved become fewer by one. -/
def release1 (key : PassKey) (ctx : Byte) : List (PassKey × Byte × Nat) → List (PassKey × Byte × Nat)
  | [] => []
  | (k, c, n) :: r => if k = key ∧ c = ctx then (if n ≤ 1 then r else (k, c, n - 1) :: r) else (k, c, n) :: release1 key ctx r

/-- A `PCMT` commits in a stitch: the contributions of its rows' words, in order (R239). -/
def commit (p : Pass) (x : Nat) (cs : List Cut) (g : Seg) : Seg :=
  let ws := (cs.flatMap Cut.words).map (fun w => x * 32 + w.1 / 4)
  let hit := fun (e : Contribution) => e.ctx == p.ctx && ws.contains e.word && p.elig.contains e.key
  let es := (g.ord.filter hit).insertionSort (fun a b => (if a.key = b.key then decide (a.k ≤ b.k) else a.key.le b.key) = true)
  { g with
    ord := g.ord.filter (fun e => !(hit e))
    reserved := es.foldl (fun r e => release1 e.key e.ctx r) g.reserved
    data := es.foldl (fun m e => Memory.store m (4 * e.word)
      (updWord (if e.fp then .updAddf else .updAddi) (memW m (4 * e.word)) e.u).toNat 4) g.data }

/-- One AdamW element: p, m and v from the gradient and the block of hyper-parameters (R240). -/
def adamElem (hp : Nat → Nat) (g p m v : Nat) : Nat × Nat × Nat :=
  let add := fun (a b : Nat) => (fpAdd f32 rneMode a b).1
  let sub := fun (a b : Nat) => (fpSub f32 rneMode a b).1
  let mul := fun (a b : Nat) => (fpMul f32 rneMode a b).1
  let div := fun (a b : Nat) => (fpDiv f32 rneMode a b).1
  let sqrt := fun (a : Nat) => (fpSqrt f32 rneMode a).1
  let m1 := add (mul (hp 1) m) (mul (hp 2) g)
  let v1 := add (mul (hp 3) v) (mul (hp 4) (mul g g))
  let u := div (mul m1 (hp 7)) (add (sqrt (mul v1 (hp 8))) (hp 5))
  (sub p (mul (hp 0) (add u (mul (hp 6) p))), m1, v1)

/-- A `PADAM`'s rows in a stitch. -/
def applyAdam (p : Pass) (x : Nat) (cs : List Cut) (m : Memory) : Memory :=
  let hp := fun i => p.srcNat (p.se + 4 * i) 4
  cs.foldl (fun m c => (List.range 10).foldl (fun m j =>
    let a := x * 128 + c.pos + 12 * j
    let r := adamElem hp (p.srcNat (p.sd + 40 * c.k + 4 * j) 4) (Memory.load m a 4) (Memory.load m (a + 4) 4) (Memory.load m (a + 8) 4)
    Memory.store (Memory.store (Memory.store m a r.1 4) (a + 4) r.2.1 4) (a + 8) r.2.2 4) m) m

/-- The host lines of an item. -/
def linesOf (place len : Nat) : List Nat :=
  if len = 0 then [] else (List.range ((place + len - 1) / 64 - place / 64 + 1)).map (fun i => place / 64 + i)
/-- The host lines of a `PHOST`, in ascending order. -/
def Pass.lines (p : Pass) : List Nat := linesOf p.sc (p.sb * p.desc.itemBytes)

/-- A host line is refused to a pass, or may not be transferred for want of its key. -/
def Pass.refuse (p : Pass) (line : Nat) : Pass :=
  { p with hostSeen := p.hostSeen ++ [line], hostRefused := p.hostRefused ++ [line], err := true }
/-- A host line comes in for a `PHOST.IN`: decrypted for a protected context, refused where no key is loaded (R242, R384). -/
def State.takeLine (s : State) (p : Pass) (line : Nat) (bs : List Byte) : Pass :=
  let got := fun (b : List Byte) => { p with hostSeen := p.hostSeen ++ [line], hostGot := Memory.setBytes p.hostGot (64 * line) b }
  if s.isProtected p.ctx then
    match s.keyOf (keyDie p.seg) p.ctx with
    | none => p.refuse line
    | some k => got (Config.xtsDecrypt k.pair line bs)
  else got bs
/-- Lines that no answer has brought are read, each once, before the first visit that needs them (R242, R310). -/
def State.fetchLines (s : State) (p : Pass) (ls : List Nat) : Pass :=
  ls.foldl (fun p l =>
    if p.hostSeen.contains l then p
    else if s.mod.hostRefuse.contains l then p.refuse l
    else s.takeLine p l (Memory.bytes s.mod.hostMem (64 * l) 64)) p

/-- No line of an item is refused. -/
def Pass.itemOk (p : Pass) (c : Cut) : Bool := (linesOf c.place p.desc.itemBytes).all (fun l => !(p.hostRefused.contains l))
/-- A `PHOST.IN`'s items in a stitch, from lines that have come: items with a refused line are left as they are (R242). -/
def applyHost (p : Pass) (x : Nat) (cs : List Cut) (m : Memory) : Memory :=
  (cs.filter p.itemOk).foldl (fun m c => Memory.setBytes m (x * 128 + c.pos) (Memory.bytes p.hostGot (c.place + c.lo) c.n)) m

/-- Write the values of a list of cuts. -/
def applyPut (f : Cut → List Byte) (x : Nat) (cs : List Cut) (m : Memory) : Memory :=
  cs.foldl (fun m c => Memory.setBytes m (x * 128 + c.pos) (f c)) m

/-- Bytes that some parts of runs hold. -/
def bytesIn (cs : List Cut) : Nat := (cs.map (fun c => c.n)).sum

/-- A write-side pass acts on a stitch: the segment, the pass, and how many bytes of the stitch it writes. -/
def Pass.effect (p : Pass) (x : Nat) (cs : List Cut) (g : Seg) : Seg × Pass × Nat :=
  match p.kind with
  | .put => ({ g with data := applyPut (fun c => Memory.bytes p.src (c.place + c.lo) c.n) x cs g.data }, p, bytesIn cs)
  | .zero => ({ g with data := applyPut (fun c => List.replicate c.n 0) x cs g.data }, p, bytesIn cs)
  | .zeroPhys => ({ g with data := applyPut (fun c => List.replicate c.n 0) x cs g.data }, p, bytesIn cs)
  | .hostIn => ({ g with data := applyHost p x cs g.data }, p, bytesIn (cs.filter p.itemOk))
  | .adam => ({ g with data := applyAdam p x cs g.data }, p, bytesIn cs)
  | .cmt => let g1 := commit p x cs g; (g1, p, 4 * (g.ord.length - g1.ord.length))
  | .updoAddf | .updoAddi => ({ g with ord := g.ord ++ stageUpdo p x cs }, p, 0)
  | _ => let r := applyUpd p x cs (g.data, p.out); ({ g with data := r.1 }, { p with out := r.2 }, bytesIn cs)

/-- The application of the record's own supervisor `PZERO` to a stitch: REMAIN, NEXT, and at the end the blocks that become clean
(R381, R382). -/
def Seg.countZero (g : Seg) (p : Pass) (x : Nat) : Seg :=
  if !(g.pzValid && decide (g.pzPass = some p.key)) then g
  else
    let remain := g.pzRemain - 1
    let top := g.pzFirst + g.pzCount
    let clean := (List.range 512).foldl (fun (m : BitVec 512) b =>
      if g.pzFirst ≤ 16384 * b ∧ 16384 * (b + 1) ≤ top ∧ g.pzTouched.getLsbD b = false then m ||| blockBit (16384 * b) else m) 0
    { g with
      pzRemain := remain
      pzNext := if x + 1 = top then g.pzFirst else x + 1
      pzValid := remain != 0
      dirty := if remain = 0 then g.dirty &&& ~~~clean else g.dirty }

/-- A write-side pass applies to a stitch (R207, R210, R377, R381, R382). -/
def State.applyPass (s : State) (seg x : Nat) (e : Nat × Nat) : State :=
  let p := s.passAt e.1 e.2
  let g := s.segAt seg
  let cs := p.cuts x
  if cs.isEmpty then s
  else if g.bad.contains x && p.kind.needsValue then s.visitFault e.1 p cECC x
  else
    let q := if p.kind = .hostIn then s.fetchLines p (cs.flatMap (fun c => linesOf c.place p.desc.itemBytes)) else p
    let r := q.effect x cs g
    let whole := !p.kind.needsValue && r.2.2 == 128
    let g1 := if whole then { r.1 with bad := r.1.bad.filter (fun y => y != x) } else r.1
    let g2 := if p.key.sup then g1.countZero p x
      else if r.2.2 ≠ 0 then { g1 with dirty := g1.dirty ||| blockBit x, pzTouched := g1.pzTouched ||| blockBit x } else g1
    (s.setSegAt seg g2).setPassAt e.1 e.2 r.2.1

/-! ### A visit (R198, R204, R205, R207, R210) -/

/-- The passes that ride a segment: core and slot, with the pass. -/
def State.riders (s : State) (seg : Nat) : List ((Nat × Nat) × Pass) :=
  s.cores.flatMap (fun c => c.2.passes.filterMap (fun p =>
    if p.2.st = .riding ∧ p.2.closeIn = 0 ∧ p.2.seg = seg ∧ p.2.frozen = false then some ((c.1, p.1), p.2) else none))

/-- Each rider comes to the visit: the state, and those that make it. -/
def approachAll (seg period x : Nat) : List ((Nat × Nat) × Pass) → State → State × List ((Nat × Nat) × Pass)
  | [], s => (s, [])
  | (e, p) :: r, s =>
    let a := p.approach (s.dieAt (keyDie seg)) period x
    let q := approachAll seg period x r (s.setPassAt e.1 e.2 a.2)
    (q.1, if a.1 then (e, a.2) :: q.2 else q.2)

/-- A pass has made a visit; after its last, it closes in the fourth tick (R205, R222). -/
def Pass.advance (p : Pass) (period : Nat) : Pass :=
  { p with visits := p.visits + 1, closeIn := if p.visits + 1 = period then 4 else 0 }

/-! ### The save region (R208, R210, R368) -/

/-- The supervisor passes of the save region that come to a visit of a stitch: they go by, write it whole, or read it; an uncorrectable stitch is a
fault of the anchor. -/
def State.applyJob (s : State) (seg x : Nat) (j : RegionJob) : State × RegionJob :=
  if j.lead ≠ 0 then (s, { j with lead := j.lead - 1 })
  else if j.left = 0 then (s, j)
  else
    let j1 : RegionJob := { j with left := j.left - 1, closeIn := if j.left = 1 then 4 else 0 }
    let g := s.segAt seg
    if !(decide (j.base ≤ x) && decide (x < j.base + j.count)) then (s, j1)
    else
      match j.data with
      | some bs =>
        (s.setSegAt seg { g with
          data := Memory.setBytes g.data (x * 128) ((bs.drop (128 * (x - j.base))).take 128), bad := g.bad.filter (fun y => y != x) }, j1)
      | none =>
        if g.bad.contains x then
          let k := keyDie seg * 32 + Config.anchorNo
          (s.raiseAt k { code := cECC, row := (s.coreAt k).pos.row, elem := BitVec.ofNat 64 (x - j.base), slot := 3, addr := 0 }, { j1 with bad := true })
        else (s, { j1 with got := Memory.setBytes j.got (128 * (x - j.base)) (g.stitch x) })

/-- The supervisor passes of a visit in their opening order: the writers among some riders, and those of the save region (R208). -/
def State.applySups (s : State) (seg x : Nat) (ws : List ((Nat × Nat) × Pass)) : State :=
  let jobs := if keyNo seg = 23 then (s.dieAt (keyDie seg)).region else []
  let ops : List (Nat × ((Nat × Nat) ⊕ RegionJob)) :=
    ws.map (fun (e : (Nat × Nat) × Pass) => (e.2.key.seq, Sum.inl e.1)) ++ jobs.map (fun (j : RegionJob) => (j.seq, Sum.inr j))
  let r := (ops.insertionSort (fun a b => a.1 ≤ b.1)).foldl (fun (q : State × List RegionJob) o =>
    match o.2 with
    | .inl e => (q.1.applyPass seg x e, q.2)
    | .inr j => let t := q.1.applyJob seg x j; (t.1, q.2 ++ [t.2])) (s, [])
  if jobs = [] then r.1 else r.1.onDieAt (keyDie seg) (fun d => { d with region := r.2 })

/-- Every pass that makes a visit of a stitch acts: readers on the value before it, then writers in key order; an uncorrectable
stitch that no pass needs is reported to the anchor. -/
def State.visitStitch (s : State) (seg x : Nat) : State :=
  let period := s.period seg
  let a := approachAll seg period x (s.riders seg) s
  let bs := (s.segAt seg).stitch x
  let bad := (s.segAt seg).bad.contains x
  let s1 := (a.2.filter (fun e => e.2.kind.isReader)).foldl (fun t e => t.capture seg x bs e.1) a.1
  let ws := (a.2.filter (fun e => !e.2.kind.isReader)).insertionSort (fun u v => u.2.key.le v.2.key = true)
  let s2 := ((ws.filter (fun e => !e.2.key.sup)).foldl (fun t e => t.applyPass seg x e.1) s1).applySups seg x (ws.filter (fun e => e.2.key.sup))
  let s3 := a.2.foldl (fun t e => t.setPassAt e.1.1 e.1.2 ((t.passAt e.1.1 e.1.2).advance period)) s2
  if bad && !(a.2.any (fun e => e.2.kind.needsValue && !(e.2.cuts x).isEmpty)) then
    let y := keyNo seg * 2 ^ 23 + x
    s3.onDieAt (keyDie seg) (fun d => if d.reported.contains y then d else { d with reported := d.reported ++ [y] })
  else s3

/-- A segment in a visit tick: its cursor moves on and a stitch is visited, or its remap walker takes a step (R198, R202). -/
def State.visitSegment (s : State) (seg : Nat) : State :=
  let g := s.segAt seg
  match g.remap with
  | some r => s.setSegAt seg { g with remap := some (if r.setup ≠ 0 then { r with setup := r.setup - 1 } else { r with step := r.step + 1 }) }
  | none =>
    let x := (g.cursor + 1) % g.period
    (s.setSegAt seg { g with cursor := x }).visitStitch seg x

/-- The segments of a die, in order. -/
def segKeys (die : Nat) : List Nat := (List.range Config.segments).map (fun i => die * 32 + i)

/-! ### Ticks of a die (R198 to R200, R203, R205, R225, R262) -/

/-- A tick of a pass slot: the ticks until it closes run down, and its state becomes closing (R205, R222, R244). -/
def Pass.tick (p : Pass) : Pass := if p.closeIn = 0 then p else { p with closeIn := p.closeIn - 1, st := .closing }
/-- A tick of a core's pass slots and refused opens: a hold tick changes no pass (R203, log 49). -/
def Core.passTick (c : Core) (hold : Bool) : Core :=
  { c with passes := if hold then c.passes else c.passes.map (fun e => (e.1, e.2.tick)), refusals := c.refusals.map (fun r => (r.1 - 1, r.2)) }

/-! ### Closing (R205, R222, R223, R228, R238, R256 to R258, R264) -/

/-- Captured elements of a pass, in order: item and bits. -/
def Pass.elems (p : Pass) : List (Nat × Nat) := (List.range p.sb).map (fun k => (k, (SMap.get 0 p.got k).toNat))
/-- The integer value of an element (R233). -/
def Pass.intOf (p : Pass) (v : Nat) : Int := signedNat (8 * p.desc.esize) v
/-- Whether elements are integers. -/
def Pass.isInt (p : Pass) : Bool := decide (p.desc.fmt = some .i8) || decide (p.desc.fmt = some .i32)
/-- The FP32 bits of an element: BF16 is widened exactly, and a NaN is canonical (R40). -/
def Pass.f32Of (p : Pass) (v : Nat) : Nat := if p.desc.fmt = some .bf16 then (fpConvert bf16 f32 rneMode v).1 else v
/-- An element is selected (R233). -/
def Pass.selects (p : Pass) (v : Nat) : Bool :=
  let code := p.cmp.toNat
  if code = 0 then true
  else
    let f := fun (x y : Int) => match code with
      | 1 => decide (x = y) | 2 => decide (x ≠ y) | 3 => decide (x < y) | 4 => decide (x ≤ y) | 5 => decide (y < x) | _ => decide (y ≤ x)
    if p.isInt then f (p.intOf v) (signedNat 64 p.sc)
    else
      let a := p.f32Of v
      let c := p.sc % 2 ^ 32
      if isNan f32 a || isNan f32 c then decide (code = 2) else f (fpKey f32 a) (fpKey f32 c)
/-- The selected elements. -/
def Pass.selected (p : Pass) : List (Nat × Nat) := p.elems.filter (fun e => p.selects e.2)

/-- A minimum or maximum over a list that is not empty (R233). -/
def foldMinMax (max : Bool) : List Nat → Nat
  | [] => if max then f32.inf true else f32.inf false
  | v :: r => (r.foldl (fun a b => (fpMinMax f32 max a b).1) (if isNan f32 v then f32.nan else v))

/-- The 8 bytes of a `PSCAN` (R233). -/
def Pass.scanResult (p : Pass) : Nat :=
  let xs := p.selected.map (fun e => e.2)
  let ints := xs.map p.intOf
  let word := fun (v : Int) => (BitVec.ofInt 64 v).toNat
  match p.kind with
  | .scanSumi => word ints.sum
  | .scanSumf => (fixedTree f32 rneMode (xs.map p.f32Of)).1
  | .scanMin => if p.isInt then word (ints.foldl min 0x7FFFFFFF) else foldMinMax false (xs.map p.f32Of)
  | .scanMax => if p.isInt then word (ints.foldl max (-0x80000000)) else foldMinMax true (xs.map p.f32Of)
  | _ => xs.length

/-- The bytes that a `PFILT` writes: the header, and the entries up to the capacity (R234). -/
def Pass.filtResult (p : Pass) : List Byte :=
  let xs := p.selected.take p.se
  leBytes 4 xs.length ++ leBytes 4 0 ++ xs.flatMap (fun e => leBytes 4 (p.sa + e.1) ++
    leBytes 4 (if p.desc.fmt = some .i8 then (BitVec.ofInt 32 (signedNat 8 e.2)).toNat else p.f32Of e.2))

/-- D of a group and column: fp32(P × 2^(E − 127) × s) (R51, R257). -/
def drained (e : Nat) (bad : Bool) (part : Int) (scale : Nat) : Nat :=
  if bad || e == 0xFF || isNan bf16 scale then f32.nan
  else
    match unpack bf16 false scale with
    | .fin neg m ex => (roundFin f32 rneMode (neg != decide (part < 0)) (part.natAbs * m) (ex + e - 127) false).1
    | .inf neg => if part = 0 then f32.nan else f32.inf (neg != decide (part < 0))
    | _ => f32.nan

/-- D of group h of block c in column j. -/
def Pass.drain (p : Pass) (c h j : Nat) : Nat :=
  let key := (c * p.groups + h) * 128 + j
  drained (p.burst h).e (p.badBurst h) (signedNat 32 (SMap.get 0 p.got key).toNat) (SMap.get 0 p.scales key).toNat

/-- A group has drained: its partial and its scales have been captured (R257); one in which an illegal code was met never does (R260). -/
def Pass.drains (p : Pass) (n : Nat) : Bool :=
  decide (SMap.get 0 p.done n = 2 ^ 64 - 1) && !(p.illegal.contains n) && !(p.lost.any (fun k => k / 128 == n))
/-- The staging row of a group: D where it has drained, else the partials stored, where any have been (R254, R256). -/
def Pass.pieceRow (p : Pass) (c h x : Nat) : List (Nat × List Byte) :=
  let n := c * p.groups + h
  if p.drains n then [(x, (List.range 128).flatMap (fun j => leBytes 4 (p.drain c h j)))]
  else if p.stored.contains n then [(x, (List.range 128).flatMap (fun j => leBytes 4 ((SMap.get 0 p.got (n * 128 + j)).toNat % 2 ^ 32)))]
  else []
/-- The staging row of the scales of a group: those captured (R254, R255). -/
def Pass.scaleRow (p : Pass) (n x : Nat) : List (Nat × List Byte) :=
  let w := fun (j : Nat) => leBytes 4 (fpConvert bf16 f32 rneMode (SMap.get 0 p.scales (n * 128 + j)).toNat).1
  if p.lost.any (fun k => k / 128 == n) then
    ((List.range 128).filter (fun j => !(p.lost.contains (n * 128 + j)))).map (fun j => (x + 4 * j, w j))
  else [(x, (List.range 128).flatMap w)]
/-- What a `PMAT` has written once it has closed: its staging rows, and the outputs of each block of which every group has drained (R254, R257,
R258). -/
def Pass.matResult (p : Pass) (scratch : Memory) : List (Nat × List Byte) :=
  let g := p.groups
  (List.range p.sb).flatMap (fun c =>
    let base := p.se + 1024 * g * c
    (List.range g).flatMap (fun h => p.pieceRow c h (base + 512 * h)) ++
    (List.range g).flatMap (fun h => p.scaleRow (c * g + h) (base + 512 * (g + h))) ++
    (if (List.range g).all (fun h => p.drains (c * g + h)) then
      [(p.sc + 512 * c, (List.range 128).flatMap (fun j =>
        let t := (fixedTree f32 rneMode ((List.range g).map (fun h => p.drain c h j))).1
        leBytes 4 (if p.kind = .matAccum then faddRne (Memory.load scratch (p.sc + 512 * c + 4 * j) 4) t else t)))]
    else []))

/-- What a pass writes to scratchpad at close. -/
def Pass.results (p : Pass) (scratch : Memory) : List (Nat × List Byte) :=
  if p.kind.isScan then [(p.sd, leBytes 8 p.scanResult)]
  else if p.kind.isMat then p.matResult scratch
  else
    match p.kind with
    | .filt => [(p.sd, p.filtResult)]
    | _ => p.dstAreas.map (fun r => (r.1, Memory.bytes p.out r.1 r.2))

/-- Flags that a pass sets at close (R39). DESIGN CHOICE (log 47): a cancelled pass sets none, and a `PMAT` of no blocks still consumes its burst
headers. -/
def Pass.closeFlags (p : Pass) : Flags :=
  if p.cancelled then 0
  else if p.kind.isMat then (if (List.range p.groups).any p.badBurst then fBFPHDR else 0)
  else if p.kind = .filt && decide (p.se < p.selected.length) then fPFOVF
  else 0

/-- A write of a `PMAT.ACCUM` adds to what it reads there at close (R254). -/
def Pass.addsTo (p : Pass) (x : Nat) : Bool := decide (p.kind = .matAccum ∧ p.sc ≤ x ∧ x < p.sc + 512 * p.sb)
/-- One write of a pass's results: bytes that the program has spoilt are unspecified; one that reads an uncorrectable unit, or writes part of
one, does not take place (R180, R228). -/
def State.closeWrite (k : Nat) (p : Pass) (s : State) (w : Nat × List Byte) : State :=
  let bad := (s.coreAt k).badScratch
  if badPartly bad w.1 w.2.length || (p.addsTo w.1 && badIn bad w.1 w.2.length) then
    s.raiseAt k { code := cECC, row := p.row, elem := 0, slot := 5, addr := BitVec.ofNat 64 w.1 }
  else
    let bs := if p.spoilt = [] then w.2 else
      w.2.zipIdx.map (fun b => if p.spoilt.contains (w.1 + b.2) then Config.freeByte s.fresh (w.1 + b.2) else b.1)
    { s.putAt k w.1 bs with fresh := s.fresh + 2 }

/-- The areas that a pass writes: a `PFILT` leaves the entries from its count on as they are (R234). -/
def Pass.wrote (p : Pass) : List (Nat × Nat) :=
  if p.kind = .filt ∧ p.cancelled = false then [(p.sd, 8 + 8 * (p.selected.take p.se).length)] else p.dstAreas
/-- The race detector's view of a pass's writes: they carry the interval of the pass's issue (R313). -/
def State.touchClose (s : State) (k : Nat) (p : Pass) : State :=
  let now := (s.coreAt k).interval
  let s1 := s.onCoreAt k (fun c => { c with interval := p.interval })
  (p.wrote.foldl (fun t r => t.touchAt k .passWrite 3 p.openRow r.1 r.2) s1).onCoreAt k (fun c => { c with interval := now })

/-- The items of a `PHOST.OUT` are written to host memory, encrypted line by line for a protected context; none is where a line is
refused or no key is loaded (R242, R384). Lines encrypted before their slot was zeroised stand (R396). -/
def State.hostWrite (s : State) (p : Pass) : State × Bool :=
  p.exts.foldl (fun (q : State × Bool) e =>
    let pair := p.oldPair.orElse (fun _ => (q.1.keyOf (keyDie p.seg) p.ctx).map (fun k => k.pair))
    let bad := (linesOf e.place e.len).any (fun l =>
      p.hostRefused.contains l || (!(p.hostSeen.contains l) && q.1.mod.hostRefuse.contains l))
    if bad || (q.1.isProtected p.ctx && pair.isNone) then (q.1, true)
    else
      let bs := Memory.bytes p.out e.place e.len
      let m := q.1.mod.hostMem
      let m1 := match (if q.1.isProtected p.ctx then pair else none) with
        | none => Memory.setBytes m e.place bs
        | some k => (linesOf e.place e.len).foldl (fun m l =>
            let plain := (Config.xtsDecrypt k l (Memory.bytes m (64 * l) 64)).zipIdx.map (fun b =>
              let a := 64 * l + b.2
              if e.place ≤ a ∧ a < e.place + e.len then Memory.byte p.out a else b.1)
            Memory.setBytes m (64 * l) (Config.xtsEncrypt k l plain)) m
      (q.1.onMod (fun x => { x with hostMem := m1 }), q.2)) (s, false)

/-- A `PUPDO` closes: what it staged may be committed, and entries of bad indices are freed; cancelled, it discards all (R238). -/
def Seg.closeUpdo (g : Seg) (p : Pass) : Seg :=
  let mine := fun (e : Contribution) => e.key == p.key && e.ctx == p.ctx
  if p.cancelled then
    { g with ord := g.ord.filter (fun e => !(mine e)), reserved := g.reserved.filter (fun e => !(e.1 == p.key && e.2.1 == p.ctx)) }
  else
    let left := (g.ord.filter mine).length
    { g with
      ord := g.ord.map (fun e => if mine e then { e with closed := true } else e)
      reserved := (g.reserved.map (fun e => if e.1 == p.key && e.2.1 == p.ctx then (e.1, e.2.1, left) else e)).filter
        (fun e => e.2.2 != 0) }

/-- What the end of a pass does to the rest of the machine besides its scratchpad results: a reservation, a lane, the heat account,
host memory; and whether it sets ERR. -/
def State.closeKind (s : State) (k : Nat) (p : Pass) : State × Bool :=
  if p.kind.isUpdo then (s.setSegAt p.seg ((s.segAt p.seg).closeUpdo p), false)
  else if p.kind.isMat then
    let s1 := if p.cancelled then s.onCoreAt k (fun c => { c with regs := c.regs.putLane p.set p.lane [] }) else s
    let extra := p.trits - p.desc.density.toNat * p.sb
    (s1.onDieAt (keyDie k) (fun d => { d with heat := d.heat - 1024 * (extra : Int) }), false)
  else if p.kind = .hostOut ∧ p.cancelled = false then s.hostWrite p
  else (s, false)

/-- What a slot keeps when its pass has closed (R222). -/
def Pass.idle (p : Pass) : Pass := { tag := p.tag, tid := p.tid, openPt := p.openPt, visits := p.visits }

/-- A pass closes: its results are complete, its tag is set, and its slot is idle. -/
def State.closePass (s : State) (k n : Nat) : State :=
  let p := s.passAt k n
  let s1 := s.setPassAt k n p.idle
  let ws := if p.cancelled then
      p.dstAreas.map (fun r => (r.1, (List.range r.2).map (fun i => Config.freeByte s.fresh (r.1 + i))))
    else p.results (s.coreAt k).scratch
  let s2 := if p.kind = .hostOut then s1 else (ws.foldl (State.closeWrite k p) s1).touchClose k p
  let r := s2.closeKind k p
  r.1.onCoreAt k (fun c => (c.tagDone p.tag (p.err || r.2)).flagsArrive (r.1.dieAt (keyDie k)).tick p.closeFlags)

def execPassClose (die : DieNo) (core : CoreNo) (slot : SlotNo) (s : State) : Out :=
  let p := s.passAt (coreKey die core) slot.toNat
  if p.st = .closing ∧ p.closeIn = 0 then .next (s.closePass (coreKey die core) slot.toNat) else .refused .notEnabled

/-- A refused open comes to its tick: its tag and ERR bit are set (R225). -/
def execRefusedOpen (die : DieNo) (core : CoreNo) (s : State) : Out :=
  let k := coreKey die core
  match (s.coreAt k).refusals with
  | (0, t) :: r => .next (s.onCoreAt k (fun c => { c with refusals := r }.tagDone t true))
  | _ => .refused .notEnabled

/-! ### Host lines (R242, R310, R384, R396) -/

/-- The host answers the next line of a `PHOST` that is still to come (R242): a line read comes in decrypted, a write is taken, or the line is
refused. A line whose key is gone is not transferred (R396). What the host answers is what its memory then holds. -/
def execPhostLine (die : DieNo) (core : CoreNo) (slot : SlotNo) (answer : HostAnswer) (s : State) : Out :=
  let k := coreKey die core
  let p := s.passAt k slot.toNat
  if !(p.open_ && (decide (p.kind = .hostIn) || decide (p.kind = .hostOut)) && !p.cancelled) then .refused .notEnabled
  else
    match p.lines.find? (fun l => !(p.hostSeen.contains l)) with
    | none => .refused .notEnabled
    | some line =>
      match answer with
      | .refused => .next (s.setPassAt k slot.toNat (p.refuse line))
      | .taken =>
        if p.kind = .hostOut then .next (s.setPassAt k slot.toNat { p with hostSeen := p.hostSeen ++ [line] }) else .refused .notEnabled
      | .line bytes =>
        if p.kind ≠ .hostIn ∨ bytes.length ≠ 64 then .refused .notEnabled
        else .next ((s.setPassAt k slot.toNat (s.takeLine p line bytes)).onMod (fun m =>
          { m with hostMem := Memory.setBytes m.hostMem (64 * line) bytes }))

/-- A key slot of a pass's context is zeroised: its host lines that have not been encrypted or decrypted are not transferred (R396). -/
def Pass.loseKey (p : Pass) (pair : BitVec 512) : Pass :=
  if p.open_ && (decide (p.kind = .hostIn) || decide (p.kind = .hostOut)) && !p.cancelled then
    (p.lines.filter (fun l => !(p.hostSeen.contains l))).foldl Pass.refuse { p with oldPair := some (p.oldPair.getD pair) }
  else p

end Sys2Proof.Machine
end

