-- ==== Sys2Proof/Machine/Traps.lean ====
section
/-! DEFINITION. Taking an exception and returning from one: how a core stops and resumes at an element boundary, entry to a handler,
delivery to the anchor, `TRAP` and `ERET`, the services of Boluno firmware, and the halt line with its stop record (R131, R157, R183,
R219, R226, R230, R342 to R350, R362 to R365). -/

namespace Sys2Proof.Machine

/-! ### Stopping and resuming operations in flight (R131, R157, R182, R183) -/

/-- Scratchpad with the bytes of a store that has not reached them put back: those that still hold what the store wrote. -/
def undoBytes (m : Memory) (ws : List (Nat × Byte × Byte)) : Memory :=
  ws.foldr (fun w m => if Memory.byte m w.1 = w.2.2 then Memory.setByte m w.1 w.2.1 else m) m
/-- Scratchpad with the bytes of a store written. -/
def redoBytes (m : Memory) (ws : List (Nat × Byte × Byte)) : Memory := ws.foldl (fun m w => Memory.setByte m w.1 w.2.2) m

/-- Beats of an operation that stand when the core stops: a `TTRN` is begun again (R183). -/
def Fly.keeps (f : Fly) (beats : Nat) : Nat := if f.op = 6 then 0 else f.steps beats

/-- An operation stopped: the beats that stand, and how far off its flags are. -/
def Fly.stopped (f : Fly) (beats : Nat) : Fly :=
  { f with kept := some (f.keeps beats), flagAt := f.flagAt - beats + (f.steps beats - f.keeps beats) }

/-- The operation in flight that a stop interrupts: one with beats outstanding that has not been stopped already. -/
def cutShort (f : Option Fly) (beats : Nat) : Option Fly :=
  match f with
  | none => none
  | some x => if x.kept.isNone && x.active beats then some x else none

/-- The unit of a tile, or of its exponents, that a cell lies in (R180). -/
def RegCell.unit : RegCell → Option Nat
  | .t i _ => some (i / 8)
  | .te i _ => some (8192 + i / 8)
  | _ => none
/-- Units of tiles, and of scratchpad, in what the beats of an operation from beat n on write. -/
def Fly.unitsT (f : Fly) (n : Nat) : List Nat := (f.old.drop n).flatten.filterMap RegCell.unit
def Fly.unitsS (f : Fly) (n : Nat) : List Nat := (f.mem.drop n).flatten.map (fun w => w.1 / 8)

/-- An operation is cut short: what its outstanding beats wrote is put back, last to first, and so are the errors of units that they
cleared; its flags do not arrive. -/
def Core.cut (c : Core) (f : Fly) : Core :=
  let n := f.keeps c.beats
  { c with
    regs := c.regs.putCells (f.old.drop n).flatten.reverse
    scratch := undoBytes c.scratch (f.mem.drop n).flatten
    badTile := c.badTile ++ f.clearsT.filter (fun u => (f.unitsT n).contains u && !(c.badTile.contains u))
    badScratch := c.badScratch ++ f.clearsS.filter (fun u => (f.unitsS n).contains u && !(c.badScratch.contains u))
    flagQ := c.flagQ.erase (f.flagAt, f.flags) }

/-- A slot of operations after a stop: cut short, with what its outstanding groups ask of the banks, kept from an earlier stop, or none. -/
def afterStop (f : Option Fly) (beats : Nat) (asks : List (List (Nat × Nat))) : Option Fly :=
  match f with
  | none => none
  | some x => if x.kept.isSome then some x else if x.active beats then some { x.stopped beats with asks := asks } else none

/-- The V and T operations of a core stop at element boundaries; flags of completed ones arrive (R131). -/
def Core.freeze (c : Core) : Core :=
  let c1 := match cutShort c.tfly c.beats with | none => c | some x => c.cut x
  let c2 := match cutShort c.vfly c.beats with | none => c1 | some x => c1.cut x
  { c2 with
    vfly := afterStop c.vfly c.beats c.banks.v
    tfly := afterStop c.tfly c.beats c.banks.t
    flagQ := []
    fpflags := c2.flagQ.foldl (fun a e => a ||| e.2) c.fpflags }

/-- A stopped operation goes on: what its outstanding beats write, and its flags on their way. -/
def Core.goOn (c : Core) (f : Fly) : Core :=
  match f.kept with
  | none => c
  | some n =>
    { c with
      regs := c.regs.putCells (f.new.drop n).flatten
      scratch := redoBytes c.scratch (f.mem.drop n).flatten
      badTile := c.badTile.filter (fun u => !(f.clearsT.contains u && (f.unitsT n).contains u))
      badScratch := c.badScratch.filter (fun u => !(f.clearsS.contains u && (f.unitsS n).contains u))
      flagQ := if f.flags = 0 then c.flagQ else c.flagQ ++ [(c.beats + f.flagAt, f.flags)] }
/-- What a beat of a store writes, with what the bytes now hold before it. -/
def overBytes : Memory → List (Nat × Byte × Byte) → List (Nat × Byte × Byte)
  | _, [] => []
  | m, w :: r => (w.1, Memory.byte m w.1, w.2.2) :: overBytes (Memory.setByte m w.1 w.2.2) r
/-- The same for the beats of a store, one after the other. -/
def overBeats : Memory → List (List (Nat × Byte × Byte)) → List (List (Nat × Byte × Byte))
  | _, [] => []
  | m, g :: r => overBytes m g :: overBeats (redoBytes m g) r
/-- The note of an operation that goes on over a scratchpad. -/
def Fly.resumed (f : Fly) (m : Memory) (beats : Nat) : Fly :=
  match f.kept with
  | none => f
  | some n =>
    { f with beat := beats, extra := n, kept := none, flagAt := beats + f.flagAt, mem := f.mem.take n ++ overBeats m (f.mem.drop n) }

/-- What an operation that goes on asks of the banks in the beats to come; without one, what stands. -/
def Fly.asksOf (f : Option Fly) (old : List (List (Nat × Nat))) : List (List (Nat × Nat)) :=
  match f with | none => old | some x => if x.kept.isSome then x.asks else old
/-- The areas of a stopped `TST` that are still to be stored. -/
def Fly.tstAreas (f : Option Fly) (old : List (Nat × Nat)) : List (Nat × Nat) :=
  match f with | none => old | some x => if x.kept.isSome && x.op == 2 then x.asks.flatten else old
/-- The V and T operations of a core go on. -/
def Core.thaw (c : Core) : Core :=
  let c1 := match c.vfly with | none => c | some f => c.goOn f
  let c2 := match c.tfly with | none => c1 | some f => c1.goOn f
  { c2 with
    banks := { c2.banks with v := Fly.asksOf c.vfly c.banks.v, t := Fly.asksOf c.tfly c.banks.t, tst := Fly.tstAreas c.tfly c.banks.tst }
    vfly := c.vfly.map (fun f => f.resumed c.scratch c.beats), tfly := c.tfly.map (fun f => f.resumed c1.scratch c.beats) }

/-- The banks of a core that stops in a tick: groups still to come ask nothing more, and rows that a `TST` has stored are ready as if it were over
(R131, R184). -/
def Banks.stopped (b : Banks) (tick : Nat) : Banks :=
  { b with
    v := [], t := [], tst := []
    ready := b.ready ++ (b.tst.filter (fun r => !(b.t.flatten.contains r))).map (fun r => (tick + 5, r)) }
/-- A core stops: operations in flight, `TMMA` work that has not been handed over, riding passes, and the waits of the row in hand
(R131, R183, R230). -/
def Core.stop (c : Core) (tick : Nat) : Core :=
  let f : Core := c.freeze.parkAll
  { f with
    tmma := f.tmma.map (fun j => if j.handed then j else { j with due := none, runs := 0 })
    prnd := none, mapfence := none, swept := false, heatDue := none, banks := f.banks.stopped tick }
/-- No delay and no send stall holds a core. -/
def Core.freed (c : Core) : Core := { c with held := 0, stall := 0, stallPort := 0xFF, stallSlot := 0 }

/-- The core at a key stops. -/
def State.stopCore (s : State) (k : Nat) : State :=
  (s.onCoreAt k (fun c => c.stop (s.dieAt (keyDie k)).tick)).onDieAt (keyDie k) (fun d => { d with heatQ := d.heatQ.filter (fun j => j != k) })

/-- The work of the core at a key goes on, and its passes reopen (R131, R230). -/
def State.wakeCore (s : State) (k : Nat) : State :=
  let now := (s.dieAt (keyDie k)).tick
  (s.onCoreAt k (fun c =>
    let t : Core := c.thaw
    { t with
      tmma := t.tmma.map (fun j => if j.due.isNone then { j with due := some (now + j.busy) } else j)
      wakeAt := none })).unparkAll k
/-- The core at a key goes on at its position, or, where its row store is still to be expanded, once that is over (R74, R84, R131, R230). -/
def State.resumeCore (s : State) (k : Nat) : State :=
  let c := s.coreAt k
  if (s.dieAt (keyDie k)).tick < c.expandAt then s.onCoreAt k (fun c => { c with hold := .none, wakeAt := some c.expandAt })
  else (s.wakeCore k).onCoreAt k (fun c => { c with hold := .none })

/-- A core goes on at its position at once, or, while it is suspended, when the suspension ends. -/
def State.carryOn (s : State) (k : Nat) : State :=
  if (s.coreAt k).run = .suspended then s.onCoreAt k (fun c => { c with hold := .none }) else s.resumeCore k

/-! ### Entry to a handler and the way back (R345) -/

/-- Entry to a core's own handler: it stops, its position is saved, the trap registers are set, and the handler's first row issues
4 ticks later; it must be an ITGT row. -/
def State.enterHandler (s : State) (k : Nat) (t : TrapReq) (from_ : Option Nat) : State :=
  let s1 := s.stopCore k
  let now := (s.dieAt (keyDie k)).tick
  let s2 := s1.onCoreAt k (fun c => { c.freed with
    ret := some c.pos, vkept := c.vfly, tkept := c.tfly, vfly := none, tfly := none
    pos := { row := c.trap.vec.toNat, beat := c.pos.beat }
    trap := { c.trap with
      inh := true, cls := t.cls, code := t.code, row := BitVec.ofNat 14 t.row, elem := t.elem, svc := t.svc, dlv := from_.isSome
      req := BitVec.ofNat 5 (from_.getD 0), slot := BitVec.ofNat 3 t.slot }
    hold := .entry (now + 4) })
  let c := s2.coreAt k
  let row := c.trap.vec.toNat
  if row < c.rows ∧ (c.rowAt row).itgt = true then s2
  else s2.raiseAt k { code := cBADJUMP, row := row, elem := BitVec.ofNat 64 row, slot := 0, addr := 0 }

/-- A handler ends: the core goes on at its return position, with what the trap stopped (R345). -/
def State.leaveHandler (s : State) (k : Nat) : State :=
  (s.onCoreAt k (fun c => { c with
    pos := c.ret.getD c.pos, ret := none, vfly := c.vkept, tfly := c.tkept, vkept := none, tkept := none
    trap := { c.trap with inh := false } })).carryOn k

/-- A delivered trap: the core stops and joins its anchor's queue (R346). -/
def State.deliverTrap (s : State) (k : Nat) (t : TrapReq) : State :=
  ((s.stopCore k).onCoreAt k (fun c => { c.freed with hold := .delivered })).onDieAt (keyDie k) (fun d =>
    { d with reqs := SMap.set none d.reqs (keyNo k) (some t) })

/-! ### Which trap a boundary takes (R219, R226, R345, R347) -/

/-- The lowest slot with a class P trap that has been pending since an earlier tick. -/
def Core.passTrap (c : Core) (now : Nat) : Option (Nat × Pass × Byte × Nat) :=
  c.passes.findSome? (fun e => if e.2.st = .parked ∧ e.2.trapAt < now then e.2.trap.map (fun t => (e.1, e.2, t.1, t.2)) else none)

/-- A core's row boundary may take a trap: it runs or waits in its `EXIT` row, nothing else holds it, and no halt line has
arrived. -/
def State.atBoundary (s : State) (k : Nat) : Bool :=
  let c := s.coreAt k
  (decide (c.run = .running) || decide (c.run = .exiting)) && decide (c.hold = .none) &&
    (match c.halt with | none => true | some h => decide ((s.dieAt (keyDie k)).tick < h.at_))

/-- The trap that a boundary takes, with the core after it is no longer pending. -/
def State.boundaryTrap (s : State) (k : Nat) : Option (TrapReq × Core) :=
  let c := s.coreAt k
  let now := (s.dieAt (keyDie k)).tick
  if !(s.atBoundary k) then none
  else
    match (if isAnchor k then c.swtrap else none) with
    | some t => some (t, { c with swtrap := none })
    | none =>
      if c.trap.inh then none
      else
        match c.segTrap with
        | row :: r => some ({ code := cSEG, cls := 1, row := row, slot := 3, tick := now }, { c with segTrap := r })
        | [] =>
          match c.passTrap now with
          | some (n, p, code, no) =>
            some ({ code := code, cls := 1, row := p.row, elem := BitVec.ofNat 64 no, slot := 3, tick := now, pslot := some n },
                  c.setPass n { p with trap := none })
          | none =>
            if isAnchor k then none
            else if c.brken && decide (c.run = .running) && decide (c.pos.pend = 0) && !c.brkTaken && (c.rowAt c.pos.row).brk then
              some ({ code := cBRK, row := c.pos.row, elem := c.pos.beat, tick := now }, { c with brkTaken := true })
            else if c.step && !c.stepTaken then
              some ({ code := cSTEP, row := c.lastRow, elem := c.lastBeat, tick := now }, { c with stepTaken := true })
            else none

/-- A trap goes to the core's own handler: a class P trap with TRAPVEC.EN = 1, and every trap of an anchor. -/
def ownTrap (c : Core) (k : Nat) (t : TrapReq) : Bool := isAnchor k || (decide (t.cls = 1) && c.trap.en)

/-- At a row boundary a core takes a trap into its own handler (R345). -/
def execTrapEntry (die : DieNo) (core : CoreNo) (s : State) : Out :=
  let k := coreKey die core
  match s.boundaryTrap k with
  | none => .refused .notEnabled
  | some (t, c) => if ownTrap c k t then .next ((s.setCoreAt k c).enterHandler k t none) else .refused .notEnabled

/-- At a row boundary a core's trap is delivered to its anchor (R346). -/
def execTrapDelivery (die : DieNo) (core : CoreNo) (s : State) : Out :=
  let k := coreKey die core
  match s.boundaryTrap k with
  | none => .refused .notEnabled
  | some (t, c) => if ownTrap c k t then .refused .notEnabled else .next ((s.setCoreAt k c).deliverTrap k t)

/-- `TRAP`: an anchor's own handler runs from the next boundary; a compute core is held, and its request waits for the anchor (R346,
R362). -/
def execTrap (d a : Reg) (imm : BitVec 16) (s : State) : Out :=
  let t : TrapReq := { code := cSWTRAP, row := s.core.pos.row, elem := s.core.rdS a, svc := imm, tick := s.tick }
  if s.sup then .next (s.onCore (fun c => { c with swtrap := some t, trapDst := d.toNat }))
  else
    .next ((s.onCore (fun c => { c with hold := .trap d.toNat })).onDieAt s.die (fun x =>
      { x with reqs := SMap.set none x.reqs (keyNo s.cur) (some t) }))

/-! ### The halt of a launch (R348, R367) -/

/-- The status of a launch that `HALTCTX` halts: a first fault stands. DESIGN CHOICE (log 47): the `HALTREQ` of a halt that no core's fault
raised names logical core 0, also where that core has exited (R88). -/
def Launch.halted (l : Launch) (status : Byte) (now : Nat) : Launch :=
  let st := match l.status with | none => status | some x => x
  if l.cause = 0 then { l with status := some st, cause := cHALTREQ, faultCore := 0, faultAt := now }
  else { l with status := some st }

/-- The test of a launch or of a whole context. -/
def ofLaunch (ctx : Byte) (lid : Option (BitVec 16)) (k : Nat) (c : Core) : Bool :=
  !(isAnchor k) && c.ctx == ctx && (match lid with | none => true | some x => c.lid == x) && c.run.live

/-- A halt asked for by supervisor code (KIND 3). -/
def State.haltLaunch (s : State) (origin : Nat) (ctx : Byte) (lid : Option (BitVec 16)) (status : Byte) : State :=
  if !(s.cores.any (fun e => ofLaunch ctx lid e.1 e.2)) then s
  else
    (s.raiseHalt origin (ofLaunch ctx lid) true false).onMod (fun m => { m with launches := m.launches.map (fun l =>
      if l.pkt.ctx = ctx ∧ (match lid with | none => true | some x => l.pkt.lid == x) = true ∧ l.st ≠ .waiting then
        l.halted status s.walltNs else l) })

/-! ### Answers (R346, R362 to R365) -/

/-- A core held by its `TRAP` continues after that row, with a value for its register. -/
def State.answerTrap (s : State) (k : Nat) (v : Word) : State :=
  match (s.coreAt k).hold with
  | .trap d => s.onCoreAt k (fun c => { c.wrS (BitVec.ofNat 5 d) v with hold := .none })
  | _ => s

/-- The answer to a delivered trap of a core: what `ERET sa, sb` does to it. -/
def State.answer (s : State) (k : Nat) (t : TrapReq) (sa sb : Word) : State :=
  let c := s.coreAt k
  if t.code = cSWTRAP then
    match c.hold with
    | .trap _ => if sa.getLsbD 0 && c.trap.inh then s.leaveHandler k else s.answerTrap k sb
    | _ => s
  else if c.hold ≠ .delivered then s
  else
    let s1 := match t.pslot with
      | none => s
      | some n =>
        let p : Pass := c.pass n
        if t.cls = 1 ∧ sa.getLsbD 0 = true ∧ p.st = PState.parked ∧ p.frozen = false then
          s.setPassAt k n (if c.run = Run.suspended then { p with trap := none, stopParked := true } else s.reopened p p.row)
        else s
    s1.carryOn k

/-- The core whose instructions run ends its handler: it answers the core whose trap was delivered, or its own `TRAP`, and goes on
at its return position. -/
def State.eret (s : State) (sa sb : Word) : State :=
  let c := s.core
  let s1 :=
    if c.trap.dlv then
      match (s.dieAt s.die).serving with
      | none => s
      | some (x, t) => (s.answer (s.die * 32 + x) t sa sb).onDieAt s.die (fun d => { d with serving := none })
    else if c.trap.code = cSWTRAP then s.onCore (fun c => c.wrS (BitVec.ofNat 5 c.trapDst) sb)
    else s
  (s1.leaveHandler s.cur).onCore (fun c => { c with moved := true })

def execEret (g : Guard) (a b : Reg) (s : State) : Out :=
  supOnly s (if s.core.guardOn g && s.core.trap.inh then s.eret (s.core.rdS a) (s.core.rdS b) else s)

/-! ### Services of Boluno firmware (R363, R364; log 15) -/

/-- The lowest index from `n` on that holds no valid entry. -/
def freeFrom : Nat → SMap (BitVec 128) → Nat
  | n, [] => n
  | n, (k, e) :: r => if n < k then n else if k = n then (if rgV e then freeFrom (n + 1) r else n) else freeFrom n r

/-- The largest page size whose page at a virtual address fits a range (R363). -/
def fitSize (r : BitVec 128) (va : Nat) : Option Nat :=
  [2, 1, 0].find? (fun c =>
    let z := pageBytes c
    let base := va / z * z
    rgBase r % z == 0 && 128 * rgStitch r % z == 0 && decide (rgBase r ≤ base ∧ base + z ≤ rgBase r + 128 * rgCount r))

/-- PAGEIN for a virtual address of a context on a die: its answer, and the machine after it. -/
def State.pagein (s : State) (die : Nat) (ctx : Byte) (va : Nat) : Nat × State :=
  let d := s.dieAt die
  match d.rangeAt ctx.toNat va with
  | none => (1, s)
  | some (i, r) =>
    if !(rgPaged r) then (1, s)
    else if (d.pageAt ctx.toNat i va).isSome then (0, s)
    else
      let mine := s.mod.allocs.find? (fun a => a.ctx == ctx && decide (a.base ≤ va ∧ va < a.base + a.stride * a.shards))
      match (match mine with | some a => some a.page | none => fitSize r va) with
      | none => (3, s)
      | some code =>
        let n := freeFrom 0 d.pages
        if 65535 < n then (2, s)
        else
          let z := pageBytes code
          let q := d.mapw true 0 n (pageEntry (rgRd r) (rgWr r) code (va / z * z) ctx.toNat i)
          (q.1, s.setDieAt die q.2)

/-- Firmware has served a request: it issues `MAPFENCE`, and answers once the passes that it waits for have made their last visits or parked
(R216, R363). -/
def State.fenced (s : State) (k : Nat) (t : TrapReq) (sa sb : Word) : State :=
  match ridingOn s (keyDie k) with
  | [] => s.answer k t sa sb
  | l => s.onDieAt (keyDie k) (fun d => { d with serving := some (keyNo k, t), fence := some (l, sa, sb) })
/-- What firmware does with a request of a core. -/
def State.firmware (s : State) (k : Nat) (t : TrapReq) : State :=
  let c := s.coreAt k
  let abort := s.haltLaunch (keyDie k * 32 + Config.anchorNo) c.ctx (some c.lid) 0x10
  if t.code = cSWTRAP then
    match t.svc.toNat with
    | 0 => s.answer k t 1 1
    | 1 =>
      let q := s.pagein (keyDie k) c.ctx t.elem.toNat
      if q.1 = 0 then q.2.fenced k t 0 0 else q.2.answer k t 0 (BitVec.ofNat 64 q.1)
    | 2 => abort
    | _ => s.answer k t 0 (~~~0#64)
  else if t.cls ≠ 1 then s.answer k t 0 0
  else
    match t.pslot with
    | none => abort
    | some n =>
      let va := 128 * ((c.pass n).stitches.getD t.elem.toNat 0)
      if t.code ≠ cMISS then abort
      else
        let q := s.pagein (keyDie k) c.ctx va
        if q.1 = 0 then q.2.fenced k t 1 0 else abort

/-- The oldest request of a die: among those of one tick the lowest physical core. -/
def Die.oldest (d : Die) : Option (Nat × TrapReq) :=
  d.reqs.foldl (fun best e =>
    match e.2, best with
    | none, _ => best
    | some t, none => some (e.1, t)
    | some t, some b => if t.tick < b.2.tick then some (e.1, t) else best) none

/-- The anchor can take a request: firmware at once, an anchor's own program when it is in no handler (R346). -/
def State.anchorReady (s : State) (die : Nat) : Bool :=
  let k := die * 32 + Config.anchorNo
  let c := s.coreAt k
  let d := s.dieAt die
  d.serving.isNone && !d.anchorFailed && (!c.own || (s.atBoundary k && !c.trap.inh && c.swtrap.isNone))

/-- The tick from which firmware answers a request of a core; nothing bounds it (R346, log 7). -/
def TrapReq.due (t : TrapReq) (k : Nat) : Nat := t.tick + Config.freeTicks .answer (t.tick * 1024 + k)

/-- A `MAPFENCE` of firmware in progress: the answer that follows it is given, or fewer passes are left to wait for. -/
def State.fenceStep (s : State) (die : Nat) (f : List (Nat × Nat) × Word × Word) : Out :=
  match stillRiding s f.1, (s.dieAt die).serving with
  | [], some (x, t) => .next ((s.answer (die * 32 + x) t f.2.1 f.2.2).onDieAt die (fun d => { d with serving := none, fence := none }))
  | _, none => .next (s.onDieAt die (fun d => { d with fence := none }))
  | l, _ => if l = f.1 then .refused .notEnabled else .next (s.onDieAt die (fun d => { d with fence := some (l, f.2) }))

/-- The anchor takes the oldest request (R346): firmware answers it (R363), or the anchor enters its handler. -/
def execAnchorTakeRequest (die : DieNo) (s : State) : Out :=
  let d := die.toNat
  let k := d * 32 + Config.anchorNo
  match (s.dieAt d).fence, (s.dieAt d).oldest with
  | some f, _ => s.fenceStep d f
  | none, none => .refused .notEnabled
  | none, some (x, t) =>
    if !(s.anchorReady d) || (!(s.coreAt k).own && decide ((s.dieAt d).tick < t.due (d * 32 + x))) then .refused .notEnabled
    else
      let s1 := s.onDieAt d (fun q => { q with reqs := SMap.set none q.reqs x none })
      if (s.coreAt k).own then .next ((s1.onDieAt d (fun q => { q with serving := some (x, t) })).enterHandler k t (some x))
      else .next (s1.firmware (d * 32 + x) t)

/-! ### The halt line and the stop record (R348 to R350) -/

/-- Bits of the pass slots that a test picks. -/
def Core.slotBits (c : Core) (f : Pass → Bool) : Nat := (c.passes.map (fun e => if f e.2 then 2 ^ e.1 else 0)).sum

/-- The port of a stop record: the one that a `LINKSTALL` or `LINKDOWN` of the core names, or that of the send stall that held it (R325, R349). -/
def Core.stopPort (c : Core) : Nat :=
  match c.fault with
  | some g => if g.code = cLINKSTALL ∨ g.code = cLINKDOWN then g.elem.toNat % 256 else if c.stall ≠ 0 then c.stallPort else 0xFF
  | none => if c.stall ≠ 0 then c.stallPort else 0xFF
/-- Entries of the send queue of that port. -/
def Core.stopCount (c : Core) (port : Nat) : Nat :=
  if port < 16 then occupancy (c.sendQ port) else if port < 20 then (SMap.get [] c.meshSend (port - 16)).length else 0

/-- The 128 bytes of the stop record of a core (R349), which is `d` once its unsent entries are discarded; the ticks of the skid are
those to the record's completion. -/
def Core.stopRecord (c d : Core) (k : Nat) (h : Halt) : List Byte :=
  let kind : Nat := if c.fault.isSome then 0 else if h.suspend then 2 else if h.byReq then 3 else 1
  let cause : Byte := match c.fault with | some f => f.code | none => if h.byReq && !h.suspend then cHALTREQ else 0
  let f := c.fault.getD {}
  let lport := c.stopPort
  let w := fun (v : Word) => leBytes 8 v.toNat
  leBytes 2 0x0100 ++ leBytes 1 kind ++ [cause] ++ leBytes 2 c.lcore ++ [c.ctx] ++ leBytes 1 (keyDie k) ++ leBytes 1 (keyNo k) ++
    leBytes 1 f.slot ++ leBytes 2 c.lid.toNat ++ leBytes 1 c.skidRows ++ leBytes 1 12 ++ leBytes 2 0 ++ w c.pos.beat ++
    leBytes 2 c.pos.row ++ leBytes 2 c.pos.pend ++ leBytes 2 f.row ++ leBytes 2 0 ++ w f.elem ++
    leBytes 8 ((h.wall.getD 0) / 2 ^ 32) ++ w c.progv ++ w c.progt ++
    leBytes 4 (c.slotBits (fun p => decide (p.st = .parked))) ++
    leBytes 4 (c.slotBits (fun p => decide (p.st = .parked) && p.trap.isSome)) ++ w c.tags ++ w c.tagerr ++ leBytes 1 lport ++
    leBytes 1 (c.stopCount lport) ++ leBytes 2 d.discarded ++ leBytes 4 0 ++ leBytes 8 c.fpflags.toNat ++ w f.addr ++ leBytes 1 c.held ++
    leBytes 11 0 ++ leBytes 4 0x53544F50

/-- Where the stop record of a core lies in its anchor's scratchpad (R350). -/
def stopRecordAt (k : Nat) : Nat := 0x7F0000 + 128 * keyNo k

/-- The first n entries of an operation. -/
def LOp.upTo (op : LOp) (n : Nat) : LOp :=
  match op with
  | .send es => .send (es.take n)
  | .put x ws => .put x (ws.take (8 * n))
  | .amo o x ws => .amo o x (ws.take (8 * n))
  | .commit x ws => .commit x (ws.take (8 * n))
/-- Entries that circuits have not accepted are discarded and counted; those that they have are delivered (R348). -/
def Core.dropUnsent (c : Core) : Core :=
  let left := fun (l : List Sent) => (l.filter (fun m => decide (m.taken ≠ 0))).map (fun m => { m with op := m.op.upTo m.taken, entries := m.taken })
  { c with sends := SMap.setAll [] [] (c.sends.map (fun q => (q.1, left q.2))), discarded := c.discarded + (c.sends.map (fun q => occupancy q.2)).sum }

/-- A copy of an operation is on its way to a logical core of a launch of this module. -/
def Sent.isTo (m : Sent) (lcore : Nat) : Bool := !m.far && m.core == lcore
/-- Entries of a queue that are on their way, in copies that a test picks. -/
def inTransit (l : List Sent) (f : Sent → Bool) : Nat := ((l.filter f).map (fun m => m.taken - m.applied)).sum
/-- The copies of a core that a test picks, and whose circuits have accepted them whole, are discarded. -/
def Core.dropTo (c : Core) (f : Sent → Bool) : Core :=
  { c with sends := SMap.setAll [] [] (c.sends.map (fun q => (q.1, q.2.filter (fun m => !(f m && decide (m.taken = m.entries)))))) }
/-- The skid of a core is over: what was on its way to it and has not arrived is discarded, and so is what it sent to cores whose skid is over;
it counts both (R282, log 49). -/
def State.dropInTransit (s : State) (k : Nat) : State :=
  let c := s.coreAt k
  let mine := fun (x : Core) => x.ctx == c.ctx && x.lid == c.lid && decide (x.run ≠ .released)
  let gone := fun (m : Sent) => !m.far && s.cores.any (fun e => mine e.2 && e.2.lcore == m.core && decide (e.2.run = .halted) && e.2.halt.isNone)
  let whole := fun (f : Sent → Bool) (m : Sent) => f m && decide (m.taken = m.entries)
  let toMe := fun (m : Sent) => m.isTo c.lcore
  let n := (s.cores.map (fun e => if mine e.2 && !(isAnchor e.1) then (e.2.sends.map (fun q => inTransit q.2 (whole toMe))).sum else 0)).sum +
    (c.sends.map (fun q => inTransit q.2 (whole (fun m => gone m && !(toMe m))))).sum
  let far := (s.mod.farIn.filter (fun o => o.isFor c.ctx c.lid c.lcore)).map (fun o => o.entries - o.applied)
  let s1 := { s with cores := s.cores.map (fun (e : Nat × Core) => (e.1,
    let x := if mine e.2 && !(isAnchor e.1) then e.2.dropTo toMe else e.2
    if e.1 = k then { x.dropTo gone with discarded := x.discarded + n + far.sum } else x)) }
  s1.dropFars (fun o => o.isFor c.ctx c.lid c.lcore)

/-- Key of a launch's exit counters: its die groups, and 31 for the group counter (R372). -/
def counterKey (ctx : Byte) (lid : BitVec 16) (i : Nat) : Nat := (ctx.toNat * 65536 + lid.toNat) * 32 + i

/-- A core reports its exit, or counts as exited after a halt: its die group's counter, and at its zero the group counter, come down,
and the launch notes the exit (R88, R145, R348, R372). -/
def State.countExit (s : State) (k : Nat) : State :=
  let c := s.coreAt k
  let own := counterKey c.ctx c.lid c.diegrp
  let all := counterKey c.ctx c.lid 31
  let n := SMap.get 0 s.mod.counters own
  let last := n = 1 ∧ SMap.get 0 s.mod.counters all = 1
  let detect := (s.dieAt 0).tick + Config.freeTicks .endOfLaunch s.fresh % 145
  let t : State := { s with fresh := s.fresh + 1 }
  t.onMod (fun m => { m with
    counters :=
      let m1 := SMap.set 0 m.counters own (n - 1)
      if n = 1 then SMap.set 0 m1 all (SMap.get 0 m1 all - 1) else m1
    launches := m.launches.map (fun l =>
      if l.pkt.ctx = c.ctx ∧ l.pkt.lid = c.lid then
        { l with beats := max l.beats c.lastBeat.toNat, last := s.wallNs (keyDie k), tslockLast := m.tslock
                 endAt := if last then detect else l.endAt }
      else l) })

/-- The steps of a halt at a core that are due: the wall time of tick h, the stop after tick h + 2, the record in tick h + 12. -/
inductive HaltStep where
  | wall | stop | record
  deriving DecidableEq, Repr

/-- The next step of the halt line at a core, when its tick has come. -/
def haltStep (tick : Nat) (h : Halt) : Option HaltStep :=
  if h.wall.isNone then (if h.at_ ≤ tick then some .wall else none)
  else if !h.stopped then (if h.at_ + 3 ≤ tick then some .stop else none)
  else if h.at_ + 12 ≤ tick then some .record else none

/-- The halt line takes its next step at a core (R348, R349): it arrives, it stops the core after its skid, its record is
written. -/
def execHaltLine (die : DieNo) (core : CoreNo) (s : State) : Out :=
  let k := coreKey die core
  let c := s.coreAt k
  match c.halt with
  | none => .refused .notEnabled
  | some h =>
    match haltStep (s.dieAt die.toNat).tick h with
    | none => .refused .notEnabled
    | some .wall => .next (s.setCoreAt k { c with halt := some { h with wall := some (s.wallAt (keyDie k)) } })
    | some .stop =>
      .next ((s.stopCore k).onCoreAt k (fun c => { c with
        run := if h.suspend then .suspended else .halted
        runKept := if c.run = .suspended then c.runKept else c.run
        halt := some { h with stopped := true } }))
    | some .record =>
      let s0 := if h.suspend then s else if isAnchor k then s.setCoreAt k c.dropUnsent else (s.setCoreAt k c.dropUnsent).dropInTransit k
      let c1 := s0.coreAt k
      let s1 := s0.setCoreAt k { c1 with halt := none }
      let gone := fun (t : State) => t.onDieAt die.toNat (fun d => { d with
        reqs := SMap.set none d.reqs core.toNat none
        serving := match d.serving with | some q => if q.1 = core.toNat then none else some q | none => none })
      let s2 := if h.suspend then s1 else if isAnchor k then gone s1 else (gone s1).countExit k
      .next (s2.putAt (die.toNat * 32 + Config.anchorNo) (stopRecordAt k) (c.stopRecord c1 k h))

end Sys2Proof.Machine
end

