-- ==== Sys2Proof/Machine/Supervisor.lean ====
section
/-! DEFINITION. Control registers, and the supervisor instructions that act on the map store, on contexts, keys, scratchpads and owners
(R33, R38, R82, R83, R110, R111, R148, R196 to R199, R215, R222, R223, R251, R262, R287, R314, R315, R319 to R328, R344, R358 to R360, R366,
R367, R374 to R378, R383, R395 to R398). -/

namespace Sys2Proof.Machine

/-! ### Views of the always-on records (R375, R378, R383) -/

/-- A core is clean (R374). -/
def Core.clean (c : Core) : Bool := !c.parts && decide (c.low = c.high)
/-- A segment is clean. -/
def Seg.clean (g : Seg) : Bool := decide (g.dirty = 0)
/-- Dirty blocks of a segment. -/
def Seg.dirtyCount (g : Seg) : Nat := (List.range 512).foldl (fun n b => if g.dirty.getLsbD b then n + 1 else n) 0

/-- `OWNSTAT` of a selection. -/
def ownstat (s : State) (die : Nat) (sel : Nat) : Word :=
  let top := sel * 2 ^ 58
  if sel < 26 then
    let c := s.coreAt (die * 32 + sel)
    BitVec.ofNat 64 (top + c.owner.toNat * 2 ^ 48 + c.high.toNat * 2 ^ 24 + c.low.toNat * 2 ^ 7 + (if c.placed then 2 ^ 6 else 0) +
      (if c.parts then 2 ^ 5 else 0))
  else if 32 ≤ sel ∧ sel < 56 then
    let g := s.segAt (die * 32 + (sel - 32))
    BitVec.ofNat 64 (top + g.owner.toNat * 2 ^ 48 + g.dirtyCount * 2 ^ 32)
  else BitVec.ofNat 64 top

/-- `SCRUBPROG` of a selection. -/
def scrubprog (s : State) (die : Nat) (sel : Nat) : Word :=
  let top := sel * 2 ^ 58
  if sel < 24 then
    let g := s.segAt (die * 32 + sel)
    BitVec.ofNat 64 (top + (if g.pzValid then 2 ^ 57 else 0) + g.pzCount * 2 ^ 24 + g.pzFirst)
  else if sel < 48 then
    let g := s.segAt (die * 32 + (sel - 24))
    BitVec.ofNat 64 (top + g.pzRemain * 2 ^ 24 + g.pzNext)
  else if sel = 48 then
    let x := (s.dieAt die).scrub
    BitVec.ofNat 64 (top + (if x.busy then 2 ^ 57 else 0) + x.core.toNat * 2 ^ 52 + x.len * 2 ^ 33 + x.done * 2 ^ 16 + x.base)
  else BitVec.ofNat 64 top

/-- `KEYSTAT` of a selection. -/
def keystat (s : State) (die : Nat) (sel : Nat) : Word :=
  let k := SMap.get {} (s.dieAt die).keys sel
  BitVec.ofNat 64 (sel * 2 ^ 58 + (if k.loaded then 2 ^ 57 else 0) + k.ctx.toNat * 2 ^ 48)

/-! ### Reading a control register (R110, R111, R148) -/

/-- The debug bits of a core: PFREEZE, BRKEN, STEP. -/
def Core.debugBits (c : Core) : Nat := (if c.pfreeze then 4 else 0) + (if c.brken then 2 else 0) + (if c.step then 1 else 0)
/-- A state as `PROGWn` codes it (R222). -/
def PState.code : PState → Nat
  | .idle => 0 | .riding => 1 | .parked => 2 | .closing => 3
/-- `PROGWn`. -/
def Pass.progw (p : Pass) : Word :=
  BitVec.ofNat 64 (p.st.code * 2 ^ 62 + p.tag.toNat * 2 ^ 56 + p.tid.toNat * 2 ^ 48 + p.openPt * 2 ^ 24 + p.visits)
/-- `BAMAP` of the segment attached to the core in hand (R196). -/
def State.bamap (s : State) : Nat :=
  match s.core.seg with
  | none => 0
  | some k =>
    let g := s.segAt k
    (if g.remap.isSome then 2 ^ 47 else 0) + (if (List.range 24).any (fun i => decide ((s.segAt (s.die * 32 + i)).hot ≠ 0)) then 2 ^ 46 else 0) +
      g.l * 2 ^ 40 + g.live.toNat
/-- `CURSOR` of the segment attached to the core in hand (R199). -/
def State.cursorReg (s : State) : Nat :=
  match s.core.seg with
  | none => 0
  | some k => (if s.holding s.die then 2 ^ 24 else 0) + s.cursorOf k
/-- `HEAT` (R262). -/
def State.heatReg (s : State) : Nat :=
  let d := s.dieAt s.die
  d.heatCap.toNat * 2 ^ 32 + (BitVec.ofInt 32 d.balance).toNat
/-- `TRAPCAUSE`. -/
def TrapRegs.cause (t : TrapRegs) : Nat := (if t.inh then 2 ^ 16 else 0) + t.cls.toNat * 2 ^ 8 + t.code.toNat
/-- `TRAPSLOT`. -/
def TrapRegs.slotReg (t : TrapRegs) : Nat :=
  t.svc.toNat * 2 ^ 16 + (if t.dlv then 2 ^ 13 else 0) + t.req.toNat * 2 ^ 8 + t.slot.toNat
/-- `XCTX` (R251). -/
def Core.xctx (c : Core) : Nat :=
  c.src.xsel.toNat * 2 ^ 24 + c.src.xtag1.toNat * 2 ^ 16 + c.src.xtag0.toNat * 2 ^ 8 + (c.src.xtag c.activeSet).toNat

/-- Registers that user mode reads as 0 and cannot write (R111). -/
def crSup (n : Nat) : Bool := n == 0x003 || n == 0x090 || n == 0x300 || n == 0x310 || n == 0x311 || n == 0x320

/-- The value of a control register in the tick in hand. -/
def State.crd (s : State) (n : Nat) : Word :=
  let c := s.core
  let d := s.dieAt s.die
  let w := fun (x : Nat) => BitVec.ofNat 64 x
  if crSup n && !s.sup then 0
  else if 0x020 ≤ n ∧ n ≤ 0x03F then (c.pass (n - 0x020)).progw
  else if 0x048 ≤ n ∧ n ≤ 0x04F then (SMap.get 0x21F3F#23 c.src.tshape (n - 0x048)).setWidth 64
  else
    match n with
    | 0x000 => w c.lcore
    | 0x001 => w c.ncores
    | 0x002 => w c.diegrp
    | 0x003 => w ((match c.seg with | none => 0 | some k => 2 ^ 21 + keyNo k * 2 ^ 16) + s.die * 2 ^ 8 + keyNo s.cur)
    | 0x004 => c.lid.setWidth 64
    | 0x005 => c.ctx.setWidth 64
    | 0x008 => c.pos.beat
    | 0x009 => w d.tick
    | 0x00A => w d.ptick
    | 0x00B => w (d.tick - d.ptick)
    | 0x00C => w (s.wallNs s.die)
    | 0x00D => w s.cursorReg
    | 0x00E => w (match c.seg with | none => 0 | some k => s.period k)
    | 0x00F => w s.bamap
    | 0x010 => s.tagMask s.cur c.tags
    | 0x011 => s.tagMask s.cur c.tagerr
    | 0x040 => c.progv
    | 0x041 => c.progt
    | 0x050 => c.src.fpctl.setWidth 64
    | 0x051 => c.fpflags.setWidth 64
    | 0x060 => c.rngkey0
    | 0x061 => c.rngkey1
    | 0x070 => w s.heatReg
    | 0x080 => w ((if c.trap.en then 2 ^ 63 else 0) + c.trap.vec.toNat)
    | 0x081 => w c.trap.cause
    | 0x082 => c.trap.row.setWidth 64
    | 0x083 => c.trap.elem
    | 0x084 => w c.trap.slotReg
    | 0x090 => w (c.dbgCore.toNat * 2 ^ 16 + (s.coreAt (s.die * 32 + c.dbgCore.toNat)).debugBits)
    | 0x0A0 => w (c.arr.toNat * 2 ^ 16 + c.ph.toNat)
    | 0x0B0 => w c.xctx
    | 0x200 => w (c.raceCount.toNat * 2 ^ 32 + (if c.raceLost then 4 else 0) + c.racemode.toNat)
    | 0x201 => w (c.raceNext.toNat * 2 ^ 48 + c.raceSize.toNat * 2 ^ 40 + c.raceBase.toNat * 2 ^ 5)
    | 0x300 => w (c.mapCtx.toNat * 2 ^ 40 + (if c.mapTable then 2 ^ 16 else 0) + c.mapIndex.toNat)
    | 0x310 => scrubprog s s.die c.scrubSel.toNat
    | 0x311 => ownstat s s.die c.ownSel.toNat
    | 0x320 => keystat s s.die c.keySel.toNat
    | _ => 0

def execCrd (d : Reg) (cr : BitVec 11) (s : State) : Out := .next (s.setS d (s.crd cr.toNat))

/-! ### Writing a control register -/

/-- `RNGKEY0` or `RNGKEY1`: both stream counters go back to 0 (R149). -/
def Core.putKey (c : Core) (hi : Bool) (v : Word) : Core :=
  { c with rngkey0 := if hi then c.rngkey0 else v, rngkey1 := if hi then v else c.rngkey1, sctr := 0, vctr := 0 }
/-- `XCTX.SEL` (R251). -/
def Core.putXctx (c : Core) (v : Word) : Core := { c with regs := { c.regs with xsel := v.extractLsb' 24 1 } }
/-- `RACELOG`: the ring is placed anew (R315). -/
def Core.putRacelog (c : Core) (v : Word) : Core :=
  { c with raceBase := v.extractLsb' 5 18, raceSize := v.extractLsb' 40 4, raceNext := 0 }
/-- `FPFLAGS`: flags that arrive in the same beat are ORed in after the write (R38, R39). -/
def State.putFpflags (s : State) (v : Word) : State :=
  s.onCore (fun c => { c with
    fpflags := (v.setWidth 16 &&& flagMask) ||| flagsAt c.flagQ c.beats ||| (if c.arrived.1 = s.tick then c.arrived.2 else 0) })
/-- `TAGERR`: bits written as 1 are cleared (R223). -/
def Core.clearTagerr (c : Core) (v : Word) : Core := { c with tagerr := c.tagerr &&& ~~~v }

/-- The frozen passes of a core reopen in ascending slot; while the core stands stopped they are parked as by its stop, and ride when it goes on
(R230, R360). -/
def State.releaseFrozen (s : State) (k : Nat) : State :=
  s.onCoreAt k (fun c => { c with passes := c.passes.map (fun e =>
    if !e.2.frozen then e
    else if decide (c.hold = .delivered) || decide (c.run = .suspended) || decide (c.run = .halted) then
      (e.1, { e.2 with frozen := false, stopParked := true })
    else (e.1, s.reopened e.2 e.2.row)) })

/-- `DBGCTL` of an anchor: a selection above 25, or of a core placed for a protected context, makes the write ignored (R358, R384). -/
def State.putDbgctl (s : State) (v : Word) : State :=
  let n := (v.extractLsb' 16 5).toNat
  let k := s.die * 32 + n
  let x := s.coreAt k
  if 26 ≤ n ∨ (x.placed && s.isProtected x.ctx) = true then s
  else
    let s1 := (s.onCore (fun c => { c with dbgCore := v.extractLsb' 16 5 })).onCoreAt k (fun c =>
      { c with step := v.getLsbD 0, brken := v.getLsbD 1, pfreeze := v.getLsbD 2 })
    if v.getLsbD 3 || !(v.getLsbD 2) then s1.releaseFrozen k else s1

/-- A write to a control register: fields that are zero or read-only keep their values (R5, R111). DESIGN CHOICE (log 47): `PCORE`, which R111
lists as written in supervisor mode, keeps its value, as R82 says of a `CWR` to it. -/
def State.cwr (s : State) (n : Nat) (v : Word) : State :=
  if crSup n && !s.sup then s
  else if 0x048 ≤ n ∧ n ≤ 0x04F then
    s.onCore (fun c => { c with regs := { c.regs with
      tshape := SMap.set 0x21F3F#23 c.regs.tshape (n - 0x048) (v.setWidth 23 &&& 0x737F3F#23) } })
  else
    match n with
    | 0x011 => s.onCore (fun c => c.clearTagerr v)
    | 0x050 => s.onCore (fun c => { c with regs := { c.regs with fpctl := v.setWidth 3 } })
    | 0x051 => s.putFpflags v
    | 0x060 => s.onCore (fun c => c.putKey false v)
    | 0x061 => s.onCore (fun c => c.putKey true v)
    | 0x080 => s.onCore (fun c => { c with trap := { c.trap with en := v.getLsbD 63, vec := v.setWidth 14 } })
    | 0x090 => s.putDbgctl v
    | 0x0B0 => s.onCore (fun c => c.putXctx v)
    | 0x200 => s.onCore (fun c => { c with racemode := v.setWidth 2, raceLost := c.raceLost && !(v.getLsbD 2) })
    | 0x201 => s.onCore (fun c => c.putRacelog v)
    | 0x300 => s.onCore (fun c => { c with mapCtx := v.extractLsb' 40 8, mapTable := v.getLsbD 16, mapIndex := v.setWidth 16 })
    | 0x310 => s.onCore (fun c => { c with scrubSel := v.extractLsb' 58 6 })
    | 0x311 => s.onCore (fun c => { c with ownSel := v.extractLsb' 58 6 })
    | 0x320 => s.onCore (fun c => { c with keySel := v.extractLsb' 58 6 })
    | _ => s

def execCwr (a : Reg) (cr : BitVec 11) (s : State) : Out := .next (s.cwr cr.toNat (s.core.rdS a))

/-- The effect of a write to a random-stream key, by itself (R149). -/
def execRngkeyWrite (hi : Bool) (v : Word) (s : State) : Out := .next (s.onCore (fun c => c.putKey hi v))
/-- The effect of a write to `XCTX`, by itself (R251). -/
def execXctxWrite (v : Word) (s : State) : Out := .next (s.onCore (fun c => c.putXctx v))
/-- The effect of a write to `RACELOG`, by itself (R315). -/
def execRacelogWrite (v : Word) (s : State) : Out := .next (s.onCore (fun c => c.putRacelog v))
/-- The effect of a write to `FPFLAGS`, by itself (R39). -/
def execFpflagsWrite (v : Word) (s : State) : Out := .next (s.putFpflags v)
/-- The effect of a write to `TAGERR`, by itself (R223). -/
def execTagerrWrite (v : Word) (s : State) : Out := .next (s.onCore (fun c => c.clearTagerr v))
/-- A write of `DBGCTL` with RELEASE (R360): an anchor's, for the core that it selects. -/
def execRelease (v : Word) (s : State) : Out := if s.sup && v.getLsbD 3 then .next (s.putDbgctl v) else .refused .notEnabled

/-! ### `MAPW` (R366) -/

def execMapw (g : Guard) (d a b : Reg) (s : State) : Out :=
  supOnly s (if s.core.guardOn g then
    let c := s.core
    let q := (s.dieAt s.die).mapw c.mapTable c.mapCtx.toNat c.mapIndex.toNat (c.rdS b ++ c.rdS a)
    let s1 := (s.setDieAt s.die q.2).setS d (BitVec.ofNat 64 q.1)
    if q.1 = 0 then s1.onCore (fun c => { c with
      mapIndex := if c.mapTable then c.mapIndex + 1 else BitVec.ofNat 16 ((c.mapIndex.toNat + 1) % 256) }) else s1
  else s)

/-! ### What `HALTCTX` does to cores (R367) -/

/-- The status that a halt action gives. -/
def haltStatus (sb : Word) : Byte := match (sb.extractLsb' 2 2).toNat with | 1 => 0x11 | 2 => 0x12 | _ => 0x10

/-- The cores of a suspension: those that run, exit or wait to start. -/
def toSuspend (ctx : Byte) (lid : Option (BitVec 16)) (k : Nat) (c : Core) : Bool :=
  ofLaunch ctx lid k c && decide (c.run ≠ .suspended)
/-- The launches of a halt action. -/
def Launch.isOf (ctx : Byte) (lid : Option (BitVec 16)) (l : Launch) : Bool :=
  l.pkt.ctx == ctx && (match lid with | none => true | some x => l.pkt.lid == x)

/-- Cores of a launch, or of a whole context, are suspended (R357, R367). -/
def State.suspendLaunch (s : State) (origin : Nat) (ctx : Byte) (lid : Option (BitVec 16)) : State :=
  (s.raiseHalt origin (toSuspend ctx lid) true true).onMod (fun m => { m with launches := m.launches.map (fun l =>
    if l.isOf ctx lid && decide (l.st ≠ .waiting) then { l with st := .suspended } else l) })

/-- A suspended core goes on. -/
def toResume (ctx : Byte) (lid : Option (BitVec 16)) (k : Nat) (c : Core) : Bool :=
  !(isAnchor k) && c.ctx == ctx && (match lid with | none => true | some x => c.lid == x) && decide (c.run = .suspended) && c.halt.isNone

/-- The core at a key resumes after a suspension: a delivered trap or a `TRAP` still waits for its answer. -/
def State.wake (s : State) (k : Nat) : State :=
  let h := (s.coreAt k).hold
  (if h = .delivered then s else (s.resumeCore k).onCoreAt k (fun c => { c with hold := h })).onCoreAt k (fun c =>
    { c with run := c.runKept })

/-- Suspended cores of a launch, or of a whole context, resume; a checkpointed launch, which holds none, goes on waiting to be restored. -/
def State.resumeLaunch (s : State) (ctx : Byte) (lid : Option (BitVec 16)) : State :=
  (((s.cores.filter (fun e => toResume ctx lid e.1 e.2)).map (fun e => e.1)).foldl State.wake s).onMod (fun m => { m with
    launches := m.launches.map (fun l =>
      if l.isOf ctx lid && decide (l.st = .suspended) && !l.restoring then { l with st := .running } else l) })

/-- How many cores a test picks. -/
def State.countCores (s : State) (f : Nat → Core → Bool) : Nat := (s.cores.filter (fun e => f e.1 e.2)).length

/-! ### `KEYZ`, `SCRUB`, `ASSIGN` (R376, R378, R395 to R398) -/

/-- The codes of d of `CTXSV` and `CTXRS` (R368). -/
def csState : Word := 0x8000000000000001
def csPlace : Word := 0x8000000000000002
def csHost : Word := 0x8000000000000003
def csImage : Word := 0x8000000000000004

/-- The anchor's `CTXSV` or `CTXRS` is over, with a value. -/
def State.hostDone (s : State) (anchor : Nat) (v : Word) : State :=
  match (s.coreAt anchor).hold with
  | .host d => s.onCoreAt anchor (fun c => { c.wrS (BitVec.ofNat 5 d) v with hold := .none })
  | _ => s

/-- The anchor of a `CTXSV` in progress on a die for a core of a context. -/
def CacheReq.savesFor (s : State) (die : Nat) (ctx : Byte) (r : CacheReq) : Option Nat :=
  match r.use with
  | .save a k => if keyDie a = die ∧ (s.coreAt k).ctx = ctx then some a else none
  | _ => none
/-- The `CTXSV`s in progress towards the save region of a die for a context fail; a launch that firmware was checkpointing goes on instead (R385,
R396, log 15). -/
def State.failRegion (s : State) (die : Nat) (ctx : Byte) : State :=
  let mine := fun (k : Nat) => (s.coreAt k).ctx == ctx
  let js := (s.dieAt die).region
  let anchors := js.filterMap (fun j => match j.use with | .save a k => if mine k then some a else none | _ => none)
  let back := js.any (fun j => match j.use with | .checkpoint k => mine k | _ => false)
  let stays := fun (j : RegionJob) => match j.use with
    | .save _ k => keyDie k != die || !(mine k)
    | .checkpoint k => !(mine k && back)
    | _ => true
  let s1 := (List.range Config.dies).foldl (fun (t : State) d => t.onDieAt d (fun x => { x with region := x.region.filter stays })) s
  let s2 := anchors.foldl (fun (t : State) a => t.hostDone a csImage) s1
  if !back then s2
  else (s2.mod.launches.filter (fun l => decide (l.pkt.ctx = ctx) && l.preempt == 4)).foldl (fun (t : State) l =>
    (t.onMod (fun m => { m with launches := m.launches.map (fun x => if x.order = l.order then { x with preempt := 0 } else x) })).resumeLaunch
      ctx (some l.pkt.lid)) s2
/-- A slot of a die is zeroised: host lines of its context's passes that have not been encrypted or decrypted are not transferred, and a
`CTXSV` in progress for the context fails (R385, R396). -/
def State.zeroKey (s : State) (die slot : Nat) : State :=
  let x : KeySlot := SMap.get {} (s.dieAt die).keys slot
  let s1 := s.onDieAt die (fun d => { d with keys := SMap.set {} d.keys slot {} })
  if !x.loaded then s1
  else
    let s2 : State := { s1 with cores := s1.cores.map (fun (e : Nat × Core) => (e.1,
      if keyDie e.1 = die then { e.2 with passes := e.2.passes.map (fun (p : Nat × Pass) => (p.1, if p.2.ctx = x.ctx then p.2.loseKey x.pair else p.2)) } else e.2)) }
    let anchors := s2.mod.cacheReqs.filterMap (CacheReq.savesFor s2 die x.ctx)
    let s3 := (anchors.foldl (fun (t : State) a => t.hostDone a csImage) s2).onMod (fun m =>
      { m with cacheReqs := m.cacheReqs.filter (fun r => (r.savesFor s2 die x.ctx).isNone) })
    s3.failRegion die x.ctx

def execKeyz (g : Guard) (d a : Reg) (s : State) : Out :=
  supOnly s (if s.core.guardOn g then
    let n := (s.core.rdS a).toNat
    if 63 < n then s.setS d 2
    else if (SMap.get {} (s.dieAt s.die).keys n).loaded = false then s.setS d 1
    else
      let f := s.choose .supervisor 4
      (f.2.zeroKey s.die n).onCore (fun c => { c with hold := .op d.toNat (s.tick + f.1) 0 })
  else s)

def execScrub (g : Guard) (d a b : Reg) (s : State) : Out :=
  supOnly s (if s.core.guardOn g then
    let n := (s.core.rdS a).toNat
    let base := (s.core.rdS b).toNat % 2 ^ 32
    let len := (s.core.rdS b).toNat / 2 ^ 32
    if 25 < n ∨ base % 128 ≠ 0 ∨ len % 128 ≠ 0 ∨ len = 0 ∨ Config.scratchBytes < base + len then s.setS d 3
    else if (s.coreAt (s.die * 32 + n)).placed then s.setS d 2
    else if (s.dieAt s.die).scrub.busy then s.setS d 1
    else (s.setS d 0).onDieAt s.die (fun x => { x with scrub := ⟨true, BitVec.ofNat 5 n, base / 128, len / 128, 0, s.tick + 1⟩ })
  else s)

/-- A core's dirty range as a scrub from unit `base` reaches unit `top` (R376). -/
def Core.scrubbed (c : Core) (base top : Nat) : Core :=
  if c.low.toNat < c.high.toNat ∧ base ≤ c.low.toNat then
    let low := max c.low.toNat top
    if c.high.toNat ≤ low then { c with low := 0, high := 0 } else { c with low := BitVec.ofNat 17 low }
  else c

/-- A beat of the scrub engine: one unit is zeroed where its banks grant it, or, after the last, the engine is idle again (R178, R378, R397). -/
def execScrubEngineBeat (die : DieNo) (s : State) : Out :=
  let d := die.toNat
  let x := (s.dieAt d).scrub
  let tick := (s.dieAt d).tick
  if !x.busy then .refused .notEnabled
  else if x.len ≤ x.done then .next (s.onDieAt d (fun q => { q with scrub := { x with busy := false } }))
  else
    let k := d * 32 + x.core.toNat
    let at_ := 128 * (x.base + x.done)
    let ask : Ask := ⟨[(at_, 128)], false⟩
    if !((s.coreAt k).grants tick [ask]) then .refused .notEnabled
    else
      let s1 := (s.onCoreAt k (fun c => c.takeBanks tick [ask])).putAt k at_ (List.replicate 128 0)
      .next ((s1.onDieAt d (fun q => { q with scrub := { x with done := x.done + 1, since := tick + 1 } })).onCoreAt k (fun c =>
        c.scrubbed x.base (x.base + x.done + 1)))

/-- A segment is attached to a core of an outstanding launch. -/
def State.attached (s : State) (seg : Nat) : Bool := s.cores.any (fun e => e.2.placed && e.2.seg == some seg)
/-- A segment is mapped by a valid range entry of a context other than one. -/
def State.mappedByOther (s : State) (seg : Nat) (ctx : Nat) : Bool :=
  (s.dieAt (keyDie seg)).ranges.any (fun e => rgV e.2 && rgSeg e.2 == keyNo seg && e.1 / 256 != ctx)

/-- A core changes owner: its stop record and its debug bits are zeroed with it (R350, R358, R398). -/
def State.giveCore (s : State) (k : Nat) (ctx : Byte) : State :=
  if (s.coreAt k).owner = ctx then s
  else
    (s.onCoreAt k (fun c => { c with owner := ctx, step := false, brken := false, pfreeze := false })).putAt
      (keyDie k * 32 + Config.anchorNo) (stopRecordAt k) (List.replicate 128 0)

/-- `ASSIGN` of a record of a die to a context: the code and the state after it. -/
def State.assign (s : State) (die sel : Nat) (ctx : Byte) : Nat × State :=
  if sel < 26 then
    let k := die * 32 + sel
    let c := s.coreAt k
    let x := (s.dieAt die).scrub
    if c.placed then (2, s)
    else if !c.clean || (x.busy && x.core.toNat == sel) then (1, s)
    else (0, s.giveCore k ctx)
  else if 32 ≤ sel ∧ sel < 56 then
    let k := die * 32 + (sel - 32)
    let g := s.segAt k
    if s.attached k || s.mappedByOther k ctx.toNat then (2, s)
    else if !g.clean || g.pzValid then (1, s)
    else (0, s.setSegAt k { g with owner := ctx })
  else (3, s)

def execAssign (g : Guard) (d a b : Reg) (s : State) : Out :=
  supOnly s (if s.core.guardOn g then
    let sa := (s.core.rdS a).toNat
    let sb := (s.core.rdS b).toNat
    if 255 < sa ∨ 255 < sb then s.setS d 3
    else
      let q := s.assign s.die sa (BitVec.ofNat 8 sb)
      q.2.setS d (BitVec.ofNat 64 q.1)
  else s)

end Sys2Proof.Machine
end

