-- ==== Sys2Proof/Machine/Launches.lean ====
section
/-! DEFINITION. Launches: packets and their checks, the error log, completion records, what a placement asks for and grants, the start
pulse, exit and end of launch, migration, and the instructions `LAUNCH` and `LJOIN` (R11, R12, R16 to R22, R70 to R72, R75, R76, R79 to
R86, R88 to R90, R145, R271 to R273, R283, R294, R295, R354, R372 to R374). -/

namespace Sys2Proof.Machine

/-! ### The error log and interrupts (R65, R72, R89) -/

/-- An MSI-X vector is raised. -/
def State.raiseMsix (s : State) (v : Nat) : State := s.onMod (fun m => { m with msix := m.msix ++ [v] })
/-- An entry of the error log: the last 64 are kept, ERRHEAD counts all, and vector 1 is raised. -/
def State.logError (s : State) (code ctx : Byte) (lid : BitVec 16) (detail : Nat) : State :=
  let e := [code, ctx] ++ leBytes 2 lid.toNat ++ leBytes 4 detail ++ leBytes 8 s.walltNs
  (s.onMod (fun m => { m with
    errlog := (m.errlog ++ [e]).drop (m.errlog.length + 1 - 64)
    errhead := m.errhead + 1 })).raiseMsix 1

/-! ### Packets (R17 to R19) -/

/-- The packet that 128 bytes hold. -/
def packetOf (b : List Byte) : Packet :=
  let n := leAt b
  { version := BitVec.ofNat 16 (n 0x00 2), flags := BitVec.ofNat 16 (n 0x02 2), image := BitVec.ofNat 32 (n 0x04 4),
    lid := BitVec.ofNat 16 (n 0x08 2), entry := BitVec.ofNat 16 (n 0x0A 2), cores := n 0x0C 2, dies := n 0x0E 1,
    ctx := BitVec.ofNat 8 (n 0x0F 1), scratch := n 0x10 4, passes := n 0x14 1, lanes := n 0x15 1, tags := n 0x16 1,
    prio := BitVec.ofNat 8 (n 0x17 1), barriers := BitVec.ofNat 16 (n 0x18 2), heat := n 0x1A 2, prioTokens := n 0x1C 2,
    lstall := n 0x1E 2, remain := n 0x20 4, aff := (List.range 4).map (fun i => BitVec.ofNat 8 (n (0x24 + i) 1)),
    deps := (List.range 4).map (fun i => BitVec.ofNat 16 (n (0x28 + 2 * i) 2)), notBefore := n 0x30 8, completion := n 0x38 8,
    args := (List.range 8).map (fun i => BitVec.ofNat 64 (n (0x40 + 8 * i) 8)) }

/-- DET, MESH and MSIX (R18). -/
def Packet.det (p : Packet) : Bool := p.flags.getLsbD 0
def Packet.mesh (p : Packet) : Bool := p.flags.getLsbD 1
def Packet.msix (p : Packet) : Bool := p.flags.getLsbD 2
/-- AFFV and DEPV. -/
def Packet.affv (p : Packet) (n : Nat) : Bool := p.flags.getLsbD (4 + n)
def Packet.depv (p : Packet) (n : Nat) : Bool := p.flags.getLsbD (8 + n)
/-- Priority 0 to 15. -/
def Packet.priority (p : Packet) : Nat := p.prio.toNat % 16
/-- The valid dependences. -/
def Packet.depends (p : Packet) : List (BitVec 16) := (p.deps.zipIdx.filter (fun d => p.depv d.2)).map (fun d => d.1)
/-- Barrier ids reserved. -/
def Packet.barrierCount (p : Packet) : Nat := ((List.range 16).filter (fun i => p.barriers.getLsbD i)).length
/-- COMPLETION is itself at fault. -/
def Packet.badCompletion (p : Packet) : Bool := p.completion % 64 != 0

/-- Check 2: zero fields and bits are zero. -/
def Packet.zerosOk (p : Packet) : Bool := decide (p.flags &&& 0xF008#16 = 0#16) && !(p.prio.getLsbD 7) && !p.badCompletion
/-- The part of check 3 that the packet alone decides. -/
def Packet.rangesOk (p : Packet) : Bool :=
  (decide (p.entry.toNat ≤ 16383) || decide (p.entry = 0xFFFF#16)) && decide (1 ≤ p.cores ∧ p.cores ≤ 384) &&
    decide (1 ≤ p.dies ∧ p.dies ≤ 16) && decide (p.ctx ≠ 0) && p.scratch % 4096 == 0 &&
    decide (4096 ≤ p.scratch ∧ p.scratch ≤ Config.scratchBytes) && decide (p.passes ≤ 32) && decide (p.lanes ≤ 16) &&
    decide (p.tags ≤ 64) && decide (1 ≤ p.lstall) && decide (p.dies ≤ p.cores) && decide (p.cores ≤ 24 * p.dies) &&
    !(p.depends.contains p.lid)

/-- The outstanding launch of a context with an id. -/
def State.outstanding (s : State) (ctx : Byte) (lid : BitVec 16) : Option Launch :=
  s.mod.launches.find? (fun l => l.pkt.ctx == ctx && l.pkt.lid == lid)
/-- A resident image. -/
def State.imageOf (s : State) (id : W32) : Option Image := s.mod.images.find? (fun i => i.id == id)
/-- The policy of a context. -/
def State.context (s : State) (ctx : Byte) : Ctx := SMap.get {} s.mod.contexts ctx.toNat

/-- The status of a packet under R19: 0 where it passes; `sender` is the context of a core that submitted it (R294). -/
def State.packetStatus (s : State) (p : Packet) (sender : Option Byte) : Byte :=
  if p.version ≠ 0x0100 then 0x01
  else if !p.zerosOk then 0x02
  else if !(p.rangesOk && (s.outstanding p.ctx p.lid).isNone && (s.context p.ctx).opened &&
      (match sender with | none => true | some c => c == p.ctx)) then 0x03
  else
    match s.imageOf p.image with
    | none => 0x04
    | some i =>
      if !((decide (p.entry = 0xFFFF#16) || decide (p.entry.toNat < i.rows.length)) && (!(s.context p.ctx).signedOnly || i.signed)) then 0x04
      else if !(decide (i.minScratch ≤ p.scratch) && decide (i.minPasses ≤ p.passes) && decide (i.minLanes ≤ p.lanes) &&
          decide (i.minTags ≤ p.tags) && decide (i.minHeat ≤ p.heat) && i.inits.all (fun r => decide (r.1 + r.2.length ≤ p.scratch))) then 0x05
      else 0

/-! ### Completion records (R88 to R90) -/

/-- The 64 bytes of a completion record. -/
def Launch.record (l : Launch) (status : Byte) : List Byte :=
  let ran := decide (l.fired ≠ [])
  let w := fun (v : Nat) => leBytes 8 (if ran then v else 0)
  leBytes 2 0x0100 ++ leBytes 2 0 ++ leBytes 2 (1 + (if l.tslockFirst && l.tslockLast then 2 else 0)) ++ [status, l.pkt.ctx] ++
    leBytes 2 l.pkt.lid.toNat ++ leBytes 2 l.cause.toNat ++ leBytes 2 l.faultCore ++ leBytes 2 (min l.suspends 0xFFFF) ++
    w l.first ++ w l.last ++ leBytes 8 l.arrive ++ w l.beats ++ leBytes 16 0

/-- A completion record goes on its way to the host. -/
def State.sendRecord (s : State) (l : Launch) (status : Byte) (out : Bool) : State :=
  s.askHost { use := .record l.pkt.ctx l.pkt.lid l.pkt.msix out, base := l.pkt.completion, len := 64, data := l.record status }

/-- A launch is no longer outstanding. -/
def State.dropLaunch (s : State) (ctx : Byte) (lid : BitVec 16) : State :=
  s.onMod (fun m => { m with launches := m.launches.filter (fun l => !(l.pkt.ctx == ctx && l.pkt.lid == lid)) })
/-- Change the outstanding launch of a context with an id. -/
def State.onLaunch (s : State) (ctx : Byte) (lid : BitVec 16) (f : Launch → Launch) : State :=
  s.onMod (fun m => { m with launches := m.launches.map (fun l => if l.pkt.ctx = ctx ∧ l.pkt.lid = lid then f l else l) })

/-- A launch writes no record: `LAUNCH` sent it with a COMPLETION of 0 (R294). -/
def Launch.silent (l : Launch) : Bool := l.parent.isSome && l.pkt.completion == 0

/-- A launch completes with a status: its record is written, and it is outstanding until then (R75, R89). DESIGN CHOICE (log 47): of a launch
that never ran, which has neither T_FIRST nor T_LAST, FLAGS.TSLOCK is the lock as it completes (R88). -/
def State.complete (s : State) (l : Launch) (status : Byte) : State :=
  if l.silent then s.dropLaunch l.pkt.ctx l.pkt.lid
  else
    let lock := l.fired.isEmpty && s.mod.tslock
    let l1 := { l with ended := true, place := [], tslockFirst := l.tslockFirst || lock, tslockLast := l.tslockLast || lock }
    ((s.onLaunch l.pkt.ctx l.pkt.lid (fun _ => l1)).dropFars (fun o => o.ctx == l.pkt.ctx && o.lid == l.pkt.lid)).sendRecord l1 status true

/-! ### Arrival (R70, R71, R294) -/

/-- Free entries of the launch queue. -/
def Module.lqfree (m : Module) : Nat :=
  1024 - (m.launches.filter (fun l => !l.ended && (decide (l.st = .waiting) || decide (l.st = .suspended)))).length

/-- The place of a packet in the order of arrival: its tick, its offset in LWIN, and its number among all (R71). -/
def arrivalOrder (tick off n : Nat) : Nat := (tick * 2 ^ 32 + off) * 2 ^ 32 + n

/-- A packet that has arrived is checked: it is refused, joins the queue, or finds it full. -/
def State.receivePacket (s : State) (a : Arrived) : State :=
  let p := packetOf a.bytes
  let off := a.off
  let status := s.packetStatus p a.sender
  let l : Launch := { pkt := p, order := arrivalOrder a.tick off s.mod.arrivals, arrive := a.wall, parent := a.parent }
  if status ≠ 0 then
    if p.badCompletion then s.logError status p.ctx p.lid off
    else if l.silent then s
    else s.sendRecord { l with tslockFirst := s.mod.tslock, tslockLast := s.mod.tslock } status false
  else if s.mod.lqfree = 0 then s.logError 0x41 p.ctx p.lid off
  else s.onMod (fun m => { m with launches := m.launches ++ [l], arrivals := m.arrivals + 1 })

/-- A packet arrives in this tick. -/
def State.arrive (s : State) (bs : List Byte) (off : Nat) (parent : Option (BitVec 16 × Nat)) (sender : Option Byte) : State :=
  s.onMod (fun m => { m with inbox := m.inbox ++
    [{ bytes := bs, off := off, tick := (s.dieAt 0).tick, wall := s.walltNs, parent := parent, sender := sender }] })

/-- The packets of one tick are checked in the order of their offsets, those of `LAUNCH` last (R71, log 42). -/
def State.checkInbox (s : State) : State :=
  (s.mod.inbox.insertionSort (fun a b => a.off ≤ b.off)).foldl State.receivePacket (s.onMod (fun m => { m with inbox := [] }))

/-- `LAUNCH`: the packet in scratchpad arrives in this tick, and the core records its id (R294). -/
def execLaunch (a : Reg) (s : State) : Out :=
  let x := (s.core.rdS a).toNat
  match spLoad s 4 0 x 128 128 with
  | .stop s1 => .next s1
  | .ok s1 v =>
    let bs := leBytes 128 v
    let c := s.core
    .next ((s1.arrive bs 0xFFFFFFFF (some (c.lid, c.lcore)) (some (if s.sup then 0 else c.ctx))).onCore (fun r =>
      { r with launched := ((packetOf bs).lid :: r.launched).take 16 }))

/-- `LJOIN` is held: a launch that this core submitted, and still records, is outstanding (R295). -/
def ljoinWaits (s : State) (a : Reg) : Bool :=
  let id : BitVec 16 := (s.core.rdS a).setWidth 16
  s.core.launched.contains id &&
    s.mod.launches.any (fun l => l.pkt.ctx == s.core.ctx && l.pkt.lid == id && l.parent == some (s.core.lid, s.core.lcore))
def execLjoin (_ : Reg) (s : State) : Out := .next s

/-! ### The head of the queue (R20, R75, R76) -/

/-- A launch waits to be placed: it has not been, or it was checkpointed. -/
def Launch.queued (l : Launch) : Bool := !l.ended && (decide (l.st = .waiting) || l.restoring)
/-- A launch is eligible. -/
def State.eligible (s : State) (l : Launch) : Bool :=
  l.queued && l.pkt.depends.all (fun d =>
      !(s.mod.launches.any (fun o => o.pkt.ctx == l.pkt.ctx && o.pkt.lid == d && decide (o.order < l.order)))) &&
    (l.pkt.notBefore == 0 || decide (l.pkt.notBefore ≤ s.walltNs + 100000))
/-- A launch comes before another at the head: higher PRIO, then earlier arrival. -/
def Launch.before (a b : Launch) : Bool :=
  decide (b.pkt.priority < a.pkt.priority) || (decide (a.pkt.priority = b.pkt.priority) && decide (a.order < b.order))
/-- The eligible launch that comes before all others. -/
def State.firstLaunch (s : State) : Option Launch :=
  (s.mod.launches.filter s.eligible).foldl (fun best l => match best with | none => some l | some b => if l.before b then some l else best) none
/-- The launch at the head: one that has had to wait there stays, whatever comes later (R76). -/
def State.headLaunch (s : State) : Option Launch :=
  match s.mod.launches.find? (fun l => s.mod.head == some l.order && s.eligible l) with
  | some l => some l
  | none => s.firstLaunch

/-! ### Die groups and what they hold (R11, R79) -/

/-- Cores of a die group. -/
def groupSize (cores dies g : Nat) : Nat := cores / dies + (if g < cores % dies then 1 else 0)
/-- First logical core of a die group. -/
def groupStart (cores dies g : Nat) : Nat := g * (cores / dies) + min g (cores % dies)
/-- Die group of a logical core. -/
def groupOf (cores dies i : Nat) : Nat := ((List.range dies).find? (fun g => decide (i < groupStart cores dies (g + 1)))).getD 0

/-- The descriptors of an image written into the table of a context (R16). -/
def State.writeTensors (s : State) (ctx : Byte) (ts : List (Byte × Desc)) : State :=
  ts.foldl (fun s t => s.setDesc ctx t.1.toNat t.2) s

/-- The allocation of a context that holds a virtual address. -/
def State.allocAt (s : State) (ctx : Byte) (va : Nat) : Option Alloc :=
  s.mod.allocs.find? (fun a => a.ctx == ctx && decide (a.base ≤ va ∧ va < a.base + a.stride * a.shards))

/-- Whether a launch names an allocation through AFF0, and which: the descriptor is read as step 3 of the start will leave it. -/
def State.affinity (s : State) (p : Packet) : Option (Option Alloc) :=
  if !(p.affv 0) then none
  else
    let ts := match s.imageOf p.image with | none => [] | some i => i.tensors
    let d := ((s.writeTensors p.ctx ts).onMod Module.settleDescs).desc p.ctx (p.aff.getD 0 0).toNat
    some (if d.valid then s.allocAt p.ctx d.base.toNat else none)

/-- The segments that are fixed for a launch's first logical cores: of its checkpoint, or of the allocation that AFF0 names; none where
AFF0 names no allocation. -/
def State.fixedSegs (s : State) (l : Launch) : Option (List Nat) :=
  if l.restoring then some (l.segs.map (fun x => x - 1))
  else match s.affinity l.pkt with | none => some [] | some none => none | some (some a) => some a.parts

/-- The dies of the fixed segments of a die group. -/
def groupDies (fixed : List Nat) (cores dies g : Nat) : List Nat :=
  (((fixed.drop (groupStart cores dies g)).take (groupSize cores dies g)).map keyDie).dedup

/-! ### Free cores and segments (R21, R79 to R81, R374) -/

/-- What a placement looks at: the launches whose resources count as free; all of them for the question of R81. -/
structure View where
  all : Bool := false
  gone : List Nat := []
  /-- Those of them whose segments keep their contents (R357). -/
  saved : List Nat := []

/-- A launch's resources count as free. -/
def View.free (v : View) (l : Launch) : Bool := v.all || v.gone.contains l.order
/-- The resources of the launch that holds a core count as free. -/
def View.freeCore (v : View) (s : State) (c : Core) : Bool :=
  v.all || (match s.outstanding c.ctx c.lid with | none => false | some l => v.free l)

/-- A core may be taken for a context. -/
def View.coreOk (v : View) (s : State) (ctx : Byte) (k : Nat) : Bool :=
  let c := s.coreAt k
  if v.all then true else if c.placed then v.freeCore s c else c.clean && (c.owner == 0 || c.owner == ctx)
/-- No core of a launch that stays is attached to a segment. -/
def View.detached (v : View) (s : State) (seg : Nat) : Bool :=
  s.cores.all (fun e => !(e.2.placed && e.2.seg == some seg) || v.freeCore s e.2)
/-- A segment holds part of an allocation. -/
def State.allocated (s : State) (seg : Nat) : Bool := s.mod.allocs.any (fun a => a.parts.contains seg)
/-- A segment is attached to a core whose launch goes without keeping its contents. -/
def View.given (v : View) (s : State) (seg : Nat) : Bool :=
  s.cores.any (fun e => e.2.placed && e.2.seg == some seg &&
    !(match s.outstanding e.2.ctx e.2.lid with | none => false | some l => v.saved.contains l.order))
/-- A segment is free for a context. -/
def View.segOk (v : View) (s : State) (ctx : Byte) (seg : Nat) : Bool :=
  let g := s.segAt seg
  if v.all then !(s.allocated seg)
  else !(s.allocated seg) && v.detached s seg && ((g.clean && (g.owner == 0 || g.owner == ctx)) || v.given s seg)

/-- The cores of a die along the path, fused-off ones skipped (R80, R81), and DESIGN CHOICE (log 50) failed ones too, which take no launch. -/
def State.path (s : State) (die : Nat) : List Nat :=
  ((List.range Config.computeCores).map (fun i => die * 32 + i)).filter (fun k => !(s.coreAt k).fused && !(s.coreAt k).failed)
/-- The runs of `n` cores on a path that a test accepts, first to last. -/
def runsOf (ok : Nat → Bool) (n : Nat) (path : List Nat) : List (List Nat) :=
  ((List.range (path.length + 1 - n)).map (fun i => (path.drop i).take n)).filter (fun r => r.all ok)
/-- Ticks until the row store of a core holds the expansion of an image of some rows, where it is to be expanded now if it does not (R74). -/
def Core.coldTicks (c : Core) (image : W32) (rows tick : Nat) : Nat := if c.image = some image then c.expandAt - tick else 64 + (rows + 7) / 8
/-- A core is warm for an image (R74). -/
def State.warm (s : State) (image : W32) (k : Nat) : Bool := decide ((s.coreAt k).image = some image ∧ (s.coreAt k).expandAt ≤ (s.dieAt (keyDie k)).tick)
/-- Warm cores of a run. -/
def State.warmth (s : State) (image : W32) (run : List Nat) : Nat := (run.filter (s.warm image)).length
/-- The run with the most warm cores, and of those the first. -/
def State.bestRun (s : State) (image : W32) : List (List Nat) → Option (List Nat)
  | [] => none
  | r :: rs => match s.bestRun image rs with
    | none => some r
    | some q => if s.warmth image r < s.warmth image q then some q else some r

/-- Heat that the launches which stay have reserved on a die, in tokens per 1,024 ticks. -/
def View.heatUsed (v : View) (s : State) (die : Nat) : Nat :=
  (s.mod.launches.map (fun l => if v.free l then 0 else l.pkt.heat * (l.place.filter (fun k => keyDie k == die)).length)).sum
/-- Barrier counters that the launches which stay hold on a die. -/
def View.barsUsed (v : View) (s : State) (die : Nat) : Nat :=
  (s.mod.launches.map (fun l => if v.free l || !(l.place.any (fun k => keyDie k == die)) then 0 else l.pkt.barrierCount)).sum
/-- Barrier counters that they hold in the module's tree. -/
def View.barsAll (v : View) (s : State) : Nat :=
  (s.mod.launches.map (fun l => if v.free l || l.place.isEmpty then 0 else l.pkt.barrierCount)).sum
/-- The reservable heat rate, barrier counters and anchor of a die allow `n` cores of a launch (R21, R393). -/
def View.poolsOk (v : View) (s : State) (p : Packet) (die n : Nat) : Bool :=
  !(s.dieAt die).anchorFailed &&
    decide (v.heatUsed s die + p.heat * n ≤ Config.heatReservable (BitVec.ofNat 4 die)) &&
    decide (v.barsUsed s die + p.barrierCount ≤ 64)

/-- The segments of logical cores from `i` on, `n` of them: fixed ones, and the lowest free ones that are not taken. -/
def View.segsFor (v : View) (s : State) (ctx : Byte) (fixed : List Nat) (die : Nat) : Nat → List Nat → Nat → Option (List Nat)
  | _, _, 0 => some []
  | i, taken, n + 1 =>
    let pick := match fixed[i]? with
      | some g => if v.detached s g then some g else none
      | none => (segKeys die).find? (fun g => !(taken.contains g) && v.segOk s ctx g)
    match pick with
    | none => none
    | some g => (v.segsFor s ctx fixed die (i + 1) (g :: taken) n).map (fun r => g :: r)

/-- What a die offers a die group: a run of cores and their segments. -/
def View.offer (v : View) (s : State) (l : Launch) (fixed : List Nat) (g die : Nat) : Option (List Nat × List Nat) :=
  let n := groupSize l.pkt.cores l.pkt.dies g
  if !(v.poolsOk s l.pkt die n) then none
  else
    match s.bestRun l.pkt.image (runsOf (v.coreOk s l.pkt.ctx) n (s.path die)) with
    | none => none
    | some r => (v.segsFor s l.pkt.ctx fixed die (groupStart l.pkt.cores l.pkt.dies g) [] n).map (fun t => (r, t))

/-- The better of two dies' offers: more warm cores, then the lower die. -/
def State.bestOffer (s : State) (image : W32) : List (Nat × List Nat × List Nat) → Option (Nat × List Nat × List Nat)
  | [] => none
  | o :: os => match s.bestOffer image os with
    | none => some o
    | some q => if s.warmth image o.2.1 < s.warmth image q.2.1 then some q else some o

/-- The places of the die groups: fixed dies as they must be, the others in ascending group. -/
def View.groups (v : View) (s : State) (l : Launch) (fixed : List Nat) : Nat → List Nat → List Nat → Option (List (Nat × List Nat × List Nat))
  | _, _, [] => some []
  | g, used, d :: ds =>
    let dies := if d < 16 then [d] else (List.range 16).filter (fun x => !(used.contains x))
    match s.bestOffer l.pkt.image (dies.filterMap (fun x => (v.offer s l fixed g x).map (fun o => (x, o)))) with
    | none => none
    | some o => (v.groups s l fixed (g + 1) (o.1 :: used) ds).map (fun r => o :: r)

/-- The live port of lowest number on a trunk (R283). -/
def State.trunkPort (s : State) (trunk : Nat) : Option Nat :=
  ((List.range 72).find? (fun p => let q := SMap.get {} s.mod.ports p; q.everUp && q.home == trunk && q.up && !q.retired))
/-- The trunks that an image's bindings name. -/
def Image.trunks (i : Image) : List Nat := (((i.switch.flatMap (fun b => b.targets)).filter tgFar).map tgTrunk).dedup

/-- What the placement engine finds for a launch. -/
inductive Plan0 where
  /-- No state of the module could serve it (R79, R81). -/
  | nofit
  /-- It cannot be granted everything now. -/
  | wait
  /-- For each die group its die, cores and segments. -/
  | grant (gs : List (Nat × List Nat × List Nat))
  deriving DecidableEq, Repr

/-- Whether the launch can be granted everything, seen through a view. -/
def View.plan (v : View) (s : State) (l : Launch) : Plan0 :=
  match s.fixedSegs l, s.imageOf l.pkt.image with
  | some fixed, some i =>
    let per := (List.range l.pkt.dies).map (groupDies fixed l.pkt.cores l.pkt.dies)
    let dies := per.map (fun ds => ds.headD 16)
    let own := dies.filter (fun d => decide (d < 16))
    if per.any (fun ds => decide (1 < ds.length)) || !(decide own.Nodup) || !(i.trunks.all (fun t => (s.trunkPort t).isSome)) then .nofit
    else if 256 < v.barsAll s + l.pkt.barrierCount then .wait
    else match v.groups s l fixed 0 own dies with | none => .wait | some gs => .grant gs
  | _, _ => .nofit

/-- The engine's decision on a launch (R76, R81). -/
def State.placement (s : State) (l : Launch) (gone : List Nat) : Plan0 :=
  match View.plan { gone := gone } s l with
  | .wait => if View.plan { all := true } s l = .wait then .nofit else .wait
  | r => r

/-! ### Reservation and the writes of start (R12, R16, R74, R82, R83, R85) -/

/-- A core after hardware has zeroed it: what belongs to the place and not to the tenant stays (R373). -/
def Core.blank (c : Core) : Core :=
  { scratch := c.scratch, badScratch := c.badScratch, tileUpset := c.tileUpset, rowStore := c.rowStore, rows := c.rows, failed := c.failed,
    image := c.image, badRows := c.badRows, expandAt := c.expandAt, step := c.step, brken := c.brken, pfreeze := c.pfreeze, owner := c.owner, placed := c.placed,
    parts := c.parts, partsDue := c.partsDue, low := c.low, high := c.high, fused := c.fused, own := c.own, entry := c.entry }

/-- The row store holding the expansion of some rows (R94). -/
def expandRows (rows : List RowWords) : SMap W32 :=
  (rows.zipIdx.flatMap (fun r => ([r.1.header, r.1.s, r.1.sx, r.1.v, r.1.t, r.1.w, r.1.wx, r.1.l].zipIdx.map (fun w =>
    (r.2 * 8 + w.2, w.1))))).filter (fun e => e.2 != 0)
/-- A core is warmed for an image from a tick on (R74). -/
def Core.expand (c : Core) (i : Image) (tick : Nat) : Core :=
  if c.image = some i.id then c
  else { c with rowStore := expandRows i.rows, rows := i.rows.length, image := some i.id, badRows := [], expandAt := tick + c.coldTicks i.id i.rows.length tick }
/-- INIT records are copied into a scratchpad: an uncorrectable unit that a record covers whole is good again (R16, R180). -/
def Core.init (c : Core) (i : Image) : Core := i.inits.foldl (fun d r => d.putBytes 0 r.1 r.2) c

/-- A core as a launch holds it: what the packet reserves and where it stands. -/
def Core.hold_ (c : Core) (l : Launch) (i : Image) (n g seg : Nat) : Core :=
  { c with
    run := .placed, placed := true, ctx := l.pkt.ctx, lid := l.pkt.lid, lcore := n, ncores := l.pkt.cores, diegrp := g, seg := some seg
    scratchLen := l.pkt.scratch, passesMax := l.pkt.passes, lanes := l.pkt.lanes, tagsMax := l.pkt.tags, barriers := l.pkt.barriers
    lstall := l.pkt.lstall, mesh := l.pkt.mesh, det := l.pkt.det, bindings := i.switch }

/-- The row that a launch enters at. -/
def Launch.entryRow (l : Launch) (i : Image) : Nat := if l.pkt.entry = 0xFFFF#16 then i.entry else l.pkt.entry.toNat

/-- A core of a new launch: registers as R12 sets them, at its entry row; its scratchpad takes INIT in step 3 of the start. -/
def Core.begin_ (c : Core) (l : Launch) (i : Image) (n g seg tick : Nat) : Core :=
  { ((c.blank.expand i tick).hold_ l i n g seg) with
    regs := { s := SMap.setAll 0 [] (l.pkt.args.zipIdx.map (fun a => (a.2 + 1, a.1))) }
    pos := { row := l.entryRow i }
    interval := 1 }

/-- What a core takes from another whose work it carries on: all but what belongs to the place (R352, R354). -/
def Core.takeOver (c src : Core) : Core :=
  { src with
    scratch := Memory.setBytes c.scratch 0 (Memory.bytes src.scratch 0 src.scratchLen)
    badScratch := c.badScratch, badTile := c.badTile, tileUpset := c.tileUpset, rowStore := c.rowStore, rows := c.rows, image := c.image
    badRows := c.badRows, expandAt := c.expandAt, wakeAt := none, step := c.step, brken := c.brken, pfreeze := c.pfreeze, owner := c.owner, placed := c.placed, parts := c.parts
    partsDue := c.partsDue, low := c.low, high := c.high, fused := c.fused, failed := c.failed, own := c.own, entry := c.entry }

/-- A core is taken for a context. -/
def State.takeCore (s : State) (k : Nat) (ctx : Byte) (f : Core → Core) : State := (s.giveCore k ctx).onCoreAt k f
/-- A segment with no owner takes a context as its owner. -/
def State.takeSeg (s : State) (seg : Nat) (ctx : Byte) : State :=
  let g := s.segAt seg
  if g.owner = 0 then s.setSegAt seg { g with owner := ctx } else s

/-- The reservation of a launch at a placement: heat, exit counters, the ports of its circuits, and the level of its dies (R21, R86, R283,
R321, R372; the counters are loaded here, since a halt may come before the pulse). -/
def State.reserve (s : State) (l : Launch) (i : Image) (gs : List (Nat × List Nat × List Nat)) (load : Bool) : State :=
  let s1 := gs.foldl (fun t g => t.onDieAt g.1 (fun d => { d with
    heatRate := d.heatRate + l.pkt.heat * g.2.1.length
    levelNext := if l.pkt.det then .full else d.levelNext })) s
  s1.onMod (fun m => { m with
    counters := if load then
        SMap.setAll 0 m.counters ((gs.zipIdx.map (fun g => (counterKey l.pkt.ctx l.pkt.lid g.2, g.1.2.1.length))) ++
          [(counterKey l.pkt.ctx l.pkt.lid 31, gs.length)])
      else m.counters
    launches := m.launches.map (fun x => if x.order = l.order then
        { x with
          place := gs.flatMap (fun g => g.2.1), segs := gs.flatMap (fun g => g.2.2.map (fun t => t + 1)), dieOf := gs.map (fun g => g.1)
          trunks := i.trunks.foldl (fun t h => SMap.set 0 t h ((s.trunkPort h).getD 0 + 1)) [] }
      else x) })

/-- The places of a grant: logical core, die group, core, segment. -/
def grantPlaces (gs : List (Nat × List Nat × List Nat)) : List (Nat × Nat × Nat × Nat) :=
  ((gs.zipIdx.flatMap (fun g => (g.1.2.1.zip g.1.2.2).map (fun q => (g.2, q.1, q.2)))).zipIdx).map (fun e => (e.2, e.1))

/-- Some core of a grant is not warm for the image. -/
def anyCold (s : State) (l : Launch) (gs : List (Nat × List Nat × List Nat)) : Bool :=
  gs.any (fun g => decide (s.warmth l.pkt.image g.2.1 < g.2.1.length))
/-- Ticks until every core of some is warm for an image, where those that are not are expanded from now on (R74). -/
def State.expandTicks (s : State) (i : Image) (ks : List Nat) : Nat :=
  (ks.map (fun k => (s.coreAt k).coldTicks i.id i.rows.length (s.dieAt (keyDie k)).tick)).foldl max 0
/-- Ticks of the writes of start: descriptors, INIT data (R85, R87). -/
def writeTicks (i : Image) : Nat := i.tensors.length + ((i.inits.map (fun r => r.2.length)).sum + 127) / 128
/-- Ticks beyond 36 by which the lead anchor puts P_s after step 3: none where NOT_BEFORE is ahead, so that P_s comes before it if it can, and
none where all cores are warm, as R87 bounds; otherwise nothing bounds them (R86, log 36). -/
def startSlack (s : State) (l : Launch) (gs : List (Nat × List Nat × List Nat)) : Nat :=
  if !(anyCold s l gs) || (l.pkt.notBefore != 0 && decide (s.wallNs s.mod.lead.toNat < l.pkt.notBefore)) then 0 else Config.freeTicks .start s.fresh

/-- INIT of an image is copied to the cores of a launch (R16). -/
def State.writeInit (s : State) (l : Launch) (i : Image) : State :=
  l.place.foldl (fun t k => t.onCoreAt k (fun c => if c.run.live then c.init i else c)) s
/-- Step 3 of the starts whose time has come: the TENSORS of their images are written, and then INIT is copied (R16, R85). -/
def State.writeStarts (s : State) : State :=
  s.mod.launches.foldl (fun t l =>
    match l.writeAt, s.imageOf l.pkt.image with
    | some w, some i =>
      if w ≤ (s.dieAt s.mod.lead.toNat).ptick then
        ((t.writeTensors l.pkt.ctx i.tensors).writeInit l i).onLaunch l.pkt.ctx l.pkt.lid (fun x => { x with writeAt := none })
      else t
    | _, _ => t) s

/-- The start of a new launch: its reservation, its cores, and the tick from which its TENSORS are written; and the start tick P_s that the
lead anchor chooses (R85, R86; logs 7, 36). -/
def State.commitLaunch (s : State) (l : Launch) (i : Image) (gs : List (Nat × List Nat × List Nat)) : State :=
  let w := (s.dieAt s.mod.lead.toNat).ptick + s.expandTicks i (gs.flatMap (fun g => g.2.1))
  let p := w + writeTicks i + 36 + startSlack s l gs
  let s0 : State := { s with fresh := s.fresh + 1 }
  let s1 := (grantPlaces gs).foldl (fun t e =>
    (t.takeCore e.2.2.1 l.pkt.ctx (fun c => c.begin_ l i e.1 e.2.1 e.2.2.2 (s.dieAt (keyDie e.2.2.1)).tick)).takeSeg e.2.2.2 l.pkt.ctx) (s0.reserve l i gs true)
  (s1.onLaunch l.pkt.ctx l.pkt.lid (fun x => { x with st := .placed, startAt := p, writeAt := some w })).writeStarts

/-! ### The start pulse (R86, R321, R324) -/

/-- The level at which a die's island runs: 8 under the critical-temperature trip. -/
def Die.runLevel (d : Die) : Level := if d.critical then .eight else d.level

/-- A core starts in a tick. -/
def Core.start (c : Core) (tick : Nat) : Core :=
  if c.run = .placed ∧ c.halt.isNone = true then { c with run := .running, startAt := some tick } else c

/-- The start pulse of a launch fires on a die. -/
def execStartPulse (ctx : Byte) (lid : BitVec 16) (die : DieNo) (s : State) : Out :=
  match s.outstanding ctx lid with
  | none => .refused .notEnabled
  | some l =>
    let d := die.toNat
    if l.ended || decide (l.st ≠ .placed ∧ l.st ≠ .running) || !(l.dieOf.contains d) || l.fired.contains d || l.restoring ||
        decide ((s.dieAt d).ptick < l.startAt) || (l.pkt.notBefore != 0 && decide (s.wallNs d < l.pkt.notBefore)) ||
        (l.pkt.det && l.dieOf.any (fun x => decide ((s.dieAt x).runLevel ≠ .full))) then .refused .notEnabled
    else
      let s1 := (l.place.filter (fun k => keyDie k == d)).foldl (fun t k => t.onCoreAt k (fun c => c.start (s.dieAt d).tick)) s
      .next (s1.onLaunch ctx lid (fun x => { x with
        st := .running
        fired := x.fired ++ [d]
        first := if x.fired.isEmpty then s.wallNs d else min x.first (s.wallNs d)
        tslockFirst := if x.fired.isEmpty then s.mod.tslock else x.tslockFirst }))

/-! ### Exit and end (R145, R372, R373) -/

/-- Work of a core that its exit awaits: passes, operations in flight, and sends other than commits. -/
def Core.busyAtExit (c : Core) : Bool :=
  c.passes.any (fun e => e.2.open_) || decide (c.tmma ≠ []) || c.sends.any (fun q => q.2.any (fun m => m.op.awaited)) ||
    (match c.vfly with | none => false | some f => f.active c.beats) || (match c.tfly with | none => false | some f => f.active c.beats)

/-- A core that has issued `EXIT` is done: it reports its exit. -/
def execCoreExit (die : DieNo) (core : CoreNo) (s : State) : Out :=
  let k := coreKey die core
  let c := s.coreAt k
  if c.run ≠ .exiting ∨ c.busyAtExit = true ∨ c.hold ≠ .none ∨ (c.trap.inh && c.ret.isSome) = true ∨ c.halt.isSome = true then .refused .notEnabled
  else if isAnchor k then .next (s.setCoreAt k { c with run := .exited })
  else .next ((s.countExit k).onCoreAt k (fun c => { c with run := .exited }))

/-- The end of a core's dirty range once a launch that reserved scratchpad has left it (R376). -/
def Core.newHigh (c : Core) : BitVec 17 := BitVec.ofNat 17 (max c.high.toNat (c.scratchLen / 128))
/-- A core is released: its circuits and `LAUNCH` records are torn down, its registers are to be zeroed, and its dirty range covers what the
launch reserved (R373, R376). -/
def Core.release (c : Core) (due : Nat) : Core :=
  { c with run := .released, placed := false, parts := true, partsDue := due, low := 0, high := c.newHigh,
           seg := none, halt := none, hold := .none, sends := [], bindings := [], launched := [], farSent := [] }

/-- The tick by which hardware has zeroed a core that is released now, the n-th of some: within 256 (R373, log 7). -/
def State.zeroedAt (s : State) (k n : Nat) : Nat := (s.dieAt (keyDie k)).tick + Config.freeTicks .zeroing (s.fresh + n) % 257

/-- Release of the cores of a launch: steps 1 and 2 of R373 on each core. -/
def State.releaseCores (s : State) (l : Launch) : State :=
  let s1 := l.place.foldl (fun t k =>
    let u : State := { t.onCoreAt k (fun c => c.release (t.zeroedAt k 0)) with fresh := t.fresh + 1 }
    u.onDieAt (keyDie k) (fun d => { d with
      heatRate := d.heatRate - l.pkt.heat
      heatQ := d.heatQ.filter (fun j => j != k)
      reqs := SMap.set none d.reqs (keyNo k) none })) s
  s1.onLaunch l.pkt.ctx l.pkt.lid (fun x => { x with place := [] })

/-- Contributions that a launch staged and no `PCMT` committed are discarded (R373). -/
def Seg.discard (g : Seg) (ctx : Byte) (lid : BitVec 16) : Seg :=
  let mine := fun (c : Byte) (k : PassKey) => c == ctx && !k.sup && k.launch == lid.toNat
  { g with ord := g.ord.filter (fun e => !(mine e.ctx e.key)), reserved := g.reserved.filter (fun e => !(mine e.2.1 e.1)) }

/-- The end of a launch is detected: its resources are released and its completion record goes out. -/
def execEndOfLaunch (ctx : Byte) (lid : BitVec 16) (s : State) : Out :=
  match s.outstanding ctx lid with
  | none => .refused .notEnabled
  | some l =>
    if l.ended ∨ l.place = [] ∨ SMap.get 0 s.mod.counters (counterKey ctx lid 31) ≠ 0 ∨ (s.dieAt 0).tick < l.endAt then .refused .notEnabled
    else
      let s1 := (s.releaseCores l)
      let s2 := { s1 with segs := s1.segs.map (fun (e : Nat × Seg) => (e.1, e.2.discard ctx lid)) }
      .next (s2.complete l (l.status.getD 0))

/-! ### Migration (R84, R282, R354) -/

/-- Rename a core in a list of passes that some row waits for. -/
def renameCore (a b : Nat) (l : Option (List (Nat × Nat))) : Option (List (Nat × Nat)) :=
  l.map (fun xs => xs.map (fun e => if e.1 = a then (b, e.2) else e))

/-- A core may be moved off its place: it runs, and no halt is on its way to it. -/
def Core.movable (c : Core) : Bool := (decide (c.run = .running) || decide (c.run = .exiting)) && c.halt.isNone
/-- A core may take over the work of a core of a context. -/
def Core.takesOver (c : Core) (ctx : Byte) : Bool := !c.placed && !c.fused && !c.failed && c.clean && (c.owner == 0 || c.owner == ctx)

/-- A die lacks nothing for the die group g of a launch but a single run of cores (R84). -/
def State.lacksRun (s : State) (l : Launch) (fixed : List Nat) (die g : Nat) : Bool :=
  let v : View := {}
  let n := groupSize l.pkt.cores l.pkt.dies g
  let own := groupDies fixed l.pkt.cores l.pkt.dies g
  (own == [] || own == [die]) && v.poolsOk s l.pkt die n && decide (n ≤ ((s.path die).filter (v.coreOk s l.pkt.ctx)).length) &&
    (runsOf (v.coreOk s l.pkt.ctx) n (s.path die)).isEmpty && (v.segsFor s l.pkt.ctx fixed die (groupStart l.pkt.cores l.pkt.dies g) [] n).isSome
/-- The head launch, where it cannot be placed on a die only for want of a single run, and the size of the run that it wants. -/
def State.wantsRun (s : State) (die : Nat) : Option (Launch × Nat) :=
  match s.headLaunch with
  | none => none
  | some l =>
    match s.placement l [], s.fixedSegs l with
    | .wait, some fixed => ((List.range l.pkt.dies).find? (s.lacksRun l fixed die)).map (fun g => (l, groupSize l.pkt.cores l.pkt.dies g))
    | _, _ => none

/-- A move that brings a die nearer to a run of `n` cores for a context: out of the run of the path with the fewest cores in use, its first
such core goes to the lowest core outside the run that can take it over; a core of a DET launch never goes (R84, log 48). -/
def State.compactMove (s : State) (die : Nat) : Option (Nat × Nat) :=
  match s.wantsRun die with
  | none => none
  | some (l, n) =>
    let used := fun (r : List Nat) => r.filter (fun k => !(View.coreOk {} s l.pkt.ctx k))
    let rs := (runsOf (fun _ => true) n (s.path die)).filter (fun r => (used r).all (fun k => (s.coreAt k).movable && !(s.coreAt k).det))
    match rs.foldl (fun best r => match best with
        | none => some r
        | some b => if (used r).length < (used b).length then some r else some b) none with
    | none => none
    | some r => (used r).head?.bind (fun k =>
        ((s.path die).find? (fun j => !(r.contains j) && (s.coreAt j).takesOver (s.coreAt k).ctx)).map (fun j => (k, j)))

/-- A core may be moved for a cause: compaction is for the head launch, and a DET launch moves only on failover (R84, R321). -/
def State.mayMove (s : State) (k : Nat) : MoveCause → Bool
  | .failover => true
  | .compaction => !(s.coreAt k).det && (s.wantsRun (keyDie k)).isSome
  | .heat => !(s.coreAt k).det

/-- A running core is moved to another core of its die: it stops at a row boundary, its state and its segment go over, and the target
resumes at the same position. A core that has failed takes no launch again; DESIGN CHOICE (log 50): one retired for heat may at once. -/
def execMigration (die : DieNo) (core : CoreNo) (target : MoveTo) (s : State) : Out :=
  let d := die.toNat
  let k := coreKey die core
  let j := coreKey die target.core
  let c := s.coreAt k
  if !c.movable || isAnchor k || !(decide (target.core.toNat < Config.computeCores)) || !((s.coreAt j).takesOver c.ctx) || !(s.mayMove k target.cause) then
    .refused .notEnabled
  else
    let stop := if c.hold = .delivered then s else s.stopCore k
    let src := stop.coreAt k
    let s1 := stop.takeCore j c.ctx (fun x =>
      let y : Core := match (s.mod.images.find? (fun i => some i.id == c.image)) with
        | none => { x with rowStore := c.rowStore, rows := c.rows, image := c.image, badRows := [], expandAt := c.expandAt }
        | some i => x.expand i (s.dieAt d).tick
      { y.takeOver src with placed := true })
    let s2 := s1.onCoreAt k (fun x => { x.release (s.zeroedAt k 0) with ctx := 0, lid := 0, failed := x.failed || decide (target.cause = .failover) })
    let s3 := s2.onDieAt d (fun x => { x with
      reqs := SMap.set none (SMap.set none x.reqs target.core.toNat (SMap.get none x.reqs core.toNat)) core.toNat none
      serving := x.serving.map (fun q => if q.1 = core.toNat then (target.core.toNat, q.2) else q)
      fence := x.fence.map (fun q => ((renameCore k j (some q.1)).getD [], q.2)) })
    let s4 := s3.onLaunch c.ctx c.lid (fun l => { l with place := l.place.map (fun x => if x = k then j else x) })
    let s5 := { s4 with cores := s4.cores.map (fun e => (e.1, { e.2 with
      prnd := renameCore k j e.2.prnd, mapfence := renameCore k j e.2.mapfence })) }
    .next (if c.hold = .delivered then s5 else (s5.resumeCore j).onCoreAt j (fun x => { x with hold := c.hold }))

/-! ### `HALTCTX` (R367) -/

/-- Checkpointed launches of a halt action, which hold no cores, end with its status. -/
def State.haltIdle (s : State) (ctx : Byte) (lid : Option (BitVec 16)) (status : Byte) : State :=
  (s.mod.launches.filter (fun l => l.isOf ctx lid && l.restoring && !l.ended)).foldl (fun t l =>
    t.complete (l.halted status s.walltNs) status) s
/-- Ticks until the records of the cores that a test picks are complete, once the halt line is on its way to them (R348). -/
def State.recordTicks (s : State) (pick : Nat → Core → Bool) : Nat :=
  (s.cores.map (fun e => if pick e.1 e.2 then (match e.2.halt with | none => 0 | some h => h.at_ + 12 - (s.dieAt (keyDie e.1)).tick) else 0)).foldl max 0

/-- `HALTCTX`: halt, suspend or resume; the anchor is held until the records are complete. -/
def execHaltctx (g : Guard) (d a b : Reg) (s : State) : Out :=
  supOnly s (if s.core.guardOn g then
    let sa := s.core.rdS a
    let sb := s.core.rdS b
    let ctx : Byte := sa.setWidth 8
    let lid : Option (BitVec 16) := if sa.getLsbD 32 then none else some (sa.extractLsb' 16 16)
    let wait := fun (t : State) (n ticks : Nat) => t.onCore (fun c => { c with hold := .op d.toNat (s.tick + ticks) (BitVec.ofNat 64 n) })
    match sb.toNat % 4 with
    | 0 =>
      if ctx = 0 then wait s 0 0
      else
        let t := (s.haltIdle ctx lid (haltStatus sb)).haltLaunch s.cur ctx lid (haltStatus sb)
        wait t (s.countCores (ofLaunch ctx lid)) (t.recordTicks (ofLaunch ctx lid))
    | 1 =>
      if ctx = 0 then wait s 0 0
      else
        let t := s.suspendLaunch s.cur ctx lid
        wait t (s.countCores (toSuspend ctx lid)) (t.recordTicks (toSuspend ctx lid))
    | 2 =>
      if ctx = 0 then wait s 0 0
      else
        let f := s.choose .supervisor 4
        wait (f.2.resumeLaunch ctx lid) (s.countCores (toResume ctx lid)) f.1
    | _ => s.setS d (~~~0#64)
  else s)

end Sys2Proof.Machine
end

