-- ==== Sys2Proof/Machine/Checkpoint.lean ====
section
/-! DEFINITION. Checkpoint images and the instructions `CTXSV` and `CTXRS` (R352, R353, R357, R368). -/

namespace Sys2Proof.Config

/-- What the parts of an image whose layout the manual does not give stand for, in an image that the device has not formed itself (R352,
log 26): a free value. -/
opaque savedCore : List Byte → Option Machine.Core
/-- In a part of an image whose layout the manual does not give, by the number of the part: the order in which its values stand, by the key of each,
and the bytes that each takes (R352, log 26). -/
opaque packedOrder : Nat → Nat → Nat
opaque packedBytes : Nat → Nat → Nat

end Sys2Proof.Config

namespace Sys2Proof.Machine

/-! ### The image of a core (R352, R353) -/

/-- Bytes of an image, with its padding. -/
def imageLen (scratch : Nat) : Nat := (0x25A00 + scratch + scratch / 4 + 4095) / 4096 * 4096

/-- A part of an image whose layout the manual does not give: its values in a free order, each with its byte of lowest order first, and zero padding
(R4, R352, log 26). -/
def packedPart (part n : Nat) (values : List Nat) : List Byte :=
  let order := (List.range values.length).insertionSort (fun a b => Config.packedOrder part a ≤ Config.packedOrder part b)
  let bs := (order.flatMap (fun i => leBytes (Config.packedBytes part i) (values.getD i 0))).take n
  bs ++ List.replicate (n - bs.length) 0

/-- The values of a position: row, beat, pending beats, and whether a `BAR` has arrived. -/
def Pos.words (p : Pos) : List Nat := [p.row, p.beat.toNat, p.pend, match p.barIn with | none => 0 | some i => i + 1]
/-- The values of a place of a register file. -/
def RegCell.words : RegCell → List Nat
  | .s n y => [0, n, y.toNat]
  | .m n y => [1, n, y.toNat]
  | .v n y => [2, n, y.toNat]
  | .q n y => [3, n, y.toNat]
  | .t n y => [4, n, y.toNat]
  | .te n y => [5, n, y.toNat]
  | .x n y => [6, n, y.toNat]
/-- The values of an operation that was stopped: its latched operands as the results that they give, and its work. -/
def Fly.words (f : Fly) : List Nat :=
  [f.op, f.busy, f.kept.getD 0] ++ (f.new.flatten.flatMap RegCell.words) ++ f.mem.flatten.flatMap (fun b => [b.1, b.2.2.toNat]) ++
    f.loads.flatten.map (fun l => l.addr)
/-- The latched operands of a `TMMA` that is to be executed again: scalar values and shapes; its tiles stand as they are (R183). -/
def TmmaJob.words (j : TmmaJob) : List Nat := [j.row, j.kind, if j.write then 1 else 0, j.addr, j.wa, j.wb, j.fp.toNat, j.busy]
/-- The number of a kind of pass. -/
def PassKind.number : PassKind → Nat
  | .copy => 0 | .gath => 1 | .scanSumi => 2 | .scanSumf => 3 | .scanMin => 4 | .scanMax => 5 | .scanCount => 6 | .filt => 7 | .put => 8
  | .updAddi => 9 | .updAddf => 10 | .updMini => 11 | .updMaxi => 12 | .updAnd => 13 | .updOr => 14 | .updXor => 15 | .updSwap => 16
  | .updoAddf => 17 | .updoAddi => 18 | .cmt => 19 | .adam => 20 | .zero => 21 | .zeroPhys => 22 | .hostIn => 23 | .hostOut => 24
  | .matWrite => 25 | .matAccum => 26
/-- The values of a sparse map. -/
def mapWords {α : Type} (f : α → List Nat) (m : SMap α) : List Nat := m.flatMap (fun e => e.1 :: f e.2)
/-- p0 to p7 and m0 to m7. -/
def Regs.predWords (r : Regs) : List Nat := r.p.toNat :: (List.range 8).map (fun i => (SMap.get 0 r.m i).toNat)
/-- The position, the counters and control registers of R352 at 0x300. -/
def Core.controlWords (c : Core) : List Nat :=
  let w := fun (n : Nat) (x : BitVec n) => x.toNat
  c.pos.words ++ (match c.ret with | none => [0] | some p => 1 :: p.words) ++ [w 3 c.regs.fpctl, w 16 c.fpflags] ++
    (List.range 8).map (fun i => (SMap.get 0x21F3F#23 c.regs.tshape i).toNat) ++
    [w 64 c.rngkey0, w 64 c.rngkey1, w 64 c.sctr, w 64 c.vctr, w 64 c.tags, w 64 c.tagerr] ++ (List.range 64).map (SMap.get 0 c.riders) ++
    [w 16 c.ph, w 16 c.arr, w 1 c.regs.xsel, w 8 c.regs.xtag0, w 8 c.regs.xtag1, w 32 c.seq, if c.trap.en then 1 else 0, w 14 c.trap.vec,
      if c.trap.inh then 1 else 0, w 2 c.trap.cls, w 8 c.trap.code, w 14 c.trap.row, w 64 c.trap.elem, w 16 c.trap.svc, w 5 c.trap.req, w 3 c.trap.slot,
      w 2 c.racemode, if c.raceLost then 1 else 0, w 32 c.raceCount, w 18 c.raceBase, w 4 c.raceSize, w 16 c.raceNext]
/-- The values of a descriptor. -/
def Desc.words (d : Desc) : List Nat := (List.range 14).map (fun i => (d.field false i).toNat)
/-- The work state of a pass besides what it has captured and formed: the bytes of its sources, its host lines, scales, places in its groups, flags
(R230, R256, R260). -/
def Pass.work (p : Pass) : List Nat :=
  let bytes := mapWords (fun (b : Byte) => [b.toNat])
  let list := fun (l : List Nat) => l.length :: l
  [p.ctl, p.trits, p.charge, p.flags.toNat, p.cmp.toNat, if p.err then 1 else 0, if p.idx then 1 else 0, if p.ret then 1 else 0,
    if p.cancelled then 1 else 0, if p.atOpen then 1 else 0, p.lead, p.closeIn, p.openPt, p.visits, p.row, p.openRow, p.interval.toNat] ++
    p.kind.number :: (bytes p.src ++ bytes p.hostGot ++ list p.hostSeen ++ list p.hostRefused ++
      mapWords (fun (v : BitVec 16) => [v.toNat]) p.scales ++ list p.illegal ++ list p.stored ++ list p.lost ++ list p.spoilt)
/-- The values of a pass slot. -/
def Pass.words (p : Pass) : List Nat :=
  [p.progw.toNat, p.key.launch, p.key.lcore, p.key.seq] ++ p.desc.words ++ p.sdesc.words ++
    (match p.trap with | none => [0] | some t => [1, t.1.toNat, t.2]) ++ [p.sa, p.sb, p.sc, p.sd, p.se, p.lane, p.set, p.inLane] ++
    mapWords (fun (b : Byte) => [b.toNat]) p.out ++ mapWords (fun (v : Word) => [v.toNat]) p.got ++ mapWords (fun (v : Nat) => [v]) p.done ++
    p.work
/-- The values of an operation on its way. -/
def LOp.words : LOp → List Nat
  | .send es => 0 :: es.flatten.map (fun w => w.toNat)
  | .put x ws => [1, x] ++ ws.map (fun w => w.toNat)
  | .amo o x ws => [2 + o, x] ++ ws.map (fun w => w.toNat)
  | .commit x ws => [6, x] ++ ws.map (fun w => w.toNat)
/-- Receive entries and unsent send entries of ports and mesh directions. -/
def Core.linkWords (c : Core) : List Nat :=
  mapWords (fun (q : List Entry) => q.flatMap (fun e => e.words.map (fun w => w.toNat))) c.recvQ ++
    mapWords (fun (q : List Sent) => q.flatMap (fun m => [m.taken, m.core, m.rport] ++ m.op.words)) c.sends ++
    mapWords (fun (q : List (List W32)) => q.flatten.map (fun w => w.toNat)) c.meshRecv ++
    mapWords (fun (q : List MeshEntry) => q.flatMap (fun e => e.words.map (fun w => w.toNat))) c.meshSend
/-- The race shadow of a sector: 16 bytes. -/
def Core.shadowBytes (c : Core) (sector : Nat) : List Byte :=
  match SMap.get (0, 0, false) c.shadows sector with
  | (0, _, _) => List.replicate 16 0
  | (w, i, a) => packedPart 6 16 [w, i.toNat, if a then 1 else 0]

/-- The words of an accumulator set in the `XSAVE` layout (R266). -/
def Regs.setBytes (r : Regs) (set : Nat) : List Byte :=
  (List.range 16).flatMap (fun l => (r.lane set l).flatMap (fun w => leBytes 4 w.toNat))

/-- Bytes 0x100 onward of an image, not encrypted: what R352 lists, each where R352 puts it. -/
def Core.imageBody (c : Core) (stop : List Byte) : List Byte :=
  let body := stop ++ (List.range 32).flatMap (fun i => leBytes 8 (if i = 0 then 0 else (SMap.get 0 c.regs.s i).toNat)) ++
    packedPart 0 0x80 c.regs.predWords ++ packedPart 1 0x500 c.controlWords ++
    (List.range 2048).flatMap (fun i => leBytes 4 (SMap.get 0 c.regs.v i).toNat) ++
    (List.range 512).flatMap (fun i => leBytes 8 (SMap.get 0 c.regs.q i).toNat) ++
    (List.range 8).flatMap (fun i => SMap.getList 0 c.regs.t (i * 8192) 8192 ++ SMap.getList 0 c.regs.texp (i * 64) 64) ++
    c.regs.setBytes 0 ++ c.regs.setBytes 1 ++
    packedPart 2 0x800 ([c.progv.toNat, c.progt.toNat] ++ [c.vfly, c.tfly, c.vkept, c.tkept].reduceOption.flatMap Fly.words ++
      (c.tmma.filter (fun j => !j.handed)).flatMap TmmaJob.words) ++
    (List.range 32).flatMap (fun n => packedPart 3 1024 (c.pass n).words) ++ packedPart 4 0x4800 c.linkWords ++
    packedPart 5 0x1000 (c.interval.toNat :: mapWords (fun (v : Word) => [v.toNat]) c.observed ++ c.launched.map (fun x => x.toNat)) ++
    Memory.bytes c.scratch 0 c.scratchLen ++ (List.range (c.scratchLen / 64)).flatMap c.shadowBytes
  body ++ List.replicate (imageLen c.scratchLen - 0x100 - body.length) 0

/-- Each 4 KiB unit of an image from byte 0x100 on, encrypted or decrypted: `n` units from the one with index `i`, the first of which
lacks the header. -/
def cryptUnits (f : Nat → List Byte → List Byte) : Nat → Nat → List Byte → List Byte
  | 0, _, _ => []
  | n + 1, i, bs =>
    let z := if i = 0 then 4096 - 0x100 else 4096
    f i (bs.take z) ++ cryptUnits f n (i + 1) (bs.drop z)

/-- The header of an image whose stored body is given. -/
def Core.imageHeader (c : Core) (image : W32) (enc : Bool) (stored : List Byte) : List Byte :=
  leBytes 4 0x4B434843 ++ leBytes 2 0x0100 ++ [c.ctx] ++ leBytes 1 (if enc then 1 else 0) ++ leBytes 2 c.lcore ++ leBytes 2 c.lid.toNat ++
    leBytes 4 image.toNat ++ leBytes 4 c.scratchLen ++ leBytes 4 0 ++ leBytes 8 (imageLen c.scratchLen) ++
    leBytes 64 (Config.sha512 stored).toNat ++ List.replicate 160 0

/-- The key pair that a context's images are encrypted under on a die: none for a context that is not protected; nothing where the key
slot is zeroised. -/
def State.imageKey (s : State) (die : Nat) (ctx : Byte) : Option (Option (BitVec 512)) :=
  if s.isProtected ctx then (s.keyOf die ctx).map (fun k => some k.pair) else some none

/-- Where an image lies: a host address, or a byte address in segment 23 of the die. -/
inductive ImagePlace where
  | host (a : Nat)
  | region (a : Nat)
  deriving DecidableEq, Repr

/-- Stitches of the save region of a die (R357). -/
def saveStitches : Nat := 2621440
/-- The segment that holds the save region of a die. -/
def saveSeg (die : Nat) : Nat := die * 32 + 23
/-- The first byte of the save region: the top stitches of the segment. -/
def State.saveBase (s : State) (die : Nat) : Nat := (s.period (saveSeg die) - saveStitches) * 128

/-- The place that sb names for `n` bytes, where it is valid (R368). -/
def State.imagePlace (s : State) (die : Nat) (sb : Word) (n : Nat) : Option ImagePlace :=
  if sb.getLsbD 63 then
    let off := sb.toNat % 2 ^ 29
    if sb.toNat / 2 ^ 29 % 2 ^ 34 = 0 ∧ off % 4096 = 0 ∧ off + n ≤ saveStitches * 128 then some (.region (s.saveBase die + off)) else none
  else if sb.toNat % 4096 = 0 ∧ sb.toNat < 2 ^ 52 then some (.host sb.toNat) else none

/-- Supervisor passes open over the save region of a die (R204, R208, R357). -/
def State.openJob (s : State) (die : Nat) (use : RegionUse) (a n : Nat) (data : Option (List Byte)) : State :=
  s.onDieAt die (fun d => { d with
    supSeq := d.supSeq + 1
    region := d.region ++ [{ use := use, base := a / 128, count := n / 128, seq := d.supSeq, lead := s.leadOf (saveSeg die)
                             left := s.period (saveSeg die), data := data }] })
/-- The anchor is held until its supervisor passes have closed, or the host's lines have come. -/
def State.holdAnchor (s : State) (d : Reg) : State := s.onCore (fun c => { c with hold := .host d.toNat })

/-! ### `CTXSV` (R368) -/

/-- A core may be saved: it is suspended or halted, and its stop record is complete. -/
def Core.savable (c : Core) (k : Nat) : Bool :=
  decide (keyNo k < Config.computeCores) && (decide (c.run = .suspended) || decide (c.run = .halted)) && c.halt.isNone

/-- The image of a core as it is stored, under a key pair or plain. -/
def State.imageOfCore (s : State) (k : Nat) (pair : Option (BitVec 512)) : List Byte :=
  let c := s.coreAt k
  let plain := c.imageBody (Memory.bytes (s.coreAt (keyDie k * 32 + Config.anchorNo)).scratch (stopRecordAt k) 128)
  let stored := match pair with
    | none => plain
    | some p => cryptUnits (Config.xtsEncrypt p) (imageLen c.scratchLen / 4096) 0 plain
  c.imageHeader (c.image.getD 0) pair.isSome stored ++ stored

/-- What the image of a core stands for. -/
def State.saveOf (s : State) (k : Nat) (pair : Option (BitVec 512)) : Save :=
  { slot := k, image := s.imageOfCore k pair, pair := pair, core := s.coreAt k, req := SMap.get none (s.dieAt (keyDie k)).reqs (keyNo k) }

/-- The image of a core is formed, and noted as the device's own. -/
def State.noteImage (s : State) (k : Nat) (pair : Option (BitVec 512)) : List Byte × State :=
  let e := s.saveOf k pair
  let bs := e.image
  (bs, s.onMod (fun m => { m with saves := e :: m.saves.filter (fun x => x.image != bs) }))

/-- `CTXSV`: the image of a core goes to the host or to the save region. -/
def State.saveCore (s : State) (d : Reg) (sa sb : Word) : State :=
  let k := s.die * 32 + sa.toNat % 32
  let c := s.coreAt k
  if !(c.savable k) then s.setS d csState
  else
    match s.imagePlace s.die sb (imageLen c.scratchLen), s.imageKey s.die c.ctx with
    | none, _ => s.setS d csPlace
    | _, none => s.setS d csImage
    | some w, some pair =>
      let q := s.noteImage k pair
      match w with
      | .region a => (q.2.openJob s.die (.save s.cur k) a q.1.length (some q.1)).holdAnchor d
      | .host a => (q.2.askHost { use := .save s.cur k, base := a, len := q.1.length, data := q.1 }).holdAnchor d

def execCtxsv (g : Guard) (d a b : Reg) (s : State) : Out :=
  supOnly s (if s.core.guardOn g then s.saveCore d (s.core.rdS a) (s.core.rdS b) else s)

/-! ### `CTXRS` (R368) -/

/-- A core may be restored into: it is placed for a launch and not started. -/
def Core.restorable (c : Core) (k : Nat) : Bool :=
  decide (keyNo k < Config.computeCores) && c.placed && decide (c.run = .placed) && c.halt.isNone

/-- The header of an image fits the core's launch, and its digest its body. -/
def imageGood (c : Core) (image : W32) (bs : List Byte) : Bool :=
  let n := leAt bs
  n 0 4 == 0x4B434843 && n 4 2 == 0x0100 && n 6 1 == c.ctx.toNat && n 0x0A 2 == c.lid.toNat && n 0x0C 4 == image.toNat &&
    decide (n 0x10 4 ≤ c.scratchLen) && n 0x18 8 == imageLen (n 0x10 4) && bs.length == n 0x18 8 &&
    leAt bs 0x20 64 == (Config.sha512 (bs.drop 0x100)).toNat

/-- Some 4-byte words of a list of bytes, from one on. -/
def wordsAt (bs : List Byte) (z a n : Nat) : List Nat := (List.range n).map (fun i => leAt bs (a + z * i) z)

/-- The core that an image not formed by the device stands for: registers and scratchpad from the body, the rest free (log 26). -/
def coreOfBody (scratch : Nat) (body : List Byte) : Core :=
  let c : Core := (Config.savedCore body).getD {}
  let at_ := fun (a : Nat) => a - 0x100
  let files := (List.range 8).map (fun i => (body.drop (at_ (0x3800 + i * 8256))).take 8256)
  { c with
    scratchLen := scratch
    scratch := Memory.setBytes [] 0 ((body.drop (at_ 0x25A00)).take scratch)
    regs := { c.regs with
      s := SMap.setList 0 [] 0 ((0 : Word) :: (wordsAt body 8 (at_ 0x188) 31).map (BitVec.ofNat 64))
      v := SMap.setList 0 [] 0 ((wordsAt body 4 (at_ 0x800) 2048).map (BitVec.ofNat 32))
      q := SMap.setList 0 [] 0 ((wordsAt body 8 (at_ 0x2800) 512).map (BitVec.ofNat 64))
      t := SMap.setList 0 [] 0 (files.flatMap (fun f => f.take 8192))
      texp := SMap.setList 0 [] 0 (files.flatMap (fun f => (f.drop 8192).take 64))
      x := SMap.setAll 0 [] ((List.range 2).flatMap (fun set => (List.range 16).flatMap (fun l => (List.range 128).map (fun j =>
        (set * 2048 + j * 16 + l, BitVec.ofNat 32 (leAt body (at_ 0x13A00 + 8192 * set + 512 * l + 4 * j) 4)))))) } }

/-- What an image of a good form stands for: the core, and the delivered trap that it waits for. -/
def State.imageCore (s : State) (pair : Option (BitVec 512)) (bs : List Byte) : Core × Option TrapReq :=
  match s.mod.saves.find? (fun x => x.image == bs && x.pair == pair) with
  | some x => (x.core, x.req)
  | none =>
    let scratch := leAt bs 0x10 4
    let stored := bs.drop 0x100
    (coreOfBody scratch (match pair with | none => stored | some p => cryptUnits (Config.xtsDecrypt p) (imageLen scratch / 4096) 0 stored), none)

/-- A core with the state of an image: its launch, its place and its reservation stay its own, and it is suspended. -/
def Core.restored (c src : Core) : Core :=
  { (c.takeOver src) with
    run := .suspended, runKept := src.runKept, halt := none, fault := none, seg := c.seg, scratchLen := c.scratchLen
    passesMax := c.passesMax, lanes := c.lanes, tagsMax := c.tagsMax, barriers := c.barriers, lstall := c.lstall, mesh := c.mesh
    det := c.det, bindings := c.bindings, ctx := c.ctx, lid := c.lid, lcore := c.lcore, ncores := c.ncores, diegrp := c.diegrp }

/-- An image is restored into a core, or fails and leaves it as it was. -/
def State.restoreCore (s : State) (k : Nat) (bs : List Byte) : Option State :=
  let c := s.coreAt k
  let image := match s.outstanding c.ctx c.lid with | none => c.image.getD 0 | some l => l.pkt.image
  let enc := leAt bs 7 1 % 2 == 1
  match (if enc then (s.keyOf (keyDie k) c.ctx).map (fun x => some x.pair) else some none) with
  | none => none
  | some pair =>
    if !(imageGood c image bs && c.restorable k) then none
    else
      let q := s.imageCore pair bs
      some ((s.onCoreAt k (fun c => c.restored q.1)).onDieAt (keyDie k) (fun d => { d with reqs := SMap.set none d.reqs (keyNo k) q.2 }))

def execCtxrs (g : Guard) (d a b : Reg) (s : State) : Out :=
  supOnly s (if s.core.guardOn g then
    let k := s.die * 32 + (s.core.rdS a).toNat % 32
    if !((s.coreAt k).restorable k) then s.setS d csState
    else
      match s.imagePlace s.die (s.core.rdS b) 4096 with
      | none => s.setS d csPlace
      | some (.region x) => (s.openJob s.die (.restore s.cur k) x 256 none).holdAnchor d
      | some (.host x) => (s.askHost { use := .restore s.cur k, base := x, len := 4096 }).holdAnchor d
  else s)

/-! ### Answers of the host (R368) -/

/-- The bytes of a restore have come: more of the image is asked for, or the core is restored. -/
def State.restoreGot (s : State) (anchor k : Nat) (r : CacheReq) : State :=
  let n := leAt r.data 0x18 8
  if r.data.length < n ∧ n = imageLen (leAt r.data 0x10 4) ∧ r.base + n ≤ 2 ^ 52 then
    s.onMod (fun m => { m with cacheReqs := { r with len := n } :: m.cacheReqs })
  else
    match s.restoreCore k r.data with
    | none => s.hostDone anchor csImage
    | some s1 => s1.hostDone anchor (BitVec.ofNat 64 n)

/-! ### The ends of supervisor passes of the save region (R357, R368) -/

/-- The header of an image, or all of it, has been read for a `CTXRS`: the rest is read, or the core is restored; an image that does not lie
inside the region is no valid place. -/
def State.regionGot (s : State) (die anchor k : Nat) (j : RegionJob) : State :=
  let bs := Memory.bytes j.got 0 (128 * j.count)
  let n := leAt bs 0x18 8
  if bs.length < n ∧ n = imageLen (leAt bs 0x10 4) then
    if s.saveBase die + saveStitches * 128 < 128 * j.base + n then s.hostDone anchor csPlace
    else s.openJob die (.restore anchor k) (128 * j.base) n none
  else
    match s.restoreCore k bs with
    | none => s.hostDone anchor csImage
    | some s1 => s1.hostDone anchor (BitVec.ofNat 64 n)

/-- Supervisor passes of the save region have closed: their `CTXSV` is done; or a core is restored, or is halted where its image fails
(log 15). -/
def State.regionDone (s : State) (die : Nat) (j : RegionJob) : State :=
  if j.bad then s
  else
    match j.use with
    | .save a _ => s.hostDone a (BitVec.ofNat 64 (128 * j.count))
    | .restore a k => s.regionGot die a k j
    | .checkpoint _ => s
    | .resume k =>
      match s.restoreCore k (Memory.bytes j.got 0 (128 * j.count)) with
      | none => s.haltLaunch (die * 32 + Config.anchorNo) (s.coreAt k).ctx (some (s.coreAt k).lid) 0x10
      | some s1 => s1

/-- Supervisor passes of the save region close in a tick of the die. -/
def State.regionTick (s : State) (die : Nat) : State :=
  let ended := fun (j : RegionJob) => decide (j.left = 0) && decide (j.closeIn = 0)
  let js := (s.dieAt die).region
  (js.filter ended).foldl (fun t j => t.regionDone die j) (s.onDieAt die (fun d => { d with region := js.filter (fun j => !(ended j)) }))

end Sys2Proof.Machine
end

