-- ==== Sys2Proof/Machine/Placement.lean ====
section
/-! DEFINITION. The placement engine: the head launch is placed, restored, refused as unplaceable, or pre-empts others (R76, R79 to R81,
R355 to R357). -/

namespace Sys2Proof.Machine

/-! ### Pre-emption (R355 to R357) -/

/-- What is done to a launch. -/
inductive Policy where
  | drain | checkpoint | kill
  deriving DecidableEq, Repr

/-- The policy for a candidate and its cost, out of T tokens: the first row of R356 that applies. -/
def Launch.policy (l : Launch) (t : Nat) : Option (Policy × Nat) :=
  let n := l.pkt.cores
  if l.pkt.prio.getLsbD 6 && decide (l.pkt.remain ≤ 16 * t) then some (.drain, 0)
  else if l.pkt.prio.getLsbD 5 && decide (n ≤ t) then some (.checkpoint, n)
  else if l.pkt.prio.getLsbD 4 && decide (2 * n ≤ t) then some (.kill, 2 * n)
  else none

/-- A launch is a candidate for pre-emption by another: it runs at a lower priority, and nothing is ending it or draining it. -/
def Launch.candidate (l h : Launch) : Bool :=
  decide (l.st = .running) && !l.ended && l.preempt == 0 && l.status.isNone && decide (l.pkt.priority < h.pkt.priority)

/-- Candidates in the order in which they are decided. -/
def State.candidates (s : State) (h : Launch) : List Launch :=
  (s.mod.launches.filter (fun l => l.candidate h)).insertionSort (fun a b =>
    decide (a.pkt.priority < b.pkt.priority) || (a.pkt.priority == b.pkt.priority && decide (b.order ≤ a.order)))

/-- Candidates are chosen until what they free grants the head everything; none where they run out first. -/
def chooseVictims (s : State) (h : Launch) : Nat → View → List (Launch × Policy) → List Launch → Option (List (Launch × Policy))
  | _, _, _, [] => none
  | t, v, acc, l :: ls =>
    match l.policy t with
    | none => chooseVictims s h t v acc ls
    | some (p, cost) =>
      let v1 : View := { v with gone := l.order :: v.gone, saved := if p = .checkpoint then l.order :: v.saved else v.saved }
      match v1.plan s h with
      | .grant _ => some (acc ++ [(l, p)])
      | _ => chooseVictims s h (t - cost) v1 (acc ++ [(l, p)]) ls

/-- The lead die's anchor. -/
def State.leadAnchor (s : State) : Nat := s.mod.lead.toNat * 32 + Config.anchorNo

/-- A policy is applied to a launch. -/
def State.preempt (s : State) (e : Launch × Policy) : State :=
  let l := e.1
  let mark := fun (t : State) (n : Nat) => t.onLaunch l.pkt.ctx l.pkt.lid (fun x => { x with preempt := n })
  match e.2 with
  | .drain => mark s 1
  | .checkpoint => mark (s.suspendLaunch s.leadAnchor l.pkt.ctx (some l.pkt.lid)) 2
  | .kill => mark (s.haltLaunch s.leadAnchor l.pkt.ctx (some l.pkt.lid) 0x11) 3

/-- Pre-emption for the head launch, where it has tokens and the candidates suffice: its tokens are spent. -/
def State.preemptFor (s : State) (h : Launch) : Option State :=
  if h.pkt.prioTokens = 0 then none
  else (chooseVictims s h h.pkt.prioTokens {} [] (s.candidates h)).map (fun vs =>
    (vs.foldl State.preempt s).onLaunch h.pkt.ctx h.pkt.lid (fun x => { x with pkt := { x.pkt with prioTokens := 0 } }))

/-! ### Checkpoint and restoration (R357) -/

/-- A launch being checkpointed has stopped: its cores are suspended with their records complete, or have exited. -/
def State.stoppedFor (s : State) (l : Launch) : Bool :=
  l.preempt == 2 && !l.restoring && decide (l.place ≠ []) && SMap.get 0 s.mod.counters (counterKey l.pkt.ctx l.pkt.lid 31) != 0 &&
    l.place.all (fun k => let c := s.coreAt k; (decide (c.run = .suspended) && c.halt.isNone) || decide (c.run = .exited))

/-- The first byte of the slot of a core in its die's save region. -/
def State.slotAt (s : State) (k : Nat) : Nat := s.saveBase (keyDie k) + 12 * 2 ^ 20 * keyNo k
/-- The image of a core is on its way to its slot of the save region. -/
def State.saveSlot (s : State) (k : Nat) (pair : Option (BitVec 512)) : State :=
  let q := s.noteImage k pair
  q.2.openJob (keyDie k) (.checkpoint k) (s.slotAt k) q.1.length (some q.1)

/-- The cores of a stopped launch are saved; where a key slot that the images need is zeroised, the launch goes on instead (log 15). -/
def State.checkpoint (s : State) (l : Launch) : State :=
  let keys := l.place.map (fun k => s.imageKey (keyDie k) l.pkt.ctx)
  if keys.any Option.isNone then
    (s.resumeLaunch l.pkt.ctx (some l.pkt.lid)).onLaunch l.pkt.ctx l.pkt.lid (fun x => { x with preempt := 0 })
  else
    let cores := l.place.zip (keys.map (fun k => k.getD none))
    let saves := cores.map (fun e => s.saveOf e.1 e.2)
    let s1 := (cores.filter (fun e => decide ((s.coreAt e.1).run = .suspended))).foldl (fun t e => t.saveSlot e.1 e.2) s
    s1.onLaunch l.pkt.ctx l.pkt.lid (fun x => { x with preempt := 4, images := saves })

/-- The images of a launch being checkpointed have been written. -/
def State.savedFor (s : State) (l : Launch) : Bool :=
  l.preempt == 4 && l.place.all (fun k => (s.dieAt (keyDie k)).region.all (fun j => decide (j.use ≠ .checkpoint k)))
/-- Its cores are released, and it waits to be placed again; one that has been halted meanwhile ends instead. -/
def State.vacate (s : State) (l : Launch) : State :=
  if s.stoppedFor { l with preempt := 2 } then
    (s.releaseCores l).onLaunch l.pkt.ctx l.pkt.lid (fun x => { x with st := .suspended, restoring := true, preempt := 0 })
  else s.onLaunch l.pkt.ctx l.pkt.lid (fun x => { x with preempt := 0 })

/-- A core of a launch that is placed again in a tick: attached and warmed; one that had exited stays so, and any other waits for its image. -/
def Core.placeAgain (c : Core) (l : Launch) (i : Image) (n g seg : Nat) (src : Core) (tick : Nat) : Core :=
  let h : Core := (c.blank.expand i tick).hold_ l i n g seg
  if src.run = .exited then { (h.restored src) with run := .exited } else { h with run := .placed }

/-- A checkpointed launch is placed again, and the images of its cores are read from their slots. -/
def State.restoreLaunch (s : State) (l : Launch) (i : Image) (gs : List (Nat × List Nat × List Nat)) : State :=
  let s1 := (grantPlaces gs).foldl (fun (t : State) e =>
    let img : Save := l.images.getD e.1 {}
    let k := e.2.2.1
    let t1 := t.takeCore k l.pkt.ctx (fun c => c.placeAgain l i e.1 e.2.1 e.2.2.2 img.core (t.dieAt (keyDie k)).tick)
    if img.core.run = .exited then t1 else t1.openJob (keyDie k) (.resume k) (t.slotAt img.slot) img.image.length none) (s.reserve l i gs false)
  let fired := (gs.zipIdx.filter (fun g => l.fired.contains (l.dieOf.getD g.2 16))).map (fun g => g.1.1)
  s1.onLaunch l.pkt.ctx l.pkt.lid (fun x => { x with restoring := false, images := [], suspends := x.suspends + 1, fired := fired, preempt := 5 })

/-- A launch that has been placed again has its images: its cores stand suspended, or have exited. -/
def State.restoredFor (s : State) (l : Launch) : Bool :=
  l.preempt == 5 && l.place.all (fun k => let c := s.coreAt k; (decide (c.run = .suspended) && c.halt.isNone) || decide (c.run = .exited))
/-- It resumes. -/
def State.reenter (s : State) (l : Launch) : State :=
  (s.onLaunch l.pkt.ctx l.pkt.lid (fun x => { x with preempt := 0 })).resumeLaunch l.pkt.ctx (some l.pkt.lid)

/-! ### The engine's step (R76, R81) -/

/-- The head is decided, or the launch at it has to wait there. -/
def State.setHead (s : State) (h : Option Nat) : State := s.onMod (fun m => { m with head := h })

/-- A launch is granted its places: a new one starts; a checkpointed one is restored, in deterministic mode only once its islands are at level 16,
which is asked for meanwhile (R321). -/
def State.grantLaunch (s : State) (l : Launch) (i : Image) (gs : List (Nat × List Nat × List Nat)) : State :=
  if !l.restoring then (s.commitLaunch l i gs).setHead none
  else if l.pkt.det && gs.any (fun g => decide ((s.dieAt g.1).level ≠ .full)) then
    (gs.foldl (fun t g => t.onDieAt g.1 (fun d => { d with levelNext := .full })) s).setHead (some l.order)
  else (s.restoreLaunch l i gs).setHead none

/-- The placement engine acts: a checkpoint or a restoration goes on, or the head launch is decided. A head launch that waits and can pre-empt nothing leaves
everything else as it is. -/
def execPlaceLaunch (s : State) : Out :=
  match s.mod.launches.find? (fun l => s.stoppedFor l || s.savedFor l || s.restoredFor l) with
  | some l => .next (if l.preempt = 2 then s.checkpoint l else if l.preempt = 4 then s.vacate l else s.reenter l)
  | none =>
    match s.headLaunch with
    | none => .refused .notEnabled
    | some l =>
      match s.placement l [], s.imageOf l.pkt.image with
      | .nofit, _ => .next ((s.complete l 0x06).setHead none)
      | .grant gs, some i => .next (s.grantLaunch l i gs)
      | _, _ => match s.preemptFor l with
        | none => if s.mod.head = some l.order then .refused .notEnabled else .next (s.setHead (some l.order))
        | some s1 => .next (s1.setHead (some l.order))

end Sys2Proof.Machine
end

