-- ==== Sys2Proof/Machine/Host.lean ====
section
/-! DEFINITION. The host interface: BAR0, the launch window, the mailbox and its commands, and the host's answers over CXL.cache (R60, R63
to R73, R77, R78, R89, R368, R374). -/

namespace Sys2Proof.Machine

/-! ### BAR0 as the host reads it (R63 to R65, R72) -/

/-- The mailbox is BUSY. -/
def Module.mbxBusy (m : Module) : Bool := m.mbx.isSome || m.leadchg
/-- DEVSTAT. -/
def Module.devstat (m : Module) : Nat :=
  m.ifver.toNat * 2 ^ 32 + m.lead.toNat * 2 ^ 4 + (if m.tslock then 8 else 0) + (if m.leadchg then 4 else 0) + (if m.neg then 2 else 0) +
    (if m.ready then 1 else 0)
/-- MBX_STATUS. -/
def Module.mbxStatus (m : Module) : Nat := m.seqDone.toNat * 2 ^ 16 + m.result.toNat * 2 ^ 8 + (if m.mbxBusy then 1 else 0)

/-- Entry n of ERRLOG: the last one written at its place. -/
def Module.errEntry (m : Module) (n : Nat) : List Byte :=
  let newest := m.errhead.toNat
  let back := (newest + 2 ^ 32 - 1 - n) % 64
  if back < m.errlog.length then m.errlog.getD (m.errlog.length - 1 - back) [] else List.replicate 16 0

/-- What a 64-bit read of BAR0 delivers. DESIGN CHOICE (log 12): MBX_RES0 to MBX_RES7, which R65 leaves undefined while BUSY is 1 or where SEQ does
not match, read as the last completed command left them. -/
def State.bar0 (s : State) (off : Nat) : Word :=
  let m := s.mod
  let w := fun (v : Nat) => BitVec.ofNat 64 v
  match off with
  | 0x0 => 0x000072160B010100
  | 0x8 => w m.devstat
  | 0x10 => w m.lqfree
  | 0x18 => w m.errhead.toNat
  | 0x1008 => w m.mbxStatus
  | _ =>
    if off % 8 ≠ 0 then 0
    else if 0x1040 ≤ off ∧ off < 0x1080 then SMap.get 0 m.args ((off - 0x1040) / 8)
    else if 0x1080 ≤ off ∧ off < 0x10C0 then SMap.get 0 m.res ((off - 0x1080) / 8)
    else if 0x2000 ≤ off ∧ off < 0x2400 then w (leNat (((m.errEntry ((off - 0x2000) / 16)).drop (off % 16)).take 8))
    else 0

/-! ### The mailbox (R65 to R68) -/

/-- RESULT codes. -/
def rOK : Byte := 0x00
def rBADVER : Byte := 0x01
def rBADARG : Byte := 0x02
def rNOSPACE : Byte := 0x03
def rBUSY : Byte := 0x04
def rUNKNOWN : Byte := 0x05
def rNOTNEG : Byte := 0x06
def rHOSTREF : Byte := 0x07

/-- What a command comes to: the state, RESULT, the results it gives, and what it has to wait for. -/
structure Answer where
  st : State
  result : Byte := rOK
  res : List (Nat × Word) := []
  /-- Ticks of die 0 before which it does not end. -/
  wait : Nat := 0

/-- A command ends in a RESULT and nothing else. -/
def State.ends (s : State) (r : Byte) : Answer := { st := s, result := r }
/-- Argument n of the mailbox. -/
def State.arg (s : State) (n : Nat) : Nat := (SMap.get 0 s.mod.args n).toNat

/-- The write of a command word is accepted: BUSY becomes 1, and what the command does happens (log 15), but for CANCEL, which takes effect
in a later tick (R77). A word that comes while the mailbox is BUSY is discarded and logged; DESIGN CHOICE (log 50): one that comes while READY is 0 is lost, and leaves
BUSY, RESULT and the log as they are. -/
def State.accept (s : State) (code : Byte) (seq : BitVec 16) (run : State → Answer) : Out :=
  if !s.mod.ready then .refused .notEnabled
  else if s.mod.mbxBusy then .next (s.logError 0x45 0 0 (code.toNat + 256 * seq.toNat))
  else
    let a := if code ≠ 1 ∧ s.mod.neg = false then s.ends rNOTNEG else run s
    let due := (s.dieAt 0).tick + a.wait + 1 + Config.freeTicks .mailbox a.st.fresh
    let at_ := (s.dieAt 0).tick + 1 + Config.freeTicks .cancel a.st.fresh % (due - (s.dieAt 0).tick)
    .next { a.st.onMod (fun m => { m with mbx := some { code := code, seq := seq, result := a.result, res := a.res, due := due, at_ := at_ } })
      with fresh := a.st.fresh + 1 }

/-! ### NEGOTIATE (R66) -/

/-- The version chosen from the host's range: the highest in 0x0100 to 0x0102 and the range. -/
def chooseVersion (lo hi : Nat) : Option Nat := if lo ≤ 0x0102 ∧ 0x0100 ≤ hi then some (min hi 0x0102) else none

def State.cmdNegotiate (s : State) : Answer :=
  let a := s.arg 0
  let lo := a % 2 ^ 16
  let hi := a / 2 ^ 16
  if 2 ^ 32 ≤ a ∨ hi < lo then s.ends rBADARG
  else
    let s1 := s.onMod (fun m => { m with neg := false, ifver := 0 })
    match chooseVersion lo hi with
    | none => s1.ends rBADVER
    | some v => { st := s1, res := [(0, BitVec.ofNat 64 v)] }
def execNegotiate (seq : BitVec 16) (s : State) : Out := s.accept 0x01 seq State.cmdNegotiate

/-! ### Images (R73, R74) -/

/-- Bytes of an image store (R73). -/
def imageStore : Nat := 2 ^ 24

/-- The bytes of an image have been read: it is checked and stored. DESIGN CHOICE (log 50): of the refusals of R73 the loader's comes first, then
BADARG, then NOSPACE. -/
def State.storeImage (s : State) (bs : List Byte) : Answer :=
  match loadImage bs.length bs with
  | .inl f => { st := s, result := f.code, res := [(1, BitVec.ofNat 64 f.row), (2, BitVec.ofNat 64 f.slot), (3, BitVec.ofNat 64 f.reg)] }
  | .inr i =>
    if (s.imageOf i.id).isSome then s.ends rBADARG
    else if imageStore < (s.mod.images.map (fun x => x.bytes)).sum + i.bytes then s.ends rNOSPACE
    else { st := s.onMod (fun m => { m with images := m.images ++ [i] }), res := [(0, i.id.setWidth 64)] }

/-- IMAGE_LOAD: the lines of the image are asked of the host. DESIGN CHOICE (log 47): a range that passes 2^52, the end of the host's addresses
(R242, R368), is a bad argument. -/
def State.cmdImageLoad (s : State) : Answer :=
  let a := s.arg 0
  let n := s.arg 1
  if a % 64 ≠ 0 ∨ 2 ^ 52 < a + n then s.ends rBADARG
  else if n = 0 then s.storeImage []
  else { st := s.askHost { use := .image, base := a, len := n } }
def execImageLoad (seq : BitVec 16) (s : State) : Out := s.accept 0x02 seq State.cmdImageLoad

/-- A row store that holds an image is invalidated. -/
def Core.forget (c : Core) (id : W32) : Core :=
  if c.image = some id then { c with image := none, rows := 0, rowStore := [], badRows := [] } else c

def State.cmdImageDrop (s : State) : Answer :=
  let id : W32 := BitVec.ofNat 32 (s.arg 0)
  if 2 ^ 32 ≤ s.arg 0 then s.ends rBADARG
  else if (s.imageOf id).isNone then s.ends rUNKNOWN
  else if s.mod.launches.any (fun l => l.pkt.image == id) then s.ends rBUSY
  else
    let s1 := s.onMod (fun m => { m with images := m.images.filter (fun i => i.id != id) })
    { s1 with cores := s1.cores.map (fun (e : Nat × Core) => (e.1, e.2.forget id)) }.ends rOK
def execImageDrop (seq : BitVec 16) (s : State) : Out := s.accept 0x03 seq State.cmdImageDrop

def State.cmdPreload (s : State) : Answer :=
  let id : W32 := BitVec.ofNat 32 (s.arg 0)
  let a := s.arg 1
  let n := a / 16
  if 2 ^ 32 ≤ s.arg 0 ∨ 2 ^ 9 ≤ a ∨ n < 1 ∨ 24 < n then s.ends rBADARG
  else
    match s.imageOf id with
    | none => s.ends rUNKNOWN
    | some i =>
      let ks := ((s.path (a % 16)).filter (fun k => !(s.coreAt k).placed)).take n
      { st := ks.foldl (fun t k => t.onCoreAt k (fun c => c.expand i (s.dieAt (keyDie k)).tick)) s, res := [(0, BitVec.ofNat 64 ks.length)]
        wait := s.expandTicks i ks }
def execPreload (seq : BitVec 16) (s : State) : Out := s.accept 0x04 seq State.cmdPreload

/-! ### Contexts (R69) -/

/-- The descriptors of a context read zero. -/
def Module.clearDescs (m : Module) (ctx : Nat) : Module := { m with descs := SMap.keep (fun k => k / 256 != ctx) m.descs }

def State.cmdCtxOpen (s : State) : Answer :=
  let a := s.arg 0
  let b := s.arg 1
  if 256 ≤ a ∨ 4 ≤ b ∨ a = 0 ∨ (SMap.get {} s.mod.contexts a).opened = true then s.ends rBADARG
  else { st := s.onMod (fun m => { m.clearDescs a with contexts := SMap.set {} m.contexts a ⟨true, b % 2 == 1, b / 2 == 1⟩ }) }
def execCtxOpen (seq : BitVec 16) (s : State) : Out := s.accept 0x05 seq State.cmdCtxOpen

/-- The range entries of an allocation, and with each its pages, become invalid. -/
def State.unmap (s : State) (a : Alloc) : State :=
  a.parts.zipIdx.foldl (fun t p => t.onDieAt (keyDie p.1) (fun d =>
    (d.ranges.filter (fun e => e.1 / 256 == a.ctx.toNat && rgSeg e.2 == keyNo p.1 && rgBase e.2 == a.base + p.2 * a.stride)).foldl
      (fun d e => d.putRange e.1 0) d)) s
/-- An allocation is freed. -/
def State.freeAlloc (s : State) (a : Alloc) : State :=
  (s.unmap a).onMod (fun m => { m with allocs := m.allocs.filter (fun x => x.handle != a.handle) })
/-- A key slot is zeroised on all dies, as by `KEYZ` (R69, R385, R396). -/
def State.clearKey (s : State) (slot : Nat) : State := (List.range Config.dies).foldl (fun t d => t.zeroKey d slot) s
/-- The key slots bound to a context on a die. -/
def Die.slotsOf (d : Die) (ctx : Byte) : List Nat := (d.keys.filter (fun e => e.2.ctx == ctx)).map (fun e => e.1)

def State.cmdCtxClose (s : State) : Answer :=
  let a := s.arg 0
  let ctx : Byte := BitVec.ofNat 8 a
  if 256 ≤ a then s.ends rBADARG
  else if (s.context ctx).opened = false then s.ends rUNKNOWN
  else if s.mod.launches.any (fun l => l.pkt.ctx == ctx) then s.ends rBUSY
  else
    let s1 := (s.mod.allocs.filter (fun x => x.ctx == ctx)).foldl State.freeAlloc s
    let slots := (List.range Config.dies).flatMap (fun d => (s.dieAt d).slotsOf ctx)
    let s2 := slots.foldl State.clearKey s1
    { st := s2.onMod (fun m => { m.clearDescs a with contexts := SMap.set {} m.contexts a {} }) }
def execCtxClose (seq : BitVec 16) (s : State) : Out := s.accept 0x06 seq State.cmdCtxClose

/-! ### Allocations (R78, R374) -/

/-- The next multiple of a size. -/
def roundUp (n z : Nat) : Nat := (n + z - 1) / z * z

/-- The lowest run of stitches of a segment that is free for a part, aligned to a page; the save region is never granted (log 27). -/
def State.freeStitch (s : State) (seg count page : Nat) : Option Nat :=
  let d := s.dieAt (keyDie seg)
  let mine := d.ranges.filter (fun e => rgV e.2 && rgSeg e.2 == keyNo seg)
  let top := if keyNo seg = 23 then s.period seg - saveStitches else s.period seg
  let starts := (0 :: mine.map (fun e => roundUp (rgStitch e.2 + rgCount e.2) (page / 128))).filter (fun x =>
    decide (x + count ≤ top) && mine.all (fun e => !(runsMeet x count (rgStitch e.2) (rgCount e.2))))
  starts.foldl (fun best x => match best with | none => some x | some y => some (min x y)) none

/-- A segment is clean, of no owner or of the context, and holds no part of another context's allocation (R78, R374). -/
def State.grantable (s : State) (ctx : Byte) (seg : Nat) : Bool :=
  let g := s.segAt seg
  g.clean && (g.owner == 0 || g.owner == ctx) && !(s.mod.allocs.any (fun a => a.ctx != ctx && a.parts.contains seg))
/-- A segment may be chosen for a part of an allocation of a context. -/
def State.allocable (s : State) (ctx : Byte) (seg : Nat) : Bool := s.grantable ctx seg && !(s.attached seg)

/-- The first `n` segments of a die that can hold a part, each with its first stitch. -/
def State.partsOn (s : State) (ctx : Byte) (die n count page : Nat) : Option (List (Nat × Nat)) :=
  let ps := (segKeys die).filterMap (fun g => if s.allocable ctx g then (s.freeStitch g count page).map (fun x => (g, x)) else none)
  if n ≤ ps.length then some (ps.take n) else none

/-- The parts of the groups from `g` on: each group takes the lowest die that can serve it and that no other has. -/
def State.partsFor (s : State) (ctx : Byte) (shards dies count page : Nat) : Nat → Nat → List Nat → Option (List (Nat × Nat))
  | 0, _, _ => some []
  | n + 1, g, used =>
    let size := groupSize shards dies g
    match (List.range Config.dies).findSome? (fun d =>
      if used.contains d then none else (s.partsOn ctx d size count page).map (fun ps => (d, ps))) with
    | none => none
    | some (d, ps) => (s.partsFor ctx shards dies count page n (g + 1) (d :: used)).map (fun r => ps ++ r)

/-- The lowest range index of a context that is free on a die. -/
def Die.freeRange (d : Die) (ctx : Nat) : Option Nat :=
  (List.range 256).find? (fun i => !(rgV (SMap.get 0 d.ranges (ctx * 256 + i))))

/-- Page entries written for a part: its pages from the first on; none where there is no room. -/
def Die.putPages (d : Die) (ctx range code z : Nat) : Nat → Nat → Option Die
  | 0, _ => some d
  | n + 1, va =>
    let i := freeFrom 0 d.pages
    let q := d.mapw true 0 i (pageEntry true true code va ctx range)
    if 65535 < i ∨ q.1 ≠ 0 then none else q.2.putPages ctx range code z n (va + z)

/-- The map entries of a part. -/
def State.mapPart (s : State) (a : Alloc) (code : Nat) (i seg stitch : Nat) : Option State :=
  let d := s.dieAt (keyDie seg)
  let va := a.base + i * a.stride
  match d.freeRange a.ctx.toNat with
  | none => none
  | some idx =>
    let q := d.mapw false a.ctx.toNat idx (rangeEntry true true a.paged va (a.stride / 128) (keyNo seg) stitch)
    if q.1 ≠ 0 then none
    else (q.2.putPages a.ctx.toNat idx code (pageBytes code) (if a.paged then a.stride / pageBytes code else 0) va).map (fun d =>
      s.setDieAt (keyDie seg) d)

/-- The map entries of the parts from `i` on. -/
def State.mapParts (s : State) (a : Alloc) (code : Nat) : Nat → List (Nat × Nat) → Option State
  | _, [] => some s
  | i, (seg, x) :: r => match s.mapPart a code i seg x with | none => none | some s1 => s1.mapParts a code (i + 1) r

/-- The lowest virtual base, a multiple of the page size, above all that the context has mapped (log 27). -/
def State.freeBase (s : State) (ctx : Byte) (z : Nat) : Nat :=
  let ends := (List.range Config.dies).flatMap (fun d => ((s.dieAt d).ranges.filter (fun e => e.1 / 256 == ctx.toNat && rgV e.2)).map (fun e =>
    rgBase e.2 + 128 * rgCount e.2))
  roundUp (ends.foldl max z) z

/-- Where the parts of an allocation lie: as in the one that it is colocated with, or on dies chosen for it. Either way its segments are clean
and owned by none or by the context (R374). -/
def State.allocPlaces (s : State) (ctx : Byte) (shards dies count z : Nat) (co : Option Alloc) : Option (List (Nat × Nat)) :=
  match co with
  | some a => a.parts.mapM (fun g => if s.grantable ctx g then (s.freeStitch g count z).map (fun x => (g, x)) else none)
  | none => s.partsFor ctx shards dies count z dies 0 []

/-- A segment is taken for an allocation. -/
def State.ownSeg (s : State) (ctx : Byte) (seg : Nat) : State := s.setSegAt seg { s.segAt seg with owner := ctx }

/-- The allocation that some parts make. -/
def newAlloc (s : State) (ctx : Byte) (base stride shards : Nat) (ps : List (Nat × Nat)) (paged : Bool) (code : Nat) : Alloc :=
  { handle := BitVec.ofNat 64 (s.mod.handles + 1), ctx := ctx, base := base, stride := stride, shards := shards
    dies := (ps.map (fun p => keyDie p.1)).dedup, parts := ps.map (fun p => p.1), paged := paged, page := code }

/-- ALLOC. DESIGN CHOICE (log 47): a range that would pass 2^48 is NOSPACE, and a handle to colocate with that is no allocation of the context is
UNKNOWN; R78 gives neither a result. A bad argument is BADARG also where the context is not open (log 50; R69, R78). -/
def State.cmdAlloc (s : State) : Answer :=
  let ctx : Byte := BitVec.ofNat 8 (s.arg 0)
  let bytes := s.arg 1
  let b := s.arg 2
  let shards := b % 512
  let dies := b / 512 % 16 + 1
  let code := b / 8192 % 4
  let z := pageBytes code
  let stride := roundUp bytes z
  let co := s.mod.allocs.find? (fun a => a.handle.toNat == s.arg 3 && a.ctx == ctx)
  let base := s.freeBase ctx z
  if 256 ≤ s.arg 0 ∨ 2 ^ 16 ≤ b ∨ bytes = 0 ∨ shards = 0 ∨ 384 < shards ∨ shards < dies ∨ code = 3 then s.ends rBADARG
  else if (s.context ctx).opened = false ∨ (s.arg 3 ≠ 0 ∧ co.isNone = true) then s.ends rUNKNOWN
  else if co.any (fun a => decide (a.shards ≠ shards) || decide (a.dies.length ≠ dies)) then s.ends rBADARG
  else if 2 ^ 48 < base + stride * shards then s.ends rNOSPACE
  else
    match s.allocPlaces ctx shards dies (stride / 128) z co with
    | none => s.ends rNOSPACE
    | some ps =>
      let a := newAlloc s ctx base stride shards ps (b / 32768 == 1) code
      match s.mapParts a code 0 ps with
      | none => s.ends rNOSPACE
      | some s1 =>
        let s2 := ps.foldl (fun t p => t.ownSeg ctx p.1) s1
        { st := s2.onMod (fun m => { m with allocs := m.allocs ++ [a], handles := m.handles + 1 })
          res := [(0, BitVec.ofNat 64 base), (1, a.handle), (2, BitVec.ofNat 64 stride)] }
def execAlloc (seq : BitVec 16) (s : State) : Out := s.accept 0x07 seq State.cmdAlloc

/-- An allocation is in use: an outstanding launch names it through AFF0, or is attached to a part (log 27). -/
def State.allocInUse (s : State) (a : Alloc) : Bool :=
  a.parts.any s.attached || s.mod.launches.any (fun l => match s.affinity l.pkt with | some (some x) => x.handle == a.handle | _ => false)

def State.cmdFree (s : State) : Answer :=
  match s.mod.allocs.find? (fun a => a.handle.toNat == s.arg 0) with
  | none => s.ends rUNKNOWN
  | some a => if s.allocInUse a then s.ends rBUSY else (s.freeAlloc a).ends rOK
def execFree (seq : BitVec 16) (s : State) : Out := s.accept 0x08 seq State.cmdFree

/-! ### CANCEL and QUERY (R67, R77) -/

/-- The state of a launch as QUERY gives it. -/
def Launch.query (l : Launch) : Nat := match l.st with | .waiting => 1 | .placed => 2 | .running => 3 | .suspended => 4

/-- The launch that ARG0 names. -/
def State.argLaunch (s : State) : Option Launch := s.outstanding (BitVec.ofNat 8 (s.arg 0)) (BitVec.ofNat 16 (s.arg 0 / 2 ^ 16))
/-- A zero bit of ARG0 is set. -/
def State.argBad (s : State) : Bool := decide (2 ^ 32 ≤ s.arg 0) || s.arg 0 / 2 ^ 8 % 2 ^ 8 != 0

/-- A launch is cancelled: it is removed, or halted; one that waits to be restored has no cores to halt.
DESIGN CHOICE (log 50): one that has completed and is outstanding until its record is written stays as it is. -/
def State.cancel (s : State) (l : Launch) : State :=
  if l.ended then s
  else if l.st = .waiting then s.complete l 0x12
  else if l.restoring then s.complete (l.halted 0x12 s.walltNs) 0x12
  else s.haltLaunch s.leadAnchor l.pkt.ctx (some l.pkt.lid) 0x12

/-- CANCEL: its arguments are checked; what it does comes in a later tick. -/
def State.cmdCancel (s : State) : Answer := s.ends (if s.argBad then rBADARG else rOK)
def execCancel (seq : BitVec 16) (s : State) : Out := s.accept 0x09 seq State.cmdCancel

def State.cmdQuery (s : State) : Answer :=
  if s.argBad then s.ends rBADARG
  else { st := s, res := [(0, BitVec.ofNat 64 ((s.argLaunch.map Launch.query).getD 0))] }
def execQuery (seq : BitVec 16) (s : State) : Out := s.accept 0x0A seq State.cmdQuery

/-! ### Completion of a command (R65, R66) -/

/-- The eight results that a command leaves: those that it does not give are undefined (log 12). -/
def resultsOf (fresh : Nat) (res : List (Nat × Word)) : SMap Word :=
  SMap.setList 0 [] 0 ((List.range 8).map (fun i => match res.find? (fun e => e.1 == i) with
    | some e => e.2
    | none => Config.freeWord (fresh + i)))

/-- A CANCEL with good arguments is yet to take effect. -/
def MbxJob.cancels (j : MbxJob) : Bool := decide (j.code = 9) && decide (j.result = rOK) && !j.acted
/-- At the start of a tick a CANCEL in progress notes the state of its launch (R77). -/
def State.noteCancel (s : State) : State :=
  match s.mod.mbx with
  | none => s
  | some j => if j.cancels then s.onMod (fun m => { m with mbx := some { j with seen := s.argLaunch.map Launch.query } }) else s
/-- A CANCEL takes effect: RES0 is the state that its launch had at the start of the tick (R77). -/
def State.doCancel (s : State) (j : MbxJob) : Answer :=
  match j.seen with
  | none => s.ends rUNKNOWN
  | some q => { st := match s.argLaunch with | none => s | some l => s.cancel l, res := [(0, BitVec.ofNat 64 q)] }

/-- A command completes: its results, RESULT and SEQ are written, BUSY is cleared, vector 0 is raised unless it is masked. A NEGOTIATE that
succeeds opens LWIN. -/
def State.publish (s : State) (j : MbxJob) : State :=
  let neg := decide (j.code = 1) && decide (j.result = rOK)
  let v := match j.res with | e :: _ => e.2.setWidth 16 | [] => (0 : BitVec 16)
  let s1 := s.onMod (fun m => { m with
    mbx := none, res := resultsOf s.fresh j.res, result := j.result, seqDone := j.seq
    neg := if neg then true else m.neg
    ifver := if neg then v else m.ifver })
  let s2 : State := { s1 with fresh := s1.fresh + 8 }
  if s.mod.msixMask.getLsbD 0 then s2 else s2.raiseMsix 0

/-- A read of an IMAGE_LOAD is still awaited. -/
def Module.imagePending (m : Module) : Bool := m.cacheReqs.any (fun r => match r.use with | .image => true | _ => false)

/-- A command's next step: a CANCEL takes effect (R77), and its result is published in a later tick; any other command's is published. -/
def execMailboxComplete (s : State) : Out :=
  match s.mod.mbx with
  | none => .refused .notEnabled
  | some j =>
    let tick := (s.dieAt 0).tick
    if j.cancels then
      if tick < j.at_ then .refused .notEnabled
      else
        let a := s.doCancel j
        .next (a.st.onMod (fun m => { m with mbx := some { j with result := a.result, res := a.res, acted := true, due := max j.due (tick + 1) } }))
    else if s.mod.imagePending || decide (tick < j.due) then .refused .notEnabled
    else .next (s.publish j)

/-! ### Register writes and the launch window (R63, R70) -/

/-- The command that a word of MBX_CMD names. DESIGN CHOICE (log 47): a code that R67 does not list, and a word with a bit set above bit 23, end in
BADARG. -/
def State.mailbox (s : State) (v : Word) : Out :=
  let code : Byte := v.setWidth 8
  let seq : BitVec 16 := v.extractLsb' 8 16
  if s.mod.mbxBusy && s.mod.ready then .next (s.logError 0x45 0 0 (v.toNat % 2 ^ 32))
  else if v.toNat / 2 ^ 24 ≠ 0 then s.accept code seq (fun t => t.ends rBADARG)
  else
    match code.toNat with
    | 1 => s.accept 0x01 seq State.cmdNegotiate
    | 2 => s.accept 0x02 seq State.cmdImageLoad
    | 3 => s.accept 0x03 seq State.cmdImageDrop
    | 4 => s.accept 0x04 seq State.cmdPreload
    | 5 => s.accept 0x05 seq State.cmdCtxOpen
    | 6 => s.accept 0x06 seq State.cmdCtxClose
    | 7 => s.accept 0x07 seq State.cmdAlloc
    | 8 => s.accept 0x08 seq State.cmdFree
    | 9 => s.accept 0x09 seq State.cmdCancel
    | 10 => s.accept 0x0A seq State.cmdQuery
    | _ => s.accept code seq (fun t => t.ends rBADARG)

/-- A 64-bit write of the host to BAR0: an argument is kept unless the mailbox is BUSY, a command word is a command, a write into LWIN, which is
not of 128 bytes, is discarded and logged (R70), and any other write is ignored. -/
def execRegisterWrite (off : BitVec 20) (v : Word) (s : State) : Out :=
  let a := off.toNat
  if a = 0x1000 then s.mailbox v
  else if 0x1040 ≤ a ∧ a < 0x1080 ∧ a % 8 = 0 ∧ s.mod.mbxBusy = false then
    .next (s.onMod (fun m => { m with args := SMap.set 0 m.args ((a - 0x1040) / 8) v }))
  else if 0x10000 ≤ a ∧ a < 0x20000 then .next (s.logError 0x40 0 0 (a - 0x10000))
  else .next s

/-- A write of the host to LWIN at an offset. DESIGN CHOICE (log 47): a write of a wrong shape while NEG is 0, for which R70 names both events, is
logged as LW_TORN. -/
def execLwinWrite (off : Nat) (data : List Byte) (s : State) : Out :=
  if 0x10000 ≤ off then .refused .notEnabled
  else if data.length ≠ 128 ∨ off % 128 ≠ 0 then .next (s.logError 0x40 0 0 off)
  else if s.mod.neg = false then .next (s.logError 0x42 (packetOf data).ctx (packetOf data).lid off)
  else .next (s.arrive data off none none)

/-! ### CXL.cache (R60, R89, R242, R368) -/

/-- The device holds a line, and at most 256 in all. -/
def Module.holdLine (m : Module) (line : Nat) : Module :=
  let ls := m.lines.filter (fun l => l != line)
  { m with lines := ls.drop (ls.length + 1 - Config.cacheLines) ++ [line] }

/-- The host snoops a line: the device gives it up. -/
def execSnoop (line : Nat) (s : State) : Out := .next (s.onMod (fun m => { m with lines := m.lines.filter (fun l => l != line) }))

/-- A completion record has been written or refused: the interrupt follows, and the launch is no longer outstanding. -/
def State.recordDone (s : State) (ctx : Byte) (lid : BitVec 16) (msix out : Bool) : State :=
  let s1 := if msix then s.raiseMsix (2 + ctx.toNat % 62) else s
  if out then s1.dropLaunch ctx lid else s1

/-- The line of a request whose answer is awaited. -/
def CacheReq.line (r : CacheReq) : Nat := r.base / 64 + r.done
/-- Bytes of a line read join the request. -/
def CacheReq.got (r : CacheReq) (bs : List Byte) : CacheReq := { r with done := r.done + 1, data := (r.data ++ bs).take r.len }
/-- Every line of a request has been answered. -/
def CacheReq.over (r : CacheReq) : Bool := decide (r.len ≤ 64 * r.done)

/-- The result of an IMAGE_LOAD is staged for the mailbox. -/
def stageImage (a : Answer) : State :=
  a.st.onMod (fun m => { m with mbx := m.mbx.map (fun j => { j with result := a.result, res := a.res }) })

/-- The host refuses a line of a request. -/
def State.cacheRefused (s : State) (r : CacheReq) : State :=
  match r.use with
  | .record ctx lid msix out => (s.logError 0x43 ctx lid (r.base % 2 ^ 32)).recordDone ctx lid msix out
  | .image => stageImage (s.ends rHOSTREF)
  | .save anchor _ => s.hostDone anchor csHost
  | .restore anchor _ => s.hostDone anchor csHost

/-- A line of a request is written to host memory. -/
def State.cacheTaken (s : State) (r : CacheReq) : State :=
  let s1 := s.onMod (fun m => { m with hostMem := Memory.setBytes m.hostMem (r.base + 64 * r.done) ((r.data.drop (64 * r.done)).take 64) })
  let r1 := { r with done := r.done + 1 }
  if !r1.over then s1.onMod (fun m => { m with cacheReqs := r1 :: m.cacheReqs })
  else
    match r.use with
    | .record ctx lid msix out => s1.recordDone ctx lid msix out
    | .save anchor _ => s1.hostDone anchor (BitVec.ofNat 64 r.len)
    | _ => s1

/-- A line of a request has been read. -/
def State.cacheLine (s : State) (r : CacheReq) (bs : List Byte) : State :=
  let s1 := s.onMod (fun m => m.holdLine r.line)
  let r1 := r.got bs
  if !r1.over then s1.onMod (fun m => { m with cacheReqs := r1 :: m.cacheReqs })
  else
    match r.use with
    | .image => stageImage (s1.storeImage r1.data)
    | .restore anchor k => s1.restoreGot anchor k r1
    | _ => s1

/-- A request reads lines. -/
def CacheReq.reads (r : CacheReq) : Bool := match r.use with | .image => true | .restore _ _ => true | _ => false

/-- The host answers the line of a request that is awaited; requests are answered each for itself, so that a record is not held up by a transfer
of many lines (R89). -/
def execCxlCacheResponse (answer : HostReply) (s : State) : Out :=
  match s.mod.cacheReqs.find? (fun r => r.id == answer.req) with
  | none => .refused .notEnabled
  | some r =>
    let s1 := s.onMod (fun m => { m with cacheReqs := m.cacheReqs.filter (fun x => x.id != answer.req) })
    match answer.answer with
    | .refused => .next (s1.cacheRefused r)
    | .taken => if r.reads then .refused .notEnabled else .next (s1.cacheTaken r)
    | .line bs => if !r.reads || decide (bs.length ≠ 64) then .refused .notEnabled else .next (s1.cacheLine r bs)

end Sys2Proof.Machine
end

