-- ==== Sys2Proof/Machine/Security.lean ====
section
/-! DEFINITION. Link encryption, SPDM, keys and firmware messages (R61, R62, R383 to R388). The contents of standard messages are
uninterpreted (log 17). -/

namespace Sys2Proof.Machine

/-! ### IDE (R61) -/

/-- A TLP or flit fails its MAC: it is discarded, the link becomes insecure, and the event is logged. -/
def execLwIde (s : State) : Out :=
  if s.mod.ide then .next ((s.onMod (fun m => { m with insecure := true })).logError 0x44 0 0 0) else .refused .notEnabled

/-- Change the SPDM connection. -/
def State.onSpdm (s : State) (f : Spdm → Spdm) : State := s.onMod (fun m => { m with spdm := f m.spdm })

/-- A CXL IDE_KM message inside a session. -/
def execIdeKm (body : List Byte) (s : State) : Out :=
  if s.mod.spdm.sessions = 0 then .refused .notEnabled
  else
    let r := Config.ideMessage s.mod.spdm.ideKeys body
    .next ((s.onSpdm (fun x => { x with ideKeys := r.1 })).onMod (fun m => { m with ide := r.2.1, insecure := r.2.2 }))

/-! ### SPDM (R62, R388) -/

/-- The device answers a request of the list of R62. -/
def State.respond (s : State) (n : Nat) (body content : List Byte) : State :=
  s.onSpdm (fun x => { x with answer := Config.spdmResponse n body content })

/-- A request that needs the connection set up; otherwise its answer is an error of the standard. -/
def State.spdm (s : State) (n : Nat) (body : List Byte) (ok : Bool) (f : Spdm → Spdm) (content : List Byte) : State :=
  if ok then (s.onSpdm f).respond n body content else s.respond 0 body []

/-- GET_VERSION begins a connection anew. -/
def execGetVersion (body : List Byte) (s : State) : Out := .next (s.spdm 1 body true (fun x => { ideKeys := x.ideKeys, version := true }) [])
def execGetCapabilities (body : List Byte) (s : State) : Out :=
  .next (s.spdm 2 body s.mod.spdm.version (fun x => { x with caps := true }) [])
def execNegotiateAlgorithms (body : List Byte) (s : State) : Out :=
  .next (s.spdm 3 body s.mod.spdm.caps (fun x => { x with algs := true }) [])

/-- The certificate chain of slot 0. -/
def execGetDigests (body : List Byte) (s : State) : Out :=
  .next (s.spdm 4 body s.mod.spdm.algs id (leBytes 64 (Config.sha512 (Config.certificateChain 0)).toNat))
def execGetCertificate (body : List Byte) (s : State) : Out := .next (s.spdm 5 body s.mod.spdm.algs id (Config.certificateChain 0))

/-- A SHA-512 digest as bytes. -/
def digestBytes (bs : List Byte) : List Byte := leBytes 64 (Config.sha512 bs).toNat

/-- The cores that are fused off. -/
def State.fusedCores (s : State) : List Nat := (s.cores.filter (fun e => e.2.fused)).map (fun e => e.1)
/-- The five measurement blocks (R388). -/
def State.measurements (s : State) : List (List Byte) :=
  let images := s.mod.images.insertionSort (fun a b => a.id ≤ b.id)
  [digestBytes Config.bootRomIdentity, digestBytes s.mod.flash, leBytes 8 (Config.firmwareVersion s.mod.flash), digestBytes (Config.fuseState s.fusedCores),
    digestBytes (images.flatMap (fun i => leBytes 4 i.id.toNat ++ leBytes 64 i.digest.toNat))]

def execChallenge (body : List Byte) (s : State) : Out := .next (s.spdm 6 body s.mod.spdm.algs id s.measurements.flatten)
def execGetMeasurements (body : List Byte) (s : State) : Out := .next (s.spdm 7 body s.mod.spdm.algs id s.measurements.flatten)

/-- KEY_EXCHANGE starts a session, up to four at a time. -/
def execKeyExchange (body : List Byte) (s : State) : Out :=
  .next (s.spdm 8 body (s.mod.spdm.algs && decide (s.mod.spdm.sessions + s.mod.spdm.pending < 4)) (fun x => { x with pending := x.pending + 1 }) [])
/-- FINISH completes one that has started. -/
def execFinish (body : List Byte) (s : State) : Out :=
  .next (s.spdm 9 body (decide (s.mod.spdm.pending ≠ 0) && Config.finishGood body)
    (fun x => { x with pending := x.pending - 1, sessions := x.sessions + 1 }) [])

/-! ### Keys (R383, R385) -/

/-- The one byte that answers a Boluno message. -/
def State.status (s : State) (code : Byte) : State := s.onSpdm (fun x => { x with answer := [code] })

/-- A key slot is bound to a context other than one, on some die. -/
def State.slotTaken (s : State) (slot : Nat) (ctx : Byte) : Bool :=
  (List.range Config.dies).any (fun d => let k := SMap.get {} (s.dieAt d).keys slot; k.loaded && k.ctx != ctx)
/-- A key pair is written into a slot of every die. -/
def State.setKey (s : State) (slot : Nat) (k : KeySlot) : State :=
  (List.range Config.dies).foldl (fun t d => t.onDieAt d (fun x => { x with keys := SMap.set {} x.keys slot k })) s

def execKeySet (body : List Byte) (s : State) : Out :=
  let ctx := body.getD 1 0
  let slot := (body.getD 2 0).toNat
  if s.mod.spdm.sessions = 0 then .refused .notEnabled
  else if body.length ≠ 72 ∨ 63 < slot ∨ leAt body 3 5 ≠ 0 ∨ ((s.context ctx).opened && (s.context ctx).prot) = false then .next (s.status 1)
  else if s.slotTaken slot ctx then .next (s.status 4)
  else .next ((s.setKey slot { pair := BitVec.ofNat 512 (leAt body 8 64), loaded := true, ctx := ctx }).status 0)

def execKeyClear (body : List Byte) (s : State) : Out :=
  let slot := (body.getD 2 0).toNat
  if s.mod.spdm.sessions = 0 then .refused .notEnabled
  else if body.length < 3 ∨ 63 < slot then .next (s.status 1)
  else .next ((s.clearKey slot).status 0)

/-! ### Firmware (R385 to R387) -/

/-- A firmware message may come: inside a session, or while no image runs. -/
def Module.takesFirmware (m : Module) : Bool := m.spdm.sessions != 0 || (!m.ready && m.boot.isNone)

/-- FW_DATA: bytes of a new image are staged. -/
def execFwData (body : List Byte) (s : State) : Out :=
  let n := leAt body 8 4
  if !s.mod.takesFirmware then .refused .notEnabled
  else if n < 1 ∨ 4032 < n ∨ body.length ≠ 12 + n then .next (s.status 1)
  else .next ((s.onMod (fun m => { m with staged := Memory.setBytes m.staged (leAt body 4 4) (body.drop 12) })).status 0)

/-- The signature of a firmware image is good: its last 512 bytes sign the digest of the rest. -/
def firmwareSigned (image : List Byte) : Bool :=
  decide (512 ≤ image.length) && Config.rsaGood (image.drop (image.length - 512)) (Config.sha512 (image.take (image.length - 512)))
/-- The firmware image in flash may run (R387). -/
def Module.firmwareGood (m : Module) : Bool := firmwareSigned m.flash && decide (m.minVersion ≤ Config.firmwareVersion m.flash)

/-- FW_COMMIT: the staged image is verified and written to the flash, and a warm reset is asked for. -/
def execFwCommit (body : List Byte) (s : State) : Out :=
  let image := Memory.bytes s.mod.staged 0 (leAt body 4 4)
  if !s.mod.takesFirmware then .refused .notEnabled
  else if body.length < 8 then .next (s.status 1)
  else if !(firmwareSigned image) then .next (s.status 2)
  else if Config.firmwareVersion image < s.mod.minVersion then .next (s.status 3)
  else .next ((s.onMod (fun m => { m with flash := image, staged := [], resetReq := true })).status 0)

end Sys2Proof.Machine
end

