-- ==== Sys2Proof/Machine/Service.lean ====
section
/-! DEFINITION. Service of the module: retiring banks, hot banks, soft repair, operating points, heartbeats and failed anchors, resets
(R194 to R203, R320, R321, R389 to R393, R400). -/

namespace Sys2Proof.Machine

/-! ### Banks and stitches (R195) -/

/-- The live banks of a set, in ascending order. -/
def liveBanks (live : BitVec 32) : List Nat := (List.range 32).filter (fun b => live.getLsbD b)
/-- Place of a bank among the live ones. -/
def Seg.bankPlace (g : Seg) (bank : Nat) : Nat := (liveBanks g.live).idxOf bank
/-- The row that the cursor last visited in a live bank. -/
def Seg.lastRow (g : Seg) (bank : Nat) : Nat :=
  let j := g.bankPlace bank
  if j ≤ g.cursor % g.l then g.cursor / g.l else (g.cursor / g.l + Config.bankStitches - 1) % Config.bankStitches

/-- A bank becomes hot, and its refresh pointer starts half a bank ahead of the cursor, or it stops being hot (R200). -/
def execHotBankChange (die : DieNo) (seg : SegNo) (bank : BitVec 5) (hot : Bool) (s : State) : Out :=
  let k := die.toNat * 32 + seg.toNat
  let g := s.segAt k
  let b := bank.toNat
  let bit : BitVec 32 := 1#32 <<< b
  if 24 ≤ seg.toNat ∨ g.live.getLsbD b = false ∨ g.hot.getLsbD b = hot then .refused .notEnabled
  else if hot then
    .next (s.setSegAt k { g with hot := g.hot ||| bit, refresh := SMap.set 0 g.refresh b ((g.lastRow b + 2 ^ 17) % 2 ^ 18) })
  else .next (s.setSegAt k { g with hot := g.hot &&& ~~~bit, refresh := SMap.set 0 g.refresh b 0 })

/-! ### Retiring a bank (R201 to R203) -/

/-- The core that a segment is attached to. -/
def State.attachedCore (s : State) (seg : Nat) : Option Nat := (s.cores.find? (fun e => e.2.placed && e.2.seg == some seg)).map (fun e => e.1)
/-- A core runs, and nothing else has stopped it or is about to. -/
def Core.goes (c : Core) : Bool := (decide (c.run = .running) || decide (c.run = .exiting)) && c.halt.isNone && decide (c.hold ≠ .delivered)
/-- A valid range entry places data of a segment at a stitch or above. -/
def State.mappedAbove (s : State) (seg stitch : Nat) : Bool :=
  (s.dieAt (keyDie seg)).ranges.any (fun e => rgV e.2 && rgSeg e.2 == keyNo seg && decide (stitch < rgStitch e.2 + rgCount e.2))
/-- A save slot of a die is in use (R357). -/
def State.savesOn (s : State) (die : Nat) : Bool := decide ((s.dieAt die).region ≠ []) || s.mod.launches.any (fun l => l.restoring && l.dieOf.contains die)

/-- Firmware starts a remap of a segment to fewer live banks: the attached core stops, and its passes park. -/
def execBankRemap (die : DieNo) (seg : SegNo) (live : W32) (s : State) : Out :=
  let k := die.toNat * 32 + seg.toNat
  let g := s.segAt k
  let n := (liveBanks live).length
  if 24 ≤ seg.toNat ∨ g.remap.isSome = true ∨ live &&& ~~~g.live ≠ 0 ∨ live = g.live ∨ live = 0 ∨
      s.mappedAbove k (n * Config.bankStitches) = true ∨ (seg.toNat = 23 ∧ s.savesOn die.toNat = true) then .refused .notEnabled
  else
    let s1 := match s.attachedCore k with
      | none => s
      | some c => if (s.coreAt c).goes then s.stopCore c else s
    .next (s1.setSegAt k { g with remap := some { live := live } })

/-- A pass on a segment whose period becomes shorter: its next stitch, and how many it has visited (R202). -/
def Pass.renumber (p : Pass) (old new : Nat) : Pass :=
  let q := (p.openPt + p.visits) % old
  let op := if p.openPt < new then p.openPt else 0
  let v :=
    if p.openPt < new then (if q < new then (if p.visits = 0 then 0 else (q + new - op) % new) else new - op)
    else if q < new then q
    else if old - p.openPt < p.visits then new else 0
  { p with openPt := op, visits := v, lead := 0, closeIn := if v = new ∧ 0 < new then 4 else p.closeIn,
           st := if v = new ∧ 0 < new then .riding else p.st, trap := if v = new ∧ 0 < new then none else p.trap }

/-- A core's passes on a segment. -/
def Core.renumber (c : Core) (seg old new : Nat) : Core :=
  { c with passes := c.passes.map (fun e => if e.2.open_ && e.2.seg == seg && e.2.closeIn == 0 then (e.1, e.2.renumber old new) else e) }

/-- The remap is complete: the map takes its new values, the core resumes, and its passes reopen. -/
def execRemapComplete (die : DieNo) (seg : SegNo) (s : State) : Out :=
  let k := die.toNat * 32 + seg.toNat
  let g := s.segAt k
  match g.remap with
  | none => .refused .notEnabled
  | some r =>
    let old := g.period
    let new := (liveBanks r.live).length * Config.bankStitches
    if r.setup ≠ 0 ∨ r.step < new + 32 then .refused .notEnabled
    else
      let s1 := s.setSegAt k { g with
        live := r.live, remap := none, cursor := if g.cursor < new then g.cursor else 0, hot := g.hot &&& r.live
        repaired := g.repaired.filter (fun n => r.live.getLsbD (n / 64)), data := SMap.keep (fun a => decide (a < new * 128)) g.data, bad := g.bad.filter (fun x => decide (x < new)) }
      let s2 := { s1 with cores := s1.cores.map (fun (e : Nat × Core) => (e.1, e.2.renumber k old new)) }
      .next (match s2.attachedCore k with
        | none => s2
        | some c => if (s2.coreAt c).goes then (s2.resumeCore c).onCoreAt c (fun x => { x with hold := (s2.coreAt c).hold }) else s2)

/-- A via lane that fails is replaced: one row group of one bank goes to a spare lane, at most 8 of a segment (R391). -/
def execSoftRepair (die : DieNo) (seg : SegNo) (bank : BitVec 5) (group : BitVec 6) (s : State) : Out :=
  let k := die.toNat * 32 + seg.toNat
  let g := s.segAt k
  let n := bank.toNat * 64 + group.toNat
  if 24 ≤ seg.toNat ∨ g.repaired.contains n ∨ 8 ≤ g.repaired.length ∨ g.live.getLsbD bank.toNat = false then .refused .notEnabled
  else .next (s.setSegAt k { g with repaired := g.repaired ++ [n] })

/-! ### Operating points (R320, R321) -/

/-- A DET launch has a core on a die. -/
def State.detOn (s : State) (die : Nat) : Bool := s.mod.launches.any (fun l => l.pkt.det && l.place.any (fun k => keyDie k == die))

/-- Firmware changes the level of a die's island in a tick with TICK mod 16 = 0; with a DET launch it stays at 16. -/
def execLevelChange (die : DieNo) (level : Level) (s : State) : Out :=
  let d := die.toNat
  if (s.dieAt d).tick % 16 ≠ 0 ∨ (s.detOn d = true ∧ level ≠ .full) then .refused .notEnabled
  else .next (s.onDieAt d (fun x => { x with level := level, levelNext := level }))
/-- The critical-temperature trip: level 8 until firmware clears it. -/
def execCriticalTempTrip (die : DieNo) (s : State) : Out := .next (s.onDieAt die.toNat (fun x => { x with critical := true }))
def execCriticalTripClear (die : DieNo) (s : State) : Out :=
  if (s.dieAt die.toNat).critical then .next (s.onDieAt die.toNat (fun x => { x with critical := false })) else .refused .notEnabled

/-! ### Heartbeats and failed anchors (R393) -/

/-- The healthy anchor of lowest die number. -/
def State.lowestHealthy (s : State) : Option Nat := (List.range Config.dies).find? (fun d => !(s.dieAt d).anchorFailed)

/-- The anchors of a die exchange heartbeats: one that has halted misses; a takeover of the lead ends. -/
def execHeartbeat (die : DieNo) (s : State) : Out :=
  let d := die.toNat
  let x := s.dieAt d
  if x.tick % 65536 ≠ 0 ∨ x.tick = x.beatAt then .refused .notEnabled
  else
    let dead := decide ((s.coreAt (d * 32 + Config.anchorNo)).run = .halted)
    let s1 := s.onDieAt d (fun x => { x with missed := if dead then x.missed + 1 else 0, beatAt := x.tick })
    .next (if s.mod.leadchg && s.lowestHealthy == some d then s1.onMod (fun m => { m with lead := die, leadchg := false }) else s1)

/-- A command in progress ends with RESULT BUSY as the lead changes. -/
def State.endCommand (s : State) : State :=
  match s.mod.mbx with
  | none => s
  | some j =>
    (s.onMod (fun m => { m with cacheReqs := m.cacheReqs.filter (fun r => match r.use with | .image => false | _ => true) })).publish
      { j with result := rBUSY, res := [] }

/-- The launches that run with a core on a die are halted. -/
def State.haltOn (s : State) (die : Nat) : State :=
  (s.mod.launches.filter (fun l => !l.ended && l.place.any (fun k => keyDie k == die))).foldl (fun t l =>
    t.haltLaunch (die * 32 + Config.anchorNo) l.pkt.ctx (some l.pkt.lid) 0x10) s

/-- An anchor that has missed 4 heartbeats, or has taken a class I fault, is failed. -/
def execAnchorFailed (die : DieNo) (s : State) : Out :=
  let d := die.toNat
  let a := s.coreAt (d * 32 + Config.anchorNo)
  if (s.dieAt d).anchorFailed ∨ ((s.dieAt d).missed < 4 ∧ a.fault.isNone = true) then .refused .notEnabled
  else
    let s1 := (s.onDieAt d (fun x => { x with anchorFailed := true })).haltOn d
    .next (if s.mod.lead = die then (s1.onMod (fun m => { m with leadchg := true })).endCommand else s1)

/-! ### Warm reset (R389, R391, R400) -/

/-- The stitches of a row group of a bank. -/
def Seg.groupStitches (g : Seg) (n : Nat) : List Nat :=
  (List.range 4096).map (fun r => ((n % 64) * 4096 + r) * g.l + g.bankPlace (n / 64))
/-- A segment at a warm reset: passes, a remap among them (R203), and staged contributions are gone, and soft-repaired row groups become suspect. -/
def Seg.warm (g : Seg) : Seg :=
  let xs := g.repaired.flatMap g.groupStitches
  { g with
    ord := [], reserved := [], repaired := [], pzPass := none, remap := none
    bad := g.bad ++ xs.filter (fun x => !(g.bad.contains x)), dirty := xs.foldl (fun m x => m ||| blockBit x) g.dirty }

/-- A core at a warm reset: one that is placed is released, and the logic of every other is reset; no pass, refused open or work in flight is left
(R389, R400). -/
def Core.warm (c : Core) (k due : Nat) : Core :=
  let cold : Core := { (if c.placed then c.release due else c.blank) with
    step := false, brken := false, pfreeze := false, passes := [], refusals := [], tmma := [], meshSend := [] }
  if isAnchor k then cold else { cold with rowStore := [], rows := 0, image := none, badRows := [], expandAt := 0 }

/-- A die at a warm reset. DESIGN CHOICE (logs 14, 38): the heat account and wall time go back to 0, as their entries do not say that they
survive (R6, R262, R328). -/
def Die.warm (d : Die) (n : Nat) : Die :=
  { d with
    keys := [], scrub := { d.scrub with busy := false }, reqs := [], serving := none, missed := 0, anchorFailed := false, level := .full
    levelNext := .full, heatQ := [], heatRate := Config.heatBase (BitVec.ofNat 4 n), supSeq := 0, heatCap := 0, heat := 0, wallt := 0, wallRate := 0, wallOver := 0
    fence := none, region := [] }

/-- A port at a warm reset: it trains anew. -/
def Port.fresh (p : Port) : Port :=
  { p with up := false, failed := false, nextSend := 0, nextRecv := 0, replay := [], out := [], lane := none, credit := 0, crcFails := []
           naks := [], received := [], lostAt := none, newTrunk := false }

/-- The module at a warm reset. -/
def Module.warm (m : Module) (ticks : Nat) : Module :=
  { flash := m.flash, minVersion := m.minVersion, hostMem := m.hostMem, hostRefuse := m.hostRefuse, saves := m.saves, bootLeft := bootTicks
    msix := m.msix, errlog := m.errlog, errhead := m.errhead, contexts := m.contexts, descs := m.descs, allocs := m.allocs
    handles := m.handles, ports := m.ports.map (fun p => (p.1, p.2.fresh)), boot := some ticks }

/-- The keys of all segments of the module. -/
def allSegs : List Nat := (List.range Config.dies).flatMap segKeys
/-- Every die and anchor has an entry for what boot sets. -/
def eachDie (f : State → Nat → State) (s : State) : State := (List.range Config.dies).foldl f s

/-- A warm reset takes effect. -/
def State.warmReset (s : State) : State :=
  let f := s.choose .boot bootTicks
  let s1 : State := { f.2 with
    cores := s.cores.map (fun (e : Nat × Core) => (e.1, e.2.warm e.1 (s.zeroedAt e.1 (e.1 + 1))))
    segs := s.segs.map (fun (e : Nat × Seg) => (e.1, e.2.warm))
    mod := s.mod.warm f.1
    fresh := f.2.fresh + 32 * Config.dies + 1 }
  eachDie (fun t d => t.onDieAt d (fun x => x.warm d)) s1
/-- A warm reset that is asked for between two ticks takes effect at once, and one asked for within a tick at the start of the next (R400). -/
def execWarmReset (s : State) : Out := .next (if s.turns = [] then s.warmReset else s.onMod (fun m => { m with resetReq := true }))

/-! ### Cold reset and boot (R387, R389, R390) -/

/-- What a core is at power-up: fuses, and the program that its anchor's firmware image holds. -/
def Core.cold (c : Core) : Core :=
  if c.own then { fused := c.fused, own := true, entry := c.entry, rowStore := c.rowStore, rows := c.rows, image := c.image }
  else { fused := c.fused }

/-- A cold reset: only fuses and flash survive; what lies outside the module stays. -/
def execColdReset (s : State) : Out :=
  let f := s.choose .boot bootTicks
  .next { State.reset with
    cores := (s.cores.map (fun (e : Nat × Core) => (e.1, e.2.cold))).filter (fun e => decide (e.2 ≠ {}))
    mod := { flash := s.mod.flash, minVersion := s.mod.minVersion, hostMem := s.mod.hostMem, hostRefuse := s.mod.hostRefuse
             boot := some f.1, bootLeft := bootTicks, coldBoot := true }
    fresh := f.2.fresh }

/-- A layer of a die that is not ready within 10 ms is not brought up: its banks are retired in every segment. -/
def execLayerReadyTimeout (die : DieNo) (layer : BitVec 5) (s : State) : Out :=
  let d := die.toNat
  let n := layer.toNat
  if s.mod.boot.isNone ∨ s.mod.coldBoot = false ∨ n < 1 ∨ 8 < n ∨ (s.dieAt d).layersDown.contains n then .refused .notEnabled
  else
    let mask : BitVec 32 := 0xF#32 <<< (4 * (n - 1))
    let s1 := (segKeys d).foldl (fun t k => t.setSegAt k { t.segAt k with live := (t.segAt k).live &&& ~~~mask, cursor := 0 }) s
    .next (s1.onDieAt d (fun x => { x with layersDown := x.layersDown ++ [n] }))

/-- An anchor that runs a program of its own starts at its entry row (R400). -/
def Core.boot (c : Core) : Core :=
  if c.own then { c.blank with run := .running, pos := { row := c.entry }, passesMax := 32, tagsMax := 64 } else c

/-- The page-zero records after firmware has zeroed every segment with supervisor `PZERO` (R380 to R382, R390): of all its stitches, and none left. -/
def State.zeroSegs (s : State) : State :=
  (allSegs.foldl (fun (t : State) k => t.setSegAt k { t.segAt k with
    data := [], bad := [], pzValid := false, pzFirst := 0, pzCount := (t.segAt k).period, pzNext := 0, pzRemain := 0, pzPass := none, pzTouched := 0, dirty := 0 }) s)

/-- Boot is over: firmware that is good runs, sets its figures, and READY with it; otherwise the boot ROM waits for a new image. -/
def State.bootDone (s : State) : State :=
  let s0 := if s.mod.coldBoot && s.mod.firmwareGood then s.zeroSegs else s
  let s1 := s0.onMod (fun m => { m with
    boot := none, bootLeft := 0, coldBoot := false, ready := m.firmwareGood, ports := m.ports.map (fun p => (p.1, { p.2 with newTrunk := false })) })
  if !s.mod.firmwareGood then s1
  else
    (eachDie (fun t d => (t.onDieAt d (fun x => { x with
        heatCap := Config.heatCap (BitVec.ofNat 4 d), heatRate := Config.heatBase (BitVec.ofNat 4 d) })).onCoreAt
      (d * 32 + Config.anchorNo) Core.boot) s1).onMod (fun m => { m with ptp := { m.ptp with st := .listening, listenAt := (s.dieAt 0).tick } })

end Sys2Proof.Machine
end

