-- ==== Sys2Proof/Machine/Igdin.lean ====
section
/-! DEFINITION. The Igdin ports and links: training, flits, acknowledgement and replay, loss of lock, retirement; operations that come over a
trunk; and the system barrier tree (R272, R274, R280, R283 to R286, R289). What the manual leaves open of a flit's payload is free (log 25). -/

namespace Sys2Proof.Machine

/-! ### Ports (R283) -/

/-- The number of a die's port on a link; none where the die has no such link. -/
def portNo (die : DieNo) (link : BitVec 4) : Option Nat :=
  let d := die.toNat
  if link.toNat < 5 - d % 2 then some (9 * (d / 2) + 5 * (d % 2) + link.toNat) else none
/-- The die of a port. -/
def portDie (n : Nat) : Nat := 2 * (n / 9) + (if n % 9 < 5 then 0 else 1)
/-- A step of a port of a die. -/
def onLink (die : DieNo) (link : BitVec 4) (f : Nat → Out) : Out := match portNo die link with | none => .refused .notEnabled | some n => f n

/-! ### Training (R283, R285) -/

/-- The highest link version common to this module and the far end. -/
def linkVersion (far : FarEnd) : Option (BitVec 16) :=
  if far.versionLow.toNat ≤ 0x11 ∧ 0x10 ≤ far.versionHigh.toNat then some (if far.versionHigh.toNat < 0x11 then far.versionHigh else 0x11) else none

/-- The other ports of the trunk to a module. -/
def State.mates (s : State) (n : Nat) (identity : BitVec 64) : List (Nat × Port) :=
  s.mod.ports.filter (fun p => p.1 != n && p.2.everUp && p.2.identity == identity)
/-- The trunk that a port joins is formed by the training of the start-up under way. -/
def State.formsTrunk (s : State) (n : Nat) (identity : BitVec 64) : Bool :=
  s.mod.boot.isSome && (s.mates n identity).all (fun p => p.2.newTrunk)
/-- The home port of the trunk to a module that a port joins: the trunk's own if it has formed, or the lowest port that the training which forms
it has found so far. -/
def State.homeFor (s : State) (n : Nat) (identity : BitVec 64) : Nat :=
  let home := (s.mates n identity).foldl (fun h p => min h p.2.home) 72
  if home = 72 then n else if s.formsTrunk n identity then min home n else home

/-- A port that comes up on a trunk: while the module boots, the trunk is named by its lowest port. -/
def State.joinTrunk (s : State) (identity : BitVec 64) (home : Nat) : State :=
  s.onMod (fun m => { m with ports := m.ports.map (fun p =>
    if p.2.everUp && p.2.identity == identity then (p.1, { p.2 with home := home }) else p) })

/-- A port trains: it comes up at the common version, or fails. -/
def execTraining (die : DieNo) (link : BitVec 4) (far : FarEnd) (s : State) : Out :=
  onLink die link (fun n =>
    let p := s.port n
    if p.up then .refused .notEnabled
    else
      match linkVersion far with
      | none => .next (s.onPort n (fun p => { p with failed := true }))
      | some v =>
        let same := p.everUp && p.identity == far.identity
        let home := if same then p.home else s.homeFor n far.identity
        .next ((s.onPort n (fun p => { p with
          up := true, failed := false, retired := false, everUp := true, identity := far.identity, home := home, version := v, lostAt := none
          newTrunk := if same then p.newTrunk else s.formsTrunk n far.identity
          crcFails := [], naks := [], out := p.out.filter (fun f => f.type != 1) ++ p.replay.map (fun f => f.2) })).joinTrunk far.identity home))

/-- A port loses its lane lock. -/
def execLaneLockLoss (die : DieNo) (link : BitVec 4) (s : State) : Out :=
  onLink die link (fun n =>
    if (s.port n).up then .next (s.onPort n (fun p => { p with up := false, lostAt := some (s.dieAt die.toNat).tick })) else .refused .notEnabled)

/-! ### Retirement (R286) -/

/-- A port is to be retired: it failed training, a flit failed its CRC three times, or the lane has been without lock for more than
1 ms. -/
def State.toRetire (s : State) (n : Nat) : Bool :=
  let p := s.port n
  !p.retired && (p.failed || (p.crcFails ++ p.naks).any (fun e => decide (3 ≤ e.2)) ||
    (match p.lostAt with | none => false | some t => decide (t + 3600000 < (s.dieAt (portDie n)).tick)))

/-- The trunks of a launch that a port carries. -/
def Launch.trunksOn (l : Launch) (n : Nat) : List Nat := (l.trunks.filter (fun t => t.2 == n + 1)).map (fun t => t.1)
/-- The cores in which the loss of a port raises `LINKDOWN` for a launch: those that sent on it, or logical core 0. -/
def State.linkdownCores (s : State) (l : Launch) (n : Nat) : List Nat :=
  let mine := s.launchCores l.pkt.ctx l.pkt.lid
  let sent := mine.filter (fun e => e.2.farSent.any (fun t => (l.trunksOn n).contains t))
  (if sent.isEmpty then mine.filter (fun e => e.2.lcore == 0) else sent).map (fun e => e.1)

/-- `LINKDOWN` in a core, naming a port. -/
def State.linkdown (s : State) (k port : Nat) : State :=
  s.raiseAt k { code := cLINKDOWN, row := (s.coreAt k).pos.row, elem := BitVec.ofNat 64 port, slot := 4, addr := 0 }

/-- Firmware retires a port: its flits are discarded, and launches with a circuit on it fault. -/
def execPortRetire (die : DieNo) (link : BitVec 4) (s : State) : Out :=
  onLink die link (fun n =>
    if !(s.toRetire n) then .refused .notEnabled
    else
      let s1 := s.onPort n (fun p => { p with
        retired := true, up := false, failed := false, replay := [], out := [], lane := none, credit := 0, received := [], lostAt := none })
      .next ((s.mod.launches.filter (fun l => !l.ended && !(l.trunksOn n).isEmpty && decide (l.st = .running))).foldl (fun t l =>
        (s.linkdownCores l n).foldl (fun t k => t.linkdown k n) t) s1))

/-! ### The lane (R283, R284) -/

/-- What a lane of 448 Gb/s carries in a tick of 3.6 GHz, and a flit of 256 bits, in ninths of a bit (R283, R318). -/
def laneRate : Nat := 1120
def flitBits : Nat := 2304
/-- A tick of a port's lane: it carries the next flit that is to go out. -/
def Port.laneTick (p : Port) : Port :=
  if p.out = [] ∨ p.up = false then { p with lane := none, credit := 0 }
  else if flitBits ≤ p.credit + laneRate then { p with lane := p.out.head?, out := p.out.drop 1, credit := p.credit + laneRate - flitBits }
  else { p with lane := none, credit := p.credit + laneRate }

/-! ### Operations as flits carry them (R284, log 25) -/

/-- What the 8 extra bytes of an operation say: its kind (0 message, 1 write, 2 to 5 atomics, 6 commit, 7 and 8 a report and a release of a system
barrier), its entries, the receive port, core and address of its target. -/
structure LinkHead where
  kind : Nat
  count : Nat
  rport : Nat
  core : Nat
  addr : Nat
  deriving DecidableEq, Repr

/-- The fields of the extra bytes in the free order of the layout: address 0, core 1, receive port 2, kind with the entries 3. -/
def headerFields : List Nat := (List.range 4).insertionSort (fun a b => Config.headerKey a ≤ Config.headerKey b)
/-- Bytes of a field. -/
def fieldLen (n : Nat) : Nat := [4, 2, 1, 1].getD n 0
/-- The 8 extra bytes of an operation: each field has its byte of lowest order first (R4). -/
def LinkHead.bytes (h : LinkHead) : List Byte :=
  headerFields.flatMap (fun n => leBytes (fieldLen n) ([h.addr, h.core, h.rport, h.kind % 16 + 16 * h.count].getD n 0))
/-- Field n of 8 extra bytes whose fields stand in an order. -/
def fieldIn (n : Nat) : List Nat → List Byte → Nat
  | [], _ => 0
  | m :: r, bs => if m = n then leNat (bs.take (fieldLen m)) else fieldIn n r (bs.drop (fieldLen m))
/-- What 8 extra bytes say. -/
def headOf (bs : List Byte) : LinkHead :=
  let f := fun n => fieldIn n headerFields bs
  ⟨f 3 % 16, f 3 / 16, f 2, f 1, f 0⟩

/-- Kind, address and entries of an operation. -/
def LOp.parts : LOp → Nat × Nat × List (List W32)
  | .send es => (0, 0, es)
  | .put x ws => (1, x, entriesOf ((ws.length + 7) / 8) ws)
  | .amo o x ws => (2 + o, x, entriesOf ((ws.length + 7) / 8) ws)
  | .commit x ws => (6, x, entriesOf ((ws.length + 7) / 8) ws)
/-- The operation of a kind. -/
def opOf (kind addr : Nat) (es : List (List W32)) : LOp :=
  match kind with
  | 0 => .send es
  | 1 => .put addr es.flatten
  | 6 => .commit addr es.flatten
  | n => .amo (n - 2) addr es.flatten

/-- Bytes cut into payloads of 26, the last filled up. -/
def payloads : Nat → List Byte → List (List Byte)
  | 0, _ => []
  | n + 1, bs => (bs.take 26 ++ ((List.range (26 - (bs.take 26).length)).map Config.padByte)) :: payloads n (bs.drop 26)
/-- Data flits of a head and entries on a circuit, from a sequence number on: ⌈(32F + 8)/26⌉ of them. -/
def dataFlits (h : LinkHead) (es : List (List W32)) (circuit : BitVec 12) (seq : Nat) : List Flit :=
  let bs := h.bytes ++ es.flatMap wordBytes
  (payloads ((bs.length + 25) / 26) bs).zipIdx.map (fun b =>
    flitSealed { type := 1, seq := BitVec.ofNat 8 (seq + b.2), circuit := circuit, payload := payloadOf b.1, crc := 0 })
/-- Flits of an operation. -/
def flitsOf (m : Sent) (circuit : BitVec 12) (seq : Nat) : List Flit :=
  let p := m.op.parts
  dataFlits ⟨p.1, p.2.2.length, m.rport, m.core, p.2.1⟩ p.2.2 circuit seq

/-! ### Sending (R274, R283, R284) -/

/-- Number of the oldest flit of the replay buffer. -/
def Port.oldest (p : Port) : Nat := match p.replay with | [] => p.nextSend | e :: _ => e.1
/-- A port has room for flits in its replay buffer, which holds the 128 numbers from its oldest flit on. -/
def Port.takes (p : Port) (n : Nat) : Bool := p.up && decide (p.nextSend + n ≤ p.oldest + 128)
/-- Flits go out on a port, and are kept until they are acknowledged. -/
def Port.push (p : Port) (fs : List Flit) : Port :=
  { p with nextSend := p.nextSend + fs.length, replay := p.replay ++ fs.zipIdx.map (fun f => (p.nextSend + f.2, f.1)), out := p.out ++ fs }

/-- An operation whose entries its circuit has accepted goes onto the launch's port for its trunk, where the replay buffer has room, and after
those before it on its circuit. -/
def sendOne (l : Launch) (lcore port : Nat) (q : SMap Port × List Sent) (m : Sent) : SMap Port × List Sent :=
  let keep := (q.1, q.2 ++ [m])
  if !m.far || m.flit.isSome || decide (m.taken < m.entries) || q.2.any (fun e => e.circuit == m.circuit && e.flit.isNone) then keep
  else
    match SMap.get 0 l.trunks m.trunk with
    | 0 => keep
    | n + 1 =>
      let p : Port := SMap.get {} q.1 n
      let fs := flitsOf m (Config.circuitNumber l.pkt.ctx l.pkt.lid lcore port m.core m.rport) p.nextSend
      if !(p.takes fs.length) then keep
      else (SMap.set {} q.1 n (p.push fs), q.2 ++ [{ m with flit := some (p.nextSend + fs.length - 1) }])

/-- The last flit of an operation has been acknowledged by the far end: it has reached its target (log 25). -/
def acked (l : Launch) (ports : SMap Port) (m : Sent) : Bool :=
  match m.flit with
  | none => false
  | some f => match SMap.get 0 l.trunks m.trunk with
    | 0 => false
    | n + 1 => let p : Port := SMap.get {} ports n; !(p.replay.any (fun e => e.1 == f))

/-- A tick of a core's circuits over trunks: acknowledged operations leave their queues, and accepted ones go onto their links. -/
def State.sendFar (s : State) (k : Nat) : State :=
  let c := s.coreAt k
  if !(c.sends.any (fun q => q.2.any (fun m => m.far))) then s
  else
    match s.outstanding c.ctx c.lid with
    | none => s
    | some l =>
      let r := c.sends.foldl (fun (r : SMap Port × SMap (List Sent)) q =>
        let t := (q.2.filter (fun m => !(acked l r.1 m))).foldl (sendOne l c.lcore q.1) (r.1, [])
        (t.1, SMap.set [] r.2 q.1 t.2)) (s.mod.ports, [])
      (s.onMod (fun m => { m with ports := r.1 })).onCoreAt k (fun c => { c with sends := r.2 })

/-! ### Receiving (R272, R274, R280, R284) -/

/-- One more failure of a flit. -/
def bump (m : SMap Nat) (seq : Byte) : SMap Nat := SMap.set 0 m seq.toNat (SMap.get 0 m seq.toNat + 1)

/-- The far end acknowledges a flit: it leaves the replay buffer. -/
def execAcknowledge (die : DieNo) (link : BitVec 4) (seq : Byte) (s : State) : Out :=
  onLink die link (fun n =>
    if !((s.port n).replay.any (fun f => f.2.seq == seq)) then .refused .notEnabled
    else .next (s.onPort n (fun p => { p with replay := p.replay.filter (fun f => f.2.seq != seq), naks := SMap.set 0 p.naks seq.toNat 0 })))

/-- The far end refuses a flit: it is replayed, with those after it, and its failures are counted. -/
def execNegativeAcknowledge (die : DieNo) (link : BitVec 4) (seq : Byte) (s : State) : Out :=
  onLink die link (fun n =>
    if !((s.port n).replay.any (fun f => f.2.seq == seq)) then .refused .notEnabled
    else .next (s.onPort n (fun p => { p with
      naks := bump p.naks seq
      out := p.out.filter (fun f => f.type != 1) ++ (p.replay.map (fun f => f.2)).dropWhile (fun f => f.seq != seq) })))

/-- Logical core that stands for a sender of another launch: it has no interval, so that its writes are never a conflict (R313, log 42). -/
def otherLaunch : Nat := 1023

/-- The logical cores and ports that can send on a circuit over a trunk, and 384 with 15 for the system barrier tree. -/
def farSenders : List (Nat × Nat) := (384, 15) :: (List.range 384).flatMap (fun c => (List.range 15).map (fun p => (c, p)))
/-- What a circuit number of the far module stands for towards a target: the launch of this module with the context and id of the one that it was
assigned in, and the logical core and port that send (R272, R284; log 25). -/
def State.farSender (s : State) (circuit : BitVec 12) (core rport : Nat) : Option (Launch × Nat × Nat) :=
  (s.mod.launches.filter (fun l => !l.ended)).findSome? (fun l =>
    (farSenders.find? (fun e => Config.circuitNumber l.pkt.ctx l.pkt.lid e.1 e.2 core rport == circuit)).map (fun e => (l, e)))

/-- An operation has come whole over a trunk, its last flit with a SEQ: it waits for its target. A report or a release of a system barrier is noted
at its launch. What no launch of this module is to receive is discarded. -/
def State.farArrives (s : State) (n : Nat) (circuit : BitVec 12) (seq : Byte) (h : LinkHead) (es : List (List W32)) : State :=
  match s.farSender circuit h.core h.rport with
  | none => s.ackFlit n seq
  | some (l, core, port) =>
    match h.kind with
    | 7 => (s.onLaunch l.pkt.ctx l.pkt.lid (fun l => { l with sysIn := l.sysIn ++ [(h.addr % 16, (s.port n).home)] })).ackFlit n seq
    | 8 => (s.onLaunch l.pkt.ctx l.pkt.lid (fun l => { l with sysGo := l.sysGo ||| 1#16 <<< (h.addr % 16) })).ackFlit n seq
    | k =>
      let o : FarOp := { id := s.fresh, home := (s.port n).home, link := n, flit := seq, ctx := l.pkt.ctx, lid := l.pkt.lid, lcore := core, port := port
                         core := h.core, rport := h.rport, op := opOf k h.addr es, entries := es.length, due := (s.dieAt 0).tick }
      { s.onMod (fun m => { m with farIn := m.farIn ++ [o] }) with fresh := s.fresh + 1 }

/-- The bytes of a payload join those of its circuit; bytes that make an operation are taken. A flit is acknowledged as it comes, but for the last of
an operation, which waits for its target. -/
def State.takePayload (s : State) (n : Nat) (f : Flit) : State :=
  let got := SMap.get [] (s.port n).received f.circuit.toNat ++ flitBytes f
  let h := headOf got
  let whole := decide (8 + 32 * h.count ≤ got.length)
  let s1 := s.onPort n (fun p => { p with
    nextRecv := p.nextRecv + 1, crcFails := SMap.set 0 p.crcFails f.seq.toNat 0
    received := SMap.set [] p.received f.circuit.toNat (if whole then [] else got) })
  if whole then s1.farArrives n f.circuit f.seq h (entriesOf h.count (wordsOf ((got.drop 8).take (32 * h.count)))) else s1.ackFlit n f.seq

/-- A data flit is one that has been taken before: its SEQ is among the 128 before the one awaited. -/
def Port.taken (p : Port) (f : Flit) : Bool := decide (128 ≤ (f.seq - BitVec.ofNat 8 p.nextRecv).toNat)
/-- It is the last flit of an operation that still waits for its target. -/
def State.flitWaits (s : State) (n : Nat) (f : Flit) : Bool := s.mod.farIn.any (fun o => o.link == n && o.flit == f.seq)

/-- A flit is received: one that fails its CRC is refused; of the data flits the one that is awaited is taken, one taken before is acknowledged again
where that was due, and any other is discarded. -/
def execDataFlit (die : DieNo) (link : BitVec 4) (f : Flit) (s : State) : Out :=
  onLink die link (fun n =>
    let p := s.port n
    if p.retired then .next s
    else if !p.up then .refused .notEnabled
    else if !flitGood f then .next (s.onPort n (fun p => { p with crcFails := bump p.crcFails f.seq, out := p.out ++ [controlFlit 3 f.seq] }))
    else if f.type ≠ 1 then .next s
    else if f.seq.toNat = p.nextRecv % 256 then .next (s.takePayload n f)
    else if p.taken f && !(s.flitWaits n f) then .next (s.ackFlit n f.seq)
    else .next s)

/-! ### At the target (R272, R274, R279, R280, R282) -/

/-- The circuit of an operation from a trunk. -/
def FarOp.circuit (o : FarOp) : Nat × Byte × BitVec 16 × Nat × Nat × Nat × Nat := (o.home, o.ctx, o.lid, o.lcore, o.port, o.core, o.rport)
/-- The operations from trunks that are first on their circuits. -/
def farHeads : List (Nat × Byte × BitVec 16 × Nat × Nat × Nat × Nat) → List FarOp → List FarOp
  | _, [] => []
  | seen, o :: r => if seen.contains o.circuit then farHeads seen r else o :: farHeads (o.circuit :: seen) r
/-- The order of entries that arrive in one tick over trunks: home port, logical core, port (R274). -/
def FarOp.before (a b : FarOp) : Bool :=
  decide (a.home < b.home) || (a.home == b.home && (decide (a.lcore < b.lcore) || (a.lcore == b.lcore && decide (a.port ≤ b.port))))
/-- An operation that writes scratchpad and has waited for less than 4 ticks yields to the cores (R179). -/
def FarOp.yields (o : FarOp) (tick : Nat) : Bool := (match o.op with | .send _ => false | _ => true) && decide (tick < o.due + 4)

/-- An operation leaves those that wait. -/
def State.dropFar (s : State) (id : Nat) : State := s.dropFars (fun o => o.id == id)
/-- An operation from a trunk reaches its logical core of the peer launch, the launch of this module with its context and id; it waits while that is
still to be placed, and is discarded where there is none, or its core has left or is deaf. -/
def State.landFar (s : State) (id : Nat) : State :=
  match s.mod.farIn.find? (fun o => o.id == id) with
  | none => s
  | some o =>
    match s.mod.launches.find? (fun l => l.pkt.ctx == o.ctx && l.pkt.lid == o.lid && !l.ended) with
    | none => s.dropFar id
    | some l =>
      match s.launchCore o.ctx o.lid o.core with
      | none => if l.place = [] then s else s.dropFar id
      | some j =>
        if (s.coreAt j).deaf then (s.dropFar id).onCoreAt j (fun c => { c with discarded := c.discarded + (o.entries - o.applied) })
        else
          match s.arrival j o.rport o.op o.applied otherLaunch 0 with
          | .waits => s
          | .part s1 n => s1.onMod (fun m => { m with farIn := m.farIn.map (fun x => if x.id = id then { x with applied := n } else x) })
          | .over s1 => s1.dropFar id

/-! ### The system barrier tree (R271, R289) -/

/-- The targets of port 15 of a launch on this module. -/
def State.sysTargets (s : State) (ctx : Byte) (lid : BitVec 16) : List W32 :=
  match s.launchCores ctx lid with | [] => [] | e :: _ => e.2.targets 15
/-- The trunks of the children of a tree, and its parent's. -/
def childTrunks (ws : List W32) : List Nat := (ws.filter (fun w => tgPort w == 0)).map tgTrunk
def parentTrunk (ws : List W32) : Option Nat := (ws.find? (fun w => tgPort w == 1)).map tgTrunk
/-- The port of a launch for a trunk has room for a report or a release. -/
def State.sysRoom (s : State) (l : Launch) (trunk : Nat) : Bool :=
  match SMap.get 0 l.trunks trunk with | 0 => false | n + 1 => (s.port n).takes 1
/-- A report (kind 7) or a release (kind 8) of an id goes out on a trunk. -/
def State.sysSend (s : State) (l : Launch) (kind id trunk : Nat) : State :=
  match SMap.get 0 l.trunks trunk with
  | 0 => s
  | n + 1 => s.onPort n (fun p => p.push (dataFlits ⟨kind, 0, if kind = 7 then 0 else 1, 0, id⟩ [] (Config.circuitNumber l.pkt.ctx l.pkt.lid 384 15 0 (if kind = 7 then 0 else 1)) p.nextSend))
/-- The launch of this module is done with a phase: one report of each child is used up, and what it sent and received for it. -/
def Launch.sysDone (l : Launch) (id : Nat) (children : List Nat) : Launch :=
  { l with
    sysIn := children.foldl (fun q t => q.erase (id, t)) l.sysIn
    sysSent := l.sysSent &&& ~~~(1#16 <<< id), sysGo := l.sysGo &&& ~~~(1#16 <<< id) }

/-- A step of a system phase on this module: its part is complete once its cores and its children have reported; it reports to its parent; and
released by it, or as the root, it completes the phase and releases its children. -/
def State.sysPhase (s : State) (l : Launch) (id : Nat) : Option State :=
  let ctx := l.pkt.ctx
  let lid := l.pkt.lid
  let ws := s.sysTargets ctx lid
  let kids := childTrunks ws
  let part := !ws.isEmpty && phaseReady s ctx lid .sys 0 id && kids.all (fun t => l.sysIn.contains (id, t))
  let done := fun (_ : Unit) =>
    if kids.all (s.sysRoom l) then
      some ((kids.foldl (fun (t : State) k => t.sysSend l 8 id k) (s.completeAt ctx lid .sys 0 id)).onLaunch ctx lid (fun x => x.sysDone id kids))
    else none
  match parentTrunk ws with
  | none => if part then done () else none
  | some t =>
    if l.sysGo.getLsbD id then done ()
    else if part && !(l.sysSent.getLsbD id) && s.sysRoom l t then
      some ((s.sysSend l 7 id t).onLaunch ctx lid (fun x => { x with sysSent := x.sysSent ||| 1#16 <<< id }))
    else none

/-- A phase completes at its participants (R288); one of system scope takes its next step in the tree (R289). -/
def execBarrierComplete (ctx : Byte) (lid : BitVec 16) (scope : Scope) (die : DieNo) (id : BitVec 4) (s : State) : Out :=
  match scope with
  | .sys =>
    match s.outstanding ctx lid with
    | none => .refused .notEnabled
    | some l => match s.sysPhase l id.toNat with | none => .refused .notEnabled | some s1 => .next s1
  | sc =>
    if !(phaseReady s ctx lid sc die.toNat id.toNat) then .refused .notEnabled
    else .next (s.completeAt ctx lid sc die.toNat id.toNat)

end Sys2Proof.Machine
end

