-- ==== Sys2Proof/Machine/Time.lean ====
section
/-! DEFINITION. Time: the rows that wait for it, the module tick, and the timing port with the servo of wall time (R322 to R335). The formulas of
the delay mechanisms are those of IEEE 1588 (log 17). -/

namespace Sys2Proof.Machine

/-! ### `BELAY`, `WAITT`, `TSTMP` (R331 to R334) -/

/-- `BELAY` is held: PTICK has not reached its target (R129). -/
def belayWaits (s : State) (a : Reg) : Bool := decide ((s.dieAt s.die).ptick < (s.core.rdS a).toNat)
def execBelay (_ : Reg) (s : State) : Out := .next s

/-- `WAITT` is held: wall time has not reached its target (R129). -/
def waittWaits (s : State) (a : Reg) : Bool := decide (s.wallNs s.die < (s.core.rdS a).toNat)
def execWaitt (_ : Reg) (s : State) : Out := .next s

def execTstmp (d : Reg) (s : State) : Out :=
  .next (s.onCore (fun c => (c.wrS d (BitVec.ofNat 64 (s.wallNs s.die))).wrS (d + 1) (BitVec.ofNat 64 (s.dieAt s.die).ptick)))

/-! ### Tick stamps and dies cut off (R322, R325) -/

/-- What a die estimates of the others from their stamps: within 4 ticks (log 7). -/
def State.stamps (s : State) (d : Nat) : List (Nat × Int) :=
  if (s.dieAt d).cutOff then []
  else ((List.range Config.dies).filter (fun e => e != d && !(s.dieAt e).cutOff)).map (fun e =>
    (e, ((s.dieAt e).tick : Int) - (s.dieAt d).tick + (Config.freeTicks .stamp (s.fresh + 16 * d + e) % 9 : Nat) - 4))

/-- What a die makes of the wall time of die 0 that comes with a stamp: it is within 0.1 ns (R328; log 7). -/
def State.wallOf (s : State) (d : Nat) : Nat :=
  ((s.mod.wallt : Int) + (Config.freeTicks .wall (s.fresh + d) % 858993459 : Nat) - 429496729).toNat
/-- A die takes a wall time: while the time is locked it does not go back, and one that is ahead holds for as long as it is (R328, R329; log 7). -/
def Die.takeWall (x : Die) (w : Nat) (rate : Int) (locked : Bool) : Die :=
  { x with wallt := if locked then max x.wallt w else w, wallOver := if locked then x.wallt - w else 0, wallRate := rate }
/-- What a die takes from the stamps of the others: estimates of their ticks, and wall time, where neither it nor die 0 is cut off. -/
def Die.stamped (x : Die) (s : State) (d : Nat) : Die :=
  let y := { x with estimates := s.stamps d }
  if d = 0 ∨ x.cutOff = true ∨ (s.dieAt 0).cutOff = true then y else y.takeWall (s.wallOf d) s.mod.ptp.rate s.mod.tslock
/-- Dies exchange tick stamps in the ticks with TICK mod 1,024 = 0, and die 0 sends wall time with its own. -/
def execTickStamp (s : State) : Out :=
  if (s.dieAt 0).tick % 1024 ≠ 0 then .refused .notEnabled
  else
    let s1 := (List.range Config.dies).foldl (fun t d => t.onDieAt d (fun x => x.stamped s d)) s
    .next { s1 with fresh := s1.fresh + 256 }

/-- The launches that run on both sides of a cut. -/
def Launch.cutBy (l : Launch) (s : State) (die : Nat) : Bool :=
  !l.ended && l.place.any (fun k => keyDie k == die) && l.place.any (fun k => keyDie k != die && !(s.dieAt (keyDie k)).cutOff)

/-- A die is cut off: the others leave it out, it goes by its own tick, and launches across the cut fault on it. -/
def execDieCutOff (die : DieNo) (s : State) : Out :=
  let d := die.toNat
  if (s.dieAt d).cutOff then .refused .notEnabled
  else
    let s1 := (List.range Config.dies).foldl (fun t e => t.onDieAt e (fun x =>
      if e = d then { x with cutOff := true, estimates := [] } else { x with estimates := x.estimates.filter (fun y => y.1 != d) })) s
    .next ((s.mod.launches.filter (fun l => l.cutBy s d)).foldl (fun t l =>
      (l.place.filter (fun k => keyDie k == d && (s.coreAt k).run.live)).foldl (fun t k => t.linkdown k 0xFF) t) s1)

/-! ### Wall time and its servo (R328, R329) -/

/-- Wall time is kept in units of 2^−32 ns; what a tick of die 0 adds at the nominal rate of 3.6 GHz. -/
def nominalRate : Nat := 1193046471
/-- 500 ppm of it. -/
def maxSlew : Int := 596523
/-- A time in ns. -/
def nsUnits (ns : Int) : Int := ns * 2 ^ 32
/-- A correction field, in units of 2^−16 ns. -/
def corrUnits (c : Int) : Int := c * 2 ^ 16

/-- Change the timing port. -/
def State.onPtp (s : State) (f : Ptp → Ptp) : State := s.onMod (fun m => { m with ptp := f m.ptp })
/-- The timestamp that the port takes in this tick: within 4 ns of wall time (R326; log 7). -/
def State.stampNow (s : State) : Int × State :=
  ((s.mod.wallt : Int) + nsUnits ((Config.freeTicks .timestamp s.fresh % 9 : Nat) - 4), { s with fresh := s.fresh + 1 })

/-- A rate within 500 ppm. -/
def clampRate (r : Int) : Int := if maxSlew < r then maxSlew else if r < -maxSlew then -maxSlew else r

/-- The servo takes a measured offset from the master: it slews one up to 1 µs, and prepares a step for a larger one; TSLOCK says whether the
filtered offset is within 25 ns. -/
def State.servo (s : State) (offset : Int) : State :=
  let f := Config.servoFilter s.mod.ptp.offset offset
  let big := decide (nsUnits 1000 < offset.natAbs)
  let locked := !big && decide (f.natAbs ≤ nsUnits 25)
  (s.onPtp (fun p => { p with
    offset := f, rate := if big then p.rate else clampRate (Config.servoRate p.rate f), stepDue := if big then some (-offset) else none
    st := .slave, holdover := false, ppsOut := p.ppsOut && locked })).onMod (fun m => { m with tslock := locked })

/-- A Sync is accepted with the difference of its receipt and its origin. -/
def State.syncAccepted (s : State) (diff : Int) : State :=
  (s.onPtp (fun p => { p with sync := none, syncDiff := diff, lastSync := (s.dieAt 0).tick })).servo (diff - s.mod.ptp.meanDelay)

/-- A message is from the selected master, in domain 0. -/
def State.fromMaster (s : State) (m : PtpMsg) : Bool := m.domain == 0 && s.mod.ptp.master == some m.source
/-- A time whose whole seconds fit WALLT. -/
def timeOk (m : PtpMsg) : Bool := decide (m.timestamp / 1000000000 * 1000000000 ≤ 2 ^ 64 - 1)
/-- A Sync comes at an interval that the port supports. -/
def syncRate (m : PtpMsg) : Bool := decide (-7 ≤ m.interval ∧ m.interval ≤ 1)
/-- The identity of the timing port (R326). -/
def ownPort : BitVec 80 := Config.moduleIdentity ++ (1 : BitVec 16)
/-- The port's Ethernet address: the low 48 bits of the module identity, locally administered and not a group's (R327). -/
def ptpEthernet : BitVec 48 := (Config.moduleIdentity.extractLsb' 0 48 ||| 1#48 <<< 41) &&& ~~~(1#48 <<< 40)
/-- Its IPv4 address: of 169.254.1.0 to 169.254.254.255, one that the port has chosen (R327, log 17). -/
def ptpIpv4 : BitVec 32 :=
  0xA9FE#16 ++ BitVec.ofNat 8 (1 + (Config.linkLocalHost.toNat / 256) % 254) ++ BitVec.ofNat 8 Config.linkLocalHost.toNat
/-- Its IPv6 address: link-local, with the interface identifier that the Ethernet address makes (R327, log 17). -/
def ptpIpv6 : BitVec 128 :=
  0xFE80000000000000#64 ++ (ptpEthernet.extractLsb' 24 24 ^^^ 0x020000#24) ++ 0xFFFE#16 ++ ptpEthernet.extractLsb' 0 24
/-- The port listens or follows a master. -/
def PtpState.on : PtpState → Bool
  | .listening | .uncalibrated | .slave => true
  | _ => false

/-- An Announce: the better master is selected. -/
def execAnnounce (m : PtpMsg) (s : State) : Out :=
  let p := s.mod.ptp
  if !p.st.on then .refused .notEnabled
  else if m.domain ≠ 0 then .next s
  else if p.master = some m.source then .next (s.onPtp (fun p => { p with dataset := m.dataset }))
  else if p.master.isNone || Config.betterDataset m.dataset p.dataset then
    .next (s.onPtp (fun p => { p with
      master := some m.source, dataset := m.dataset, st := .uncalibrated, sync := none, delay := none, transport := none
      p2p := if p.st = .slave then none else p.p2p, listenAt := if p.st = .slave then (s.dieAt 0).tick else p.listenAt }))
  else .next s

/-- A Sync: one-step, or to be completed by its Follow_Up. One that is not the master's, whose time does not fit, or of another rate is not
accepted. -/
def execSync (m : PtpMsg) (s : State) : Out :=
  if !s.mod.ptp.st.on then .refused .notEnabled
  else if !(s.fromMaster m) || !(timeOk m) || !(syncRate m) then .next s
  else
    let t := (s.onPtp (fun p => { p with transport := some m.transport })).stampNow
    .next (if m.twoStep then t.2.onPtp (fun p => { p with sync := some (m.seq, t.1, corrUnits m.correction) })
      else t.2.syncAccepted (t.1 - nsUnits m.timestamp - corrUnits m.correction))
def execFollowUp (m : PtpMsg) (s : State) : Out :=
  if !s.mod.ptp.st.on then .refused .notEnabled
  else
    match s.mod.ptp.sync with
    | none => .next s
    | some (seq, t2, corr) =>
      if !(s.fromMaster m) || !(timeOk m) || seq != m.seq then .next s
      else .next (s.syncAccepted (t2 - nsUnits m.timestamp - corr - corrUnits m.correction))

/-- The port sends a Delay_Req, at the master's interval and on the transport of its Sync. -/
def execDelayReq (s : State) : Out :=
  let p := s.mod.ptp
  let now := (s.dieAt 0).tick
  if !p.st.on ∨ p.p2p ≠ some false ∨ p.transport.isNone = true ∨ now < p.delayAt + p.delayEvery then .refused .notEnabled
  else
    let t := s.stampNow
    .next (t.2.onPtp (fun p => { p with
      delay := some (p.delaySeq, t.1), delaySeq := p.delaySeq + 1, delayAt := now, delayVia := p.transport }))
/-- An interval in ticks from its logarithm in seconds. -/
def intervalTicks (i : Int) : Nat := if 0 ≤ i then 3600000000 * 2 ^ i.toNat else 3600000000 / 2 ^ (-i).toNat
def execDelayResp (m : PtpMsg) (s : State) : Out :=
  match s.mod.ptp.delay with
  | none => .next s
  | some (seq, t3) =>
    if !(s.fromMaster m) || m.requester != ownPort || seq != m.seq then .next s
    else .next (s.onPtp (fun p => { p with
      delay := none, delayEvery := intervalTicks m.interval
      meanDelay := (p.syncDiff + (nsUnits m.timestamp - t3 - corrUnits m.correction)) / 2 }))

/-- The port sends a Pdelay_Req, once a second until E2E is chosen. -/
def execPdelayReq (s : State) : Out :=
  let p := s.mod.ptp
  let now := (s.dieAt 0).tick
  if !p.st.on ∨ p.p2p = some false ∨ (match p.pdelayAt with | none => false | some t => decide (now < t + 3600000000)) = true then
    .refused .notEnabled
  else
    let t := s.stampNow
    .next (t.2.onPtp (fun p => { p with pdelay := some (p.pdelaySeq, t.1), pdelaySeq := p.pdelaySeq + 1, pdelayAt := some now }))
/-- A Pdelay_Resp that answers the port's request selects P2P, unless E2E has been chosen, and gives the peer delay, at once or with its follow-up. -/
def execPdelayResp (m : PtpMsg) (s : State) : Out :=
  match s.mod.ptp.pdelay with
  | none => .next s
  | some (seq, t1) =>
    if m.domain != 0 || m.requester != ownPort || seq != m.seq || s.mod.ptp.p2p == some false then .next s
    else
      let t := s.stampNow
      let round := t.1 - t1 - corrUnits m.correction
      .next (t.2.onPtp (fun p => { p with
        p2p := some true, pdelay := none
        pdelayResp := if m.twoStep then some (seq, round + nsUnits m.timestamp) else none
        meanDelay := if m.twoStep then p.meanDelay else round / 2 }))
def execPdelayRespFollowUp (m : PtpMsg) (s : State) : Out :=
  match s.mod.ptp.pdelayResp with
  | none => .next s
  | some (seq, x) =>
    if m.domain != 0 || m.requester != ownPort || seq != m.seq then .next s
    else .next (s.onPtp (fun p => { p with pdelayResp := none, meanDelay := (x - nsUnits m.timestamp - corrUnits m.correction) / 2 }))

/-- Management and signalling messages are ignored. -/
def execManagement (_ : List Byte) (s : State) : Out := .next s

/-- No matching Pdelay_Resp has come within 3 s: the port uses E2E. -/
def execP2pTimeout (s : State) : Out :=
  let p := s.mod.ptp
  if !p.st.on ∨ p.p2p.isSome = true ∨ (s.dieAt 0).tick < p.listenAt + 10800000000 then .refused .notEnabled
  else .next (s.onPtp (fun p => { p with p2p := some false, pdelay := none }))

/-- Wall time follows a master's, or has followed one that another has taken the place of since. -/
def Ptp.follows (p : Ptp) (locked : Bool) : Bool :=
  decide (p.st = .slave) || locked || (decide (p.st = .uncalibrated) && !p.holdover && decide (0 < p.lastSync))
/-- No Sync has been accepted for 2 s: wall time runs on at its last rate, and no master is selected. -/
def execHoldover (s : State) : Out :=
  let p := s.mod.ptp
  if !(p.follows s.mod.tslock) ∨ (s.dieAt 0).tick < p.lastSync + 7200000000 then .refused .notEnabled
  else
    .next ((s.onPtp (fun p => { p with
      holdover := true, st := .listening, master := none, dataset := [], sync := none, delay := none, p2p := none, listenAt := (s.dieAt 0).tick
      stepDue := none, transport := none, ppsOut := false })).onMod (fun m => { m with tslock := false }))

/-- A step of wall time that is due is made in a tick of die 0 with TICK mod 1,024 = 0. -/
def execWalltStep (s : State) : Out :=
  match s.mod.ptp.stepDue with
  | none => .refused .notEnabled
  | some d =>
    if (s.dieAt 0).tick % 1024 ≠ 0 ∨ s.mod.tslock = true then .refused .notEnabled
    else .next ((s.onPtp (fun p => { p with stepDue := none })).onMod (fun m => { m with wallt := ((m.wallt : Int) + d).toNat }))

/-! ### PPS (R330) -/

/-- An edge of PPS in: in holdover, wall time slews so that its whole seconds meet the edges. -/
def execPpsIn (s : State) : Out :=
  let t : Int := s.mod.wallt
  let second := nsUnits 1000000000
  let off := (t + second / 2) % second - second / 2
  .next (s.onPtp (fun p => { p with ppsIn := t, rate := if p.holdover then clampRate (Config.servoRate p.rate off) else p.rate }))
/-- PPS out rises in the tick in which wall time crosses a whole second, while locked. -/
def execPpsOut (s : State) : Out :=
  if s.mod.ptp.crossed && s.mod.tslock then .next (s.onPtp (fun p => { p with crossed := false, ppsOut := true, ppsAt := (s.dieAt 0).tick }))
  else .refused .notEnabled
/-- PPS out falls 1 ms later. -/
def execPpsOutFall (s : State) : Out :=
  if s.mod.ptp.ppsOut && decide (s.mod.ptp.ppsAt + 3600000 ≤ (s.dieAt 0).tick) then .next (s.onPtp (fun p => { p with ppsOut := false }))
  else .refused .notEnabled

end Sys2Proof.Machine
end

