-- ==== Sys2Proof/Machine/Tick.lean ====
section
/-! DEFINITION. A tick of a die: the counts, the heat account, wall time, pass slots, circuits and released cores; the visit of every
segment, or the refresh of hot banks; and which ticks carry a logic edge (R198 to R200, R205, R225, R262, R318 to R323, R328, R373). -/

namespace Sys2Proof.Machine

/-! ### Parts of a tick -/

/-- What a tick does to a core apart from its rows: closes and refused opens come nearer, circuits accept entries, `TMMA` rows that have
been applied leave the unit, and a released core has been zeroed by its tick. -/
def Core.tickWork (c : Core) (tick : Nat) (hold : Bool) : Core :=
  let c1 : Core := ((c.passTick hold).acceptSends).settleTmma tick
  if c1.parts && decide (c1.partsDue ≤ tick) then { c1.blank with parts := false, partsDue := 0 } else c1

/-- The least of a die's tick and its estimates of the others (R322). -/
def Die.least (d : Die) (tick : Nat) : Nat := d.estimates.foldl (fun a e => min a (((tick : Int) + e.2).toNat)) tick

/-- The least tick of the dies that are not cut off: the module tick, as the dies can reckon it (R322). -/
def State.moduleTick (s : State) : Nat :=
  match ((List.range Config.dies).filter (fun d => !(s.dieAt d).cutOff)).map (fun d => (s.dieAt d).tick) with
  | [] => 0
  | t :: r => r.foldl min t
/-- PTICK rises in a tick: towards the least of the estimates, and always so that it stays within 4 of the module tick `m`, which rises by 0 or 1
in a round of ticks. A die that is cut off goes by its own tick (R322, R325). -/
def Die.rises (d : Die) (m : Nat) : Bool :=
  if d.cutOff then decide (d.ptick < d.tick + 1)
  else (decide (d.ptick < d.least (d.tick + 1)) && decide (d.ptick < m + 4)) || decide (d.ptick + 3 < m)

/-- What a tick adds to the wall time of a die other than die 0. -/
def Die.wallStep (d : Die) : Nat := ((nominalRate : Int) + d.wallRate).toNat
/-- The counts of a die: TICK, PTICK, the level of its island, the heat account, wall time (R262, R319 to R323, R328). -/
def Die.next (d : Die) (m : Nat) (hold : Bool) : Die :=
  let tick := d.tick + 1
  { d with
    tick := tick
    ptick := if d.rises m then d.ptick + 1 else d.ptick
    region := if hold then d.region else d.region.map (fun j => { j with closeIn := j.closeIn - 1 })
    wallt := d.wallt + (d.wallStep - d.wallOver)
    wallOver := d.wallOver - d.wallStep
    slipped := false, holdTick := hold, holdNext := false
    level := if tick % 16 = 0 then d.levelNext else d.level
    heat := min (d.heat + d.heatRate) (1024 * (d.heatCap.toNat : Int)) }

/-- What a tick of die 0 adds to wall time, and whether it crosses a whole second (R328, R330). -/
def Module.wallTick (m : Module) : Module :=
  let w := ((m.wallt : Int) + nominalRate + m.ptp.rate).toNat
  let second := 1000000000 * 2 ^ 32
  { m with wallt := w, ptp := { m.ptp with crossed := decide (m.wallt / second < w / second) } }

/-- The Igdin ports have trained, or have failed to (R283, R390). -/
def State.portsTrained (s : State) : Bool := (List.range 72).all (fun n => let p := s.port n; p.up || p.failed || p.retired)
/-- A start-up or a reset comes nearer to its end: firmware is through, and the ports have trained, or their time is over (R389, R390). -/
def State.bootTick (s : State) : State :=
  match s.mod.boot with
  | none => s
  | some n =>
    if n = 0 ∧ (s.portsTrained || decide (s.mod.bootLeft = 0) || !s.mod.firmwareGood) then s.bootDone
    else s.onMod (fun m => { m with boot := some (n - 1), bootLeft := m.bootLeft - 1 })

/-- Boluno firmware scrubs a released core that hardware has zeroed, the lowest first (R373). -/
def State.startScrub (s : State) (die : Nat) : State :=
  let d := s.dieAt die
  if d.scrub.busy || d.anchorFailed || !s.mod.ready || (s.coreAt (die * 32 + Config.anchorNo)).own then s
  else
    match (List.range Config.computeCores).find? (fun i =>
        let c := s.coreAt (die * 32 + i); !c.placed && !c.parts && decide (c.low.toNat < c.high.toNat)) with
    | none => s
    | some i =>
      let c := s.coreAt (die * 32 + i)
      s.onDieAt die (fun d => { d with scrub := ⟨true, BitVec.ofNat 5 i, c.low.toNat, c.high.toNat - c.low.toNat, 0, d.tick⟩ })

/-- What every tick of a die does, before its visits. -/
def State.startTick (s : State) (die : Nat) (hold : Bool) : State :=
  let m := s.moduleTick
  let s1 := s.onDieAt die (fun d => d.next m hold)
  let tick := (s1.dieAt die).tick
  let s2 := { s1 with cores := s1.cores.map (fun (e : Nat × Core) => if keyDie e.1 = die then (e.1, e.2.tickWork tick hold) else e) }
  let s3 := (s2.cores.filter (fun e => keyDie e.1 == die)).foldl (fun t e => (t.sendFar e.1).accumulate e.1) s2
  let s4 := s3.onMod (fun m => { m with ports := m.ports.map (fun p => if portDie p.1 = die then (p.1, p.2.laneTick) else p) })
  (if die = 0 then (s4.onMod Module.wallTick).bootTick else s4).startScrub die

/-! ### The visit and the hold tick (R198 to R200) -/

/-- A bank of the die is hot. -/
def State.anyHot (s : State) (die : Nat) : Bool := (segKeys die).any (fun k => decide ((s.segAt k).hot ≠ 0))

/-- A visit tick of a die: every segment visits a stitch; after each 64th visit in which a bank is hot, the next tick is a hold
tick. -/
def execSweepVisit (die : DieNo) (s : State) : Out :=
  let d := die.toNat
  if (s.dieAt d).holdNext then .refused .notEnabled
  else
    let s1 := s.startTick d false
    let s2 := s1.onDieAt d (fun x => { x with visits := x.visits + 1 })
    let s3 := (segKeys d).foldl State.visitSegment s2
    .next ((s3.regionTick d).onDieAt d (fun x => { x with holdNext := decide (x.visits % 64 = 0) && s2.anyHot d }))

/-- The refresh pointers of a segment's hot banks move on by 8 rows. -/
def Seg.refreshed (g : Seg) : Seg :=
  { g with refresh := (List.range 32).foldl (fun m b =>
      if g.hot.getLsbD b then SMap.set 0 m b ((SMap.get 0 m b + 8) % 2 ^ 18) else m) g.refresh }

/-- A hold tick of a die: hot banks refresh 8 rows, and nothing is visited. -/
def execHoldTick (die : DieNo) (s : State) : Out :=
  let d := die.toNat
  if !(s.dieAt d).holdNext then .refused .notEnabled
  else .next ((segKeys d).foldl (fun t k => t.setSegAt k (t.segAt k).refreshed) (s.startTick d true))

/-! ### Logic edges (R320) -/

/-- The tick carries no logic edge for the cores of the die. -/
def Die.swallowed (d : Die) : Bool :=
  match d.runLevel with
  | .full => false
  | .twelve => d.tick % 4 == 3
  | .eight => d.tick % 2 == 1

end Sys2Proof.Machine
end

