-- ==== Sys2Proof/Machine/Vector.lean ====
section
/-! DEFINITION. The V slot: elementwise integer and floating-point operations, compares, conversions, dot products and the
accumulator file (R158 to R164). -/

namespace Sys2Proof.Machine

/-! ### Shapes -/

/-- The write mask of an instruction: bit i of m, all ones for m0 (R151). -/
def State.maskBit (s : State) (m : Reg3) (i : Nat) : Bool := (s.core.rdM m).getLsbD i

/-- The places of a vector result: none in a register where it goes to a direction. -/
def State.destKeys (s : State) (d : Reg) (keys : List (List CellKey)) : List (List CellKey) := if s.isDir d then [] else keys

/-- An elementwise result in a vector (R152): latency F + `k`. -/
def vEach (s : State) (d : Reg) (reads : List Reg) (c : VCtl) (k : Nat) (f : Nat → W32 × Flags) : Out :=
  let n := foldN c.fold
  let beats := foldBeats c.fold
  let pick := s.maskBit c.m
  let s1 := s.vdst d n pick (fun i => (f i).1)
  let fl := orFlags pick (fun i => (f i).2) n
  vGuard s (d :: reads) (s.vEnd s1 reads (beats + k) fl (flight s s1 beats (beats + k) n (s.destKeys d (groupKeys .v (d.toNat * 64) beats)) []))

/-- An elementwise result of one source. -/
def vOne (s : State) (d a : Reg) (c : VCtl) (k : Nat) (f : W32 → W32 × Flags) : Out :=
  vEach s d [a] c k (fun i => f (s.vsrc a i))
/-- An elementwise result of two sources. -/
def vTwo (s : State) (d a b : Reg) (c : VCtl) (k : Nat) (f : W32 → W32 → W32 × Flags) : Out :=
  vEach s d [a, b] c k (fun i => f (s.vsrc a i) (s.vsrc b i))
/-- An elementwise result of two sources and the old destination. -/
def vAcc (s : State) (d a b : Reg) (c : VCtl) (k : Nat) (f : W32 → W32 → W32 → W32 × Flags) : Out :=
  vEach s d [a, b, d] c k (fun i => f (s.vsrc a i) (s.vsrc b i) (s.vsrc d i))
/-- A result without flags. -/
def plain (v : W32) : W32 × Flags := (v, 0)

/-- An elementwise result in an accumulator (R164). -/
def qEach (s : State) (d : Reg3) (reads : List Reg) (c : VCtl) (k : Nat) (f : Nat → Word × Flags) : Out :=
  let n := foldN c.fold
  let beats := foldBeats c.fold
  let pick := s.maskBit c.m
  let s1 := s.onCore (fun r => { r with regs := { r.regs with q := putElems 0 r.regs.q (d.toNat * 64) pick (fun i => (f i).1) n } })
  let fl := orFlags pick (fun i => (f i).2) n
  vGuard s reads (s.vEnd s1 reads (beats + k) fl (flight s s1 beats (beats + k) n (groupKeys .q (d.toNat * 64) beats) []))

/-- The bits below `n` of a word that `pick` allows, from `f`; the others as they were. -/
def putBits (old : Word) (pick f : Nat → Bool) : Nat → Word
  | 0 => old
  | n + 1 =>
    let w := putBits old pick f n
    if pick n then (if f n then w ||| (1#64 <<< n) else w &&& ~~~(1#64 <<< n)) else w

/-- Places of a mask written bit by bit: the mask after each beat. -/
def maskFly (before after : State) (d : Reg3) (beats lat n : Nat) (step : Nat → Word) : Option Fly :=
  (flight before after beats lat n [] []).map (fun f => if d = 0 then f else { f with
    old := (List.range beats).map (fun g => [RegCell.m d.toNat (step g)])
    new := (List.range beats).map (fun g => [RegCell.m d.toNat (step (g + 1))]) })

/-- Bits of a mask set from elements (R158, R160): latency F + `k`. -/
def mEach (s : State) (d : Reg3) (reads : List Reg) (c : VCtl) (k : Nat) (f : Nat → Bool × Flags) : Out :=
  let n := foldN c.fold
  let beats := foldBeats c.fold
  let pick := s.maskBit c.m
  let old := s.core.rdM d
  let step := fun g => putBits old pick (fun i => (f i).1) (8 * g)
  let s1 := s.onCore (fun r => r.wrM d (step beats))
  let fl := orFlags pick (fun i => (f i).2) n
  vGuard s reads (s.vEnd s1 reads (beats + k) fl (maskFly s s1 d beats (beats + k) n step))

/-- A compare of two sources. -/
def vCmp (s : State) (d : Reg3) (a b : Reg) (c : VCtl) (k : Nat) (f : W32 → W32 → Bool × Flags) : Out :=
  mEach s d [a, b] c k (fun i => f (s.vsrc a i) (s.vsrc b i))

/-! ### Integer arithmetic (R158) -/

/-- A value clamped to the range of int32, with SAT (R30, R31). -/
def satS (v : Int) : W32 × Flags :=
  if v < -(2 ^ 31 : Nat) then (0x80000000, fSAT)
  else if (2 ^ 31 : Nat) - 1 < v then (0x7FFFFFFF, fSAT)
  else (BitVec.ofInt 32 v, 0)
/-- A value clamped to the range of uint32, with SAT. -/
def satU (v : Int) : W32 × Flags :=
  if v < 0 then (0, fSAT) else if (2 ^ 32 : Nat) - 1 < v then (0xFFFFFFFF, fSAT) else (BitVec.ofInt 32 v, 0)
/-- Upper half of the signed product. -/
def mulh32 (a b : W32) : W32 := BitVec.ofInt 32 (a.toInt * b.toInt / (2 ^ 32 : Nat))
/-- Upper half of the unsigned product. -/
def mulhu32 (a b : W32) : W32 := BitVec.ofNat 32 (a.toNat * b.toNat / 2 ^ 32)
/-- Count of a 32-bit shift: bits 4 to 0. -/
def cnt32 (b : W32) : Nat := b.toNat % 32

def execVadd (d a b : Reg) (c : VCtl) (s : State) : Out := vTwo s d a b c 1 (fun x y => plain (x + y))
def execVadds (d a b : Reg) (c : VCtl) (s : State) : Out := vTwo s d a b c 1 (fun x y => satS (x.toInt + y.toInt))
def execVaddsu (d a b : Reg) (c : VCtl) (s : State) : Out := vTwo s d a b c 1 (fun x y => satU ((x.toNat : Int) + y.toNat))
def execVsub (d a b : Reg) (c : VCtl) (s : State) : Out := vTwo s d a b c 1 (fun x y => plain (x - y))
def execVsubs (d a b : Reg) (c : VCtl) (s : State) : Out := vTwo s d a b c 1 (fun x y => satS (x.toInt - y.toInt))
def execVsubsu (d a b : Reg) (c : VCtl) (s : State) : Out := vTwo s d a b c 1 (fun x y => satU ((x.toNat : Int) - y.toNat))
def execVmul (d a b : Reg) (c : VCtl) (s : State) : Out := vTwo s d a b c 3 (fun x y => plain (x * y))
def execVmulh (d a b : Reg) (c : VCtl) (s : State) : Out := vTwo s d a b c 3 (fun x y => plain (mulh32 x y))
def execVmulhu (d a b : Reg) (c : VCtl) (s : State) : Out := vTwo s d a b c 3 (fun x y => plain (mulhu32 x y))
def execVand (d a b : Reg) (c : VCtl) (s : State) : Out := vTwo s d a b c 1 (fun x y => plain (x &&& y))
def execVor (d a b : Reg) (c : VCtl) (s : State) : Out := vTwo s d a b c 1 (fun x y => plain (x ||| y))
def execVxor (d a b : Reg) (c : VCtl) (s : State) : Out := vTwo s d a b c 1 (fun x y => plain (x ^^^ y))
def execVandn (d a b : Reg) (c : VCtl) (s : State) : Out := vTwo s d a b c 1 (fun x y => plain (x &&& ~~~y))
def execVshl (d a b : Reg) (c : VCtl) (s : State) : Out := vTwo s d a b c 1 (fun x y => plain (x <<< cnt32 y))
def execVshr (d a b : Reg) (c : VCtl) (s : State) : Out := vTwo s d a b c 1 (fun x y => plain (x >>> cnt32 y))
def execVsra (d a b : Reg) (c : VCtl) (s : State) : Out := vTwo s d a b c 1 (fun x y => plain (x.sshiftRight (cnt32 y)))
def execVshli (d a b : Reg) (c : VCtl) (s : State) : Out := vOne s d a c 1 (fun x => plain (x <<< b.toNat))
def execVshri (d a b : Reg) (c : VCtl) (s : State) : Out := vOne s d a c 1 (fun x => plain (x >>> b.toNat))
def execVsrai (d a b : Reg) (c : VCtl) (s : State) : Out := vOne s d a c 1 (fun x => plain (x.sshiftRight b.toNat))
/-- Signed minimum. -/
def min32 (a b : W32) : W32 := if b.toInt < a.toInt then b else a
/-- Signed maximum. -/
def max32 (a b : W32) : W32 := if a.toInt < b.toInt then b else a
/-- Unsigned minimum. -/
def minu32 (a b : W32) : W32 := if b.toNat < a.toNat then b else a
/-- Unsigned maximum. -/
def maxu32 (a b : W32) : W32 := if a.toNat < b.toNat then b else a
def execVmin (d a b : Reg) (c : VCtl) (s : State) : Out := vTwo s d a b c 1 (fun x y => plain (min32 x y))
def execVmax (d a b : Reg) (c : VCtl) (s : State) : Out := vTwo s d a b c 1 (fun x y => plain (max32 x y))
def execVminu (d a b : Reg) (c : VCtl) (s : State) : Out := vTwo s d a b c 1 (fun x y => plain (minu32 x y))
def execVmaxu (d a b : Reg) (c : VCtl) (s : State) : Out := vTwo s d a b c 1 (fun x y => plain (maxu32 x y))

def execVcmpeq (d : Reg3) (a b : Reg) (c : VCtl) (s : State) : Out := vCmp s d a b c 1 (fun x y => (x == y, 0))
def execVcmpne (d : Reg3) (a b : Reg) (c : VCtl) (s : State) : Out := vCmp s d a b c 1 (fun x y => (x != y, 0))
def execVcmplt (d : Reg3) (a b : Reg) (c : VCtl) (s : State) : Out := vCmp s d a b c 1 (fun x y => (decide (x.toInt < y.toInt), 0))
def execVcmpltu (d : Reg3) (a b : Reg) (c : VCtl) (s : State) : Out := vCmp s d a b c 1 (fun x y => (decide (x.toNat < y.toNat), 0))
def execVcmple (d : Reg3) (a b : Reg) (c : VCtl) (s : State) : Out := vCmp s d a b c 1 (fun x y => (decide (x.toInt ≤ y.toInt), 0))
def execVcmpleu (d : Reg3) (a b : Reg) (c : VCtl) (s : State) : Out := vCmp s d a b c 1 (fun x y => (decide (x.toNat ≤ y.toNat), 0))

/-! ### Floating-point arithmetic (R159 to R162) -/

/-- A result of the floating-point core as a vector element. -/
def fpOut (r : Nat × Flags) : W32 × Flags := (BitVec.ofNat 32 r.1, r.2)
/-- With FTZ a subnormal reads as the zero of its sign, without a flag (R33, R160). -/
def flushIn (ftz : Bool) (a : Nat) : Nat :=
  if ftz && a / 2 ^ 23 % 256 == 0 then a / 2 ^ 31 % 2 * 2 ^ 31 else a

def execVfadd (d a b : Reg) (c : VCtl) (s : State) : Out :=
  vTwo s d a b c 4 (fun x y => fpOut (fpAdd f32 s.core.fpMode x.toNat y.toNat))
def execVfsub (d a b : Reg) (c : VCtl) (s : State) : Out :=
  vTwo s d a b c 4 (fun x y => fpOut (fpSub f32 s.core.fpMode x.toNat y.toNat))
def execVfmul (d a b : Reg) (c : VCtl) (s : State) : Out :=
  vTwo s d a b c 4 (fun x y => fpOut (fpMul f32 s.core.fpMode x.toNat y.toNat))
def execVfma (d a b : Reg) (c : VCtl) (s : State) : Out :=
  vAcc s d a b c 4 (fun x y z => fpOut (fpFma f32 s.core.fpMode false x.toNat y.toNat z.toNat))
def execVfnma (d a b : Reg) (c : VCtl) (s : State) : Out :=
  vAcc s d a b c 4 (fun x y z => fpOut (fpFma f32 s.core.fpMode true x.toNat y.toNat z.toNat))
/-- Minimum or maximum with FTZ on the operands (R160). -/
def minMax32 (md : FpMode) (mx : Bool) (x y : Nat) : Nat × Flags := fpMinMax f32 mx (flushIn md.ftz x) (flushIn md.ftz y)
def execVfmin (d a b : Reg) (c : VCtl) (s : State) : Out :=
  vTwo s d a b c 4 (fun x y => fpOut (minMax32 s.core.fpMode false x.toNat y.toNat))
def execVfmax (d a b : Reg) (c : VCtl) (s : State) : Out :=
  vTwo s d a b c 4 (fun x y => fpOut (minMax32 s.core.fpMode true x.toNat y.toNat))

/-- A floating-point compare: false on a NaN; NV for a signalling NaN, and for any NaN where `ordered` (R160). -/
def fpCmp (ordered : Bool) (f : Int → Int → Bool) (x y : W32) : Bool × Flags :=
  let a := x.toNat
  let b := y.toNat
  let nan := isNan f32 a || isNan f32 b
  (!nan && f (fpKey f32 a) (fpKey f32 b), if isSnan f32 a || isSnan f32 b || (ordered && nan) then fNV else 0)
def execVfcmpeq (d : Reg3) (a b : Reg) (c : VCtl) (s : State) : Out := vCmp s d a b c 4 (fpCmp false (fun x y => x == y))
def execVfcmplt (d : Reg3) (a b : Reg) (c : VCtl) (s : State) : Out := vCmp s d a b c 4 (fpCmp true (fun x y => decide (x < y)))
def execVfcmple (d : Reg3) (a b : Reg) (c : VCtl) (s : State) : Out := vCmp s d a b c 4 (fpCmp true (fun x y => decide (x ≤ y)))
/-- Whether either operand is a NaN. -/
def fpUnordered (x y : W32) : Bool × Flags :=
  (isNan f32 x.toNat || isNan f32 y.toNat, if isSnan f32 x.toNat || isSnan f32 y.toNat then fNV else 0)
def execVfcmpun (d : Reg3) (a b : Reg) (c : VCtl) (s : State) : Out := vCmp s d a b c 4 fpUnordered

/-- Sign cleared or inverted; a NaN gives the canonical NaN; no flags (R161). -/
def fpSign (f : W32 → W32) (x : W32) : W32 × Flags := if isNan f32 x.toNat then plain (BitVec.ofNat 32 f32.nan) else plain (f x)
def execVfabs (d a : Reg) (c : VCtl) (s : State) : Out := vOne s d a c 2 (fpSign (fun x => x &&& 0x7FFFFFFF#32))
def execVfneg (d a : Reg) (c : VCtl) (s : State) : Out := vOne s d a c 2 (fpSign (fun x => x ^^^ 0x80000000#32))
def execVfsqrt (d a : Reg) (c : VCtl) (s : State) : Out := vOne s d a c 8 (fun x => fpOut (fpSqrt f32 s.core.fpMode x.toNat))
def execVrcp (d a : Reg) (c : VCtl) (s : State) : Out := vOne s d a c 8 (fun x => fpOut (fpRcp s.core.fpMode.ftz x.toNat))
def execVrsq (d a : Reg) (c : VCtl) (s : State) : Out := vOne s d a c 8 (fun x => fpOut (fpRsq x.toNat))
def execVexp2 (d a : Reg) (c : VCtl) (s : State) : Out := vOne s d a c 8 (fun x => fpOut (fpExp2 s.core.fpMode.ftz x.toNat))
def execVlog2 (d a : Reg) (c : VCtl) (s : State) : Out := vOne s d a c 8 (fun x => fpOut (fpLog2 x.toNat))
def execVfloor (d a : Reg) (c : VCtl) (s : State) : Out :=
  vOne s d a c 2 (fun x => fpOut (fpIntegral .rdn s.core.fpMode.ftz false x.toNat))
def execVfceil (d a : Reg) (c : VCtl) (s : State) : Out :=
  vOne s d a c 2 (fun x => fpOut (fpIntegral .rup s.core.fpMode.ftz false x.toNat))
def execVfrint (d a : Reg) (c : VCtl) (s : State) : Out :=
  vOne s d a c 2 (fun x => fpOut (fpIntegral s.core.fpMode.rm s.core.fpMode.ftz true x.toNat))

def execVcvtfi (d a : Reg) (c : VCtl) (s : State) : Out := vOne s d a c 4 (fun x => fpToInt32 s.core.fpMode x.toNat)
def execVcvtfit (d a : Reg) (c : VCtl) (s : State) : Out :=
  vOne s d a c 4 (fun x => fpToInt32 ⟨.rtz, s.core.fpMode.ftz⟩ x.toNat)
def execVcvtif (d a : Reg) (c : VCtl) (s : State) : Out := vOne s d a c 4 (fun x => fpOut (fpOfInt s.core.fpMode x.toInt))
/-- Two FP32 values as a pair of BF16 (R162). -/
def toBf16Pair (md : FpMode) (x y : W32) : W32 × Flags :=
  let lo := fpConvert f32 bf16 md x.toNat
  let hi := fpConvert f32 bf16 md y.toNat
  (BitVec.ofNat 32 (lo.1 + hi.1 * 2 ^ 16), lo.2 ||| hi.2)
def execVcvtfb (d a b : Reg) (c : VCtl) (s : State) : Out := vTwo s d a b c 4 (toBf16Pair s.core.fpMode)
/-- A BF16 value widened: exact; FTZ reads a subnormal as zero, without a flag (R40, R162). -/
def ofBf16 (ftz : Bool) (h : Nat) : W32 × Flags := fpOut (fpConvert bf16 f32 ⟨.rne, ftz⟩ h)
def execVcvtbfl (d a : Reg) (c : VCtl) (s : State) : Out := vOne s d a c 4 (fun x => ofBf16 s.core.fpMode.ftz (x.toNat % 2 ^ 16))
def execVcvtbfh (d a : Reg) (c : VCtl) (s : State) : Out := vOne s d a c 4 (fun x => ofBf16 s.core.fpMode.ftz (x.toNat / 2 ^ 16))

/-! ### Dot products and the accumulator file (R163, R164, R49) -/

/-- Two BF16 products, low halves first, and the old value, with one rounding (R49). -/
def dot2 (md : FpMode) (x y z : W32) : W32 × Flags :=
  let lo := fun (v : W32) => unpack bf16 md.ftz (v.toNat % 2 ^ 16)
  let hi := fun (v : W32) => unpack bf16 md.ftz (v.toNat / 2 ^ 16)
  fpOut (roundV f32 md (sumV md.rm (mulV (lo x) (lo y)) [mulV (hi x) (hi y), unpack f32 md.ftz z.toNat]))
/-- Four byte products added to the old value, modulo 2^32; the first operand's bytes signed or not (R49). -/
def dot4 (signed : Bool) (x y z : W32) : W32 × Flags :=
  let term := fun (j : Nat) =>
    let p := natBits x.toNat (8 * j) 8
    let q := natBits y.toNat (8 * j) 8
    (if signed then signedNat 8 p else (p : Int)) * signedNat 8 q
  plain (BitVec.ofInt 32 (z.toInt + term 0 + term 1 + term 2 + term 3))
def execVdot2 (d a b : Reg) (c : VCtl) (s : State) : Out := vAcc s d a b c 5 (dot2 s.core.fpMode)
def execVdot4 (d a b : Reg) (c : VCtl) (s : State) : Out := vAcc s d a b c 5 (dot4 true)
def execVdot4us (d a b : Reg) (c : VCtl) (s : State) : Out := vAcc s d a b c 5 (dot4 false)

/-- An FP64 result. -/
def fpOut64 (r : Nat × Flags) : Word × Flags := (BitVec.ofNat 64 r.1, r.2)
/-- q + fp64(a) × fp64(b), rounded once to FP64, FTZ on the inputs and the result (R49). -/
def qma (md : FpMode) (q : Word) (x y : W32) : Word × Flags :=
  fpOut64 (roundV f64 md (addV md.rm (mulV (unpack f32 md.ftz x.toNat) (unpack f32 md.ftz y.toNat)) (unpack f64 md.ftz q.toNat)))
def execVqma (d : Reg3) (a b : Reg) (c : VCtl) (s : State) : Out :=
  qEach s d [a, b] c 5 (fun i => qma s.core.fpMode (s.core.rdQ d i) (s.vsrc a i) (s.vsrc b i))
def execVqmai (d : Reg3) (a b : Reg) (c : VCtl) (s : State) : Out :=
  qEach s d [a, b] c 5 (fun i => (s.core.rdQ d i + (s.vsrc a i).signExtend 64 * (s.vsrc b i).signExtend 64, 0))
def execVqnarf (d : Reg) (a : Reg3) (c : VCtl) (s : State) : Out :=
  vEach s d [] c 4 (fun i => fpOut (fpConvert f64 f32 s.core.fpMode (s.core.rdQ a i).toNat))
def execVqnars (d : Reg) (a : Reg3) (c : VCtl) (s : State) : Out := vEach s d [] c 2 (fun i => satS (s.core.rdQ a i).toInt)
def execVqnarw (d : Reg) (a : Reg3) (c : VCtl) (s : State) : Out :=
  vEach s d [] c 2 (fun i => plain ((s.core.rdQ a i).setWidth 32))
def execVqclr (d : Reg3) (c : VCtl) (s : State) : Out := qEach s d [] c 1 (fun _ => (0, 0))
def execVqwf (d : Reg3) (a : Reg) (c : VCtl) (s : State) : Out :=
  qEach s d [a] c 1 (fun i => fpOut64 (fpConvert f32 f64 rneMode (s.vsrc a i).toNat))
def execVqwi (d : Reg3) (a : Reg) (c : VCtl) (s : State) : Out := qEach s d [a] c 1 (fun i => ((s.vsrc a i).signExtend 64, 0))

end Sys2Proof.Machine
end

