-- ==== Sys2Proof/Machine/VectorMem.lean ====
section
/-! DEFINITION. The V slot: loads, stores, gathers and scatters (R153, R169, R170). -/

namespace Sys2Proof.Machine

/-- Load the unmasked elements from `i` on, of `fuel` elements, in order: the loaded values, the first element that is not
accessed, and the state (R169). -/
def loadElems (z : Nat) (pick : Nat → Bool) (addr : Nat → Word) : Nat → Nat → State → List (Nat × Nat) × Nat × State
  | 0, i, s => ([], i, s)
  | fuel + 1, i, s =>
    if pick i then
      match spRead s 1 i (addr i).toNat z z with
      | .stop s1 => ([], i, s1)
      | .ok s1 v => let r := loadElems z pick addr fuel (i + 1) s1; ((i, v) :: r.1, r.2)
    else loadElems z pick addr fuel (i + 1) s

/-- Store the unmasked elements from `i` on, in order: for each its bytes before and after, the first element that is not
accessed, and the state. -/
def storeElems (z : Nat) (pick : Nat → Bool) (addr : Nat → Word) (val : Nat → W32) :
    Nat → Nat → State → List (Nat × List (Nat × Byte × Byte)) × Nat × State
  | 0, i, s => ([], i, s)
  | fuel + 1, i, s =>
    if pick i then
      let x := (addr i).toNat
      let bs := leBytes z (val i).toNat
      match spWrite s 1 i x z bs with
      | .stop s1 => ([], i, s1)
      | .ok s1 _ =>
        let r := storeElems z pick addr val fuel (i + 1) s1
        ((i, (List.range z).map (fun j => (x + j, Memory.byte s.core.scratch (x + j), bs.getD j 0))) :: r.1, r.2)
    else storeElems z pick addr val fuel (i + 1) s

/-- The value loaded for an element. -/
def loadedAt (l : List (Nat × Nat)) (i : Nat) : Option Nat := (l.find? (fun e => e.1 == i)).map (fun e => e.2)
/-- The entries of a list of elements, by group of eight. -/
def byGroup {α β : Type} (beats : Nat) (l : List (Nat × α)) (f : Nat × α → List β) : List (List β) :=
  (List.range beats).map (fun g => (l.filter (fun e => e.1 / 8 == g)).flatMap f)

/-- A vector load: the elements below the first that faults are written (R157, R169). Towards the core's own accesses it is one access, towards
remote writes each group is one of its own (R153). -/
def vLoad (s : State) (d : Reg) (reads : List Reg) (c : VCtl) (busy lat z : Nat) (signed : Bool) (addr : Nat → Word) : Out :=
  let n := foldN c.fold
  let r := loadElems z (s.maskBit c.m) addr n 0 s
  let s0 := r.2.2.touchAll .load 1 (r.1.map (fun e => ((addr e.1).toNat, z)))
  if s.isDir d && decide (r.2.1 < n) then vGuard s (d :: reads) (s.vEnd s0 reads lat 0 none)
  else
    let s1 := s0.vdst d n (fun i => (loadedAt r.1 i).isSome) (fun i => extend32 z signed ((loadedAt r.1 i).getD 0))
    let goes := fun (i : Nat) => if s.isDir d then LoadTo.mesh (dirOf d) i signed else LoadTo.v (d.toNat * 64 + i) signed
    let parts := byGroup (foldBeats c.fold) r.1 (fun e => [({ addr := (addr e.1).toNat, bytes := leBytes z e.2, dest := goes e.1 } : LoadPart)])
    let fly := if r.2.1 < n then none
      else (flight s s1 busy lat n (s.destKeys d (groupKeys .v (d.toNat * 64) (foldBeats c.fold))) []).map (fun f => { f with loads := parts })
    vGuard s (d :: reads) (s.vEnd s1 reads lat 0 fly)

/-- A vector store. -/
def vStore (s : State) (d : Reg) (reads : List Reg) (c : VCtl) (busy z : Nat) (addr : Nat → Word) : Out :=
  let n := foldN c.fold
  let r := storeElems z (s.maskBit c.m) addr (s.vsrc d) n 0 s
  let s1 := r.2.2.touchAll .store 1 (r.1.map (fun e => ((addr e.1).toNat, z)))
  let fly := if r.2.1 < n then none else flight s s1 busy 0 n [] (byGroup (foldBeats c.fold) r.1 (fun e => e.2))
  vGuard s (d :: reads) (s.vEnd s1 (d :: reads) 0 0 fly)

/-- Address of element i of a strided access: base + i × stride, or × the element size where the stride is 0 (R169). -/
def strided (s : State) (a b : Reg) (z : Nat) (i : Nat) : Word :=
  let st := s.core.rdS b
  s.core.rdS a + BitVec.ofNat 64 i * (if st = 0 then BitVec.ofNat 64 z else st)
/-- Address of element i of an indexed access: base + 4 × index (R170). -/
def indexed (s : State) (a b : Reg) (i : Nat) : Word := s.core.rdS a + 4 * (s.vsrc b i).setWidth 64

/-- A strided load. -/
def vld (s : State) (d a b : Reg) (c : VCtl) (z : Nat) (signed : Bool) : Out :=
  vLoad s d [] c (foldBeats c.fold) (foldBeats c.fold + 4) z signed (strided s a b z)
/-- A strided store. -/
def vst (s : State) (d a b : Reg) (c : VCtl) (z : Nat) : Out := vStore s d [] c (foldBeats c.fold) z (strided s a b z)

def execVldW (d a b : Reg) (c : VCtl) (s : State) : Out := vld s d a b c 4 false
def execVldH (d a b : Reg) (c : VCtl) (s : State) : Out := vld s d a b c 2 true
def execVldHu (d a b : Reg) (c : VCtl) (s : State) : Out := vld s d a b c 2 false
def execVldB (d a b : Reg) (c : VCtl) (s : State) : Out := vld s d a b c 1 true
def execVldBu (d a b : Reg) (c : VCtl) (s : State) : Out := vld s d a b c 1 false
def execVstW (d a b : Reg) (c : VCtl) (s : State) : Out := vst s d a b c 4
def execVstH (d a b : Reg) (c : VCtl) (s : State) : Out := vst s d a b c 2
def execVstB (d a b : Reg) (c : VCtl) (s : State) : Out := vst s d a b c 1
def execVgath (d a b : Reg) (c : VCtl) (s : State) : Out :=
  vLoad s d [b] c (2 * foldBeats c.fold) (2 * foldBeats c.fold + 4) 4 false (indexed s a b)
def execVscat (d a b : Reg) (c : VCtl) (s : State) : Out := vStore s d [b] c (2 * foldBeats c.fold) 4 (indexed s a b)

end Sys2Proof.Machine
end

