-- ==== Sys2Proof/Machine/VectorMove.lean ====
section
/-! DEFINITION. The V slot: reductions, element moves, permutations, masks, sorting, segments, random streams, the BFP and T5 storage
formats (R165 to R168, R171 to R175). -/

namespace Sys2Proof.Machine

/-! ### Shapes -/

/-- The elements of a vector source below the fold's n. -/
def State.vlist (s : State) (a : Reg) (fold : BitVec 2) : List W32 := (List.range (foldN fold)).map (s.vsrc a)

/-- A vector result written in the final step (R157): the elements below `m` are written. -/
def vFinal (s : State) (d : Reg) (reads : List Reg) (busy lat m : Nat) (pick : Nat → Bool) (f : Nat → W32)
    (fl : Flags) : Out :=
  let s1 := s.vdst d m pick f
  let keys := s.destKeys d (finalKeys busy ((List.range m).map (fun i => CellKey.v (d.toNat * 64 + i))))
  vGuard s (d :: reads) (s.vEnd s1 reads lat fl (flight s s1 busy lat 0 keys []))

/-- A scalar result written in the final step; that of `MGET`, `MFIRST` and `MPOP` too, DESIGN CHOICE (log 50), with ELEM 0. -/
def sFinal (s : State) (d : Reg) (reads : List Reg) (busy lat : Nat) (v : Word) (fl : Flags) : Out :=
  let s1 := s.setS d v
  vGuard s reads (s.vEnd s1 reads lat fl (flight s s1 busy lat 0 (finalKeys busy (if d = 0 then [] else [.s d.toNat])) []))

/-- A mask result; that of `MSET` too, DESIGN CHOICE (log 50), in the final step with ELEM 0. -/
def mFinal (s : State) (d : Reg3) (reads : List Reg) (busy lat : Nat) (v : Word) : Out :=
  let s1 := s.onCore (fun c => c.wrM d v)
  vGuard s reads (s.vEnd s1 reads lat 0 (flight s s1 busy lat 0 (finalKeys busy (if d = 0 then [] else [.m d.toNat])) []))

/-! ### Reductions (R165) -/

/-- A reduction of the elements of a vector to a scalar. -/
def reduce (s : State) (d a : Reg) (fold : BitVec 2) (f : List W32 → Word × Flags) : Out :=
  let r := f (s.vlist a fold)
  sFinal s d [a] (foldBeats fold) (foldBeats fold + 8) r.1 r.2

/-- The sum modulo 2^32. -/
def sum32 (xs : List W32) : W32 := xs.foldl (fun a x => a + x) 0
/-- A fold of a list over its first element. -/
def fold1 (f : W32 → W32 → W32) : List W32 → W32
  | [] => 0
  | x :: xs => xs.foldl f x
/-- FP minimum or maximum over a list, with the flags (R165). -/
def fpMinMaxAll (md : FpMode) (mx : Bool) (xs : List W32) : Nat × Flags :=
  match xs with
  | [] => (0, 0)
  | x :: xs => xs.foldl (fun r y => let p := minMax32 md mx r.1 y.toNat; (p.1, r.2 ||| p.2)) (flushIn md.ftz x.toNat, 0)

def execVredadd (d a : Reg) (fold : BitVec 2) (s : State) : Out := reduce s d a fold (fun xs => ((sum32 xs).signExtend 64, 0))
def execVredfadd (d a : Reg) (fold : BitVec 2) (s : State) : Out :=
  reduce s d a fold (fun xs => fpOut64 (fixedTree f32 s.core.fpMode (xs.map (fun x => x.toNat))))
def execVredmin (d a : Reg) (fold : BitVec 2) (s : State) : Out := reduce s d a fold (fun xs => ((fold1 min32 xs).signExtend 64, 0))
def execVredmax (d a : Reg) (fold : BitVec 2) (s : State) : Out := reduce s d a fold (fun xs => ((fold1 max32 xs).signExtend 64, 0))
def execVredfmin (d a : Reg) (fold : BitVec 2) (s : State) : Out := reduce s d a fold (fun xs => fpOut64 (fpMinMaxAll s.core.fpMode false xs))
def execVredfmax (d a : Reg) (fold : BitVec 2) (s : State) : Out := reduce s d a fold (fun xs => fpOut64 (fpMinMaxAll s.core.fpMode true xs))

/-! ### Moves and permutations (R166, R167) -/

def execVbcst (d a : Reg) (c : VCtl) (s : State) : Out := vEach s d [] c 1 (fun _ => plain ((s.core.rdS a).setWidth 32))
def execVextr (d a : Reg) (elem : BitVec 6) (s : State) : Out := sFinal s d [a] 1 3 ((s.vsrc a elem.toNat).signExtend 64) 0
def execVins (d a : Reg) (elem : BitVec 6) (s : State) : Out :=
  let v := (s.core.rdS a).setWidth 32
  if s.isDir d then
    vFinal s d [d] 1 3 64 (fun _ => true) (fun i => if i = elem.toNat then v else s.vsrc d i) 0
  else vFinal s d [] 1 3 64 (fun i => i == elem.toNat) (fun _ => v) 0
def execViota (d : Reg) (c : VCtl) (s : State) : Out := vEach s d [] c 1 (fun i => plain (BitVec.ofNat 32 i))
def execVsel (d a b : Reg) (fold : BitVec 2) (k : Reg3) (s : State) : Out :=
  vEach s d [a, b] ⟨fold, 0⟩ 1 (fun i => plain (if s.maskBit k i then s.vsrc a i else s.vsrc b i))

def execVperm (d a b : Reg) (c : VCtl) (s : State) : Out :=
  let n := foldN c.fold
  vFinal s d [a, b] (foldBeats c.fold) (foldBeats c.fold + 2) n (s.maskBit c.m)
    (fun i => let j := (s.vsrc b i).toNat; if j < n then s.vsrc a j else 0) 0
def execVslup (d a b : Reg) (c : VCtl) (s : State) : Out :=
  let k := (s.core.rdS b).toNat
  vFinal s d [a] (foldBeats c.fold) (foldBeats c.fold + 2) (foldN c.fold) (s.maskBit c.m)
    (fun i => if k ≤ i then s.vsrc a (i - k) else 0) 0
def execVsldn (d a b : Reg) (c : VCtl) (s : State) : Out :=
  let k := (s.core.rdS b).toNat
  let n := foldN c.fold
  vFinal s d [a] (foldBeats c.fold) (foldBeats c.fold + 2) n (s.maskBit c.m)
    (fun i => if i + k < n then s.vsrc a (i + k) else 0) 0
/-- The elements that a mask keeps, packed upward (R167). -/
def packed (s : State) (a : Reg) (k : Reg3) (n : Nat) : List W32 := ((List.range n).filter (s.maskBit k)).map (s.vsrc a)
def execVcmpr (d a : Reg) (fold : BitVec 2) (k : Reg3) (s : State) : Out :=
  let n := foldN fold
  let xs := packed s a k n
  vFinal s d [a] (foldBeats fold) (foldBeats fold + 2) n (fun _ => true) (fun i => xs.getD i 0) 0

/-! ### Masks (R168) -/

/-- Bits 0 to n − 1 of a mask from a function of two masks; the others are unchanged. -/
def maskOp (s : State) (d a b : Reg3) (fold : BitVec 2) (f : Bool → Bool → Bool) : Out :=
  mEach s d [] ⟨fold, 0⟩ 1 (fun i => (f (s.maskBit a i) (s.maskBit b i), 0))
def execMand (d a b : Reg3) (fold : BitVec 2) (s : State) : Out := maskOp s d a b fold (fun x y => x && y)
def execMor (d a b : Reg3) (fold : BitVec 2) (s : State) : Out := maskOp s d a b fold (fun x y => x || y)
def execMxor (d a b : Reg3) (fold : BitVec 2) (s : State) : Out := maskOp s d a b fold (fun x y => x != y)
def execMnot (d a : Reg3) (fold : BitVec 2) (s : State) : Out := maskOp s d a a fold (fun x _ => !x)
def execMpop (d : Reg) (a : Reg3) (fold : BitVec 2) (s : State) : Out :=
  sFinal s d [] (foldBeats fold) (foldBeats fold + 1) (BitVec.ofNat 64 (onesBelow (s.core.rdM a).toNat (foldN fold))) 0
def execMfirst (d : Reg) (a : Reg3) (fold : BitVec 2) (s : State) : Out :=
  sFinal s d [] (foldBeats fold) (foldBeats fold + 1) (BitVec.ofNat 64 (ctzFrom (s.core.rdM a).toNat 0 (foldN fold))) 0
def execMset (d : Reg3) (a : Reg) (fold : BitVec 2) (s : State) : Out :=
  mFinal s d [] (foldBeats fold) (foldBeats fold + 1) (s.core.rdS a)
def execMget (d : Reg) (a : Reg3) (fold : BitVec 2) (s : State) : Out :=
  sFinal s d [] (foldBeats fold) (foldBeats fold + 1) (s.core.rdM a) 0

/-! ### Sorting and segments (R171, R172) -/

/-- Insert before the first entry whose key is not smaller. -/
def insertKey (x : Nat × Nat × W32) : List (Nat × Nat × W32) → List (Nat × Nat × W32)
  | [] => [x]
  | y :: ys => if x.1 ≤ y.1 then x :: y :: ys else y :: insertKey x ys
/-- A stable sort by key. -/
def sortKeys (xs : List (Nat × Nat × W32)) : List (Nat × Nat × W32) := xs.foldr insertKey []

/-- Order of int32, as an unsigned key. -/
def keyS (x : W32) : Nat := (x ^^^ 0x80000000#32).toNat
/-- FP32 total order, as an unsigned key (R171). -/
def keyF (x : W32) : Nat := if x.getLsbD 31 then (~~~x).toNat else (x ^^^ 0x80000000#32).toNat

/-- A sort: keys to d, source indices to d + 1, in 24 beats at every fold (R171). -/
def sortV (s : State) (d a : Reg) (fold : BitVec 2) (key : W32 → Nat) : Out :=
  let n := foldN fold
  let r := sortKeys ((List.range n).map (fun i => (key (s.vsrc a i), i, s.vsrc a i)))
  let e := fun i => r.getD i (0, 0, 0)
  let s1 := (s.vdst d n (fun _ => true) (fun i => (e i).2.2)).vdst (d + 1) n (fun _ => true) (fun i => BitVec.ofNat 32 (e i).2.1)
  let keys := finalKeys 24 (([d, d + 1].filter (fun r => !s.isDir r)).flatMap (fun r => (List.range n).map (fun i => CellKey.v (r.toNat * 64 + i))))
  vGuard s [d, d + 1, a] (s.vEnd s1 [a] 24 0 (flight s s1 24 24 0 keys []))

def execVsortS (d a : Reg) (fold : BitVec 2) (s : State) : Out := sortV s d a fold keyS
def execVsortF (d a : Reg) (fold : BitVec 2) (s : State) : Out := sortV s d a fold keyF
def execVsortU (d a : Reg) (fold : BitVec 2) (s : State) : Out := sortV s d a fold (fun x => x.toNat)

def execVruns (d : Reg3) (a : Reg) (fold : BitVec 2) (s : State) : Out :=
  let v := putBits (s.core.rdM d) (fun _ => true) (fun i => i == 0 || s.vsrc a i != s.vsrc a (i - 1)) (foldN fold)
  mFinal s d [a] (foldBeats fold) (foldBeats fold + 2) v

/-- The elements of the segment that starts at `i`, as far as `fuel` goes: up to the element before the next start (R172). -/
def segment (s : State) (a : Reg) (k : Reg3) : Nat → Nat → List W32
  | _, 0 => []
  | i, fuel + 1 => s.vsrc a i :: (if s.maskBit k (i + 1) then [] else segment s a k (i + 1) fuel)
/-- Segmented sums: a start receives the sum of its segment, every other element 0. -/
def segSum (s : State) (d a : Reg) (fold : BitVec 2) (k : Reg3) (f : List W32 → W32 × Flags) : Out :=
  let n := foldN fold
  let start := fun i => i == 0 || s.maskBit k i
  let r := fun i => if start i then f (segment s a k i (n - i)) else (0, 0)
  vFinal s d [a] (foldBeats fold) (foldBeats fold + 8) n (fun _ => true) (fun i => (r i).1) (orFlags (fun _ => true) (fun i => (r i).2) n)
def execVsegadd (d a : Reg) (fold : BitVec 2) (k : Reg3) (s : State) : Out := segSum s d a fold k (fun xs => plain (sum32 xs))
def execVsegfadd (d a : Reg) (fold : BitVec 2) (k : Reg3) (s : State) : Out :=
  segSum s d a fold k (fun xs => fpOut (fixedTree f32 s.core.fpMode (xs.map (fun x => x.toNat))))

/-! ### Random streams (R173) -/

/-- Word i of a core's vector stream. -/
def Core.vrng (c : Core) (i : Nat) : W32 :=
  (mix64 (mix64 (c.rngkey1 ^^^ (BitVec.ofNat 64 c.lcore <<< (40 : Nat)) ^^^ 0x5652#64) + c.rngkey0 +
    (c.vctr * 64 + BitVec.ofNat 64 i) * goldenGamma)).setWidth 32
def execVrng (d : Reg) (c : VCtl) (s : State) : Out :=
  match vEach s d [] c 3 (fun i => plain (s.core.vrng i)) with
  | .next t => if s.badDir [d] then .next t else .next (t.onCore (fun r => { r with vctr := r.vctr + 1 }))
  | o => o

/-! ### BFP (R174) -/

/-- A mantissa as a byte, sign-extended to 8 bits. -/
def mantByte (m : Int) : Nat := (m % 256).toNat
/-- Element k of the burst that `VBFPQ` writes: the header, then mantissa bytes four to an element. -/
def burstElem (w n e : Nat) (ms : List Int) (k : Nat) : W32 :=
  if k = 0 then bfpHeaderWord e n (w - 2) true
  else
    let b := fun j => mantByte (ms.getD (4 * (k - 1) + j) 0)
    BitVec.ofNat 32 (b 0 + b 1 * 2 ^ 8 + b 2 * 2 ^ 16 + b 3 * 2 ^ 24)
def execVbfpq (d a : Reg) (fold : BitVec 2) (w : Reg3) (s : State) : Out :=
  let n := foldN fold
  let r := bfpQuant (w.toNat + 2) ((s.vlist a fold).map (fun x => x.toNat))
  vFinal s d [a] (foldBeats fold) (foldBeats fold + 4) (n / 4 + 1) (fun _ => true) (burstElem (w.toNat + 2) n r.1 r.2.1) r.2.2

/-- Element i of the expansion of a burst in a vector (R174). -/
def expandElem (s : State) (a : Reg) (n : Nat) (h : BfpHeader) (i : Nat) : W32 × Flags :=
  if i < h.length then
    let k := 1 + i / 4
    let b : Byte := if k < n then BitVec.ofNat 8 (natBits (s.vsrc a k).toNat (8 * (i % 4)) 8) else 0
    fpOut (bfpElement s.core.fpMode.ftz h.e (bfpMantissa h.wm2 b))
  else (0, 0)
def execVbfpx (d a : Reg) (fold : BitVec 2) (s : State) : Out :=
  let n := foldN fold
  let h := bfpHeader (s.vsrc a 0)
  let r := expandElem s a n h
  vFinal s d [a] (foldBeats fold) (foldBeats fold + 4) n (fun _ => true) (fun i => (r i).1)
    (orFlags (fun _ => true) (fun i => (r i).2) n ||| (if h.bad then fBFPHDR else 0))

/-! ### T5 (R175) -/

/-- A trit clamped to −1, 0, +1, with TCLAMP. -/
def clampTrit (x : W32) : Int × Flags := if x.toInt < -1 then (-1, fTCLAMP) else if 1 < x.toInt then (1, fTCLAMP) else (x.toInt, 0)
/-- Byte j of a pack: from element j of five vectors. -/
def packByte (s : State) (a : Reg) (j : Nat) : Nat × Flags :=
  let t := fun k => clampTrit (s.vsrc (a + BitVec.ofNat 5 k) j)
  (t5Encode [(t 0).1, (t 1).1, (t 2).1, (t 3).1, (t 4).1], (t 0).2 ||| (t 1).2 ||| (t 2).2 ||| (t 3).2 ||| (t 4).2)
/-- The five registers from one on. -/
def fiveRegs (r : Reg) : List Reg := (List.range 5).map (fun k => r + BitVec.ofNat 5 k)
def execVt5pk (d a : Reg) (fold : BitVec 2) (s : State) : Out :=
  let n := foldN fold
  let p := fun j => (packByte s a j).1
  vFinal s d (fiveRegs a) 10 10 (n / 4) (fun _ => true)
    (fun i => BitVec.ofNat 32 (p (4 * i) + p (4 * i + 1) * 2 ^ 8 + p (4 * i + 2) * 2 ^ 16 + p (4 * i + 3) * 2 ^ 24))
    (orFlags (fun _ => true) (fun j => (packByte s a j).2) n)

/-- Trit k of byte j of a vector, and whether its code is legal (R46). -/
def unpackTrit (s : State) (a : Reg) (j k : Nat) : W32 :=
  match t5Decode (BitVec.ofNat 8 (natBits (s.vsrc a (j / 4)).toNat (8 * (j % 4)) 8)) with
  | none => 0
  | some ts => BitVec.ofInt 32 (ts.getD k 0)
/-- TILL where the code of byte j is illegal. -/
def tillFlag (s : State) (a : Reg) (j : Nat) : Flags :=
  if 242 < natBits (s.vsrc a (j / 4)).toNat (8 * (j % 4)) 8 then fTILL else 0
/-- Write the five vectors of an unpack. -/
def unpackAll (s : State) (a d : Reg) (n : Nat) : Nat → State → State
  | 0, t => t
  | k + 1, t => (unpackAll s a d n k t).vdst (d + BitVec.ofNat 5 k) n (fun _ => true) (fun j => unpackTrit s a j k)
def execVt5up (d a : Reg) (fold : BitVec 2) (s : State) : Out :=
  let n := foldN fold
  let s1 := unpackAll s a d n 5 s
  let keys := finalKeys 10 (((fiveRegs d).filter (fun r => !s.isDir r)).flatMap (fun r => (List.range n).map (fun i => CellKey.v (r.toNat * 64 + i))))
  vGuard s (a :: fiveRegs d) (s.vEnd s1 [a] 10 (orFlags (fun _ => true) (tillFlag s a) n) (flight s s1 10 10 0 keys []))

end Sys2Proof.Machine
end

