-- ==== Sys2Proof/Machine/Issue.lean ====
section
/-! DEFINITION. The issue of a row: what latches as it issues, the dynamic delays that hold it, how beats and rows follow one another, and
the delay row (R92, R119, R125 to R131, R146, R179, R245, R281, R288, R320, R345, R348). -/

namespace Sys2Proof.Machine

/-! ### Beginning and end of a row (R39, R125 to R127, R359) -/

/-- A row falls due: it reads the registers as they stand, and flags that have arrived are visible. -/
def Core.beginRow (c : Core) : Core :=
  { c with
    src := c.regs
    jump := none
    fpflags := (c.flagQ.filter (fun e => decide (e.1 ≤ c.beats))).foldl (fun a e => a ||| e.2) c.fpflags
    flagQ := c.flagQ.filter (fun e => decide (c.beats ≤ e.1)) }
/-- The same for the core whose instructions run. -/
def State.beginRow (s : State) : State := s.onCore Core.beginRow

/-- The position of the next row: the branch target, or the row after, GAP beats later, and 3 more after a taken branch. `BEAT` does not
advance in a handler. -/
def Core.nextPos (c : Core) (gap : Nat) : Pos :=
  let n := match c.jump with | none => gap | some _ => gap + 3
  { row := c.jump.getD (c.pos.row + 1)
    beat := if c.ret.isSome then c.pos.beat else c.pos.beat + 1 + BitVec.ofNat 64 n
    pend := n }

/-- A row has issued: a beat is over and the core stands at its next row. After an `EXIT` no later row issues, and an `ERET` has already
put the core at its return position. -/
def Core.endRow (c : Core) (gap tick : Nat) : Core :=
  let c1 : Core := { c with
    beats := c.beats + 1
    flagQ := c.flagQ.filter (fun e => decide (c.beats < e.1))
    held := 0
    stall := 0
    skidRows := match c.halt with | none => 0 | some h => if h.at_ < tick then c.skidRows + 1 else 0 }
  if c.moved then { c1 with moved := false }
  else if c.ret.isSome then { c1 with pos := c.nextPos gap }
  else
    { c1 with
      pos := if c.run = .exiting then c.pos else c.nextPos gap
      lastBeat := c.pos.beat, lastRow := c.pos.row, brkTaken := false, stepTaken := !c.step }
/-- The same for the core whose instructions run. -/
def State.endRow (s : State) (gap : Nat) : State := s.onCore (fun c => (c.endRow gap s.tick).meshTick s.tick)

/-- A delay row issues, does nothing, and occupies 1 + GAP beats (R92). -/
def execDelayRow (gap : Byte) (s : State) : Out := .next (s.endRow gap.toNat)

/-! ### Accesses and directions of an instruction -/

/-- The vector registers that a V instruction reads and those that it writes. -/
def vRegsOf : Instr → List Reg × List Reg
  | .vadd d a b _ | .vadds d a b _ | .vaddsu d a b _ | .vsub d a b _ | .vsubs d a b _ | .vsubsu d a b _ | .vmul d a b _ | .vmulh d a b _
  | .vmulhu d a b _ | .vand d a b _ | .vor d a b _ | .vxor d a b _ | .vandn d a b _ | .vshl d a b _ | .vshr d a b _ | .vsra d a b _
  | .vmin d a b _ | .vmax d a b _ | .vminu d a b _ | .vmaxu d a b _ | .vfadd d a b _ | .vfsub d a b _ | .vfmul d a b _ | .vfmin d a b _
  | .vfmax d a b _ | .vcvtfb d a b _ | .vperm d a b _ => ([a, b], [d])
  | .vshli d a _ _ | .vshri d a _ _ | .vsrai d a _ _ | .vslup d a _ _ | .vsldn d a _ _ | .vcmpr d a _ _ | .vsegadd d a _ _
  | .vsegfadd d a _ _ | .vbfpq d a _ _ => ([a], [d])
  | .vcmpeq _ a b _ | .vcmpne _ a b _ | .vcmplt _ a b _ | .vcmpltu _ a b _ | .vcmple _ a b _ | .vcmpleu _ a b _ | .vfcmpeq _ a b _
  | .vfcmplt _ a b _ | .vfcmple _ a b _ | .vfcmpun _ a b _ | .vqma _ a b _ | .vqmai _ a b _ => ([a, b], [])
  | .vfma d a b _ | .vfnma d a b _ | .vdot2 d a b _ | .vdot4 d a b _ | .vdot4us d a b _ => ([a, b, d], [d])
  | .vfabs d a _ | .vfneg d a _ | .vfsqrt d a _ | .vrcp d a _ | .vrsq d a _ | .vexp2 d a _ | .vlog2 d a _ | .vfloor d a _ | .vfceil d a _
  | .vfrint d a _ | .vcvtfi d a _ | .vcvtfit d a _ | .vcvtif d a _ | .vcvtbfl d a _ | .vcvtbfh d a _ | .vbfpx d a _ => ([a], [d])
  | .vqnarf d _ _ | .vqnars d _ _ | .vqnarw d _ _ | .vbcst d _ _ => ([], [d])
  | .vqwf _ a _ | .vqwi _ a _ | .vredadd _ a _ | .vredfadd _ a _ | .vredmin _ a _ | .vredmax _ a _ | .vredfmin _ a _ | .vredfmax _ a _
  | .vextr _ a _ | .vruns _ a _ => ([a], [])
  | .vins d _ _ => ([d], [d])
  | .viota d _ | .vrng d _ => ([], [d])
  | .vsel d a b _ _ => ([a, b], [d])
  | .vsortS d a _ | .vsortF d a _ | .vsortU d a _ => ([a], [d, d + 1])
  | .vt5pk d a _ => (fiveRegs a, [d])
  | .vt5up d a _ => ([a], fiveRegs d)
  | .vldW d _ _ _ | .vldH d _ _ _ | .vldHu d _ _ _ | .vldB d _ _ _ | .vldBu d _ _ _ => ([], [d])
  | .vstW d _ _ _ | .vstH d _ _ _ | .vstB d _ _ _ => ([d], [])
  | .vgath d _ b _ => ([b], [d])
  | .vscat d _ b _ => ([d, b], [])
  | _ => ([], [])

/-- The scratchpad bytes of the unmasked elements of a V instruction. -/
def State.elemAreas (s : State) (c : VCtl) (z : Nat) (addr : Nat → Word) : List (Nat × Nat) :=
  ((List.range (foldN c.fold)).filter (s.maskBit c.m)).map (fun i => ((addr i).toNat, z))

/-- The rows of a `TWIN`, by beat, with its descriptor in the first. -/
def State.windowChunks (s : State) (d : Reg3) (a b : Reg) : List (List (Nat × Nat)) :=
  let h := s.core.shape d
  let x := (s.core.rdS a).toNat
  let w := windowOf (Memory.load s.core.scratch x 64)
  match rowGroups (tBusy (h.rows * h.u)) h.u h.rows (fun r =>
      match (w.pixel ((s.core.rdS b).toNat + r)).1 with | none => [] | some y => [(y + w.c0 * h.z, h.u)]) with
  | [] => [[(x, 64)]]
  | g :: r => ((x, 64) :: g) :: r
/-- Scratchpad areas that an instruction accesses as its row issues. A pass makes its accesses meanwhile, as bank-side operations, and stalls nothing
(R228). -/
def State.areas (s : State) : Instr → List (Nat × Nat)
  | .ldb _ a imm | .ldbu _ a imm | .stb _ a imm => [((addrI s a imm).toNat, 1)]
  | .ldh _ a imm | .ldhu _ a imm | .sth _ a imm => [((addrI s a imm).toNat, 2)]
  | .ldw _ a imm | .ldwu _ a imm | .stw _ a imm => [((addrI s a imm).toNat, 4)]
  | .ldd _ a imm | .std _ a imm => [((addrI s a imm).toNat, 8)]
  | .ldx g _ a b sc w => if s.core.guardOn g then [((addrX s a b sc).toNat, (ldxWidth w).1)] else []
  | .stx g _ a b sc w => if s.core.guardOn g then [((addrX s a b sc).toNat, 2 ^ w.toNat)] else []
  | .aadd g _ a _ | .amin g _ a _ | .amax g _ a _ | .aswap g _ a _ | .aand g _ a _ | .aor g _ a _ | .acas g _ a _ =>
    if s.core.guardOn g then [((s.core.rdS a).toNat, 8)] else []
  | .aaddw g _ a _ | .afadd g _ a _ => if s.core.guardOn g then [((s.core.rdS a).toNat, 4)] else []
  | .vldW _ a b c | .vstW _ a b c => s.elemAreas c 4 (strided s a b 4)
  | .vldH _ a b c | .vldHu _ a b c | .vstH _ a b c => s.elemAreas c 2 (strided s a b 2)
  | .vldB _ a b c | .vldBu _ a b c | .vstB _ a b c => s.elemAreas c 1 (strided s a b 1)
  | .vgath _ a b c | .vscat _ a b c => s.elemAreas c 4 (indexed s a b)
  | .tld d a b | .tst d a b =>
    let h := s.core.shape d
    (List.range h.rows).map (fun r => (tileAddr s a b h.u r, h.u))
  | .xsave a | .xload a => [((s.core.rdS a).toNat, 8192)]
  | .twin d a b => (s.windowChunks d a b).flatten
  | .cbacq _ a | .cbcomLocal a | .cbwait _ a | .cbrel a => [((s.core.rdS a).toNat, 64)]
  | .launch a => [((s.core.rdS a).toNat, 128)]
  | _ => []

/-! ### What an access asks of the banks (R117, R153, R178, R181) -/

/-- The element groups of a V access: eight elements each. -/
def State.elemGroups (s : State) (c : VCtl) (z : Nat) (addr : Nat → Word) : List (List (Nat × Nat)) :=
  (List.range (foldBeats c.fold)).map (fun g =>
    ((List.range' (8 * g) 8).filter (s.maskBit c.m)).map (fun i => ((addr i).toNat, z)))
/-- The areas that an instruction accesses in its issue beat and in each beat after it. A pass takes no part (R228). -/
def State.chunks (s : State) (i : Instr) : List (List (Nat × Nat)) :=
  match i with
  | .vldW _ a b c | .vstW _ a b c => s.elemGroups c 4 (strided s a b 4)
  | .vldH _ a b c | .vldHu _ a b c | .vstH _ a b c => s.elemGroups c 2 (strided s a b 2)
  | .vldB _ a b c | .vldBu _ a b c | .vstB _ a b c => s.elemGroups c 1 (strided s a b 1)
  | .vgath _ a b c | .vscat _ a b c => s.elemGroups c 4 (indexed s a b)
  | .tld d a b | .tst d a b =>
    let h := s.core.shape d
    rowGroups (tBusy (h.rows * h.u)) h.u h.rows (fun r => [(tileAddr s a b h.u r, h.u)])
  | .xsave a | .xload a => (List.range 32).map (fun n => [((s.core.rdS a).toNat + 256 * n, 256)])
  | .twin d a b => s.windowChunks d a b
  | .pcopy _ | .pgath _ | .pscanSumi _ | .pscanSumf _ | .pscanMin _ | .pscanMax _ | .pscanCount _ | .pfilt _ | .pput _
  | .pupdAddi32 _ | .pupdAddf32 _ | .pupdMini32 _ | .pupdMaxi32 _ | .pupdAnd _ | .pupdOr _ | .pupdXor _ | .pupdSwap _
  | .pupdoAddf32 _ | .pupdoAddi32 _ | .pcmt _ | .padam _ | .pzero _ | .pzeroPhys _ | .phostIn _ | .phostOut _ | .pmatWrite _
  | .pmatAccum _ => []
  | i => [s.areas i]
/-- An access of an instruction is aligned: a row of a tile as its shape asks, any other as its size does (R133, R184). -/
def State.areaAligned (s : State) (i : Instr) (r : Nat × Nat) : Bool :=
  match i with
  | .tld d _ _ | .tst d _ _ => r.1 % (s.core.shape d).align == 0
  | .twin _ _ _ => true
  | .xsave _ | .xload _ => r.1 % 64 == 0
  | _ => r.1 % r.2 == 0
/-- Its accesses that are aligned and in range; one that is not reaches no bank (R133). -/
def State.bankChunks (s : State) (i : Instr) : List (List (Nat × Nat)) :=
  (s.chunks i).map (fun g => g.filter (fun r => decide (r.1 + r.2 ≤ s.spEnd s.cur) && s.areaAligned i r))
/-- Its steps at the banks are read-modify-writes: an atomic, or a step on a buffer object (R140, R178, R292). -/
def isRmw : Instr → Bool
  | .aadd _ _ _ _ | .aaddw _ _ _ _ | .amin _ _ _ _ | .amax _ _ _ _ | .aswap _ _ _ _ | .aand _ _ _ _ | .aor _ _ _ _ | .afadd _ _ _ _
  | .acas _ _ _ _ | .cbacq _ _ | .cbcomLocal _ | .cbwait _ _ | .cbrel _ => true
  | _ => false
/-- A memory instruction of the V slot. -/
def isVMem : Instr → Bool
  | .vldW _ _ _ _ | .vldH _ _ _ _ | .vldHu _ _ _ _ | .vldB _ _ _ _ | .vldBu _ _ _ _ | .vstW _ _ _ _ | .vstH _ _ _ _ | .vstB _ _ _ _
  | .vgath _ _ _ _ | .vscat _ _ _ _ => true
  | _ => false
/-- A memory instruction of the T slot. -/
def isTMem : Instr → Bool
  | .tld _ _ _ | .tst _ _ _ | .twin _ _ _ | .xsave _ | .xload _ => true
  | _ => false
/-- What a row asks of the banks as it issues, with what the operations in flight ask in that beat. -/
def State.rowAsks (s : State) (is : List Instr) : List Ask :=
  s.core.nextAsks ++ is.map (fun i => ⟨(s.bankChunks i).headD [], isRmw i⟩)
/-- The later groups of the memory instruction among some that a test picks. -/
def State.laterChunks (s : State) (is : List Instr) (f : Instr → Bool) (old : List (List (Nat × Nat))) : List (List (Nat × Nat)) :=
  match is.find? f with | none => old.drop 1 | some i => (s.bankChunks i).drop 1
/-- The areas that a `TST` stores to, which are ready 4 beats after its busy period (R184). -/
def State.tstOf (s : State) (i : Instr) : List (Nat × Nat) := match i with | .tst _ _ _ => (s.bankChunks i).flatten | _ => []
/-- The banks after a row that issues in a state. -/
def State.rowBanks (s : State) (is : List Instr) : Banks :=
  let c : Core := s.core.grantCore s.tick (s.rowAsks is)
  Banks.tstDone
    { c.banks with
      v := s.laterChunks is isVMem c.banks.v
      t := s.laterChunks is isTMem c.banks.t
      tst := c.banks.tst ++ is.flatMap s.tstOf } s.tick

/-! ### The dynamic delays (R129) -/

/-- The number of a delay in the order of R129. -/
def dBank : Nat := 1
def dStore : Nat := 2
def dEmpty : Nat := 3
def dFull : Nat := 4
def dBarrier : Nat := 5
def dTag : Nat := 6
def dSweep : Nat := 7
def dHeat : Nat := 8
def dRerun : Nat := 9
def dAlign : Nat := 10
def dFence : Nat := 11

/-- A delay that holds where a test says so. -/
def when (b : Bool) (d : Nat) : List Nat := if b then [d] else []

/-- The delays of an instruction other than those of mesh directions and of scratchpad accesses. -/
def State.ownDelays (s : State) : Instr → List Nat
  | .lsendV _ f p => when (lsendWaits s p (foldBeats f)) dFull
  | .lsendS _ p => when (lsendWaits s p 1) dFull
  | .lput _ b f p | .lamoAdd32 _ b f p | .lamoFadd32 _ b f p | .lamoMin32 _ b f p | .lamoMax32 _ b f p =>
    when (remoteWaits s b f p 4 (32 * foldBeats f)) dFull
  | .cbcomRemote _ b f p => when (remoteWaits s b f p 64 64) dFull
  | .lrecv _ f p => when (lrecvWaits s f p) dEmpty
  | .cbwait _ a => when (cbwaitWaits s a) dEmpty
  | .cbacq _ a => when (cbacqWaits s a) dBarrier
  | .barDie k | .barLaunch k | .barSys k | .baraDie k | .baraLaunch k | .baraSys k | .barw k => when (barWaits s k) dBarrier
  | .ljoin a => when (ljoinWaits s a) dBarrier
  | .twany a => when (twanyWaits s a) dTag
  | .twall a => when (twallWaits s a) dTag
  | .pfence => when (pfenceWaits s) dTag
  | .prnd => when (prndWaits s) dTag
  | .cwait a => when (cwaitWaits s a) dSweep
  | .pmatWrite o | .pmatAccum o => when (heatWaits s o) dHeat
  | .belay a => when (belayWaits s a) dAlign
  | .waitt a => when (waittWaits s a) dAlign
  | .tdfence g => when (s.core.guardOn g && tdfenceWaits s) dFence
  | .mapfence g => when (s.core.guardOn g && mapfenceWaits s) dFence
  | .spfence g => when (s.core.guardOn g && spfenceWaits s) dFence
  | _ => []

/-- A direction that an instruction reads holds no entry, or one that it sends to has no room. -/
def State.meshDelays (s : State) (i : Instr) : List Nat :=
  let r := (vRegsOf i)
  when (vWaits s r.1 []) dEmpty ++ when (vWaits s [] r.2) dFull

/-- The delays that hold an instruction. -/
def State.delays (s : State) (i : Instr) : List Nat :=
  when ((s.areas i).any (fun x => spWaits s x.1 x.2)) dStore ++ s.meshDelays i ++ s.ownDelays i

/-- What an instruction does as its row falls due and while it is held: a `PMAT` takes its place in the order of waiting rows, a
`MAPFENCE` and a `PRND` note what they cover, a `CWAIT` notes its stitch. -/
def State.arm (s : State) : Instr → State
  | .pmatWrite o | .pmatAccum o => heatArm s o
  | .mapfence g => if s.core.guardOn g then mapfenceArm s else s
  | .prnd => prndArm s
  | .cwait a => cwaitArm s a
  | _ => s

/-- The id and scope of a `BAR`. -/
def barOf : Instr → Option (BitVec 4 × Nat)
  | .barDie k => some (k, 0)
  | .barLaunch k => some (k, 1)
  | .barSys k => some (k, 2)
  | _ => none
/-- A `BAR` that is to arrive before it waits. -/
def State.arrives (s : State) (i : Instr) : Bool :=
  match barOf i with
  | none => false
  | some (k, scope) => s.core.barOk k && !(barWaits s k) && s.core.pos.barIn.isNone && !(scopeClash s k.toNat (s.core.effScope scope))

/-! ### Stalls (R128, R281) -/

/-- The first direction of some that has no room. -/
def State.fullDir (s : State) (rs : List Reg) : Option Nat :=
  ((s.dirs rs).find? (fun d => decide (2 ≤ (SMap.get [] s.core.meshSend d).length))).map (fun d => 16 + d)
/-- The lowest port with an operation of a kind that has not been applied. -/
def Core.unsent (c : Core) (f : LOp → Bool) : Option Nat := (c.sends.find? (fun q => q.2.any (fun m => f m.op))).map (fun q => q.1)

/-- The send stall that an instruction meets: its port, and the slot that `LINKSTALL` then names (R342). -/
def State.stallOf (s : State) (i : Instr) : Option (Nat × Nat) :=
  if (s.delays i).contains dFull then
    match i with
    | .lsendV _ _ p | .lsendS _ p | .lput _ _ _ p | .lamoAdd32 _ _ _ p | .lamoFadd32 _ _ _ p | .lamoMin32 _ _ _ p | .lamoMax32 _ _ _ p
    | .cbcomRemote _ _ _ p => some (p.toNat, 4)
    | _ => (s.fullDir (vRegsOf i).2).map (fun p => (p, 1))
  else
    match i with
    | .spfence g => if s.core.guardOn g then (s.core.unsent LOp.writes).map (fun p => (p, 0)) else none
    | _ => none

/-- A core is held in a tick: by which delay, and by which send stall, if any, whose ticks count up. -/
def Core.stalledBy (c : Core) (before d : Nat) (stall : Option (Nat × Nat)) : Core :=
  match stall with
  | none => { c with held := d, stall := 0, stallPort := 0xFF, stallSlot := 0 }
  | some q => { c with held := d, stall := before + 1, stallPort := q.1, stallSlot := q.2 }
/-- The same for a row that is held: stores in flight go on. -/
def Core.heldBy (c : Core) (tick d : Nat) (stall : Option (Nat × Nat)) : Core := (c.stallTick tick).stalledBy c.stall d stall

/-- The core whose instructions run is held in this tick: groups of its stores go on. -/
def State.heldIn (s : State) (d : Nat) (stall : Option (Nat × Nat)) : State := (s.touchStall s.tick).onCore (fun c => c.heldBy s.tick d stall)

/-- A beat in which no row issues: one of the pending beats before the next row. -/
def Core.idleBeat (c : Core) (tick : Nat) : Core := ({ c.beatAsks tick with beats := c.beats + 1, held := 0, stall := 0, pos := { c.pos with pend := c.pos.pend - 1 } } : Core).meshTick tick

/-- A tick of a core that waits in its `EXIT` row: what is in flight goes on as the banks allow, and it is held while anything is
outstanding (R145). -/
def Core.exitTick (c : Core) (tick : Nat) : Core :=
  let port := c.unsent LOp.awaited
  let c1 := if c.grants tick c.nextAsks then ({ c.beatAsks tick with beats := c.beats + 1 } : Core).meshTick tick else c.stallTick tick
  c1.stalledBy c.stall dFence (port.map (fun p => (p, 0)))

/-- The same, with the groups that reach the banks in it. -/
def State.exitBeat (s : State) : State :=
  (if s.core.grants s.tick s.core.nextAsks then s.touchBeat else s.touchStall s.tick).onCore (fun c => c.exitTick s.tick)

/-! ### What a core does in a tick -/

/-- What a core's turn in a tick comes to. -/
inductive Doing where
  /-- Nothing: it does not run, or it is stopped. -/
  | nothing
  /-- A tick that is no beat. -/
  | stalled
  /-- Its row store has been expanded: it resumes. -/
  | wake
  /-- It takes a trap at this boundary. -/
  | trap
  /-- It waits in its `EXIT` row. -/
  | exit
  /-- A pending beat. -/
  | beat
  /-- A checksum rerun stops it. -/
  | rerun
  /-- Its banks hold it: an access of several granules, or one in flight that they do not grant. -/
  | bank
  /-- A row is due. -/
  | row
  deriving DecidableEq, Repr

/-- The core issues rows: it runs, or it runs a handler while it waits in its `EXIT` row. -/
def Core.issues (c : Core) : Bool := decide (c.run = .running) || (decide (c.run = .exiting) && c.ret.isSome)

/-- The skid of a core that the halt line has reached is over (R348). -/
def Core.haltedAt (c : Core) (tick : Nat) : Bool := match c.halt with | none => false | some h => decide (h.at_ + 2 < tick)
/-- A core under a delay issues no row in the ticks of its skid; its stores in flight go on (R128, R348). -/
def Core.skidHeld (c : Core) (tick : Nat) : Bool :=
  match c.halt with
  | none => false
  | some h => decide (h.at_ < tick) && decide (c.held ≠ 0) && c.issues

/-- A hold lets the core go on in a tick. -/
def Hold.over (h : Hold) (tick : Nat) : Bool :=
  match h with
  | .none => true
  | .op _ due _ => decide (due ≤ tick)
  | .entry due => decide (due ≤ tick)
  | _ => false

/-- What the core at a key does in its turn. -/
def State.doing (s : State) (k : Nat) : Doing :=
  let c := s.coreAt k
  let d := s.dieAt (keyDie k)
  if !(decide (c.run = .running) || decide (c.run = .exiting)) || c.haltedAt d.tick then .nothing
  else if c.wakeAt.isSome then (if c.wakeAt.any (fun t => decide (t ≤ d.tick)) then .wake else .nothing)
  else if c.skidHeld d.tick || (d.swallowed && c.startAt != some d.tick) then .stalled
  else if (s.boundaryTrap k).isSome then .trap
  else if !(c.hold.over d.tick) then .stalled
  else if !c.issues then .exit
  else if (match c.seg with | none => false | some g => (s.segAt g).remap.isSome) then .nothing
  else if rerunWaits { s with cur := k } then .rerun
  else if d.tick < c.banks.hold || !(c.grants d.tick c.nextAsks) then .bank
  else if c.pos.pend ≠ 0 then .beat
  else .row

/-- A hold that is over ends: a supervisor operation gives its register its value (R361, R395). -/
def Core.endHold (c : Core) : Core :=
  match c.hold with
  | .op d _ v => { c.wrS (BitVec.ofNat 5 d) v with hold := .none }
  | .entry _ => { c with hold := .none }
  | _ => c

/-- The row that is due. -/
def Core.dueRow (c : Core) : RowWords := c.rowAt c.pos.row

/-- A row fails its parity check: it does not issue, and the row store is invalid (R95). -/
def State.rowParity (s : State) : State := (s.raise cROWPAR 0 0 0).onCore (fun c => { c with image := none })

/-- The order in which the instructions of a row take effect: that of the slots, but a write to a control register, which replaces what
the others set in that beat, and the end of a handler come last (log 4). -/
def isLast : Instr → Bool
  | .cwr _ _ => true
  | .eret _ _ _ => true
  | _ => false
def issueOrder (is : List Instr) : List Instr := is.filter (fun i => !(isLast i)) ++ is.filter isLast

/-- Whether an instruction is a step of the device, which no row holds. -/
def isStep : Instr → Bool
  | .delayRow _ => false
  | i => (encode i).isNone

/-- Whether a core's turn is worth taking. -/
def Core.turns (c : Core) : Bool := decide (c.run = .placed) || decide (c.run = .running) || decide (c.run = .exiting)

end Sys2Proof.Machine
end

