-- ==== Sys2Proof/Machine/Dispatch.lean ====
section
/-! DEFINITION. The dispatch of every constructor of Instr to its meaning, one arm each. -/

namespace Sys2Proof.Machine

/-- What instruction or step `i` does to the machine. -/
def exec (i : Instr) (s : State) : Host.Outcome State Fault Refusal :=
  match i with
  | .add g d a b => Sys2Proof.Machine.execAdd g d a b s
  | .sub g d a b => Sys2Proof.Machine.execSub g d a b s
  | .addi d a imm => Sys2Proof.Machine.execAddi d a imm s
  | .ldi d imm => Sys2Proof.Machine.execLdi d imm s
  | .lui d imm => Sys2Proof.Machine.execLui d imm s
  | .ldk d k => Sys2Proof.Machine.execLdk d k s
  | .mul g d a b => Sys2Proof.Machine.execMul g d a b s
  | .mulh g d a b => Sys2Proof.Machine.execMulh g d a b s
  | .mulhu g d a b => Sys2Proof.Machine.execMulhu g d a b s
  | .div g d a b => Sys2Proof.Machine.execDiv g d a b s
  | .divu g d a b => Sys2Proof.Machine.execDivu g d a b s
  | .rem g d a b => Sys2Proof.Machine.execRem g d a b s
  | .remu g d a b => Sys2Proof.Machine.execRemu g d a b s
  | .and g d a b => Sys2Proof.Machine.execAnd g d a b s
  | .or g d a b => Sys2Proof.Machine.execOr g d a b s
  | .xor g d a b => Sys2Proof.Machine.execXor g d a b s
  | .andn g d a b => Sys2Proof.Machine.execAndn g d a b s
  | .orn g d a b => Sys2Proof.Machine.execOrn g d a b s
  | .xnor g d a b => Sys2Proof.Machine.execXnor g d a b s
  | .andi d a imm => Sys2Proof.Machine.execAndi d a imm s
  | .ori d a imm => Sys2Proof.Machine.execOri d a imm s
  | .xori d a imm => Sys2Proof.Machine.execXori d a imm s
  | .shl g d a b => Sys2Proof.Machine.execShl g d a b s
  | .shr g d a b => Sys2Proof.Machine.execShr g d a b s
  | .sra g d a b => Sys2Proof.Machine.execSra g d a b s
  | .ror g d a b => Sys2Proof.Machine.execRor g d a b s
  | .shli g d a b c => Sys2Proof.Machine.execShli g d a b c s
  | .shri g d a b c => Sys2Proof.Machine.execShri g d a b c s
  | .srai g d a b c => Sys2Proof.Machine.execSrai g d a b c s
  | .rori g d a b c => Sys2Proof.Machine.execRori g d a b c s
  | .min g d a b => Sys2Proof.Machine.execMin g d a b s
  | .max g d a b => Sys2Proof.Machine.execMax g d a b s
  | .minu g d a b => Sys2Proof.Machine.execMinu g d a b s
  | .maxu g d a b => Sys2Proof.Machine.execMaxu g d a b s
  | .clz g d a => Sys2Proof.Machine.execClz g d a s
  | .ctz g d a => Sys2Proof.Machine.execCtz g d a s
  | .popc g d a => Sys2Proof.Machine.execPopc g d a s
  | .brev g d a => Sys2Proof.Machine.execBrev g d a s
  | .sext8 g d a => Sys2Proof.Machine.execSext8 g d a s
  | .sext16 g d a => Sys2Proof.Machine.execSext16 g d a s
  | .sext32 g d a => Sys2Proof.Machine.execSext32 g d a s
  | .zext8 g d a => Sys2Proof.Machine.execZext8 g d a s
  | .zext16 g d a => Sys2Proof.Machine.execZext16 g d a s
  | .zext32 g d a => Sys2Proof.Machine.execZext32 g d a s
  | .cmpeq g d a b => Sys2Proof.Machine.execCmpeq g d a b s
  | .cmpne g d a b => Sys2Proof.Machine.execCmpne g d a b s
  | .cmplt g d a b => Sys2Proof.Machine.execCmplt g d a b s
  | .cmpltu g d a b => Sys2Proof.Machine.execCmpltu g d a b s
  | .cmple g d a b => Sys2Proof.Machine.execCmple g d a b s
  | .cmpleu g d a b => Sys2Proof.Machine.execCmpleu g d a b s
  | .cmpieq d a imm => Sys2Proof.Machine.execCmpieq d a imm s
  | .cmpilt d a imm => Sys2Proof.Machine.execCmpilt d a imm s
  | .cmpiltu d a imm => Sys2Proof.Machine.execCmpiltu d a imm s
  | .sel g d a b k => Sys2Proof.Machine.execSel g d a b k s
  | .pand g d a b => Sys2Proof.Machine.execPand g d a b s
  | .por g d a b => Sys2Proof.Machine.execPor g d a b s
  | .pxor g d a b => Sys2Proof.Machine.execPxor g d a b s
  | .pandn g d a b => Sys2Proof.Machine.execPandn g d a b s
  | .pnot g d a => Sys2Proof.Machine.execPnot g d a s
  | .pget g d => Sys2Proof.Machine.execPget g d s
  | .pset g a => Sys2Proof.Machine.execPset g a s
  | .ldb d a imm => Sys2Proof.Machine.execLdb d a imm s
  | .ldbu d a imm => Sys2Proof.Machine.execLdbu d a imm s
  | .ldh d a imm => Sys2Proof.Machine.execLdh d a imm s
  | .ldhu d a imm => Sys2Proof.Machine.execLdhu d a imm s
  | .ldw d a imm => Sys2Proof.Machine.execLdw d a imm s
  | .ldwu d a imm => Sys2Proof.Machine.execLdwu d a imm s
  | .ldd d a imm => Sys2Proof.Machine.execLdd d a imm s
  | .stb d a imm => Sys2Proof.Machine.execStb d a imm s
  | .sth d a imm => Sys2Proof.Machine.execSth d a imm s
  | .stw d a imm => Sys2Proof.Machine.execStw d a imm s
  | .std d a imm => Sys2Proof.Machine.execStd d a imm s
  | .ldx g d a b sc w => Sys2Proof.Machine.execLdx g d a b sc w s
  | .stx g d a b sc w => Sys2Proof.Machine.execStx g d a b sc w s
  | .aadd g d a b => Sys2Proof.Machine.execAadd g d a b s
  | .aaddw g d a b => Sys2Proof.Machine.execAaddw g d a b s
  | .amin g d a b => Sys2Proof.Machine.execAmin g d a b s
  | .amax g d a b => Sys2Proof.Machine.execAmax g d a b s
  | .aswap g d a b => Sys2Proof.Machine.execAswap g d a b s
  | .aand g d a b => Sys2Proof.Machine.execAand g d a b s
  | .aor g d a b => Sys2Proof.Machine.execAor g d a b s
  | .afadd g d a b => Sys2Proof.Machine.execAfadd g d a b s
  | .acas g d a b => Sys2Proof.Machine.execAcas g d a b s
  | .br p neg off => Sys2Proof.Machine.execBr p neg off s
  | .jmp off => Sys2Proof.Machine.execJmp off s
  | .call off => Sys2Proof.Machine.execCall off s
  | .jmpr g a => Sys2Proof.Machine.execJmpr g a s
  | .loop d imm => Sys2Proof.Machine.execLoop d imm s
  | .exit => Sys2Proof.Machine.execExit s
  | .tdfence g => Sys2Proof.Machine.execTdfence g s
  | .mapfence g => Sys2Proof.Machine.execMapfence g s
  | .spfence g => Sys2Proof.Machine.execSpfence g s
  | .syncmark g => Sys2Proof.Machine.execSyncmark g s
  | .tdw g a b f => Sys2Proof.Machine.execTdw g a b f s
  | .tdr g d a f => Sys2Proof.Machine.execTdr g d a f s
  | .crd d cr => Sys2Proof.Machine.execCrd d cr s
  | .cwr a cr => Sys2Proof.Machine.execCwr a cr s
  | .rngs g d => Sys2Proof.Machine.execRngs g d s
  | .trap d a imm => Sys2Proof.Machine.execTrap d a imm s
  | .eret g a b => Sys2Proof.Machine.execEret g a b s
  | .mapw g d a b => Sys2Proof.Machine.execMapw g d a b s
  | .haltctx g d a b => Sys2Proof.Machine.execHaltctx g d a b s
  | .ctxsv g d a b => Sys2Proof.Machine.execCtxsv g d a b s
  | .ctxrs g d a b => Sys2Proof.Machine.execCtxrs g d a b s
  | .keyz g d a => Sys2Proof.Machine.execKeyz g d a s
  | .scrub g d a b => Sys2Proof.Machine.execScrub g d a b s
  | .assign g d a b => Sys2Proof.Machine.execAssign g d a b s
  | .vadd d a b c => Sys2Proof.Machine.execVadd d a b c s
  | .vadds d a b c => Sys2Proof.Machine.execVadds d a b c s
  | .vaddsu d a b c => Sys2Proof.Machine.execVaddsu d a b c s
  | .vsub d a b c => Sys2Proof.Machine.execVsub d a b c s
  | .vsubs d a b c => Sys2Proof.Machine.execVsubs d a b c s
  | .vsubsu d a b c => Sys2Proof.Machine.execVsubsu d a b c s
  | .vmul d a b c => Sys2Proof.Machine.execVmul d a b c s
  | .vmulh d a b c => Sys2Proof.Machine.execVmulh d a b c s
  | .vmulhu d a b c => Sys2Proof.Machine.execVmulhu d a b c s
  | .vand d a b c => Sys2Proof.Machine.execVand d a b c s
  | .vor d a b c => Sys2Proof.Machine.execVor d a b c s
  | .vxor d a b c => Sys2Proof.Machine.execVxor d a b c s
  | .vandn d a b c => Sys2Proof.Machine.execVandn d a b c s
  | .vshl d a b c => Sys2Proof.Machine.execVshl d a b c s
  | .vshr d a b c => Sys2Proof.Machine.execVshr d a b c s
  | .vsra d a b c => Sys2Proof.Machine.execVsra d a b c s
  | .vshli d a b c => Sys2Proof.Machine.execVshli d a b c s
  | .vshri d a b c => Sys2Proof.Machine.execVshri d a b c s
  | .vsrai d a b c => Sys2Proof.Machine.execVsrai d a b c s
  | .vmin d a b c => Sys2Proof.Machine.execVmin d a b c s
  | .vmax d a b c => Sys2Proof.Machine.execVmax d a b c s
  | .vminu d a b c => Sys2Proof.Machine.execVminu d a b c s
  | .vmaxu d a b c => Sys2Proof.Machine.execVmaxu d a b c s
  | .vcmpeq d a b c => Sys2Proof.Machine.execVcmpeq d a b c s
  | .vcmpne d a b c => Sys2Proof.Machine.execVcmpne d a b c s
  | .vcmplt d a b c => Sys2Proof.Machine.execVcmplt d a b c s
  | .vcmpltu d a b c => Sys2Proof.Machine.execVcmpltu d a b c s
  | .vcmple d a b c => Sys2Proof.Machine.execVcmple d a b c s
  | .vcmpleu d a b c => Sys2Proof.Machine.execVcmpleu d a b c s
  | .vfadd d a b c => Sys2Proof.Machine.execVfadd d a b c s
  | .vfsub d a b c => Sys2Proof.Machine.execVfsub d a b c s
  | .vfmul d a b c => Sys2Proof.Machine.execVfmul d a b c s
  | .vfma d a b c => Sys2Proof.Machine.execVfma d a b c s
  | .vfnma d a b c => Sys2Proof.Machine.execVfnma d a b c s
  | .vfmin d a b c => Sys2Proof.Machine.execVfmin d a b c s
  | .vfmax d a b c => Sys2Proof.Machine.execVfmax d a b c s
  | .vfcmpeq d a b c => Sys2Proof.Machine.execVfcmpeq d a b c s
  | .vfcmplt d a b c => Sys2Proof.Machine.execVfcmplt d a b c s
  | .vfcmple d a b c => Sys2Proof.Machine.execVfcmple d a b c s
  | .vfcmpun d a b c => Sys2Proof.Machine.execVfcmpun d a b c s
  | .vfabs d a c => Sys2Proof.Machine.execVfabs d a c s
  | .vfneg d a c => Sys2Proof.Machine.execVfneg d a c s
  | .vfsqrt d a c => Sys2Proof.Machine.execVfsqrt d a c s
  | .vrcp d a c => Sys2Proof.Machine.execVrcp d a c s
  | .vrsq d a c => Sys2Proof.Machine.execVrsq d a c s
  | .vexp2 d a c => Sys2Proof.Machine.execVexp2 d a c s
  | .vlog2 d a c => Sys2Proof.Machine.execVlog2 d a c s
  | .vfloor d a c => Sys2Proof.Machine.execVfloor d a c s
  | .vfceil d a c => Sys2Proof.Machine.execVfceil d a c s
  | .vfrint d a c => Sys2Proof.Machine.execVfrint d a c s
  | .vcvtfi d a c => Sys2Proof.Machine.execVcvtfi d a c s
  | .vcvtfit d a c => Sys2Proof.Machine.execVcvtfit d a c s
  | .vcvtif d a c => Sys2Proof.Machine.execVcvtif d a c s
  | .vcvtfb d a b c => Sys2Proof.Machine.execVcvtfb d a b c s
  | .vcvtbfl d a c => Sys2Proof.Machine.execVcvtbfl d a c s
  | .vcvtbfh d a c => Sys2Proof.Machine.execVcvtbfh d a c s
  | .vdot2 d a b c => Sys2Proof.Machine.execVdot2 d a b c s
  | .vdot4 d a b c => Sys2Proof.Machine.execVdot4 d a b c s
  | .vdot4us d a b c => Sys2Proof.Machine.execVdot4us d a b c s
  | .vqma d a b c => Sys2Proof.Machine.execVqma d a b c s
  | .vqmai d a b c => Sys2Proof.Machine.execVqmai d a b c s
  | .vqnarf d a c => Sys2Proof.Machine.execVqnarf d a c s
  | .vqnars d a c => Sys2Proof.Machine.execVqnars d a c s
  | .vqnarw d a c => Sys2Proof.Machine.execVqnarw d a c s
  | .vqclr d c => Sys2Proof.Machine.execVqclr d c s
  | .vqwf d a c => Sys2Proof.Machine.execVqwf d a c s
  | .vqwi d a c => Sys2Proof.Machine.execVqwi d a c s
  | .vredadd d a fold => Sys2Proof.Machine.execVredadd d a fold s
  | .vredfadd d a fold => Sys2Proof.Machine.execVredfadd d a fold s
  | .vredmin d a fold => Sys2Proof.Machine.execVredmin d a fold s
  | .vredmax d a fold => Sys2Proof.Machine.execVredmax d a fold s
  | .vredfmin d a fold => Sys2Proof.Machine.execVredfmin d a fold s
  | .vredfmax d a fold => Sys2Proof.Machine.execVredfmax d a fold s
  | .vbcst d a c => Sys2Proof.Machine.execVbcst d a c s
  | .vextr d a elem => Sys2Proof.Machine.execVextr d a elem s
  | .vins d a elem => Sys2Proof.Machine.execVins d a elem s
  | .viota d c => Sys2Proof.Machine.execViota d c s
  | .vperm d a b c => Sys2Proof.Machine.execVperm d a b c s
  | .vslup d a b c => Sys2Proof.Machine.execVslup d a b c s
  | .vsldn d a b c => Sys2Proof.Machine.execVsldn d a b c s
  | .vcmpr d a fold k => Sys2Proof.Machine.execVcmpr d a fold k s
  | .mand d a b fold => Sys2Proof.Machine.execMand d a b fold s
  | .mor d a b fold => Sys2Proof.Machine.execMor d a b fold s
  | .mxor d a b fold => Sys2Proof.Machine.execMxor d a b fold s
  | .mnot d a fold => Sys2Proof.Machine.execMnot d a fold s
  | .mpop d a fold => Sys2Proof.Machine.execMpop d a fold s
  | .mfirst d a fold => Sys2Proof.Machine.execMfirst d a fold s
  | .mset d a fold => Sys2Proof.Machine.execMset d a fold s
  | .mget d a fold => Sys2Proof.Machine.execMget d a fold s
  | .vsel d a b fold k => Sys2Proof.Machine.execVsel d a b fold k s
  | .vldW d a b c => Sys2Proof.Machine.execVldW d a b c s
  | .vldH d a b c => Sys2Proof.Machine.execVldH d a b c s
  | .vldHu d a b c => Sys2Proof.Machine.execVldHu d a b c s
  | .vldB d a b c => Sys2Proof.Machine.execVldB d a b c s
  | .vldBu d a b c => Sys2Proof.Machine.execVldBu d a b c s
  | .vstW d a b c => Sys2Proof.Machine.execVstW d a b c s
  | .vstH d a b c => Sys2Proof.Machine.execVstH d a b c s
  | .vstB d a b c => Sys2Proof.Machine.execVstB d a b c s
  | .vgath d a b c => Sys2Proof.Machine.execVgath d a b c s
  | .vscat d a b c => Sys2Proof.Machine.execVscat d a b c s
  | .vsortS d a fold => Sys2Proof.Machine.execVsortS d a fold s
  | .vsortF d a fold => Sys2Proof.Machine.execVsortF d a fold s
  | .vsortU d a fold => Sys2Proof.Machine.execVsortU d a fold s
  | .vruns d a fold => Sys2Proof.Machine.execVruns d a fold s
  | .vsegadd d a fold k => Sys2Proof.Machine.execVsegadd d a fold k s
  | .vsegfadd d a fold k => Sys2Proof.Machine.execVsegfadd d a fold k s
  | .vrng d c => Sys2Proof.Machine.execVrng d c s
  | .vbfpq d a fold w => Sys2Proof.Machine.execVbfpq d a fold w s
  | .vbfpx d a fold => Sys2Proof.Machine.execVbfpx d a fold s
  | .vt5pk d a fold => Sys2Proof.Machine.execVt5pk d a fold s
  | .vt5up d a fold => Sys2Proof.Machine.execVt5up d a fold s
  | .tld d a b => Sys2Proof.Machine.execTld d a b s
  | .tst d a b => Sys2Proof.Machine.execTst d a b s
  | .twin d a b => Sys2Proof.Machine.execTwin d a b s
  | .tzero d => Sys2Proof.Machine.execTzero d s
  | .tmmaBf16 d a b => Sys2Proof.Machine.execTmmaBf16 d a b s
  | .tmmaBfp d a b => Sys2Proof.Machine.execTmmaBfp d a b s
  | .tmmaI8 d a b => Sys2Proof.Machine.execTmmaI8 d a b s
  | .tmmaBf16W d a b => Sys2Proof.Machine.execTmmaBf16W d a b s
  | .tmmaBfpW d a b => Sys2Proof.Machine.execTmmaBfpW d a b s
  | .tmmaI8W d a b => Sys2Proof.Machine.execTmmaI8W d a b s
  | .ttrn d a => Sys2Proof.Machine.execTtrn d a s
  | .trowv d a b => Sys2Proof.Machine.execTrowv d a b s
  | .tvrow d a b => Sys2Proof.Machine.execTvrow d a b s
  | .xclr => Sys2Proof.Machine.execXclr s
  | .xswap => Sys2Proof.Machine.execXswap s
  | .xsave a => Sys2Proof.Machine.execXsave a s
  | .xload a => Sys2Proof.Machine.execXload a s
  | .pcopy o => Sys2Proof.Machine.execPcopy o s
  | .pgath o => Sys2Proof.Machine.execPgath o s
  | .pscanSumi o => Sys2Proof.Machine.execPscanSumi o s
  | .pscanSumf o => Sys2Proof.Machine.execPscanSumf o s
  | .pscanMin o => Sys2Proof.Machine.execPscanMin o s
  | .pscanMax o => Sys2Proof.Machine.execPscanMax o s
  | .pscanCount o => Sys2Proof.Machine.execPscanCount o s
  | .pfilt o => Sys2Proof.Machine.execPfilt o s
  | .pput o => Sys2Proof.Machine.execPput o s
  | .pupdAddi32 o => Sys2Proof.Machine.execPupdAddi32 o s
  | .pupdAddf32 o => Sys2Proof.Machine.execPupdAddf32 o s
  | .pupdMini32 o => Sys2Proof.Machine.execPupdMini32 o s
  | .pupdMaxi32 o => Sys2Proof.Machine.execPupdMaxi32 o s
  | .pupdAnd o => Sys2Proof.Machine.execPupdAnd o s
  | .pupdOr o => Sys2Proof.Machine.execPupdOr o s
  | .pupdXor o => Sys2Proof.Machine.execPupdXor o s
  | .pupdSwap o => Sys2Proof.Machine.execPupdSwap o s
  | .pupdoAddf32 o => Sys2Proof.Machine.execPupdoAddf32 o s
  | .pupdoAddi32 o => Sys2Proof.Machine.execPupdoAddi32 o s
  | .pcmt o => Sys2Proof.Machine.execPcmt o s
  | .padam o => Sys2Proof.Machine.execPadam o s
  | .pzero o => Sys2Proof.Machine.execPzero o s
  | .pzeroPhys o => Sys2Proof.Machine.execPzeroPhys o s
  | .phostIn o => Sys2Proof.Machine.execPhostIn o s
  | .phostOut o => Sys2Proof.Machine.execPhostOut o s
  | .pmatWrite o => Sys2Proof.Machine.execPmatWrite o s
  | .pmatAccum o => Sys2Proof.Machine.execPmatAccum o s
  | .preop a => Sys2Proof.Machine.execPreop a s
  | .pcanc a => Sys2Proof.Machine.execPcanc a s
  | .pfence => Sys2Proof.Machine.execPfence s
  | .twany a => Sys2Proof.Machine.execTwany a s
  | .twall a => Sys2Proof.Machine.execTwall a s
  | .tfirst d a => Sys2Proof.Machine.execTfirst d a s
  | .tclr a => Sys2Proof.Machine.execTclr a s
  | .cwait a => Sys2Proof.Machine.execCwait a s
  | .prnd => Sys2Proof.Machine.execPrnd s
  | .lsendV a fold port => Sys2Proof.Machine.execLsendV a fold port s
  | .lsendS a port => Sys2Proof.Machine.execLsendS a port s
  | .lrecv d fold port => Sys2Proof.Machine.execLrecv d fold port s
  | .lput a b fold port => Sys2Proof.Machine.execLput a b fold port s
  | .lamoAdd32 a b fold port => Sys2Proof.Machine.execLamoAdd32 a b fold port s
  | .lamoFadd32 a b fold port => Sys2Proof.Machine.execLamoFadd32 a b fold port s
  | .lamoMin32 a b fold port => Sys2Proof.Machine.execLamoMin32 a b fold port s
  | .lamoMax32 a b fold port => Sys2Proof.Machine.execLamoMax32 a b fold port s
  | .barDie k => Sys2Proof.Machine.execBarDie k s
  | .barLaunch k => Sys2Proof.Machine.execBarLaunch k s
  | .barSys k => Sys2Proof.Machine.execBarSys k s
  | .baraDie k => Sys2Proof.Machine.execBaraDie k s
  | .baraLaunch k => Sys2Proof.Machine.execBaraLaunch k s
  | .baraSys k => Sys2Proof.Machine.execBaraSys k s
  | .barw k => Sys2Proof.Machine.execBarw k s
  | .cbacq d a => Sys2Proof.Machine.execCbacq d a s
  | .cbcomLocal a => Sys2Proof.Machine.execCbcomLocal a s
  | .cbcomRemote a b fold port => Sys2Proof.Machine.execCbcomRemote a b fold port s
  | .cbwait d a => Sys2Proof.Machine.execCbwait d a s
  | .cbrel a => Sys2Proof.Machine.execCbrel a s
  | .belay a => Sys2Proof.Machine.execBelay a s
  | .waitt a => Sys2Proof.Machine.execWaitt a s
  | .tstmp d => Sys2Proof.Machine.execTstmp d s
  | .launch a => Sys2Proof.Machine.execLaunch a s
  | .ljoin a => Sys2Proof.Machine.execLjoin a s
  | .delayRow gap => Sys2Proof.Machine.execDelayRow gap s
  | .rngkeyWrite hi v => Sys2Proof.Machine.execRngkeyWrite hi v s
  | .xctxWrite v => Sys2Proof.Machine.execXctxWrite v s
  | .racelogWrite v => Sys2Proof.Machine.execRacelogWrite v s
  | .fpflagsWrite v => Sys2Proof.Machine.execFpflagsWrite v s
  | .tagerrWrite v => Sys2Proof.Machine.execTagerrWrite v s
  | .release v => Sys2Proof.Machine.execRelease v s
  | .registerWrite off v => Sys2Proof.Machine.execRegisterWrite off v s
  | .lwinWrite off data => Sys2Proof.Machine.execLwinWrite off data s
  | .negotiate seq => Sys2Proof.Machine.execNegotiate seq s
  | .imageLoad seq => Sys2Proof.Machine.execImageLoad seq s
  | .imageDrop seq => Sys2Proof.Machine.execImageDrop seq s
  | .preload seq => Sys2Proof.Machine.execPreload seq s
  | .ctxOpen seq => Sys2Proof.Machine.execCtxOpen seq s
  | .ctxClose seq => Sys2Proof.Machine.execCtxClose seq s
  | .alloc seq => Sys2Proof.Machine.execAlloc seq s
  | .free seq => Sys2Proof.Machine.execFree seq s
  | .cancel seq => Sys2Proof.Machine.execCancel seq s
  | .query seq => Sys2Proof.Machine.execQuery seq s
  | .mailboxComplete => Sys2Proof.Machine.execMailboxComplete s
  | .lwIde => Sys2Proof.Machine.execLwIde s
  | .getVersion body => Sys2Proof.Machine.execGetVersion body s
  | .getCapabilities body => Sys2Proof.Machine.execGetCapabilities body s
  | .negotiateAlgorithms body => Sys2Proof.Machine.execNegotiateAlgorithms body s
  | .getDigests body => Sys2Proof.Machine.execGetDigests body s
  | .getCertificate body => Sys2Proof.Machine.execGetCertificate body s
  | .challenge body => Sys2Proof.Machine.execChallenge body s
  | .getMeasurements body => Sys2Proof.Machine.execGetMeasurements body s
  | .keyExchange body => Sys2Proof.Machine.execKeyExchange body s
  | .finish body => Sys2Proof.Machine.execFinish body s
  | .keySet body => Sys2Proof.Machine.execKeySet body s
  | .keyClear body => Sys2Proof.Machine.execKeyClear body s
  | .fwData body => Sys2Proof.Machine.execFwData body s
  | .fwCommit body => Sys2Proof.Machine.execFwCommit body s
  | .placeLaunch => Sys2Proof.Machine.execPlaceLaunch s
  | .startPulse ctx lid die => Sys2Proof.Machine.execStartPulse ctx lid die s
  | .coreExit die core => Sys2Proof.Machine.execCoreExit die core s
  | .endOfLaunch ctx lid => Sys2Proof.Machine.execEndOfLaunch ctx lid s
  | .migration die core target => Sys2Proof.Machine.execMigration die core target s
  | .sweepVisit die => Sys2Proof.Machine.execSweepVisit die s
  | .holdTick die => Sys2Proof.Machine.execHoldTick die s
  | .passClose die core slot => Sys2Proof.Machine.execPassClose die core slot s
  | .refusedOpen die core => Sys2Proof.Machine.execRefusedOpen die core s
  | .bankRemap die seg live => Sys2Proof.Machine.execBankRemap die seg live s
  | .remapComplete die seg => Sys2Proof.Machine.execRemapComplete die seg s
  | .tmmaHandover die core => Sys2Proof.Machine.execTmmaHandover die core s
  | .meshDelivery die core dir => Sys2Proof.Machine.execMeshDelivery die core dir s
  | .messageDelivery die core port => Sys2Proof.Machine.execMessageDelivery die core port s
  | .remoteWrite die core port => Sys2Proof.Machine.execRemoteWrite die core port s
  | .remoteAtomic die core port => Sys2Proof.Machine.execRemoteAtomic die core port s
  | .remoteCommit die core port => Sys2Proof.Machine.execRemoteCommit die core port s
  | .barrierComplete ctx lid scope die id => Sys2Proof.Machine.execBarrierComplete ctx lid scope die id s
  | .linkstall die core => Sys2Proof.Machine.execLinkstall die core s
  | .phostLine die core slot answer => Sys2Proof.Machine.execPhostLine die core slot answer s
  | .dataFlit die link flit => Sys2Proof.Machine.execDataFlit die link flit s
  | .acknowledge die link seq => Sys2Proof.Machine.execAcknowledge die link seq s
  | .negativeAcknowledge die link seq => Sys2Proof.Machine.execNegativeAcknowledge die link seq s
  | .training die link far => Sys2Proof.Machine.execTraining die link far s
  | .laneLockLoss die link => Sys2Proof.Machine.execLaneLockLoss die link s
  | .portRetire die link => Sys2Proof.Machine.execPortRetire die link s
  | .tickStamp => Sys2Proof.Machine.execTickStamp s
  | .dieCutOff die => Sys2Proof.Machine.execDieCutOff die s
  | .announce msg => Sys2Proof.Machine.execAnnounce msg s
  | .sync msg => Sys2Proof.Machine.execSync msg s
  | .followUp msg => Sys2Proof.Machine.execFollowUp msg s
  | .delayReq => Sys2Proof.Machine.execDelayReq s
  | .delayResp msg => Sys2Proof.Machine.execDelayResp msg s
  | .pdelayReq => Sys2Proof.Machine.execPdelayReq s
  | .pdelayResp msg => Sys2Proof.Machine.execPdelayResp msg s
  | .pdelayRespFollowUp msg => Sys2Proof.Machine.execPdelayRespFollowUp msg s
  | .management body => Sys2Proof.Machine.execManagement body s
  | .p2pTimeout => Sys2Proof.Machine.execP2pTimeout s
  | .holdover => Sys2Proof.Machine.execHoldover s
  | .walltStep => Sys2Proof.Machine.execWalltStep s
  | .ppsIn => Sys2Proof.Machine.execPpsIn s
  | .ppsOut => Sys2Proof.Machine.execPpsOut s
  | .levelChange die level => Sys2Proof.Machine.execLevelChange die level s
  | .criticalTempTrip die => Sys2Proof.Machine.execCriticalTempTrip die s
  | .haltLine die core => Sys2Proof.Machine.execHaltLine die core s
  | .trapEntry die core => Sys2Proof.Machine.execTrapEntry die core s
  | .trapDelivery die core => Sys2Proof.Machine.execTrapDelivery die core s
  | .anchorTakeRequest die => Sys2Proof.Machine.execAnchorTakeRequest die s
  | .heartbeat die => Sys2Proof.Machine.execHeartbeat die s
  | .anchorFailed die => Sys2Proof.Machine.execAnchorFailed die s
  | .scrubEngineBeat die => Sys2Proof.Machine.execScrubEngineBeat die s
  | .coldReset => Sys2Proof.Machine.execColdReset s
  | .layerReadyTimeout die layer => Sys2Proof.Machine.execLayerReadyTimeout die layer s
  | .warmReset => Sys2Proof.Machine.execWarmReset s
  | .hotBankChange die seg bank hot => Sys2Proof.Machine.execHotBankChange die seg bank hot s
  | .criticalTripClear die => Sys2Proof.Machine.execCriticalTripClear die s
  | .ppsOutFall => Sys2Proof.Machine.execPpsOutFall s
  | .softRepair die seg bank group => Sys2Proof.Machine.execSoftRepair die seg bank group s
  | .ideKm body => Sys2Proof.Machine.execIdeKm body s
  | .snoop line => Sys2Proof.Machine.execSnoop line s
  | .cxlCacheResponse answer => Sys2Proof.Machine.execCxlCacheResponse answer s

end Sys2Proof.Machine
end

