-- ==== Sys2Proof/Machine/Schedule.lean ====
section
/-! DEFINITION. The steps that fall due in a tick of the module, in their order, and the turns of the cores after them (log 1). -/

noncomputable section

namespace Sys2Proof.Machine

/-! ### Where things stand -/

/-- Die of a key, as an instruction names it. -/
def dieOf (k : Nat) : DieNo := BitVec.ofNat 4 (keyDie k)
/-- Physical core of a key. -/
def coreOf (k : Nat) : CoreNo := BitVec.ofNat 5 (keyNo k)

/-- The dies, in order. -/
def allDies : List Nat := List.range Config.dies

/-! ### Ticks (R198 to R200, R318) -/

/-- A die lets this round go by: its clock may fall behind the fastest by one tick in 5,000, which is 200 ppm (R318; log 7); it does not
where its PTICK would then be more than 4 behind the module tick (R322). -/
def State.slips (s : State) (die : Nat) : Bool :=
  let d := s.dieAt die
  !d.slipped && decide (0 < d.tick) && (d.cutOff || decide (s.moduleTick ≤ d.ptick + 3)) && d.tick % 5000 == 0 && Config.freeTicks .clock (s.fresh + die) % 2 == 1

/-- The tick of a die in a round. -/
def tickDie (s : State) (die : Nat) : State :=
  if s.slips die then s.onDieAt die (fun d => { d with slipped := true })
  else
    match exec (if (s.dieAt die).holdNext then .holdTick (BitVec.ofNat 4 die) else .sweepVisit (BitVec.ofNat 4 die)) s with
    | .next t => t
    | _ => s

/-! ### Steps of a core's surroundings -/

/-- Kinds of the operations whose arrival is due on a port. -/
def arrivalOf (die : DieNo) (core : CoreNo) (port : BitVec 4) : LOp → Instr
  | .send _ => .messageDelivery die core port
  | .put _ _ => .remoteWrite die core port
  | .amo _ _ _ => .remoteAtomic die core port
  | .commit _ _ => .remoteCommit die core port

/-- Mesh entries of one core. -/
def meshOf (k : Nat) (c : Core) : List Instr :=
  ((List.range 4).filter (fun d => decide (SMap.get [] c.meshSend d ≠ []))).map (fun d => Instr.meshDelivery (dieOf k) (coreOf k) (BitVec.ofNat 2 d))

/-- Arrivals due of one core, by port: those that yield to the cores, or those that do not. -/
def arrivalsOf (s : State) (late : Bool) (k : Nat) (c : Core) : List (Nat × Sent) :=
  let tick := (s.dieAt (keyDie k)).tick
  c.sends.flatMap (fun q => ((headsOf (fun _ => true) tick [] q.2).filter (fun m => m.yields tick == late)).map (fun m => (q.1, m)))

/-- Steps due of one core: hand-overs, closes, refused opens. -/
def workOf (k : Nat) (c : Core) : List Instr :=
  ((c.tmma.filter (fun j => !j.handed)).map (fun _ => Instr.tmmaHandover (dieOf k) (coreOf k))) ++
    (c.passes.filter (fun p => decide (p.2.st = .closing))).map (fun p => Instr.passClose (dieOf k) (coreOf k) (BitVec.ofNat 5 p.1)) ++
    (c.refusals.filter (fun r => r.1 == 0)).map (fun _ => Instr.refusedOpen (dieOf k) (coreOf k))

/-- The halt line at one core. -/
def haltOf (k : Nat) (c : Core) : List Instr := match c.halt with | none => [] | some _ => [.haltLine (dieOf k) (coreOf k)]
/-- Steps due of one core: send stalls, its exit. -/
def stopsOf (k : Nat) (c : Core) : List Instr :=
  (if c.stall = 0 then [] else [.linkstall (dieOf k) (coreOf k)]) ++ (if c.run = .exiting then [.coreExit (dieOf k) (coreOf k)] else [])

/-- Entries that arrive in one tick go in ascending logical core of their sender, then by its port (R274). -/
def bySender (s : State) : List (Nat × Core) := s.cores.insertionSort (fun a b => a.2.lcore ≤ b.2.lcore)

/-- Steps of each core of the module. -/
def coreSteps (s : State) : List Instr :=
  s.cores.flatMap (fun e => haltOf e.1 e.2) ++ s.cores.flatMap (fun e => workOf e.1 e.2) ++
    (bySender s).flatMap (fun e => meshOf e.1 e.2 ++ (arrivalsOf s false e.1 e.2).map (fun a => arrivalOf (dieOf e.1) (coreOf e.1) (BitVec.ofNat 4 a.1) a.2.op)) ++ s.cores.flatMap (fun e => stopsOf e.1 e.2)

/-! ### Steps of launches, dies, the host and the module -/

/-- Completions of the phases of a launch at which a core has arrived, and steps of its system phases of which something has come over a trunk, or for
which all its cores count as arrived because they have left (R288 to R290). -/
def barrierSteps (s : State) : List Instr :=
  s.mod.launches.flatMap (fun l => ((List.range 16).filter (fun i => l.sysGo.getLsbD i || l.sysIn.any (fun x => x.1 == i))).map (fun i =>
    Instr.barrierComplete l.pkt.ctx l.pkt.lid .sys 0 (BitVec.ofNat 4 i))) ++
  s.mod.launches.flatMap (fun l =>
    let cs := s.launchCores l.pkt.ctx l.pkt.lid
    if !cs.isEmpty && cs.all (fun e => e.2.run.left) then
      ((List.range 16).filter l.pkt.barriers.getLsbD).map (fun i => Instr.barrierComplete l.pkt.ctx l.pkt.lid .sys 0 (BitVec.ofNat 4 i))
    else []) ++
  s.cores.flatMap (fun e => ((List.range 16).filter (fun i => e.2.arr.getLsbD i)).filterMap (fun i =>
    match (SMap.get {} e.2.arrivals i).scope with
    | 0 => some (.barrierComplete e.2.ctx e.2.lid .die (dieOf e.1) (BitVec.ofNat 4 i))
    | 1 => some (.barrierComplete e.2.ctx e.2.lid .launch 0 (BitVec.ofNat 4 i))
    | _ => some (.barrierComplete e.2.ctx e.2.lid .sys 0 (BitVec.ofNat 4 i))))

/-- Pulses and ends of launches, the placement engine, and its moves for want of a run (R84). -/
def launchSteps (s : State) : List Instr :=
  s.mod.launches.flatMap (fun l =>
    (l.dieOf.filter (fun d => !(l.fired.contains d))).map (fun d => Instr.startPulse l.pkt.ctx l.pkt.lid (BitVec.ofNat 4 d)) ++
    [.endOfLaunch l.pkt.ctx l.pkt.lid]) ++ [.placeLaunch] ++
    ((allDies.findSome? s.compactMove).map (fun m => Instr.migration (dieOf m.1) (coreOf m.1) ⟨coreOf m.2, .compaction⟩)).toList

/-- Steps of the dies: requests of anchors, remaps, heartbeats. -/
def dieSteps (s : State) : List Instr :=
  allDies.flatMap (fun n =>
    let d : DieNo := BitVec.ofNat 4 n
    [.anchorTakeRequest d] ++
      ((segKeys n).filter (fun k => (s.segAt k).remap.isSome)).map (fun k => Instr.remapComplete d (BitVec.ofNat 5 (keyNo k))) ++
      [.heartbeat d, .anchorFailed d])

/-- What the host answers to a request: the line that its memory holds, a write taken, or a refusal. -/
def hostReply (s : State) (r : CacheReq) : HostAnswer :=
  if s.mod.hostRefuse.contains r.line then .refused
  else if r.reads then .line (Memory.bytes s.mod.hostMem (64 * r.line) 64)
  else .taken

/-- Steps of the host interface. -/
def hostSteps (s : State) : List Instr :=
  (s.mod.cacheReqs.filter (fun r => decide (r.due ≤ (s.dieAt 0).tick))).map (fun r => .cxlCacheResponse ⟨r.id, hostReply s r⟩) ++
    [.mailboxComplete]

/-- Steps of time and of the ports. -/
def moduleSteps (s : State) : List Instr :=
  [.walltStep, .tickStamp, .ppsOut, .ppsOutFall, .delayReq, .pdelayReq, .p2pTimeout, .holdover] ++
    allDies.flatMap (fun d => (List.range 5).map (fun l => Instr.portRetire (BitVec.ofNat 4 d) (BitVec.ofNat 4 l)))

/-- A step can come about in a state. -/
def enabled (s : State) (i : Instr) : Bool := match exec i s with | .next _ => true | _ => false

/-- The steps that can come about in this tick, in their order. -/
def dueSteps (s : State) : List Instr :=
  ((coreSteps s ++ barrierSteps s ++ launchSteps s ++ dieSteps s ++ hostSteps s ++ moduleSteps s).filter (enabled s)).dedup

/-- The operations from trunks that are first on their circuits, in their order: those that yield to the cores, or those that do not (R274, R179). -/
def farTurns (s : State) (late : Bool) : List FarOp :=
  ((farHeads [] s.mod.farIn).filter (fun o => o.yields (s.dieAt 0).tick == late)).insertionSort (fun a b => a.before b)

/-- The beats of scrub engines that run, with the ticks that their writes have waited (R378). -/
def scrubTurns (s : State) : List (Nat × Turn) :=
  (allDies.filter (fun d => (s.dieAt d).scrub.busy && !(s.dieAt d).slipped)).map (fun d =>
    ((s.dieAt d).tick - (s.dieAt d).scrub.since, .event (.scrubEngineBeat (BitVec.ofNat 4 d))))
/-- What banks grant after the core-side accesses of the tick: arrivals and scrub writes, the one that has waited longest first (R179). -/
def lateTurns (s : State) : List Turn :=
  (((bySender s).flatMap (fun e => (arrivalsOf s true e.1 e.2).map (fun a =>
      ((s.dieAt (keyDie e.1)).tick - a.2.due, Turn.land e.1 a.1 a.2.no a.2.circuit))) ++
    (farTurns s true).map (fun o => ((s.dieAt 0).tick - o.due, Turn.far o.id)) ++
    scrubTurns s).insertionSort (fun (a b : Nat × Turn) => b.1 ≤ a.1)).map (fun a => a.2)

/-- The turns of a tick: its steps, then the cores that run, then the arrivals that yield to them. -/
def turnsOf (s : State) : List Turn :=
  (dueSteps s).map .event ++ (farTurns s false).map (fun o => .far o.id) ++
    (s.cores.filter (fun e => e.2.turns && !(s.dieAt (keyDie e.1)).slipped)).map (fun e => .core (dieOf e.1) (coreOf e.1)) ++
    lateTurns s

/-- A new tick: what arrived in the last one is checked, every die ticks, and what falls due in it follows. A warm reset that has been asked for
comes before the first of them (R400). -/
def newTick (s : State) : State :=
  if s.mod.resetReq then { s with turns := [.event .warmReset] }
  else
    let s0 := s.checkInbox.noteCancel
    let s1 := ((allDies.foldl tickDie s0).onMod Module.settleDescs).writeStarts
    { s1 with turns := turnsOf s1, fresh := s1.fresh + Config.dies }

end Sys2Proof.Machine

end
end

