-- ==== Sys2Proof/Machine/Step.lean ====
section
/-! DEFINITION. One step of the machine: the next turn, or a new tick; and a state whose next step runs a given instruction. -/

namespace Sys2Proof.Machine

/-! ### The turn of a core (R125 to R131, R345 to R348) -/

/-- Instructions take effect one after the other. -/
def runAll : List Instr → State → Out
  | [], s => .next s
  | i :: r, s =>
    match exec i s with
    | .next t => runAll r t
    | o => o

/-- The delays that hold a row whose instructions are given. -/
def State.rowDelays (s : State) (is : List Instr) : List Nat :=
  when (!(s.core.grants s.tick (s.rowAsks is))) dBank ++ is.flatMap s.delays

/-- A row that falls due, with its instructions: it is held, or the `BAR` in it arrives, or it issues. -/
def dueInstrs (is : List Instr) (gap : Byte) (s0 : State) : Out :=
  let s := is.foldl State.arm s0
  match s.rowDelays (is.filter (fun i => !(s.arrives i))) with
  | d :: ds => .next (s.heldIn (ds.foldl min d) (is.findSome? s.stallOf))
  | [] =>
    match is.find? s.arrives with
    | some i =>
      match exec i s with
      | .next t => .next (t.heldIn dBarrier none)
      | o => o
    | none =>
      match runAll (issueOrder is) s.touchBeat with
      | .next t => .next ((t.onCore (fun c => { c with banks := s.rowBanks is })).endRow gap.toNat)
      | o => o

/-- The row that is due at the core whose instructions run. -/
noncomputable def dueRow (s : State) : Out :=
  let c := s.core
  let r := c.dueRow
  if c.badRows.contains c.pos.row then .next s.rowParity
  else if c.rows ≤ c.pos.row then .fault .illegalRow
  else
    match r.decode with
    | .error _ => .fault .illegalRow
    | .ok [] => exec (.delayRow r.gap) (s.beginRow.touchBeat.onCore (fun c => c.beatAsks s.tick))
    | .ok is => dueInstrs is r.gap s.beginRow

/-- A row held for the sweep notes its stitch also in a tick that is no beat (R206, R320). -/
noncomputable def State.armHeld (s : State) : State :=
  if s.core.held = dSweep then match s.core.dueRow.decode with | .ok is => is.foldl State.arm s | .error _ => s else s

/-- The send stall that the row due at the core whose instructions run meets, while its banks or a rerun hold it too (R281). -/
noncomputable def State.dueStall (s : State) : Option (Nat × Nat) :=
  if s.core.pos.pend ≠ 0 ∨ s.core.stall = 0 then none
  else match s.core.dueRow.decode with | .ok is => is.findSome? s.beginRow.stallOf | .error _ => none

/-- A core that has issued its `EXIT` reports its exit in the tick of that row, where nothing is outstanding (R145). -/
noncomputable def State.exitNow (s : State) (k : Nat) (before : Core) : State :=
  if before.run ≠ .exiting ∧ (s.coreAt k).run = .exiting then
    { s with turns := .event (.coreExit (BitVec.ofNat 4 (keyDie k)) (BitVec.ofNat 5 (keyNo k))) :: s.turns }
  else s

/-- The turn of a core in a tick. -/
noncomputable def coreTurn (die : DieNo) (core : CoreNo) (s : State) : Out :=
  let k := coreKey die core
  let t := { s with cur := k }
  match s.doing k with
  | .nothing => .next t
  | .stalled => .next ((t.stallTick.onCore (fun c => { c with stall := if c.stall = 0 then 0 else c.stall + 1 })).armHeld)
  | .wake => .next (t.wakeCore k)
  | .trap =>
    match exec (.trapEntry die core) t with
    | .refused _ => exec (.trapDelivery die core) t
    | o => o
  | .exit => .next t.exitBeat
  | .rerun => .next (t.heldIn dRerun t.dueStall)
  | .bank => .next (t.heldIn dBank t.dueStall)
  | .beat => .next ((t.onCore Core.endHold).touchBeat.onCore (fun c => c.idleBeat t.tick))
  | .row =>
    match dueRow (t.onCore Core.endHold) with
    | .next u => .next (u.exitNow k (s.coreAt k))
    | o => o

/-- A step of the device that was to happen: one that can no longer come about does not; no row's instruction is one. -/
def eventTurn (i : Instr) (s : State) : Out :=
  if isStep i then
    match exec i s with
    | .refused _ => .next s
    | o => o
  else .next s

/-! ### The step -/

/-- One step of the machine. -/
noncomputable def step (s : State) : Host.Outcome State Fault Refusal :=
  match s.turns with
  | [] => .next (newTick s)
  | .event i :: r => eventTurn i { s with turns := r }
  | .core d c :: r => coreTurn d c { s with turns := r }
  | .far i :: r => .next (({ s with turns := r } : State).landFar i)
  | .land k p n c :: r => .next (({ s with turns := r } : State).landCopy k p n c)

/-! ### A given instruction next (log 2) -/

/-- The core that is to run an instruction: core 0 of die 0, or that die's anchor for a supervisor form. -/
def coreFor (i : Option Instr) : CoreNo := if (i.map Instr.isSup).getD false then 26 else 0

/-- The row of a word numbered as the opcode table numbers it. -/
noncomputable def rowFor (nbits w : Nat) : RowWords :=
  let v := w % 2 ^ nbits
  let word := BitVec.ofNat 32 v
  let ext := BitVec.ofNat 32 (v / 2 ^ 32)
  RowWords.single (((decodeFirst Slot.all word ext).map (fun p => p.1)).getD .s) word ext

/-- A core runs at a row that its row store holds at its position. -/
def Core.withRow (c : Core) (r : RowWords) : Core :=
  { c with
    run := .running, hold := .none, halt := none, trap := { c.trap with inh := false }, ret := none, segTrap := [], swtrap := none
    badRows := c.badRows.filter (fun n => n != c.pos.row), rows := max c.rows (c.pos.row + 1), pos := { c.pos with pend := 0 }
    brken := false, step := false
    rowStore := SMap.setAll 0 c.rowStore ([r.header, r.s, r.sx, r.v, r.t, r.w, r.wx, r.l].zipIdx.map (fun x => (c.pos.row * 8 + x.2, x.1))) }

/-- The state whose next step fetches and runs the instruction of a word. -/
noncomputable def State.withFetchWord (s : State) (nbits w : Nat) : State :=
  let core := coreFor (decodeTableWord nbits w)
  { s.onCoreAt (coreKey 0 core) (fun c => c.withRow (rowFor nbits w)) with turns := [.core 0 core] }

end Sys2Proof.Machine
end

