-- ==== Sys2Proof/Safety.lean ====
section
/-! DEFINITION. What counts as a safe run: every step ends in a next state. The one fault of the model, `illegalRow`, is met only at a row
that no image the loader accepts holds (R97); no step of the machine ends in a refusal, because a step of the device that cannot come about is
passed over. -/

namespace Sys2Proof

/-- A state from which `n` steps all end in a next state. -/
def Safe : Nat → Machine.State → Prop
  | 0, _ => True
  | n + 1, s => ∃ t, Machine.step s = .next t ∧ Safe n t

/-- A row holds a well-formed instruction in each slot that it uses (R97). -/
def RowWords.wellFormed (r : RowWords) : Prop := ∃ is, r.decode = .ok is ∧ ∀ i ∈ is, i.wellFormed = true

/-- Every row of a core's row store below its ROWS is well formed, and none is a supervisor form unless the core is an anchor (R97, R111). -/
def Machine.Core.rowsGood (c : Machine.Core) (k : Nat) : Prop :=
  ∀ r < c.rows, (c.rowAt r).wellFormed ∧ ∀ is, (c.rowAt r).decode = .ok is → ∀ i ∈ is, i.isSup = true → Machine.isAnchor k = true

end Sys2Proof
end

