-- ==== Sys2Proof/Certificates/Slice0/Obligations.lean ====
section
/-! DEFINITION. The statements for the provers, with the terms in which they are made. A statement says what an instruction leaves in terms of
what a later row reads (R125), and what it leaves alone. -/

open Sys2Proof Sys2Proof.Machine

namespace Sys2Proof.Says

/-! ### What a later row reads, and what is left alone -/

/-- The scalar register that a later row reads. -/
def laterS (s : State) (r : Reg) : Word := s.core.beginRow.rdS r
/-- The predicate that a later row reads. -/
def laterP (s : State) (r : Reg3) : Bool := s.core.beginRow.rdP r
/-- The mask that a later row reads. -/
def laterM (s : State) (r : Reg3) : Word := s.core.beginRow.rdM r
/-- The element of a vector register that a later row reads. -/
def laterV (s : State) (r : Reg) (i : Nat) : W32 := s.core.beginRow.rdV r i
/-- The element of an accumulator that a later row reads. -/
def laterQ (s : State) (r : Reg3) (i : Nat) : Word := s.core.beginRow.rdQ r i
/-- The byte of a tile register that a later row reads: row and byte of the row. -/
def laterT (s : State) (t : Reg3) (r i : Nat) : Byte := (s.core.beginRow.tileRow t r 128).getD i 0
/-- The exponent byte of a row of a tile register that a later row reads. -/
def laterE (s : State) (t : Reg3) (r : Nat) : Byte := s.core.beginRow.tileExp t r
/-- The byte at an address of the scratchpad of the core whose instructions run. -/
def sp (s : State) (a : Nat) : Byte := Memory.byte s.core.scratch a

/-- Nothing outside the core whose instructions run has changed: no other core, no segment, no die, nothing that belongs to the module. -/
def alone (s t : State) : Prop :=
  (∀ k, k ≠ s.cur → t.coreAt k = s.coreAt k) ∧ t.segs = s.segs ∧ t.dies = s.dies ∧ t.mod = s.mod ∧ t.cur = s.cur ∧ t.turns = s.turns

/-- One scalar register takes a value (s0 takes none), and nothing else changes. -/
def setsS (s t : State) (d : Reg) (v : Word) : Prop :=
  alone s t ∧ t.core = { s.core with regs := { s.core.regs with s := t.core.regs.s } } ∧
    ∀ r, laterS t r = if r = d ∧ r ≠ 0 then v else laterS s r

/-- One predicate takes a value (p0 takes none), and nothing else changes. -/
def setsP (s t : State) (d : Reg3) (b : Bool) : Prop :=
  alone s t ∧ t.core = { s.core with regs := { s.core.regs with p := t.core.regs.p } } ∧
    ∀ r, laterP t r = if r = d ∧ r ≠ 0 then b else laterP s r

/-! ### The S slot: which function each instruction computes -/

/-- Instructions of two scalar sources, with their functions (R31, R134, R135). -/
def scalarTwo : List ((Guard → Reg → Reg → Reg → Instr) × (Word → Word → Word)) :=
  [(.add, fun x y => x + y), (.sub, fun x y => x - y), (.mul, fun x y => x * y),
   (.mulh, fun x y => ((x.signExtend 128 * y.signExtend 128) >>> (64 : Nat)).setWidth 64),
   (.mulhu, fun x y => ((x.setWidth 128 * y.setWidth 128) >>> (64 : Nat)).setWidth 64),
   (.div, fun x y => if y = 0 then ~~~0#64 else x.sdiv y), (.divu, fun x y => if y = 0 then ~~~0#64 else x / y),
   (.rem, fun x y => if y = 0 then x else x.srem y), (.remu, fun x y => if y = 0 then x else x % y),
   (.and, fun x y => x &&& y), (.or, fun x y => x ||| y), (.xor, fun x y => x ^^^ y), (.andn, fun x y => x &&& ~~~y),
   (.orn, fun x y => x ||| ~~~y), (.xnor, fun x y => ~~~(x ^^^ y)), (.shl, fun x y => x <<< (y.toNat % 64)),
   (.shr, fun x y => x >>> (y.toNat % 64)), (.sra, fun x y => x.sshiftRight (y.toNat % 64)),
   (.ror, fun x y => x.rotateRight (y.toNat % 64)), (.min, fun x y => if x.sle y then x else y), (.max, fun x y => if x.sle y then y else x),
   (.minu, fun x y => if x ≤ y then x else y), (.maxu, fun x y => if x ≤ y then y else x)]

/-- Guarded instructions of one scalar source, with their functions (R134, R135). -/
def scalarOne (b : Reg) (c : BitVec 1) : List ((Guard → Reg → Reg → Instr) × (Word → Word)) :=
  let n := 32 * c.toNat + b.toNat
  [(.sext8, fun x => (x.setWidth 8).signExtend 64), (.sext16, fun x => (x.setWidth 16).signExtend 64),
   (.sext32, fun x => (x.setWidth 32).signExtend 64), (.zext8, fun x => x &&& 0xFF#64), (.zext16, fun x => x &&& 0xFFFF#64),
   (.zext32, fun x => x &&& 0xFFFFFFFF#64), (fun g d a => .shli g d a b c, fun x => x <<< n), (fun g d a => .shri g d a b c, fun x => x >>> n),
   (fun g d a => .srai g d a b c, fun x => x.sshiftRight n), (fun g d a => .rori g d a b c, fun x => x.rotateRight n)]

/-- Immediate instructions, with their functions (R134). -/
def scalarImm (imm : BitVec 16) (k : W32) : List ((Reg → Reg → Instr) × (Word → Word)) :=
  [(fun d a => .addi d a imm, fun x => x + imm.signExtend 64), (fun d a => .andi d a imm, fun x => x &&& imm.setWidth 64),
   (fun d a => .ori d a imm, fun x => x ||| imm.setWidth 64), (fun d a => .xori d a imm, fun x => x ^^^ imm.setWidth 64),
   (fun d _ => .ldi d imm, fun _ => imm.signExtend 64), (fun d _ => .lui d imm, fun _ => imm.signExtend 64 * 65536),
   (fun d _ => .ldk d k, fun _ => k.signExtend 64)]

/-- Compares of two scalar registers (R136). -/
def compares : List ((Guard → Reg3 → Reg → Reg → Instr) × (Word → Word → Bool)) :=
  [(.cmpeq, fun x y => x == y), (.cmpne, fun x y => x != y), (.cmplt, fun x y => x.slt y), (.cmpltu, fun x y => x.ult y),
   (.cmple, fun x y => x.sle y), (.cmpleu, fun x y => x.ule y)]
/-- Compares with an immediate (R136). -/
def comparesImm (imm : BitVec 16) : List ((Reg3 → Reg → Instr) × (Word → Bool)) :=
  [(fun d a => .cmpieq d a imm, fun x => x == imm.signExtend 64), (fun d a => .cmpilt d a imm, fun x => x.slt (imm.signExtend 64)),
   (fun d a => .cmpiltu d a imm, fun x => x.ult (imm.signExtend 64))]
/-- Operations of predicates (R137). -/
def predicates : List ((Guard → Reg3 → Reg3 → Reg3 → Instr) × (Bool → Bool → Bool)) :=
  [(.pand, fun x y => x && y), (.por, fun x y => x || y), (.pxor, fun x y => Bool.xor x y), (.pandn, fun x y => x && !y),
   (fun g d a _ => .pnot g d a, fun x _ => !x)]

/-- Latency and busy beats of an instruction's word (R117, R118). -/
def figures (i : Instr) : Option (Nat × Nat) :=
  (encode i).bind (fun e => (lookup e.1 e.2.1).map (fun m => (m.latency e.2.1, m.busy e.1 e.2.1)))
/-- The word of an instruction of the S slot, with a latency of `n` beats. -/
def wordS (i : Instr) (w : W32) (n : Nat) : Prop := encode i = some (.s, w, 0#32) ∧ figures i = some (n, 1)

end Sys2Proof.Says

open Sys2Proof.Says

/-- R134, R135, R31: what the S-slot instructions of two scalar sources compute, and that they change nothing but their destination. -/
def Obligations.ScalarTwoSources : Prop :=
  ∀ e ∈ scalarTwo, ∀ (s : State) (g : Guard) (d a b : Reg), s.core.guardOn g = true →
    ∃ t, exec (e.1 g d a b) s = .next t ∧ setsS s t d (e.2 (s.core.rdS a) (s.core.rdS b))

/-- R134, R135: what the S-slot instructions of one source or an immediate compute, those that count or reverse the bits of a register among them,
and that they change nothing but their destination. -/
def Obligations.ScalarOneSource : Prop :=
  ∀ (s : State) (g : Guard) (d a b : Reg) (c : BitVec 1) (imm : BitVec 16) (k : W32),
    let x := s.core.rdS a
    (∀ e ∈ scalarImm imm k, ∃ t, exec (e.1 d a) s = .next t ∧ setsS s t d (e.2 x)) ∧
    (s.core.guardOn g = true →
      (∀ e ∈ scalarOne b c, ∃ t, exec (e.1 g d a) s = .next t ∧ setsS s t d (e.2 x)) ∧
      (∃ t n, exec (.clz g d a) s = .next t ∧ setsS s t d (BitVec.ofNat 64 n) ∧ n ≤ 64 ∧ (∀ i, i < n → x.getLsbD (63 - i) = false) ∧
        (n < 64 → x.getLsbD (63 - n) = true)) ∧
      (∃ t n, exec (.ctz g d a) s = .next t ∧ setsS s t d (BitVec.ofNat 64 n) ∧ n ≤ 64 ∧ (∀ i, i < n → x.getLsbD i = false) ∧
        (n < 64 → x.getLsbD n = true)) ∧
      (∃ t, exec (.popc g d a) s = .next t ∧ setsS s t d (BitVec.ofNat 64 ((List.range 64).filter x.getLsbD).length)) ∧
      ∃ t y, exec (.brev g d a) s = .next t ∧ setsS s t d y ∧ ∀ i, i < 64 → y.getLsbD i = x.getLsbD (63 - i))

/-- R136, R137: compares with their words and latency, operations of predicates, selection, and the moves between predicates and a scalar register. -/
def Obligations.ComparesAndPredicates : Prop :=
  (∀ (g : Guard) (d : Reg3) (r a b : Reg) (imm : BitVec 16),
    (∀ e ∈ [(Instr.cmpeq g d a b, 0#6), (.cmpne g d a b, 1#6), (.cmplt g d a b, 2#6), (.cmpltu g d a b, 3#6), (.cmple g d a b, 4#6),
        (.cmpleu g d a b, 5#6)], wordS e.1 (wR 0x13#6 (0#2 ++ d) a b g 0#1 e.2) 1) ∧
    wordS (.cmpieq d a imm) (wI 0x14#6 (0#2 ++ d) a imm) 1 ∧ wordS (.cmpilt d a imm) (wI 0x15#6 (0#2 ++ d) a imm) 1 ∧
    wordS (.cmpiltu d a imm) (wI 0x16#6 (0#2 ++ d) a imm) 1 ∧ wordS (.sel g r a b d) (wR 0x17#6 r a b g 0#1 (0#3 ++ d)) 1) ∧
  ∀ (s : State) (g : Guard),
    (∀ e ∈ compares, ∀ (d : Reg3) (a b : Reg), s.core.guardOn g = true →
      ∃ t, exec (e.1 g d a b) s = .next t ∧ setsP s t d (e.2 (s.core.rdS a) (s.core.rdS b))) ∧
    (∀ (imm : BitVec 16), ∀ e ∈ comparesImm imm, ∀ (d : Reg3) (a : Reg),
      ∃ t, exec (e.1 d a) s = .next t ∧ setsP s t d (e.2 (s.core.rdS a))) ∧
    (∀ e ∈ predicates, ∀ (d a b : Reg3), s.core.guardOn g = true →
      ∃ t, exec (e.1 g d a b) s = .next t ∧ setsP s t d (e.2 (s.core.rdP a) (s.core.rdP b))) ∧
    (∀ (d a b : Reg) (k : Reg3), s.core.guardOn g = true →
      ∃ t, exec (.sel g d a b k) s = .next t ∧ setsS s t d (if s.core.rdP k then s.core.rdS a else s.core.rdS b)) ∧
    (∀ (d : Reg), s.core.guardOn g = true →
      ∃ t v, exec (.pget g d) s = .next t ∧ setsS s t d v ∧
        ∀ i, i < 64 → v.getLsbD i = (decide (i < 8) && s.core.rdP (BitVec.ofNat 3 i))) ∧
    (∀ (a : Reg), s.core.guardOn g = true →
      ∃ t, exec (.pset g a) s = .next t ∧ alone s t ∧ t.core = { s.core with regs := { s.core.regs with p := t.core.regs.p } } ∧
        ∀ r : Reg3, laterP t r = (decide (r = 0) || (s.core.rdS a).getLsbD r.toNat))

namespace Sys2Proof.Says

/-! ### Scratchpad -/

/-- `z` bytes at `x` are aligned and lie in the range of the core (R133). -/
def fits (s : State) (x z : Nat) : Prop := x % z = 0 ∧ x + z ≤ s.spEnd s.cur
/-- No byte of a range belongs to the destination area of a pass that has not closed (R228). -/
def settled (s : State) (x n : Nat) : Prop := ∀ a, x ≤ a → a < x + n → s.core.inPassDst a = false
/-- The race detector sees no conflict in an access (R313). -/
def quiet (s : State) (kind : Access) (x n : Nat) : Prop := conflictAt s.core kind (x / 64) (sectors x n) = none

/-- Bytes are stored at `x`, and nothing else changes but what R180, R228 and R313 say of a store: errors of whole units are cleared, passes
note it, and the shadows of its own sectors name the core. -/
def stores (s t : State) (x n : Nat) (f : Nat → Byte) : Prop :=
  alone s t ∧
    t.core = { s.core with scratch := t.core.scratch, badScratch := t.core.badScratch, passes := t.core.passes, shadows := t.core.shadows } ∧
    (∀ a, sp t a = if x ≤ a ∧ a < x + n then f (a - x) else sp s a) ∧
    (∀ u, u ∈ t.core.badScratch ↔ u ∈ s.core.badScratch ∧ ¬(x ≤ 8 * u ∧ 8 * u + 8 ≤ x + n)) ∧
    (s.core.passes = [] → t.core.passes = []) ∧
    ∀ k, k < x / 64 ∨ x / 64 + sectors x n ≤ k → SMap.get (0, 0#64, false) t.core.shadows k = SMap.get (0, 0#64, false) s.core.shadows k

/-- The address of an I-form access (R138). -/
def atImm (s : State) (a : Reg) (imm : BitVec 16) : Nat := (s.core.rdS a + imm.signExtend 64).toNat
/-- The address of an indexed access (R139). -/
def atIndex (s : State) (a b : Reg) (sc : BitVec 2) : Nat := (s.core.rdS a + s.core.rdS b * BitVec.ofNat 64 (2 ^ sc.toNat)).toNat

/-- The loads of the S slot: address, size, and what the register takes from the little-endian number (R138, R139). -/
def loadForms (s : State) (g : Guard) (d a b : Reg) (sc : BitVec 2) (imm : BitVec 16) : List (Instr × Nat × Nat × (Nat → Word)) :=
  let i := atImm s a imm
  let x := atIndex s a b sc
  let sx := fun (w n : Nat) => (BitVec.ofNat w n).signExtend 64
  let zx := fun (w n : Nat) => (BitVec.ofNat w n).setWidth 64
  [(.ldb d a imm, i, 1, sx 8), (.ldbu d a imm, i, 1, zx 8), (.ldh d a imm, i, 2, sx 16), (.ldhu d a imm, i, 2, zx 16),
   (.ldw d a imm, i, 4, sx 32), (.ldwu d a imm, i, 4, zx 32), (.ldd d a imm, i, 8, zx 64), (.ldx g d a b sc 0, x, 1, sx 8),
   (.ldx g d a b sc 1, x, 1, zx 8), (.ldx g d a b sc 2, x, 2, sx 16), (.ldx g d a b sc 3, x, 2, zx 16), (.ldx g d a b sc 4, x, 4, sx 32),
   (.ldx g d a b sc 5, x, 4, zx 32), (.ldx g d a b sc 6, x, 8, zx 64)]

/-- The stores of the S slot: address and size (R138, R139). -/
def storeForms (s : State) (g : Guard) (d a b : Reg) (sc : BitVec 2) (imm : BitVec 16) : List (Instr × Nat × Nat) :=
  let i := atImm s a imm
  let x := atIndex s a b sc
  [(.stb d a imm, i, 1), (.sth d a imm, i, 2), (.stw d a imm, i, 4), (.std d a imm, i, 8), (.stx g d a b sc 0, x, 1),
   (.stx g d a b sc 1, x, 2), (.stx g d a b sc 2, x, 4), (.stx g d a b sc 3, x, 8)]

/-- The atomics of 8 bytes: the new value from the old one, the register B and the register D (R140). -/
def atomics : List ((Guard → Reg → Reg → Reg → Instr) × (Word → Word → Word → Word)) :=
  [(.aadd, fun o b _ => o + b), (.amin, fun o b _ => if o.sle b then o else b), (.amax, fun o b _ => if o.sle b then b else o),
   (.aswap, fun _ b _ => b), (.aand, fun o b _ => o &&& b), (.aor, fun o b _ => o ||| b), (.acas, fun o b d => if o = d then b else o)]
/-- The atomics of 4 bytes: the new word, and what the register takes from the old one (R140). -/
def atomics32 : List ((Guard → Reg → Reg → Reg → Instr) × (W32 → W32 → W32) × (W32 → Word)) :=
  [(.aaddw, fun o b => o + b, fun o => o.signExtend 64),
   (.afadd, fun o b => BitVec.ofNat 32 (fpAdd f32 rneMode o.toNat b.toNat).1, fun o => o.setWidth 64)]

/-- An atomic on `z` bytes at `x`: the bytes take a value and the register D another, and nothing else changes but what a store changes. -/
def atomically (s t : State) (x z : Nat) (f : Nat → Byte) (d : Reg) (v : Word) : Prop :=
  alone s t ∧
    t.core = { s.core with scratch := t.core.scratch, badScratch := t.core.badScratch, passes := t.core.passes, shadows := t.core.shadows,
                           regs := { s.core.regs with s := t.core.regs.s } } ∧
    (∀ a, sp t a = if x ≤ a ∧ a < x + z then f (a - x) else sp s a) ∧ (s.core.passes = [] → t.core.passes = []) ∧
    ∀ r, laterS t r = if r = d ∧ r ≠ 0 then v else laterS s r

/-- A class I fault in the core whose instructions run: the first fault of the row stands, the halt line reaches the core in this tick, and no
register, byte, segment or die changes. -/
def faults (s t : State) (f : CoreFault) : Prop :=
  (∀ k, t.coreAt k = { s.coreAt k with fault := (t.coreAt k).fault, halt := (t.coreAt k).halt }) ∧
    (∀ k, k ≠ s.cur → (t.coreAt k).fault = (s.coreAt k).fault) ∧
    t.core.fault = (match s.core.fault with | none => some f | some g => some g) ∧
    (s.core.halt = none → (isAnchor s.cur = true ∨ s.core.run.live = true) →
      t.core.halt = some { at_ := s.tick, wall := some (s.wallAt s.die) }) ∧
    t.segs = s.segs ∧ t.dies = s.dies ∧ t.cur = s.cur ∧ t.turns = s.turns ∧ t.mod = { s.mod with launches := t.mod.launches }

/-- The fault of an access of the S slot: `SPBOUND` at its address. -/
def spFault (s : State) (x : Nat) : CoreFault :=
  { code := 0x20, row := s.core.pos.row, elem := 0, slot := 0, addr := BitVec.ofNat 64 x }

end Sys2Proof.Says

/-- R138, R139, R4: a load of the S slot takes the little-endian number at its address, with its sign or with zeros. -/
def Obligations.ScalarLoads : Prop :=
  ∀ (s : State) (g : Guard) (d a b : Reg) (sc : BitVec 2) (imm : BitVec 16), s.core.guardOn g = true →
    ∀ e ∈ loadForms s g d a b sc imm, fits s e.2.1 e.2.2.1 → badIn s.core.badScratch e.2.1 e.2.2.1 = false →
      settled s e.2.1 e.2.2.1 → quiet s .load e.2.1 e.2.2.1 →
      ∃ t, exec e.1 s = .next t ∧ setsS s t d (e.2.2.2 (Memory.load s.core.scratch e.2.1 e.2.2.1))

/-- R138, R139: a store of the S slot writes the low bytes of its register at its address, and no other byte. -/
def Obligations.ScalarStores : Prop :=
  ∀ (s : State) (g : Guard) (d a b : Reg) (sc : BitVec 2) (imm : BitVec 16), s.core.guardOn g = true →
    ∀ e ∈ storeForms s g d a b sc imm, fits s e.2.1 e.2.2 → badPartly s.core.badScratch e.2.1 e.2.2 = false →
      quiet s .store e.2.1 e.2.2 →
      ∃ t, exec e.1 s = .next t ∧ stores s t e.2.1 e.2.2 (fun i => (s.core.rdS d).extractLsb' (8 * i) 8)

/-- R140: the words and the latency of the atomics; an atomic reads the old value at its address, writes the new one, and gives the old one to its register. -/
def Obligations.ScratchpadAtomics : Prop :=
  ∀ (s : State) (g : Guard) (d a b : Reg),
    (∀ e ∈ [(Instr.aadd g d a b, 0#6), (.aaddw g d a b, 1#6), (.amin g d a b, 2#6), (.amax g d a b, 3#6), (.aswap g d a b, 4#6),
        (.aand g d a b, 5#6), (.aor g d a b, 6#6), (.afadd g d a b, 7#6), (.acas g d a b, 8#6)],
      wordS e.1 (wR 0x27#6 d a b g 0#1 e.2) 6 ∧ (s.core.guardOn g = false → exec e.1 s = .next s)) ∧
    (s.core.guardOn g = true →
    let x := (s.core.rdS a).toNat
    (∀ e ∈ atomics, fits s x 8 → badIn s.core.badScratch x 8 = false → settled s x 8 → quiet s .atomic x 8 →
      let o := BitVec.ofNat 64 (Memory.load s.core.scratch x 8)
      ∃ t, exec (e.1 g d a b) s = .next t ∧
        atomically s t x 8 (fun i => (e.2 o (s.core.rdS b) (s.core.rdS d)).extractLsb' (8 * i) 8) d o) ∧
    (∀ e ∈ atomics32, fits s x 4 → badIn s.core.badScratch x 4 = false → settled s x 4 → quiet s .atomic x 4 →
      let o := BitVec.ofNat 32 (Memory.load s.core.scratch x 4)
      ∃ t, exec (e.1 g d a b) s = .next t ∧
        atomically s t x 4 (fun i => (e.2.1 o ((s.core.rdS b).setWidth 32)).extractLsb' (8 * i) 8) d (e.2.2 o)))

/-- R133, R343: an access of the S slot that is not aligned or not in range raises `SPBOUND`: nothing is read or written, and the halt line
reaches the core in the same tick. -/
def Obligations.ScratchpadBounds : Prop :=
  ∀ (s : State) (g : Guard) (d a b : Reg) (sc : BitVec 2) (imm : BitVec 16), s.core.guardOn g = true →
    (∀ e ∈ loadForms s g d a b sc imm, ¬fits s e.2.1 e.2.2.1 → ∃ t, exec e.1 s = .next t ∧ faults s t (spFault s e.2.1)) ∧
    (∀ e ∈ storeForms s g d a b sc imm, ¬fits s e.2.1 e.2.2 → ∃ t, exec e.1 s = .next t ∧ faults s t (spFault s e.2.1)) ∧
    (∀ e ∈ atomics, ¬fits s (s.core.rdS a).toNat 8 →
      ∃ t, exec (e.1 g d a b) s = .next t ∧ faults s t (spFault s (s.core.rdS a).toNat)) ∧
    (∀ e ∈ atomics32, ¬fits s (s.core.rdS a).toNat 4 →
      ∃ t, exec (e.1 g d a b) s = .next t ∧ faults s t (spFault s (s.core.rdS a).toNat))

/-- R106, R133: an instruction of the S slot whose guard does not hold does nothing. -/
def Obligations.GuardedOff : Prop :=
  ∀ (s : State) (g : Guard) (d a b : Reg) (p q r : Reg3) (c : BitVec 1) (sc w : BitVec 2) (w3 : BitVec 3) (f : BitVec 6),
    s.core.guardOn g = false →
    (∀ e ∈ scalarTwo, exec (e.1 g d a b) s = .next s) ∧ (∀ e ∈ scalarOne b c, exec (e.1 g d a) s = .next s) ∧
    (∀ e ∈ compares, exec (e.1 g p a b) s = .next s) ∧ (∀ e ∈ predicates, exec (e.1 g p q r) s = .next s) ∧
    (∀ e ∈ atomics, exec (e.1 g d a b) s = .next s) ∧ (∀ e ∈ atomics32, exec (e.1 g d a b) s = .next s) ∧
    (∀ i ∈ [Instr.clz g d a, .ctz g d a, .popc g d a, .brev g d a, .sel g d a b p, .pget g d, .pset g a, .ldx g d a b sc w3,
        .stx g d a b sc w, .jmpr g a, .tdfence g, .mapfence g, .spfence g, .syncmark g, .tdw g a b f, .tdr g d a f, .rngs g d],
      exec i s = .next s) ∧
    (s.sup = true → ∀ i ∈ [Instr.eret g a b, .mapw g d a b, .haltctx g d a b, .ctxsv g d a b, .ctxrs g d a b, .keyz g d a,
        .scrub g d a b, .assign g d a b], exec i s = .next s)

namespace Sys2Proof.Says

/-! ### The V slot -/

/-- The element that a vector result gives to an element: none where it is not written. -/
abbrev Elems := Nat → Option W32
/-- The elements below `n` that a mask allows. -/
def masked (s : State) (m : Reg3) (n : Nat) (f : Nat → W32) : Elems := fun i => if i < n ∧ s.maskBit m i = true then some (f i) else none
/-- The elements below `n`. -/
def below (n : Nat) (f : Nat → W32) : Elems := fun i => if i < n then some (f i) else none

/-- A V instruction has completed: flags are on their way to the beat of its latency, the entries it read are gone, and nothing else of its core
changes but registers, entries sent and the note of the operation in flight. -/
def vDone (s t : State) (reads : List Reg) (lat : Nat) (fl : Flags) : Prop :=
  alone s t ∧
    t.core = { s.core with regs := t.core.regs, flagQ := t.core.flagQ, vfly := t.core.vfly, meshRecv := t.core.meshRecv,
                           meshSend := t.core.meshSend } ∧
    t.core.flagQ = (if fl = 0 then s.core.flagQ else s.core.flagQ ++ [(s.core.beats + lat, fl)]) ∧
    ∀ dir, SMap.get [] t.core.meshRecv dir = (SMap.get [] s.core.meshRecv dir).drop (if dir ∈ s.dirs reads then 1 else 0)

/-- A V instruction gives vectors: registers take the elements written, a direction takes an entry in which the elements not written are 0, and
nothing else changes (R151, R152, R154). -/
def setsV (s t : State) (reads : List Reg) (outs : List (Reg × Elems)) (lat : Nat) (fl : Flags) : Prop :=
  vDone s t reads lat fl ∧ t.core.regs = { s.core.regs with v := t.core.regs.v } ∧
    (∀ r i, i < 64 → laterV t r i =
      ((outs.find? (fun o => o.1 == r && !(s.isDir r))).bind (fun o => o.2 i)).getD (laterV s r i)) ∧
    ∀ dir, SMap.get [] t.core.meshSend dir = SMap.get [] s.core.meshSend dir ++
      (outs.filter (fun o => s.isDir o.1 && dirOf o.1 == dir)).map (fun o =>
        ({ words := (List.range 64).map (fun i => (o.2 i).getD 0), id := s.core.beats } : MeshEntry))

/-- A V instruction gives a scalar (s0 takes none), and nothing else changes. -/
def setsVS (s t : State) (reads : List Reg) (d : Reg) (v : Word) (lat : Nat) (fl : Flags) : Prop :=
  vDone s t reads lat fl ∧ t.core.regs = { s.core.regs with s := t.core.regs.s } ∧ t.core.meshSend = s.core.meshSend ∧
    ∀ r, laterS t r = if r = d ∧ r ≠ 0 then v else laterS s r

/-- A V instruction gives bits of a mask (m0 takes none); the others stay, and nothing else changes. -/
def setsVM (s t : State) (reads : List Reg) (d : Reg3) (v : Nat → Option Bool) (lat : Nat) (fl : Flags) : Prop :=
  vDone s t reads lat fl ∧ t.core.regs = { s.core.regs with m := t.core.regs.m } ∧ t.core.meshSend = s.core.meshSend ∧
    ∀ r i, i < 64 → (laterM t r).getLsbD i = if r = d ∧ r ≠ 0 then (v i).getD ((s.core.rdM d).getLsbD i) else (laterM s r).getLsbD i

/-- A V instruction gives elements of an accumulator, and nothing else changes. -/
def setsVQ (s t : State) (reads : List Reg) (d : Reg3) (f : Nat → Option Word) (lat : Nat) (fl : Flags) : Prop :=
  vDone s t reads lat fl ∧ t.core.regs = { s.core.regs with q := t.core.regs.q } ∧ t.core.meshSend = s.core.meshSend ∧
    ∀ r i, i < 64 → laterQ t r i = (if r = d then f i else none).getD (laterQ s r i)

/-- The directions of a V instruction lead somewhere (R155). -/
def leads (s : State) (rs : List Reg) : Prop := s.badDir rs = false

/-- Elementwise integer instructions: sources, latency beyond F, and the element and its flags (R158, R166, R173). -/
def vInteger (s : State) (d a b : Reg) (c : VCtl) : List (Instr × List Reg × Nat × (Nat → W32 × Flags)) :=
  let two := fun (i : Reg → Reg → Reg → VCtl → Instr) (k : Nat) (f : W32 → W32 → W32) =>
    (i d a b c, [a, b], k, fun (n : Nat) => (f (s.vsrc a n) (s.vsrc b n), (0 : Flags)))
  let sat := fun (i : Reg → Reg → Reg → VCtl → Instr) (lo hi : Int) (f : W32 → W32 → Int) =>
    (i d a b c, [a, b], 1, fun (n : Nat) =>
      let v := f (s.vsrc a n) (s.vsrc b n)
      (BitVec.ofInt 32 (max lo (min hi v)), if lo ≤ v ∧ v ≤ hi then (0 : Flags) else fSAT))
  let one := fun (i : Instr) (rs : List Reg) (f : Nat → W32) => (i, rs, 1, fun (n : Nat) => (f n, (0 : Flags)))
  let acc := fun (i : Reg → Reg → Reg → VCtl → Instr) (f : W32 → W32 → W32 → W32) =>
    (i d a b c, [a, b, d], 5, fun (n : Nat) => (f (s.vsrc a n) (s.vsrc b n) (s.vsrc d n), (0 : Flags)))
  let low := fun (x : W32) (j : Nat) => x.extractLsb' (8 * j) 8
  let m31 : Int := 2147483648
  let m32 : Int := 4294967296
  [two .vadd 1 (fun x y => x + y), two .vsub 1 (fun x y => x - y), two .vmul 3 (fun x y => x * y),
   two .vmulh 3 (fun x y => ((x.signExtend 64 * y.signExtend 64) >>> (32 : Nat)).setWidth 32),
   two .vmulhu 3 (fun x y => ((x.setWidth 64 * y.setWidth 64) >>> (32 : Nat)).setWidth 32),
   sat .vadds (-m31) (m31 - 1) (fun x y => x.toInt + y.toInt), sat .vsubs (-m31) (m31 - 1) (fun x y => x.toInt - y.toInt),
   sat .vaddsu 0 (m32 - 1) (fun x y => (x.toNat : Int) + y.toNat), sat .vsubsu 0 (m32 - 1) (fun x y => (x.toNat : Int) - y.toNat),
   two .vand 1 (fun x y => x &&& y), two .vor 1 (fun x y => x ||| y), two .vxor 1 (fun x y => x ^^^ y), two .vandn 1 (fun x y => x &&& ~~~y),
   two .vshl 1 (fun x y => x <<< (y.toNat % 32)), two .vshr 1 (fun x y => x >>> (y.toNat % 32)),
   two .vsra 1 (fun x y => x.sshiftRight (y.toNat % 32)), two .vmin 1 (fun x y => if x.sle y then x else y),
   two .vmax 1 (fun x y => if x.sle y then y else x), two .vminu 1 (fun x y => if x ≤ y then x else y),
   two .vmaxu 1 (fun x y => if x ≤ y then y else x), one (.vshli d a b c) [a] (fun n => s.vsrc a n <<< b.toNat),
   one (.vshri d a b c) [a] (fun n => s.vsrc a n >>> b.toNat), one (.vsrai d a b c) [a] (fun n => (s.vsrc a n).sshiftRight b.toNat),
   acc .vdot4 (fun x y z => z + (low x 0).signExtend 32 * (low y 0).signExtend 32 + (low x 1).signExtend 32 * (low y 1).signExtend 32 +
     (low x 2).signExtend 32 * (low y 2).signExtend 32 + (low x 3).signExtend 32 * (low y 3).signExtend 32),
   acc .vdot4us (fun x y z => z + (low x 0).setWidth 32 * (low y 0).signExtend 32 + (low x 1).setWidth 32 * (low y 1).signExtend 32 +
     (low x 2).setWidth 32 * (low y 2).signExtend 32 + (low x 3).setWidth 32 * (low y 3).signExtend 32),
   one (.vbcst d a c) [] (fun _ => (s.core.rdS a).setWidth 32), one (.viota d c) [] (fun n => BitVec.ofNat 32 n)]

/-- Exponent field and fraction of a pattern (R32). -/
def expField (f : Fmt) (bits : Nat) : Nat := bits / 2 ^ f.mb % 2 ^ f.eb
def fracField (f : Fmt) (bits : Nat) : Nat := bits % 2 ^ f.mb
/-- A pattern is a NaN, a signalling NaN, an infinity, a finite number. -/
def nanIn (f : Fmt) (bits : Nat) : Prop := expField f bits = 2 ^ f.eb - 1 ∧ fracField f bits ≠ 0
def snanIn (f : Fmt) (bits : Nat) : Prop := nanIn f bits ∧ bits.testBit (f.mb - 1) = false
def infIn (f : Fmt) (bits : Nat) : Prop := expField f bits = 2 ^ f.eb - 1 ∧ fracField f bits = 0
def finIn (f : Fmt) (bits : Nat) : Prop := expField f bits ≠ 2 ^ f.eb - 1
/-- The sign of a pattern. -/
def signIn (f : Fmt) (bits : Nat) : Bool := bits.testBit (f.eb + f.mb)
/-- The least positive number of a format is 2 to the minus this. -/
def leastExp (f : Fmt) : Nat := 2 ^ (f.eb - 1) + f.mb - 2
/-- A finite pattern as a multiple of the least positive number of its format; with FTZ a subnormal counts as zero (R32, R33). -/
def unitsIn (f : Fmt) (ftz : Bool) (bits : Nat) : Int :=
  (if signIn f bits then -1 else 1) *
    (if expField f bits = 0 then (if ftz then 0 else (fracField f bits : Int)) else (2 ^ f.mb + fracField f bits) * 2 ^ (expField f bits - 1))

/-- The next magnitude up is taken for one that lies `r` of `h` parts above `t` (R33). -/
def roundsUp (rm : Rm) (neg : Bool) (t r h : Nat) : Prop :=
  match rm with
  | .rne => h < 2 * r ∨ (2 * r = h ∧ t % 2 = 1)
  | .rtz => False
  | .rdn => neg = true ∧ r ≠ 0
  | .rup => neg = false ∧ r ≠ 0

/-- The exact number of a sign and of magnitude `m` / 2^`k`, counted in the least positive number of a format, rounds to a pattern with flags (R33,
R36): `t` is the significand below it at the exponent `x`, and `n` the one taken. It is tiny where it would be a subnormal also with one more bit of
significand. -/
def roundsTo (f : Fmt) (md : FpMode) (neg : Bool) (m k : Nat) (res : Nat × Flags) : Prop :=
  ∃ x t r n, 1 ≤ x ∧ m = t * 2 ^ (x - 1 + k) + r ∧ r < 2 ^ (x - 1 + k) ∧ t < 2 ^ (f.mb + 1) ∧ (2 ^ f.mb ≤ t ∨ x = 1) ∧
    ((n = t + 1 ∧ roundsUp md.rm neg t r (2 ^ (x - 1 + k))) ∨ (n = t ∧ ¬roundsUp md.rm neg t r (2 ^ (x - 1 + k)))) ∧
    let p := (x - 1) * 2 ^ f.mb + n
    let sign := if neg then 2 ^ (f.eb + f.mb) else 0
    let top := (2 ^ f.eb - 1) * 2 ^ f.mb
    let near := (2 ^ (f.mb + 1) - 1) * 2 ^ k
    let tiny := t < 2 ^ f.mb ∧ ¬(near ≤ 2 * m ∧ roundsUp md.rm neg (2 ^ (f.mb + 1) - 1) (2 * m - near) (2 ^ k))
    (top ≤ p → res.2 = 0x0014 ∧
      res.1 = sign + (if md.rm = .rne ∨ (md.rm = .rdn ∧ neg = true) ∨ (md.rm = .rup ∧ neg = false) then top else top - 1)) ∧
    (p < top → md.ftz = true → 0 < p → p < 2 ^ f.mb → res = (sign, 0x0018)) ∧
    (p < top → ¬(md.ftz = true ∧ 0 < p ∧ p < 2 ^ f.mb) → res.1 = sign + p ∧
      (r = 0 → res.2 = 0) ∧ (r ≠ 0 → (tiny → res.2 = 0x0018) ∧ (¬tiny → res.2 = 0x0010)))

/-- An exact number of either sign rounds to a pattern with flags; of 0, a zero of the sign given. -/
def roundsInt (f : Fmt) (md : FpMode) (n : Int) (k : Nat) (zero : Bool) (res : Nat × Flags) : Prop :=
  (n ≠ 0 → roundsTo f md (decide (n < 0)) n.natAbs k res) ∧ (n = 0 → res = (if zero then 2 ^ (f.eb + f.mb) else 0, 0))
/-- The sign of an exact sum that is 0: that of zeros of one sign, or minus only towards minus infinity (R36). -/
def zeroSign (md : FpMode) (a b : Bool) (zeros : Prop) [Decidable zeros] : Bool := if zeros ∧ a = b then a else md.rm == .rdn

/-- Elementwise floating-point instructions in the mode that `FPCTL` selects (R159 to R163); the rounding of an exact result is stated apart. -/
def vFloat (s : State) (d a b : Reg) (q : Reg3) (c : VCtl) : List (Instr × List Reg × Nat × (Nat → W32 × Flags)) :=
  let md := s.core.fpMode
  let two := fun (i : Reg → Reg → Reg → VCtl → Instr) (f : Nat → Nat → Nat × Flags) =>
    (i d a b c, [a, b], 4, fun (n : Nat) => fpOut (f (s.vsrc a n).toNat (s.vsrc b n).toNat))
  let acc := fun (i : Reg → Reg → Reg → VCtl → Instr) (neg : Bool) =>
    (i d a b c, [a, b, d], 4, fun (n : Nat) => fpOut (fpFma f32 md neg (s.vsrc a n).toNat (s.vsrc b n).toNat (s.vsrc d n).toNat))
  let one := fun (i : Reg → Reg → VCtl → Instr) (k : Nat) (f : W32 → W32 × Flags) => (i d a c, [a], k, fun (n : Nat) => f (s.vsrc a n))
  let fl := fun (x : Nat) => if md.ftz && x / 2 ^ 23 % 256 == 0 then x / 2 ^ 31 % 2 * 2 ^ 31 else x
  let sign := fun (f : W32 → W32) (x : W32) => if isNan f32 x.toNat then ((0x7FC00000 : W32), (0 : Flags)) else (f x, 0)
  [two .vfadd (fpAdd f32 md), two .vfsub (fpSub f32 md), two .vfmul (fpMul f32 md), acc .vfma false, acc .vfnma true,
   two .vfmin (fun x y => fpMinMax f32 false (fl x) (fl y)), two .vfmax (fun x y => fpMinMax f32 true (fl x) (fl y)),
   one .vfabs 2 (sign (fun x => x &&& 0x7FFFFFFF#32)), one .vfneg 2 (sign (fun x => x ^^^ 0x80000000#32)),
   one .vfsqrt 8 (fun x => fpOut (fpSqrt f32 md x.toNat)), one .vrcp 8 (fun x => fpOut (fpRcp md.ftz x.toNat)),
   one .vrsq 8 (fun x => fpOut (fpRsq x.toNat)), one .vexp2 8 (fun x => fpOut (fpExp2 md.ftz x.toNat)),
   one .vlog2 8 (fun x => fpOut (fpLog2 x.toNat)), one .vfloor 2 (fun x => fpOut (fpIntegral .rdn md.ftz false x.toNat)),
   one .vfceil 2 (fun x => fpOut (fpIntegral .rup md.ftz false x.toNat)), one .vfrint 2 (fun x => fpOut (fpIntegral md.rm md.ftz true x.toNat)),
   one .vcvtfi 4 (fun x => fpToInt32 md x.toNat), one .vcvtfit 4 (fun x => fpToInt32 ⟨.rtz, md.ftz⟩ x.toNat),
   one .vcvtif 4 (fun x => fpOut (fpOfInt md x.toInt)),
   one .vcvtbfl 4 (fun x => fpOut (fpConvert bf16 f32 ⟨.rne, md.ftz⟩ (x.toNat % 65536))),
   one .vcvtbfh 4 (fun x => fpOut (fpConvert bf16 f32 ⟨.rne, md.ftz⟩ (x.toNat / 65536))),
   (.vcvtfb d a b c, [a, b], 4, fun n =>
     let x := fpConvert f32 bf16 md (s.vsrc a n).toNat
     let y := fpConvert f32 bf16 md (s.vsrc b n).toNat
     (BitVec.ofNat 32 (x.1 + 65536 * y.1), x.2 ||| y.2)),
   (.vdot2 d a b c, [a, b, d], 5, fun n =>
     let lo := fun (x : W32) => unpack bf16 md.ftz (x.toNat % 65536)
     let hi := fun (x : W32) => unpack bf16 md.ftz (x.toNat / 65536)
     let x := s.vsrc a n
     let y := s.vsrc b n
     fpOut (roundV f32 md (addV md.rm (addV md.rm (mulV (lo x) (lo y)) (mulV (hi x) (hi y))) (unpack f32 md.ftz (s.vsrc d n).toNat)))),
   (.vqnarf d q c, [], 4, fun n => fpOut (fpConvert f64 f32 md (s.core.rdQ q n).toNat)),
   (.vqnars d q c, [], 2, fun n =>
     let v := (s.core.rdQ q n).toInt
     (BitVec.ofInt 32 (max (-2147483648) (min 2147483647 v)), if -2147483648 ≤ v ∧ v ≤ 2147483647 then 0 else fSAT)),
   (.vqnarw d q c, [], 2, fun n => ((s.core.rdQ q n).setWidth 32, 0))]

/-- Elementwise instructions with an accumulator as destination (R164). -/
def vAccum (s : State) (d : Reg3) (a b : Reg) (c : VCtl) : List (Instr × List Reg × Nat × (Nat → Word × Flags)) :=
  let md := s.core.fpMode
  [(.vqma d a b c, [a, b], 5, fun n => fpOut64 (roundV f64 md (addV md.rm
      (mulV (unpack f32 md.ftz (s.vsrc a n).toNat) (unpack f32 md.ftz (s.vsrc b n).toNat)) (unpack f64 md.ftz (s.core.rdQ d n).toNat)))),
   (.vqmai d a b c, [a, b], 5, fun n => (s.core.rdQ d n + (s.vsrc a n).signExtend 64 * (s.vsrc b n).signExtend 64, 0)),
   (.vqclr d c, [], 1, fun _ => (0, 0)), (.vqwf d a c, [a], 1, fun n => fpOut64 (fpConvert f32 f64 rneMode (s.vsrc a n).toNat)),
   (.vqwi d a c, [a], 1, fun n => ((s.vsrc a n).signExtend 64, 0))]

/-- Compares of elements into a mask, and operations of masks (R158, R160, R168). -/
def vMasks (s : State) (d : Reg3) (a b : Reg) (ma mb : Reg3) (c : VCtl) : List (Instr × List Reg × Reg3 × Nat × (Nat → Bool × Flags)) :=
  let int := fun (i : Reg3 → Reg → Reg → VCtl → Instr) (f : W32 → W32 → Bool) =>
    (i d a b c, [a, b], c.m, 1, fun (n : Nat) => (f (s.vsrc a n) (s.vsrc b n), (0 : Flags)))
  let fp := fun (i : Reg3 → Reg → Reg → VCtl → Instr) (f : W32 → W32 → Bool × Flags) =>
    (i d a b c, [a, b], c.m, 4, fun (n : Nat) => f (s.vsrc a n) (s.vsrc b n))
  let op := fun (i : Instr) (f : Bool → Bool → Bool) =>
    (i, ([] : List Reg), (0 : Reg3), 1, fun (n : Nat) => (f (s.maskBit ma n) (s.maskBit mb n), (0 : Flags)))
  let key := fun (x : W32) => fpKey f32 x.toNat
  let nan := fun (x y : W32) => isNan f32 x.toNat || isNan f32 y.toNat
  let snan := fun (x y : W32) => isSnan f32 x.toNat || isSnan f32 y.toNat
  [int .vcmpeq (fun x y => x == y), int .vcmpne (fun x y => x != y), int .vcmplt (fun x y => x.slt y), int .vcmpltu (fun x y => x.ult y),
   int .vcmple (fun x y => x.sle y), int .vcmpleu (fun x y => x.ule y),
   fp .vfcmpeq (fun x y => (!(nan x y) && key x == key y, if snan x y then fNV else 0)),
   fp .vfcmplt (fun x y => (!(nan x y) && decide (key x < key y), if nan x y then fNV else 0)),
   fp .vfcmple (fun x y => (!(nan x y) && decide (key x ≤ key y), if nan x y then fNV else 0)),
   fp .vfcmpun (fun x y => (nan x y, if snan x y then fNV else 0)),
   op (.mand d ma mb c.fold) (fun x y => x && y), op (.mor d ma mb c.fold) (fun x y => x || y),
   op (.mxor d ma mb c.fold) (fun x y => Bool.xor x y), op (.mnot d ma c.fold) (fun x _ => !x)]

end Sys2Proof.Says

/-- R150 to R152, R158, R163, R166: the elementwise integer instructions write the elements of their fold that their mask allows. -/
def Obligations.VectorInteger : Prop :=
  ∀ (s : State) (d a b : Reg) (c : VCtl), ∀ e ∈ vInteger s d a b c, leads s (d :: e.2.1) →
    let beats := 2 ^ c.fold.toNat
    let n := 8 * beats
    ∃ t, exec e.1 s = .next t ∧ setsV s t e.2.1 [(d, masked s c.m n (fun i => (e.2.2.2 i).1))] (beats + e.2.2.1)
      (orFlags (s.maskBit c.m) (fun i => (e.2.2.2 i).2) n)

/-- R32 to R37, R40, R159 to R164: the elementwise floating-point instructions, conversions and narrowings; and what their operations give: the exact
sum, difference, product or product and sum of finite inputs, rounded once, with its flags; the canonical NaN, with NV for a signalling input or an
invalid operation; infinities; and subnormals flushed under FTZ. -/
def Obligations.VectorFloat : Prop :=
  (∀ (s : State) (d a b : Reg) (q : Reg3) (c : VCtl), ∀ e ∈ vFloat s d a b q c, leads s (d :: e.2.1) →
    let beats := 2 ^ c.fold.toNat
    let n := 8 * beats
    ∃ t, exec e.1 s = .next t ∧ setsV s t e.2.1 [(d, masked s c.m n (fun i => (e.2.2.2 i).1))] (beats + e.2.2.1)
      (orFlags (s.maskBit c.m) (fun i => (e.2.2.2 i).2) n)) ∧
  ∀ e ∈ [(f64, 11, 52, 0x7FF8000000000000), (f32, 8, 23, 0x7FC00000), (bf16, 8, 7, 0x7FC0)], ∀ (md : FpMode) (a b c : Nat) (neg : Bool),
    let f := e.1
    let nan := e.2.2.2
    let u := unitsIn f md.ftz
    let sg := signIn f
    let inf := fun (s : Bool) => (if s then 2 ^ (f.eb + f.mb) else 0) + (2 ^ f.eb - 1) * 2 ^ f.mb
    f.eb = e.2.1 ∧ f.mb = e.2.2.1 ∧
    -- finite inputs
    (finIn f a → finIn f b →
      roundsInt f md (u a + u b) 0 (zeroSign md (sg a) (sg b) (u a = 0)) (fpAdd f md a b) ∧
      roundsInt f md (u a - u b) 0 (zeroSign md (sg a) (!(sg b)) (u a = 0)) (fpSub f md a b) ∧
      roundsInt f md (u a * u b) (leastExp f) (sg a != sg b) (fpMul f md a b) ∧
      (finIn f c → roundsInt f md ((if neg then -1 else 1) * (u a * u b) + u c * 2 ^ leastExp f) (leastExp f)
        (zeroSign md ((sg a != sg b) != neg) (sg c) (u c = 0)) (fpFma f md neg a b c))) ∧
    (∀ g ∈ [f64, f32, bf16], finIn g a →
      roundsInt f md (unitsIn g md.ftz a * 2 ^ (leastExp f - leastExp g)) (leastExp g - leastExp f) (signIn g a) (fpConvert g f md a)) ∧
    -- NaN inputs
    (nanIn f a ∨ nanIn f b → ∀ r ∈ [fpAdd f md a b, fpSub f md a b, fpMul f md a b],
      (snanIn f a ∨ snanIn f b → r = (nan, 0x0001)) ∧ (¬(snanIn f a ∨ snanIn f b) → r = (nan, 0))) ∧
    (nanIn f a ∨ nanIn f b ∨ nanIn f c → (fpFma f md neg a b c).1 = nan ∧
      (snanIn f a ∨ snanIn f b ∨ snanIn f c → (fpFma f md neg a b c).2 = 0x0001) ∧
      (¬(snanIn f a ∨ snanIn f b ∨ snanIn f c) → nanIn f a ∨ nanIn f b ∨ (finIn f a ∧ finIn f b) → (fpFma f md neg a b c).2 = 0)) ∧
    (∀ g ∈ [f64, f32, bf16], nanIn g a → fpConvert g f md a = (nan, if a.testBit (g.mb - 1) = false then 0x0001 else 0)) ∧
    -- infinities, and invalid operations
    (infIn f a → infIn f b →
      fpAdd f md a b = (if sg a = sg b then (inf (sg a), 0) else (nan, 0x0001)) ∧
      fpSub f md a b = (if sg a = sg b then (nan, 0x0001) else (inf (sg a), 0)) ∧ fpMul f md a b = (inf (sg a != sg b), 0)) ∧
    (infIn f a → finIn f b → fpAdd f md a b = (inf (sg a), 0) ∧ fpAdd f md b a = (inf (sg a), 0) ∧ fpSub f md a b = (inf (sg a), 0) ∧
      fpSub f md b a = (inf (!(sg a)), 0) ∧
      (u b = 0 → fpMul f md a b = (nan, 0x0001) ∧ fpMul f md b a = (nan, 0x0001) ∧ (¬nanIn f c → fpFma f md neg a b c = (nan, 0x0001))) ∧
      (u b ≠ 0 → fpMul f md a b = (inf (sg a != sg b), 0) ∧ fpMul f md b a = (inf (sg a != sg b), 0))) ∧
    (∀ g ∈ [f64, f32, bf16], infIn g a → fpConvert g f md a = (inf (signIn g a), 0)) ∧
    (∀ n : Int, roundsInt f32 md (n * 2 ^ leastExp f32) 0 false (fpOfInt md n)) ∧
    -- square roots of negative numbers
    (finIn f a → sg a = true → u a ≠ 0 → fpSqrt f md a = (nan, 0x0001))

/-- R158, R160, R164, R168: the instructions that write accumulators, compares, which write the bits of a mask that their own mask allows, and
mask operations, which write the bits of their fold. -/
def Obligations.AccumulatorsAndMasks : Prop :=
  ∀ (s : State) (d : Reg3) (a b : Reg) (ma mb : Reg3) (c : VCtl),
    let beats := 2 ^ c.fold.toNat
    let n := 8 * beats
    (∀ e ∈ vAccum s d a b c, leads s e.2.1 → ∃ t, exec e.1 s = .next t ∧
      setsVQ s t e.2.1 d (fun i => if i < n ∧ s.maskBit c.m i = true then some (e.2.2.2 i).1 else none) (beats + e.2.2.1)
        (orFlags (s.maskBit c.m) (fun i => (e.2.2.2 i).2) n)) ∧
    ∀ e ∈ vMasks s d a b ma mb c, leads s e.2.1 → ∃ t, exec e.1 s = .next t ∧
      setsVM s t e.2.1 d (fun i => if i < n ∧ s.maskBit e.2.2.1 i = true then some (e.2.2.2.2 i).1 else none) (beats + e.2.2.2.1)
        (orFlags (s.maskBit e.2.2.1) (fun i => (e.2.2.2.2 i).2) n)

namespace Sys2Proof.Says

/-- Instructions that give a scalar: sources, latency, value and flags (R165, R166, R168). -/
def vScalars (s : State) (d a : Reg) (m : Reg3) (fold : BitVec 2) (el : BitVec 6) : List (Instr × List Reg × Nat × Word × Flags) :=
  let n := 8 * 2 ^ fold.toNat
  let b := 2 ^ fold.toNat
  let xs := (List.range n).map (s.vsrc a)
  let red := fun (f : W32 → W32 → W32) => (match xs with | [] => (0 : W32) | x :: r => r.foldl f x).signExtend 64
  let fp := fun (mx : Bool) => fpMinMaxAll s.core.fpMode mx xs
  let tree := fixedTree f32 s.core.fpMode (xs.map (fun x => x.toNat))
  let k := s.core.rdM m
  [(.vredadd d a fold, [a], b + 8, red (fun x y => x + y), 0), (.vredmin d a fold, [a], b + 8, red (fun x y => if x.sle y then x else y), 0),
   (.vredmax d a fold, [a], b + 8, red (fun x y => if x.sle y then y else x), 0),
   (.vredfadd d a fold, [a], b + 8, BitVec.ofNat 64 tree.1, tree.2), (.vredfmin d a fold, [a], b + 8, BitVec.ofNat 64 (fp false).1, (fp false).2),
   (.vredfmax d a fold, [a], b + 8, BitVec.ofNat 64 (fp true).1, (fp true).2), (.vextr d a el, [a], 3, (s.vsrc a el.toNat).signExtend 64, 0),
   (.mpop d m fold, [], b + 1, BitVec.ofNat 64 ((List.range n).filter k.getLsbD).length, 0),
   (.mfirst d m fold, [], b + 1, BitVec.ofNat 64 (((List.range n).find? k.getLsbD).getD n), 0), (.mget d m fold, [], b + 1, k, 0)]

/-- Instructions that give a vector in their final step: sources, beats, latency, the elements, and flags (R166, R167, R172, R174, R175). -/
def vMoves (s : State) (d a b : Reg) (m : Reg3) (c : VCtl) (el : BitVec 6) : List (Instr × List Reg × Nat × Nat × Elems × Flags) :=
  let B := 2 ^ c.fold.toNat
  let n := 8 * B
  let k := (s.core.rdS b).toNat
  let x := s.vsrc a
  let kept := ((List.range n).filter (s.maskBit m)).map x
  let start := fun (i : Nat) => i == 0 || s.maskBit m i
  -- the elements of the segment that starts at i
  let seg := fun (i : Nat) => (x i) :: ((List.range' (i + 1) (n - 1 - i)).takeWhile (fun j => !(s.maskBit m j))).map x
  let tree := fun (i : Nat) => fixedTree f32 s.core.fpMode ((seg i).map (fun x => x.toNat))
  [(.vins d a el, if s.isDir d then [d] else [], 1, 3,
     fun i => if i = el.toNat then some ((s.core.rdS a).setWidth 32) else if s.isDir d ∧ i < 64 then some (s.vsrc d i) else none, 0),
   (.vperm d a b c, [a, b], B, B + 2, masked s c.m n (fun i => if (s.vsrc b i).toNat < n then x (s.vsrc b i).toNat else 0), 0),
   (.vslup d a b c, [a], B, B + 2, masked s c.m n (fun i => if k ≤ i then x (i - k) else 0), 0),
   (.vsldn d a b c, [a], B, B + 2, masked s c.m n (fun i => if i + k < n then x (i + k) else 0), 0),
   (.vcmpr d a c.fold m, [a], B, B + 2, below n (fun i => kept.getD i 0), 0),
   (.vsegadd d a c.fold m, [a], B, B + 8, below n (fun i => if start i then (seg i).foldl (fun x y => x + y) 0 else 0), 0),
   (.vsegfadd d a c.fold m, [a], B, B + 8, below n (fun i => if start i then BitVec.ofNat 32 (tree i).1 else 0),
     orFlags (fun i => start i) (fun i => (tree i).2) n)]

/-- BFP and T5: sources, beats, latency, the vectors given, and flags (R41 to R46, R174, R175). -/
def vStorage (s : State) (d a : Reg) (fold : BitVec 2) (w : Reg3) : List (Instr × List Reg × Nat × Nat × List (Reg × Elems) × Flags) :=
  let B := 2 ^ fold.toNat
  let n := 8 * B
  let q := bfpQuant (w.toNat + 2) ((List.range n).map (fun i => (s.vsrc a i).toNat))
  let mant := fun (j : Nat) => ((q.2.1.getD j 0) % 256).toNat
  let h := bfpHeader (s.vsrc a 0)
  -- byte j of the source vector
  let byte := fun (j : Nat) => (s.vsrc a (j / 4)).extractLsb' (8 * (j % 4)) 8
  let item := fun (i : Nat) => fpOut (bfpElement s.core.fpMode.ftz h.e (bfpMantissa h.wm2 (if i + 4 < 4 * n then byte (i + 4) else 0)))
  let trit := fun (j k : Nat) => max (-1) (min 1 (s.vsrc (a + BitVec.ofNat 5 k) j).toInt)
  let pack := fun (j : Nat) => (trit j 0 + 1 + 3 * (trit j 1 + 1) + 9 * (trit j 2 + 1) + 27 * (trit j 3 + 1) + 81 * (trit j 4 + 1)).toNat
  let clamps := fun (j : Nat) => (List.range 5).any (fun k => trit j k != (s.vsrc (a + BitVec.ofNat 5 k) j).toInt)
  let up := fun (k j : Nat) => if (byte j).toNat ≤ 242 then BitVec.ofInt 32 (((byte j).toNat / 3 ^ k % 3 : Nat) - 1 : Int) else 0
  [(.vbfpq d a fold w, [a], B, B + 4, [(d, below (n / 4 + 1) (fun i =>
      if i = 0 then BitVec.ofNat 32 (q.1 * 2 ^ 24 + n * 2 ^ 8 + w.toNat * 2 ^ 5 + 1)
      else BitVec.ofNat 32 (mant (4 * i - 4) + mant (4 * i - 3) * 2 ^ 8 + mant (4 * i - 2) * 2 ^ 16 + mant (4 * i - 1) * 2 ^ 24)))], q.2.2),
   (.vbfpx d a fold, [a], B, B + 4, [(d, below n (fun i => if i < h.length then (item i).1 else 0))],
     orFlags (fun i => decide (i < h.length)) (fun i => (item i).2) n ||| (if h.bad then fBFPHDR else 0)),
   (.vt5pk d a fold, (List.range 5).map (fun k => a + BitVec.ofNat 5 k), 10, 10, [(d, below (n / 4) (fun i =>
      BitVec.ofNat 32 (pack (4 * i) + pack (4 * i + 1) * 2 ^ 8 + pack (4 * i + 2) * 2 ^ 16 + pack (4 * i + 3) * 2 ^ 24)))],
     if (List.range n).any clamps then fTCLAMP else 0),
   (.vt5up d a fold, [a], 10, 10, (List.range 5).map (fun k => (d + BitVec.ofNat 5 k, below n (up k))),
     if (List.range n).any (fun j => decide (242 < (byte j).toNat)) then fTILL else 0)]

/-- The orders of the sorts: int32, uint32, and the total order of FP32 (R171). -/
def sorts : List ((Reg → Reg → BitVec 2 → Instr) × (W32 → W32 → Bool)) :=
  let total := fun (x : W32) => if x.getLsbD 31 then -((x.toNat % 2 ^ 31 : Nat) : Int) - 1 else (x.toNat : Int)
  [(.vsortS, fun x y => x.sle y), (.vsortU, fun x y => decide (x ≤ y)), (.vsortF, fun x y => decide (total x ≤ total y))]

/-- The strided and indexed accesses of the V slot: address of an element (R169, R170). -/
def strideAt (s : State) (a b : Reg) (z i : Nat) : Nat :=
  (s.core.rdS a + BitVec.ofNat 64 i * (if s.core.rdS b = 0 then BitVec.ofNat 64 z else s.core.rdS b)).toNat
def indexAt (s : State) (a b : Reg) (i : Nat) : Nat := (s.core.rdS a + 4 * (s.vsrc b i).setWidth 64).toNat

/-- The loads of the V slot: sources, beats, element size, its address, and the element from the little-endian number. -/
def vLoads (s : State) (d a b : Reg) (c : VCtl) : List (Instr × List Reg × Nat × Nat × (Nat → Nat) × (Nat → W32)) :=
  let B := 2 ^ c.fold.toNat
  [(.vldW d a b c, [], B, 4, strideAt s a b 4, fun v => BitVec.ofNat 32 v),
   (.vldH d a b c, [], B, 2, strideAt s a b 2, fun v => (BitVec.ofNat 16 v).signExtend 32),
   (.vldHu d a b c, [], B, 2, strideAt s a b 2, fun v => BitVec.ofNat 32 v),
   (.vldB d a b c, [], B, 1, strideAt s a b 1, fun v => (BitVec.ofNat 8 v).signExtend 32),
   (.vldBu d a b c, [], B, 1, strideAt s a b 1, fun v => BitVec.ofNat 32 v),
   (.vgath d a b c, [b], 2 * B, 4, indexAt s a b, fun v => BitVec.ofNat 32 v)]

/-- The stores of the V slot: sources, element size, and its address. -/
def vStores (s : State) (d a b : Reg) (c : VCtl) : List (Instr × List Reg × Nat × (Nat → Nat)) :=
  [(.vstW d a b c, [d], 4, strideAt s a b 4), (.vstH d a b c, [d], 2, strideAt s a b 2), (.vstB d a b c, [d], 1, strideAt s a b 1),
   (.vscat d a b c, [d, b], 4, indexAt s a b)]

end Sys2Proof.Says

/-- R165, R166, R168: reductions, extraction, and the counts of masks. -/
def Obligations.VectorScalars : Prop :=
  ∀ (s : State) (d a : Reg) (m : Reg3) (fold : BitVec 2) (el : BitVec 6), ∀ e ∈ vScalars s d a m fold el, leads s e.2.1 →
    ∃ t, exec e.1 s = .next t ∧ setsVS s t e.2.1 d e.2.2.2.1 e.2.2.1 e.2.2.2.2

/-- R166, R167, R168, R172: insertion, selection, permutation, slides, compression, segmented sums, whole masks and runs. -/
def Obligations.VectorMoves : Prop :=
  ∀ (s : State) (d a b : Reg) (m k : Reg3) (c : VCtl) (el : BitVec 6),
    (∀ e ∈ vMoves s d a b m c el, leads s (d :: e.2.1) →
      ∃ t, exec e.1 s = .next t ∧ setsV s t e.2.1 [(d, e.2.2.2.2.1)] e.2.2.2.1 e.2.2.2.2.2) ∧
    (leads s [d, a, b] → ∃ t, exec (.vsel d a b c.fold m) s = .next t ∧
      setsV s t [a, b] [(d, below (8 * 2 ^ c.fold.toNat) (fun i => if s.maskBit m i then s.vsrc a i else s.vsrc b i))]
        (2 ^ c.fold.toNat + 1) 0) ∧
    (∃ t, exec (.mset k a c.fold) s = .next t ∧ setsVM s t [] k (fun i => some ((s.core.rdS a).getLsbD i)) (2 ^ c.fold.toNat + 1) 0) ∧
    (leads s [a] → ∃ t, exec (.vruns k a c.fold) s = .next t ∧
      setsVM s t [a] k (fun i => if i < 8 * 2 ^ c.fold.toNat then some (i == 0 || s.vsrc a i != s.vsrc a (i - 1)) else none)
        (2 ^ c.fold.toNat + 2) 0)

/-- R41 to R46, R171, R174, R175: quantising to a burst and expanding one, packing trits and unpacking them; and a sort leaves the elements in order
in its destination and their places in the register after it, equal keys in their order. -/
def Obligations.VectorStorageAndSorts : Prop :=
  ∀ (s : State) (d a : Reg) (fold : BitVec 2) (w : Reg3),
    (∀ e ∈ vStorage s d a fold w, leads s (e.2.2.2.2.1.map (fun o => o.1) ++ e.2.1) →
      ∃ t, exec e.1 s = .next t ∧ setsV s t e.2.1 e.2.2.2.2.1 e.2.2.2.1 e.2.2.2.2.2) ∧
    (∀ e ∈ sorts, leads s [d, d + 1, a] →
      let n := 8 * 2 ^ fold.toNat
      let x := s.vsrc a
      ∃ (t : State) (idx : Nat → Nat), exec (e.1 d a fold) s = .next t ∧
        setsV s t [a] [(d, below n (fun i => x (idx i))), (d + 1, below n (fun i => BitVec.ofNat 32 (idx i)))] 24 0 ∧
        (∀ i, i < n → idx i < n) ∧ (∀ i j, i < n → j < n → idx i = idx j → i = j) ∧
        ∀ i j, i < j → j < n → e.2 (x (idx i)) (x (idx j)) = true ∧ (e.2 (x (idx j)) (x (idx i)) = true → idx i < idx j))

/-- R149, R173: the random streams of a core, each of which takes its next word or its next 64 words. -/
def Obligations.RandomStreams : Prop :=
  ∀ (s : State) (g : Guard) (d : Reg) (c : VCtl),
    let base := fun (salt : Word) => mix64 (s.core.rngkey1 ^^^ (BitVec.ofNat 64 s.core.lcore <<< (40 : Nat)) ^^^ salt) + s.core.rngkey0
    let gamma : Word := 0x9E3779B97F4A7C15
    (s.core.guardOn g = true → ∃ t, exec (.rngs g d) s = .next t ∧ alone s t ∧
      t.core = { s.core with sctr := s.core.sctr + 1, regs := { s.core.regs with s := t.core.regs.s } } ∧
      ∀ r, laterS t r = if r = d ∧ r ≠ 0 then mix64 (base 0x5253 + s.core.sctr * gamma) else laterS s r) ∧
    (leads s [d] → ∃ t u, exec (.vrng d c) s = .next t ∧ t = u.onCore (fun c => { c with vctr := c.vctr + 1 }) ∧
      setsV s u [] [(d, masked s c.m (8 * 2 ^ c.fold.toNat) (fun i =>
        (mix64 (base 0x5652 + (s.core.vctr * 64 + BitVec.ofNat 64 i) * gamma)).setWidth 32))] (2 ^ c.fold.toNat + 3) 0)

/-- R153, R157, R169, R170: a vector load or gather writes its unmasked elements where all are accessible; it stops at the first that is not
aligned or not in range, which is named: the elements before it are written, and no other. -/
def Obligations.VectorLoads : Prop :=
  ∀ (s : State) (d a b : Reg) (c : VCtl), ∀ e ∈ vLoads s d a b c, leads s (d :: e.2.1) →
    let n := 8 * 2 ^ c.fold.toNat
    let z := e.2.2.2.1
    let at_ := e.2.2.2.2.1
    let val := fun (i : Nat) => e.2.2.2.2.2 (Memory.load s.core.scratch (at_ i) z)
    let ok := fun (i : Nat) => fits s (at_ i) z ∧ badIn s.core.badScratch (at_ i) z = false ∧ settled s (at_ i) z ∧ quiet s .load (at_ i) z
    ((∀ i, i < n → s.maskBit c.m i = true → ok i) →
      ∃ t, exec e.1 s = .next t ∧ setsV s t e.2.1 [(d, masked s c.m n val)] (e.2.2.1 + 4) 0) ∧
    ∀ j, j < n → s.maskBit c.m j = true → ¬fits s (at_ j) z → s.isDir d = false → s.core.fault = none →
      (∀ i, i < j → s.maskBit c.m i = true → ok i) →
      ∃ t, exec e.1 s = .next t ∧
        t.core.fault = some { code := 0x20, row := s.core.pos.row, elem := BitVec.ofNat 64 j, slot := 1, addr := BitVec.ofNat 64 (at_ j) } ∧
        t.core.scratch = s.core.scratch ∧
        ∀ r i, i < 64 → laterV t r i = if r = d ∧ i < j ∧ s.maskBit c.m i = true then val i else laterV s r i

/-- R153, R169, R170: a vector store or scatter writes the low bytes of its unmasked elements, the higher element last where two write one
byte. -/
def Obligations.VectorStores : Prop :=
  ∀ (s : State) (d a b : Reg) (c : VCtl), ∀ e ∈ vStores s d a b c, leads s e.2.1 →
    let n := 8 * 2 ^ c.fold.toNat
    let z := e.2.2.1
    let at_ := e.2.2.2
    let writers := fun (x : Nat) => (List.range n).filter (fun i => s.maskBit c.m i && decide (at_ i ≤ x ∧ x < at_ i + z))
    (∀ i, i < n → s.maskBit c.m i = true → fits s (at_ i) z ∧ badPartly s.core.badScratch (at_ i) z = false ∧ quiet s .store (at_ i) z) →
    ∃ t, exec e.1 s = .next t ∧ alone s t ∧
      t.core = { s.core with scratch := t.core.scratch, badScratch := t.core.badScratch, passes := t.core.passes, shadows := t.core.shadows,
                             vfly := t.core.vfly, meshRecv := t.core.meshRecv } ∧
      (∀ x, sp t x = match (writers x).getLast? with
        | none => sp s x
        | some i => (s.vsrc d i).extractLsb' (8 * (x - at_ i)) 8) ∧
      (∀ dir, SMap.get [] t.core.meshRecv dir = (SMap.get [] s.core.meshRecv dir).drop (if dir ∈ s.dirs e.2.1 then 1 else 0)) ∧
      (s.core.passes = [] → t.core.passes = [])

namespace Sys2Proof.Says

/-! ### The T slot -/

/-- A T instruction writes rows of a tile register: whole rows of 128 bytes, exponents, and flags that arrive after its latency; the errors of
the rows written, and of exponents where all are written, are cleared, and nothing else changes (R180, R183). -/
def setsT (s t : State) (d : Reg3) (row : Nat → Option (Nat → Byte)) (ex : Nat → Option Byte) (lat : Nat) (fl : Flags) : Prop :=
  alone s t ∧
    t.core = { s.core with regs := { s.core.regs with t := t.core.regs.t, texp := t.core.regs.texp }, badTile := t.core.badTile,
                           flagQ := t.core.flagQ, tfly := t.core.tfly } ∧
    t.core.flagQ = (if fl = 0 then s.core.flagQ else s.core.flagQ ++ [(s.core.beats + lat, fl)]) ∧
    (∀ q r i, r < 64 → i < 128 → laterT t q r i = if q = d then ((row r).map (fun f => f i)).getD (laterT s q r i) else laterT s q r i) ∧
    (∀ q r, r < 64 → laterE t q r = if q = d then (ex r).getD (laterE s q r) else laterE s q r) ∧
    ∀ u, u ∈ t.core.badTile ↔ u ∈ s.core.badTile ∧ ¬(u / 1024 = d.toNat ∧ (row (u / 16 % 64)).isSome = true) ∧
      ¬(u / 8 = 1024 + d.toNat ∧ ∀ r, r < 64 → (ex r).isSome = true)

/-- The first `n` bytes of a row of a tile hold no uncorrectable unit (R180). -/
def rowSound (s : State) (t : Reg3) (r n : Nat) : Prop := ∀ u ∈ s.core.badTile, ¬(u / 16 = 64 * t.toNat + r ∧ 8 * (u % 16) < n)
/-- The unit of eight exponents that holds the one of a row is no uncorrectable one. -/
def expSound (s : State) (t : Reg3) (r : Nat) : Prop := 8192 + 8 * t.toNat + r / 8 ∉ s.core.badTile

/-- An access of the T slot to `n` bytes at `x` with alignment `al` can be made. -/
def reaches (s : State) (x n al : Nat) : Prop := x % al = 0 ∧ x + n ≤ s.spEnd s.cur
/-- The bytes at `x` can be read: none is uncorrectable, in the destination of a pass, or in a race. -/
def readable (s : State) (x n : Nat) : Prop := badIn s.core.badScratch x n = false ∧ settled s x n ∧ quiet s .load x n

/-- A byte of a tile row as the row in hand reads it. -/
def tileByte (s : State) (t : Reg3) (r i : Nat) : Byte := (s.core.tileRow t r 128).getD i 0

/-- The address of row r of a `TLD` or `TST` (R184). -/
def rowAddr (s : State) (a b : Reg) (u r : Nat) : Nat :=
  (s.core.rdS a + BitVec.ofNat 64 r * (if s.core.rdS b = 0 then BitVec.ofNat 64 u else s.core.rdS b)).toNat

/-- A BFP row in scratchpad does not fit the shape: a malformed header, another length or another width (R184). -/
def badBurst (s : State) (h : Shape) (x : Nat) : Prop :=
  let w := BitVec.ofNat 32 (Memory.load s.core.scratch x 4)
  (bfpHeader w).bad = true ∨ (bfpHeader w).length ≠ h.cols ∨ (bfpHeader w).wm2 ≠ h.wm2

/-- The bytes that a `TST` gives row r (R184). -/
def rowImage (s : State) (d : Reg3) (h : Shape) (r i : Nat) : Byte :=
  if h.code < 3 then tileByte s d r i
  else if i < 4 then
    (BitVec.ofNat 32 ((s.core.tileExp d r).toNat * 2 ^ 24 + h.cols * 2 ^ 8 + h.wm2 * 2 ^ 5 + (if r + 1 = h.rows then 1 else 0))).extractLsb'
      (8 * i) 8
  else if i < 4 + h.cols then tileByte s d r (i - 4) else 0

/-- A field of the window descriptor at `x` (R186). -/
def winField (s : State) (x off n : Nat) : Nat := Memory.load s.core.scratch (x + off) n
/-- The limits of a window descriptor for elements of `z` bytes (R186). -/
def winOk (s : State) (x z : Nat) : Prop :=
  winField s x 0x0E 2 = 0 ∧ winField s x 0x16 2 = 0 ∧ winField s x 0x1E 2 = 0 ∧ winField s x 0x24 28 = 0 ∧ 1 ≤ winField s x 0x1A 1 ∧
    1 ≤ winField s x 0x1B 1 ∧ 1 ≤ winField s x 0x0A 2 ∧ 1 ≤ winField s x 0x0C 2 ∧ 1 ≤ winField s x 0x08 2 ∧ winField s x 0x10 4 % z = 0
/-- Window row p lies beyond the last image. -/
def winBeyond (s : State) (x p : Nat) : Prop := winField s x 0x08 2 ≤ p / (winField s x 0x0A 2 * winField s x 0x0C 2)
/-- Where window row p lies in scratchpad: none for padding (R186). -/
def winAddr (s : State) (x z p : Nat) : Option Nat :=
  let f := winField s x
  let oh := f 0x0A 2
  let ow := f 0x0C 2
  let b := p / (oh * ow)
  let iy : Int := ((p % (oh * ow) / ow * f 0x1A 1 + f 0x18 1 : Nat) : Int) - (f 0x1C 1 : Nat)
  let ix : Int := ((p % ow * f 0x1B 1 + f 0x19 1 : Nat) : Int) - (f 0x1D 1 : Nat)
  if f 0x08 2 ≤ b ∨ iy < 0 ∨ (f 0x04 2 : Int) ≤ iy ∨ ix < 0 ∨ (f 0x06 2 : Int) ≤ ix then none
  else some (f 0x00 4 + ((b * f 0x04 2 + iy.toNat) * f 0x06 2 + ix.toNat) * f 0x10 4 + f 0x14 2 * z)

/-- Shapes between which `TTRN` transposes (R188). -/
def transposes (s : State) (d a : Reg3) : Prop :=
  let ha := s.core.shape a
  let hd := s.core.shape d
  ha.legal = true ∧ hd.legal = true ∧ ha.code < 3 ∧ hd.code = ha.code ∧ hd.rows = ha.cols ∧ hd.cols = ha.rows ∧ (d ≠ a ∨ ha.rows = ha.cols)

/-- The forms of `TMMA`: kind 0 BF16, 1 BFP, 2 INT8, and whether C is overwritten (R190). -/
def tmmas : List ((Reg → Reg3 → Reg3 → Instr) × Nat × Bool) :=
  [(.tmmaBf16, 0, false), (.tmmaBfp, 1, false), (.tmmaI8, 2, false), (.tmmaBf16W, 0, true), (.tmmaBfpW, 1, true), (.tmmaI8W, 2, true)]
/-- A tile has the shape that a kind of `TMMA` takes (R190). -/
def tmmaFits (s : State) (kind : Nat) (t : Reg3) : Prop :=
  let h := s.core.shape t
  h.legal = true ∧ h.code = (if kind = 0 then 1 else if kind = 1 then 3 else 0) ∧ h.cols = (if kind = 0 then 32 else if kind = 1 then 128 else 64) ∧
    16 ≤ h.rows

/-- The faults of the T slot. -/
def tFault (s : State) (x : Nat) : CoreFault := { code := 0x20, row := s.core.pos.row, elem := 0, slot := 2, addr := BitVec.ofNat 64 x }

/-- The word of a set, a column and a lane of the ternary accumulators, as it stands for later rows. -/
def laterX (s : State) (set col lane : Nat) : W32 := SMap.get 0 s.core.regs.x (set * 2048 + col * 16 + lane)
/-- No open `PMAT` is bound to the active set; for `XCLR` and `XLOAD` of user code no parked one either (R267). -/
def setFree (s : State) (parked : Bool) : Prop :=
  ∀ e ∈ s.core.passes, (e.2.kind = .matWrite ∨ e.2.kind = .matAccum) → e.2.set = s.core.src.xsel.toNat →
    e.2.st = .idle ∨ (e.2.st = .parked ∧ parked = false)
/-- The context tag that a core gives a set: an anchor's is 0 (R251). -/
def ownTag (s : State) : Byte := if s.sup then 0 else s.core.ctx

end Sys2Proof.Says

/-- R184: `TLD` loads the rows of its shape, each filled up with zeros; a BFP row that does not fit gives exponent 0xFF, zeros and BFPHDR. -/
def Obligations.TileLoad : Prop :=
  ∀ (s : State) (d : Reg3) (a b : Reg),
    let h := s.core.shape d
    let x := rowAddr s a b h.u
    h.legal = true → (∀ r, r < h.rows → reaches s (x r) h.u h.align ∧ readable s (x r) h.u ∧ (h.code = 3 → expSound s d r)) →
    ∃ t fl, exec (.tld d a b) s = .next t ∧
      (fl = 0 ∨ fl = fBFPHDR) ∧ (fl = fBFPHDR ↔ h.code = 3 ∧ ∃ r, r < h.rows ∧ badBurst s h (x r)) ∧
      ∃ row ex, setsT s t d row ex ((h.rows * h.u + 255) / 256 + 4) fl ∧
        ∀ r, r < 64 →
          (h.rows ≤ r → row r = none ∧ ex r = none) ∧
          (r < h.rows → h.code < 3 → row r = some (fun i => if i < h.u then sp s (x r + i) else 0) ∧ ex r = none) ∧
          (r < h.rows → h.code = 3 → badBurst s h (x r) → row r = some (fun _ => 0) ∧ ex r = some 0xFF) ∧
          (r < h.rows → h.code = 3 → ¬badBurst s h (x r) →
            row r = some (fun i => if i < h.cols then sp s (x r + 4 + i) else 0) ∧ ex r = some (sp s (x r + 3)))

/-- R184: `TST` stores the rows of its shape, a later row over an earlier one; with BFP each row has its header. -/
def Obligations.TileStore : Prop :=
  ∀ (s : State) (d : Reg3) (a b : Reg),
    let h := s.core.shape d
    let x := rowAddr s a b h.u
    let writers := fun (y : Nat) => (List.range h.rows).filter (fun r => decide (x r ≤ y ∧ y < x r + h.u))
    h.legal = true →
    (∀ r, r < h.rows → reaches s (x r) h.u h.align ∧ badPartly s.core.badScratch (x r) h.u = false ∧ quiet s .store (x r) h.u ∧
      rowSound s d r (if h.code = 3 then h.cols else h.u) ∧ (h.code = 3 → expSound s d r)) →
    ∃ t, exec (.tst d a b) s = .next t ∧ alone s t ∧
      t.core = { s.core with scratch := t.core.scratch, badScratch := t.core.badScratch, passes := t.core.passes, shadows := t.core.shadows,
                             tfly := t.core.tfly } ∧
      (s.core.passes = [] → t.core.passes = []) ∧
      ∀ y, sp t y = match (writers y).getLast? with
        | none => sp s y
        | some r => rowImage s d h r (y - x r)

/-- R185, R186: `TWIN` loads the rows of a convolution window: pixels from scratchpad, and padding elements outside the image. -/
def Obligations.TileWindow : Prop :=
  ∀ (s : State) (d : Reg3) (a b : Reg),
    let h := s.core.shape d
    let x := (s.core.rdS a).toNat
    let p0 := (s.core.rdS b).toNat
    h.legal = true → h.code < 3 → reaches s x 64 64 → readable s x 64 → winOk s x h.z →
    (∀ r y, r < h.rows → winAddr s x h.z (p0 + r) = some y → reaches s y h.u h.z ∧ readable s y h.u) →
    ∃ t fl, exec (.twin d a b) s = .next t ∧
      (fl = 0 ∨ fl = fWBATCH) ∧ (fl = fWBATCH ↔ ∃ r, r < h.rows ∧ winBeyond s x (p0 + r)) ∧
      setsT s t d (fun r => if r < h.rows then some (fun i => if i < h.u then
          (match winAddr s x h.z (p0 + r) with | some y => sp s (y + i) | none => sp s (x + 0x20 + i % h.z)) else 0) else none)
        (fun _ => none) ((h.rows * h.u + 255) / 256 + 4) fl

/-- R187 to R189: zeroing a tile, transposing one (with its word, latency and busy period, and the shapes it refuses), and moving a row between a
tile and a vector register. -/
def Obligations.TileMoves : Prop :=
  ∀ (s : State) (d a : Reg3) (v b : Reg),
    let r := (s.core.rdS b).toNat
    encode (.ttrn d a) = some (.t, wT 0x06#6 (0#2 ++ d) (0#2 ++ a) 0#5 0#6, 0#32) ∧ figures (.ttrn d a) = some (12, 8) ∧
    (¬transposes s d a → ∃ t, exec (.ttrn d a) s = .next t ∧ faults s t (tFault s 0)) ∧
    (∃ t, exec (.tzero d) s = .next t ∧ setsT s t d (fun _ => some (fun _ => 0)) (fun _ => some 0) 0 0) ∧
    (let h := s.core.shape a
     transposes s d a → (∀ r, r < h.rows → rowSound s a r h.u) →
      ∃ t, exec (.ttrn d a) s = .next t ∧
        setsT s t d (fun c => if c < h.cols then some (fun i => if i < h.rows * h.z then tileByte s a (i / h.z) (c * h.z + i % h.z) else 0)
          else none) (fun _ => none) 12 0) ∧
    (r < 64 → ∃ t, exec (.tvrow d v b) s = .next t ∧
      setsT s t d (fun k => if k = r then some (fun i => (s.core.rdV v (i / 4)).extractLsb' (8 * (i % 4)) 8) else none) (fun _ => none) 0 0) ∧
    (r < 64 → rowSound s a r 128 → ∃ t, exec (.trowv v a b) s = .next t ∧ alone s t ∧
      t.core = { s.core with regs := { s.core.regs with v := t.core.regs.v } } ∧
      ∀ q i, i < 64 → laterV t q i = if q = v ∧ i < 32 then
        BitVec.ofNat 32 (leNat [tileByte s a r (4 * i), tileByte s a r (4 * i + 1), tileByte s a r (4 * i + 2), tileByte s a r (4 * i + 3)])
      else laterV s q i)

/-- R190 to R192: a `TMMA` latches its operands as it issues; its work is handed over after 4 ticks, or as many as the wider mantissa has bits
for BFP. -/
def Obligations.MatrixIssue : Prop :=
  ∀ m ∈ tmmas, ∀ (s : State) (a : Reg) (d e : Reg3), tmmaFits s m.2.1 d → tmmaFits s m.2.1 e → reaches s (s.core.rdS a).toNat 1024 64 →
    (∀ t ∈ [d, e], ∀ r, r < 16 → rowSound s t r (if m.2.1 = 1 then 128 else 64) ∧ (m.2.1 = 1 → expSound s t r)) → quiet s .store (s.core.rdS a).toNat 1024 →
    ∃ t j, exec (m.1 a d e) s = .next t ∧ alone s t ∧
      t.core = { s.core with tmma := s.core.tmma ++ [j], shadows := t.core.shadows } ∧
      j.row = s.core.pos.row ∧ j.kind = m.2.1 ∧ j.write = m.2.2 ∧ j.addr = (s.core.rdS a).toNat ∧ j.handed = false ∧ j.fp = s.core.src.fpctl ∧
      j.busy = (if m.2.1 = 1 then max (s.core.shape d).wm2 (s.core.shape e).wm2 + 2 else 4) ∧ j.due = some (s.tick + j.busy) ∧
      ∀ r i, r < 16 → i < 128 → j.a.getD (128 * r + i) 0 = tileByte s d r i ∧ j.b.getD (128 * r + i) 0 = tileByte s e r i ∧
        j.ea.getD r 0 = s.core.tileExp d r ∧ j.eb.getD r 0 = s.core.tileExp e r

/-- R39, R42, R43, R49, R50, R190 to R192, R306: work whose run is over is handed to the bank adders; one that the check refuses is run again, a tick later
than its length; a rerun that passes is handed over, and refused twice it raises `TILECHK`. A word of C takes the exact sum of the products, added
to its old value or in its place: modulo 2^32 for INT8, and rounded once, in the mode of issue, for BF16 and BFP, where a NaN or a NaN gauge gives NaN;
a row of C is 16 such words. An access that comes later in issue order finds them. -/
def Obligations.MatrixResults : Prop :=
  (∀ (s : State) (die : DieNo) (core : CoreNo) (n due : Nat) (j : TmmaJob),
    let k := coreKey die core
    let c := s.coreAt k
    c.nextTmma = some (n, j) → j.due = some due → due ≤ (s.dieAt die.toNat).tick →
    (c.tileUpset = none → exec (.tmmaHandover die core) s = .next (s.setCoreAt k { c with tmma := c.tmma.set n { j with handed := true } })) ∧
    (∀ m x y, c.tileUpset = some (m, x, y) → 0 < m → j.runs = 0 →
      exec (.tmmaHandover die core) s =
        .next (s.setCoreAt k { c with tmma := c.tmma.set n { j with runs := 1, due := some (due + j.busy + 1) }, held := 9 })) ∧
    (∀ m x y, c.tileUpset = some (m, x, y) → m ≤ j.runs →
      exec (.tmmaHandover die core) s =
        .next (s.setCoreAt k { c with tmma := c.tmma.set n { j with handed := true }, tileUpset := none })) ∧
    (∀ m x y, c.tileUpset = some (m, x, y) → 1 < m → j.runs = 1 → c.fault = none →
      ∃ t, exec (.tmmaHandover die core) s = .next t ∧
        (t.coreAt k).fault = some { code := 0x23, row := j.row, elem := BitVec.ofNat 64 (16 * x + y), slot := 2, addr := 0 } ∧
        (t.coreAt k).tmma = c.tmma.eraseIdx n)) ∧
  (∀ (j : TmmaJob) (i c old : Nat), i < 16 → c < 16 → old < 2 ^ 32 →
    let md := fpModeOf j.fp
    let adds := fun (p : Nat × Flags) => j.newC i c old =
      if j.write = true then p else ((fpAdd f32 md old p.1).1, p.2 ||| (fpAdd f32 md old p.1).2)
    (j.kind = 2 →
      let x := fun (t : List Byte) (r k : Nat) => (t.getD (128 * r + k) 0).toInt
      (((j.newC i c old).1 : Nat) : Int) = ((if j.write then 0 else (old : Int)) + ∑ k ∈ Finset.range 64, x j.a i k * x j.b c k) % 2 ^ 32 ∧
        (j.newC i c old).2 = 0) ∧
    (j.kind = 0 →
      let x := fun (t : List Byte) (r k : Nat) => (t.getD (128 * r + 2 * k) 0).toNat + 256 * (t.getD (128 * r + 2 * k + 1) 0).toNat
      let sum := ∑ k ∈ Finset.range 32, unitsIn bf16 md.ftz (x j.a i k) * unitsIn bf16 md.ftz (x j.b c k)
      ((∀ k, k < 32 → finIn bf16 (x j.a i k) ∧ finIn bf16 (x j.b c k)) → ∃ zero p, roundsInt f32 md sum 117 zero p ∧ adds p) ∧
      ((∃ k, k < 32 ∧ (nanIn bf16 (x j.a i k) ∨ nanIn bf16 (x j.b c k))) → ∃ fl, adds (0x7FC00000, fl))) ∧
    (j.kind = 1 →
      let x := fun (t : List Byte) (w r k : Nat) => ((t.getD (128 * r + k) 0).setWidth (w + 2)).toInt
      let e := (j.ea.getD i 0).toNat + (j.eb.getD c 0).toNat
      let sum := ∑ k ∈ Finset.range 128, x j.a j.wa i k * x j.b j.wb c k
      (j.ea.getD i 0 ≠ 0xFF → j.eb.getD c 0 ≠ 0xFF → ∃ p, roundsInt f32 md (sum * 2 ^ (e - 105)) (105 - e) false p ∧ adds p) ∧
      (j.ea.getD i 0 = 0xFF ∨ j.eb.getD c 0 = 0xFF → adds (0x7FC00000, 0)))) ∧
  (∀ (s : State) (k i : Nat) (j : TmmaJob), i < 16 → j.write = true ∨ badIn (s.coreAt k).badScratch (j.addr + 64 * i) 64 = false →
    let t := (applyRow k j s i).1
    let x := j.addr + 64 * i
    let old := (s.coreAt k).scratch
    let word := fun (n : Nat) => (j.newC i n (Memory.load old (x + 4 * n) 4)).1
    (∀ y, Memory.byte (t.coreAt k).scratch y = if x ≤ y ∧ y < x + 64 then BitVec.ofNat 8 (word ((y - x) / 4) / 256 ^ ((y - x) % 4)) else Memory.byte old y) ∧
      t.segs = s.segs ∧ t.dies = s.dies ∧ t.mod = s.mod ∧ ∀ q, q ≠ k → t.coreAt q = s.coreAt q) ∧
  ∀ (c : Core), (c.tmma.filter (fun j => j.due.isSome) = [] → c.settled = c) ∧
    ∀ j, c.tmma.filter (fun j => j.due.isSome) = [j] → j.rows = [] → (∀ i, j.write = true ∨ badIn c.badScratch (j.addr + 64 * i) 64 = false) →
      ∀ y, Memory.byte c.settled.scratch y = if j.addr ≤ y ∧ y < j.addr + 1024 then
        BitVec.ofNat 8 ((j.newC ((y - j.addr) / 64) ((y - j.addr) % 64 / 4) (Memory.load c.scratch (j.addr + (y - j.addr) / 4 * 4) 4)).1 / 256 ^ ((y - j.addr) % 4))
        else Memory.byte c.scratch y

/-- R251, R266, R267: the accumulator sets of the ternary array are zeroed, swapped, saved and loaded; a set of another context is saved as
zeros. -/
def Obligations.AccumulatorSets : Prop :=
  ∀ (s : State) (a : Reg),
    let set := s.core.src.xsel.toNat
    let x := (s.core.rdS a).toNat
    let tag := if set = 0 then s.core.src.xtag0 else s.core.src.xtag1
    let tagged := fun (t : State) => t.core.regs.xtag0 = (if set = 0 then ownTag s else s.core.regs.xtag0) ∧
      t.core.regs.xtag1 = if set = 0 then s.core.regs.xtag1 else ownTag s
    (setFree s (!s.sup) → ∃ t, exec .xclr s = .next t ∧ alone s t ∧
      t.core = { s.core with regs := { s.core.regs with x := t.core.regs.x, xtag0 := t.core.regs.xtag0, xtag1 := t.core.regs.xtag1 } } ∧
      tagged t ∧ ∀ q c l, c < 128 → l < 16 → laterX t q c l = if q = set then 0 else laterX s q c l) ∧
    (∃ t, exec .xswap s = .next t ∧ alone s t ∧
      t.core = { s.core with regs := { s.core.regs with xsel := BitVec.ofNat 1 (1 - set) } }) ∧
    (reaches s x 8192 64 → setFree s false → quiet s .store x 8192 →
      ∃ t, exec (.xsave a) s = .next t ∧ alone s t ∧
        t.core = { s.core with scratch := t.core.scratch, badScratch := t.core.badScratch, passes := t.core.passes, shadows := t.core.shadows,
                               tfly := t.core.tfly } ∧
        (∀ y, ¬(x ≤ y ∧ y < x + 8192) → sp t y = sp s y) ∧
        ∀ l c i, l < 16 → c < 128 → i < 4 → sp t (x + 512 * l + 4 * c + i) =
          if tag = ownTag s then (SMap.get 0 s.core.src.x (set * 2048 + c * 16 + l)).extractLsb' (8 * i) 8 else 0) ∧
    (reaches s x 8192 64 → setFree s (!s.sup) → readable s x 8192 →
      ∃ t, exec (.xload a) s = .next t ∧ alone s t ∧
        t.core = { s.core with regs := { s.core.regs with x := t.core.regs.x, xtag0 := t.core.regs.xtag0, xtag1 := t.core.regs.xtag1 },
                               tfly := t.core.tfly } ∧
        tagged t ∧ ∀ q c l, c < 128 → l < 16 → laterX t q c l =
          if q = set then BitVec.ofNat 32 (Memory.load s.core.scratch (x + 512 * l + 4 * c) 4) else laterX s q c l)

namespace Sys2Proof.Says

/-! ### Control -/

/-- Only the core whose instructions run has changed, to this. -/
def becomes (s t : State) (c : Core) : Prop := alone s t ∧ t.core = c

/-- A row is a legal target of `JMPR` (R104, R142): below ROWS, and an ITGT row or the row after a `CALL`. -/
def jumpTarget (s : State) (r : Nat) : Prop :=
  r < s.core.rows ∧ ((s.core.rowAt r).itgt = true ∨ (0 < r ∧ s.core.isCallRow (r - 1) = true))

/-- The pass after an `EXIT`: a parked one is cancelled (R145, R244). -/
def exited (p : Pass) : Pass := if p.st = .parked then { p with st := .closing, closeIn := 4, err := true, cancelled := true, trap := none } else p

/-- A pass that a `MAPFENCE` waits for still rides: that of a core and slot, or, under the number 31, one of the supervisor passes over the save
region of a die, by its place in their opening order (R216, R368). -/
def stillOn (s : State) (e : Nat × Nat) : Bool :=
  if keyNo e.1 = 31 then (s.dieAt (keyDie e.1)).region.any (fun j => decide (j.left ≠ 0) && decide (j.seq = e.2))
  else decide (((s.coreAt e.1).pass e.2).st = .riding) && decide (((s.coreAt e.1).pass e.2).closeIn = 0)

/-- The passes that a `MAPFENCE` covers: those that rode as its row first fell due, and still ride (R216). -/
def covered (s : State) : List (Nat × Nat) :=
  match s.core.mapfence with
  | none => ridingOn s s.die
  | some l => l.filter (stillOn s)

/-- Bits of field `f` of a descriptor (R23). -/
def fieldBits (f : Nat) : Nat := [16, 8, 8, 32, 32, 32, 32, 64, 64, 8, 16, 32, 32].getD f 0

/-- Control registers that read from what the state holds: number and value (R110). -/
def controls (s : State) : List (Nat × Word) :=
  let c := s.core
  let n := fun (x : Nat) => BitVec.ofNat 64 x
  let bit := fun (b : Bool) (i : Nat) => if b then 2 ^ i else 0
  [(0x000, n c.lcore), (0x001, n c.ncores), (0x002, n c.diegrp), (0x004, c.lid.setWidth 64), (0x005, c.ctx.setWidth 64), (0x008, c.pos.beat),
   (0x009, n s.tick), (0x00A, n (s.dieAt s.die).ptick), (0x00B, n (s.tick - (s.dieAt s.die).ptick)), (0x00C, n (s.wallAt s.die / 2 ^ 32)),
   (0x050, c.src.fpctl.setWidth 64), (0x051, c.fpflags.setWidth 64), (0x060, c.rngkey0), (0x061, c.rngkey1),
   (0x080, n (bit c.trap.en 63 + c.trap.vec.toNat)), (0x081, n (bit c.trap.inh 16 + c.trap.cls.toNat * 2 ^ 8 + c.trap.code.toNat)),
   (0x082, c.trap.row.setWidth 64), (0x083, c.trap.elem),
   (0x084, n (c.trap.svc.toNat * 2 ^ 16 + bit c.trap.dlv 13 + c.trap.req.toNat * 2 ^ 8 + c.trap.slot.toNat)),
   (0x0A0, n (c.arr.toNat * 2 ^ 16 + c.ph.toNat)), (0x200, n (c.raceCount.toNat * 2 ^ 32 + bit c.raceLost 2 + c.racemode.toNat)),
   (0x201, n (c.raceNext.toNat * 2 ^ 48 + c.raceSize.toNat * 2 ^ 40 + c.raceBase.toNat * 2 ^ 5))]

/-- Control registers that a program writes and reads back: number and the bits that it can set (R110). -/
def writables : List (Nat × Word) :=
  [(0x048, 0x737F3F), (0x049, 0x737F3F), (0x04A, 0x737F3F), (0x04B, 0x737F3F), (0x04C, 0x737F3F), (0x04D, 0x737F3F), (0x04E, 0x737F3F),
   (0x04F, 0x737F3F), (0x050, 7), (0x060, 0xFFFFFFFFFFFFFFFF), (0x061, 0xFFFFFFFFFFFFFFFF), (0x080, 0x8000000000003FFF), (0x201, 0xF00007FFFE0)]
/-- Control registers that a write leaves alone (R110). -/
def readOnly : List Nat :=
  [0x000, 0x001, 0x002, 0x003, 0x004, 0x005, 0x008, 0x009, 0x00A, 0x00B, 0x00C, 0x00D, 0x00E, 0x00F, 0x010, 0x020, 0x03F, 0x040, 0x041, 0x070,
   0x081, 0x082, 0x083, 0x084, 0x0A0]
/-- Control registers of supervisor code (R111). -/
def supervisorOnly : List Nat := [0x003, 0x090, 0x300, 0x310, 0x311, 0x320]

end Sys2Proof.Says

/-- R127, R142 to R145, R244: where the control transfers of the S slot go, and that they change nothing but the target and their register; `EXIT`
ends the issue of rows and cancels the parked passes. -/
def Obligations.ControlTransfer : Prop :=
  ∀ (s : State) (g : Guard) (p : Reg3) (neg : BitVec 1) (off : BitVec 22) (d a : Reg) (imm : BitVec 16),
    let to_ := fun (o : Int) => ((s.core.pos.row : Int) + o).toNat
    (∃ t, exec (.br p neg off) s = .next t ∧
      becomes s t (if s.core.rdP p != (neg == 1) then { s.core with jump := some (to_ off.toInt) } else s.core)) ∧
    (∃ t, exec (.jmp off) s = .next t ∧ becomes s t { s.core with jump := some (to_ off.toInt) }) ∧
    (∃ t, exec (.call off) s = .next t ∧ alone s t ∧
      t.core = { s.core with jump := some (to_ off.toInt), regs := { s.core.regs with s := t.core.regs.s } } ∧
      ∀ r, laterS t r = if r = 31 then BitVec.ofNat 64 (s.core.pos.row + 1) else laterS s r) ∧
    (∃ t, exec (.loop d imm) s = .next t ∧ alone s t ∧
      t.core = { s.core with jump := if s.core.rdS d = 1 then s.core.jump else some (to_ imm.toInt),
                             regs := { s.core.regs with s := t.core.regs.s } } ∧
      ∀ r, laterS t r = if r = d ∧ r ≠ 0 then s.core.rdS d - 1 else laterS s r) ∧
    (s.core.guardOn g = true → jumpTarget s (s.core.rdS a).toNat →
      ∃ t, exec (.jmpr g a) s = .next t ∧ becomes s t { s.core with jump := some (s.core.rdS a).toNat }) ∧
    (s.core.guardOn g = true → ¬jumpTarget s (s.core.rdS a).toNat →
      ∃ t, exec (.jmpr g a) s = .next t ∧
        faults s t { code := 0x26, row := s.core.pos.row, elem := s.core.rdS a, slot := 0, addr := 0 }) ∧
    ∃ t, exec .exit s = .next t ∧ alone s t ∧
      t.core = { s.core with run := .exiting, ret := none, lastBeat := s.core.pos.beat, passes := t.core.passes } ∧
      ∀ n, t.core.pass n = exited (s.core.pass n)

/-- R92, R126, R127: the row after a row that issues follows 1 + GAP beats later, and 3 more after a taken branch; a delay row does nothing
else. -/
def Obligations.RowsFollow : Prop :=
  ∀ (s : State) (gap : Byte), s.core.run = .running → s.core.ret = none → s.core.moved = false →
    let n := gap.toNat + (if s.core.jump.isSome then 3 else 0)
    ∃ t, exec (.delayRow gap) s = .next t ∧ alone s t ∧ t.core.pos.pend = n ∧ t.core.pos.beat = s.core.pos.beat + 1 + BitVec.ofNat 64 n ∧
      t.core.pos.row = s.core.jump.getD (s.core.pos.row + 1) ∧ t.core.lastBeat = s.core.pos.beat ∧ t.core.lastRow = s.core.pos.row ∧
      t.core.regs = s.core.regs ∧ t.core.scratch = s.core.scratch ∧ t.core.passes = s.core.passes ∧ t.core.run = s.core.run ∧
      t.core.trap = s.core.trap

/-- R23, R27, R147: `TDW` writes a field of a descriptor of the core's context, whose VALID follows its fields, and `TDR` reads one; VALID of the
descriptors that have it as their scale follows as the next tick begins. On an anchor `TDW` writes nothing and `TDR` gives 0, and neither raises a
fault. -/
def Obligations.Descriptors : Prop :=
  (∀ (s : State) (g : Guard) (d a b : Reg) (f : BitVec 6), s.core.guardOn g = true →
    let i := (s.core.rdS a).toNat
    (i ≤ 255 → s.sup = false →
      (∃ t, exec (.tdw g a b f) s = .next t ∧ (∀ k, k ≠ s.cur → t.coreAt k = s.coreAt k) ∧ t.segs = s.segs ∧ t.dies = s.dies ∧
        t.core = { s.core with tdwDue := t.core.tdwDue } ∧ t.core.tdwDue ≤ max s.core.tdwDue (s.tick + 4) ∧
        t.mod = { s.mod with descs := t.mod.descs, descDue := t.mod.descDue } ∧ s.core.ctx ∈ t.mod.descDue ∧
        ∀ (c : Byte) (j : Nat), j ≤ 255 → t.desc c j = if c = s.core.ctx ∧ j = i then
          { (s.desc c j).put f.toNat (s.core.rdS b) with valid := ((s.desc c j).put f.toNat (s.core.rdS b)).isValid (t.desc c) } else s.desc c j) ∧
      ∃ t, exec (.tdr g d a f) s = .next t ∧ setsS s t d ((s.desc s.core.ctx i).field (s.ordBit s.core.ctx i) f.toNat)) ∧
    (s.sup = true → exec (.tdw g a b f) s = .next s ∧ ∃ t, exec (.tdr g d a f) s = .next t ∧ setsS s t d 0) ∧
    (255 < i → s.sup = false → ∀ x ∈ [Instr.tdw g a b f, .tdr g d a f], ∃ t, exec x s = .next t ∧
      faults s t { code := 0x20, row := s.core.pos.row, elem := 0, slot := 0, addr := 0 })) ∧
  (∀ (x : Desc) (v : Word) (o : Bool) (n m : Nat), n ≤ 12 → m ≤ 12 →
    (x.put n v).field o m = if m = n then BitVec.ofNat 64 (v.toNat % 2 ^ fieldBits n) else x.field o m) ∧
  ∀ (m : Module) (c : Byte) (j : Nat), j ≤ 255 →
    let table := fun (i : Nat) => SMap.get {} m.descs (c.toNat * 256 + i)
    SMap.get {} m.settleDescs.descs (c.toNat * 256 + j) = if c ∈ m.descDue then { table j with valid := (table j).isValid table } else table j

/-- R110, R111, R148: `CRD` reads a control register; user mode reads those of supervisor code as 0. -/
def Obligations.ControlReads : Prop :=
  ∀ (s : State) (d : Reg) (cr : BitVec 11),
    (∃ t, exec (.crd d cr) s = .next t ∧ setsS s t d (s.crd cr.toNat)) ∧
    (∀ e ∈ controls s, s.crd e.1 = e.2) ∧
    (s.sup = false → ∀ n ∈ supervisorOnly, s.crd n = 0)

/-- R5, R38, R39, R82, R110, R111, R148, R149, R223, R251, R315: `CWR` sets the bits of a register that can be written, a later row reads them, and
read-only registers and those of supervisor code in user mode stay; the writes that have effects of their own, each by itself. That a `CWR` of
supervisor code to 0x003 PCORE changes nothing, as R82 says of PCORE, where R111 calls its kind writable, is the model's choice (log 47). -/
def Obligations.ControlWrites : Prop :=
  ∀ (s : State) (a : Reg) (hi : Bool) (w : Word),
    let v := s.core.rdS a
    (∀ e ∈ writables, ∃ t, exec (.cwr a (BitVec.ofNat 11 e.1)) s = .next t ∧ t.beginRow.crd e.1 = (v &&& e.2) ∧
      (∀ k, k ≠ s.cur → t.coreAt k = s.coreAt k) ∧ t.segs = s.segs ∧ t.dies = s.dies ∧ t.mod = s.mod ∧ t.core.scratch = s.core.scratch ∧
      t.core.regs.s = s.core.regs.s ∧ t.core.regs.v = s.core.regs.v ∧ t.core.passes = s.core.passes) ∧
    (∀ n ∈ readOnly, exec (.cwr a (BitVec.ofNat 11 n)) s = .next s) ∧
    (s.sup = false → ∀ n ∈ supervisorOnly, exec (.cwr a (BitVec.ofNat 11 n)) s = .next s) ∧
    (∃ t, exec (.cwr a 0x200) s = .next t ∧
      becomes s t { s.core with racemode := v.setWidth 2, raceLost := s.core.raceLost && !(v.getLsbD 2) }) ∧
    (s.sup = true →
      (∃ t, exec (.cwr a 0x300) s = .next t ∧
        becomes s t { s.core with mapCtx := v.extractLsb' 40 8, mapTable := v.getLsbD 16, mapIndex := v.setWidth 16 }) ∧
      (∃ t, exec (.cwr a 0x310) s = .next t ∧ becomes s t { s.core with scrubSel := v.extractLsb' 58 6 }) ∧
      (∃ t, exec (.cwr a 0x311) s = .next t ∧ becomes s t { s.core with ownSel := v.extractLsb' 58 6 }) ∧
      ∃ t, exec (.cwr a 0x320) s = .next t ∧ becomes s t { s.core with keySel := v.extractLsb' 58 6 }) ∧
    (∃ t, exec (.rngkeyWrite hi w) s = .next t ∧
      becomes s t { s.core with rngkey0 := if hi then s.core.rngkey0 else w, rngkey1 := if hi then w else s.core.rngkey1, sctr := 0, vctr := 0 }) ∧
    (∃ t, exec (.xctxWrite w) s = .next t ∧ becomes s t { s.core with regs := { s.core.regs with xsel := w.extractLsb' 24 1 } }) ∧
    (∃ t, exec (.racelogWrite w) s = .next t ∧
      becomes s t { s.core with raceBase := w.extractLsb' 5 18, raceSize := w.extractLsb' 40 4, raceNext := 0 }) ∧
    (∃ t, exec (.tagerrWrite w) s = .next t ∧ becomes s t { s.core with tagerr := s.core.tagerr &&& ~~~w }) ∧
    (∃ t, exec (.fpflagsWrite w) s = .next t ∧ becomes s t { s.core with fpflags := t.core.fpflags } ∧
      ((∀ e ∈ s.core.flagQ, e.1 ≠ s.core.beats) → s.core.arrived.1 ≠ s.tick → t.core.fpflags = w.setWidth 16 &&& 0xFE1F#16) ∧
      (w.setWidth 16 &&& 0xFE1F#16) &&& ~~~t.core.fpflags = 0) ∧
    exec (.cwr a 0x060) s = exec (.rngkeyWrite false (s.core.rdS a)) s ∧ exec (.cwr a 0x061) s = exec (.rngkeyWrite true (s.core.rdS a)) s ∧
    exec (.cwr a 0x0B0) s = exec (.xctxWrite (s.core.rdS a)) s ∧ exec (.cwr a 0x201) s = exec (.racelogWrite (s.core.rdS a)) s ∧
    exec (.cwr a 0x011) s = exec (.tagerrWrite (s.core.rdS a)) s ∧ exec (.cwr a 0x051) s = exec (.fpflagsWrite (s.core.rdS a)) s

namespace Sys2Proof.Says

/-! ### Traps, the halt line, supervisor code -/

/-- Nothing has changed but the core at a key, and on its die the queue of `PMAT` rows and the traps delivered (R263, R346). -/
def onlyAt (s t : State) (k : Nat) : Prop :=
  (∀ j, j ≠ k → t.coreAt j = s.coreAt j) ∧ t.segs = s.segs ∧ t.mod = s.mod ∧ t.cur = s.cur ∧ t.turns = s.turns ∧
    ∀ d, t.dieAt d = if d = keyDie k then
      { s.dieAt d with heatQ := (t.dieAt d).heatQ, reqs := (t.dieAt d).reqs, serving := (t.dieAt d).serving } else s.dieAt d

/-- A core stops at the boundary: its riding passes park without a trap at their next stitch, and with no operation in flight its registers and
its scratchpad stand (R131, R230). -/
def stopsAt (c v : Core) : Prop :=
  (∀ n, v.pass n = if (c.pass n).st = .riding ∧ (c.pass n).closeIn = 0 then
    { c.pass n with st := .parked, stopParked := true, page := none } else c.pass n) ∧
    (c.vfly = none → c.tfly = none → v.regs = c.regs ∧ v.scratch = c.scratch) ∧ v.ctx = c.ctx ∧ v.lid = c.lid ∧ v.seg = c.seg ∧
    v.rowStore = c.rowStore ∧ v.tags = c.tags ∧ v.tagerr = c.tagerr

/-- The trap registers as a trap sets them (R344). -/
def trapRegs (r : TrapRegs) (t : TrapReq) (from_ : Option Nat) : TrapRegs :=
  { r with inh := true, cls := t.cls, code := t.code, row := BitVec.ofNat 14 t.row, elem := t.elem, svc := t.svc, dlv := from_.isSome,
           req := BitVec.ofNat 5 (from_.getD 0), slot := BitVec.ofNat 3 t.slot }

/-- A core has entered its handler for a trap (R345). -/
def enters (s t : State) (k : Nat) (q : TrapReq) (from_ : Option Nat) : Prop :=
  let c := s.coreAt k
  let v := t.coreAt k
  stopsAt c v ∧ v.ret = some c.pos ∧ v.pos.row = c.trap.vec.toNat ∧ v.pos.beat = c.pos.beat ∧ v.pos.pend = 0 ∧
    v.trap = trapRegs c.trap q from_ ∧ v.hold = .entry ((s.dieAt (keyDie k)).tick + 4)

/-- The first row of a core's handler is an ITGT row of its row store. -/
def handlerGood (c : Core) : Prop := c.trap.vec.toNat < c.rows ∧ (c.rowAt c.trap.vec.toNat).itgt = true

/-- The words of a scrub: its core, its first byte and its bytes (R378). -/
def scrubGood (s : State) (n base len : Nat) : Prop :=
  n ≤ 25 ∧ base % 128 = 0 ∧ len % 128 = 0 ∧ len ≠ 0 ∧ base + len ≤ 8388608 ∧ (s.coreAt (s.die * 32 + n)).placed = false ∧
    (s.dieAt s.die).scrub.busy = false

/-- A pass of a context that moves host lines. -/
def unsentHost (p : Pass) (ctx : Byte) : Prop :=
  p.st ≠ .idle ∧ (p.kind = .hostIn ∨ p.kind = .hostOut) ∧ p.cancelled = false ∧ p.ctx = ctx ∧ ∃ l ∈ p.lines, l ∉ p.hostSeen
/-- No halt line on its way to a core that a test picks is further off than a new one may be (R348). -/
def haltsNear (s : State) (f : Nat → Core → Bool) : Prop :=
  ∀ e ∈ s.cores, f e.1 e.2 = true → ∀ h, e.2.halt = some h → h.at_ ≤ (s.dieAt (keyDie e.1)).tick + 40

/-- The stitches that a pass names are mapped for it: its check at open succeeds (R217). -/
def mapped (s : State) (p : Pass) : Prop :=
  ∀ v ∈ (stitchSet p.exts).map Prod.fst, ∃ r,
    (s.dieAt (keyDie p.seg)).checkOpen p.ctx.toNat (keyNo p.seg) (s.period p.seg) p.kind.need (128 * v) = .inr r

/-- Supervisor instructions, with some operands. -/
noncomputable def supervisorForms (g : Guard) (d a b : Reg) (o : PassOp) : List Instr :=
  [.eret g a b, .mapw g d a b, .haltctx g d a b, .ctxsv g d a b, .ctxrs g d a b, .keyz g d a, .scrub g d a b, .assign g d a b, .pzeroPhys o]

end Sys2Proof.Says

/-- R345, R346, R362, R365: `TRAP` of a compute core holds it and delivers its request to the anchor of its die, and `TRAP` of an anchor enters
its own handler at the next boundary; `ERET` ends the handler: the anchor goes on at its return position, and a `TRAP` that it answers takes the
value of its second operand. -/
def Obligations.TrapAndReturn : Prop :=
  ∀ (s : State) (g : Guard) (d a b : Reg) (imm : BitVec 16),
    let q : TrapReq := { code := 0x10, row := s.core.pos.row, elem := s.core.rdS a, svc := imm, tick := s.tick }
    (s.sup = false → ∃ t, exec (.trap d a imm) s = .next t ∧ onlyAt s t s.cur ∧ t.core = { s.core with hold := .trap d.toNat } ∧
      ∀ n, SMap.get none (t.dieAt s.die).reqs n = if n = keyNo s.cur then some q else SMap.get none (s.dieAt s.die).reqs n) ∧
    (s.sup = true → ∃ t, exec (.trap d a imm) s = .next t ∧ becomes s t { s.core with swtrap := some q, trapDst := d.toNat }) ∧
    (s.sup = true → s.core.guardOn g = true → s.core.trap.inh = false → exec (.eret g a b) s = .next s) ∧
    (s.sup = true → s.core.guardOn g = true → s.core.trap.inh = true → (∀ e, (s.dieAt s.die).serving = some e → e.1 < 26) →
      ∃ t, exec (.eret g a b) s = .next t ∧
        t.core.pos = s.core.ret.getD s.core.pos ∧ t.core.ret = none ∧ t.core.trap = { s.core.trap with inh := false } ∧ t.core.moved = true ∧
        t.core.hold = .none ∧ t.segs = s.segs ∧ t.mod = s.mod ∧
        (s.core.trap.dlv = true → (t.dieAt s.die).serving = none) ∧
        (s.core.trap.dlv = false → s.core.trap.code = 0x10 → s.core.vkept = none → s.core.tkept = none →
          ∀ r, laterS t r = if r.toNat = s.core.trapDst % 32 ∧ r ≠ 0 then s.core.rdS b else laterS s r) ∧
        ∀ x q r, s.core.trap.dlv = true → (s.dieAt s.die).serving = some (x, q) → q.code = 0x10 →
          (s.coreAt (s.die * 32 + x)).hold = .trap r → (s.core.rdS a).getLsbD 0 = false →
          (t.coreAt (s.die * 32 + x)).hold = .none ∧
            (t.coreAt (s.die * 32 + x)).beginRow.rdS (BitVec.ofNat 5 r) = if BitVec.ofNat 5 r = 0 then 0 else s.core.rdS b)

/-- R131, R230, R345, R346: a trap that a core takes into its own handler saves its position, sets the trap registers, and issues the handler's
first row 4 ticks later; any other is delivered: the core stops at its boundary, and its request waits for the anchor of its die. -/
def Obligations.TrapsTaken : Prop :=
  ∀ (s : State) (die : DieNo) (core : CoreNo) (q : TrapReq) (c : Core),
    let k := coreKey die core
    s.boundaryTrap k = some (q, c) →
    (ownTrap c k q = true → handlerGood c →
      ∃ t, exec (.trapEntry die core) s = .next t ∧ onlyAt s t k ∧ enters (s.setCoreAt k c) t k q none ∧ (t.coreAt k).fault = c.fault) ∧
    (ownTrap c k q = false →
      ∃ t, exec (.trapDelivery die core) s = .next t ∧ onlyAt s t k ∧ stopsAt c (t.coreAt k) ∧ (t.coreAt k).hold = .delivered ∧
        (t.coreAt k).pos = c.pos ∧ (t.coreAt k).trap = c.trap ∧
        ∀ n, SMap.get none (t.dieAt (keyDie k)).reqs n = if n = keyNo k then some q else SMap.get none (s.dieAt (keyDie k)).reqs n)

/-- R219, R345, R347: which trap a boundary takes: none in a handler of a compute core or once the halt line has arrived; else the oldest trap of a
core without a segment, then that of the lowest slot whose pass parked in an earlier tick, then the breakpoint, then the step. -/
def Obligations.TrapOrder : Prop :=
  ∀ (s : State) (k : Nat), isAnchor k = false →
    let c := s.coreAt k
    let now := (s.dieAt (keyDie k)).tick
    let waits := fun (e : Nat × Pass) => e.2.st = .parked ∧ e.2.trapAt < now ∧ e.2.trap ≠ none
    (c.passTrap now = none ↔ ∀ e ∈ c.passes, ¬waits e) ∧
    (∀ n p code no, c.passTrap now = some (n, p, code, no) → (n, p) ∈ c.passes ∧ waits (n, p) ∧ p.trap = some (code, no) ∧
      ((c.passes.map Prod.fst).Pairwise (· < ·) → ∀ e ∈ c.passes, waits e → n ≤ e.1)) ∧
    (c.trap.inh = true → s.boundaryTrap k = none) ∧
    (∀ h, c.halt = some h → h.at_ ≤ now → s.boundaryTrap k = none) ∧
    (c.run = .running → c.hold = .none → c.halt = none → c.trap.inh = false →
      (∀ row rest, c.segTrap = row :: rest →
        s.boundaryTrap k = some ({ code := 0x03, cls := 1, row := row, slot := 3, tick := now }, { c with segTrap := rest })) ∧
      (c.segTrap = [] → ∀ n p code no, c.passTrap now = some (n, p, code, no) → ∃ v, s.boundaryTrap k =
        some ({ code := code, cls := 1, row := p.row, elem := BitVec.ofNat 64 no, slot := 3, tick := now, pslot := some n }, v)) ∧
      (c.segTrap = [] → c.passTrap now = none → c.brken = true → c.pos.pend = 0 → c.brkTaken = false → (c.rowAt c.pos.row).brk = true →
        ∃ v, s.boundaryTrap k = some ({ code := 0x12, row := c.pos.row, elem := c.pos.beat, tick := now }, v)) ∧
      (c.segTrap = [] → c.passTrap now = none → c.brken = false → c.step = true → c.stepTaken = false →
        ∃ v, s.boundaryTrap k = some ({ code := 0x11, row := c.lastRow, elem := c.lastBeat, tick := now }, v)))

/-- R216, R346, R363 (the firmware of log 15): the oldest request of a die is one of the least tick, and among those of one tick that of
the lowest core; an anchor with a program of its own takes it into its handler; Boluno firmware answers
a `TRAP` of a service that it does not define with all ones, and the core goes on. A `MAPFENCE` that firmware has issued for a request that it serves
is over once the passes it waits for ride no more, and then the request is answered. -/
def Obligations.AnchorTakes : Prop :=
  ∀ (s : State) (die : DieNo) (x : Nat) (q : TrapReq),
    let d := die.toNat
    let k := d * 32 + 26
    let reqs := (s.dieAt d).reqs
    ((s.dieAt d).oldest = none ↔ ∀ e ∈ reqs, e.2 = none) ∧
    ((s.dieAt d).oldest = some (x, q) → (x, some q) ∈ reqs ∧ ∀ y r, (y, some r) ∈ reqs →
      q.tick ≤ r.tick ∧ ((reqs.map Prod.fst).Pairwise (· < ·) → r.tick = q.tick → x ≤ y)) ∧
    ((s.dieAt d).oldest = some (x, q) → s.anchorReady d = true → (s.dieAt d).fence = none →
      ((s.coreAt k).own = true → handlerGood (s.coreAt k) →
        ∃ t, exec (.anchorTakeRequest die) s = .next t ∧ onlyAt s t k ∧ enters s t k q (some x) ∧ (t.dieAt d).serving = some (x, q) ∧
          ∀ n, SMap.get none (t.dieAt d).reqs n = if n = x then none else SMap.get none (s.dieAt d).reqs n) ∧
      (∀ r : Reg, x < 26 → (s.coreAt k).own = false → q.due (d * 32 + x) ≤ (s.dieAt d).tick → q.code = 0x10 → 3 ≤ q.svc.toNat →
        (s.coreAt (d * 32 + x)).hold = .trap r.toNat →
        ∃ t, exec (.anchorTakeRequest die) s = .next t ∧ onlyAt s t (d * 32 + x) ∧ (t.coreAt (d * 32 + x)).hold = .none ∧
          (t.coreAt (d * 32 + x)).beginRow.rdS r = (if r = 0 then 0 else ~~~0#64) ∧
          SMap.get none (t.dieAt d).reqs x = none)) ∧
    ∀ (l : List (Nat × Nat)) (v : Word) (r : Reg), x < 26 → (s.dieAt d).fence = some (l, 0, v) → (s.dieAt d).serving = some (x, q) → q.code = 0x10 →
      (s.coreAt (d * 32 + x)).hold = .trap r.toNat →
      (∀ e ∈ l, stillOn s e = false) →
      ∃ t, exec (.anchorTakeRequest die) s = .next t ∧ (∀ j, j ≠ d * 32 + x → t.coreAt j = s.coreAt j) ∧ t.segs = s.segs ∧ t.mod = s.mod ∧
        t.dieAt d = { s.dieAt d with serving := none, fence := none } ∧ (t.coreAt (d * 32 + x)).hold = .none ∧
        (t.coreAt (d * 32 + x)).beginRow.rdS r = if r = 0 then 0 else v

/-- R348 to R350: the halt line reaches each core of the context on the die of the fault within 4 ticks, and each on another die within 40; at
a core its time is noted, the core stops after the skid, and the stop record is written where the anchor reads it. -/
def Obligations.HaltLine : Prop :=
  (∀ (s : State) (k j : Nat) (f : CoreFault), isAnchor k = false → isAnchor j = false → j ≠ k → (s.coreAt j).ctx = (s.coreAt k).ctx →
    (s.coreAt j).run.live = true → (s.coreAt j).halt = none →
    ∃ h, ((s.raiseAt k f).coreAt j).halt = some h ∧ h.suspend = false ∧ h.byReq = false ∧ h.stopped = false ∧
      (s.dieAt (keyDie j)).tick ≤ h.at_ ∧ h.at_ ≤ (s.dieAt (keyDie j)).tick + (if keyDie j = keyDie k then 4 else 40)) ∧
  ∀ (s : State) (die : DieNo) (core : CoreNo) (h : Halt),
    let k := coreKey die core
    let c := s.coreAt k
    let now := (s.dieAt die.toNat).tick
    c.halt = some h →
    (h.wall = none → h.at_ ≤ now →
      exec (.haltLine die core) s = .next (s.setCoreAt k { c with halt := some { h with wall := some (s.wallAt die.toNat) } })) ∧
    (∀ w, h.wall = some w → h.stopped = false → h.at_ + 3 ≤ now →
      ∃ t, exec (.haltLine die core) s = .next t ∧ onlyAt s t k ∧ stopsAt c (t.coreAt k) ∧
        (t.coreAt k).run = (if h.suspend then .suspended else .halted) ∧ (t.coreAt k).halt = some { h with stopped := true } ∧
        (t.coreAt k).pos = c.pos) ∧
    (∀ w, h.wall = some w → h.stopped = true → h.at_ + 12 ≤ now → core.toNat < 26 →
      ∃ t, exec (.haltLine die core) s = .next t ∧ (t.coreAt k).halt = none ∧ (t.coreAt k).run = c.run ∧ t.segs = s.segs ∧
        let at_ := fun (off n : Nat) => Memory.load (t.coreAt (die.toNat * 32 + 26)).scratch (0x7F0000 + 128 * core.toNat + off) n
        at_ 0x00 2 = 0x0100 ∧ at_ 0x7C 4 = 0x53544F50 ∧ at_ 0x02 1 = (if c.fault.isSome then 0 else if h.suspend then 2 else if h.byReq then 3 else 1) ∧
          at_ 0x04 2 = c.lcore % 65536 ∧ at_ 0x06 1 = c.ctx.toNat ∧ at_ 0x07 1 = die.toNat ∧ at_ 0x08 1 = core.toNat ∧
          (∀ f, c.fault = some f → at_ 0x03 1 = f.code.toNat) ∧
          ∀ x, x < 0x7F0000 + 128 * core.toNat ∨ 0x7F0000 + 128 * core.toNat + 128 ≤ x →
            Memory.byte (t.coreAt (die.toNat * 32 + 26)).scratch x = Memory.byte (s.coreAt (die.toNat * 32 + 26)).scratch x)

/-- R133, R155, R177, R184, R186, R188 to R190, R267: what is refused: a V instruction with a direction that leads nowhere and a T instruction with
a shape, a row, an address, a window descriptor or a busy accumulator set that its entry excludes raise `SPBOUND` and do nothing else; `TLD` and
`TST` stop at the first row that is not aligned or not in range, which is named, and write no row from it on. That a supervisor instruction in user
mode, which no image holds, stops the machine is the model's reading (log 30). -/
def Obligations.RefusedForms : Prop :=
  ∀ (s : State) (g : Guard) (d e : Reg3) (q v a b : Reg) (o : PassOp) (x : Instr),
    let h := s.core.shape d
    let at_ := rowAddr s a b h.u
    let y := (s.core.rdS a).toNat
    let bound := fun (r : Nat) => some { tFault s (at_ r) with elem := BitVec.ofNat 64 r }
    (s.badDir ((vRegsOf x).1 ++ (vRegsOf x).2) = true →
      ∃ t, exec x s = .next t ∧ faults s t { code := 0x20, row := s.core.pos.row, elem := 0, slot := 1, addr := 0 }) ∧
    (h.legal = false → ∀ i ∈ [Instr.tld d a b, .tst d a b, .twin d a b], ∃ t, exec i s = .next t ∧ faults s t (tFault s 0)) ∧
    (h.legal = true → s.core.fault = none → ∀ r, r < h.rows → ¬reaches s (at_ r) h.u h.align →
      ((∀ j, j < r → reaches s (at_ j) h.u h.align ∧ readable s (at_ j) h.u ∧ (h.code = 3 → expSound s d j)) →
        ∃ t, exec (.tld d a b) s = .next t ∧ t.core.fault = bound r ∧ t.core.scratch = s.core.scratch ∧
          ∀ q k i, k < 64 → i < 128 → q ≠ d ∨ r ≤ k → laterT t q k i = laterT s q k i ∧ laterE t q k = laterE s q k) ∧
      ((∀ j, j < r → reaches s (at_ j) h.u h.align ∧ badPartly s.core.badScratch (at_ j) h.u = false ∧ quiet s .store (at_ j) h.u ∧
          rowSound s d j (if h.code = 3 then h.cols else h.u) ∧ (h.code = 3 → expSound s d j)) →
        ∃ t, exec (.tst d a b) s = .next t ∧ t.core.fault = bound r ∧
          ∀ z, (∀ j, j < r → ¬(at_ j ≤ z ∧ z < at_ j + h.u)) → sp t z = sp s z)) ∧
    (h.legal = true → h.code = 3 → ∃ t, exec (.twin d a b) s = .next t ∧ faults s t (tFault s 0)) ∧
    (h.legal = true → h.code < 3 → ¬reaches s y 64 64 → ∃ t, exec (.twin d a b) s = .next t ∧ faults s t (tFault s y)) ∧
    (h.legal = true → h.code < 3 → reaches s y 64 64 → readable s y 64 → ¬winOk s y h.z →
      ∃ t, exec (.twin d a b) s = .next t ∧ faults s t (tFault s 0)) ∧
    (¬transposes s d e → ∃ t, exec (.ttrn d e) s = .next t ∧ faults s t (tFault s 0)) ∧
    (64 ≤ (s.core.rdS b).toNat → ∀ i ∈ [Instr.trowv v d b, .tvrow d v b], ∃ t, exec i s = .next t ∧ faults s t (tFault s 0)) ∧
    (∀ m ∈ tmmas, ¬(tmmaFits s m.2.1 d ∧ tmmaFits s m.2.1 e) → ∃ t, exec (m.1 a d e) s = .next t ∧ faults s t (tFault s 0)) ∧
    (∀ m ∈ tmmas, tmmaFits s m.2.1 d → tmmaFits s m.2.1 e → ¬reaches s y 1024 64 →
      ∃ t, exec (m.1 a d e) s = .next t ∧ faults s t (tFault s y)) ∧
    (¬reaches s y 8192 64 → ∀ i ∈ [Instr.xsave a, .xload a], ∃ t, exec i s = .next t ∧ faults s t (tFault s y)) ∧
    (reaches s y 8192 64 → ¬setFree s false → ∃ t, exec (.xsave a) s = .next t ∧ faults s t (tFault s 0)) ∧
    (¬setFree s (!s.sup) → (∃ t, exec .xclr s = .next t ∧ faults s t (tFault s 0)) ∧
      (reaches s y 8192 64 → ∃ t, exec (.xload a) s = .next t ∧ faults s t (tFault s 0))) ∧
    (s.sup = false → ∀ i ∈ supervisorForms g q v a o, exec i s = .fault .illegalRow)

/-- R212, R213, R215, R366: `MAPW` writes the entry that the window names, unless its fields or an overlap forbid it, and says so. That
the test of an overlap leaves out the entry that is replaced is the model's choice (log 32). -/
def Obligations.MapWrites : Prop :=
  ∀ (s : State) (g : Guard) (d a b : Reg), s.sup = true → s.core.guardOn g = true →
    let e := s.core.rdS b ++ s.core.rdS a
    let x := s.dieAt s.die
    let place := s.core.mapCtx.toNat * 256 + s.core.mapIndex.toNat
    let done := fun (t : State) (code : Word) => exec (.mapw g d a b) s = .next t ∧ t.mod = s.mod ∧ t.segs = s.segs ∧
      (∀ k, k ≠ s.cur → t.coreAt k = s.coreAt k) ∧ (∀ r, laterS t r = if r = d ∧ r ≠ 0 then code else laterS s r) ∧
      t.core.scratch = s.core.scratch
    (s.core.mapTable = false → 255 < s.core.mapIndex.toNat → ∃ t, done t 3 ∧ t.dieAt s.die = x) ∧
    (s.core.mapTable = false → s.core.mapIndex.toNat ≤ 255 → rgV e = false →
      ∃ t, done t 0 ∧ (t.dieAt s.die).ranges = SMap.set 0 x.ranges place e ∧
        ∀ p, p ∈ (t.dieAt s.die).pages ↔ p ∈ x.pages ∧ pgCtx p.2 * 256 + pgRange p.2 ≠ place) ∧
    (s.core.mapTable = true → rgV e = false → ∃ t, done t 0 ∧ t.dieAt s.die = { x with pages := SMap.set 0 x.pages s.core.mapIndex.toNat e }) ∧
    (s.core.mapTable = false → s.core.mapIndex.toNat ≤ 255 → rgV e = true →
      ((rgFieldsOk e = false ∨ s.core.mapCtx = 0) → ∃ t, done t 1 ∧ t.dieAt s.die = x) ∧
      (rgFieldsOk e = true → s.core.mapCtx ≠ 0 → x.rangeClash place s.core.mapCtx.toNat e = true → ∃ t, done t 2 ∧ t.dieAt s.die = x) ∧
      (rgFieldsOk e = true → s.core.mapCtx ≠ 0 → x.rangeClash place s.core.mapCtx.toNat e = false →
        ∃ t, done t 0 ∧ t.dieAt s.die = { x with ranges := SMap.set 0 x.ranges place e } ∧
          t.core.mapIndex.toNat = (s.core.mapIndex.toNat + 1) % 256)) ∧
    (s.core.mapTable = true → rgV e = true →
      (pgFieldsOk e = false → ∃ t, done t 1 ∧ t.dieAt s.die = x) ∧
      (pgFieldsOk e = true → x.pageClash s.core.mapIndex.toNat e = true → ∃ t, done t 2 ∧ t.dieAt s.die = x) ∧
      (pgFieldsOk e = true → x.pageClash s.core.mapIndex.toNat e = false →
        ∃ t, done t 0 ∧ t.dieAt s.die = { x with pages := SMap.set 0 x.pages s.core.mapIndex.toNat e } ∧
          t.core.mapIndex = s.core.mapIndex + 1))

/-- R358, R360, R375, R376, R378, R383, R395 to R398: `KEYZ` zeroises a key slot, and neither a host line that its context's passes have still to
transfer nor a `CTXSV` towards the host is made under it; `SCRUB` starts the scrub engine, each beat of which zeroes 128 bytes that their banks
grant and raises LOW of a core that it started at or below; `ASSIGN` gives a clean core that holds no launch, its stop record and debug bits zeroed,
or a clean segment that nothing uses, to a context; RELEASE lets what the debugger froze go on: each frozen pass reopens, or on a core that stands
stopped waits for it to go on. -/
def Obligations.KeysScrubsOwners : Prop :=
  ∀ (s : State) (g : Guard) (d a b : Reg) (die : DieNo) (v : Word),
    let n := (s.core.rdS a).toNat
    let base := (s.core.rdS b).toNat % 2 ^ 32
    let len := (s.core.rdS b).toNat / 2 ^ 32
    let x := (s.dieAt die.toNat).scrub
    let ctx := BitVec.ofNat 8 (s.core.rdS b).toNat
    let k := s.die * 32 + n
    let m := s.die * 32 + (n - 32)
    let j := s.die * 32 + (v.extractLsb' 16 5).toNat
    let scrubbed := s.coreAt (die.toNat * 32 + x.core.toNat)
    (s.sup = true → s.core.guardOn g = true →
      (63 < n → ∃ t, exec (.keyz g d a) s = .next t ∧ setsS s t d 2) ∧
      (n ≤ 63 → (SMap.get {} (s.dieAt s.die).keys n).loaded = false → ∃ t, exec (.keyz g d a) s = .next t ∧ setsS s t d 1) ∧
      (n ≤ 63 → (SMap.get {} (s.dieAt s.die).keys n).loaded = true → s.core.hold = .none →
        let of := (SMap.get {} (s.dieAt s.die).keys n).ctx
        ∃ t due, exec (.keyz g d a) s = .next t ∧ due ≤ s.tick + 4 ∧
          t.core = { s.core with hold := .op d.toNat due 0, passes := t.core.passes } ∧
          (∀ m, SMap.get {} (t.dieAt s.die).keys m = if m = n then {} else SMap.get {} (s.dieAt s.die).keys m) ∧
          (∀ y i, keyDie y = s.die → unsentHost ((s.coreAt y).pass i) of → ((t.coreAt y).pass i).err = true ∧
            ∀ l ∈ ((s.coreAt y).pass i).lines, l ∉ ((s.coreAt y).pass i).hostSeen → l ∈ ((t.coreAt y).pass i).hostRefused) ∧
          ∀ r ∈ t.mod.cacheReqs, ∀ c y, r.use = .save c y → keyDie c = s.die → (s.coreAt y).ctx ≠ of) ∧
      (scrubGood s n base len → ∃ t, exec (.scrub g d a b) s = .next t ∧ laterS t d = 0 ∧
        t.dieAt s.die = { s.dieAt s.die with scrub := ⟨true, BitVec.ofNat 5 n, base / 128, len / 128, 0, s.tick + 1⟩ })) ∧
    (x.busy = true → x.done < x.len →
      (∀ i, i < 2 → SMap.get 0 (s.coreAt (die.toNat * 32 + x.core.toNat)).banks.free ((2 * (x.base + x.done) + i) % 32) ≤ (s.dieAt die.toNat).tick) →
      ∃ t, exec (.scrubEngineBeat die) s = .next t ∧
      (t.dieAt die.toNat).scrub = { x with done := x.done + 1, since := (s.dieAt die.toNat).tick + 1 } ∧
      (∀ y, Memory.byte (t.coreAt (die.toNat * 32 + x.core.toNat)).scratch y =
        if 128 * (x.base + x.done) ≤ y ∧ y < 128 * (x.base + x.done) + 128 then 0
        else Memory.byte (s.coreAt (die.toNat * 32 + x.core.toNat)).scratch y) ∧
      let after := t.coreAt (die.toNat * 32 + x.core.toNat)
      let low := max scrubbed.low.toNat (x.base + x.done + 1)
      if scrubbed.low.toNat < scrubbed.high.toNat ∧ x.base ≤ scrubbed.low.toNat then
        (if scrubbed.high.toNat ≤ low then after.low = 0 ∧ after.high = 0 else after.low.toNat = low ∧ after.high = scrubbed.high)
      else after.low = scrubbed.low ∧ after.high = scrubbed.high) ∧
    (x.busy = true → x.len ≤ x.done → ∃ t, exec (.scrubEngineBeat die) s = .next t ∧ (t.dieAt die.toNat).scrub = { x with busy := false } ∧
      t.cores = s.cores) ∧
    (s.sup = true → s.core.guardOn g = true → (s.core.rdS b).toNat ≤ 255 →
      (n < 26 → (s.coreAt k).placed = false → (s.coreAt k).clean = true → (s.dieAt s.die).scrub.busy = false →
        ∃ t, exec (.assign g d a b) s = .next t ∧ laterS t d = 0 ∧ (t.coreAt k).owner = ctx ∧
          (t.coreAt k).scratch = (s.coreAt k).scratch ∧
          ((s.coreAt k).owner = ctx → t.coreAt k = s.coreAt k) ∧
          ((s.coreAt k).owner ≠ ctx → (t.coreAt k).step = false ∧ (t.coreAt k).brken = false ∧ (t.coreAt k).pfreeze = false ∧
            ∀ y, y < 128 → Memory.byte t.core.scratch (0x7F0000 + 128 * n + y) = 0)) ∧
      (n < 26 → (s.coreAt k).placed = true → ∃ t, exec (.assign g d a b) s = .next t ∧ setsS s t d 2) ∧
      (n < 26 → (s.coreAt k).placed = false → (s.coreAt k).clean = false → ∃ t, exec (.assign g d a b) s = .next t ∧ setsS s t d 1) ∧
      (32 ≤ n → n < 56 → s.attached m = false → s.mappedByOther m ctx.toNat = false → (s.segAt m).clean = true → (s.segAt m).pzValid = false →
        ∃ t, exec (.assign g d a b) s = .next t ∧ laterS t d = 0 ∧ t.segAt m = { s.segAt m with owner := ctx } ∧
          ∀ y, y ≠ m → t.segAt y = s.segAt y)) ∧
    (s.sup = true → v.getLsbD 3 = true → (v.extractLsb' 16 5).toNat < 26 → ((s.coreAt j).placed && s.isProtected (s.coreAt j).ctx) = false →
      ∃ t, exec (.release v) s = .next t ∧ t.segs = s.segs ∧ t.dies = s.dies ∧ t.mod = s.mod ∧
        (t.coreAt j).step = v.getLsbD 0 ∧ (t.coreAt j).brken = v.getLsbD 1 ∧ (t.coreAt j).pfreeze = v.getLsbD 2 ∧
        (∀ m, ((s.coreAt j).pass m).frozen = false → (t.coreAt j).pass m = (s.coreAt j).pass m) ∧
        (∀ m, ((t.coreAt j).pass m).frozen = false) ∧
        ∀ m, let p := (s.coreAt j).pass m
          let still := (s.coreAt j).hold = .delivered ∨ (s.coreAt j).run = .suspended ∨ (s.coreAt j).run = .halted
          let lead := if (s.dieAt (keyDie p.seg)).holdTick then 2 else 1
          let again : Pass := { p with st := .riding, trap := none, page := none, stopParked := false, frozen := false, lead := lead }
          p.frozen = true →
            (still → (t.coreAt j).pass m = { p with frozen := false, stopParked := true }) ∧
            (¬still → p.atOpen = false → (t.coreAt j).pass m = again) ∧
            (¬still → p.atOpen = true → (mapped s p → ((t.coreAt j).pass m).st = .riding) ∧
              (¬mapped s p → ((t.coreAt j).pass m).st = .parked ∧ ((t.coreAt j).pass m).trap ≠ none)))

/-- R348, R352, R367, R368: `HALTCTX` halts, suspends or resumes the cores of a launch or of a context and answers with their number, within the
times that R367 bounds; `CTXSV` and `CTXRS` of an image in host memory ask the host for its lines, of one in the save region open supervisor passes
over it, and refuse a core that is not in the state they need. -/
def Obligations.HaltAndImages : Prop :=
  ∀ (s : State) (g : Guard) (d a b : Reg), s.sup = true → s.core.guardOn g = true →
    let sa := s.core.rdS a
    let sb := s.core.rdS b
    let ctx : Byte := sa.setWidth 8
    let lid := if sa.getLsbD 32 then none else some (sa.extractLsb' 16 16)
    let act := sb.toNat % 4
    let k := s.die * 32 + sa.toNat % 32
    let c := s.coreAt k
    let off := sb.toNat % 2 ^ 29
    let answers := fun (t : State) (n ticks : Nat) => ∃ due, due ≤ s.tick + ticks ∧ t.core.hold = .op d.toNat due (BitVec.ofNat 64 n)
    let host := sb.toNat % 4096 = 0 ∧ sb.toNat < 2 ^ 52
    let region := fun (n : Nat) => 2 ^ 63 ≤ sb.toNat ∧ sb.toNat < 2 ^ 63 + 2 ^ 29 ∧ off % 4096 = 0 ∧ off + n ≤ 2621440 * 128
    let opened := fun (t : State) (j : RegionJob) => t.core = { s.core with hold := .host d.toNat } ∧ t.segs = s.segs ∧
      (∀ y, y ≠ s.cur → t.coreAt y = s.coreAt y) ∧ (t.dieAt s.die).region = (s.dieAt s.die).region ++ [j] ∧
      j.base = (s.saveBase s.die + off) / 128 ∧ j.left = s.period (s.die * 32 + 23) ∧ j.closeIn = 0 ∧ j.seq = (s.dieAt s.die).supSeq
    (act = 3 → ∃ t, exec (.haltctx g d a b) s = .next t ∧ setsS s t d (~~~0#64)) ∧
    (act < 3 → ctx = 0 → ∃ t, exec (.haltctx g d a b) s = .next t ∧ becomes s t { s.core with hold := .op d.toNat s.tick 0 }) ∧
    (act = 0 → ctx ≠ 0 → ∃ t, exec (.haltctx g d a b) s = .next t ∧ t.segs = s.segs ∧ t.dies = s.dies ∧
      (haltsNear s (ofLaunch ctx lid) → answers t (s.countCores (ofLaunch ctx lid)) 52) ∧
      ∀ j, j ≠ s.cur → (ofLaunch ctx lid j (s.coreAt j) = false → t.coreAt j = s.coreAt j) ∧
        (ofLaunch ctx lid j (s.coreAt j) = true → (s.coreAt j).halt = none →
          ∃ h, (t.coreAt j).halt = some h ∧ h.byReq = true ∧ h.suspend = false)) ∧
    (act = 1 → ctx ≠ 0 → ∃ t, exec (.haltctx g d a b) s = .next t ∧ t.segs = s.segs ∧ t.dies = s.dies ∧
      (haltsNear s (toSuspend ctx lid) → answers t (s.countCores (toSuspend ctx lid)) 52) ∧
      ∀ j, j ≠ s.cur → (toSuspend ctx lid j (s.coreAt j) = false → t.coreAt j = s.coreAt j) ∧
        (toSuspend ctx lid j (s.coreAt j) = true → (s.coreAt j).halt = none → ∃ h, (t.coreAt j).halt = some h ∧ h.suspend = true)) ∧
    (act = 2 → ctx ≠ 0 → ∃ t, exec (.haltctx g d a b) s = .next t ∧ t.segs = s.segs ∧ t.dies = s.dies ∧
      answers t (s.countCores (toResume ctx lid)) 4 ∧ ∀ j, toResume ctx lid j (s.coreAt j) = true → (t.coreAt j).run = (s.coreAt j).runKept) ∧
    (c.savable k = false → ∃ t, exec (.ctxsv g d a b) s = .next t ∧ setsS s t d 0x8000000000000001) ∧
    (c.savable k = true → s.isProtected c.ctx = false →
      (host → ∃ t r, exec (.ctxsv g d a b) s = .next t ∧ t.core = { s.core with hold := .host d.toNat } ∧ t.segs = s.segs ∧ t.dies = s.dies ∧
        t.mod.cacheReqs = s.mod.cacheReqs ++ [r] ∧ r.use = .save s.cur k ∧ r.base = sb.toNat ∧ r.done = 0 ∧ r.data.length = r.len ∧
        leNat (r.data.take 4) = 0x4B434843 ∧ r.data.getD 6 0 = c.ctx) ∧
      (region (imageLen c.scratchLen) → ∃ t j bs, exec (.ctxsv g d a b) s = .next t ∧ opened t j ∧ j.use = .save s.cur k ∧ j.data = some bs ∧
        j.count = bs.length / 128 ∧ leNat (bs.take 4) = 0x4B434843 ∧ bs.getD 6 0 = c.ctx) ∧
      (sb.toNat < 2 ^ 63 → ¬host → ∃ t, exec (.ctxsv g d a b) s = .next t ∧ setsS s t d 0x8000000000000002)) ∧
    (c.restorable k = false → ∃ t, exec (.ctxrs g d a b) s = .next t ∧ setsS s t d 0x8000000000000001) ∧
    (c.restorable k = true →
      (sb.toNat < 2 ^ 63 → ¬host → ∃ t, exec (.ctxrs g d a b) s = .next t ∧ setsS s t d 0x8000000000000002) ∧
      (host → ∃ t r, exec (.ctxrs g d a b) s = .next t ∧ t.core = { s.core with hold := .host d.toNat } ∧ t.segs = s.segs ∧ t.dies = s.dies ∧
        t.mod.cacheReqs = s.mod.cacheReqs ++ [r] ∧ r.use = .restore s.cur k ∧ r.base = sb.toNat ∧ r.len = 4096 ∧ r.done = 0) ∧
      (region 4096 → ∃ t j, exec (.ctxrs g d a b) s = .next t ∧ opened t j ∧ j.use = .restore s.cur k ∧ j.data = none ∧ j.count = 2))

namespace Sys2Proof.Says

/-! ### Rows that wait, and the W slot -/

/-- A tag that a wait counts as set: DONE, or no riders (R247). -/
def tagReady (s : State) (n : Nat) : Prop := s.core.tags.getLsbD n = true ∨ SMap.get 0 s.core.riders n = 0
/-- A set bit of a mask names no tag of the core. -/
def beyondTags (s : State) (v : Word) : Prop := ∃ n, v.getLsbD n = true ∧ s.tagCount s.cur ≤ n
/-- The passes of its segment that a `PRND` still covers (R245). -/
def prndLeft (s : State) : List (Nat × Nat) :=
  match s.core.seg with
  | none => []
  | some k => match s.core.prnd with | none => passesOn s k | some l => l.filter (passesOn s k).contains
/-- `SPBOUND` of the W slot, for something that is no address. -/
def wFault (s : State) : CoreFault := { code := 0x20, row := s.core.pos.row, elem := 0, slot := 3, addr := 0 }

/-- The pass entries of one form: all but the ternary ones and the zeroing of stitches (R231 to R242). -/
noncomputable def passEntries : List ((PassOp → Instr) × PassKind) :=
  [(.pcopy, .copy), (.pgath, .gath), (.pscanSumi, .scanSumi), (.pscanSumf, .scanSumf), (.pscanMin, .scanMin), (.pscanMax, .scanMax),
   (.pscanCount, .scanCount), (.pfilt, .filt), (.pput, .put), (.pupdAddi32, .updAddi), (.pupdAddf32, .updAddf), (.pupdMini32, .updMini),
   (.pupdMaxi32, .updMaxi), (.pupdAnd, .updAnd), (.pupdOr, .updOr), (.pupdXor, .updXor), (.pupdSwap, .updSwap), (.pupdoAddf32, .updoAddf),
   (.pupdoAddi32, .updoAddi), (.pcmt, .cmt), (.padam, .adam), (.pzero, .zero), (.phostIn, .hostIn), (.phostOut, .hostOut)]

/-- A pass row has issued with a tag: the tag's DONE bit is clear, and it has a rider more (R223). -/
def tagged (s t : State) (g : BitVec 6) : Prop :=
  t.core.tags = s.core.tags &&& ~~~(1#64 <<< g.toNat) ∧
    ∀ m, SMap.get 0 t.core.riders m = if m = g.toNat then SMap.get 0 s.core.riders m + 1 else SMap.get 0 s.core.riders m

/-- A pass row is refused: its tag and ERR bit are set 4 ticks later, and nothing else changes (R225). -/
def refuses (s t : State) (g : BitVec 6) : Prop :=
  alone s t ∧ tagged s t g ∧
    t.core = { s.core with tags := t.core.tags, riders := t.core.riders, seq := s.core.seq + 1, refusals := s.core.refusals ++ [(4, g)], segTrap := t.core.segTrap }

/-- A pass has opened in a slot: what it takes from the row, and what else changes (R204, R208, R221 to R224). -/
def opens (s t : State) (kind : PassKind) (o : PassOp) (seg n : Nat) : Prop :=
  let p := t.core.pass n
  let r := fun (x : Reg) => (s.core.rdS x).toNat
  tagged s t o.tag ∧ (∀ k, k ≠ s.cur → t.coreAt k = s.coreAt k) ∧ t.mod = s.mod ∧ t.cur = s.cur ∧ t.turns = s.turns ∧
    t.core = { s.core with tags := t.core.tags, riders := t.core.riders, passes := t.core.passes, seq := s.core.seq + 1, regs := t.core.regs, heatDue := t.core.heatDue, tfly := t.core.tfly, tkept := t.core.tkept } ∧
    (∀ m, m ≠ n → t.core.pass m = s.core.pass m) ∧
    p.kind = kind ∧ p.tag = o.tag ∧ p.sa = r o.a ∧ p.sb = r o.b ∧ p.sc = r o.c ∧ p.sd = r o.d ∧ p.se = r o.e ∧ p.seg = seg ∧
    p.ctx = ownTag s ∧ p.desc = s.desc (ownTag s) o.tid.toNat ∧ p.row = s.core.pos.row ∧ p.openRow = s.core.pos.row ∧ p.interval = s.core.interval ∧ p.visits = 0 ∧ p.closeIn = 0 ∧ p.cancelled = false ∧
    p.openPt = (s.cursorOf seg + 2) % s.period seg ∧ p.lead = (if (s.dieAt (keyDie seg)).holdTick then 2 else 1) ∧
    (s.sup = false → p.key = { launch := s.core.lid.toNat, lcore := s.core.lcore, seq := s.core.seq.toNat }) ∧
    (s.sup = true → p.key = { sup := true, seq := (s.dieAt s.die).supSeq })

/-- The areas that a pass row reads hold no uncorrectable unit and no conflict, once the rows of C of earlier `TMMA`s are in them (R306). -/
def sourcesGood (s : State) (l : List (Nat × Nat)) : Prop :=
  ∀ r ∈ l, badIn s.core.settled.badScratch r.1 r.2 = false ∧ quiet s .passRead r.1 r.2

end Sys2Proof.Says

/-- R146, R206, R216, R245, R247, R295, R312, R331 to R334, R368: which delay holds a row that waits, and for how long; a `PRND` covers the passes of its
segment that had opened as its row first fell due and a `MAPFENCE` those of its die that rode then, the supervisor passes over the save region among
them; a `CWAIT` waits for the visit of its stitch. Once the row is not held it issues, and does what is left to do: a `SYNCMARK` begins an interval, a
`TSTMP` takes wall time and PTICK. -/
def Obligations.WaitingRows : Prop :=
  ∀ (s : State) (g : Guard) (d a : Reg),
    let c := s.core
    let v := c.rdS a
    exec (.belay a) s = .next s ∧ (10 ∈ s.delays (.belay a) ↔ (s.dieAt s.die).ptick < v.toNat) ∧
    exec (.waitt a) s = .next s ∧ (10 ∈ s.delays (.waitt a) ↔ s.wallAt s.die / 2 ^ 32 < v.toNat) ∧
    exec (.ljoin a) s = .next s ∧ (5 ∈ s.delays (.ljoin a) ↔ v.setWidth 16 ∈ c.launched ∧
      ∃ l ∈ s.mod.launches, l.pkt.ctx = c.ctx ∧ l.pkt.lid = v.setWidth 16 ∧ l.parent = some (c.lid, c.lcore)) ∧
    exec .pfence s = .next s ∧ (6 ∈ s.delays .pfence ↔ ∃ e ∈ c.passes, e.2.st ≠ .idle) ∧
    (beyondTags s v → ∀ i ∈ [Instr.twany a, .twall a], ∃ t, exec i s = .next t ∧ faults s t (wFault s)) ∧
    (¬beyondTags s v → exec (.twany a) s = .next s ∧ exec (.twall a) s = .next s ∧
      (6 ∈ s.delays (.twany a) ↔ v ≠ 0 ∧ ∀ n, v.getLsbD n = true → ¬tagReady s n) ∧
      (6 ∈ s.delays (.twall a) ↔ ∃ n, v.getLsbD n = true ∧ ¬tagReady s n)) ∧
    (∃ t, exec .prnd s = .next t ∧ becomes s t { c with prnd := if (prndLeft s).isEmpty then none else some (prndLeft s) }) ∧
    (6 ∈ (s.arm .prnd).delays .prnd ↔ prndLeft s ≠ []) ∧
    (∀ k x y, (x, y) ∈ passesOn s k ↔
      (∃ e ∈ s.cores, ∃ p ∈ e.2.passes, e.1 = x ∧ p.2.st ≠ .idle ∧ p.2.seg = k ∧ p.2.key.seq = y) ∨
      keyNo k = 23 ∧ x = keyDie k * 32 + 31 ∧ ∃ j ∈ (s.dieAt (keyDie k)).region, j.seq = y) ∧
    (cwaitTarget s a = none → ∃ t, exec (.cwait a) s = .next t ∧ faults s t (wFault s)) ∧
    (s.sup = false → ∀ k, c.seg = some k → cwaitTarget s a = some (k, (v.toNat % s.period k + s.period k - 3) % s.period k)) ∧
    (∀ k x, cwaitTarget s a = some (k, x) →
      (s.arm (.cwait a)).core = { c with swept := c.swept || (!(s.dieAt s.die).holdTick && decide ((s.segAt k).cursor = x)) } ∧
      ((c.swept = true ∨ ((s.dieAt s.die).holdTick = false ∧ (s.segAt k).cursor = x)) →
        ∃ t, exec (.cwait a) s = .next t ∧ becomes s t { c with swept := false })) ∧
    (7 ∈ (s.arm (.cwait a)).delays (.cwait a) ↔ ∃ k x, cwaitTarget s a = some (k, x) ∧ c.swept = false ∧
      ¬((s.dieAt s.die).holdTick = false ∧ (s.segAt k).cursor = x)) ∧
    exec (.tdfence g) s = .next s ∧ (11 ∈ s.delays (.tdfence g) ↔ c.guardOn g = true ∧ s.tick < c.tdwDue) ∧
    exec (.spfence g) s = .next s ∧ (11 ∈ s.delays (.spfence g) ↔ c.guardOn g = true ∧ ∃ q ∈ c.sends, ∃ m ∈ q.2, m.op.writes = true) ∧
    (c.guardOn g = true →
      (∃ t, exec (.syncmark g) s = .next t ∧ becomes s t { c with interval := c.interval + 1 }) ∧
      ∃ t, exec (.mapfence g) s = .next t ∧
        becomes s t { c with mapfence := if (covered s).isEmpty then none else some (covered s) }) ∧
    (11 ∈ (s.arm (.mapfence g)).delays (.mapfence g) ↔ c.guardOn g = true ∧ covered s ≠ []) ∧
    (∀ h x y, (x, y) ∈ ridingOn s h ↔
      (∃ e ∈ s.cores, ∃ p ∈ e.2.passes, e.1 = x ∧ keyDie x = h ∧ p.1 = y ∧ p.2.st = .riding ∧ p.2.closeIn = 0) ∨
      x = h * 32 + 31 ∧ ∃ j ∈ (s.dieAt h).region, j.left ≠ 0 ∧ j.seq = y) ∧
    ∃ t, exec (.tstmp d) s = .next t ∧ alone s t ∧ t.core = { c with regs := { c.regs with s := t.core.regs.s } } ∧
      ∀ r, laterS t r = if r = d + 1 ∧ r ≠ 0 then BitVec.ofNat 64 (s.dieAt s.die).ptick
        else if r = d ∧ r ≠ 0 then BitVec.ofNat 64 (s.wallAt s.die / 2 ^ 32) else laterS s r

/-- R204, R217, R218, R221 to R226, R231 to R242: a pass row whose checks succeed opens a pass in the lowest idle slot, which rides or, where the
map refuses a stitch it names, parks at its open point, as it does while the core is stepped with PFREEZE (R360); a check that fails raises
`SPBOUND`, or refuses the row; a row on a core with no segment leaves a trap pending besides. -/
def Obligations.PassOpens : Prop :=
  ∀ e ∈ passEntries, ∀ (s : State) (o : PassOp),
    let pl := s.planOf e.2 o
    let inTags := o.tag.toNat < s.tagCount s.cur
    let fit := fun (r : Nat × Nat × Nat) => r.1 % r.2.2 = 0 ∧ r.1 + r.2.1 ≤ s.spEnd s.cur
    (∀ seg n, s.core.seg = some seg → inTags → s.idleSlot s.cur = some n → pl.descOk = true → pl.limits = true → (∀ r ∈ pl.areas, fit r) →
      sourcesGood s pl.srcs →
      ∃ t, exec (e.1 o) s = .next t ∧ opens s t e.2 o seg n ∧ t.core.regs = s.core.regs ∧
        t.core.heatDue = s.core.heatDue ∧ t.core.tfly = s.core.tfly ∧ t.core.tkept = s.core.tkept ∧ (∀ k, t.segAt k = { s.segAt k with reserved := (t.segAt k).reserved }) ∧
        (∀ d, t.dieAt d = { s.dieAt d with supSeq := (t.dieAt d).supSeq }) ∧
        (s.core.step = false → mapped s (t.core.pass n) → (t.core.pass n).st = .riding) ∧
        (s.core.step = false → ¬mapped s (t.core.pass n) →
          (t.core.pass n).st = .parked ∧ (t.core.pass n).atOpen = true ∧ (t.core.pass n).trap.isSome = true) ∧
        (s.core.step = true → s.core.pfreeze = true →
          (t.core.pass n).st = .parked ∧ (t.core.pass n).atOpen = true ∧ (t.core.pass n).frozen = true ∧ (t.core.pass n).trap = none)) ∧
    (s.core.seg = none → ∃ t, exec (e.1 o) s = .next t ∧ refuses s t o.tag ∧ t.core.segTrap = s.core.segTrap ++ [s.core.pos.row]) ∧
    (s.core.seg ≠ none → ¬inTags ∨ s.idleSlot s.cur = none → ∃ t, exec (e.1 o) s = .next t ∧ faults s t (wFault s)) ∧
    (s.core.seg ≠ none → inTags → s.idleSlot s.cur ≠ none →
      (pl.early = true → pl.descOk = false → ∃ t, exec (e.1 o) s = .next t ∧ refuses s t o.tag ∧ t.core.segTrap = s.core.segTrap) ∧
      (¬(pl.early = true ∧ pl.descOk = false) → (∃ r ∈ pl.areas, ¬fit r) →
        ∃ t, ∃ r ∈ pl.areas, ¬fit r ∧ exec (e.1 o) s = .next t ∧ faults s t { wFault s with addr := BitVec.ofNat 64 r.1 }) ∧
      ((∀ r ∈ pl.areas, fit r) → ¬(pl.descOk = true ∧ pl.limits = true) →
        ∃ t, exec (e.1 o) s = .next t ∧ refuses s t o.tag ∧ t.core.segTrap = s.core.segTrap))

namespace Sys2Proof.Says

/-- The first K-group and the number of groups that the header of a `PMAT`'s activations gives (R253). -/
def matGroups (s : State) (o : PassOp) : Nat × Nat :=
  let x := (s.core.rdS o.d).toNat
  let m := s.core.settled.scratch
  let first := Memory.load m x 2
  let n := Memory.load m (x + 2) 2
  (first, if n = 0 then (s.desc (ownTag s) o.tid.toNat).dim 0 / 320 - first else n)

end Sys2Proof.Says

/-- R251 to R255, R259, R262, R263, R306, R380: a `PMAT` that heat does not hold and whose checks succeed opens on the active set: its lane is zero and
the charge with which it fell due is taken, and an `XLOAD` in flight, or stopped by a trap, is complete (R266); a held row keeps its charge and its place. An anchor's
`PZERO` of stitches opens on the segment it names, which must be below 24, and begins that segment's record; else it is refused. -/
def Obligations.MatrixPasses : Prop :=
  ∀ (s : State) (o : PassOp) (n : Nat), s.idleSlot s.cur = some n → o.tag.toNat < s.tagCount s.cur →
    let r := fun (x : Reg) => (s.core.rdS x).toNat
    let d := s.desc (ownTag s) o.tid.toNat
    let h := matGroups s o
    let set := s.core.src.xsel.toNat
    let zeroed := s.die * 32 + r o.c
    let charge : Nat := match s.core.heatDue with
      | none => min (d.density.toNat * r o.b) (s.dieAt s.die).heatCap.toNat
      | some q => q.2
    let top := s.spEnd s.cur
    (∀ seg, s.core.seg = some seg → heatWaits (heatArm s o) o = false → o.lane.toNat < s.core.lanes → d.valid = true → d.fmt = some .t5 →
      d.layout = 2 → r o.d % 8 = 0 → r o.d + 8 + 324 * h.2 ≤ top → settled s (r o.d) 8 → Memory.load s.core.settled.scratch (r o.d + 4) 4 = 0 →
      1 ≤ h.2 → h.1 + h.2 ≤ d.dim 0 / 320 → r o.c % 4 = 0 → r o.c + 512 * r o.b ≤ top → r o.e % 64 = 0 →
      r o.e + 1024 * h.2 * r o.b ≤ top → r o.a + r o.b ≤ d.dim 1 / 128 →
      (∀ e ∈ s.core.passes, (e.2.kind = .matWrite ∨ e.2.kind = .matAccum) → e.2.lane = o.lane.toNat → e.2.st = .idle) →
      sourcesGood s [(r o.d, 8 + 324 * h.2)] → badIn s.core.settled.badScratch (r o.d) 8 = false →
      ∀ e ∈ [(Instr.pmatWrite o, PassKind.matWrite), (.pmatAccum o, .matAccum)],
        ∃ t, exec e.1 s = .next t ∧ opens s t e.2 o seg n ∧ (t.core.pass n).set = set ∧ (t.core.pass n).lane = o.lane.toNat ∧ t.segs = s.segs ∧
          (∀ c, c < 128 → laterX t set c o.lane.toNat = 0) ∧
          t.core.heatDue = none ∧ t.core.tfly = s.core.tfly.map Fly.complete ∧ t.core.tkept = s.core.tkept.map Fly.complete ∧
          (t.dieAt s.die).heat = (s.dieAt s.die).heat - 1024 * (charge : Int) ∧ ¬s.cur ∈ (t.dieAt s.die).heatQ) ∧
    (heatWaits (heatArm s o) o = true → ∀ i ∈ [Instr.pmatWrite o, .pmatAccum o],
      ∃ t, exec i s = .next t ∧ t.core = { s.core with heatDue := some ((s.core.heatDue.map Prod.fst).getD s.tick, charge) } ∧
        s.cur ∈ (t.dieAt s.die).heatQ ∧ t.segs = s.segs ∧ ∀ k, k ≠ s.cur → t.coreAt k = s.coreAt k) ∧
    (s.sup = true → 24 ≤ r o.c ∨ s.period zeroed < r o.a + r o.b →
      ∃ t, exec (.pzeroPhys o) s = .next t ∧ refuses s t o.tag ∧ t.core.segTrap = s.core.segTrap) ∧
    (s.sup = true → r o.c < 24 → r o.a + r o.b ≤ s.period zeroed → r o.b ≠ 0 → (s.segAt zeroed).pzValid = false → s.core.step = false →
      ∃ t, exec (.pzeroPhys o) s = .next t ∧ opens s t .zeroPhys o zeroed n ∧ (t.core.pass n).st = .riding ∧
        t.segAt zeroed = { s.segAt zeroed with pzValid := true, pzFirst := r o.a, pzCount := r o.b, pzNext := r o.a, pzRemain := r o.b, pzPass := some (t.core.pass n).key, pzTouched := 0 } ∧
        ∀ k, k ≠ zeroed → t.segAt k = s.segAt k)

/-- R39, R205, R222, R223, R225, R242 to R244, R248, R249: the instructions on open passes and on tags; a pass that has made its visits closes,
sets its tag, sets BFPHDR for a malformed burst header of a `PMAT` and PFOVF for a `PFILT` that selects more than its capacity, and leaves its slot idle
(that a cancelled pass sets no flag is the model's choice, log 47); a refused open sets its tag and ERR bit; the host answers the lines of
a `PHOST` one by one, each once, and what it answers is what its memory then holds, in the order of the lines (log 39). -/
def Obligations.PassSlots : Prop :=
  ∀ (s : State) (die : DieNo) (core : CoreNo) (slot : SlotNo) (d a : Reg) (bs : List Byte),
    let n := (s.core.rdS a).toNat % 32
    let p := s.core.pass n
    let v := s.core.rdS a
    let k := coreKey die core
    let q := s.passAt k slot.toNat
    let lines := linesOf q.sc (q.sb * q.desc.itemBytes)
    let only := fun (t : State) (f : Core) => t.coreAt k = f ∧ (∀ j, j ≠ k → t.coreAt j = s.coreAt j) ∧ t.segs = s.segs ∧ t.dies = s.dies
    let slotIs := fun (t : State) (x : Pass) => (t.coreAt k).pass slot.toNat = x ∧ only t { s.coreAt k with passes := (t.coreAt k).passes }
    (n < s.slotCount s.cur → p.st = .parked → p.frozen = false → p.atOpen = false → ∃ t, exec (.preop a) s = .next t ∧ alone s t ∧
      t.core = { s.core with passes := t.core.passes } ∧ (∀ m, m ≠ n → t.core.pass m = s.core.pass m) ∧
      t.core.pass n = { p with st := .riding, trap := none, page := none, stopParked := false, row := s.core.pos.row, lead := if (s.dieAt (keyDie p.seg)).holdTick then 2 else 1 }) ∧
    (s.slotCount s.cur ≤ n ∨ p.st ≠ .parked ∨ p.frozen = true → exec (.preop a) s = .next s) ∧
    (p.st = .parked ∨ p.st = .riding → ∃ t, exec (.pcanc a) s = .next t ∧ alone s t ∧
      t.core = { s.core with passes := t.core.passes } ∧ (∀ m, m ≠ n → t.core.pass m = s.core.pass m) ∧
      t.core.pass n = { p with st := .closing, closeIn := 4, err := true, cancelled := true, trap := none }) ∧
    (p.st = .idle ∨ p.st = .closing → exec (.pcanc a) s = .next s) ∧
    (∃ t m, exec (.tfirst d a) s = .next t ∧ setsS s t d (BitVec.ofNat 64 m) ∧ m ≤ 64 ∧
      let hit := fun (i : Nat) => v.getLsbD i = true ∧ s.core.tags.getLsbD i = true ∧ i < s.tagCount s.cur
      (∀ i, i < m → ¬hit i) ∧ (m < 64 → hit m)) ∧
    (∃ t, exec (.tclr a) s = .next t ∧ becomes s t { s.core with tags := s.core.tags &&& ~~~v, tagerr := s.core.tagerr &&& ~~~v }) ∧
    (q.st = .closing → q.closeIn = 0 → ∃ t, exec (.passClose die core slot) s = .next t ∧
      (t.coreAt k).pass slot.toNat = { tag := q.tag, tid := q.tid, openPt := q.openPt, visits := q.visits } ∧
      SMap.get 0 (t.coreAt k).riders q.tag.toNat = SMap.get 0 (s.coreAt k).riders q.tag.toNat - 1 ∧
      (SMap.get 0 (s.coreAt k).riders q.tag.toNat ≤ 1 → (t.coreAt k).tags = (s.coreAt k).tags ||| 1#64 <<< q.tag.toNat) ∧
      (q.err = true → (t.coreAt k).tagerr = (s.coreAt k).tagerr ||| 1#64 <<< q.tag.toNat) ∧
      (t.coreAt k).fpflags = (s.coreAt k).fpflags ||| (if q.cancelled = true then 0
        else if q.kind = .matWrite ∨ q.kind = .matAccum then (if (List.range q.groups).any q.badBurst = true then 0x4000#16 else 0)
        else if q.kind = .filt ∧ q.se < q.selected.length then 0x8000#16 else 0) ∧
      (q.kind = .scanCount → q.cancelled = false → q.spoilt = [] → (s.coreAt k).racemode = 0 → badPartly (s.coreAt k).badScratch q.sd 8 = false →
        Memory.load (t.coreAt k).scratch q.sd 8 = q.selected.length % 2 ^ 64)) ∧
    (∀ t0 l, (s.coreAt k).refusals = (0, t0) :: l → ∃ t, exec (.refusedOpen die core) s = .next t ∧
      t.mod = s.mod ∧ only t { s.coreAt k with refusals := l, riders := (t.coreAt k).riders, tags := (t.coreAt k).tags, tagerr := (s.coreAt k).tagerr ||| 1#64 <<< t0.toNat } ∧
      (SMap.get 0 (s.coreAt k).riders t0.toNat ≤ 1 → (t.coreAt k).tags = (s.coreAt k).tags ||| 1#64 <<< t0.toNat)) ∧
    (∀ line ∈ lines, ¬line ∈ q.hostSeen → (∀ l ∈ lines, l < line → l ∈ q.hostSeen) → q.st ≠ .idle → q.cancelled = false →
      (q.kind = .hostIn ∨ q.kind = .hostOut → ∃ t, exec (.phostLine die core slot .refused) s = .next t ∧ t.mod = s.mod ∧
        slotIs t { q with hostSeen := q.hostSeen ++ [line], hostRefused := q.hostRefused ++ [line], err := true }) ∧
      (q.kind = .hostOut → ∃ t, exec (.phostLine die core slot .taken) s = .next t ∧ t.mod = s.mod ∧
        slotIs t { q with hostSeen := q.hostSeen ++ [line] }) ∧
      (q.kind = .hostIn → bs.length = 64 → s.isProtected q.ctx = false → ∃ t, exec (.phostLine die core slot (.line bs)) s = .next t ∧
        slotIs t { q with hostSeen := q.hostSeen ++ [line], hostGot := ((t.coreAt k).pass slot.toNat).hostGot } ∧
        (∀ y, Memory.byte ((t.coreAt k).pass slot.toNat).hostGot y =
          if 64 * line ≤ y ∧ y < 64 * line + 64 then bs.getD (y - 64 * line) 0 else Memory.byte q.hostGot y) ∧
        t.mod = { s.mod with hostMem := t.mod.hostMem } ∧
        ∀ y, Memory.byte t.mod.hostMem y =
          if 64 * line ≤ y ∧ y < 64 * line + 64 then bs.getD (y - 64 * line) 0 else Memory.byte s.mod.hostMem y))

namespace Sys2Proof.Says

/-- The updates of a word: kind, and the new word from the old one and the value (R236). -/
def updates : List (PassKind × (W32 → W32 → W32)) :=
  [(.updAddi, fun o u => o + u), (.updAddf, fun o u => BitVec.ofNat 32 (fpAdd f32 rneMode o.toNat u.toNat).1),
   (.updMini, fun o u => if u.slt o then u else o), (.updMaxi, fun o u => if o.slt u then u else o), (.updAnd, fun o u => o &&& u),
   (.updOr, fun o u => o ||| u), (.updXor, fun o u => o ^^^ u), (.updSwap, fun _ u => u)]
/-- The last of some parts of a stitch that holds one of its bytes. -/
def cutAt (cs : List Cut) (i : Nat) : Option Cut := (cs.filter (fun c => decide (c.pos ≤ i ∧ i < c.pos + c.n))).getLast?

end Sys2Proof.Says

/-- R198, R204, R205, R207, R210, R231, R235, R236, R241, R377: what a visit of a stitch does for a pass that names bytes of it: a `PCOPY` captures them,
a `PPUT` writes them from its source, a `PZERO` zeroes them, a `PUPD` combines a word with its value; and a write marks the stitch's block dirty. A
visit tick of the die does this for a pass that rides a segment alone and whose stitch comes, with the pages that it names unpaged: the segment's
cursor has moved on to that stitch, and the pass has made one visit more, and closes in the fourth tick after its last. -/
def Obligations.PassVisits : Prop :=
  ∀ (s : State) (seg x k n : Nat),
    let p := s.passAt k n
    let g := s.segAt seg
    let cs := p.cuts x
    let t := s.applyPass seg x (k, n)
    let new := fun (y : Nat) => Memory.byte (t.segAt seg).data y
    let old := fun (y : Nat) => Memory.byte g.data y
    let part := fun (y : Nat) => if 128 * x ≤ y then cutAt cs (y - 128 * x) else none
    cs ≠ [] → g.bad.contains x = false →
    (p.kind = .copy → ∀ y, Memory.byte ((s.capture seg x (g.stitch x) (k, n)).passAt k n).out y =
      match (cs.filter (fun c => decide (c.place + c.lo ≤ y ∧ y < c.place + c.lo + (((g.stitch x).drop c.pos).take c.n).length))).getLast? with
      | some c => (g.stitch x).getD (c.pos + (y - (c.place + c.lo))) 0
      | none => Memory.byte p.out y) ∧
    (p.kind = .put → ∀ y, new y = match part y with
      | some c => Memory.byte p.src (c.place + c.lo + (y - 128 * x - c.pos))
      | none => old y) ∧
    (p.kind = .zero → ∀ y, new y = if (part y).isSome then 0 else old y) ∧
    (∀ e ∈ updates, ∀ c, p.kind = e.1 → cs = [c] → c.n = 4 →
      memW (t.segAt seg).data (128 * x + c.pos) = e.2 (memW g.data (128 * x + c.pos)) (memW p.src (c.place + c.lo)) ∧
      (∀ y, y < 128 * x + c.pos ∨ 128 * x + c.pos + 4 ≤ y → new y = old y) ∧
      (p.ret = true → memW ((t.passAt k n).out) (p.se + (c.place + c.lo - p.sd)) = memW g.data (128 * x + c.pos))) ∧
    (p.kind = .put ∨ p.kind = .zero → p.key.sup = false → x < 2 ^ 23 → (t.segAt seg).dirty.getLsbD (x / 16384) = true) ∧
    (∀ j, j ≠ seg → t.segAt j = s.segAt j) ∧
    ∀ (die : DieNo), seg ∈ segKeys die.toNat → (s.dieAt die.toNat).holdNext = false → s.mod.boot = none → (s.dieAt die.toNat).region = [] →
      (∀ e ∈ s.cores, e.2.parts = false ∧ e.2.tmma = []) → g.remap = none → x = (g.cursor + 1) % g.period →
      (∀ y ∈ segKeys die.toNat, s.riders y = if y = seg then [((k, n), p)] else []) →
      p.st = .riding → p.closeIn = 0 → p.lead = 0 → (p.openPt + p.visits) % g.period = x → (∀ va ∈ p.hitVas x, p.pagedAt va = false) →
      ∃ v, exec (.sweepVisit die) s = .next v ∧
        let q := v.passAt k n
        let moved := fun (z : Pass) => q = { z with visits := p.visits + 1, closeIn := if p.visits + 1 = g.period then 4 else 0, page := q.page }
        (p.kind.isReader = true → p.kind ≠ .matWrite → p.kind ≠ .matAccum →
          v.segAt seg = { g with cursor := x } ∧ moved ((s.capture seg x (g.stitch x) (k, n)).passAt k n)) ∧
        (p.kind.isReader = false → p.kind ≠ .hostIn → v.segAt seg = { t.segAt seg with cursor := x } ∧ moved (t.passAt k n))

namespace Sys2Proof.Says

/-- Live banks of a set. -/
def bankCount (live : BitVec 32) : Nat := ((List.range 32).filter live.getLsbD).length

end Sys2Proof.Says

/-- R195, R198 to R203, R319, R323, R391: a tick of a die counts; in a visit tick every segment visits its next stitch, in a hold tick hot banks
refresh 8 rows and none does; the steps by which a bank becomes hot or is retired and a via lane is replaced. -/
def Obligations.SweepAndBanks : Prop :=
  ∀ (s : State) (die : DieNo) (seg : SegNo) (bank : BitVec 5) (group : BitVec 6) (hot : Bool) (live : W32),
    let d := die.toNat
    let x := s.dieAt d
    let k := d * 32 + seg.toNat
    let g := s.segAt k
    let m := bankCount live * 262144
    let counts := fun (t : State) => (t.dieAt d).tick = x.tick + 1 ∧ (t.dieAt d).slipped = false ∧
      (x.cutOff = true → (t.dieAt d).ptick = if x.ptick < x.tick + 1 then x.ptick + 1 else x.ptick) ∧
      (x.cutOff = false →
        (x.ptick + 3 < s.moduleTick → (t.dieAt d).ptick = x.ptick + 1) ∧ (s.moduleTick + 4 ≤ x.ptick → (t.dieAt d).ptick = x.ptick) ∧
        (s.moduleTick ≤ x.ptick + 3 → x.ptick < s.moduleTick + 4 → (t.dieAt d).ptick =
          if x.ptick < x.tick + 1 ∧ ∀ e ∈ x.estimates, (x.ptick : Int) < x.tick + 1 + e.2 then x.ptick + 1 else x.ptick))
    let only := fun (t : State) (y : Seg) => t.segAt k = y ∧ (∀ j, j ≠ k → t.segAt j = s.segAt j) ∧ t.dies = s.dies ∧ t.mod = s.mod
    (x.holdNext = false → ∃ t, exec (.sweepVisit die) s = .next t ∧ counts t ∧ (t.dieAt d).holdTick = false ∧ (t.dieAt d).visits = x.visits + 1 ∧
      (seg.toNat < 24 → g.remap = none → (t.segAt k).cursor = (g.cursor + 1) % g.period)) ∧
    (x.holdNext = true → ∃ t, exec (.holdTick die) s = .next t ∧ counts t ∧ (t.dieAt d).holdTick = true ∧ (t.dieAt d).visits = x.visits ∧
      (seg.toNat < 24 → (t.segAt k).cursor = g.cursor ∧
        (g.hot.getLsbD bank.toNat = true → SMap.get 0 (t.segAt k).refresh bank.toNat = (SMap.get 0 g.refresh bank.toNat + 8) % 2 ^ 18))) ∧
    (seg.toNat < 24 → g.live.getLsbD bank.toNat = true → g.hot.getLsbD bank.toNat = !hot → ∃ t,
      exec (.hotBankChange die seg bank hot) s = .next t ∧ only t { g with hot := (t.segAt k).hot, refresh := (t.segAt k).refresh } ∧
      ∀ b, b < 32 → (t.segAt k).hot.getLsbD b = if b = bank.toNat then hot else g.hot.getLsbD b) ∧
    (seg.toNat < 24 → (seg.toNat = 23 → s.savesOn d = false) → g.remap = none → live &&& ~~~g.live = 0 → live ≠ g.live → live ≠ 0 → s.mappedAbove k m = false →
      ∃ t, exec (.bankRemap die seg live) s = .next t ∧ t.segAt k = { g with remap := some { live := live } } ∧
        ∀ j, j ≠ k → t.segAt j = s.segAt j) ∧
    (∀ r, g.remap = some r → r.live = live → r.setup = 0 → m + 32 ≤ r.step → ∃ t, exec (.remapComplete die seg) s = .next t ∧
      (t.segAt k).live = live ∧ (t.segAt k).remap = none ∧ (t.segAt k).cursor = (if g.cursor < m then g.cursor else 0) ∧
      (∀ r, r ∈ (t.segAt k).repaired ↔ r ∈ g.repaired ∧ live.getLsbD (r / 64) = true) ∧
      (∀ y, Memory.byte (t.segAt k).data y = if y < 128 * m then Memory.byte g.data y else 0) ∧ ∀ j, j ≠ k → t.segAt j = s.segAt j) ∧
    (seg.toNat < 24 → g.live.getLsbD bank.toNat = true → g.repaired.length < 8 → ¬(bank.toNat * 64 + group.toNat) ∈ g.repaired → ∃ t,
      exec (.softRepair die seg bank group) s = .next t ∧ only t { g with repaired := g.repaired ++ [bank.toNat * 64 + group.toNat] })

namespace Sys2Proof.Says

/-! ### Links between cores -/

/-- A fault of the L slot that names no element. -/
def lFault (s : State) (code : Byte) (addr : Nat) : CoreFault :=
  { code := code, row := s.core.pos.row, elem := 0, slot := 4, addr := BitVec.ofNat 64 addr }

/-- What each L instruction sends: entries, the area that must be aligned and in range (address, alignment, length), the operation, and whether
it ends the core's interval (R276 to R279, R293, R312). -/
noncomputable def sendForms (s : State) (a b : Reg) (f : BitVec 2) (port : BitVec 4) : List (Instr × Nat × Option (Nat × Nat × Nat) × LOp × Bool) :=
  let n := 2 ^ f.toNat
  let v := s.core.rdS a
  let x := (s.core.rdS b).toNat
  let ws := (List.range (8 * n)).map (s.core.rdV a)
  let es := (List.range n).map (fun i => (List.range 8).map (fun j => s.core.rdV a (8 * i + j)))
  [(.lsendV a f port, n, none, .send es, true),
   (.lsendS a port, 1, none, .send [[v.setWidth 32, (v >>> (32 : Nat)).setWidth 32, 0, 0, 0, 0, 0, 0]], true),
   (.lput a b f port, n, some (x, 4, 32 * n), .put x ws, false), (.lamoAdd32 a b f port, n, some (x, 4, 32 * n), .amo 0 x ws, false),
   (.lamoFadd32 a b f port, n, some (x, 4, 32 * n), .amo 1 x ws, false), (.lamoMin32 a b f port, n, some (x, 4, 32 * n), .amo 2 x ws, false),
   (.lamoMax32 a b f port, n, some (x, 4, 32 * n), .amo 3 x ws, false), (.cbcomRemote a b f port, n, some (x, 64, 64), .commit x ws, true)]

/-- The updates of remote words: the new word from the old one and the word sent (R279). -/
def remoteUpdates : List (Nat × (W32 → W32 → W32)) :=
  [(0, fun o u => o + u), (1, fun o u => BitVec.ofNat 32 (fpAdd f32 rneMode o.toNat u.toNat).1), (2, fun o u => if u.slt o then u else o),
   (3, fun o u => if o.slt u then u else o)]

/-- One operation is left on a port, first on its circuit, accepted and due, and its target is a core that has not halted (R274, R280). -/
def arriving (s : State) (die : DieNo) (core : CoreNo) (port : BitVec 4) (m : Sent) (j : Nat) : Prop :=
  let c := s.coreAt (coreKey die core)
  c.sendQ port.toNat = [m] ∧ m.far = false ∧ m.taken = m.entries ∧ m.due ≤ (s.dieAt die.toNat).tick ∧
    s.launchCore c.ctx c.lid m.core = some j ∧ (s.coreAt j).run ≠ .halted

/-- Only scratchpads and what belongs to links, the race detector and faults may have changed in a core, and where a load or store of it is in
flight what that still reads or writes (R153, R181, R276 to R282, R313). -/
def linked (c d : Core) : Prop :=
  d = { c with scratch := d.scratch, badScratch := d.badScratch, passes := d.passes, shadows := d.shadows, sends := d.sends, recvQ := d.recvQ,
               commits := d.commits, banks := d.banks, fault := d.fault, halt := d.halt, regs := d.regs, flagQ := d.flagQ,
               meshSend := d.meshSend, vfly := d.vfly, tfly := d.tfly, vkept := d.vkept, tkept := d.tkept } ∧
  (c.vfly = none → c.tfly = none → c.vkept = none → c.tkept = none →
    d.regs = c.regs ∧ d.flagQ = c.flagQ ∧ d.meshSend = c.meshSend ∧ d.vfly = none ∧ d.tfly = none ∧ d.vkept = none ∧ d.tkept = none)
/-- No store in flight of a core has one of some bytes still to write. -/
def noneToCome (c : Core) (x n : Nat) : Prop := ∀ w ∈ c.toCome, w.1 < x ∨ x + n ≤ w.1

end Sys2Proof.Says

/-- R129, R133, R270 to R279, R293, R312: an L instruction that sends enters its operation in the send queue of its port, with a copy for each
target that is bound to the port; an unbound port and an address that is not aligned or not in range raise `SPBOUND`; a full queue holds it. -/
def Obligations.LinkSends : Prop :=
  ∀ (s : State) (a b : Reg) (f : BitVec 2) (port : BitVec 4), ∀ e ∈ sendForms s a b f port,
    let c := s.core
    let p := port.toNat
    let good := match e.2.2.1 with | none => True | some r => r.1 % r.2.1 = 0 ∧ r.1 + r.2.2 ≤ s.spEnd s.cur
    let full := 8 < occupancy (c.sendQ p) + e.2.1
    (c.bound p = false → ∃ t, exec e.1 s = .next t ∧ faults s t (lFault s 0x20 0)) ∧
    (c.bound p = true → ¬good → ∃ t, exec e.1 s = .next t ∧ faults s t (lFault s 0x20 (s.core.rdS b).toNat)) ∧
    (4 ∈ s.delays e.1 ↔ c.bound p = true ∧ good ∧ full) ∧
    (c.bound p = true → good → full → exec e.1 s = .next s ∧ s.stallOf e.1 = some (p, 4)) ∧
    (c.bound p = true → good → ¬full → ∃ (t : State) (new : List Sent), exec e.1 s = .next t ∧ alone s t ∧
      t.core = { c with sends := t.core.sends, sendNo := c.sendNo + 1, farSent := t.core.farSent,
                        interval := if e.2.2.2.2 then c.interval + 1 else c.interval } ∧
      (∀ q, t.core.sendQ q = if q = p then c.sendQ p ++ new else c.sendQ q) ∧ new.length = (c.targets p).length ∧
      (∀ (i : Nat) (w : W32) (m : Sent), (c.targets p)[i]? = some w → new[i]? = some m → s.tick < m.due ∧ m.due ≤ s.tick + 64 ∧
        m = { op := e.2.2.2.1, no := c.sendNo, entries := e.2.1, taken := 0, far := w.getLsbD 31, trunk := (w.extractLsb' 23 7).toNat,
              core := tgCore w c.lcore c.ncores, rport := (w.extractLsb' 0 4).toNat, due := m.due, interval := c.interval }) ∧
      ∀ n, n ∈ t.core.farSent ↔ n ∈ c.farSent ∨ ∃ w ∈ c.targets p, w.getLsbD 31 = true ∧ (w.extractLsb' 23 7).toNat = n)

/-- R129, R154, R270, R276 to R281, R293, R312, R349: `LRECV` takes entries of its port; a message, a write, an atomic, a commit and a mesh entry
arrive at their targets, beneath the stores of the target that are still in flight; a mesh entry off the array is lost; a tick of a send stall
counts, and one that lasts too long raises `LINKSTALL`, which names its port and slot. -/
def Obligations.LinkArrivals : Prop :=
  ∀ (s : State) (die : DieNo) (core : CoreNo) (port : BitVec 4) (m : Sent) (j : Nat) (d : Reg) (f : BitVec 2) (dir : BitVec 2),
    let k := coreKey die core
    let c := s.coreAt k
    let now := (s.dieAt (keyDie j)).tick
    let mine := s.core.recv port.toNat
    let n := 2 ^ f.toNat
    let q := (s.coreAt j).recv m.rport
    let byte := fun (t : State) (y : Nat) => Memory.byte (t.coreAt j).scratch y
    let frame := fun (t : State) => (∀ x, linked (s.coreAt x) (t.coreAt x)) ∧ t.segs = s.segs ∧ t.dies = s.dies ∧
      t.mod = { s.mod with launches := t.mod.launches } ∧ ∀ x, x ≠ j → (t.coreAt x).scratch = (s.coreAt x).scratch
    let gone := fun (t : State) => (t.coreAt k).sendQ port.toNat = []
    let beyond := fun (i : Instr) (x : Nat) => (s.coreAt j).fault = none → ∃ t, exec i s = .next t ∧ frame t ∧ gone t ∧
      (∀ y, byte t y = byte s y) ∧
      (t.coreAt j).fault = some { code := 0x20, row := 0, elem := 0, slot := 5, addr := BitVec.ofNat 64 x }
    (3 ∈ s.delays (.lrecv d f port) ↔ mine.length < n) ∧
    (n ≤ mine.length → ∃ t, exec (.lrecv d f port) s = .next t ∧ alone s t ∧
      t.core = { s.core with regs := { s.core.regs with v := t.core.regs.v }, recvQ := t.core.recvQ, observed := t.core.observed } ∧
      (∀ p, t.core.recv p = if p = port.toNat then mine.drop n else s.core.recv p) ∧
      (∀ r i, i < 64 → laterV t r i = if r = d ∧ i < 8 * n then ((mine.getD (i / 8) {}).words).getD (i % 8) 0 else laterV s r i) ∧
      ∀ y i, (y, i) ∈ (mine.take n).filterMap (fun e => e.sender) → i.toNat ≤ (SMap.get 0 t.core.observed y).toNat) ∧
    (arriving s die core port m j →
      (∀ es, m.op = .send es →
        (q.length + es.length ≤ 16 → ∃ t, exec (.messageDelivery die core port) s = .next t ∧ frame t ∧ gone t ∧ (∀ y, byte t y = byte s y) ∧
          (t.coreAt j).recv m.rport = q ++ es.zipIdx.map (fun e =>
            { words := e.1, sender := if e.2 = 0 then some (c.lcore, m.interval) else none })) ∧
        (16 < q.length + es.length → exec (.messageDelivery die core port) s = .refused .notEnabled)) ∧
      (∀ x ws, m.op = .put x ws → s.spEnd j < x + 4 * ws.length → beyond (.remoteWrite die core port) x) ∧
      (∀ o x ws, m.op = .amo o x ws → s.spEnd j < x + 4 * ws.length → beyond (.remoteAtomic die core port) x) ∧
      (∀ x ws, m.op = .put x ws → x + 4 * ws.length ≤ s.spEnd j → ∀ l, ws.length = 8 * l → m.applied < l →
        let z := x + 32 * m.applied
        (s.coreAt j).grants now [⟨[(z, 32)], false⟩] = true → badPartly (s.coreAt j).badScratch z 32 = false →
        ∃ t, exec (.remoteWrite die core port) s = .next t ∧ frame t ∧
          (gone t ∨ ∃ i, m.applied < i ∧ i < l ∧ (t.coreAt k).sendQ port.toNat = [{ m with applied := i }]) ∧
          (∀ y, y < 32 → noneToCome (s.coreAt j) (z + y) 1 → byte t (z + y) = ((ws.getD (8 * m.applied + y / 4) 0).extractLsb' (8 * (y % 4)) 8)) ∧
          ∀ y, y < z ∨ x + 4 * ws.length ≤ y → byte t y = byte s y) ∧
      (∀ u ∈ remoteUpdates, ∀ x ws, m.op = .amo u.1 x ws → x + 4 * ws.length ≤ s.spEnd j → ∀ l, ws.length = 8 * l → m.applied < l →
        let z := x + 32 * m.applied
        (s.coreAt j).grants now [⟨[(z, 32)], true⟩] = true → badIn (s.coreAt j).badScratch z 32 = false →
        ∃ t, exec (.remoteAtomic die core port) s = .next t ∧ frame t ∧
          (gone t ∨ ∃ i, m.applied < i ∧ i < l ∧ (t.coreAt k).sendQ port.toNat = [{ m with applied := i }]) ∧
          (∀ w, w < 8 → noneToCome (s.coreAt j) (z + 4 * w) 4 → memW (t.coreAt j).scratch (z + 4 * w) =
            u.2 (memW (s.coreAt j).scratch (z + 4 * w)) (ws.getD (8 * m.applied + w) 0)) ∧
          ∀ y, y < z ∨ x + 4 * ws.length ≤ y → byte t y = byte s y) ∧
      (∀ x ws, m.op = .commit x ws → x + 64 ≤ s.spEnd j → badIn (s.coreAt j).badScratch x 64 = false → noneToCome (s.coreAt j) x 64 →
        let b := cbufOf (Memory.load (s.coreAt j).scratch x 64)
        let z := b.stage b.acq
        b.ok (s.spEnd j) = true → 4 * ws.length ≤ b.ssize → b.head = b.acq → (b.acq - b.tail).toNat < b.stages →
        noneToCome (s.coreAt j) z (4 * ws.length) → (s.coreAt j).grants now [⟨[(x, 64)], true⟩, ⟨[(z, 4 * ws.length)], false⟩] = true →
        ∃ t, exec (.remoteCommit die core port) s = .next t ∧ frame t ∧ gone t ∧
          memW (t.coreAt j).scratch (x + 0x0C) = b.head + 1 ∧ memW (t.coreAt j).scratch (x + 0x14) = b.acq + 1 ∧
          (t.coreAt j).commits = (s.coreAt j).commits ++ [⟨x, b.acq.toNat, c.lcore, m.interval, now⟩] ∧
          (∀ y, y < x ∨ x + 64 ≤ y → byte t y = if z ≤ y ∧ y < z + 4 * ws.length
            then (ws.getD ((y - z) / 4) 0).extractLsb' (8 * ((y - z) % 4)) 8 else byte s y) ∧
          ∀ y, y < 64 → ¬(0x0C ≤ y ∧ y < 0x10) → ¬(0x14 ≤ y ∧ y < 0x18) → byte t (x + y) = byte s (x + y))) ∧
    (∀ due e r, SMap.get [] c.meshSend dir.toNat = e :: r → e.due = some due → due ≤ (s.dieAt die.toNat).tick →
      (s.dirTarget k dir.toNat = none → ∃ t, exec (.meshDelivery die core dir) s = .next t ∧ SMap.get [] (t.coreAt k).meshSend dir.toNat = r ∧
        ∀ x, t.coreAt x = { s.coreAt x with meshSend := (t.coreAt x).meshSend }) ∧
      ∀ i, s.dirTarget k dir.toNat = some i →
        let back := (dir.toNat + 2) % 4
        (SMap.get [] (s.coreAt i).meshRecv back).length < 4 → ∃ t, exec (.meshDelivery die core dir) s = .next t ∧
          t.segs = s.segs ∧ t.dies = s.dies ∧ t.mod = s.mod ∧ SMap.get [] (t.coreAt k).meshSend dir.toNat = r ∧
          SMap.get [] (t.coreAt i).meshRecv back = SMap.get [] (s.coreAt i).meshRecv back ++ [e.words] ∧
          ∀ x, t.coreAt x = { s.coreAt x with meshSend := (t.coreAt x).meshSend, meshRecv := (t.coreAt x).meshRecv }) ∧
    (∀ tick delay p slot, let h := c.heldBy tick delay (some (p, slot)); h.held = delay ∧ h.stall = c.stall + 1 ∧ h.stallPort = p ∧ h.stallSlot = slot) ∧
    (c.stall ≠ 0 → c.lstall * 1024 ≤ c.stall → c.halt = none → c.fault = none → ∃ t, exec (.linkstall die core) s = .next t ∧
      t.segs = s.segs ∧ t.dies = s.dies ∧
      (∀ x, t.coreAt x = { s.coreAt x with fault := (t.coreAt x).fault, halt := (t.coreAt x).halt }) ∧
      (t.coreAt k).fault = some { code := 0x25, row := c.pos.row, elem := BitVec.ofNat 64 c.stallPort, slot := c.stallSlot, addr := 0 })

namespace Sys2Proof.Says

/-! ### Barriers and circular buffers -/

/-- A core has recorded another scope for a barrier id in the phase (R290). -/
def clashes (s : State) (id scope : Nat) : Prop :=
  ∃ e ∈ s.launchCores s.core.ctx s.core.lid, e.2.arr.getLsbD id = true ∧ (SMap.get {} e.2.arrivals id).scope ≠ scope

/-- The core whose instructions run arrives at a barrier id in a scope: its bit is set, the arrival is recorded with what it covers, and its
interval ends (R288, R312); the completion may see it within 16 ticks on its die and 64 elsewhere (R290). -/
def arrivesAt (s : State) (c : Core) (k : BitVec 4) (scope : Nat) : Prop :=
  ∃ due, s.tick < due ∧ due ≤ s.tick + (if scope = 0 then 16 else 64) ∧
    c = { s.core with arr := s.core.arr ||| 1#16 <<< k.toNat, interval := s.core.interval + 1, pos := c.pos,
                      arrivals := SMap.set {} s.core.arrivals k.toNat ⟨scope, s.core.sendNo, s.core.interval, due⟩ }

/-- The barrier instructions with an arrival, and their scopes. -/
noncomputable def arrivalForms (k : BitVec 4) : List (Instr × Instr × Nat) :=
  [(.baraDie k, .barDie k, 0), (.baraLaunch k, .barLaunch k, 1), (.baraSys k, .barSys k, 2)]

/-- A core counts as arrived at a barrier id: it has left its launch, or its arrival has come and all that it sent before has been applied
(R288, R290). -/
def counted (s : State) (e : Nat × Core) (id scope : Nat) : Prop :=
  let a := SMap.get {} e.2.arrivals id
  e.2.run.left = true ∨ (e.2.arr.getLsbD id = true ∧ a.scope = scope ∧ a.due ≤ (s.dieAt (keyDie e.1)).tick ∧ e.2.pendingBefore a.after = false)

/-- A phase completes at its participants: each has its bits changed, and has observed the others (R288, R312). -/
def completes (s t : State) (ps : List (Nat × Core)) (id : Nat) : Prop :=
  t.segs = s.segs ∧ t.dies = s.dies ∧ ∀ j, let x := s.coreAt j
    ((ps.map Prod.fst).count j = 0 → t.coreAt j = x) ∧
    ((ps.map Prod.fst).count j = 1 →
      t.coreAt j = { x with arr := x.arr &&& ~~~(1#16 <<< id), ph := x.ph ^^^ 1#16 <<< id, arrivals := SMap.set {} x.arrivals id {},
                            observed := (t.coreAt j).observed } ∧
      ∀ e ∈ ps, e.2.arr.getLsbD id = true →
        (SMap.get {} e.2.arrivals id).interval.toNat ≤ (SMap.get 0 (t.coreAt j).observed e.2.lcore).toNat)

/-- The buffer object at the address in a register. -/
def bufferAt (s : State) (a : Reg) : Cbuf := cbufOf (Memory.load s.core.scratch (s.core.rdS a).toNat 64)
/-- The address is aligned and in range, nothing upsets the access, and the object there is well formed (R291). -/
def bufferGood (s : State) (a : Reg) : Prop :=
  let x := (s.core.rdS a).toNat
  fits s x 64 ∧ badIn s.core.badScratch x 64 = false ∧ settled s x 64 ∧ quiet s .buffer x 64 ∧ (bufferAt s a).ok (s.spEnd s.cur) = true
/-- A counter of the object goes up by one, a register takes a value, and nothing else changes but what a store changes (R292). -/
def bumps (s t : State) (a : Reg) (off : Nat) (d : Reg) (v : Word) : Prop :=
  let x := (s.core.rdS a).toNat
  atomically s t x 64 (fun i => if off ≤ i ∧ i < off + 4 then (memW s.core.scratch (x + off) + 1).extractLsb' (8 * (i - off)) 8
    else sp s (x + i)) d v

end Sys2Proof.Says

/-- R22, R129, R287 to R290, R312: `BARA` arrives, `BAR` arrives once and then waits, `BARW` waits for the phase of its id; an id that is not
reserved raises `SPBOUND`, a scope that clashes `CBMISUSE`; a phase completes at its participants when each has arrived, and one of system scope
as the tree of modules has it: a module whose cores and children have reported, be it that its cores have left, reports to its parent, or as the
root releases its children. How a report is laid out in a flit, and the number of its circuit, are the model's choice (log 25). -/
def Obligations.Barriers : Prop :=
  ∀ (s : State) (k : BitVec 4),
    let c := s.core
    let id := k.toNat
    let open_ := c.barriers.getLsbD id = true
    let here := c.arr.getLsbD id = true
    (∀ e ∈ arrivalForms k,
      let scope := if e.2.2 = 2 ∧ (c.targets 15).isEmpty = true then 1 else e.2.2
      (∀ i ∈ [e.1, e.2.1],
        (¬open_ → ∃ t, exec i s = .next t ∧ faults s t (lFault s 0x20 0)) ∧ (5 ∈ s.delays i ↔ open_ ∧ here) ∧
        (open_ → here → exec i s = .next s)) ∧
      (open_ → ¬here → ¬clashes s id scope →
        (∃ t, exec e.1 s = .next t ∧ alone s t ∧ arrivesAt s t.core k scope ∧ t.core.pos = c.pos) ∧
        (c.pos.barIn = none → ∃ t, exec e.2.1 s = .next t ∧ alone s t ∧ arrivesAt s t.core k scope ∧
          t.core.pos = { c.pos with barIn := some id })) ∧
      (open_ → ¬here → clashes s id scope →
        (∃ t, exec e.1 s = .next t ∧ faults s t (lFault s 0x2A 0)) ∧
        (c.pos.barIn = none → ∃ t, exec e.2.1 s = .next t ∧ faults s t (lFault s 0x2A 0))) ∧
      (open_ → ¬here → c.pos.barIn ≠ none → ∃ t, exec e.2.1 s = .next t ∧ becomes s t { c with pos := { c.pos with barIn := none } })) ∧
    (¬open_ → ∃ t, exec (.barw k) s = .next t ∧ faults s t (lFault s 0x20 0)) ∧ (open_ → exec (.barw k) s = .next s) ∧
    (5 ∈ s.delays (.barw k) ↔ open_ ∧ here) ∧
    ∀ (ctx : Byte) (lid : BitVec 16) (die : DieNo),
      let all := fun (ps : List (Nat × Core)) (n : Nat) => (∀ e ∈ ps, counted s e id n) ∧ ∃ e ∈ ps, e.2.run.left = false
      (∀ z ∈ [(Scope.die, 0), (.launch, 1)], let ps := participants s ctx lid z.1 die.toNat
        all ps z.2 → ∃ t, exec (.barrierComplete ctx lid z.1 die k) s = .next t ∧ t.mod = s.mod ∧ completes s t ps id) ∧
      ∀ l, s.outstanding ctx lid = some l →
        let ps := participants s ctx lid .sys 0
        let kids := childTrunks (s.sysTargets ctx lid)
        let ready := (∀ e ∈ ps, counted s e id 2) ∧ ps ≠ [] ∧ s.sysTargets ctx lid ≠ [] ∧ ∀ n ∈ kids, (id, n) ∈ l.sysIn
        let done := (∀ n ∈ kids, s.sysRoom l n = true) → ∃ t, exec (.barrierComplete ctx lid .sys die k) s = .next t ∧ completes s t ps id ∧
          t.mod = { s.mod with launches := t.mod.launches, ports := t.mod.ports } ∧ t.outstanding ctx lid = some (l.sysDone id kids)
        match parentTrunk (s.sysTargets ctx lid) with
        | none => ready → done
        | some p => (l.sysGo.getLsbD id = true → done) ∧
          (l.sysGo.getLsbD id = false → ready → l.sysSent.getLsbD id = false → s.sysRoom l p = true → ∀ n, SMap.get 0 l.trunks p = n + 1 →
            ∃ t, exec (.barrierComplete ctx lid .sys die k) s = .next t ∧ t.cores = s.cores ∧ t.segs = s.segs ∧ t.dies = s.dies ∧
              t.outstanding ctx lid = some { l with sysSent := l.sysSent ||| 1#16 <<< id } ∧
              (∀ m, m ≠ n → t.port m = s.port m) ∧
              t.port n = (s.port n).push (dataFlits ⟨7, 0, 0, 0, id⟩ [] (Config.circuitNumber l.pkt.ctx l.pkt.lid 384 15 0 0) (s.port n).nextSend))

/-- R129, R291 to R293, R312: the instructions on a circular buffer move its counters and give a stage's address; one that finds no stage is
held, or raises `CBMISUSE` as a malformed object does; a bad address raises `SPBOUND`. -/
def Obligations.CircularBuffers : Prop :=
  ∀ (s : State) (d a : Reg),
    let c := s.core
    let x := (c.rdS a).toNat
    let b := bufferAt s a
    let stage := fun (n : W32) => BitVec.ofNat 64 (b.base + n.toNat % b.stages * b.ssize)
    let seen := fun (m : Commit) => c.commits.find? (fun e => e.obj == x && e.stage == b.waited.toNat) = some m
    let misuse := { lFault s 0x2A 0 with elem := BitVec.ofNat 64 x }
    (∀ i ∈ [Instr.cbacq d a, .cbcomLocal a, .cbwait d a, .cbrel a],
      (¬fits s x 64 → ∃ t, exec i s = .next t ∧ faults s t (lFault s 0x20 x)) ∧
      (fits s x 64 → badIn c.badScratch x 64 = false → settled s x 64 → b.ok (s.spEnd s.cur) = false →
        ∃ t, exec i s = .next t ∧ faults s t misuse)) ∧
    (bufferGood s a →
      (5 ∈ s.delays (.cbacq d a) ↔ b.stages ≤ (b.acq - b.tail).toNat) ∧
      (3 ∈ s.delays (.cbwait d a) ↔ b.head = b.waited ∨ ∃ m, seen m ∧ s.tick ≤ m.tick) ∧
      ((b.acq - b.tail).toNat < b.stages → ∃ t, exec (.cbacq d a) s = .next t ∧ bumps s t a 0x14 d (stage b.acq)) ∧
      (b.stages ≤ (b.acq - b.tail).toNat → exec (.cbacq d a) s = .next s) ∧
      (b.head ≠ b.acq → ∃ t, exec (.cbcomLocal a) s = .next t ∧ bumps s t a 0x0C 0 0) ∧
      (b.head = b.acq → ∃ t, exec (.cbcomLocal a) s = .next t ∧ faults s t misuse) ∧
      (b.head ≠ b.waited → (∀ m, ¬seen m) → ∃ t, exec (.cbwait d a) s = .next t ∧ bumps s t a 0x18 d (stage b.waited)) ∧
      (b.head ≠ b.waited → ∀ m, seen m → m.tick < s.tick → ∃ t u, exec (.cbwait d a) s = .next t ∧ bumps s u a 0x18 d (stage b.waited) ∧
        alone u t ∧ t.core = { u.core with commits := c.commits.filter (fun e => e != m), observed := t.core.observed } ∧
        m.interval.toNat ≤ (SMap.get 0 t.core.observed m.core).toNat) ∧
      (b.tail ≠ b.waited → ∃ t, exec (.cbrel a) s = .next t ∧ bumps s t a 0x10 0 0) ∧
      (b.tail = b.waited → ∃ t, exec (.cbrel a) s = .next t ∧ faults s t misuse))

namespace Sys2Proof.Says

/-! ### The host interface -/

/-- The mailbox commands and their codes (R66 to R69, R73, R74, R77, R78). -/
noncomputable def commands : List ((BitVec 16 → Instr) × Byte) :=
  [(.negotiate, 0x01), (.imageLoad, 0x02), (.imageDrop, 0x03), (.preload, 0x04), (.ctxOpen, 0x05), (.ctxClose, 0x06), (.alloc, 0x07),
   (.free, 0x08), (.cancel, 0x09), (.query, 0x0A)]

/-- A command has been accepted, with a RESULT and results, and what it does besides follows the predicate: BUSY is 1 until it completes. -/
def accepted (s : State) (i : BitVec 16 → Instr) (seq : BitVec 16) (code result : Byte) (res : List (Nat × Word)) (p : State → Prop) : Prop :=
  ∃ t j, exec (i seq) s = .next t ∧ t.mod.mbx = some j ∧ j.code = code ∧ j.seq = seq ∧ j.result = result ∧ j.res = res ∧
    j.acted = false ∧ (s.dieAt 0).tick < j.due ∧ p t
/-- The state of a launch as QUERY and CANCEL give it (R67). -/
def launchState (x : Launch) : Nat := match x.st with | .waiting => 1 | .placed => 2 | .running => 3 | .suspended => 4
/-- Nothing but the mailbox has changed. -/
def onlyMailbox (s t : State) : Prop :=
  t.cores = s.cores ∧ t.segs = s.segs ∧ t.dies = s.dies ∧ t.mod = { s.mod with mbx := t.mod.mbx } ∧ t.turns = s.turns

/-- An entry of the error log has been written, and nothing else has changed but that vector 1 is raised (R72). -/
def logs (s t : State) (code ctx : Byte) (lid : BitVec 16) (detail : Nat) : Prop :=
  t.cores = s.cores ∧ t.segs = s.segs ∧ t.dies = s.dies ∧
    t.mod = { s.mod with errlog := t.mod.errlog, errhead := s.mod.errhead + 1, msix := s.mod.msix ++ [1] } ∧
    t.mod.errlog.getLast? = some ([code, ctx] ++ leBytes 2 lid.toNat ++ leBytes 4 detail ++ leBytes 8 s.walltNs)

end Sys2Proof.Says

/-- R65 to R69, R73, R74, R77, R78: a command word is accepted while READY is 1 and BUSY is 0, and logged and discarded while BUSY is 1; before a
negotiation every command but NEGOTIATE ends in NOTNEG; and what the commands do and answer. CANCEL takes effect in a tick after the one that
accepts it, and answers the state that its launch had at the start of that tick. The model's choices: that other commands take effect as they are
accepted (log 15), which addresses, segments and cores ALLOC, FREE and PRELOAD count (log 27), that IFVER reads 0 while a NEGOTIATE runs (log 40),
results that R67, R73 and R78 do not name (log 47), that an ALLOC of 0 bytes ends in BADARG also where its context is not open (log 50),
and that a PRELOAD answers once its cores are warm (log 52). -/
def Obligations.MailboxCommands : Prop :=
  ∀ (s : State) (seq : BitVec 16), s.mod.ready = true →
    let a := (SMap.get 0 s.mod.args 0).toNat
    let b := (SMap.get 0 s.mod.args 1).toNat
    let lo := a % 65536
    let hi := a / 65536
    let does := fun (i : BitVec 16 → Instr) (code result : Byte) (res : List (Nat × Word)) => accepted s i seq code result res (onlyMailbox s)
    (∀ e ∈ commands,
      (s.mod.mbx.isSome = true ∨ s.mod.leadchg = true →
        ∃ t, exec (e.1 seq) s = .next t ∧ logs s t 0x45 0 0 (e.2.toNat + 256 * seq.toNat)) ∧
      (s.mod.mbx = none → s.mod.leadchg = false →
        (e.2 ≠ 0x01 → s.mod.neg = false → does e.1 e.2 0x06 []) ∧
        ∃ t j, exec (e.1 seq) s = .next t ∧ t.mod.mbx = some j ∧ j.code = e.2 ∧ j.seq = seq)) ∧
    (s.mod.mbx = none → s.mod.leadchg = false →
      (a < 2 ^ 32 → lo ≤ hi → lo ≤ 0x0102 → 0x0100 ≤ hi →
        accepted s .negotiate seq 0x01 0x00 [(0, BitVec.ofNat 64 (min hi 0x0102))] (fun t => t.mod.neg = false ∧ t.mod.ifver = 0)) ∧
      (a < 2 ^ 32 → lo ≤ hi → (0x0102 < lo ∨ hi < 0x0100) → accepted s .negotiate seq 0x01 0x01 [] (fun t => t.mod.neg = false)) ∧
      (2 ^ 32 ≤ a ∨ hi < lo → does .negotiate 0x01 0x02 []) ∧
      (s.mod.neg = true →
        (a % 64 = 0 → a + b ≤ 2 ^ 52 → b ≠ 0 → accepted s .imageLoad seq 0x02 0x00 [] (fun t => ∃ r,
          t.mod.cacheReqs = s.mod.cacheReqs ++ [r] ∧ r.use = .image ∧ r.base = a ∧ r.len = b ∧ r.done = 0 ∧ r.data = [])) ∧
        (a % 64 ≠ 0 → does .imageLoad 0x02 0x02 []) ∧
        (a < 2 ^ 32 → s.imageOf (BitVec.ofNat 32 a) = none → does .imageDrop 0x03 0x05 [] ∧
          (b < 2 ^ 9 → 1 ≤ b / 16 → b / 16 ≤ 24 → does .preload 0x04 0x05 [])) ∧
        (a < 2 ^ 32 → ∀ i, s.imageOf (BitVec.ofNat 32 a) = some i →
          ((∃ l ∈ s.mod.launches, l.pkt.image = BitVec.ofNat 32 a) → does .imageDrop 0x03 0x04 []) ∧
          ((∀ l ∈ s.mod.launches, l.pkt.image ≠ BitVec.ofNat 32 a) → accepted s .imageDrop seq 0x03 0x00 [] (fun t =>
            (∀ x ∈ t.mod.images, x.id ≠ BitVec.ofNat 32 a) ∧ ∀ k, (t.coreAt k).image ≠ some (BitVec.ofNat 32 a))) ∧
          (b < 2 ^ 9 → 1 ≤ b / 16 → b / 16 ≤ 24 →
            let ks := ((s.path (b % 16)).filter (fun k => !(s.coreAt k).placed)).take (b / 16)
            accepted s .preload seq 0x04 0x00 [(0, BitVec.ofNat 64 ks.length)] (fun t => ∀ k ∈ ks, (t.coreAt k).image = some i.id ∧
              ((s.coreAt k).image ≠ some i.id → (t.coreAt k).expandAt = (s.dieAt (keyDie k)).tick + (64 + (i.rows.length + 7) / 8) ∧
                ∀ x, t.mod.mbx = some x → (s.dieAt 0).tick + (64 + (i.rows.length + 7) / 8) < x.due)))) ∧
        (1 ≤ a → a < 256 → b < 4 → (SMap.get {} s.mod.contexts a).opened = false → accepted s .ctxOpen seq 0x05 0x00 [] (fun t =>
          (∀ k, SMap.get {} t.mod.contexts k = if k = a then ⟨true, b % 2 == 1, b / 2 == 1⟩ else SMap.get {} s.mod.contexts k) ∧
          ∀ k, SMap.get {} t.mod.descs k = if k / 256 = a then {} else SMap.get {} s.mod.descs k)) ∧
        (a = 0 ∨ 256 ≤ a ∨ 4 ≤ b ∨ (SMap.get {} s.mod.contexts a).opened = true → does .ctxOpen 0x05 0x02 []) ∧
        (a < 256 → (SMap.get {} s.mod.contexts a).opened = false → does .ctxClose 0x06 0x05 []) ∧
        (a < 256 → (SMap.get {} s.mod.contexts a).opened = true →
          ((∃ l ∈ s.mod.launches, l.pkt.ctx.toNat = a) → does .ctxClose 0x06 0x04 []) ∧
          ((∀ l ∈ s.mod.launches, l.pkt.ctx.toNat ≠ a) → accepted s .ctxClose seq 0x06 0x00 [] (fun t =>
            SMap.get {} t.mod.contexts a = {} ∧ (∀ k, k / 256 = a → SMap.get {} t.mod.descs k = {}) ∧
              ∀ x ∈ t.mod.allocs, x.ctx.toNat ≠ a))) ∧
        (b = 0 → a < 256 → does .alloc 0x07 0x02 []) ∧
        (let c := (SMap.get 0 s.mod.args 2).toNat
         let shards := c % 512
         let dies := c / 512 % 16 + 1
         let code := c / 8192 % 4
         let stride := roundUp b (pageBytes code)
         let ctx : Byte := BitVec.ofNat 8 a
         let base := s.freeBase ctx (pageBytes code)
         let handle := BitVec.ofNat 64 (s.mod.handles + 1)
         a < 256 → (SMap.get {} s.mod.contexts a).opened = true → b ≠ 0 → c < 2 ^ 16 → shards ≠ 0 → shards ≤ 384 → dies ≤ shards → code ≠ 3 →
         SMap.get 0 s.mod.args 3 = 0 → (∀ x ∈ s.mod.allocs, x.handle ≠ 0) → base + stride * shards ≤ 2 ^ 48 →
         (s.allocPlaces ctx shards dies (stride / 128) (pageBytes code) none = none → does .alloc 0x07 0x03 []) ∧
         ∀ ps s1, s.allocPlaces ctx shards dies (stride / 128) (pageBytes code) none = some ps →
           s.mapParts (newAlloc s ctx base stride shards ps (c / 32768 == 1) code) code 0 ps = some s1 →
           (∀ p ∈ ps, (s.segAt p.1).clean = true ∧ ((s.segAt p.1).owner = 0 ∨ (s.segAt p.1).owner = ctx) ∧ s.attached p.1 = false) ∧
           accepted s .alloc seq 0x07 0x00 [(0, BitVec.ofNat 64 base), (1, handle), (2, BitVec.ofNat 64 stride)] (fun t =>
             t.mod.allocs = s.mod.allocs ++ [newAlloc s ctx base stride shards ps (c / 32768 == 1) code] ∧ t.dies = s1.dies ∧
             ∀ k, (t.segAt k).owner = if k ∈ ps.map Prod.fst then ctx else (s.segAt k).owner)) ∧
        ((∀ x ∈ s.mod.allocs, x.handle.toNat ≠ a) → does .free 0x08 0x05 []) ∧
        (∀ x, s.mod.allocs.find? (fun y => y.handle.toNat == a) = some x →
          (s.allocInUse x = true → does .free 0x08 0x04 []) ∧
          (s.allocInUse x = false → accepted s .free seq 0x08 0x00 [] (fun t => ∀ y ∈ t.mod.allocs, y.handle ≠ x.handle))) ∧
        (a < 2 ^ 32 → a / 256 % 256 = 0 →
          let l := s.outstanding (BitVec.ofNat 8 a) (BitVec.ofNat 16 hi)
          does .cancel 0x09 0x00 [] ∧ (l = none → does .query 0x0A 0x00 [(0, 0)]) ∧
          ∀ x, l = some x → does .query 0x0A 0x00 [(0, BitVec.ofNat 64 (launchState x))]) ∧
        (2 ^ 32 ≤ a ∨ a / 256 % 256 ≠ 0 → does .cancel 0x09 0x02 [] ∧ does .query 0x0A 0x02 []))) ∧
    ∀ j, s.mod.mbx = some j → j.code = 0x09 → j.result = 0 → j.acted = false →
      let l := s.outstanding (BitVec.ofNat 8 a) (BitVec.ofNat 16 hi)
      let acts := fun (result : Byte) (res : List (Nat × Word)) (p : State → Prop) => ∃ t x, exec .mailboxComplete s = .next t ∧ t.mod.mbx = some x ∧
        x = { j with result := result, res := res, acted := true, due := x.due } ∧ (s.dieAt 0).tick < x.due ∧ p t
      s.noteCancel.mod.mbx = some { j with seen := l.map launchState } ∧
      ((s.dieAt 0).tick < j.at_ → exec .mailboxComplete s = .refused .notEnabled) ∧
      (j.at_ ≤ (s.dieAt 0).tick →
        (j.seen = none → acts 0x05 [] (onlyMailbox s)) ∧
        ∀ q, j.seen = some q → let res := [(0, BitVec.ofNat 64 q)]
          (l = none → acts 0x00 res (onlyMailbox s)) ∧
          ∀ x, l = some x →
            (x.ended = true → acts 0x00 res (onlyMailbox s)) ∧
            (x.ended = false → x.st = .waiting → x.silent = false → acts 0x00 res (fun t => ∃ r out,
              t.mod.cacheReqs = s.mod.cacheReqs ++ [r] ∧ r.use = .record x.pkt.ctx x.pkt.lid x.pkt.msix out ∧ r.base = x.pkt.completion ∧
              r.data.getD 6 0 = 0x12)) ∧
            (x.ended = false → x.st ≠ .waiting → x.restoring = false →
              acts 0x00 res (fun t => t.mod.cacheReqs = s.mod.cacheReqs ∧ t.cores = (s.haltLaunch s.leadAnchor x.pkt.ctx (some x.pkt.lid) 0x12).cores)))

/-- R60, R63 to R66, R70 to R72, R89, R242: a command completes with its results, RESULT and SEQ, and vector 0 unless it is masked; writes of
registers and of the launch window; packets of one tick are checked in the order of their offsets; and the answers of the host, to each request for
itself. That a packet which has arrived is checked after its tick is the model's inference (log 42). Of a write to the window of a wrong shape while NEG is 0, and of a command word with bits set above bit 23, the outcome is the model's
choice (log 47). -/
def Obligations.HostInterface : Prop :=
  ∀ (s : State) (j : MbxJob) (v : Word) (off : BitVec 20) (place : Nat) (data : List Byte) (line : Nat) (r : CacheReq),
    let m := s.mod
    let pkt := packetOf data
    (m.mbx = some j → ¬(j.code = 9 ∧ j.result = 0 ∧ j.acted = false) → m.imagePending = false → j.due ≤ (s.dieAt 0).tick →
      ∃ t, exec .mailboxComplete s = .next t ∧ t.cores = s.cores ∧ t.segs = s.segs ∧ t.dies = s.dies ∧
      (let good := j.code = 1 ∧ j.result = 0
       t.mod = { m with mbx := none, res := t.mod.res, result := j.result, seqDone := j.seq, neg := t.mod.neg, ifver := t.mod.ifver
                        msix := m.msix ++ (if m.msixMask.getLsbD 0 then [] else [0]) } ∧
       (good → t.mod.neg = true ∧ ∀ w l, j.res = (0, w) :: l → t.mod.ifver = w.setWidth 16) ∧
       (¬good → t.mod.neg = m.neg ∧ t.mod.ifver = m.ifver)) ∧
      ∀ n w, n < 8 → j.res.find? (fun e => e.1 == n) = some (n, w) → SMap.get 0 t.mod.res n = w) ∧
    (∀ n, n < 8 → off.toNat = 0x1040 + 8 * n → m.mbxBusy = false → ∃ t, exec (.registerWrite off v) s = .next t ∧ t.cores = s.cores ∧
      t.segs = s.segs ∧ t.dies = s.dies ∧ t.mod = { m with args := t.mod.args } ∧
      ∀ k, SMap.get 0 t.mod.args k = if k = n then v else SMap.get 0 m.args k) ∧
    (0x10000 ≤ off.toNat → off.toNat < 0x20000 → ∃ t, exec (.registerWrite off v) s = .next t ∧ logs s t 0x40 0 0 (off.toNat - 0x10000)) ∧
    (off.toNat ≠ 0x1000 → ¬(0x10000 ≤ off.toNat ∧ off.toNat < 0x20000) → (∀ n, n < 8 → off.toNat ≠ 0x1040 + 8 * n) ∨ m.mbxBusy = true →
      exec (.registerWrite off v) s = .next s) ∧
    (∀ e ∈ commands, v.toNat < 2 ^ 24 → v.setWidth 8 = e.2 →
      exec (.registerWrite 0x1000 v) s = exec (e.1 (v.extractLsb' 8 16)) s) ∧
    (m.ready = true → m.mbxBusy = false → m.neg = true → 2 ^ 24 ≤ v.toNat → ∃ t x, exec (.registerWrite 0x1000 v) s = .next t ∧
      onlyMailbox s t ∧ t.mod.mbx = some x ∧ x.result = 0x02) ∧
    (place < 0x10000 →
      (data.length ≠ 128 ∨ place % 128 ≠ 0 → ∃ t, exec (.lwinWrite place data) s = .next t ∧ logs s t 0x40 0 0 place) ∧
      (data.length = 128 → place % 128 = 0 →
        (m.neg = false → ∃ t, exec (.lwinWrite place data) s = .next t ∧ logs s t 0x42 pkt.ctx pkt.lid place) ∧
        (m.neg = true → ∃ t, exec (.lwinWrite place data) s = .next t ∧ t.cores = s.cores ∧ t.segs = s.segs ∧ t.dies = s.dies ∧
          t.mod = { m with inbox := m.inbox ++
            [{ bytes := data, off := place, tick := (s.dieAt 0).tick, wall := s.walltNs, parent := none, sender := none }] }))) ∧
    (∀ x y, m.inbox = [y, x] → x.off < y.off →
      s.checkInbox = (({ s with mod := { m with inbox := [] } } : State).receivePacket x).receivePacket y) ∧
    (∀ (x : Arrived), x.parent = none →
      let pkt := packetOf x.bytes
      let t := s.receivePacket x
      let status := s.packetStatus pkt x.sender
      (status = 0 → m.lqfree ≠ 0 → t.cores = s.cores ∧ t.segs = s.segs ∧ t.dies = s.dies ∧ ∃ l, l.pkt = pkt ∧ l.st = .waiting ∧ l.arrive = x.wall ∧
        l.parent = none ∧ l.ended = false ∧ t.mod = { m with launches := m.launches ++ [l], arrivals := m.arrivals + 1 }) ∧
      (status = 0 → m.lqfree = 0 → logs s t 0x41 pkt.ctx pkt.lid x.off) ∧
      (status ≠ 0 → pkt.completion % 64 ≠ 0 → logs s t status pkt.ctx pkt.lid x.off) ∧
      (status ≠ 0 → pkt.completion % 64 = 0 → ∃ r, t.mod = { m with cacheReqs := m.cacheReqs ++ [r] } ∧
        r.use = .record pkt.ctx pkt.lid pkt.msix false ∧ r.base = pkt.completion ∧ r.len = 64 ∧ r.data.length = 64 ∧ r.data.getD 6 0 = status)) ∧
    (∃ t, exec (.snoop line) s = .next t ∧ t.cores = s.cores ∧ t.segs = s.segs ∧ t.dies = s.dies ∧ t.mod = { m with lines := t.mod.lines } ∧
      ∀ x, x ∈ t.mod.lines ↔ x ∈ m.lines ∧ x ≠ line) ∧
    (m.cacheReqs.find? (fun x => x.id == r.id) = some r →
      let rs := m.cacheReqs.filter (fun x => x.id != r.id)
      (∀ (ctx : Byte) (lid : BitVec 16) (msix out : Bool), r.use = .record ctx lid msix out → r.base % 64 = 0 →
        r.len = 64 → r.done = 0 → r.data.length = 64 →
        let after := fun (t : State) (x : List Nat) => t.mod.cacheReqs = rs ∧ t.mod.msix = x ++ (if msix then [2 + ctx.toNat % 62] else []) ∧
          (∀ l, l ∈ t.mod.launches ↔ l ∈ m.launches ∧ ¬(out = true ∧ l.pkt.ctx = ctx ∧ l.pkt.lid = lid))
        (∃ t, exec (.cxlCacheResponse ⟨r.id, .taken⟩) s = .next t ∧ t.cores = s.cores ∧ t.segs = s.segs ∧ t.dies = s.dies ∧ after t m.msix ∧
          ∀ y, Memory.byte t.mod.hostMem y = if r.base ≤ y ∧ y < r.base + 64 then r.data.getD (y - r.base) 0 else Memory.byte m.hostMem y) ∧
        ∃ t, exec (.cxlCacheResponse ⟨r.id, .refused⟩) s = .next t ∧ after t (m.msix ++ [1]) ∧ t.mod.hostMem = m.hostMem ∧
          t.mod.errhead = m.errhead + 1) ∧
      (r.use = .image →
        (∃ t, exec (.cxlCacheResponse ⟨r.id, .refused⟩) s = .next t ∧ t.mod.cacheReqs = rs ∧ t.mod.images = m.images ∧
          ∀ j, m.mbx = some j → t.mod.mbx = some { j with result := 0x07, res := [] }) ∧
        (data.length = 64 → 64 * r.done + 64 < r.len → ∃ t, exec (.cxlCacheResponse ⟨r.id, .line data⟩) s = .next t ∧ t.mod.images = m.images ∧
          t.mod.mbx = m.mbx ∧ t.mod.cacheReqs = { r with done := r.done + 1, data := (r.data ++ data).take r.len } :: rs)))

namespace Sys2Proof.Says

/-! ### Ports to other modules, and time -/

/-- Nothing has changed but one port, which has become `p`. -/
def onlyPort (s t : State) (n : Nat) (p : Port) : Prop :=
  t.cores = s.cores ∧ t.segs = s.segs ∧ t.dies = s.dies ∧ t.mod = { s.mod with ports := t.mod.ports } ∧ t.port n = p ∧
    ∀ k, k ≠ n → t.port k = s.port k

/-- A flit acknowledges one that has a SEQ (R284). -/
def acks (g : Flit) (seq : Byte) : Prop := g.type = 2 ∧ g.seq = seq ∧ flitGood g = true

/-- A port is to be retired (R286): it has failed to train, one flit has failed its CRC three times, here or at the far end, or its lane has had no
lock for more than 1 ms. -/
def retires (s : State) (die : DieNo) (p : Port) : Prop :=
  p.retired = false ∧ (p.failed = true ∨ (∃ e ∈ p.crcFails ++ p.naks, 3 ≤ e.2) ∨ ∃ t, p.lostAt = some t ∧ t + 3600000 < (s.dieAt die.toNat).tick)

/-- Nothing has changed but the timing port and what the servo sets (R326 to R330). -/
def onlyTime (s t : State) : Prop :=
  t.cores = s.cores ∧ t.segs = s.segs ∧ t.dies = s.dies ∧ t.mod = { s.mod with ptp := t.mod.ptp, tslock := t.mod.tslock, wallt := t.mod.wallt }
/-- The timing port has become `p`, and nothing else has changed. -/
def portBecomes (s t : State) (p : Ptp) : Prop := onlyTime s t ∧ t.mod.ptp = p ∧ t.mod.tslock = s.mod.tslock ∧ t.mod.wallt = s.mod.wallt

/-- A time of the port's own, within 4 ns of wall time (R326); all times in units of 2^−32 ns. -/
def nearWall (s : State) (x : Int) : Prop := -(4 * 2 ^ 32) ≤ x - s.mod.wallt ∧ x - s.mod.wallt ≤ 4 * 2 ^ 32
/-- The time that a message carries, less its correction or plus it. -/
def msgTime (m : PtpMsg) : Int := (m.timestamp : Int) * 2 ^ 32
def msgCorr (m : PtpMsg) : Int := m.correction * 2 ^ 16

/-- The servo has taken an offset from the master (R328, R329): slewed up to 1 µs and stepped beyond, with a rate of at most 500 ppm, and TSLOCK
where the filtered offset is within 25 ns. -/
def servoTakes (s t : State) (off : Int) : Prop :=
  let p := t.mod.ptp
  p.st = .slave ∧ p.holdover = false ∧ (p.ppsOut = true ↔ s.mod.ptp.ppsOut = true ∧ t.mod.tslock = true) ∧ p.offset = Config.servoFilter s.mod.ptp.offset off ∧ t.mod.wallt = s.mod.wallt ∧
    (off.natAbs ≤ 1000 * 2 ^ 32 → p.stepDue = none ∧ p.rate.natAbs ≤ 596523 ∧ (t.mod.tslock = true ↔ p.offset.natAbs ≤ 25 * 2 ^ 32)) ∧
    (1000 * 2 ^ 32 < off.natAbs → p.stepDue = some (-off) ∧ p.rate = s.mod.ptp.rate ∧ t.mod.tslock = false)

end Sys2Proof.Says

/-- R272, R274, R276, R280, R283 to R286: a port of an Igdin link trains at the highest version that both ends know, and keeps or takes the home port
of its trunk; its lane carries 448 Gb/s; it takes and acknowledges the flit that is awaited, acknowledges again one that it has taken, refuses one that fails its CRC
and discards any other; an acknowledged flit leaves the replay buffer, and a refused one goes out again with those after it; an operation that has
come whole waits for its core of the peer launch, and its last flit is acknowledged as it leaves; a port that fails is retired, which raises
`LINKDOWN` in the cores of the running launches that use it. The model's choices: the layout of a payload, circuit numbers, and when the last flit is
acknowledged (log 25), and that a write from another module is one of writer 1023 with no interval (log 42). -/
def Obligations.LinkPorts : Prop :=
  ∀ (s : State) (die : DieNo) (link : BitVec 4) (n : Nat) (far : FarEnd) (f : Flit) (seq : Byte), portNo die link = some n →
    let p := s.port n
    let common := far.versionLow.toNat ≤ 0x11 ∧ 0x10 ≤ far.versionHigh.toNat
    let same := p.everUp = true ∧ p.identity = far.identity
    let mates := s.mod.ports.filter (fun e => e.1 != n && e.2.everUp && e.2.identity == far.identity)
    (p.up = false → common → ∃ (t : State) (home : Nat) (new : Bool), exec (.training die link far) s = .next t ∧ t.cores = s.cores ∧ t.segs = s.segs ∧
      t.dies = s.dies ∧
      t.port n = { p with up := true, failed := false, retired := false, everUp := true, identity := far.identity, home := home, newTrunk := new, lostAt := none, crcFails := [], naks := [], out := p.out.filter (fun x => x.type != 1) ++ p.replay.map Prod.snd, version := if far.versionHigh.toNat < 0x11 then far.versionHigh else 0x11 } ∧
      (same → home = p.home) ∧ (¬same → mates = [] → home = n) ∧
      (¬same → s.mod.boot = none → ∀ h < 72, mates ≠ [] → (∀ e ∈ mates, e.2.home = h) → home = h) ∧
      (∀ k, k ≠ n → ∃ h, t.port k = { s.port k with home := h })) ∧
    (p.up = false → ¬common → ∃ t, exec (.training die link far) s = .next t ∧ onlyPort s t n { p with failed := true }) ∧
    (p.up = true → ∃ t, exec (.laneLockLoss die link) s = .next t ∧
      onlyPort s t n { p with up := false, lostAt := some (s.dieAt die.toNat).tick }) ∧
    (∀ g r, p.out = g :: r → p.up = true →
      (p.credit + 1120 < 2304 → p.laneTick = { p with lane := none, credit := p.credit + 1120 }) ∧
      (2304 ≤ p.credit + 1120 → p.laneTick = { p with lane := some g, out := r, credit := p.credit + 1120 - 2304 })) ∧
    ((∃ g ∈ p.replay, g.2.seq = seq) → ∃ t, exec (.acknowledge die link seq) s = .next t ∧
      onlyPort s t n { p with replay := p.replay.filter (fun e => e.2.seq != seq), naks := (t.port n).naks } ∧
      ∀ q, SMap.get 0 (t.port n).naks q = if q = seq.toNat then 0 else SMap.get 0 p.naks q) ∧
    (∀ l1 g l2, p.replay = l1 ++ g :: l2 → g.2.seq = seq → (∀ x ∈ l1, x.2.seq ≠ seq) →
      ∃ t, exec (.negativeAcknowledge die link seq) s = .next t ∧
        onlyPort s t n { p with naks := (t.port n).naks, out := p.out.filter (fun x => x.type != 1) ++ (g :: l2).map Prod.snd } ∧
        ∀ q, SMap.get 0 (t.port n).naks q = if q = seq.toNat then SMap.get 0 p.naks q + 1 else SMap.get 0 p.naks q) ∧
    (∀ (h : LinkHead) (es : List (List W32)) (circuit : BitVec 12) (from_ : Nat), (∀ e ∈ es, e.length = 8) →
      (dataFlits h es circuit from_).length = (32 * es.length + 8 + 25) / 26 ∧
      ∀ i g, (dataFlits h es circuit from_)[i]? = some g → g.type = 1 ∧ g.seq = BitVec.ofNat 8 (from_ + i) ∧ g.circuit = circuit ∧ flitGood g = true) ∧
    (p.retired = true → exec (.dataFlit die link f) s = .next s) ∧
    (p.retired = false → p.up = true →
      (flitGood f = false → ∃ t g, exec (.dataFlit die link f) s = .next t ∧ g.type = 3 ∧ g.seq = f.seq ∧ flitGood g = true ∧
        onlyPort s t n { p with crcFails := (t.port n).crcFails, out := p.out ++ [g] } ∧
        ∀ q, SMap.get 0 (t.port n).crcFails q = if q = f.seq.toNat then SMap.get 0 p.crcFails q + 1 else SMap.get 0 p.crcFails q) ∧
      (flitGood f = true → f.type ≠ 1 → exec (.dataFlit die link f) s = .next s) ∧
      (flitGood f = true → f.type = 1 → f.seq.toNat ≠ p.nextRecv % 256 →
        let seen := 128 ≤ (f.seq - BitVec.ofNat 8 p.nextRecv).toNat
        let waits := ∃ o ∈ s.mod.farIn, o.link = n ∧ o.flit = f.seq
        (seen → ¬waits → ∃ t g, exec (.dataFlit die link f) s = .next t ∧ acks g f.seq ∧ onlyPort s t n { p with out := p.out ++ [g] }) ∧
        (¬seen ∨ waits → exec (.dataFlit die link f) s = .next s)) ∧
      (flitGood f = true → f.type = 1 → f.seq.toNat = p.nextRecv % 256 →
        let got := SMap.get [] p.received f.circuit.toNat ++ flitBytes f
        let h := headOf got
        let takes := fun (bs : List Byte) (out : List Flit) => { p with nextRecv := p.nextRecv + 1, crcFails := SMap.set 0 p.crcFails f.seq.toNat 0, received := SMap.set [] p.received f.circuit.toNat bs, out := out }
        let known := fun (l : Launch) (c q : Nat) => l ∈ s.mod.launches ∧ l.ended = false ∧ (c < 384 ∧ q < 15 ∨ c = 384 ∧ q = 15) ∧
          Config.circuitNumber l.pkt.ctx l.pkt.lid c q h.core h.rport = f.circuit
        ∃ t g, exec (.dataFlit die link f) s = .next t ∧ acks g f.seq ∧
          t.cores = s.cores ∧ t.segs = s.segs ∧ t.dies = s.dies ∧ (∀ k, k ≠ n → t.port k = s.port k) ∧
          (got.length < 8 + 32 * h.count → t.port n = takes got (p.out ++ [g]) ∧ t.mod = { s.mod with ports := t.mod.ports }) ∧
          (8 + 32 * h.count ≤ got.length → (∀ l c q, ¬known l c q) → t.port n = takes [] (p.out ++ [g]) ∧ t.mod = { s.mod with ports := t.mod.ports }) ∧
          (8 + 32 * h.count ≤ got.length → h.kind ≠ 7 → h.kind ≠ 8 → (∃ l c q, known l c q) → t.port n = takes [] p.out ∧
            ∃ o : FarOp, t.mod = { s.mod with ports := t.mod.ports, farIn := s.mod.farIn ++ [o] } ∧ o.home = p.home ∧ o.link = n ∧ o.flit = f.seq ∧
              o.core = h.core ∧ o.rport = h.rport ∧ o.applied = 0 ∧ ∃ l, known l o.lcore o.port ∧ l.pkt.ctx = o.ctx ∧ l.pkt.lid = o.lid))) ∧
    (∀ o, s.mod.farIn.filter (fun x => x.id == o.id) = [o] →
      let q := s.port o.link
      let t := s.landFar o.id
      let done := t.mod = { s.mod with farIn := s.mod.farIn.filter (fun x => x.id != o.id), ports := t.mod.ports } ∧
        (∀ k, k ≠ o.link → t.port k = s.port k) ∧ (q.up = false → t.port o.link = q) ∧
        (q.up = true → ∃ g, acks g o.flit ∧ t.port o.link = { q with out := q.out ++ [g] })
      ((∀ l ∈ s.mod.launches, l.ended = false → ¬(l.pkt.ctx = o.ctx ∧ l.pkt.lid = o.lid)) → t.cores = s.cores ∧ done) ∧
      ((∃ l ∈ s.mod.launches, l.ended = false ∧ l.pkt.ctx = o.ctx ∧ l.pkt.lid = o.lid) → ∀ j es, s.launchCore o.ctx o.lid o.core = some j →
        (s.coreAt j).deaf = false → o.op = .send es →
        (16 < ((s.coreAt j).recv o.rport).length + es.length → t = s) ∧
        (((s.coreAt j).recv o.rport).length + es.length ≤ 16 → done ∧
          (t.coreAt j).recv o.rport = (s.coreAt j).recv o.rport ++ es.zipIdx.map (fun e =>
            { words := e.1, sender := if e.2 = 0 then some (1023, 0) else none }) ∧
          ∀ k, t.coreAt k = { s.coreAt k with recvQ := (t.coreAt k).recvQ }))) ∧
    (retires s die p → ∃ t, exec (.portRetire die link) s = .next t ∧ t.segs = s.segs ∧ t.dies = s.dies ∧
      t.port n = { p with retired := true, up := false, failed := false, replay := [], out := [], lane := none, credit := 0, received := [], lostAt := none } ∧
      (∀ k, k ≠ n → t.port k = s.port k) ∧
      (∀ k, t.coreAt k = { s.coreAt k with fault := (t.coreAt k).fault, halt := (t.coreAt k).halt }) ∧
      ∀ l ∈ s.mod.launches, l.ended = false → l.st = .running → (∃ h, (h, n + 1) ∈ l.trunks) → ∀ k ∈ s.linkdownCores l n, (s.coreAt k).fault = none →
        ∃ g, (t.coreAt k).fault = some g ∧ g.code = 0x28 ∧ g.slot = 4 ∧ g.elem = BitVec.ofNat 64 n)

/-- R322, R326 to R330: dies exchange tick stamps, and die 0 sends wall time with its own, which a die that is ahead of it waits for while the time is locked; the timing
port follows its master's messages, measures its delay and slews or steps wall time, and drives PPS. That an estimate is within 4 ticks and that a
die takes wall time to within 0.1 ns are the model's choices (log 7). The filter and the gain of the servo, and the comparison of data sets, are
uninterpreted (logs 16 and 17); that the port drops its master in holdover and listens again is the model's reading (log 17). -/
def Obligations.TimingPort : Prop :=
  ∀ (s : State) (m : PtpMsg) (bs : List Byte),
    let p := s.mod.ptp
    let now := (s.dieAt 0).tick
    let mine := m.domain = 0 ∧ p.master = some m.source
    let fits64 := m.timestamp / 1000000000 * 1000000000 < 2 ^ 64
    let rate := -7 ≤ m.interval ∧ m.interval ≤ 1
    (now % 1024 = 0 → ∃ t, exec .tickStamp s = .next t ∧ t.cores = s.cores ∧ t.segs = s.segs ∧ t.mod = s.mod ∧
      ∀ d, t.dieAt d = { s.dieAt d with estimates := (t.dieAt d).estimates, wallt := (t.dieAt d).wallt, wallOver := (t.dieAt d).wallOver, wallRate := (t.dieAt d).wallRate } ∧
        (d = 0 ∨ 16 ≤ d ∨ (s.dieAt d).cutOff = true ∨ (s.dieAt 0).cutOff = true → (t.dieAt d).wallt = (s.dieAt d).wallt ∧
          (t.dieAt d).wallOver = (s.dieAt d).wallOver ∧ (t.dieAt d).wallRate = (s.dieAt d).wallRate) ∧
        (d ≠ 0 → d < 16 → (s.dieAt d).cutOff = false → (s.dieAt 0).cutOff = false → (t.dieAt d).wallRate = p.rate ∧
          ((t.dieAt d).wallt - (t.dieAt d).wallOver - s.mod.wallt : Int).natAbs ≤ 429496730 ∧
          (s.mod.tslock = true → (s.dieAt d).wallt ≤ (t.dieAt d).wallt) ∧ (s.mod.tslock = false → (t.dieAt d).wallOver = 0)) ∧
        (d < 16 → (s.dieAt d).cutOff = true → (t.dieAt d).estimates = []) ∧
        (d < 16 → (s.dieAt d).cutOff = false → ((t.dieAt d).estimates.map Prod.fst =
            (List.range 16).filter (fun e => decide (e ≠ d ∧ (s.dieAt e).cutOff = false))) ∧
          ∀ e ∈ (t.dieAt d).estimates, (e.2 - (((s.dieAt e.1).tick : Int) - (s.dieAt d).tick)).natAbs ≤ 4)) ∧
    (p.st.on = true →
      (mine → ∃ t, exec (.announce m) s = .next t ∧ portBecomes s t { p with dataset := m.dataset }) ∧
      (m.domain ≠ 0 → exec (.announce m) s = .next s) ∧
      (m.domain = 0 → ¬mine → p.master = none ∨ Config.betterDataset m.dataset p.dataset = true → ∃ t, exec (.announce m) s = .next t ∧
        portBecomes s t { p with master := some m.source, dataset := m.dataset, st := .uncalibrated, sync := none, delay := none, transport := none, p2p := if p.st = .slave then none else p.p2p, listenAt := if p.st = .slave then now else p.listenAt }) ∧
      (¬mine → p.master ≠ none → Config.betterDataset m.dataset p.dataset = false → exec (.announce m) s = .next s) ∧
      (¬(mine ∧ fits64 ∧ rate) → exec (.sync m) s = .next s) ∧
      (mine → fits64 → rate → ∃ x, nearWall s x ∧
        (m.twoStep = true → ∃ t, exec (.sync m) s = .next t ∧ portBecomes s t { p with transport := some m.transport, sync := some (m.seq, x, msgCorr m) }) ∧
        (m.twoStep = false → ∃ t, exec (.sync m) s = .next t ∧ onlyTime s t ∧ t.mod.ptp.syncDiff = x - msgTime m - msgCorr m ∧
          t.mod.ptp.transport = some m.transport ∧ t.mod.ptp.lastSync = now ∧ servoTakes s t (x - msgTime m - msgCorr m - p.meanDelay))) ∧
      (∀ q x c, p.sync = some (q, x, c) →
        (q = m.seq → mine → fits64 → ∃ t, exec (.followUp m) s = .next t ∧ onlyTime s t ∧ t.mod.ptp.sync = none ∧
          t.mod.ptp.syncDiff = x - msgTime m - c - msgCorr m ∧ servoTakes s t (x - msgTime m - c - msgCorr m - p.meanDelay)) ∧
        (¬(q = m.seq ∧ mine ∧ fits64) → exec (.followUp m) s = .next s)) ∧
      (p.p2p = some false → p.transport ≠ none → p.delayAt + p.delayEvery ≤ now → ∃ t x, exec .delayReq s = .next t ∧ nearWall s x ∧
        portBecomes s t { p with delay := some (p.delaySeq, x), delaySeq := p.delaySeq + 1, delayAt := now, delayVia := p.transport }) ∧
      (p.p2p ≠ some false → (∀ x, p.pdelayAt = some x → x + 3600000000 ≤ now) → ∃ t x, exec .pdelayReq s = .next t ∧ nearWall s x ∧
        portBecomes s t { p with pdelay := some (p.pdelaySeq, x), pdelaySeq := p.pdelaySeq + 1, pdelayAt := some now }) ∧
      (p.p2p = none → p.listenAt + 10800000000 ≤ now → ∃ t, exec .p2pTimeout s = .next t ∧
        portBecomes s t { p with p2p := some false, pdelay := none })) ∧
    (∀ q x, p.delay = some (q, x) → mine → m.requester = ownPort → q = m.seq → ∃ t, exec (.delayResp m) s = .next t ∧
      portBecomes s t { p with delay := none, delayEvery := t.mod.ptp.delayEvery, meanDelay := (p.syncDiff + (msgTime m - x - msgCorr m)) / 2 } ∧
      (0 ≤ m.interval → t.mod.ptp.delayEvery = 3600000000 * 2 ^ m.interval.toNat)) ∧
    (∀ q x, p.pdelay = some (q, x) → m.domain = 0 → m.requester = ownPort → q = m.seq → p.p2p ≠ some false → ∃ t y, exec (.pdelayResp m) s = .next t ∧
      nearWall s y ∧
      let round := y - x - msgCorr m
      portBecomes s t { p with p2p := some true, pdelay := none, pdelayResp := if m.twoStep then some (q, round + msgTime m) else none, meanDelay := if m.twoStep then p.meanDelay else round / 2 }) ∧
    (∀ q x, p.pdelayResp = some (q, x) → m.domain = 0 → m.requester = ownPort → q = m.seq → ∃ t, exec (.pdelayRespFollowUp m) s = .next t ∧
      portBecomes s t { p with pdelayResp := none, meanDelay := (x - msgTime m - msgCorr m) / 2 }) ∧
    exec (.management bs) s = .next s ∧
    (p.st = .slave ∨ s.mod.tslock = true ∨ p.st = .uncalibrated ∧ p.holdover = false ∧ 0 < p.lastSync → p.lastSync + 7200000000 ≤ now → ∃ t, exec .holdover s = .next t ∧ onlyTime s t ∧ t.mod.tslock = false ∧
      t.mod.wallt = s.mod.wallt ∧ t.mod.ptp = { p with holdover := true, st := .listening, master := none, dataset := [], sync := none, delay := none, p2p := none, listenAt := now, stepDue := none, transport := none, ppsOut := false }) ∧
    (∀ d, p.stepDue = some d → now % 1024 = 0 → s.mod.tslock = false → ∃ t, exec .walltStep s = .next t ∧ onlyTime s t ∧
      t.mod.ptp = { p with stepDue := none } ∧ t.mod.tslock = false ∧ t.mod.wallt = ((s.mod.wallt : Int) + d).toNat) ∧
    (∃ t, exec .ppsIn s = .next t ∧ portBecomes s t { p with ppsIn := s.mod.wallt, rate := t.mod.ptp.rate } ∧
      (p.holdover = false → t.mod.ptp.rate = p.rate) ∧ (p.holdover = true → t.mod.ptp.rate.natAbs ≤ 596523)) ∧
    (p.crossed = true → s.mod.tslock = true → ∃ t, exec .ppsOut s = .next t ∧
      portBecomes s t { p with crossed := false, ppsOut := true, ppsAt := now }) ∧
    (p.ppsOut = true → p.ppsAt + 3600000 ≤ now → ∃ t, exec .ppsOutFall s = .next t ∧ portBecomes s t { p with ppsOut := false })

/-- R61, R62, R383, R385 to R388: the requests of an SPDM connection, in the order of its set-up; the keys, firmware and IDE messages inside a
session; KEY_CLEAR zeroises its slot on every die as `KEYZ` does (R396). What the standards put into a response is uninterpreted (log 17). -/
def Obligations.SecurityMessages : Prop :=
  ∀ (s : State) (body : List Byte),
    let x := s.mod.spdm
    let le := fun (i n : Nat) => leNat ((body.drop i).take n)
    let only := fun (t : State) (y : Spdm) => t.cores = s.cores ∧ t.segs = s.segs ∧ t.dies = s.dies ∧ t.mod = { s.mod with spdm := y }
    let answers := fun (i : List Byte → Instr) (n : Nat) (y : Spdm) => ∃ t, exec (i body) s = .next t ∧
      only t { y with answer := t.mod.spdm.answer } ∧ ∃ content, t.mod.spdm.answer = Config.spdmResponse n body content
    let code := fun (i : List Byte → Instr) (c : Byte) => ∃ t, exec (i body) s = .next t ∧ only t { x with answer := [c] }
    let errs := fun (i : List Byte → Instr) => answers i 0 x
    let slot := (body.getD 2 0).toNat
    let ctx := body.getD 1 0
    let held := fun (d : Nat) => SMap.get {} (s.dieAt d).keys slot
    let taken := ∃ d, d < 16 ∧ (held d).loaded = true ∧ (held d).ctx ≠ ctx
    let image := Memory.bytes s.mod.staged 0 (le 4 4)
    let signed := 512 ≤ image.length ∧
      Config.rsaGood (image.drop (image.length - 512)) (Config.sha512 (image.take (image.length - 512))) = true
    answers .getVersion 1 { version := true, ideKeys := x.ideKeys } ∧
    (x.version = true → answers .getCapabilities 2 { x with caps := true }) ∧ (x.version = false → errs .getCapabilities) ∧
    (x.caps = true → answers .negotiateAlgorithms 3 { x with algs := true }) ∧ (x.caps = false → errs .negotiateAlgorithms) ∧
    (x.algs = true → answers .getDigests 4 x ∧ answers .getCertificate 5 x ∧ answers .challenge 6 x ∧ answers .getMeasurements 7 x ∧
      (x.sessions + x.pending < 4 → answers .keyExchange 8 { x with pending := x.pending + 1 }) ∧
      (4 ≤ x.sessions + x.pending → errs .keyExchange)) ∧
    (x.algs = false → errs .getDigests ∧ errs .getCertificate ∧ errs .challenge ∧ errs .getMeasurements ∧ errs .keyExchange) ∧
    (x.pending ≠ 0 → Config.finishGood body = true → answers .finish 9 { x with pending := x.pending - 1, sessions := x.sessions + 1 }) ∧
    (x.pending = 0 ∨ Config.finishGood body = false → errs .finish) ∧
    (s.mod.ide = true → ∃ t, exec .lwIde s = .next t ∧ t.cores = s.cores ∧ t.mod.insecure = true ∧ t.mod.errhead = s.mod.errhead + 1 ∧
      t.mod.msix = s.mod.msix ++ [1]) ∧
    (x.sessions ≠ 0 → ∃ t, exec (.ideKm body) s = .next t ∧ t.cores = s.cores ∧ t.segs = s.segs ∧ t.dies = s.dies ∧
      t.mod.spdm = { x with ideKeys := (Config.ideMessage x.ideKeys body).1 } ∧ t.mod.ide = (Config.ideMessage x.ideKeys body).2.1) ∧
    (x.sessions ≠ 0 →
      let legal := body.length = 72 ∧ slot ≤ 63 ∧ le 3 5 = 0 ∧ (s.context ctx).opened = true ∧ (s.context ctx).prot = true
      (¬legal → code .keySet 1) ∧ (legal → taken → code .keySet 4) ∧
      (legal → ¬taken → ∃ t, exec (.keySet body) s = .next t ∧ t.cores = s.cores ∧ t.segs = s.segs ∧
        t.mod = { s.mod with spdm := { x with answer := [0] } } ∧ ∀ d, d < 16 → t.dieAt d = { s.dieAt d with keys := (t.dieAt d).keys } ∧
          ∀ n, SMap.get {} (t.dieAt d).keys n = if n = slot then ⟨BitVec.ofNat 512 (le 8 64), true, ctx⟩ else SMap.get {} (s.dieAt d).keys n) ∧
      (body.length < 3 ∨ 63 < slot → code .keyClear 1) ∧ 
      (3 ≤ body.length → slot ≤ 63 → ∃ t, exec (.keyClear body) s = .next t ∧ t.mod.spdm = { x with answer := [0] } ∧
        (∀ d, d < 16 → ∀ n, SMap.get {} (t.dieAt d).keys n = if n = slot then {} else SMap.get {} (s.dieAt d).keys n) ∧
        ((∀ d, d < 16 → (held d).loaded = false) → t.cores = s.cores ∧ t.mod = { s.mod with spdm := t.mod.spdm }) ∧
        (∀ d, d < 16 → (held d).loaded = true →
          (∀ y i, keyDie y = d → unsentHost ((s.coreAt y).pass i) (held d).ctx → ((t.coreAt y).pass i).err = true ∧
            ∀ l ∈ ((s.coreAt y).pass i).lines, l ∉ ((s.coreAt y).pass i).hostSeen → l ∈ ((t.coreAt y).pass i).hostRefused) ∧
          ∀ r ∈ t.mod.cacheReqs, ∀ c y, r.use = .save c y → keyDie c = d → (s.coreAt y).ctx ≠ (held d).ctx))) ∧
    (x.sessions ≠ 0 ∨ (s.mod.ready = false ∧ s.mod.boot = none) →
      let n := le 8 4
      (n < 1 ∨ 4032 < n ∨ body.length ≠ 12 + n → code .fwData 1) ∧
      (1 ≤ n → n ≤ 4032 → body.length = 12 + n → ∃ t, exec (.fwData body) s = .next t ∧ t.cores = s.cores ∧ t.segs = s.segs ∧ t.dies = s.dies ∧
        t.mod = { s.mod with spdm := { x with answer := [0] }, staged := t.mod.staged } ∧ ∀ y, Memory.byte t.mod.staged y =
          if le 4 4 ≤ y ∧ y < le 4 4 + n then body.getD (12 + (y - le 4 4)) 0 else Memory.byte s.mod.staged y) ∧
      (body.length < 8 → code .fwCommit 1) ∧ (8 ≤ body.length → ¬signed → code .fwCommit 2) ∧
      (8 ≤ body.length → signed → Config.firmwareVersion image < s.mod.minVersion → code .fwCommit 3) ∧
      (8 ≤ body.length → signed → s.mod.minVersion ≤ Config.firmwareVersion image → ∃ t, exec (.fwCommit body) s = .next t ∧
        t.cores = s.cores ∧ t.segs = s.segs ∧ t.dies = s.dies ∧
        t.mod = { s.mod with spdm := { x with answer := [0] }, flash := image, staged := [], resetReq := true }))

namespace Sys2Proof.Says

/-! ### Launches, and service of the module -/

/-- A completion record of a launch is on its way to the host, with a status (R88, R89). -/
def recordSent (s t : State) (l : Launch) (status : Byte) : Prop :=
  ∃ r out, t.mod.cacheReqs = s.mod.cacheReqs ++ [r] ∧ r.use = .record l.pkt.ctx l.pkt.lid l.pkt.msix out ∧ r.base = l.pkt.completion ∧
    r.len = 64 ∧ r.done = 0 ∧ r.data.getD 6 0 = status ∧ r.data.getD 7 0 = l.pkt.ctx ∧ leNat ((r.data.drop 8).take 2) = l.pkt.lid.toNat

/-- A core as the commit of a launch leaves it (R12, R74, R82, R83, R85): its registers zero but for s1 to s8, at its entry row. -/
def begun (s t : State) (l : Launch) (i : Image) (n g k seg : Nat) : Prop :=
  let c := t.coreAt k
  let x := s.coreAt k
  c.run = .placed ∧ c.placed = true ∧ c.ctx = l.pkt.ctx ∧ c.lid = l.pkt.lid ∧ c.lcore = n ∧ c.ncores = l.pkt.cores ∧ c.diegrp = g ∧
    c.seg = some seg ∧ c.scratchLen = l.pkt.scratch ∧ c.passesMax = l.pkt.passes ∧ c.lanes = l.pkt.lanes ∧ c.tagsMax = l.pkt.tags ∧
    c.barriers = l.pkt.barriers ∧ c.bindings = i.switch ∧ c.image = some i.id ∧
    c.pos = { row := if l.pkt.entry = 0xFFFF#16 then i.entry else l.pkt.entry.toNat } ∧ c.regs = { s := c.regs.s } ∧
    (∀ r, SMap.get 0 c.regs.s r = if r = 0 then 0 else l.pkt.args.getD (r - 1) 0) ∧ c.fpflags = 0 ∧ c.tags = 0 ∧ c.passes = [] ∧
    c.trap = {} ∧ c.owner = l.pkt.ctx ∧ (x.image ≠ some i.id → c.expandAt = (s.dieAt (keyDie k)).tick + (64 + (i.rows.length + 7) / 8))

/-- Ticks until a core holds the expansion of an image, where it is expanded now if it does not (R74). -/
def coldFor (s : State) (i : Image) (k : Nat) : Nat :=
  if (s.coreAt k).image = some i.id then (s.coreAt k).expandAt - (s.dieAt (keyDie k)).tick else 64 + (i.rows.length + 7) / 8

/-- A packet fails the check of this number (R19); a core that submits one does so in its own context (R294). -/
def failsCheck (s : State) (p : Packet) (sender : Option Byte) : Nat → Prop
  | 1 => p.version ≠ 0x0100
  | 2 => p.flags &&& 0xF008 ≠ 0 ∨ p.prio.getLsbD 7 = true ∨ p.completion % 64 ≠ 0
  | 3 => ¬((p.entry.toNat ≤ 16383 ∨ p.entry = 0xFFFF) ∧ 1 ≤ p.cores ∧ p.cores ≤ 384 ∧ 1 ≤ p.dies ∧ p.dies ≤ 16 ∧ p.ctx ≠ 0 ∧
      p.scratch % 4096 = 0 ∧ 4096 ≤ p.scratch ∧ p.scratch ≤ 8388608 ∧ p.passes ≤ 32 ∧ p.lanes ≤ 16 ∧ p.tags ≤ 64 ∧ 1 ≤ p.lstall ∧
      p.dies ≤ p.cores ∧ p.cores ≤ 24 * p.dies ∧ (∀ n, p.deps[n]? = some p.lid → p.flags.getLsbD (8 + n) = false) ∧
      (∀ l ∈ s.mod.launches, ¬(l.pkt.ctx = p.ctx ∧ l.pkt.lid = p.lid)) ∧ (SMap.get {} s.mod.contexts p.ctx.toNat).opened = true ∧
      ∀ c, sender = some c → c = p.ctx)
  | 4 => ∀ i, s.mod.images.find? (fun i => i.id == p.image) = some i →
      ¬((p.entry = 0xFFFF ∨ p.entry.toNat < i.rows.length) ∧ ((SMap.get {} s.mod.contexts p.ctx.toNat).signedOnly = true → i.signed = true))
  | 5 => ∀ i, s.mod.images.find? (fun i => i.id == p.image) = some i →
      ¬(i.minScratch ≤ p.scratch ∧ i.minPasses ≤ p.passes ∧ i.minLanes ≤ p.lanes ∧ i.minTags ≤ p.tags ∧ i.minHeat ≤ p.heat ∧
        ∀ r ∈ i.inits, r.1 + r.2.length ≤ p.scratch)
  | _ => False

/-- Nothing has changed but one die, which has become `x`. -/
def onlyDie (s t : State) (d : Nat) (x : Die) : Prop :=
  t.cores = s.cores ∧ t.segs = s.segs ∧ t.mod = s.mod ∧ t.dieAt d = x ∧ ∀ e, e ≠ d → t.dieAt e = s.dieAt e

/-- A core is released: it holds no launch, and what its launch reserved of its scratchpad is dirty (R373, R376). -/
def released (c d : Core) : Prop :=
  d.run = .released ∧ d.placed = false ∧ d.parts = true ∧ d.seg = none ∧ d.halt = none ∧ d.low = 0 ∧ d.sends = [] ∧ d.bindings = [] ∧
    d.launched = [] ∧
    d.high = BitVec.ofNat 17 (max c.high.toNat (c.scratchLen / 128)) ∧ d.scratch = c.scratch

end Sys2Proof.Says

/-- R12, R16, R19, R70 to R76, R79 to R90, R145, R294, R324, R354, R372, R373: a core submits a launch; a packet is checked in the order of R19; the
head of the queue, which stays the head while it waits, is refused as unplaceable or placed; INIT is copied once its cores are warm; its pulse starts
its cores on each die; a core exits; the end of a launch releases its cores and writes its record; and a running core moves to another core of its die,
one of a DET launch only on failover, and goes on there once that core is warm. That the packet of a `LAUNCH` is checked after its tick is the model's
inference (log 42), as is what waits for an expansion (log 52); which launches compaction moves (log 48), and how far P_s lies ahead where a core is
cold (log 36), are its choices. -/
def Obligations.LaunchLife : Prop :=
  ∀ (s : State) (a : Reg) (die : DieNo) (core : CoreNo) (target : MoveTo) (ctx : Byte) (lid : BitVec 16) (l : Launch),
    let x := (s.core.rdS a).toNat
    let bs := Memory.bytes s.core.scratch x 128
    let recorded := { s.core with launched := ((packetOf bs).lid :: s.core.launched).take 16 }
    let d := die.toNat
    let k := coreKey die core
    let j := coreKey die target.core
    let c := s.coreAt k
    (¬fits s x 128 → ∃ t, exec (.launch a) s = .next t ∧ faults s t (lFault s 0x20 x)) ∧
    (fits s x 128 → badIn s.core.badScratch x 128 = false → settled s x 128 → quiet s .load x 128 →
      ∃ t, exec (.launch a) s = .next t ∧ t.segs = s.segs ∧ t.dies = s.dies ∧ t.core = recorded ∧ (∀ q, q ≠ s.cur → t.coreAt q = s.coreAt q) ∧
        t.mod = { s.mod with inbox := s.mod.inbox ++ [{ bytes := bs, off := 0xFFFFFFFF, tick := (s.dieAt 0).tick, wall := s.walltNs, parent := some (s.core.lid, s.core.lcore), sender := some (if s.sup then 0 else s.core.ctx) }] }) ∧
    (∀ (p : Packet) (sender : Option Byte),
      (∀ n, failsCheck s p sender n → (∀ m, m < n → ¬failsCheck s p sender m) → s.packetStatus p sender = BitVec.ofNat 8 n) ∧
      ((∀ n, ¬failsCheck s p sender n) → s.packetStatus p sender = 0)) ∧
    (∀ y : Arrived, y.parent.isSome = true →
      let p := packetOf y.bytes
      let status := s.packetStatus p y.sender
      let t := s.receivePacket y
      (status = 0 → s.mod.lqfree ≠ 0 → t.cores = s.cores ∧ ∃ z, t.mod = { s.mod with launches := s.mod.launches ++ [z], arrivals := s.mod.arrivals + 1 } ∧
        z.pkt = p ∧ z.st = .waiting ∧ z.parent = y.parent ∧ z.arrive = y.wall) ∧
      (status ≠ 0 → p.completion % 64 = 0 → p.completion ≠ 0 → t.cores = s.cores ∧ recordSent s t { l with pkt := p } status ∧
        t.mod.launches = s.mod.launches) ∧
      (status ≠ 0 → p.completion = 0 → t = s)) ∧
    (s.headLaunch = some l → l ∈ s.mod.launches ∧ s.eligible l = true ∧
      ((∃ o ∈ s.mod.launches, s.mod.head = some o.order ∧ s.eligible o = true) → s.mod.head = some l.order) ∧
      ((∀ o ∈ s.mod.launches, s.mod.head = some o.order → s.eligible o = false) → ∀ o ∈ s.mod.launches, s.eligible o = true → o.before l = false)) ∧
    ((∀ q ∈ s.mod.launches, s.stoppedFor q = false ∧ s.savedFor q = false ∧ s.restoredFor q = false) → s.headLaunch = some l →
      (s.placement l [] = .nofit → l.silent = false → ∃ t, exec .placeLaunch s = .next t ∧ t.cores = s.cores ∧ t.segs = s.segs ∧
        t.dies = s.dies ∧ t.mod.head = none ∧ recordSent s t l 0x06) ∧
      (s.placement l [] = .wait → s.preemptFor l = none → s.mod.head ≠ some l.order → ∃ t, exec .placeLaunch s = .next t ∧ t.cores = s.cores ∧
        t.segs = s.segs ∧ t.dies = s.dies ∧ t.mod = { s.mod with head := some l.order }) ∧
      (∀ gs i, s.placement l [] = .grant gs → s.imageOf l.pkt.image = some i → l.restoring = false →
        ((grantPlaces gs).map (fun e => e.2.2.1)).Nodup → (∀ e ∈ grantPlaces gs, isAnchor e.2.2.1 = false) →
        let ks := gs.flatMap (fun g => g.2.1)
        ∃ t, exec .placeLaunch s = .next t ∧ (∀ e ∈ grantPlaces gs, begun s t l i e.1 e.2.1 e.2.2.1 e.2.2.2) ∧
          ((∀ q ∈ s.mod.launches, q.writeAt = none ∧ (q.pkt.ctx = l.pkt.ctx → q.pkt.lid = l.pkt.lid → q.order = l.order)) →
            (s.mod.launches.map (fun q => q.order)).Nodup → ks.Nodup → ∀ e ∈ grantPlaces gs, (t.coreAt e.2.2.1).scratch =
              (if anyCold s l gs = true then (s.coreAt e.2.2.1).scratch
               else i.inits.foldl (fun m r => Memory.setBytes m r.1 r.2) (s.coreAt e.2.2.1).scratch)) ∧
          (∀ q ∈ t.mod.launches, q.pkt.ctx = l.pkt.ctx → q.pkt.lid = l.pkt.lid →
            let now := (s.dieAt s.mod.lead.toNat).ptick
            q.st = .placed ∧ now + 36 ≤ q.startAt ∧ (anyCold s l gs = false → q.startAt = now + writeTicks i + 36) ∧
              (anyCold s l gs = true → ∃ n, q.writeAt = some (now + n) ∧ (∀ y ∈ ks, coldFor s i y ≤ n) ∧ ∃ y ∈ ks, coldFor s i y = n)))) ∧
    (s.outstanding ctx lid = some l →
      (l.ended = false → (l.st = .placed ∨ l.st = .running) → d ∈ l.dieOf → ¬d ∈ l.fired → l.restoring = false →
        l.startAt ≤ (s.dieAt d).ptick → (l.pkt.notBefore = 0 ∨ l.pkt.notBefore ≤ s.wallNs d) →
        (l.pkt.det = true → ∀ e ∈ l.dieOf, (s.dieAt e).runLevel = .full) →
        ∃ t, exec (.startPulse ctx lid die) s = .next t ∧ t.segs = s.segs ∧ t.dies = s.dies ∧
          (∀ q, t.coreAt q = if q ∈ l.place ∧ keyDie q = d ∧ (s.coreAt q).run = .placed ∧ (s.coreAt q).halt = none
            then { s.coreAt q with run := .running, startAt := some (s.dieAt d).tick } else s.coreAt q) ∧
          ∃ y, t.outstanding ctx lid = some y ∧ y.st = .running ∧ y.fired = l.fired ++ [d]) ∧
      (l.ended = false → l.place ≠ [] → SMap.get 0 s.mod.counters (counterKey ctx lid 31) = 0 → l.endAt ≤ (s.dieAt 0).tick → l.silent = false →
        ∃ t, exec (.endOfLaunch ctx lid) s = .next t ∧ recordSent s t l (l.status.getD 0) ∧
          (∀ q ∈ l.place, released (s.coreAt q) (t.coreAt q)) ∧ (∀ q, ¬q ∈ l.place → t.coreAt q = s.coreAt q) ∧
          ∀ q, (t.segAt q).data = (s.segAt q).data ∧
            ∀ e, e ∈ (t.segAt q).ord ↔ e ∈ (s.segAt q).ord ∧ ¬(e.ctx = ctx ∧ e.key.sup = false ∧ e.key.launch = lid.toNat))) ∧
    (c.run = .exiting → c.busyAtExit = false → c.hold = .none → (c.trap.inh && c.ret.isSome) = false → c.halt = none →
      ∃ t, exec (.coreExit die core) s = .next t ∧ t.segs = s.segs ∧ t.dies = s.dies ∧ t.coreAt k = { c with run := .exited } ∧
        (∀ q, q ≠ k → t.coreAt q = s.coreAt q) ∧
        (isAnchor k = false → c.diegrp < 31 →
          let n := SMap.get 0 s.mod.counters (counterKey c.ctx c.lid c.diegrp)
          let m := SMap.get 0 s.mod.counters (counterKey c.ctx c.lid 31)
          SMap.get 0 t.mod.counters (counterKey c.ctx c.lid c.diegrp) = n - 1 ∧
            SMap.get 0 t.mod.counters (counterKey c.ctx c.lid 31) = if n = 1 then m - 1 else m)) ∧
    (c.det = true → target.cause ≠ .failover → exec (.migration die core target) s = .refused .notEnabled) ∧
    (c.run = .running → c.halt = none → core ≠ target.core → core.toNat < 26 → target.core.toNat < 26 → s.mayMove k target.cause = true →
      (s.coreAt j).placed = false → (s.coreAt j).fused = false → (s.coreAt j).failed = false → (s.coreAt j).clean = true → ((s.coreAt j).owner = 0 ∨ (s.coreAt j).owner = c.ctx) →
      c.vfly = none → c.tfly = none → c.passes = [] → c.scratchLen ≤ 8388608 →
      ∃ t, exec (.migration die core target) s = .next t ∧ t.segs = s.segs ∧ (t.coreAt k).run = .released ∧ (t.coreAt k).placed = false ∧
        ((t.coreAt k).failed = true ↔ c.failed = true ∨ target.cause = .failover) ∧
        (let y := t.coreAt j
         y.run = .running ∧ y.placed = true ∧ y.regs = c.regs ∧ y.pos = c.pos ∧ y.ctx = c.ctx ∧ y.lid = c.lid ∧ y.lcore = c.lcore ∧
           y.seg = c.seg ∧ y.hold = c.hold ∧ y.owner = c.ctx ∧
           (c.hold ≠ .delivered → ∀ i, s.mod.images.find? (fun i => some i.id == c.image) = some i →
             y.wakeAt = if coldFor s i j = 0 then none else some ((s.dieAt d).tick + coldFor s i j)) ∧
           ∀ b, b < c.scratchLen → Memory.byte y.scratch b = Memory.byte c.scratch b))

/-- R320, R321, R325, R389 to R393, R400: operating points, heartbeats and failed anchors, resets, layers that do not come up, and a die that is cut
off. That a heartbeat which comes clears the count of missed ones, and that an anchor misses one just when it is halted, is the model's inference
(log 51). A warm reset takes effect between two ticks: one that is asked for within a tick waits for the next. What no Survives column names is the model's choice: that a warm reset keeps the error log and brings the heat account and wall time back
to 0 (logs 14, 38), and what reads 0 after a cold reset (logs 8, 13, 14). -/
def Obligations.ServiceAndResets : Prop :=
  ∀ (s : State) (die : DieNo) (level : Level) (layer : BitVec 5),
    let d := die.toNat
    let x := s.dieAt d
    let a := s.coreAt (d * 32 + 26)
    (x.tick % 16 = 0 → (s.detOn d = false ∨ level = .full) →
      ∃ t, exec (.levelChange die level) s = .next t ∧ onlyDie s t d { x with level := level, levelNext := level }) ∧
    (∃ t, exec (.criticalTempTrip die) s = .next t ∧ onlyDie s t d { x with critical := true }) ∧
    (x.critical = true → ∃ t, exec (.criticalTripClear die) s = .next t ∧ onlyDie s t d { x with critical := false }) ∧
    (x.critical = true → x.runLevel = .eight) ∧
    (x.tick % 65536 = 0 → x.tick ≠ x.beatAt → ∃ t, exec (.heartbeat die) s = .next t ∧ t.cores = s.cores ∧ t.segs = s.segs ∧
      t.dieAt d = { x with missed := if a.run = .halted then x.missed + 1 else 0, beatAt := x.tick } ∧
      (s.mod.leadchg = true → (∀ e, e < 16 → (s.dieAt e).anchorFailed = false → d ≤ e) → x.anchorFailed = false →
        t.mod = { s.mod with lead := die, leadchg := false }) ∧
      (s.mod.leadchg = false → t.mod = s.mod)) ∧
    (x.anchorFailed = false → (4 ≤ x.missed ∨ a.fault.isSome = true) → ∃ t, exec (.anchorFailed die) s = .next t ∧ t.segs = s.segs ∧
      t.dieAt d = { x with anchorFailed := true } ∧
      (∀ k, t.coreAt k = { s.coreAt k with halt := (t.coreAt k).halt }) ∧
      (∀ l ∈ s.mod.launches, l.ended = false → (∃ k ∈ l.place, keyDie k = d) → ∀ e ∈ s.cores, ofLaunch l.pkt.ctx (some l.pkt.lid) e.1 (s.coreAt e.1) = true →
        (s.cores.map Prod.fst).count e.1 = 1 → s.coreAt e.1 = e.2 → (t.coreAt e.1).halt.isSome = true) ∧
      (s.mod.lead = die → t.mod.leadchg = true ∧ t.mod.mbx = none ∧
        ∀ j, s.mod.mbx = some j → t.mod.result = 0x04 ∧ t.mod.seqDone = j.seq)) ∧
    (∃ t n, exec .coldReset s = .next t ∧ n ≤ 7200000000 ∧ t.mod.boot = some n ∧ t.mod.coldBoot = true ∧ t.mod.ready = false ∧ t.mod.launches = [] ∧ t.mod.images = [] ∧
      t.mod.contexts = [] ∧ t.mod.allocs = [] ∧ t.mod.errhead = 0 ∧ t.mod.flash = s.mod.flash ∧ t.segs = [] ∧ t.dies = [] ∧ t.turns = [] ∧
      ∀ k, (t.coreAt k).run = .released ∧ (t.coreAt k).regs = {} ∧ (t.coreAt k).scratch = [] ∧ (t.coreAt k).owner = 0) ∧
    (s.turns ≠ [] → exec .warmReset s = .next { s with mod := { s.mod with resetReq := true } }) ∧
    (s.turns = [] → ∃ t n, exec .warmReset s = .next t ∧ n ≤ 7200000000 ∧ t.mod.boot = some n ∧ t.mod.coldBoot = false ∧ t.mod.ready = false ∧ t.mod.launches = [] ∧ t.mod.images = [] ∧
      t.mod.mbx = none ∧ t.mod.neg = false ∧ t.mod.contexts = s.mod.contexts ∧ t.mod.allocs = s.mod.allocs ∧ t.mod.errlog = s.mod.errlog ∧
      t.mod.flash = s.mod.flash ∧ t.mod.wallt = 0 ∧ t.mod.hostMem = s.mod.hostMem ∧
      (∀ k, (t.coreAt k).run = .released ∧ (t.coreAt k).passes = [] ∧ (t.coreAt k).scratch = (s.coreAt k).scratch ∧ (t.coreAt k).owner = (s.coreAt k).owner) ∧
      (∀ k, (t.segAt k).data = (s.segAt k).data ∧ (t.segAt k).ord = [] ∧ (t.segAt k).owner = (s.segAt k).owner ∧ (t.segAt k).remap = none) ∧
      ∀ e, e < 16 → (t.dieAt e).keys = [] ∧ (t.dieAt e).heat = 0 ∧ (t.dieAt e).heatCap = 0 ∧ (t.dieAt e).wallt = 0 ∧ (t.dieAt e).reqs = [] ∧ (t.dieAt e).ranges = (s.dieAt e).ranges ∧
        (t.dieAt e).pages = (s.dieAt e).pages ∧ (t.dieAt e).tick = (s.dieAt e).tick) ∧
    (s.mod.boot ≠ none → s.mod.coldBoot = true → 1 ≤ layer.toNat → layer.toNat ≤ 8 → ¬layer.toNat ∈ x.layersDown →
      ∃ t, exec (.layerReadyTimeout die layer) s = .next t ∧ t.cores = s.cores ∧ t.mod = s.mod ∧
        t.dieAt d = { x with layersDown := x.layersDown ++ [layer.toNat] } ∧
        (∀ n b, n < 24 → b < 32 → (t.segAt (d * 32 + n)).live.getLsbD b =
          ((s.segAt (d * 32 + n)).live.getLsbD b && decide (b / 4 ≠ layer.toNat - 1))) ∧
        ∀ k, (∀ n, n < 24 → k ≠ d * 32 + n) → t.segAt k = s.segAt k) ∧
    (x.cutOff = false → ∃ t, exec (.dieCutOff die) s = .next t ∧ t.segs = s.segs ∧
      t.dieAt d = { x with cutOff := true, estimates := [] } ∧
      (∀ e, e < 16 → e ≠ d → t.dieAt e = { s.dieAt e with estimates := (s.dieAt e).estimates.filter (fun y => y.1 != d) }) ∧
      (∀ k, t.coreAt k = { s.coreAt k with fault := (t.coreAt k).fault, halt := (t.coreAt k).halt }) ∧
      ∀ l ∈ s.mod.launches, l.ended = false → ∀ k ∈ l.place, keyDie k = d → (∃ q ∈ l.place, keyDie q ≠ d ∧ (s.dieAt (keyDie q)).cutOff = false) →
        (s.coreAt k).run.live = true → (s.coreAt k).fault = none →
        ∃ f, (t.coreAt k).fault = some f ∧ f.code = 0x28 ∧ f.elem = 0xFF ∧ f.slot = 4)

namespace Sys2Proof.Says

/-! ### The step, the decoder, and the machine after reset -/

/-- The state in which the row of a core whose turn it is falls due, and the row. -/
def dueState (s : State) (k : Nat) (rest : List Turn) : State := { s with cur := k, turns := rest }.onCore Core.endHold
/-- The row of the core falls due: it has the turn, runs, nothing holds it at its boundary, and the row is below ROWS with good parity. -/
def rowFallsDue (s : State) (die : DieNo) (core : CoreNo) (rest : List Turn) : Prop :=
  let c := (dueState s (coreKey die core) rest).core
  s.turns = .core die core :: rest ∧ s.doing (coreKey die core) = .row ∧ ¬c.pos.row ∈ c.badRows ∧ c.pos.row < c.rows

/-- PTICK of each die has not passed its TICK (R322). -/
def clocksAgree (s : State) : Prop := ∀ d, (s.dieAt d).ptick ≤ (s.dieAt d).tick

/-- Words of every slot, written out field by field, with the instructions that they stand for (R91, R105 to R107, R112 to R116). -/
noncomputable def decodedWords : List (Slot × W32 × W32 × Instr) :=
  [-- ADD: OP 0x01, D 3, A 1, B 2, guard p5, negated, SUB 0
   (.s, 0b000001_00011_00001_00010_101_1_0_000000, 0, .add ⟨5, 1⟩ 3 1 2),
   -- ADDI: OP 0x03, D 31, A 30, IMM16 −2
   (.s, 0b000011_11111_11110_1111111111111110, 0, .addi 31 30 0xFFFE),
   -- SRAI: OP 0x0F, D 4, A 6, B 9, guard p0, count bit 5 set, SUB 2
   (.s, 0b001111_00100_00110_01001_000_0_1_000010, 0, .srai ⟨0, 0⟩ 4 6 9 1),
   -- LDK: OP 0x06, D 7; the constant follows
   (.s, 0b000110_00111_00000_0000000000000000, 0x89ABCDEF, .ldk 7 0x89ABCDEF),
   -- BR: OP 0x28, P 6, N 1, OFF22 −1
   (.s, 0b101000_110_1_1111111111111111111111, 0, .br 6 1 0x3FFFFF),
   -- LDX: OP 0x25, D 1, A 2, B 3, guard p4, width 5, scale 2
   (.s, 0b100101_00001_00010_00011_100_0_0_10_0_101, 0, .ldx ⟨4, 0⟩ 1 2 3 2 5),
   -- VADDS: OP 0x01, D 10, A 11, B 12, FOLD 3, mask m7, SUB 1
   (.v, 0b000001_01010_01011_01100_11_111_000001, 0, .vadds 10 11 12 ⟨3, 7⟩),
   -- TMMA.BFP with .W: OP 0x05, D 17, A 2, B 5, SUB 5
   (.t, 0b000101_10001_00010_00101_00000_000101, 0, .tmmaBfpW 17 2 5),
   -- PCOPY: OP 0x01, D 1, A 2, B 3, TAG 33; EXT32: TID 200, C 0, E 0
   (.w, 0b000001_00001_00010_00011_100001_00000, 0b11001000_00000_00000_00000000000000, .pcopy ⟨1, 2, 3, 33, 200, 0, 0, 0⟩),
   -- LPUT: OP 0x03, D 0, A 20, B 21, FOLD 2, PORT 9
   (.l, 0b000011_00000_10100_10101_10_1001_00000, 0, .lput 20 21 2 9),
   -- ERET: OP 0x35, D 0, A 8, B 9, guard p0
   (.s, 0b110101_00000_01000_01001_000_0_0_000000, 0, .eret ⟨0, 0⟩ 8 9)]

end Sys2Proof.Says

/-- R91 to R94, R125 to R131 (the order of log 4): in its turn a core whose row falls due runs the instructions that the decoder reads from the row:
a delay row takes its beats; a row that a delay holds notes that and changes nothing else; any other row executes each of its instructions and
goes on to the next row, or stops as one of them stops. -/
def Obligations.StepRunsTheRow : Prop :=
  ∀ (s : State) (die : DieNo) (core : CoreNo) (rest : List Turn) (is : List Instr), rowFallsDue s die core rest →
    let k := coreKey die core
    let u := dueState s k rest
    let row := u.core.dueRow
    let a := is.foldl State.arm u.beginRow
    let ends := fun (t : State) => ((t.onCore (fun c => { c with banks := a.rowBanks is })).endRow row.gap.toNat).exitNow k (s.coreAt k)
    row.decode = .ok is →
    (is = [] → ∃ t, exec (.delayRow row.gap) (u.beginRow.touchBeat.onCore (fun c => c.beatAsks u.tick)) = .next t ∧
      step s = .next (t.exitNow k (s.coreAt k))) ∧
    (is ≠ [] → (∀ i ∈ is, a.arrives i = false) →
      (∀ d ds, a.rowDelays is = d :: ds → step s = .next ((a.heldIn (ds.foldl min d) (is.findSome? a.stallOf)).exitNow k (s.coreAt k))) ∧
      (a.rowDelays is = [] →
        (∀ i, is = [i] →
          (∀ t, exec i a.touchBeat = .next t → step s = .next (ends t)) ∧ (∀ f, exec i a.touchBeat = .fault f → step s = .fault f) ∧
          (∀ r, exec i a.touchBeat = .refused r → step s = .refused r)) ∧
        (∀ t, runAll (issueOrder is) a.touchBeat = .next t → step s = .next (ends t)) ∧
        (∀ f, runAll (issueOrder is) a.touchBeat = .fault f → step s = .fault f))) ∧
    (∀ i, is.find? a.arrives = some i → a.rowDelays (is.filter (fun j => !(a.arrives j))) = [] → ∀ t, exec i a = .next t →
      step s = .next ((t.heldIn 5 none).exitNow k (s.coreAt k)))

/-- R91, R105 to R107, R112 to R116: what the decoder reads from words of each slot, written out from the forms and the maps; and a word with a bit
set that its instruction does not use, or an opcode that the map does not give, is none. -/
def Obligations.DecodesWords : Prop :=
  (∀ e ∈ decodedWords, decodeSlot e.1 e.2.1 e.2.2.1 = .ok e.2.2.2) ∧
    decodeSlot .s 0b000001_00011_00001_00010_101_1_1_000000 0 = .error (.resv false) ∧ decodeSlot .t 0b111111_00000_00000_00000_00000_000000 0 = .error .badOp

/-- R91, R94, R97, R105 to R107, R112 to R116: the decoder reads back from the words of every well-formed instruction that instruction, with every
operand; and so from a row that holds it alone. -/
def Obligations.DecodeReadsBack : Prop :=
  ∀ (i : Instr) (k : Slot) (w ext : W32), i.wellFormed = true → encode i = some (k, w, ext) →
    decodeSlot k w ext = .ok i ∧ (RowWords.single k w ext).decode = .ok [i]

/-- R322: whatever a step does, in no die does PTICK pass TICK. -/
def Obligations.ClocksStayTogether : Prop := ∀ (s t : State), clocksAgree s → step s = .next t → clocksAgree t

/-- The machine right after reset: every core and segment reads as its Reset columns say, and nothing is placed (R389, R390). Where no rule gives a
register a value the model's choice is zero (log 14), and so it is of memory: that every stitch byte (log 8) and every scratchpad byte (log 13)
reads 0 is the model's choice too, where R389 calls them undefined or says nothing. It boots for at most 2 s, PTICK and TICK agree, and its first step ticks every die. -/
def Obligations.AfterReset : Prop :=
  let s := State.reset
  clocksAgree s ∧
    (∀ k, let c := s.coreAt k
      c.run = .released ∧ c.placed = false ∧ c.owner = 0 ∧ c.seg = none ∧ c.tags = 0 ∧ c.tagerr = 0 ∧ c.fpflags = 0 ∧ c.passes = [] ∧
        c.regs.fpctl = 0 ∧ c.trap.en = false ∧ c.trap.inh = false ∧ (∀ r, c.rdS r = 0) ∧ (∀ r, c.rdP r = (r == 0)) ∧
        (∀ r, c.rdM r = if r = 0 then ~~~0#64 else 0) ∧ (∀ r i, c.rdV r i = 0) ∧ (∀ r i, c.rdQ r i = 0) ∧ ∀ x, Memory.byte c.scratch x = 0) ∧
    (∀ k, let g := s.segAt k
      g.owner = 0 ∧ g.dirty = 0 ∧ g.cursor = 0 ∧ g.live = 0xFFFFFFFF#32 ∧ g.pzValid = false ∧ ∀ x, Memory.byte g.data x = 0) ∧
    (∀ d, let x := s.dieAt d
      x.tick = 0 ∧ x.ptick = 0 ∧ x.level = .full ∧ x.critical = false ∧ x.ranges = [] ∧ x.pages = [] ∧ x.scrub.busy = false ∧ ∀ n, SMap.get {} x.keys n = {}) ∧
    s.mod.ready = false ∧ s.mod.neg = false ∧ s.mod.mbx = none ∧ s.mod.ifver = 0 ∧ s.mod.errhead = 0 ∧ s.mod.launches = [] ∧ s.mod.images = [] ∧
    s.mod.contexts = [] ∧ (∃ n, s.mod.boot = some n ∧ n ≤ 7200000000) ∧
    ∃ t, step s = .next t ∧ ∀ d, d < 16 → (t.dieAt d).tick = 1
end

