-- ==== Sys2Proof/Laws/Codec.lean ====
section
/-! SUPPORT. The encoder and the decoder agree: the fields of a word built from fields, and for each instruction of a slot that
the word written for it decodes to it. -/

namespace Sys2Proof

set_option Elab.async false

@[simp] theorem fOp_wR (op : BitVec 6) (d a b : BitVec 5) (g : Guard) (c : BitVec 1) (sub : BitVec 6) : fOp (wR op d a b g c sub) = op := by
  change BitVec.extractLsb' 26 6 (op ++ (d ++ (a ++ (b ++ (g.p ++ (g.neg ++ (c ++ sub))))))) = _
  ext i hi
  simp only [BitVec.getElem_extractLsb', BitVec.getLsbD_append]
  repeat (first | rw [if_pos (by omega)] | rw [if_neg (by omega)])
  rw [BitVec.getLsbD_eq_getElem (by omega)]
  all_goals first | rfl | (congr 1; omega)
@[simp] theorem fD_wR (op : BitVec 6) (d a b : BitVec 5) (g : Guard) (c : BitVec 1) (sub : BitVec 6) : fD (wR op d a b g c sub) = d := by
  change BitVec.extractLsb' 21 5 (op ++ (d ++ (a ++ (b ++ (g.p ++ (g.neg ++ (c ++ sub))))))) = _
  ext i hi
  simp only [BitVec.getElem_extractLsb', BitVec.getLsbD_append]
  repeat (first | rw [if_pos (by omega)] | rw [if_neg (by omega)])
  rw [BitVec.getLsbD_eq_getElem (by omega)]
  all_goals first | rfl | (congr 1; omega)
@[simp] theorem fA_wR (op : BitVec 6) (d a b : BitVec 5) (g : Guard) (c : BitVec 1) (sub : BitVec 6) : fA (wR op d a b g c sub) = a := by
  change BitVec.extractLsb' 16 5 (op ++ (d ++ (a ++ (b ++ (g.p ++ (g.neg ++ (c ++ sub))))))) = _
  ext i hi
  simp only [BitVec.getElem_extractLsb', BitVec.getLsbD_append]
  repeat (first | rw [if_pos (by omega)] | rw [if_neg (by omega)])
  rw [BitVec.getLsbD_eq_getElem (by omega)]
  all_goals first | rfl | (congr 1; omega)
@[simp] theorem fB_wR (op : BitVec 6) (d a b : BitVec 5) (g : Guard) (c : BitVec 1) (sub : BitVec 6) : fB (wR op d a b g c sub) = b := by
  change BitVec.extractLsb' 11 5 (op ++ (d ++ (a ++ (b ++ (g.p ++ (g.neg ++ (c ++ sub))))))) = _
  ext i hi
  simp only [BitVec.getElem_extractLsb', BitVec.getLsbD_append]
  repeat (first | rw [if_pos (by omega)] | rw [if_neg (by omega)])
  rw [BitVec.getLsbD_eq_getElem (by omega)]
  all_goals first | rfl | (congr 1; omega)
@[simp] theorem fG_wR (op : BitVec 6) (d a b : BitVec 5) (g : Guard) (c : BitVec 1) (sub : BitVec 6) : fG (wR op d a b g c sub) = g.p := by
  change BitVec.extractLsb' 8 3 (op ++ (d ++ (a ++ (b ++ (g.p ++ (g.neg ++ (c ++ sub))))))) = _
  ext i hi
  simp only [BitVec.getElem_extractLsb', BitVec.getLsbD_append]
  repeat (first | rw [if_pos (by omega)] | rw [if_neg (by omega)])
  rw [BitVec.getLsbD_eq_getElem (by omega)]
  all_goals first | rfl | (congr 1; omega)
@[simp] theorem fN_wR (op : BitVec 6) (d a b : BitVec 5) (g : Guard) (c : BitVec 1) (sub : BitVec 6) : fN (wR op d a b g c sub) = g.neg := by
  change BitVec.extractLsb' 7 1 (op ++ (d ++ (a ++ (b ++ (g.p ++ (g.neg ++ (c ++ sub))))))) = _
  ext i hi
  simp only [BitVec.getElem_extractLsb', BitVec.getLsbD_append]
  repeat (first | rw [if_pos (by omega)] | rw [if_neg (by omega)])
  rw [BitVec.getLsbD_eq_getElem (by omega)]
  all_goals first | rfl | (congr 1; omega)
@[simp] theorem fC_wR (op : BitVec 6) (d a b : BitVec 5) (g : Guard) (c : BitVec 1) (sub : BitVec 6) : fC (wR op d a b g c sub) = c := by
  change BitVec.extractLsb' 6 1 (op ++ (d ++ (a ++ (b ++ (g.p ++ (g.neg ++ (c ++ sub))))))) = _
  ext i hi
  simp only [BitVec.getElem_extractLsb', BitVec.getLsbD_append]
  repeat (first | rw [if_pos (by omega)] | rw [if_neg (by omega)])
  rw [BitVec.getLsbD_eq_getElem (by omega)]
  all_goals first | rfl | (congr 1; omega)
@[simp] theorem fSub_wR (op : BitVec 6) (d a b : BitVec 5) (g : Guard) (c : BitVec 1) (sub : BitVec 6) : fSub (wR op d a b g c sub) = sub := by
  change BitVec.extractLsb' 0 6 (op ++ (d ++ (a ++ (b ++ (g.p ++ (g.neg ++ (c ++ sub))))))) = _
  ext i hi
  simp only [BitVec.getElem_extractLsb', BitVec.getLsbD_append]
  repeat (first | rw [if_pos (by omega)] | rw [if_neg (by omega)])
  rw [BitVec.getLsbD_eq_getElem (by omega)]
  all_goals first | rfl | (congr 1; omega)
@[simp] theorem fOp_wI (op : BitVec 6) (d a : BitVec 5) (imm : BitVec 16) : fOp (wI op d a imm) = op := by
  change BitVec.extractLsb' 26 6 (op ++ (d ++ (a ++ imm))) = _
  ext i hi
  simp only [BitVec.getElem_extractLsb', BitVec.getLsbD_append]
  repeat (first | rw [if_pos (by omega)] | rw [if_neg (by omega)])
  rw [BitVec.getLsbD_eq_getElem (by omega)]
  all_goals first | rfl | (congr 1; omega)
@[simp] theorem fD_wI (op : BitVec 6) (d a : BitVec 5) (imm : BitVec 16) : fD (wI op d a imm) = d := by
  change BitVec.extractLsb' 21 5 (op ++ (d ++ (a ++ imm))) = _
  ext i hi
  simp only [BitVec.getElem_extractLsb', BitVec.getLsbD_append]
  repeat (first | rw [if_pos (by omega)] | rw [if_neg (by omega)])
  rw [BitVec.getLsbD_eq_getElem (by omega)]
  all_goals first | rfl | (congr 1; omega)
@[simp] theorem fA_wI (op : BitVec 6) (d a : BitVec 5) (imm : BitVec 16) : fA (wI op d a imm) = a := by
  change BitVec.extractLsb' 16 5 (op ++ (d ++ (a ++ imm))) = _
  ext i hi
  simp only [BitVec.getElem_extractLsb', BitVec.getLsbD_append]
  repeat (first | rw [if_pos (by omega)] | rw [if_neg (by omega)])
  rw [BitVec.getLsbD_eq_getElem (by omega)]
  all_goals first | rfl | (congr 1; omega)
@[simp] theorem fImm_wI (op : BitVec 6) (d a : BitVec 5) (imm : BitVec 16) : fImm (wI op d a imm) = imm := by
  change BitVec.extractLsb' 0 16 (op ++ (d ++ (a ++ imm))) = _
  ext i hi
  simp only [BitVec.getElem_extractLsb', BitVec.getLsbD_append]
  repeat (first | rw [if_pos (by omega)] | rw [if_neg (by omega)])
  rw [BitVec.getLsbD_eq_getElem (by omega)]
  all_goals first | rfl | (congr 1; omega)
@[simp] theorem fOp_wJ (op : BitVec 6) (p : BitVec 3) (n : BitVec 1) (off : BitVec 22) : fOp (wJ op p n off) = op := by
  change BitVec.extractLsb' 26 6 (op ++ (p ++ (n ++ off))) = _
  ext i hi
  simp only [BitVec.getElem_extractLsb', BitVec.getLsbD_append]
  repeat (first | rw [if_pos (by omega)] | rw [if_neg (by omega)])
  rw [BitVec.getLsbD_eq_getElem (by omega)]
  all_goals first | rfl | (congr 1; omega)
@[simp] theorem fJp_wJ (op : BitVec 6) (p : BitVec 3) (n : BitVec 1) (off : BitVec 22) : fJp (wJ op p n off) = p := by
  change BitVec.extractLsb' 23 3 (op ++ (p ++ (n ++ off))) = _
  ext i hi
  simp only [BitVec.getElem_extractLsb', BitVec.getLsbD_append]
  repeat (first | rw [if_pos (by omega)] | rw [if_neg (by omega)])
  rw [BitVec.getLsbD_eq_getElem (by omega)]
  all_goals first | rfl | (congr 1; omega)
@[simp] theorem fJn_wJ (op : BitVec 6) (p : BitVec 3) (n : BitVec 1) (off : BitVec 22) : fJn (wJ op p n off) = n := by
  change BitVec.extractLsb' 22 1 (op ++ (p ++ (n ++ off))) = _
  ext i hi
  simp only [BitVec.getElem_extractLsb', BitVec.getLsbD_append]
  repeat (first | rw [if_pos (by omega)] | rw [if_neg (by omega)])
  rw [BitVec.getLsbD_eq_getElem (by omega)]
  all_goals first | rfl | (congr 1; omega)
@[simp] theorem fJoff_wJ (op : BitVec 6) (p : BitVec 3) (n : BitVec 1) (off : BitVec 22) : fJoff (wJ op p n off) = off := by
  change BitVec.extractLsb' 0 22 (op ++ (p ++ (n ++ off))) = _
  ext i hi
  simp only [BitVec.getElem_extractLsb', BitVec.getLsbD_append]
  repeat (first | rw [if_pos (by omega)] | rw [if_neg (by omega)])
  rw [BitVec.getLsbD_eq_getElem (by omega)]
  all_goals first | rfl | (congr 1; omega)
@[simp] theorem fOp_wV (op : BitVec 6) (d a b : BitVec 5) (fold : BitVec 2) (m : BitVec 3) (sub : BitVec 6) : fOp (wV op d a b fold m sub) = op := by
  change BitVec.extractLsb' 26 6 (op ++ (d ++ (a ++ (b ++ (fold ++ (m ++ sub)))))) = _
  ext i hi
  simp only [BitVec.getElem_extractLsb', BitVec.getLsbD_append]
  repeat (first | rw [if_pos (by omega)] | rw [if_neg (by omega)])
  rw [BitVec.getLsbD_eq_getElem (by omega)]
  all_goals first | rfl | (congr 1; omega)
@[simp] theorem fD_wV (op : BitVec 6) (d a b : BitVec 5) (fold : BitVec 2) (m : BitVec 3) (sub : BitVec 6) : fD (wV op d a b fold m sub) = d := by
  change BitVec.extractLsb' 21 5 (op ++ (d ++ (a ++ (b ++ (fold ++ (m ++ sub)))))) = _
  ext i hi
  simp only [BitVec.getElem_extractLsb', BitVec.getLsbD_append]
  repeat (first | rw [if_pos (by omega)] | rw [if_neg (by omega)])
  rw [BitVec.getLsbD_eq_getElem (by omega)]
  all_goals first | rfl | (congr 1; omega)
@[simp] theorem fA_wV (op : BitVec 6) (d a b : BitVec 5) (fold : BitVec 2) (m : BitVec 3) (sub : BitVec 6) : fA (wV op d a b fold m sub) = a := by
  change BitVec.extractLsb' 16 5 (op ++ (d ++ (a ++ (b ++ (fold ++ (m ++ sub)))))) = _
  ext i hi
  simp only [BitVec.getElem_extractLsb', BitVec.getLsbD_append]
  repeat (first | rw [if_pos (by omega)] | rw [if_neg (by omega)])
  rw [BitVec.getLsbD_eq_getElem (by omega)]
  all_goals first | rfl | (congr 1; omega)
@[simp] theorem fB_wV (op : BitVec 6) (d a b : BitVec 5) (fold : BitVec 2) (m : BitVec 3) (sub : BitVec 6) : fB (wV op d a b fold m sub) = b := by
  change BitVec.extractLsb' 11 5 (op ++ (d ++ (a ++ (b ++ (fold ++ (m ++ sub)))))) = _
  ext i hi
  simp only [BitVec.getElem_extractLsb', BitVec.getLsbD_append]
  repeat (first | rw [if_pos (by omega)] | rw [if_neg (by omega)])
  rw [BitVec.getLsbD_eq_getElem (by omega)]
  all_goals first | rfl | (congr 1; omega)
@[simp] theorem fFold_wV (op : BitVec 6) (d a b : BitVec 5) (fold : BitVec 2) (m : BitVec 3) (sub : BitVec 6) : fFold (wV op d a b fold m sub) = fold := by
  change BitVec.extractLsb' 9 2 (op ++ (d ++ (a ++ (b ++ (fold ++ (m ++ sub)))))) = _
  ext i hi
  simp only [BitVec.getElem_extractLsb', BitVec.getLsbD_append]
  repeat (first | rw [if_pos (by omega)] | rw [if_neg (by omega)])
  rw [BitVec.getLsbD_eq_getElem (by omega)]
  all_goals first | rfl | (congr 1; omega)
@[simp] theorem fM_wV (op : BitVec 6) (d a b : BitVec 5) (fold : BitVec 2) (m : BitVec 3) (sub : BitVec 6) : fM (wV op d a b fold m sub) = m := by
  change BitVec.extractLsb' 6 3 (op ++ (d ++ (a ++ (b ++ (fold ++ (m ++ sub)))))) = _
  ext i hi
  simp only [BitVec.getElem_extractLsb', BitVec.getLsbD_append]
  repeat (first | rw [if_pos (by omega)] | rw [if_neg (by omega)])
  rw [BitVec.getLsbD_eq_getElem (by omega)]
  all_goals first | rfl | (congr 1; omega)
@[simp] theorem fSub_wV (op : BitVec 6) (d a b : BitVec 5) (fold : BitVec 2) (m : BitVec 3) (sub : BitVec 6) : fSub (wV op d a b fold m sub) = sub := by
  change BitVec.extractLsb' 0 6 (op ++ (d ++ (a ++ (b ++ (fold ++ (m ++ sub)))))) = _
  ext i hi
  simp only [BitVec.getElem_extractLsb', BitVec.getLsbD_append]
  repeat (first | rw [if_pos (by omega)] | rw [if_neg (by omega)])
  rw [BitVec.getLsbD_eq_getElem (by omega)]
  all_goals first | rfl | (congr 1; omega)
@[simp] theorem fOp_wT (op : BitVec 6) (d a b : BitVec 5) (sub : BitVec 6) : fOp (wT op d a b sub) = op := by
  change BitVec.extractLsb' 26 6 (op ++ (d ++ (a ++ (b ++ (0#5 ++ sub))))) = _
  ext i hi
  simp only [BitVec.getElem_extractLsb', BitVec.getLsbD_append]
  repeat (first | rw [if_pos (by omega)] | rw [if_neg (by omega)])
  rw [BitVec.getLsbD_eq_getElem (by omega)]
  all_goals first | rfl | (congr 1; omega)
@[simp] theorem fD_wT (op : BitVec 6) (d a b : BitVec 5) (sub : BitVec 6) : fD (wT op d a b sub) = d := by
  change BitVec.extractLsb' 21 5 (op ++ (d ++ (a ++ (b ++ (0#5 ++ sub))))) = _
  ext i hi
  simp only [BitVec.getElem_extractLsb', BitVec.getLsbD_append]
  repeat (first | rw [if_pos (by omega)] | rw [if_neg (by omega)])
  rw [BitVec.getLsbD_eq_getElem (by omega)]
  all_goals first | rfl | (congr 1; omega)
@[simp] theorem fA_wT (op : BitVec 6) (d a b : BitVec 5) (sub : BitVec 6) : fA (wT op d a b sub) = a := by
  change BitVec.extractLsb' 16 5 (op ++ (d ++ (a ++ (b ++ (0#5 ++ sub))))) = _
  ext i hi
  simp only [BitVec.getElem_extractLsb', BitVec.getLsbD_append]
  repeat (first | rw [if_pos (by omega)] | rw [if_neg (by omega)])
  rw [BitVec.getLsbD_eq_getElem (by omega)]
  all_goals first | rfl | (congr 1; omega)
@[simp] theorem fB_wT (op : BitVec 6) (d a b : BitVec 5) (sub : BitVec 6) : fB (wT op d a b sub) = b := by
  change BitVec.extractLsb' 11 5 (op ++ (d ++ (a ++ (b ++ (0#5 ++ sub))))) = _
  ext i hi
  simp only [BitVec.getElem_extractLsb', BitVec.getLsbD_append]
  repeat (first | rw [if_pos (by omega)] | rw [if_neg (by omega)])
  rw [BitVec.getLsbD_eq_getElem (by omega)]
  all_goals first | rfl | (congr 1; omega)
@[simp] theorem fTz_wT (op : BitVec 6) (d a b : BitVec 5) (sub : BitVec 6) : fTz (wT op d a b sub) = 0#5 := by
  change BitVec.extractLsb' 6 5 (op ++ (d ++ (a ++ (b ++ (0#5 ++ sub))))) = _
  ext i hi
  simp only [BitVec.getElem_extractLsb', BitVec.getLsbD_append]
  repeat (first | rw [if_pos (by omega)] | rw [if_neg (by omega)])
  rw [BitVec.getLsbD_eq_getElem (by omega)]
  all_goals first | rfl | (congr 1; omega)
@[simp] theorem fSub_wT (op : BitVec 6) (d a b : BitVec 5) (sub : BitVec 6) : fSub (wT op d a b sub) = sub := by
  change BitVec.extractLsb' 0 6 (op ++ (d ++ (a ++ (b ++ (0#5 ++ sub))))) = _
  ext i hi
  simp only [BitVec.getElem_extractLsb', BitVec.getLsbD_append]
  repeat (first | rw [if_pos (by omega)] | rw [if_neg (by omega)])
  rw [BitVec.getLsbD_eq_getElem (by omega)]
  all_goals first | rfl | (congr 1; omega)
@[simp] theorem fOp_wW (op : BitVec 6) (d a b : BitVec 5) (tag : BitVec 6) (sub : BitVec 5) : fOp (wW op d a b tag sub) = op := by
  change BitVec.extractLsb' 26 6 (op ++ (d ++ (a ++ (b ++ (tag ++ sub))))) = _
  ext i hi
  simp only [BitVec.getElem_extractLsb', BitVec.getLsbD_append]
  repeat (first | rw [if_pos (by omega)] | rw [if_neg (by omega)])
  rw [BitVec.getLsbD_eq_getElem (by omega)]
  all_goals first | rfl | (congr 1; omega)
@[simp] theorem fD_wW (op : BitVec 6) (d a b : BitVec 5) (tag : BitVec 6) (sub : BitVec 5) : fD (wW op d a b tag sub) = d := by
  change BitVec.extractLsb' 21 5 (op ++ (d ++ (a ++ (b ++ (tag ++ sub))))) = _
  ext i hi
  simp only [BitVec.getElem_extractLsb', BitVec.getLsbD_append]
  repeat (first | rw [if_pos (by omega)] | rw [if_neg (by omega)])
  rw [BitVec.getLsbD_eq_getElem (by omega)]
  all_goals first | rfl | (congr 1; omega)
@[simp] theorem fA_wW (op : BitVec 6) (d a b : BitVec 5) (tag : BitVec 6) (sub : BitVec 5) : fA (wW op d a b tag sub) = a := by
  change BitVec.extractLsb' 16 5 (op ++ (d ++ (a ++ (b ++ (tag ++ sub))))) = _
  ext i hi
  simp only [BitVec.getElem_extractLsb', BitVec.getLsbD_append]
  repeat (first | rw [if_pos (by omega)] | rw [if_neg (by omega)])
  rw [BitVec.getLsbD_eq_getElem (by omega)]
  all_goals first | rfl | (congr 1; omega)
@[simp] theorem fB_wW (op : BitVec 6) (d a b : BitVec 5) (tag : BitVec 6) (sub : BitVec 5) : fB (wW op d a b tag sub) = b := by
  change BitVec.extractLsb' 11 5 (op ++ (d ++ (a ++ (b ++ (tag ++ sub))))) = _
  ext i hi
  simp only [BitVec.getElem_extractLsb', BitVec.getLsbD_append]
  repeat (first | rw [if_pos (by omega)] | rw [if_neg (by omega)])
  rw [BitVec.getLsbD_eq_getElem (by omega)]
  all_goals first | rfl | (congr 1; omega)
@[simp] theorem fTag_wW (op : BitVec 6) (d a b : BitVec 5) (tag : BitVec 6) (sub : BitVec 5) : fTag (wW op d a b tag sub) = tag := by
  change BitVec.extractLsb' 5 6 (op ++ (d ++ (a ++ (b ++ (tag ++ sub))))) = _
  ext i hi
  simp only [BitVec.getElem_extractLsb', BitVec.getLsbD_append]
  repeat (first | rw [if_pos (by omega)] | rw [if_neg (by omega)])
  rw [BitVec.getLsbD_eq_getElem (by omega)]
  all_goals first | rfl | (congr 1; omega)
@[simp] theorem fSub5_wW (op : BitVec 6) (d a b : BitVec 5) (tag : BitVec 6) (sub : BitVec 5) : fSub5 (wW op d a b tag sub) = sub := by
  change BitVec.extractLsb' 0 5 (op ++ (d ++ (a ++ (b ++ (tag ++ sub))))) = _
  ext i hi
  simp only [BitVec.getElem_extractLsb', BitVec.getLsbD_append]
  repeat (first | rw [if_pos (by omega)] | rw [if_neg (by omega)])
  rw [BitVec.getLsbD_eq_getElem (by omega)]
  all_goals first | rfl | (congr 1; omega)
@[simp] theorem fOp_wL (op : BitVec 6) (d a b : BitVec 5) (fold : BitVec 2) (port : BitVec 4) (sub : BitVec 5) : fOp (wL op d a b fold port sub) = op := by
  change BitVec.extractLsb' 26 6 (op ++ (d ++ (a ++ (b ++ (fold ++ (port ++ sub)))))) = _
  ext i hi
  simp only [BitVec.getElem_extractLsb', BitVec.getLsbD_append]
  repeat (first | rw [if_pos (by omega)] | rw [if_neg (by omega)])
  rw [BitVec.getLsbD_eq_getElem (by omega)]
  all_goals first | rfl | (congr 1; omega)
@[simp] theorem fD_wL (op : BitVec 6) (d a b : BitVec 5) (fold : BitVec 2) (port : BitVec 4) (sub : BitVec 5) : fD (wL op d a b fold port sub) = d := by
  change BitVec.extractLsb' 21 5 (op ++ (d ++ (a ++ (b ++ (fold ++ (port ++ sub)))))) = _
  ext i hi
  simp only [BitVec.getElem_extractLsb', BitVec.getLsbD_append]
  repeat (first | rw [if_pos (by omega)] | rw [if_neg (by omega)])
  rw [BitVec.getLsbD_eq_getElem (by omega)]
  all_goals first | rfl | (congr 1; omega)
@[simp] theorem fA_wL (op : BitVec 6) (d a b : BitVec 5) (fold : BitVec 2) (port : BitVec 4) (sub : BitVec 5) : fA (wL op d a b fold port sub) = a := by
  change BitVec.extractLsb' 16 5 (op ++ (d ++ (a ++ (b ++ (fold ++ (port ++ sub)))))) = _
  ext i hi
  simp only [BitVec.getElem_extractLsb', BitVec.getLsbD_append]
  repeat (first | rw [if_pos (by omega)] | rw [if_neg (by omega)])
  rw [BitVec.getLsbD_eq_getElem (by omega)]
  all_goals first | rfl | (congr 1; omega)
@[simp] theorem fB_wL (op : BitVec 6) (d a b : BitVec 5) (fold : BitVec 2) (port : BitVec 4) (sub : BitVec 5) : fB (wL op d a b fold port sub) = b := by
  change BitVec.extractLsb' 11 5 (op ++ (d ++ (a ++ (b ++ (fold ++ (port ++ sub)))))) = _
  ext i hi
  simp only [BitVec.getElem_extractLsb', BitVec.getLsbD_append]
  repeat (first | rw [if_pos (by omega)] | rw [if_neg (by omega)])
  rw [BitVec.getLsbD_eq_getElem (by omega)]
  all_goals first | rfl | (congr 1; omega)
@[simp] theorem fFold_wL (op : BitVec 6) (d a b : BitVec 5) (fold : BitVec 2) (port : BitVec 4) (sub : BitVec 5) : fFold (wL op d a b fold port sub) = fold := by
  change BitVec.extractLsb' 9 2 (op ++ (d ++ (a ++ (b ++ (fold ++ (port ++ sub)))))) = _
  ext i hi
  simp only [BitVec.getElem_extractLsb', BitVec.getLsbD_append]
  repeat (first | rw [if_pos (by omega)] | rw [if_neg (by omega)])
  rw [BitVec.getLsbD_eq_getElem (by omega)]
  all_goals first | rfl | (congr 1; omega)
@[simp] theorem fPort_wL (op : BitVec 6) (d a b : BitVec 5) (fold : BitVec 2) (port : BitVec 4) (sub : BitVec 5) : fPort (wL op d a b fold port sub) = port := by
  change BitVec.extractLsb' 5 4 (op ++ (d ++ (a ++ (b ++ (fold ++ (port ++ sub)))))) = _
  ext i hi
  simp only [BitVec.getElem_extractLsb', BitVec.getLsbD_append]
  repeat (first | rw [if_pos (by omega)] | rw [if_neg (by omega)])
  rw [BitVec.getLsbD_eq_getElem (by omega)]
  all_goals first | rfl | (congr 1; omega)
@[simp] theorem fSub5_wL (op : BitVec 6) (d a b : BitVec 5) (fold : BitVec 2) (port : BitVec 4) (sub : BitVec 5) : fSub5 (wL op d a b fold port sub) = sub := by
  change BitVec.extractLsb' 0 5 (op ++ (d ++ (a ++ (b ++ (fold ++ (port ++ sub)))))) = _
  ext i hi
  simp only [BitVec.getElem_extractLsb', BitVec.getLsbD_append]
  repeat (first | rw [if_pos (by omega)] | rw [if_neg (by omega)])
  rw [BitVec.getLsbD_eq_getElem (by omega)]
  all_goals first | rfl | (congr 1; omega)
@[simp] theorem xTid_xP (o : PassOp) : xTid (xP o) = o.tid := by
  change BitVec.extractLsb' 24 8 (o.tid ++ (o.c ++ (o.e ++ o.flags))) = _
  ext i hi
  simp only [BitVec.getElem_extractLsb', BitVec.getLsbD_append]
  repeat (first | rw [if_pos (by omega)] | rw [if_neg (by omega)])
  rw [BitVec.getLsbD_eq_getElem (by omega)]
  all_goals first | rfl | (congr 1; omega)
@[simp] theorem xC_xP (o : PassOp) : xC (xP o) = o.c := by
  change BitVec.extractLsb' 19 5 (o.tid ++ (o.c ++ (o.e ++ o.flags))) = _
  ext i hi
  simp only [BitVec.getElem_extractLsb', BitVec.getLsbD_append]
  repeat (first | rw [if_pos (by omega)] | rw [if_neg (by omega)])
  rw [BitVec.getLsbD_eq_getElem (by omega)]
  all_goals first | rfl | (congr 1; omega)
@[simp] theorem xE_xP (o : PassOp) : xE (xP o) = o.e := by
  change BitVec.extractLsb' 14 5 (o.tid ++ (o.c ++ (o.e ++ o.flags))) = _
  ext i hi
  simp only [BitVec.getElem_extractLsb', BitVec.getLsbD_append]
  repeat (first | rw [if_pos (by omega)] | rw [if_neg (by omega)])
  rw [BitVec.getLsbD_eq_getElem (by omega)]
  all_goals first | rfl | (congr 1; omega)
@[simp] theorem xFlags_xP (o : PassOp) : xFlags (xP o) = o.flags := by
  change BitVec.extractLsb' 0 14 (o.tid ++ (o.c ++ (o.e ++ o.flags))) = _
  ext i hi
  simp only [BitVec.getElem_extractLsb', BitVec.getLsbD_append]
  repeat (first | rw [if_pos (by omega)] | rw [if_neg (by omega)])
  rw [BitVec.getLsbD_eq_getElem (by omega)]
  all_goals first | rfl | (congr 1; omega)

@[simp] theorem fB_wI (op : BitVec 6) (d a : BitVec 5) (b : BitVec 5) (f : BitVec 11) : fB (wI op d a (b ++ f)) = b := by
  change BitVec.extractLsb' 11 5 (op ++ (d ++ (a ++ (b ++ f)))) = _
  ext i hi
  simp only [BitVec.getElem_extractLsb', BitVec.getLsbD_append]
  repeat (first | rw [if_pos (by omega)] | rw [if_neg (by omega)])
  rw [BitVec.getLsbD_eq_getElem (by omega)]
  all_goals first | rfl | (congr 1; omega)
@[simp] theorem fF_wI (op : BitVec 6) (d a : BitVec 5) (b : BitVec 5) (f : BitVec 11) : fF (wI op d a (b ++ f)) = f := by
  change BitVec.extractLsb' 0 11 (op ++ (d ++ (a ++ (b ++ f)))) = _
  ext i hi
  simp only [BitVec.getElem_extractLsb', BitVec.getLsbD_append]
  repeat (first | rw [if_pos (by omega)] | rw [if_neg (by omega)])
  rw [BitVec.getLsbD_eq_getElem (by omega)]
  all_goals first | rfl | (congr 1; omega)

@[simp] theorem lo3_zero (x : BitVec 3) : lo3 (0#2 ++ x) = x := by revert x; decide
@[simp] theorem hi2_zero (x : BitVec 3) : hi2 (0#2 ++ x) = 0#2 := by revert x; decide
@[simp] theorem lo4_zero (x : BitVec 4) : lo4 (0#1 ++ x) = x := by revert x; decide
@[simp] theorem hi1_zero (x : BitVec 4) : hi1 (0#1 ++ x) = 0#1 := by revert x; decide
@[simp] theorem lo3s_zero (x : BitVec 3) : lo3s (0#3 ++ x) = x := by revert x; decide
@[simp] theorem hi3_zero (x : BitVec 3) : hi3 (0#3 ++ x) = 0#3 := by revert x; decide
@[simp] theorem lo3s_ldx (s : BitVec 2) (x : BitVec 3) : lo3s (s ++ 0#1 ++ x) = x := by revert s x; decide
@[simp] theorem bit3_ldx (s : BitVec 2) (x : BitVec 3) : bit3 (s ++ 0#1 ++ x) = 0#1 := by revert s x; decide
@[simp] theorem top2_ldx (s : BitVec 2) (x : BitVec 3) : top2 (s ++ 0#1 ++ x) = s := by revert s x; decide
@[simp] theorem lo2_stx (s : BitVec 2) (x : BitVec 2) : lo2 (s ++ 0#2 ++ x) = x := by revert s x; decide
@[simp] theorem bit3_stx (s : BitVec 2) (x : BitVec 2) : bit3 (s ++ 0#2 ++ x) = 0#1 := by revert s x; decide
@[simp] theorem bit2_stx (s : BitVec 2) (x : BitVec 2) : bit2 (s ++ 0#2 ++ x) = 0#1 := by revert s x; decide
@[simp] theorem top2_stx (s : BitVec 2) (x : BitVec 2) : top2 (s ++ 0#2 ++ x) = s := by revert s x; decide
theorem toNat_zero3 (x : BitVec 3) : (0#3 ++ x).toNat = x.toNat := by revert x; decide
theorem le6_of_ne7 : ∀ x : BitVec 3, ¬ x = 7#3 → ¬ 6 < x.toNat := by decide

@[simp] theorem passOf_wW (op : BitVec 6) (o : PassOp) (sub : BitVec 5) :
    passOf (wW op o.d o.a o.b o.tag sub) (xP o) = o := by
  simp [passOf]

/-- A word written for an instruction is read back as it. -/
def ReadsBack (i : Instr) : Prop :=
  ∀ k w x, encode i = some (k, w, x) → Instr.wellFormed i = true → decodeSlot k w x = .ok i

theorem decodeSlot_ok {k : Slot} {w x : W32} {m : Mn} {i : Instr} (h1 : lookup k w = some m) (h2 : Mn.zerosOk m w = true)
    (h3 : Mn.limitsOk m w x = true) (h4 : buildInstr m w x = i) : decodeSlot k w x = .ok i := by
  simp [decodeSlot, classify, h1, h2, h3, h4]

theorem lookup_s {w : W32} {m : Mn} (op sub : Nat) (h1 : (fOp w).toNat = op) (h2 : (fSub w).toNat = sub)
    (h : lookupS op sub = some m) : lookup .s w = some m := by subst h1 h2; exact h
theorem lookup_v {w : W32} {m : Mn} (op sub : Nat) (h1 : (fOp w).toNat = op) (h2 : (fSub w).toNat = sub)
    (h : lookupV op sub = some m) : lookup .v w = some m := by subst h1 h2; exact h
theorem lookup_t {w : W32} {m : Mn} (op sub : Nat) (h1 : (fOp w).toNat = op) (h2 : (fSub w).toNat = sub)
    (h : lookupT op sub = some m) : lookup .t w = some m := by subst h1 h2; exact h
theorem lookup_w {w : W32} {m : Mn} (op sub : Nat) (h1 : (fOp w).toNat = op) (h2 : (fSub5 w).toNat = sub)
    (h : lookupW op sub = some m) : lookup .w w = some m := by subst h1 h2; exact h
theorem lookup_l {w : W32} {m : Mn} (op sub : Nat) (c : Bool) (h1 : (fOp w).toNat = op) (h2 : (fSub5 w).toNat = sub)
    (h3 : decide (fPort w = 15#4) = c) (h : lookupL op sub c = some m) : lookup .l w = some m := by
  subst h1 h2 h3; exact h

theorem ldx_sub : ∀ (s : BitVec 2) (x : BitVec 3), ¬ x = 7#3 → (s ++ 0#1 ++ x).toNat % 8 < 7 := by decide
theorem stx_sub : ∀ (s : BitVec 2) (x : BitVec 2), (s ++ 0#2 ++ x).toNat % 8 < 4 := by decide
theorem vbfpq_sub : ∀ x : BitVec 3, ¬ x = 7#3 → (0#3 ++ x).toNat < 7 := by decide

theorem readsBack_add (g : Guard) (d : Reg) (a : Reg) (b : Reg) : ReadsBack (.add g d a b) := by
  rintro _ _ _ ⟨⟩ h
  exact decodeSlot_ok (lookup_s 1 0 (by simp) (by simp) rfl)
    (by show (decide (fC (wR 0x01#6 d a b g 0#1 0#6) = 0#1)) = true; simp) rfl
    (by show Instr.add (gOf (wR 0x01#6 d a b g 0#1 0#6)) (fD (wR 0x01#6 d a b g 0#1 0#6)) (fA (wR 0x01#6 d a b g 0#1 0#6)) (fB (wR 0x01#6 d a b g 0#1 0#6)) = _; simp [gOf])
theorem readsBack_sub (g : Guard) (d : Reg) (a : Reg) (b : Reg) : ReadsBack (.sub g d a b) := by
  rintro _ _ _ ⟨⟩ h
  exact decodeSlot_ok (lookup_s 2 0 (by simp) (by simp) rfl)
    (by show (decide (fC (wR 0x02#6 d a b g 0#1 0#6) = 0#1)) = true; simp) rfl
    (by show Instr.sub (gOf (wR 0x02#6 d a b g 0#1 0#6)) (fD (wR 0x02#6 d a b g 0#1 0#6)) (fA (wR 0x02#6 d a b g 0#1 0#6)) (fB (wR 0x02#6 d a b g 0#1 0#6)) = _; simp [gOf])
theorem readsBack_addi (d : Reg) (a : Reg) (imm : BitVec 16) : ReadsBack (.addi d a imm) := by
  rintro _ _ _ ⟨⟩ h
  exact decodeSlot_ok (lookup_s 3 _ (by simp) rfl rfl)
    rfl rfl
    (by show Instr.addi (fD (wI 0x03#6 d a imm)) (fA (wI 0x03#6 d a imm)) (fImm (wI 0x03#6 d a imm)) = _; simp)
theorem readsBack_ldi (d : Reg) (imm : BitVec 16) : ReadsBack (.ldi d imm) := by
  rintro _ _ _ ⟨⟩ h
  exact decodeSlot_ok (lookup_s 4 _ (by simp) rfl rfl)
    (by show (decide (fA (wI 0x04#6 d 0#5 imm) = 0#5)) = true; simp) rfl
    (by show Instr.ldi (fD (wI 0x04#6 d 0#5 imm)) (fImm (wI 0x04#6 d 0#5 imm)) = _; simp)
theorem readsBack_lui (d : Reg) (imm : BitVec 16) : ReadsBack (.lui d imm) := by
  rintro _ _ _ ⟨⟩ h
  exact decodeSlot_ok (lookup_s 5 _ (by simp) rfl rfl)
    (by show (decide (fA (wI 0x05#6 d 0#5 imm) = 0#5)) = true; simp) rfl
    (by show Instr.lui (fD (wI 0x05#6 d 0#5 imm)) (fImm (wI 0x05#6 d 0#5 imm)) = _; simp)
theorem readsBack_ldk (d : Reg) (k : W32) : ReadsBack (.ldk d k) := by
  rintro _ _ _ ⟨⟩ h
  exact decodeSlot_ok (lookup_s 6 _ (by simp) rfl rfl)
    (by show (decide (fA (wI 0x06#6 d 0#5 0#16) = 0#5) && decide (fImm (wI 0x06#6 d 0#5 0#16) = 0#16)) = true; simp) rfl
    (by show Instr.ldk (fD (wI 0x06#6 d 0#5 0#16)) (k) = _; simp)
theorem readsBack_mul (g : Guard) (d : Reg) (a : Reg) (b : Reg) : ReadsBack (.mul g d a b) := by
  rintro _ _ _ ⟨⟩ h
  exact decodeSlot_ok (lookup_s 7 0 (by simp) (by simp) rfl)
    (by show (decide (fC (wR 0x07#6 d a b g 0#1 0#6) = 0#1)) = true; simp) rfl
    (by show Instr.mul (gOf (wR 0x07#6 d a b g 0#1 0#6)) (fD (wR 0x07#6 d a b g 0#1 0#6)) (fA (wR 0x07#6 d a b g 0#1 0#6)) (fB (wR 0x07#6 d a b g 0#1 0#6)) = _; simp [gOf])
theorem readsBack_mulh (g : Guard) (d : Reg) (a : Reg) (b : Reg) : ReadsBack (.mulh g d a b) := by
  rintro _ _ _ ⟨⟩ h
  exact decodeSlot_ok (lookup_s 8 0 (by simp) (by simp) rfl)
    (by show (decide (fC (wR 0x08#6 d a b g 0#1 0#6) = 0#1)) = true; simp) rfl
    (by show Instr.mulh (gOf (wR 0x08#6 d a b g 0#1 0#6)) (fD (wR 0x08#6 d a b g 0#1 0#6)) (fA (wR 0x08#6 d a b g 0#1 0#6)) (fB (wR 0x08#6 d a b g 0#1 0#6)) = _; simp [gOf])
theorem readsBack_mulhu (g : Guard) (d : Reg) (a : Reg) (b : Reg) : ReadsBack (.mulhu g d a b) := by
  rintro _ _ _ ⟨⟩ h
  exact decodeSlot_ok (lookup_s 8 1 (by simp) (by simp) rfl)
    (by show (decide (fC (wR 0x08#6 d a b g 0#1 1#6) = 0#1)) = true; simp) rfl
    (by show Instr.mulhu (gOf (wR 0x08#6 d a b g 0#1 1#6)) (fD (wR 0x08#6 d a b g 0#1 1#6)) (fA (wR 0x08#6 d a b g 0#1 1#6)) (fB (wR 0x08#6 d a b g 0#1 1#6)) = _; simp [gOf])
theorem readsBack_div (g : Guard) (d : Reg) (a : Reg) (b : Reg) : ReadsBack (.div g d a b) := by
  rintro _ _ _ ⟨⟩ h
  exact decodeSlot_ok (lookup_s 9 0 (by simp) (by simp) rfl)
    (by show (decide (fC (wR 0x09#6 d a b g 0#1 0#6) = 0#1)) = true; simp) rfl
    (by show Instr.div (gOf (wR 0x09#6 d a b g 0#1 0#6)) (fD (wR 0x09#6 d a b g 0#1 0#6)) (fA (wR 0x09#6 d a b g 0#1 0#6)) (fB (wR 0x09#6 d a b g 0#1 0#6)) = _; simp [gOf])
theorem readsBack_divu (g : Guard) (d : Reg) (a : Reg) (b : Reg) : ReadsBack (.divu g d a b) := by
  rintro _ _ _ ⟨⟩ h
  exact decodeSlot_ok (lookup_s 9 1 (by simp) (by simp) rfl)
    (by show (decide (fC (wR 0x09#6 d a b g 0#1 1#6) = 0#1)) = true; simp) rfl
    (by show Instr.divu (gOf (wR 0x09#6 d a b g 0#1 1#6)) (fD (wR 0x09#6 d a b g 0#1 1#6)) (fA (wR 0x09#6 d a b g 0#1 1#6)) (fB (wR 0x09#6 d a b g 0#1 1#6)) = _; simp [gOf])
theorem readsBack_rem (g : Guard) (d : Reg) (a : Reg) (b : Reg) : ReadsBack (.rem g d a b) := by
  rintro _ _ _ ⟨⟩ h
  exact decodeSlot_ok (lookup_s 9 2 (by simp) (by simp) rfl)
    (by show (decide (fC (wR 0x09#6 d a b g 0#1 2#6) = 0#1)) = true; simp) rfl
    (by show Instr.rem (gOf (wR 0x09#6 d a b g 0#1 2#6)) (fD (wR 0x09#6 d a b g 0#1 2#6)) (fA (wR 0x09#6 d a b g 0#1 2#6)) (fB (wR 0x09#6 d a b g 0#1 2#6)) = _; simp [gOf])
theorem readsBack_remu (g : Guard) (d : Reg) (a : Reg) (b : Reg) : ReadsBack (.remu g d a b) := by
  rintro _ _ _ ⟨⟩ h
  exact decodeSlot_ok (lookup_s 9 3 (by simp) (by simp) rfl)
    (by show (decide (fC (wR 0x09#6 d a b g 0#1 3#6) = 0#1)) = true; simp) rfl
    (by show Instr.remu (gOf (wR 0x09#6 d a b g 0#1 3#6)) (fD (wR 0x09#6 d a b g 0#1 3#6)) (fA (wR 0x09#6 d a b g 0#1 3#6)) (fB (wR 0x09#6 d a b g 0#1 3#6)) = _; simp [gOf])
theorem readsBack_and (g : Guard) (d : Reg) (a : Reg) (b : Reg) : ReadsBack (.and g d a b) := by
  rintro _ _ _ ⟨⟩ h
  exact decodeSlot_ok (lookup_s 10 0 (by simp) (by simp) rfl)
    (by show (decide (fC (wR 0x0A#6 d a b g 0#1 0#6) = 0#1)) = true; simp) rfl
    (by show Instr.and (gOf (wR 0x0A#6 d a b g 0#1 0#6)) (fD (wR 0x0A#6 d a b g 0#1 0#6)) (fA (wR 0x0A#6 d a b g 0#1 0#6)) (fB (wR 0x0A#6 d a b g 0#1 0#6)) = _; simp [gOf])
theorem readsBack_or (g : Guard) (d : Reg) (a : Reg) (b : Reg) : ReadsBack (.or g d a b) := by
  rintro _ _ _ ⟨⟩ h
  exact decodeSlot_ok (lookup_s 10 1 (by simp) (by simp) rfl)
    (by show (decide (fC (wR 0x0A#6 d a b g 0#1 1#6) = 0#1)) = true; simp) rfl
    (by show Instr.or (gOf (wR 0x0A#6 d a b g 0#1 1#6)) (fD (wR 0x0A#6 d a b g 0#1 1#6)) (fA (wR 0x0A#6 d a b g 0#1 1#6)) (fB (wR 0x0A#6 d a b g 0#1 1#6)) = _; simp [gOf])
theorem readsBack_xor (g : Guard) (d : Reg) (a : Reg) (b : Reg) : ReadsBack (.xor g d a b) := by
  rintro _ _ _ ⟨⟩ h
  exact decodeSlot_ok (lookup_s 10 2 (by simp) (by simp) rfl)
    (by show (decide (fC (wR 0x0A#6 d a b g 0#1 2#6) = 0#1)) = true; simp) rfl
    (by show Instr.xor (gOf (wR 0x0A#6 d a b g 0#1 2#6)) (fD (wR 0x0A#6 d a b g 0#1 2#6)) (fA (wR 0x0A#6 d a b g 0#1 2#6)) (fB (wR 0x0A#6 d a b g 0#1 2#6)) = _; simp [gOf])
theorem readsBack_andn (g : Guard) (d : Reg) (a : Reg) (b : Reg) : ReadsBack (.andn g d a b) := by
  rintro _ _ _ ⟨⟩ h
  exact decodeSlot_ok (lookup_s 10 3 (by simp) (by simp) rfl)
    (by show (decide (fC (wR 0x0A#6 d a b g 0#1 3#6) = 0#1)) = true; simp) rfl
    (by show Instr.andn (gOf (wR 0x0A#6 d a b g 0#1 3#6)) (fD (wR 0x0A#6 d a b g 0#1 3#6)) (fA (wR 0x0A#6 d a b g 0#1 3#6)) (fB (wR 0x0A#6 d a b g 0#1 3#6)) = _; simp [gOf])
theorem readsBack_orn (g : Guard) (d : Reg) (a : Reg) (b : Reg) : ReadsBack (.orn g d a b) := by
  rintro _ _ _ ⟨⟩ h
  exact decodeSlot_ok (lookup_s 10 4 (by simp) (by simp) rfl)
    (by show (decide (fC (wR 0x0A#6 d a b g 0#1 4#6) = 0#1)) = true; simp) rfl
    (by show Instr.orn (gOf (wR 0x0A#6 d a b g 0#1 4#6)) (fD (wR 0x0A#6 d a b g 0#1 4#6)) (fA (wR 0x0A#6 d a b g 0#1 4#6)) (fB (wR 0x0A#6 d a b g 0#1 4#6)) = _; simp [gOf])
theorem readsBack_xnor (g : Guard) (d : Reg) (a : Reg) (b : Reg) : ReadsBack (.xnor g d a b) := by
  rintro _ _ _ ⟨⟩ h
  exact decodeSlot_ok (lookup_s 10 5 (by simp) (by simp) rfl)
    (by show (decide (fC (wR 0x0A#6 d a b g 0#1 5#6) = 0#1)) = true; simp) rfl
    (by show Instr.xnor (gOf (wR 0x0A#6 d a b g 0#1 5#6)) (fD (wR 0x0A#6 d a b g 0#1 5#6)) (fA (wR 0x0A#6 d a b g 0#1 5#6)) (fB (wR 0x0A#6 d a b g 0#1 5#6)) = _; simp [gOf])
theorem readsBack_andi (d : Reg) (a : Reg) (imm : BitVec 16) : ReadsBack (.andi d a imm) := by
  rintro _ _ _ ⟨⟩ h
  exact decodeSlot_ok (lookup_s 11 _ (by simp) rfl rfl)
    rfl rfl
    (by show Instr.andi (fD (wI 0x0B#6 d a imm)) (fA (wI 0x0B#6 d a imm)) (fImm (wI 0x0B#6 d a imm)) = _; simp)
theorem readsBack_ori (d : Reg) (a : Reg) (imm : BitVec 16) : ReadsBack (.ori d a imm) := by
  rintro _ _ _ ⟨⟩ h
  exact decodeSlot_ok (lookup_s 12 _ (by simp) rfl rfl)
    rfl rfl
    (by show Instr.ori (fD (wI 0x0C#6 d a imm)) (fA (wI 0x0C#6 d a imm)) (fImm (wI 0x0C#6 d a imm)) = _; simp)
theorem readsBack_xori (d : Reg) (a : Reg) (imm : BitVec 16) : ReadsBack (.xori d a imm) := by
  rintro _ _ _ ⟨⟩ h
  exact decodeSlot_ok (lookup_s 13 _ (by simp) rfl rfl)
    rfl rfl
    (by show Instr.xori (fD (wI 0x0D#6 d a imm)) (fA (wI 0x0D#6 d a imm)) (fImm (wI 0x0D#6 d a imm)) = _; simp)
theorem readsBack_shl (g : Guard) (d : Reg) (a : Reg) (b : Reg) : ReadsBack (.shl g d a b) := by
  rintro _ _ _ ⟨⟩ h
  exact decodeSlot_ok (lookup_s 14 0 (by simp) (by simp) rfl)
    (by show (decide (fC (wR 0x0E#6 d a b g 0#1 0#6) = 0#1)) = true; simp) rfl
    (by show Instr.shl (gOf (wR 0x0E#6 d a b g 0#1 0#6)) (fD (wR 0x0E#6 d a b g 0#1 0#6)) (fA (wR 0x0E#6 d a b g 0#1 0#6)) (fB (wR 0x0E#6 d a b g 0#1 0#6)) = _; simp [gOf])
theorem readsBack_shr (g : Guard) (d : Reg) (a : Reg) (b : Reg) : ReadsBack (.shr g d a b) := by
  rintro _ _ _ ⟨⟩ h
  exact decodeSlot_ok (lookup_s 14 1 (by simp) (by simp) rfl)
    (by show (decide (fC (wR 0x0E#6 d a b g 0#1 1#6) = 0#1)) = true; simp) rfl
    (by show Instr.shr (gOf (wR 0x0E#6 d a b g 0#1 1#6)) (fD (wR 0x0E#6 d a b g 0#1 1#6)) (fA (wR 0x0E#6 d a b g 0#1 1#6)) (fB (wR 0x0E#6 d a b g 0#1 1#6)) = _; simp [gOf])
theorem readsBack_sra (g : Guard) (d : Reg) (a : Reg) (b : Reg) : ReadsBack (.sra g d a b) := by
  rintro _ _ _ ⟨⟩ h
  exact decodeSlot_ok (lookup_s 14 2 (by simp) (by simp) rfl)
    (by show (decide (fC (wR 0x0E#6 d a b g 0#1 2#6) = 0#1)) = true; simp) rfl
    (by show Instr.sra (gOf (wR 0x0E#6 d a b g 0#1 2#6)) (fD (wR 0x0E#6 d a b g 0#1 2#6)) (fA (wR 0x0E#6 d a b g 0#1 2#6)) (fB (wR 0x0E#6 d a b g 0#1 2#6)) = _; simp [gOf])
theorem readsBack_ror (g : Guard) (d : Reg) (a : Reg) (b : Reg) : ReadsBack (.ror g d a b) := by
  rintro _ _ _ ⟨⟩ h
  exact decodeSlot_ok (lookup_s 14 3 (by simp) (by simp) rfl)
    (by show (decide (fC (wR 0x0E#6 d a b g 0#1 3#6) = 0#1)) = true; simp) rfl
    (by show Instr.ror (gOf (wR 0x0E#6 d a b g 0#1 3#6)) (fD (wR 0x0E#6 d a b g 0#1 3#6)) (fA (wR 0x0E#6 d a b g 0#1 3#6)) (fB (wR 0x0E#6 d a b g 0#1 3#6)) = _; simp [gOf])
theorem readsBack_shli (g : Guard) (d : Reg) (a : Reg) (b : Reg) (c : BitVec 1) : ReadsBack (.shli g d a b c) := by
  rintro _ _ _ ⟨⟩ h
  exact decodeSlot_ok (lookup_s 15 0 (by simp) (by simp) rfl)
    rfl rfl
    (by show Instr.shli (gOf (wR 0x0F#6 d a b g c 0#6)) (fD (wR 0x0F#6 d a b g c 0#6)) (fA (wR 0x0F#6 d a b g c 0#6)) (fB (wR 0x0F#6 d a b g c 0#6)) (fC (wR 0x0F#6 d a b g c 0#6)) = _; simp [gOf])
theorem readsBack_shri (g : Guard) (d : Reg) (a : Reg) (b : Reg) (c : BitVec 1) : ReadsBack (.shri g d a b c) := by
  rintro _ _ _ ⟨⟩ h
  exact decodeSlot_ok (lookup_s 15 1 (by simp) (by simp) rfl)
    rfl rfl
    (by show Instr.shri (gOf (wR 0x0F#6 d a b g c 1#6)) (fD (wR 0x0F#6 d a b g c 1#6)) (fA (wR 0x0F#6 d a b g c 1#6)) (fB (wR 0x0F#6 d a b g c 1#6)) (fC (wR 0x0F#6 d a b g c 1#6)) = _; simp [gOf])
theorem readsBack_srai (g : Guard) (d : Reg) (a : Reg) (b : Reg) (c : BitVec 1) : ReadsBack (.srai g d a b c) := by
  rintro _ _ _ ⟨⟩ h
  exact decodeSlot_ok (lookup_s 15 2 (by simp) (by simp) rfl)
    rfl rfl
    (by show Instr.srai (gOf (wR 0x0F#6 d a b g c 2#6)) (fD (wR 0x0F#6 d a b g c 2#6)) (fA (wR 0x0F#6 d a b g c 2#6)) (fB (wR 0x0F#6 d a b g c 2#6)) (fC (wR 0x0F#6 d a b g c 2#6)) = _; simp [gOf])
theorem readsBack_rori (g : Guard) (d : Reg) (a : Reg) (b : Reg) (c : BitVec 1) : ReadsBack (.rori g d a b c) := by
  rintro _ _ _ ⟨⟩ h
  exact decodeSlot_ok (lookup_s 15 3 (by simp) (by simp) rfl)
    rfl rfl
    (by show Instr.rori (gOf (wR 0x0F#6 d a b g c 3#6)) (fD (wR 0x0F#6 d a b g c 3#6)) (fA (wR 0x0F#6 d a b g c 3#6)) (fB (wR 0x0F#6 d a b g c 3#6)) (fC (wR 0x0F#6 d a b g c 3#6)) = _; simp [gOf])
theorem readsBack_min (g : Guard) (d : Reg) (a : Reg) (b : Reg) : ReadsBack (.min g d a b) := by
  rintro _ _ _ ⟨⟩ h
  exact decodeSlot_ok (lookup_s 16 0 (by simp) (by simp) rfl)
    (by show (decide (fC (wR 0x10#6 d a b g 0#1 0#6) = 0#1)) = true; simp) rfl
    (by show Instr.min (gOf (wR 0x10#6 d a b g 0#1 0#6)) (fD (wR 0x10#6 d a b g 0#1 0#6)) (fA (wR 0x10#6 d a b g 0#1 0#6)) (fB (wR 0x10#6 d a b g 0#1 0#6)) = _; simp [gOf])
theorem readsBack_max (g : Guard) (d : Reg) (a : Reg) (b : Reg) : ReadsBack (.max g d a b) := by
  rintro _ _ _ ⟨⟩ h
  exact decodeSlot_ok (lookup_s 16 1 (by simp) (by simp) rfl)
    (by show (decide (fC (wR 0x10#6 d a b g 0#1 1#6) = 0#1)) = true; simp) rfl
    (by show Instr.max (gOf (wR 0x10#6 d a b g 0#1 1#6)) (fD (wR 0x10#6 d a b g 0#1 1#6)) (fA (wR 0x10#6 d a b g 0#1 1#6)) (fB (wR 0x10#6 d a b g 0#1 1#6)) = _; simp [gOf])
theorem readsBack_minu (g : Guard) (d : Reg) (a : Reg) (b : Reg) : ReadsBack (.minu g d a b) := by
  rintro _ _ _ ⟨⟩ h
  exact decodeSlot_ok (lookup_s 16 2 (by simp) (by simp) rfl)
    (by show (decide (fC (wR 0x10#6 d a b g 0#1 2#6) = 0#1)) = true; simp) rfl
    (by show Instr.minu (gOf (wR 0x10#6 d a b g 0#1 2#6)) (fD (wR 0x10#6 d a b g 0#1 2#6)) (fA (wR 0x10#6 d a b g 0#1 2#6)) (fB (wR 0x10#6 d a b g 0#1 2#6)) = _; simp [gOf])
theorem readsBack_maxu (g : Guard) (d : Reg) (a : Reg) (b : Reg) : ReadsBack (.maxu g d a b) := by
  rintro _ _ _ ⟨⟩ h
  exact decodeSlot_ok (lookup_s 16 3 (by simp) (by simp) rfl)
    (by show (decide (fC (wR 0x10#6 d a b g 0#1 3#6) = 0#1)) = true; simp) rfl
    (by show Instr.maxu (gOf (wR 0x10#6 d a b g 0#1 3#6)) (fD (wR 0x10#6 d a b g 0#1 3#6)) (fA (wR 0x10#6 d a b g 0#1 3#6)) (fB (wR 0x10#6 d a b g 0#1 3#6)) = _; simp [gOf])
theorem readsBack_clz (g : Guard) (d : Reg) (a : Reg) : ReadsBack (.clz g d a) := by
  rintro _ _ _ ⟨⟩ h
  exact decodeSlot_ok (lookup_s 17 0 (by simp) (by simp) rfl)
    (by show (decide (fB (wR 0x11#6 d a 0#5 g 0#1 0#6) = 0#5) && decide (fC (wR 0x11#6 d a 0#5 g 0#1 0#6) = 0#1)) = true; simp) rfl
    (by show Instr.clz (gOf (wR 0x11#6 d a 0#5 g 0#1 0#6)) (fD (wR 0x11#6 d a 0#5 g 0#1 0#6)) (fA (wR 0x11#6 d a 0#5 g 0#1 0#6)) = _; simp [gOf])
theorem readsBack_ctz (g : Guard) (d : Reg) (a : Reg) : ReadsBack (.ctz g d a) := by
  rintro _ _ _ ⟨⟩ h
  exact decodeSlot_ok (lookup_s 17 1 (by simp) (by simp) rfl)
    (by show (decide (fB (wR 0x11#6 d a 0#5 g 0#1 1#6) = 0#5) && decide (fC (wR 0x11#6 d a 0#5 g 0#1 1#6) = 0#1)) = true; simp) rfl
    (by show Instr.ctz (gOf (wR 0x11#6 d a 0#5 g 0#1 1#6)) (fD (wR 0x11#6 d a 0#5 g 0#1 1#6)) (fA (wR 0x11#6 d a 0#5 g 0#1 1#6)) = _; simp [gOf])
theorem readsBack_popc (g : Guard) (d : Reg) (a : Reg) : ReadsBack (.popc g d a) := by
  rintro _ _ _ ⟨⟩ h
  exact decodeSlot_ok (lookup_s 17 2 (by simp) (by simp) rfl)
    (by show (decide (fB (wR 0x11#6 d a 0#5 g 0#1 2#6) = 0#5) && decide (fC (wR 0x11#6 d a 0#5 g 0#1 2#6) = 0#1)) = true; simp) rfl
    (by show Instr.popc (gOf (wR 0x11#6 d a 0#5 g 0#1 2#6)) (fD (wR 0x11#6 d a 0#5 g 0#1 2#6)) (fA (wR 0x11#6 d a 0#5 g 0#1 2#6)) = _; simp [gOf])
theorem readsBack_brev (g : Guard) (d : Reg) (a : Reg) : ReadsBack (.brev g d a) := by
  rintro _ _ _ ⟨⟩ h
  exact decodeSlot_ok (lookup_s 17 3 (by simp) (by simp) rfl)
    (by show (decide (fB (wR 0x11#6 d a 0#5 g 0#1 3#6) = 0#5) && decide (fC (wR 0x11#6 d a 0#5 g 0#1 3#6) = 0#1)) = true; simp) rfl
    (by show Instr.brev (gOf (wR 0x11#6 d a 0#5 g 0#1 3#6)) (fD (wR 0x11#6 d a 0#5 g 0#1 3#6)) (fA (wR 0x11#6 d a 0#5 g 0#1 3#6)) = _; simp [gOf])
theorem readsBack_sext8 (g : Guard) (d : Reg) (a : Reg) : ReadsBack (.sext8 g d a) := by
  rintro _ _ _ ⟨⟩ h
  exact decodeSlot_ok (lookup_s 18 0 (by simp) (by simp) rfl)
    (by show (decide (fB (wR 0x12#6 d a 0#5 g 0#1 0#6) = 0#5) && decide (fC (wR 0x12#6 d a 0#5 g 0#1 0#6) = 0#1)) = true; simp) rfl
    (by show Instr.sext8 (gOf (wR 0x12#6 d a 0#5 g 0#1 0#6)) (fD (wR 0x12#6 d a 0#5 g 0#1 0#6)) (fA (wR 0x12#6 d a 0#5 g 0#1 0#6)) = _; simp [gOf])
theorem readsBack_sext16 (g : Guard) (d : Reg) (a : Reg) : ReadsBack (.sext16 g d a) := by
  rintro _ _ _ ⟨⟩ h
  exact decodeSlot_ok (lookup_s 18 1 (by simp) (by simp) rfl)
    (by show (decide (fB (wR 0x12#6 d a 0#5 g 0#1 1#6) = 0#5) && decide (fC (wR 0x12#6 d a 0#5 g 0#1 1#6) = 0#1)) = true; simp) rfl
    (by show Instr.sext16 (gOf (wR 0x12#6 d a 0#5 g 0#1 1#6)) (fD (wR 0x12#6 d a 0#5 g 0#1 1#6)) (fA (wR 0x12#6 d a 0#5 g 0#1 1#6)) = _; simp [gOf])
theorem readsBack_sext32 (g : Guard) (d : Reg) (a : Reg) : ReadsBack (.sext32 g d a) := by
  rintro _ _ _ ⟨⟩ h
  exact decodeSlot_ok (lookup_s 18 2 (by simp) (by simp) rfl)
    (by show (decide (fB (wR 0x12#6 d a 0#5 g 0#1 2#6) = 0#5) && decide (fC (wR 0x12#6 d a 0#5 g 0#1 2#6) = 0#1)) = true; simp) rfl
    (by show Instr.sext32 (gOf (wR 0x12#6 d a 0#5 g 0#1 2#6)) (fD (wR 0x12#6 d a 0#5 g 0#1 2#6)) (fA (wR 0x12#6 d a 0#5 g 0#1 2#6)) = _; simp [gOf])
theorem readsBack_zext8 (g : Guard) (d : Reg) (a : Reg) : ReadsBack (.zext8 g d a) := by
  rintro _ _ _ ⟨⟩ h
  exact decodeSlot_ok (lookup_s 18 3 (by simp) (by simp) rfl)
    (by show (decide (fB (wR 0x12#6 d a 0#5 g 0#1 3#6) = 0#5) && decide (fC (wR 0x12#6 d a 0#5 g 0#1 3#6) = 0#1)) = true; simp) rfl
    (by show Instr.zext8 (gOf (wR 0x12#6 d a 0#5 g 0#1 3#6)) (fD (wR 0x12#6 d a 0#5 g 0#1 3#6)) (fA (wR 0x12#6 d a 0#5 g 0#1 3#6)) = _; simp [gOf])
theorem readsBack_zext16 (g : Guard) (d : Reg) (a : Reg) : ReadsBack (.zext16 g d a) := by
  rintro _ _ _ ⟨⟩ h
  exact decodeSlot_ok (lookup_s 18 4 (by simp) (by simp) rfl)
    (by show (decide (fB (wR 0x12#6 d a 0#5 g 0#1 4#6) = 0#5) && decide (fC (wR 0x12#6 d a 0#5 g 0#1 4#6) = 0#1)) = true; simp) rfl
    (by show Instr.zext16 (gOf (wR 0x12#6 d a 0#5 g 0#1 4#6)) (fD (wR 0x12#6 d a 0#5 g 0#1 4#6)) (fA (wR 0x12#6 d a 0#5 g 0#1 4#6)) = _; simp [gOf])
theorem readsBack_zext32 (g : Guard) (d : Reg) (a : Reg) : ReadsBack (.zext32 g d a) := by
  rintro _ _ _ ⟨⟩ h
  exact decodeSlot_ok (lookup_s 18 5 (by simp) (by simp) rfl)
    (by show (decide (fB (wR 0x12#6 d a 0#5 g 0#1 5#6) = 0#5) && decide (fC (wR 0x12#6 d a 0#5 g 0#1 5#6) = 0#1)) = true; simp) rfl
    (by show Instr.zext32 (gOf (wR 0x12#6 d a 0#5 g 0#1 5#6)) (fD (wR 0x12#6 d a 0#5 g 0#1 5#6)) (fA (wR 0x12#6 d a 0#5 g 0#1 5#6)) = _; simp [gOf])
theorem readsBack_cmpeq (g : Guard) (d : Reg3) (a : Reg) (b : Reg) : ReadsBack (.cmpeq g d a b) := by
  rintro _ _ _ ⟨⟩ h
  exact decodeSlot_ok (lookup_s 19 0 (by simp) (by simp) rfl)
    (by show (decide (hi2 (fD (wR 0x13#6 (0#2 ++ d) a b g 0#1 0#6)) = 0#2) && decide (fC (wR 0x13#6 (0#2 ++ d) a b g 0#1 0#6) = 0#1)) = true; simp) rfl
    (by show Instr.cmpeq (gOf (wR 0x13#6 (0#2 ++ d) a b g 0#1 0#6)) (lo3 (fD (wR 0x13#6 (0#2 ++ d) a b g 0#1 0#6))) (fA (wR 0x13#6 (0#2 ++ d) a b g 0#1 0#6)) (fB (wR 0x13#6 (0#2 ++ d) a b g 0#1 0#6)) = _; simp [gOf])
theorem readsBack_cmpne (g : Guard) (d : Reg3) (a : Reg) (b : Reg) : ReadsBack (.cmpne g d a b) := by
  rintro _ _ _ ⟨⟩ h
  exact decodeSlot_ok (lookup_s 19 1 (by simp) (by simp) rfl)
    (by show (decide (hi2 (fD (wR 0x13#6 (0#2 ++ d) a b g 0#1 1#6)) = 0#2) && decide (fC (wR 0x13#6 (0#2 ++ d) a b g 0#1 1#6) = 0#1)) = true; simp) rfl
    (by show Instr.cmpne (gOf (wR 0x13#6 (0#2 ++ d) a b g 0#1 1#6)) (lo3 (fD (wR 0x13#6 (0#2 ++ d) a b g 0#1 1#6))) (fA (wR 0x13#6 (0#2 ++ d) a b g 0#1 1#6)) (fB (wR 0x13#6 (0#2 ++ d) a b g 0#1 1#6)) = _; simp [gOf])
theorem readsBack_cmplt (g : Guard) (d : Reg3) (a : Reg) (b : Reg) : ReadsBack (.cmplt g d a b) := by
  rintro _ _ _ ⟨⟩ h
  exact decodeSlot_ok (lookup_s 19 2 (by simp) (by simp) rfl)
    (by show (decide (hi2 (fD (wR 0x13#6 (0#2 ++ d) a b g 0#1 2#6)) = 0#2) && decide (fC (wR 0x13#6 (0#2 ++ d) a b g 0#1 2#6) = 0#1)) = true; simp) rfl
    (by show Instr.cmplt (gOf (wR 0x13#6 (0#2 ++ d) a b g 0#1 2#6)) (lo3 (fD (wR 0x13#6 (0#2 ++ d) a b g 0#1 2#6))) (fA (wR 0x13#6 (0#2 ++ d) a b g 0#1 2#6)) (fB (wR 0x13#6 (0#2 ++ d) a b g 0#1 2#6)) = _; simp [gOf])
theorem readsBack_cmpltu (g : Guard) (d : Reg3) (a : Reg) (b : Reg) : ReadsBack (.cmpltu g d a b) := by
  rintro _ _ _ ⟨⟩ h
  exact decodeSlot_ok (lookup_s 19 3 (by simp) (by simp) rfl)
    (by show (decide (hi2 (fD (wR 0x13#6 (0#2 ++ d) a b g 0#1 3#6)) = 0#2) && decide (fC (wR 0x13#6 (0#2 ++ d) a b g 0#1 3#6) = 0#1)) = true; simp) rfl
    (by show Instr.cmpltu (gOf (wR 0x13#6 (0#2 ++ d) a b g 0#1 3#6)) (lo3 (fD (wR 0x13#6 (0#2 ++ d) a b g 0#1 3#6))) (fA (wR 0x13#6 (0#2 ++ d) a b g 0#1 3#6)) (fB (wR 0x13#6 (0#2 ++ d) a b g 0#1 3#6)) = _; simp [gOf])
theorem readsBack_cmple (g : Guard) (d : Reg3) (a : Reg) (b : Reg) : ReadsBack (.cmple g d a b) := by
  rintro _ _ _ ⟨⟩ h
  exact decodeSlot_ok (lookup_s 19 4 (by simp) (by simp) rfl)
    (by show (decide (hi2 (fD (wR 0x13#6 (0#2 ++ d) a b g 0#1 4#6)) = 0#2) && decide (fC (wR 0x13#6 (0#2 ++ d) a b g 0#1 4#6) = 0#1)) = true; simp) rfl
    (by show Instr.cmple (gOf (wR 0x13#6 (0#2 ++ d) a b g 0#1 4#6)) (lo3 (fD (wR 0x13#6 (0#2 ++ d) a b g 0#1 4#6))) (fA (wR 0x13#6 (0#2 ++ d) a b g 0#1 4#6)) (fB (wR 0x13#6 (0#2 ++ d) a b g 0#1 4#6)) = _; simp [gOf])
theorem readsBack_cmpleu (g : Guard) (d : Reg3) (a : Reg) (b : Reg) : ReadsBack (.cmpleu g d a b) := by
  rintro _ _ _ ⟨⟩ h
  exact decodeSlot_ok (lookup_s 19 5 (by simp) (by simp) rfl)
    (by show (decide (hi2 (fD (wR 0x13#6 (0#2 ++ d) a b g 0#1 5#6)) = 0#2) && decide (fC (wR 0x13#6 (0#2 ++ d) a b g 0#1 5#6) = 0#1)) = true; simp) rfl
    (by show Instr.cmpleu (gOf (wR 0x13#6 (0#2 ++ d) a b g 0#1 5#6)) (lo3 (fD (wR 0x13#6 (0#2 ++ d) a b g 0#1 5#6))) (fA (wR 0x13#6 (0#2 ++ d) a b g 0#1 5#6)) (fB (wR 0x13#6 (0#2 ++ d) a b g 0#1 5#6)) = _; simp [gOf])
theorem readsBack_cmpieq (d : Reg3) (a : Reg) (imm : BitVec 16) : ReadsBack (.cmpieq d a imm) := by
  rintro _ _ _ ⟨⟩ h
  exact decodeSlot_ok (lookup_s 20 _ (by simp) rfl rfl)
    (by show (decide (hi2 (fD (wI 0x14#6 (0#2 ++ d) a imm)) = 0#2)) = true; simp) rfl
    (by show Instr.cmpieq (lo3 (fD (wI 0x14#6 (0#2 ++ d) a imm))) (fA (wI 0x14#6 (0#2 ++ d) a imm)) (fImm (wI 0x14#6 (0#2 ++ d) a imm)) = _; simp)
theorem readsBack_cmpilt (d : Reg3) (a : Reg) (imm : BitVec 16) : ReadsBack (.cmpilt d a imm) := by
  rintro _ _ _ ⟨⟩ h
  exact decodeSlot_ok (lookup_s 21 _ (by simp) rfl rfl)
    (by show (decide (hi2 (fD (wI 0x15#6 (0#2 ++ d) a imm)) = 0#2)) = true; simp) rfl
    (by show Instr.cmpilt (lo3 (fD (wI 0x15#6 (0#2 ++ d) a imm))) (fA (wI 0x15#6 (0#2 ++ d) a imm)) (fImm (wI 0x15#6 (0#2 ++ d) a imm)) = _; simp)
theorem readsBack_cmpiltu (d : Reg3) (a : Reg) (imm : BitVec 16) : ReadsBack (.cmpiltu d a imm) := by
  rintro _ _ _ ⟨⟩ h
  exact decodeSlot_ok (lookup_s 22 _ (by simp) rfl rfl)
    (by show (decide (hi2 (fD (wI 0x16#6 (0#2 ++ d) a imm)) = 0#2)) = true; simp) rfl
    (by show Instr.cmpiltu (lo3 (fD (wI 0x16#6 (0#2 ++ d) a imm))) (fA (wI 0x16#6 (0#2 ++ d) a imm)) (fImm (wI 0x16#6 (0#2 ++ d) a imm)) = _; simp)
theorem readsBack_sel (g : Guard) (d : Reg) (a : Reg) (b : Reg) (k : Reg3) : ReadsBack (.sel g d a b k) := by
  rintro _ _ _ ⟨⟩ h
  exact decodeSlot_ok (lookup_s 23 _ (by simp) rfl rfl)
    (by show (decide (fC (wR 0x17#6 d a b g 0#1 (0#3 ++ k)) = 0#1) && decide (hi3 (fSub (wR 0x17#6 d a b g 0#1 (0#3 ++ k))) = 0#3)) = true; simp) rfl
    (by show Instr.sel (gOf (wR 0x17#6 d a b g 0#1 (0#3 ++ k))) (fD (wR 0x17#6 d a b g 0#1 (0#3 ++ k))) (fA (wR 0x17#6 d a b g 0#1 (0#3 ++ k))) (fB (wR 0x17#6 d a b g 0#1 (0#3 ++ k))) (lo3s (fSub (wR 0x17#6 d a b g 0#1 (0#3 ++ k)))) = _; simp [gOf])
theorem readsBack_pand (g : Guard) (d : Reg3) (a : Reg3) (b : Reg3) : ReadsBack (.pand g d a b) := by
  rintro _ _ _ ⟨⟩ h
  exact decodeSlot_ok (lookup_s 24 0 (by simp) (by simp) rfl)
    (by show (decide (hi2 (fD (wR 0x18#6 (0#2 ++ d) (0#2 ++ a) (0#2 ++ b) g 0#1 0#6)) = 0#2) && decide (hi2 (fA (wR 0x18#6 (0#2 ++ d) (0#2 ++ a) (0#2 ++ b) g 0#1 0#6)) = 0#2) && decide (hi2 (fB (wR 0x18#6 (0#2 ++ d) (0#2 ++ a) (0#2 ++ b) g 0#1 0#6)) = 0#2) && decide (fC (wR 0x18#6 (0#2 ++ d) (0#2 ++ a) (0#2 ++ b) g 0#1 0#6) = 0#1)) = true; simp) rfl
    (by show Instr.pand (gOf (wR 0x18#6 (0#2 ++ d) (0#2 ++ a) (0#2 ++ b) g 0#1 0#6)) (lo3 (fD (wR 0x18#6 (0#2 ++ d) (0#2 ++ a) (0#2 ++ b) g 0#1 0#6))) (lo3 (fA (wR 0x18#6 (0#2 ++ d) (0#2 ++ a) (0#2 ++ b) g 0#1 0#6))) (lo3 (fB (wR 0x18#6 (0#2 ++ d) (0#2 ++ a) (0#2 ++ b) g 0#1 0#6))) = _; simp [gOf])
theorem readsBack_por (g : Guard) (d : Reg3) (a : Reg3) (b : Reg3) : ReadsBack (.por g d a b) := by
  rintro _ _ _ ⟨⟩ h
  exact decodeSlot_ok (lookup_s 24 1 (by simp) (by simp) rfl)
    (by show (decide (hi2 (fD (wR 0x18#6 (0#2 ++ d) (0#2 ++ a) (0#2 ++ b) g 0#1 1#6)) = 0#2) && decide (hi2 (fA (wR 0x18#6 (0#2 ++ d) (0#2 ++ a) (0#2 ++ b) g 0#1 1#6)) = 0#2) && decide (hi2 (fB (wR 0x18#6 (0#2 ++ d) (0#2 ++ a) (0#2 ++ b) g 0#1 1#6)) = 0#2) && decide (fC (wR 0x18#6 (0#2 ++ d) (0#2 ++ a) (0#2 ++ b) g 0#1 1#6) = 0#1)) = true; simp) rfl
    (by show Instr.por (gOf (wR 0x18#6 (0#2 ++ d) (0#2 ++ a) (0#2 ++ b) g 0#1 1#6)) (lo3 (fD (wR 0x18#6 (0#2 ++ d) (0#2 ++ a) (0#2 ++ b) g 0#1 1#6))) (lo3 (fA (wR 0x18#6 (0#2 ++ d) (0#2 ++ a) (0#2 ++ b) g 0#1 1#6))) (lo3 (fB (wR 0x18#6 (0#2 ++ d) (0#2 ++ a) (0#2 ++ b) g 0#1 1#6))) = _; simp [gOf])
theorem readsBack_pxor (g : Guard) (d : Reg3) (a : Reg3) (b : Reg3) : ReadsBack (.pxor g d a b) := by
  rintro _ _ _ ⟨⟩ h
  exact decodeSlot_ok (lookup_s 24 2 (by simp) (by simp) rfl)
    (by show (decide (hi2 (fD (wR 0x18#6 (0#2 ++ d) (0#2 ++ a) (0#2 ++ b) g 0#1 2#6)) = 0#2) && decide (hi2 (fA (wR 0x18#6 (0#2 ++ d) (0#2 ++ a) (0#2 ++ b) g 0#1 2#6)) = 0#2) && decide (hi2 (fB (wR 0x18#6 (0#2 ++ d) (0#2 ++ a) (0#2 ++ b) g 0#1 2#6)) = 0#2) && decide (fC (wR 0x18#6 (0#2 ++ d) (0#2 ++ a) (0#2 ++ b) g 0#1 2#6) = 0#1)) = true; simp) rfl
    (by show Instr.pxor (gOf (wR 0x18#6 (0#2 ++ d) (0#2 ++ a) (0#2 ++ b) g 0#1 2#6)) (lo3 (fD (wR 0x18#6 (0#2 ++ d) (0#2 ++ a) (0#2 ++ b) g 0#1 2#6))) (lo3 (fA (wR 0x18#6 (0#2 ++ d) (0#2 ++ a) (0#2 ++ b) g 0#1 2#6))) (lo3 (fB (wR 0x18#6 (0#2 ++ d) (0#2 ++ a) (0#2 ++ b) g 0#1 2#6))) = _; simp [gOf])
theorem readsBack_pandn (g : Guard) (d : Reg3) (a : Reg3) (b : Reg3) : ReadsBack (.pandn g d a b) := by
  rintro _ _ _ ⟨⟩ h
  exact decodeSlot_ok (lookup_s 24 3 (by simp) (by simp) rfl)
    (by show (decide (hi2 (fD (wR 0x18#6 (0#2 ++ d) (0#2 ++ a) (0#2 ++ b) g 0#1 3#6)) = 0#2) && decide (hi2 (fA (wR 0x18#6 (0#2 ++ d) (0#2 ++ a) (0#2 ++ b) g 0#1 3#6)) = 0#2) && decide (hi2 (fB (wR 0x18#6 (0#2 ++ d) (0#2 ++ a) (0#2 ++ b) g 0#1 3#6)) = 0#2) && decide (fC (wR 0x18#6 (0#2 ++ d) (0#2 ++ a) (0#2 ++ b) g 0#1 3#6) = 0#1)) = true; simp) rfl
    (by show Instr.pandn (gOf (wR 0x18#6 (0#2 ++ d) (0#2 ++ a) (0#2 ++ b) g 0#1 3#6)) (lo3 (fD (wR 0x18#6 (0#2 ++ d) (0#2 ++ a) (0#2 ++ b) g 0#1 3#6))) (lo3 (fA (wR 0x18#6 (0#2 ++ d) (0#2 ++ a) (0#2 ++ b) g 0#1 3#6))) (lo3 (fB (wR 0x18#6 (0#2 ++ d) (0#2 ++ a) (0#2 ++ b) g 0#1 3#6))) = _; simp [gOf])
theorem readsBack_pnot (g : Guard) (d : Reg3) (a : Reg3) : ReadsBack (.pnot g d a) := by
  rintro _ _ _ ⟨⟩ h
  exact decodeSlot_ok (lookup_s 24 4 (by simp) (by simp) rfl)
    (by show (decide (hi2 (fD (wR 0x18#6 (0#2 ++ d) (0#2 ++ a) 0#5 g 0#1 4#6)) = 0#2) && decide (hi2 (fA (wR 0x18#6 (0#2 ++ d) (0#2 ++ a) 0#5 g 0#1 4#6)) = 0#2) && decide (fB (wR 0x18#6 (0#2 ++ d) (0#2 ++ a) 0#5 g 0#1 4#6) = 0#5) && decide (fC (wR 0x18#6 (0#2 ++ d) (0#2 ++ a) 0#5 g 0#1 4#6) = 0#1)) = true; simp) rfl
    (by show Instr.pnot (gOf (wR 0x18#6 (0#2 ++ d) (0#2 ++ a) 0#5 g 0#1 4#6)) (lo3 (fD (wR 0x18#6 (0#2 ++ d) (0#2 ++ a) 0#5 g 0#1 4#6))) (lo3 (fA (wR 0x18#6 (0#2 ++ d) (0#2 ++ a) 0#5 g 0#1 4#6))) = _; simp [gOf])
theorem readsBack_pget (g : Guard) (d : Reg) : ReadsBack (.pget g d) := by
  rintro _ _ _ ⟨⟩ h
  exact decodeSlot_ok (lookup_s 25 0 (by simp) (by simp) rfl)
    (by show (decide (fA (wR 0x19#6 d 0#5 0#5 g 0#1 0#6) = 0#5) && decide (fB (wR 0x19#6 d 0#5 0#5 g 0#1 0#6) = 0#5) && decide (fC (wR 0x19#6 d 0#5 0#5 g 0#1 0#6) = 0#1)) = true; simp) rfl
    (by show Instr.pget (gOf (wR 0x19#6 d 0#5 0#5 g 0#1 0#6)) (fD (wR 0x19#6 d 0#5 0#5 g 0#1 0#6)) = _; simp [gOf])
theorem readsBack_pset (g : Guard) (a : Reg) : ReadsBack (.pset g a) := by
  rintro _ _ _ ⟨⟩ h
  exact decodeSlot_ok (lookup_s 25 1 (by simp) (by simp) rfl)
    (by show (decide (fD (wR 0x19#6 0#5 a 0#5 g 0#1 1#6) = 0#5) && decide (fB (wR 0x19#6 0#5 a 0#5 g 0#1 1#6) = 0#5) && decide (fC (wR 0x19#6 0#5 a 0#5 g 0#1 1#6) = 0#1)) = true; simp) rfl
    (by show Instr.pset (gOf (wR 0x19#6 0#5 a 0#5 g 0#1 1#6)) (fA (wR 0x19#6 0#5 a 0#5 g 0#1 1#6)) = _; simp [gOf])
theorem readsBack_ldb (d : Reg) (a : Reg) (imm : BitVec 16) : ReadsBack (.ldb d a imm) := by
  rintro _ _ _ ⟨⟩ h
  exact decodeSlot_ok (lookup_s 26 _ (by simp) rfl rfl)
    rfl rfl
    (by show Instr.ldb (fD (wI 0x1A#6 d a imm)) (fA (wI 0x1A#6 d a imm)) (fImm (wI 0x1A#6 d a imm)) = _; simp)
theorem readsBack_ldbu (d : Reg) (a : Reg) (imm : BitVec 16) : ReadsBack (.ldbu d a imm) := by
  rintro _ _ _ ⟨⟩ h
  exact decodeSlot_ok (lookup_s 27 _ (by simp) rfl rfl)
    rfl rfl
    (by show Instr.ldbu (fD (wI 0x1B#6 d a imm)) (fA (wI 0x1B#6 d a imm)) (fImm (wI 0x1B#6 d a imm)) = _; simp)
theorem readsBack_ldh (d : Reg) (a : Reg) (imm : BitVec 16) : ReadsBack (.ldh d a imm) := by
  rintro _ _ _ ⟨⟩ h
  exact decodeSlot_ok (lookup_s 28 _ (by simp) rfl rfl)
    rfl rfl
    (by show Instr.ldh (fD (wI 0x1C#6 d a imm)) (fA (wI 0x1C#6 d a imm)) (fImm (wI 0x1C#6 d a imm)) = _; simp)
theorem readsBack_ldhu (d : Reg) (a : Reg) (imm : BitVec 16) : ReadsBack (.ldhu d a imm) := by
  rintro _ _ _ ⟨⟩ h
  exact decodeSlot_ok (lookup_s 29 _ (by simp) rfl rfl)
    rfl rfl
    (by show Instr.ldhu (fD (wI 0x1D#6 d a imm)) (fA (wI 0x1D#6 d a imm)) (fImm (wI 0x1D#6 d a imm)) = _; simp)
theorem readsBack_ldw (d : Reg) (a : Reg) (imm : BitVec 16) : ReadsBack (.ldw d a imm) := by
  rintro _ _ _ ⟨⟩ h
  exact decodeSlot_ok (lookup_s 30 _ (by simp) rfl rfl)
    rfl rfl
    (by show Instr.ldw (fD (wI 0x1E#6 d a imm)) (fA (wI 0x1E#6 d a imm)) (fImm (wI 0x1E#6 d a imm)) = _; simp)
theorem readsBack_ldwu (d : Reg) (a : Reg) (imm : BitVec 16) : ReadsBack (.ldwu d a imm) := by
  rintro _ _ _ ⟨⟩ h
  exact decodeSlot_ok (lookup_s 31 _ (by simp) rfl rfl)
    rfl rfl
    (by show Instr.ldwu (fD (wI 0x1F#6 d a imm)) (fA (wI 0x1F#6 d a imm)) (fImm (wI 0x1F#6 d a imm)) = _; simp)
theorem readsBack_ldd (d : Reg) (a : Reg) (imm : BitVec 16) : ReadsBack (.ldd d a imm) := by
  rintro _ _ _ ⟨⟩ h
  exact decodeSlot_ok (lookup_s 32 _ (by simp) rfl rfl)
    rfl rfl
    (by show Instr.ldd (fD (wI 0x20#6 d a imm)) (fA (wI 0x20#6 d a imm)) (fImm (wI 0x20#6 d a imm)) = _; simp)
theorem readsBack_stb (d : Reg) (a : Reg) (imm : BitVec 16) : ReadsBack (.stb d a imm) := by
  rintro _ _ _ ⟨⟩ h
  exact decodeSlot_ok (lookup_s 33 _ (by simp) rfl rfl)
    rfl rfl
    (by show Instr.stb (fD (wI 0x21#6 d a imm)) (fA (wI 0x21#6 d a imm)) (fImm (wI 0x21#6 d a imm)) = _; simp)
theorem readsBack_sth (d : Reg) (a : Reg) (imm : BitVec 16) : ReadsBack (.sth d a imm) := by
  rintro _ _ _ ⟨⟩ h
  exact decodeSlot_ok (lookup_s 34 _ (by simp) rfl rfl)
    rfl rfl
    (by show Instr.sth (fD (wI 0x22#6 d a imm)) (fA (wI 0x22#6 d a imm)) (fImm (wI 0x22#6 d a imm)) = _; simp)
theorem readsBack_stw (d : Reg) (a : Reg) (imm : BitVec 16) : ReadsBack (.stw d a imm) := by
  rintro _ _ _ ⟨⟩ h
  exact decodeSlot_ok (lookup_s 35 _ (by simp) rfl rfl)
    rfl rfl
    (by show Instr.stw (fD (wI 0x23#6 d a imm)) (fA (wI 0x23#6 d a imm)) (fImm (wI 0x23#6 d a imm)) = _; simp)
theorem readsBack_std (d : Reg) (a : Reg) (imm : BitVec 16) : ReadsBack (.std d a imm) := by
  rintro _ _ _ ⟨⟩ h
  exact decodeSlot_ok (lookup_s 36 _ (by simp) rfl rfl)
    rfl rfl
    (by show Instr.std (fD (wI 0x24#6 d a imm)) (fA (wI 0x24#6 d a imm)) (fImm (wI 0x24#6 d a imm)) = _; simp)
theorem readsBack_ldx (g : Guard) (d : Reg) (a : Reg) (b : Reg) (s : BitVec 2) (w : Reg3) : ReadsBack (.ldx g d a b s w) := by
  rintro _ _ _ ⟨⟩ h
  exact decodeSlot_ok (lookup_s 37 _ (by simp) rfl (if_pos (by simpa using ldx_sub _ _ (by simpa [Instr.wellFormed] using h))))
    (by show (decide (fC (wR 0x25#6 d a b g 0#1 (s ++ 0#1 ++ w)) = 0#1) && decide (bit3 (fSub (wR 0x25#6 d a b g 0#1 (s ++ 0#1 ++ w))) = 0#1)) = true; simp) rfl
    (by show Instr.ldx (gOf (wR 0x25#6 d a b g 0#1 (s ++ 0#1 ++ w))) (fD (wR 0x25#6 d a b g 0#1 (s ++ 0#1 ++ w))) (fA (wR 0x25#6 d a b g 0#1 (s ++ 0#1 ++ w))) (fB (wR 0x25#6 d a b g 0#1 (s ++ 0#1 ++ w))) (top2 (fSub (wR 0x25#6 d a b g 0#1 (s ++ 0#1 ++ w)))) (lo3s (fSub (wR 0x25#6 d a b g 0#1 (s ++ 0#1 ++ w)))) = _; simp [gOf])
theorem readsBack_stx (g : Guard) (d : Reg) (a : Reg) (b : Reg) (s : BitVec 2) (w : BitVec 2) : ReadsBack (.stx g d a b s w) := by
  rintro _ _ _ ⟨⟩ h
  exact decodeSlot_ok (lookup_s 38 _ (by simp) rfl (if_pos (by simpa using stx_sub _ _)))
    (by show (decide (fC (wR 0x26#6 d a b g 0#1 (s ++ 0#2 ++ w)) = 0#1) && decide (bit3 (fSub (wR 0x26#6 d a b g 0#1 (s ++ 0#2 ++ w))) = 0#1)) = true; simp) rfl
    (by show Instr.stx (gOf (wR 0x26#6 d a b g 0#1 (s ++ 0#2 ++ w))) (fD (wR 0x26#6 d a b g 0#1 (s ++ 0#2 ++ w))) (fA (wR 0x26#6 d a b g 0#1 (s ++ 0#2 ++ w))) (fB (wR 0x26#6 d a b g 0#1 (s ++ 0#2 ++ w))) (top2 (fSub (wR 0x26#6 d a b g 0#1 (s ++ 0#2 ++ w)))) (lo2 (fSub (wR 0x26#6 d a b g 0#1 (s ++ 0#2 ++ w)))) = _; simp [gOf])
theorem readsBack_aadd (g : Guard) (d : Reg) (a : Reg) (b : Reg) : ReadsBack (.aadd g d a b) := by
  rintro _ _ _ ⟨⟩ h
  exact decodeSlot_ok (lookup_s 39 0 (by simp) (by simp) rfl)
    (by show (decide (fC (wR 0x27#6 d a b g 0#1 0#6) = 0#1)) = true; simp) rfl
    (by show Instr.aadd (gOf (wR 0x27#6 d a b g 0#1 0#6)) (fD (wR 0x27#6 d a b g 0#1 0#6)) (fA (wR 0x27#6 d a b g 0#1 0#6)) (fB (wR 0x27#6 d a b g 0#1 0#6)) = _; simp [gOf])
theorem readsBack_aaddw (g : Guard) (d : Reg) (a : Reg) (b : Reg) : ReadsBack (.aaddw g d a b) := by
  rintro _ _ _ ⟨⟩ h
  exact decodeSlot_ok (lookup_s 39 1 (by simp) (by simp) rfl)
    (by show (decide (fC (wR 0x27#6 d a b g 0#1 1#6) = 0#1)) = true; simp) rfl
    (by show Instr.aaddw (gOf (wR 0x27#6 d a b g 0#1 1#6)) (fD (wR 0x27#6 d a b g 0#1 1#6)) (fA (wR 0x27#6 d a b g 0#1 1#6)) (fB (wR 0x27#6 d a b g 0#1 1#6)) = _; simp [gOf])
theorem readsBack_amin (g : Guard) (d : Reg) (a : Reg) (b : Reg) : ReadsBack (.amin g d a b) := by
  rintro _ _ _ ⟨⟩ h
  exact decodeSlot_ok (lookup_s 39 2 (by simp) (by simp) rfl)
    (by show (decide (fC (wR 0x27#6 d a b g 0#1 2#6) = 0#1)) = true; simp) rfl
    (by show Instr.amin (gOf (wR 0x27#6 d a b g 0#1 2#6)) (fD (wR 0x27#6 d a b g 0#1 2#6)) (fA (wR 0x27#6 d a b g 0#1 2#6)) (fB (wR 0x27#6 d a b g 0#1 2#6)) = _; simp [gOf])
theorem readsBack_amax (g : Guard) (d : Reg) (a : Reg) (b : Reg) : ReadsBack (.amax g d a b) := by
  rintro _ _ _ ⟨⟩ h
  exact decodeSlot_ok (lookup_s 39 3 (by simp) (by simp) rfl)
    (by show (decide (fC (wR 0x27#6 d a b g 0#1 3#6) = 0#1)) = true; simp) rfl
    (by show Instr.amax (gOf (wR 0x27#6 d a b g 0#1 3#6)) (fD (wR 0x27#6 d a b g 0#1 3#6)) (fA (wR 0x27#6 d a b g 0#1 3#6)) (fB (wR 0x27#6 d a b g 0#1 3#6)) = _; simp [gOf])
theorem readsBack_aswap (g : Guard) (d : Reg) (a : Reg) (b : Reg) : ReadsBack (.aswap g d a b) := by
  rintro _ _ _ ⟨⟩ h
  exact decodeSlot_ok (lookup_s 39 4 (by simp) (by simp) rfl)
    (by show (decide (fC (wR 0x27#6 d a b g 0#1 4#6) = 0#1)) = true; simp) rfl
    (by show Instr.aswap (gOf (wR 0x27#6 d a b g 0#1 4#6)) (fD (wR 0x27#6 d a b g 0#1 4#6)) (fA (wR 0x27#6 d a b g 0#1 4#6)) (fB (wR 0x27#6 d a b g 0#1 4#6)) = _; simp [gOf])
theorem readsBack_aand (g : Guard) (d : Reg) (a : Reg) (b : Reg) : ReadsBack (.aand g d a b) := by
  rintro _ _ _ ⟨⟩ h
  exact decodeSlot_ok (lookup_s 39 5 (by simp) (by simp) rfl)
    (by show (decide (fC (wR 0x27#6 d a b g 0#1 5#6) = 0#1)) = true; simp) rfl
    (by show Instr.aand (gOf (wR 0x27#6 d a b g 0#1 5#6)) (fD (wR 0x27#6 d a b g 0#1 5#6)) (fA (wR 0x27#6 d a b g 0#1 5#6)) (fB (wR 0x27#6 d a b g 0#1 5#6)) = _; simp [gOf])
theorem readsBack_aor (g : Guard) (d : Reg) (a : Reg) (b : Reg) : ReadsBack (.aor g d a b) := by
  rintro _ _ _ ⟨⟩ h
  exact decodeSlot_ok (lookup_s 39 6 (by simp) (by simp) rfl)
    (by show (decide (fC (wR 0x27#6 d a b g 0#1 6#6) = 0#1)) = true; simp) rfl
    (by show Instr.aor (gOf (wR 0x27#6 d a b g 0#1 6#6)) (fD (wR 0x27#6 d a b g 0#1 6#6)) (fA (wR 0x27#6 d a b g 0#1 6#6)) (fB (wR 0x27#6 d a b g 0#1 6#6)) = _; simp [gOf])
theorem readsBack_afadd (g : Guard) (d : Reg) (a : Reg) (b : Reg) : ReadsBack (.afadd g d a b) := by
  rintro _ _ _ ⟨⟩ h
  exact decodeSlot_ok (lookup_s 39 7 (by simp) (by simp) rfl)
    (by show (decide (fC (wR 0x27#6 d a b g 0#1 7#6) = 0#1)) = true; simp) rfl
    (by show Instr.afadd (gOf (wR 0x27#6 d a b g 0#1 7#6)) (fD (wR 0x27#6 d a b g 0#1 7#6)) (fA (wR 0x27#6 d a b g 0#1 7#6)) (fB (wR 0x27#6 d a b g 0#1 7#6)) = _; simp [gOf])
theorem readsBack_acas (g : Guard) (d : Reg) (a : Reg) (b : Reg) : ReadsBack (.acas g d a b) := by
  rintro _ _ _ ⟨⟩ h
  exact decodeSlot_ok (lookup_s 39 8 (by simp) (by simp) rfl)
    (by show (decide (fC (wR 0x27#6 d a b g 0#1 8#6) = 0#1)) = true; simp) rfl
    (by show Instr.acas (gOf (wR 0x27#6 d a b g 0#1 8#6)) (fD (wR 0x27#6 d a b g 0#1 8#6)) (fA (wR 0x27#6 d a b g 0#1 8#6)) (fB (wR 0x27#6 d a b g 0#1 8#6)) = _; simp [gOf])
theorem readsBack_br (p : Reg3) (neg : BitVec 1) (off : BitVec 22) : ReadsBack (.br p neg off) := by
  rintro _ _ _ ⟨⟩ h
  exact decodeSlot_ok (lookup_s 40 _ (by simp) rfl rfl)
    rfl rfl
    (by show Instr.br (fJp (wJ 0x28#6 p neg off)) (fJn (wJ 0x28#6 p neg off)) (fJoff (wJ 0x28#6 p neg off)) = _; simp)
theorem readsBack_jmp (off : BitVec 22) : ReadsBack (.jmp off) := by
  rintro _ _ _ ⟨⟩ h
  exact decodeSlot_ok (lookup_s 41 _ (by simp) rfl rfl)
    (by show (decide (fJp (wJ 0x29#6 0#3 0#1 off) = 0#3) && decide (fJn (wJ 0x29#6 0#3 0#1 off) = 0#1)) = true; simp) rfl
    (by show Instr.jmp (fJoff (wJ 0x29#6 0#3 0#1 off)) = _; simp)
theorem readsBack_call (off : BitVec 22) : ReadsBack (.call off) := by
  rintro _ _ _ ⟨⟩ h
  exact decodeSlot_ok (lookup_s 42 _ (by simp) rfl rfl)
    (by show (decide (fJp (wJ 0x2A#6 0#3 0#1 off) = 0#3) && decide (fJn (wJ 0x2A#6 0#3 0#1 off) = 0#1)) = true; simp) rfl
    (by show Instr.call (fJoff (wJ 0x2A#6 0#3 0#1 off)) = _; simp)
theorem readsBack_jmpr (g : Guard) (a : Reg) : ReadsBack (.jmpr g a) := by
  rintro _ _ _ ⟨⟩ h
  exact decodeSlot_ok (lookup_s 43 0 (by simp) (by simp) rfl)
    (by show (decide (fD (wR 0x2B#6 0#5 a 0#5 g 0#1 0#6) = 0#5) && decide (fB (wR 0x2B#6 0#5 a 0#5 g 0#1 0#6) = 0#5) && decide (fC (wR 0x2B#6 0#5 a 0#5 g 0#1 0#6) = 0#1)) = true; simp) rfl
    (by show Instr.jmpr (gOf (wR 0x2B#6 0#5 a 0#5 g 0#1 0#6)) (fA (wR 0x2B#6 0#5 a 0#5 g 0#1 0#6)) = _; simp [gOf])
theorem readsBack_loop (d : Reg) (imm : BitVec 16) : ReadsBack (.loop d imm) := by
  rintro _ _ _ ⟨⟩ h
  exact decodeSlot_ok (lookup_s 44 _ (by simp) rfl rfl)
    (by show (decide (fA (wI 0x2C#6 d 0#5 imm) = 0#5)) = true; simp) rfl
    (by show Instr.loop (fD (wI 0x2C#6 d 0#5 imm)) (fImm (wI 0x2C#6 d 0#5 imm)) = _; simp)
theorem readsBack_exit  : ReadsBack (.exit) := by
  rintro _ _ _ ⟨⟩ h
  exact decodeSlot_ok (lookup_s 45 0 (by simp) (by simp) rfl)
    (by show (decide (fD (wR 0x2D#6 0#5 0#5 0#5 ⟨0#3, 0#1⟩ 0#1 0#6) = 0#5) && decide (fA (wR 0x2D#6 0#5 0#5 0#5 ⟨0#3, 0#1⟩ 0#1 0#6) = 0#5) && decide (fB (wR 0x2D#6 0#5 0#5 0#5 ⟨0#3, 0#1⟩ 0#1 0#6) = 0#5) && decide (fC (wR 0x2D#6 0#5 0#5 0#5 ⟨0#3, 0#1⟩ 0#1 0#6) = 0#1) && decide (fG (wR 0x2D#6 0#5 0#5 0#5 ⟨0#3, 0#1⟩ 0#1 0#6) = 0#3) && decide (fN (wR 0x2D#6 0#5 0#5 0#5 ⟨0#3, 0#1⟩ 0#1 0#6) = 0#1)) = true; simp) rfl
    rfl
theorem readsBack_tdfence (g : Guard) : ReadsBack (.tdfence g) := by
  rintro _ _ _ ⟨⟩ h
  exact decodeSlot_ok (lookup_s 46 0 (by simp) (by simp) rfl)
    (by show (decide (fD (wR 0x2E#6 0#5 0#5 0#5 g 0#1 0#6) = 0#5) && decide (fA (wR 0x2E#6 0#5 0#5 0#5 g 0#1 0#6) = 0#5) && decide (fB (wR 0x2E#6 0#5 0#5 0#5 g 0#1 0#6) = 0#5) && decide (fC (wR 0x2E#6 0#5 0#5 0#5 g 0#1 0#6) = 0#1)) = true; simp) rfl
    (by show Instr.tdfence (gOf (wR 0x2E#6 0#5 0#5 0#5 g 0#1 0#6)) = _; simp [gOf])
theorem readsBack_mapfence (g : Guard) : ReadsBack (.mapfence g) := by
  rintro _ _ _ ⟨⟩ h
  exact decodeSlot_ok (lookup_s 46 1 (by simp) (by simp) rfl)
    (by show (decide (fD (wR 0x2E#6 0#5 0#5 0#5 g 0#1 1#6) = 0#5) && decide (fA (wR 0x2E#6 0#5 0#5 0#5 g 0#1 1#6) = 0#5) && decide (fB (wR 0x2E#6 0#5 0#5 0#5 g 0#1 1#6) = 0#5) && decide (fC (wR 0x2E#6 0#5 0#5 0#5 g 0#1 1#6) = 0#1)) = true; simp) rfl
    (by show Instr.mapfence (gOf (wR 0x2E#6 0#5 0#5 0#5 g 0#1 1#6)) = _; simp [gOf])
theorem readsBack_spfence (g : Guard) : ReadsBack (.spfence g) := by
  rintro _ _ _ ⟨⟩ h
  exact decodeSlot_ok (lookup_s 46 2 (by simp) (by simp) rfl)
    (by show (decide (fD (wR 0x2E#6 0#5 0#5 0#5 g 0#1 2#6) = 0#5) && decide (fA (wR 0x2E#6 0#5 0#5 0#5 g 0#1 2#6) = 0#5) && decide (fB (wR 0x2E#6 0#5 0#5 0#5 g 0#1 2#6) = 0#5) && decide (fC (wR 0x2E#6 0#5 0#5 0#5 g 0#1 2#6) = 0#1)) = true; simp) rfl
    (by show Instr.spfence (gOf (wR 0x2E#6 0#5 0#5 0#5 g 0#1 2#6)) = _; simp [gOf])
theorem readsBack_syncmark (g : Guard) : ReadsBack (.syncmark g) := by
  rintro _ _ _ ⟨⟩ h
  exact decodeSlot_ok (lookup_s 46 3 (by simp) (by simp) rfl)
    (by show (decide (fD (wR 0x2E#6 0#5 0#5 0#5 g 0#1 3#6) = 0#5) && decide (fA (wR 0x2E#6 0#5 0#5 0#5 g 0#1 3#6) = 0#5) && decide (fB (wR 0x2E#6 0#5 0#5 0#5 g 0#1 3#6) = 0#5) && decide (fC (wR 0x2E#6 0#5 0#5 0#5 g 0#1 3#6) = 0#1)) = true; simp) rfl
    (by show Instr.syncmark (gOf (wR 0x2E#6 0#5 0#5 0#5 g 0#1 3#6)) = _; simp [gOf])
theorem readsBack_tdw (g : Guard) (a : Reg) (b : Reg) (f : BitVec 6) : ReadsBack (.tdw g a b f) := by
  rintro _ _ _ ⟨⟩ h
  exact decodeSlot_ok (lookup_s 47 _ (by simp) rfl (if_pos (by simp [Instr.wellFormed] at h ⊢; omega)))
    (by show (decide (fD (wR 0x2F#6 0#5 a b g 0#1 f) = 0#5) && decide (fC (wR 0x2F#6 0#5 a b g 0#1 f) = 0#1)) = true; simp) rfl
    (by show Instr.tdw (gOf (wR 0x2F#6 0#5 a b g 0#1 f)) (fA (wR 0x2F#6 0#5 a b g 0#1 f)) (fB (wR 0x2F#6 0#5 a b g 0#1 f)) (fSub (wR 0x2F#6 0#5 a b g 0#1 f)) = _; simp [gOf])
theorem readsBack_tdr (g : Guard) (d : Reg) (a : Reg) (f : BitVec 6) : ReadsBack (.tdr g d a f) := by
  rintro _ _ _ ⟨⟩ h
  exact decodeSlot_ok (lookup_s 48 _ (by simp) rfl (if_pos (by simp [Instr.wellFormed] at h ⊢; omega)))
    (by show (decide (fB (wR 0x30#6 d a 0#5 g 0#1 f) = 0#5) && decide (fC (wR 0x30#6 d a 0#5 g 0#1 f) = 0#1)) = true; simp) rfl
    (by show Instr.tdr (gOf (wR 0x30#6 d a 0#5 g 0#1 f)) (fD (wR 0x30#6 d a 0#5 g 0#1 f)) (fA (wR 0x30#6 d a 0#5 g 0#1 f)) (fSub (wR 0x30#6 d a 0#5 g 0#1 f)) = _; simp [gOf])
theorem readsBack_crd (d : Reg) (cr : BitVec 11) : ReadsBack (.crd d cr) := by
  rintro _ _ _ ⟨⟩ h
  exact decodeSlot_ok (lookup_s 49 _ (by simp) rfl rfl)
    (by show (decide (fA (wI 0x31#6 d 0#5 (0#5 ++ cr)) = 0#5) && decide (fB (wI 0x31#6 d 0#5 (0#5 ++ cr)) = 0#5)) = true; simp) (by simpa [Mn.limitsOk, Instr.wellFormed] using h)
    (by show Instr.crd (fD (wI 0x31#6 d 0#5 (0#5 ++ cr))) (fF (wI 0x31#6 d 0#5 (0#5 ++ cr))) = _; simp)
theorem readsBack_cwr (a : Reg) (cr : BitVec 11) : ReadsBack (.cwr a cr) := by
  rintro _ _ _ ⟨⟩ h
  exact decodeSlot_ok (lookup_s 50 _ (by simp) rfl rfl)
    (by show (decide (fD (wI 0x32#6 0#5 a (0#5 ++ cr)) = 0#5) && decide (fB (wI 0x32#6 0#5 a (0#5 ++ cr)) = 0#5)) = true; simp) (by simpa [Mn.limitsOk, Instr.wellFormed] using h)
    (by show Instr.cwr (fA (wI 0x32#6 0#5 a (0#5 ++ cr))) (fF (wI 0x32#6 0#5 a (0#5 ++ cr))) = _; simp)
theorem readsBack_rngs (g : Guard) (d : Reg) : ReadsBack (.rngs g d) := by
  rintro _ _ _ ⟨⟩ h
  exact decodeSlot_ok (lookup_s 51 0 (by simp) (by simp) rfl)
    (by show (decide (fA (wR 0x33#6 d 0#5 0#5 g 0#1 0#6) = 0#5) && decide (fB (wR 0x33#6 d 0#5 0#5 g 0#1 0#6) = 0#5) && decide (fC (wR 0x33#6 d 0#5 0#5 g 0#1 0#6) = 0#1)) = true; simp) rfl
    (by show Instr.rngs (gOf (wR 0x33#6 d 0#5 0#5 g 0#1 0#6)) (fD (wR 0x33#6 d 0#5 0#5 g 0#1 0#6)) = _; simp [gOf])
theorem readsBack_trap (d : Reg) (a : Reg) (imm : BitVec 16) : ReadsBack (.trap d a imm) := by
  rintro _ _ _ ⟨⟩ h
  exact decodeSlot_ok (lookup_s 52 _ (by simp) rfl rfl)
    rfl rfl
    (by show Instr.trap (fD (wI 0x34#6 d a imm)) (fA (wI 0x34#6 d a imm)) (fImm (wI 0x34#6 d a imm)) = _; simp)
theorem readsBack_eret (g : Guard) (a : Reg) (b : Reg) : ReadsBack (.eret g a b) := by
  rintro _ _ _ ⟨⟩ h
  exact decodeSlot_ok (lookup_s 53 0 (by simp) (by simp) rfl)
    (by show (decide (fD (wR 0x35#6 0#5 a b g 0#1 0#6) = 0#5) && decide (fC (wR 0x35#6 0#5 a b g 0#1 0#6) = 0#1)) = true; simp) rfl
    (by show Instr.eret (gOf (wR 0x35#6 0#5 a b g 0#1 0#6)) (fA (wR 0x35#6 0#5 a b g 0#1 0#6)) (fB (wR 0x35#6 0#5 a b g 0#1 0#6)) = _; simp [gOf])
theorem readsBack_mapw (g : Guard) (d : Reg) (a : Reg) (b : Reg) : ReadsBack (.mapw g d a b) := by
  rintro _ _ _ ⟨⟩ h
  exact decodeSlot_ok (lookup_s 54 0 (by simp) (by simp) rfl)
    (by show (decide (fC (wR 0x36#6 d a b g 0#1 0#6) = 0#1)) = true; simp) rfl
    (by show Instr.mapw (gOf (wR 0x36#6 d a b g 0#1 0#6)) (fD (wR 0x36#6 d a b g 0#1 0#6)) (fA (wR 0x36#6 d a b g 0#1 0#6)) (fB (wR 0x36#6 d a b g 0#1 0#6)) = _; simp [gOf])
theorem readsBack_haltctx (g : Guard) (d : Reg) (a : Reg) (b : Reg) : ReadsBack (.haltctx g d a b) := by
  rintro _ _ _ ⟨⟩ h
  exact decodeSlot_ok (lookup_s 55 0 (by simp) (by simp) rfl)
    (by show (decide (fC (wR 0x37#6 d a b g 0#1 0#6) = 0#1)) = true; simp) rfl
    (by show Instr.haltctx (gOf (wR 0x37#6 d a b g 0#1 0#6)) (fD (wR 0x37#6 d a b g 0#1 0#6)) (fA (wR 0x37#6 d a b g 0#1 0#6)) (fB (wR 0x37#6 d a b g 0#1 0#6)) = _; simp [gOf])
theorem readsBack_ctxsv (g : Guard) (d : Reg) (a : Reg) (b : Reg) : ReadsBack (.ctxsv g d a b) := by
  rintro _ _ _ ⟨⟩ h
  exact decodeSlot_ok (lookup_s 56 0 (by simp) (by simp) rfl)
    (by show (decide (fC (wR 0x38#6 d a b g 0#1 0#6) = 0#1)) = true; simp) rfl
    (by show Instr.ctxsv (gOf (wR 0x38#6 d a b g 0#1 0#6)) (fD (wR 0x38#6 d a b g 0#1 0#6)) (fA (wR 0x38#6 d a b g 0#1 0#6)) (fB (wR 0x38#6 d a b g 0#1 0#6)) = _; simp [gOf])
theorem readsBack_ctxrs (g : Guard) (d : Reg) (a : Reg) (b : Reg) : ReadsBack (.ctxrs g d a b) := by
  rintro _ _ _ ⟨⟩ h
  exact decodeSlot_ok (lookup_s 57 0 (by simp) (by simp) rfl)
    (by show (decide (fC (wR 0x39#6 d a b g 0#1 0#6) = 0#1)) = true; simp) rfl
    (by show Instr.ctxrs (gOf (wR 0x39#6 d a b g 0#1 0#6)) (fD (wR 0x39#6 d a b g 0#1 0#6)) (fA (wR 0x39#6 d a b g 0#1 0#6)) (fB (wR 0x39#6 d a b g 0#1 0#6)) = _; simp [gOf])
theorem readsBack_keyz (g : Guard) (d : Reg) (a : Reg) : ReadsBack (.keyz g d a) := by
  rintro _ _ _ ⟨⟩ h
  exact decodeSlot_ok (lookup_s 58 0 (by simp) (by simp) rfl)
    (by show (decide (fB (wR 0x3A#6 d a 0#5 g 0#1 0#6) = 0#5) && decide (fC (wR 0x3A#6 d a 0#5 g 0#1 0#6) = 0#1)) = true; simp) rfl
    (by show Instr.keyz (gOf (wR 0x3A#6 d a 0#5 g 0#1 0#6)) (fD (wR 0x3A#6 d a 0#5 g 0#1 0#6)) (fA (wR 0x3A#6 d a 0#5 g 0#1 0#6)) = _; simp [gOf])
theorem readsBack_scrub (g : Guard) (d : Reg) (a : Reg) (b : Reg) : ReadsBack (.scrub g d a b) := by
  rintro _ _ _ ⟨⟩ h
  exact decodeSlot_ok (lookup_s 59 0 (by simp) (by simp) rfl)
    (by show (decide (fC (wR 0x3B#6 d a b g 0#1 0#6) = 0#1)) = true; simp) rfl
    (by show Instr.scrub (gOf (wR 0x3B#6 d a b g 0#1 0#6)) (fD (wR 0x3B#6 d a b g 0#1 0#6)) (fA (wR 0x3B#6 d a b g 0#1 0#6)) (fB (wR 0x3B#6 d a b g 0#1 0#6)) = _; simp [gOf])
theorem readsBack_assign (g : Guard) (d : Reg) (a : Reg) (b : Reg) : ReadsBack (.assign g d a b) := by
  rintro _ _ _ ⟨⟩ h
  exact decodeSlot_ok (lookup_s 60 0 (by simp) (by simp) rfl)
    (by show (decide (fC (wR 0x3C#6 d a b g 0#1 0#6) = 0#1)) = true; simp) rfl
    (by show Instr.assign (gOf (wR 0x3C#6 d a b g 0#1 0#6)) (fD (wR 0x3C#6 d a b g 0#1 0#6)) (fA (wR 0x3C#6 d a b g 0#1 0#6)) (fB (wR 0x3C#6 d a b g 0#1 0#6)) = _; simp [gOf])
theorem readsBack_vadd (d : Reg) (a : Reg) (b : Reg) (c : VCtl) : ReadsBack (.vadd d a b c) := by
  rintro _ _ _ ⟨⟩ h
  exact decodeSlot_ok (lookup_v 1 0 (by simp) (by simp) rfl)
    rfl rfl
    (by show Instr.vadd (fD (wV 0x01#6 d a b c.fold c.m 0#6)) (fA (wV 0x01#6 d a b c.fold c.m 0#6)) (fB (wV 0x01#6 d a b c.fold c.m 0#6)) ⟨fFold (wV 0x01#6 d a b c.fold c.m 0#6), fM (wV 0x01#6 d a b c.fold c.m 0#6)⟩ = _; simp)
theorem readsBack_vadds (d : Reg) (a : Reg) (b : Reg) (c : VCtl) : ReadsBack (.vadds d a b c) := by
  rintro _ _ _ ⟨⟩ h
  exact decodeSlot_ok (lookup_v 1 1 (by simp) (by simp) rfl)
    rfl rfl
    (by show Instr.vadds (fD (wV 0x01#6 d a b c.fold c.m 1#6)) (fA (wV 0x01#6 d a b c.fold c.m 1#6)) (fB (wV 0x01#6 d a b c.fold c.m 1#6)) ⟨fFold (wV 0x01#6 d a b c.fold c.m 1#6), fM (wV 0x01#6 d a b c.fold c.m 1#6)⟩ = _; simp)
theorem readsBack_vaddsu (d : Reg) (a : Reg) (b : Reg) (c : VCtl) : ReadsBack (.vaddsu d a b c) := by
  rintro _ _ _ ⟨⟩ h
  exact decodeSlot_ok (lookup_v 1 2 (by simp) (by simp) rfl)
    rfl rfl
    (by show Instr.vaddsu (fD (wV 0x01#6 d a b c.fold c.m 2#6)) (fA (wV 0x01#6 d a b c.fold c.m 2#6)) (fB (wV 0x01#6 d a b c.fold c.m 2#6)) ⟨fFold (wV 0x01#6 d a b c.fold c.m 2#6), fM (wV 0x01#6 d a b c.fold c.m 2#6)⟩ = _; simp)
theorem readsBack_vsub (d : Reg) (a : Reg) (b : Reg) (c : VCtl) : ReadsBack (.vsub d a b c) := by
  rintro _ _ _ ⟨⟩ h
  exact decodeSlot_ok (lookup_v 2 0 (by simp) (by simp) rfl)
    rfl rfl
    (by show Instr.vsub (fD (wV 0x02#6 d a b c.fold c.m 0#6)) (fA (wV 0x02#6 d a b c.fold c.m 0#6)) (fB (wV 0x02#6 d a b c.fold c.m 0#6)) ⟨fFold (wV 0x02#6 d a b c.fold c.m 0#6), fM (wV 0x02#6 d a b c.fold c.m 0#6)⟩ = _; simp)
theorem readsBack_vsubs (d : Reg) (a : Reg) (b : Reg) (c : VCtl) : ReadsBack (.vsubs d a b c) := by
  rintro _ _ _ ⟨⟩ h
  exact decodeSlot_ok (lookup_v 2 1 (by simp) (by simp) rfl)
    rfl rfl
    (by show Instr.vsubs (fD (wV 0x02#6 d a b c.fold c.m 1#6)) (fA (wV 0x02#6 d a b c.fold c.m 1#6)) (fB (wV 0x02#6 d a b c.fold c.m 1#6)) ⟨fFold (wV 0x02#6 d a b c.fold c.m 1#6), fM (wV 0x02#6 d a b c.fold c.m 1#6)⟩ = _; simp)
theorem readsBack_vsubsu (d : Reg) (a : Reg) (b : Reg) (c : VCtl) : ReadsBack (.vsubsu d a b c) := by
  rintro _ _ _ ⟨⟩ h
  exact decodeSlot_ok (lookup_v 2 2 (by simp) (by simp) rfl)
    rfl rfl
    (by show Instr.vsubsu (fD (wV 0x02#6 d a b c.fold c.m 2#6)) (fA (wV 0x02#6 d a b c.fold c.m 2#6)) (fB (wV 0x02#6 d a b c.fold c.m 2#6)) ⟨fFold (wV 0x02#6 d a b c.fold c.m 2#6), fM (wV 0x02#6 d a b c.fold c.m 2#6)⟩ = _; simp)
theorem readsBack_vmul (d : Reg) (a : Reg) (b : Reg) (c : VCtl) : ReadsBack (.vmul d a b c) := by
  rintro _ _ _ ⟨⟩ h
  exact decodeSlot_ok (lookup_v 3 0 (by simp) (by simp) rfl)
    rfl rfl
    (by show Instr.vmul (fD (wV 0x03#6 d a b c.fold c.m 0#6)) (fA (wV 0x03#6 d a b c.fold c.m 0#6)) (fB (wV 0x03#6 d a b c.fold c.m 0#6)) ⟨fFold (wV 0x03#6 d a b c.fold c.m 0#6), fM (wV 0x03#6 d a b c.fold c.m 0#6)⟩ = _; simp)
theorem readsBack_vmulh (d : Reg) (a : Reg) (b : Reg) (c : VCtl) : ReadsBack (.vmulh d a b c) := by
  rintro _ _ _ ⟨⟩ h
  exact decodeSlot_ok (lookup_v 3 1 (by simp) (by simp) rfl)
    rfl rfl
    (by show Instr.vmulh (fD (wV 0x03#6 d a b c.fold c.m 1#6)) (fA (wV 0x03#6 d a b c.fold c.m 1#6)) (fB (wV 0x03#6 d a b c.fold c.m 1#6)) ⟨fFold (wV 0x03#6 d a b c.fold c.m 1#6), fM (wV 0x03#6 d a b c.fold c.m 1#6)⟩ = _; simp)
theorem readsBack_vmulhu (d : Reg) (a : Reg) (b : Reg) (c : VCtl) : ReadsBack (.vmulhu d a b c) := by
  rintro _ _ _ ⟨⟩ h
  exact decodeSlot_ok (lookup_v 3 2 (by simp) (by simp) rfl)
    rfl rfl
    (by show Instr.vmulhu (fD (wV 0x03#6 d a b c.fold c.m 2#6)) (fA (wV 0x03#6 d a b c.fold c.m 2#6)) (fB (wV 0x03#6 d a b c.fold c.m 2#6)) ⟨fFold (wV 0x03#6 d a b c.fold c.m 2#6), fM (wV 0x03#6 d a b c.fold c.m 2#6)⟩ = _; simp)
theorem readsBack_vand (d : Reg) (a : Reg) (b : Reg) (c : VCtl) : ReadsBack (.vand d a b c) := by
  rintro _ _ _ ⟨⟩ h
  exact decodeSlot_ok (lookup_v 4 0 (by simp) (by simp) rfl)
    rfl rfl
    (by show Instr.vand (fD (wV 0x04#6 d a b c.fold c.m 0#6)) (fA (wV 0x04#6 d a b c.fold c.m 0#6)) (fB (wV 0x04#6 d a b c.fold c.m 0#6)) ⟨fFold (wV 0x04#6 d a b c.fold c.m 0#6), fM (wV 0x04#6 d a b c.fold c.m 0#6)⟩ = _; simp)
theorem readsBack_vor (d : Reg) (a : Reg) (b : Reg) (c : VCtl) : ReadsBack (.vor d a b c) := by
  rintro _ _ _ ⟨⟩ h
  exact decodeSlot_ok (lookup_v 4 1 (by simp) (by simp) rfl)
    rfl rfl
    (by show Instr.vor (fD (wV 0x04#6 d a b c.fold c.m 1#6)) (fA (wV 0x04#6 d a b c.fold c.m 1#6)) (fB (wV 0x04#6 d a b c.fold c.m 1#6)) ⟨fFold (wV 0x04#6 d a b c.fold c.m 1#6), fM (wV 0x04#6 d a b c.fold c.m 1#6)⟩ = _; simp)
theorem readsBack_vxor (d : Reg) (a : Reg) (b : Reg) (c : VCtl) : ReadsBack (.vxor d a b c) := by
  rintro _ _ _ ⟨⟩ h
  exact decodeSlot_ok (lookup_v 4 2 (by simp) (by simp) rfl)
    rfl rfl
    (by show Instr.vxor (fD (wV 0x04#6 d a b c.fold c.m 2#6)) (fA (wV 0x04#6 d a b c.fold c.m 2#6)) (fB (wV 0x04#6 d a b c.fold c.m 2#6)) ⟨fFold (wV 0x04#6 d a b c.fold c.m 2#6), fM (wV 0x04#6 d a b c.fold c.m 2#6)⟩ = _; simp)
theorem readsBack_vandn (d : Reg) (a : Reg) (b : Reg) (c : VCtl) : ReadsBack (.vandn d a b c) := by
  rintro _ _ _ ⟨⟩ h
  exact decodeSlot_ok (lookup_v 4 3 (by simp) (by simp) rfl)
    rfl rfl
    (by show Instr.vandn (fD (wV 0x04#6 d a b c.fold c.m 3#6)) (fA (wV 0x04#6 d a b c.fold c.m 3#6)) (fB (wV 0x04#6 d a b c.fold c.m 3#6)) ⟨fFold (wV 0x04#6 d a b c.fold c.m 3#6), fM (wV 0x04#6 d a b c.fold c.m 3#6)⟩ = _; simp)
theorem readsBack_vshl (d : Reg) (a : Reg) (b : Reg) (c : VCtl) : ReadsBack (.vshl d a b c) := by
  rintro _ _ _ ⟨⟩ h
  exact decodeSlot_ok (lookup_v 5 0 (by simp) (by simp) rfl)
    rfl rfl
    (by show Instr.vshl (fD (wV 0x05#6 d a b c.fold c.m 0#6)) (fA (wV 0x05#6 d a b c.fold c.m 0#6)) (fB (wV 0x05#6 d a b c.fold c.m 0#6)) ⟨fFold (wV 0x05#6 d a b c.fold c.m 0#6), fM (wV 0x05#6 d a b c.fold c.m 0#6)⟩ = _; simp)
theorem readsBack_vshr (d : Reg) (a : Reg) (b : Reg) (c : VCtl) : ReadsBack (.vshr d a b c) := by
  rintro _ _ _ ⟨⟩ h
  exact decodeSlot_ok (lookup_v 5 1 (by simp) (by simp) rfl)
    rfl rfl
    (by show Instr.vshr (fD (wV 0x05#6 d a b c.fold c.m 1#6)) (fA (wV 0x05#6 d a b c.fold c.m 1#6)) (fB (wV 0x05#6 d a b c.fold c.m 1#6)) ⟨fFold (wV 0x05#6 d a b c.fold c.m 1#6), fM (wV 0x05#6 d a b c.fold c.m 1#6)⟩ = _; simp)
theorem readsBack_vsra (d : Reg) (a : Reg) (b : Reg) (c : VCtl) : ReadsBack (.vsra d a b c) := by
  rintro _ _ _ ⟨⟩ h
  exact decodeSlot_ok (lookup_v 5 2 (by simp) (by simp) rfl)
    rfl rfl
    (by show Instr.vsra (fD (wV 0x05#6 d a b c.fold c.m 2#6)) (fA (wV 0x05#6 d a b c.fold c.m 2#6)) (fB (wV 0x05#6 d a b c.fold c.m 2#6)) ⟨fFold (wV 0x05#6 d a b c.fold c.m 2#6), fM (wV 0x05#6 d a b c.fold c.m 2#6)⟩ = _; simp)
theorem readsBack_vshli (d : Reg) (a : Reg) (b : Reg) (c : VCtl) : ReadsBack (.vshli d a b c) := by
  rintro _ _ _ ⟨⟩ h
  exact decodeSlot_ok (lookup_v 6 0 (by simp) (by simp) rfl)
    rfl rfl
    (by show Instr.vshli (fD (wV 0x06#6 d a b c.fold c.m 0#6)) (fA (wV 0x06#6 d a b c.fold c.m 0#6)) (fB (wV 0x06#6 d a b c.fold c.m 0#6)) ⟨fFold (wV 0x06#6 d a b c.fold c.m 0#6), fM (wV 0x06#6 d a b c.fold c.m 0#6)⟩ = _; simp)
theorem readsBack_vshri (d : Reg) (a : Reg) (b : Reg) (c : VCtl) : ReadsBack (.vshri d a b c) := by
  rintro _ _ _ ⟨⟩ h
  exact decodeSlot_ok (lookup_v 6 1 (by simp) (by simp) rfl)
    rfl rfl
    (by show Instr.vshri (fD (wV 0x06#6 d a b c.fold c.m 1#6)) (fA (wV 0x06#6 d a b c.fold c.m 1#6)) (fB (wV 0x06#6 d a b c.fold c.m 1#6)) ⟨fFold (wV 0x06#6 d a b c.fold c.m 1#6), fM (wV 0x06#6 d a b c.fold c.m 1#6)⟩ = _; simp)
theorem readsBack_vsrai (d : Reg) (a : Reg) (b : Reg) (c : VCtl) : ReadsBack (.vsrai d a b c) := by
  rintro _ _ _ ⟨⟩ h
  exact decodeSlot_ok (lookup_v 6 2 (by simp) (by simp) rfl)
    rfl rfl
    (by show Instr.vsrai (fD (wV 0x06#6 d a b c.fold c.m 2#6)) (fA (wV 0x06#6 d a b c.fold c.m 2#6)) (fB (wV 0x06#6 d a b c.fold c.m 2#6)) ⟨fFold (wV 0x06#6 d a b c.fold c.m 2#6), fM (wV 0x06#6 d a b c.fold c.m 2#6)⟩ = _; simp)
theorem readsBack_vmin (d : Reg) (a : Reg) (b : Reg) (c : VCtl) : ReadsBack (.vmin d a b c) := by
  rintro _ _ _ ⟨⟩ h
  exact decodeSlot_ok (lookup_v 7 0 (by simp) (by simp) rfl)
    rfl rfl
    (by show Instr.vmin (fD (wV 0x07#6 d a b c.fold c.m 0#6)) (fA (wV 0x07#6 d a b c.fold c.m 0#6)) (fB (wV 0x07#6 d a b c.fold c.m 0#6)) ⟨fFold (wV 0x07#6 d a b c.fold c.m 0#6), fM (wV 0x07#6 d a b c.fold c.m 0#6)⟩ = _; simp)
theorem readsBack_vmax (d : Reg) (a : Reg) (b : Reg) (c : VCtl) : ReadsBack (.vmax d a b c) := by
  rintro _ _ _ ⟨⟩ h
  exact decodeSlot_ok (lookup_v 7 1 (by simp) (by simp) rfl)
    rfl rfl
    (by show Instr.vmax (fD (wV 0x07#6 d a b c.fold c.m 1#6)) (fA (wV 0x07#6 d a b c.fold c.m 1#6)) (fB (wV 0x07#6 d a b c.fold c.m 1#6)) ⟨fFold (wV 0x07#6 d a b c.fold c.m 1#6), fM (wV 0x07#6 d a b c.fold c.m 1#6)⟩ = _; simp)
theorem readsBack_vminu (d : Reg) (a : Reg) (b : Reg) (c : VCtl) : ReadsBack (.vminu d a b c) := by
  rintro _ _ _ ⟨⟩ h
  exact decodeSlot_ok (lookup_v 7 2 (by simp) (by simp) rfl)
    rfl rfl
    (by show Instr.vminu (fD (wV 0x07#6 d a b c.fold c.m 2#6)) (fA (wV 0x07#6 d a b c.fold c.m 2#6)) (fB (wV 0x07#6 d a b c.fold c.m 2#6)) ⟨fFold (wV 0x07#6 d a b c.fold c.m 2#6), fM (wV 0x07#6 d a b c.fold c.m 2#6)⟩ = _; simp)
theorem readsBack_vmaxu (d : Reg) (a : Reg) (b : Reg) (c : VCtl) : ReadsBack (.vmaxu d a b c) := by
  rintro _ _ _ ⟨⟩ h
  exact decodeSlot_ok (lookup_v 7 3 (by simp) (by simp) rfl)
    rfl rfl
    (by show Instr.vmaxu (fD (wV 0x07#6 d a b c.fold c.m 3#6)) (fA (wV 0x07#6 d a b c.fold c.m 3#6)) (fB (wV 0x07#6 d a b c.fold c.m 3#6)) ⟨fFold (wV 0x07#6 d a b c.fold c.m 3#6), fM (wV 0x07#6 d a b c.fold c.m 3#6)⟩ = _; simp)
theorem readsBack_vcmpeq (d : Reg3) (a : Reg) (b : Reg) (c : VCtl) : ReadsBack (.vcmpeq d a b c) := by
  rintro _ _ _ ⟨⟩ h
  exact decodeSlot_ok (lookup_v 8 0 (by simp) (by simp) rfl)
    (by show (decide (hi2 (fD (wV 0x08#6 (0#2 ++ d) a b c.fold c.m 0#6)) = 0#2)) = true; simp) rfl
    (by show Instr.vcmpeq (lo3 (fD (wV 0x08#6 (0#2 ++ d) a b c.fold c.m 0#6))) (fA (wV 0x08#6 (0#2 ++ d) a b c.fold c.m 0#6)) (fB (wV 0x08#6 (0#2 ++ d) a b c.fold c.m 0#6)) ⟨fFold (wV 0x08#6 (0#2 ++ d) a b c.fold c.m 0#6), fM (wV 0x08#6 (0#2 ++ d) a b c.fold c.m 0#6)⟩ = _; simp)
theorem readsBack_vcmpne (d : Reg3) (a : Reg) (b : Reg) (c : VCtl) : ReadsBack (.vcmpne d a b c) := by
  rintro _ _ _ ⟨⟩ h
  exact decodeSlot_ok (lookup_v 8 1 (by simp) (by simp) rfl)
    (by show (decide (hi2 (fD (wV 0x08#6 (0#2 ++ d) a b c.fold c.m 1#6)) = 0#2)) = true; simp) rfl
    (by show Instr.vcmpne (lo3 (fD (wV 0x08#6 (0#2 ++ d) a b c.fold c.m 1#6))) (fA (wV 0x08#6 (0#2 ++ d) a b c.fold c.m 1#6)) (fB (wV 0x08#6 (0#2 ++ d) a b c.fold c.m 1#6)) ⟨fFold (wV 0x08#6 (0#2 ++ d) a b c.fold c.m 1#6), fM (wV 0x08#6 (0#2 ++ d) a b c.fold c.m 1#6)⟩ = _; simp)
theorem readsBack_vcmplt (d : Reg3) (a : Reg) (b : Reg) (c : VCtl) : ReadsBack (.vcmplt d a b c) := by
  rintro _ _ _ ⟨⟩ h
  exact decodeSlot_ok (lookup_v 8 2 (by simp) (by simp) rfl)
    (by show (decide (hi2 (fD (wV 0x08#6 (0#2 ++ d) a b c.fold c.m 2#6)) = 0#2)) = true; simp) rfl
    (by show Instr.vcmplt (lo3 (fD (wV 0x08#6 (0#2 ++ d) a b c.fold c.m 2#6))) (fA (wV 0x08#6 (0#2 ++ d) a b c.fold c.m 2#6)) (fB (wV 0x08#6 (0#2 ++ d) a b c.fold c.m 2#6)) ⟨fFold (wV 0x08#6 (0#2 ++ d) a b c.fold c.m 2#6), fM (wV 0x08#6 (0#2 ++ d) a b c.fold c.m 2#6)⟩ = _; simp)
theorem readsBack_vcmpltu (d : Reg3) (a : Reg) (b : Reg) (c : VCtl) : ReadsBack (.vcmpltu d a b c) := by
  rintro _ _ _ ⟨⟩ h
  exact decodeSlot_ok (lookup_v 8 3 (by simp) (by simp) rfl)
    (by show (decide (hi2 (fD (wV 0x08#6 (0#2 ++ d) a b c.fold c.m 3#6)) = 0#2)) = true; simp) rfl
    (by show Instr.vcmpltu (lo3 (fD (wV 0x08#6 (0#2 ++ d) a b c.fold c.m 3#6))) (fA (wV 0x08#6 (0#2 ++ d) a b c.fold c.m 3#6)) (fB (wV 0x08#6 (0#2 ++ d) a b c.fold c.m 3#6)) ⟨fFold (wV 0x08#6 (0#2 ++ d) a b c.fold c.m 3#6), fM (wV 0x08#6 (0#2 ++ d) a b c.fold c.m 3#6)⟩ = _; simp)
theorem readsBack_vcmple (d : Reg3) (a : Reg) (b : Reg) (c : VCtl) : ReadsBack (.vcmple d a b c) := by
  rintro _ _ _ ⟨⟩ h
  exact decodeSlot_ok (lookup_v 8 4 (by simp) (by simp) rfl)
    (by show (decide (hi2 (fD (wV 0x08#6 (0#2 ++ d) a b c.fold c.m 4#6)) = 0#2)) = true; simp) rfl
    (by show Instr.vcmple (lo3 (fD (wV 0x08#6 (0#2 ++ d) a b c.fold c.m 4#6))) (fA (wV 0x08#6 (0#2 ++ d) a b c.fold c.m 4#6)) (fB (wV 0x08#6 (0#2 ++ d) a b c.fold c.m 4#6)) ⟨fFold (wV 0x08#6 (0#2 ++ d) a b c.fold c.m 4#6), fM (wV 0x08#6 (0#2 ++ d) a b c.fold c.m 4#6)⟩ = _; simp)
theorem readsBack_vcmpleu (d : Reg3) (a : Reg) (b : Reg) (c : VCtl) : ReadsBack (.vcmpleu d a b c) := by
  rintro _ _ _ ⟨⟩ h
  exact decodeSlot_ok (lookup_v 8 5 (by simp) (by simp) rfl)
    (by show (decide (hi2 (fD (wV 0x08#6 (0#2 ++ d) a b c.fold c.m 5#6)) = 0#2)) = true; simp) rfl
    (by show Instr.vcmpleu (lo3 (fD (wV 0x08#6 (0#2 ++ d) a b c.fold c.m 5#6))) (fA (wV 0x08#6 (0#2 ++ d) a b c.fold c.m 5#6)) (fB (wV 0x08#6 (0#2 ++ d) a b c.fold c.m 5#6)) ⟨fFold (wV 0x08#6 (0#2 ++ d) a b c.fold c.m 5#6), fM (wV 0x08#6 (0#2 ++ d) a b c.fold c.m 5#6)⟩ = _; simp)
theorem readsBack_vfadd (d : Reg) (a : Reg) (b : Reg) (c : VCtl) : ReadsBack (.vfadd d a b c) := by
  rintro _ _ _ ⟨⟩ h
  exact decodeSlot_ok (lookup_v 9 0 (by simp) (by simp) rfl)
    rfl rfl
    (by show Instr.vfadd (fD (wV 0x09#6 d a b c.fold c.m 0#6)) (fA (wV 0x09#6 d a b c.fold c.m 0#6)) (fB (wV 0x09#6 d a b c.fold c.m 0#6)) ⟨fFold (wV 0x09#6 d a b c.fold c.m 0#6), fM (wV 0x09#6 d a b c.fold c.m 0#6)⟩ = _; simp)
theorem readsBack_vfsub (d : Reg) (a : Reg) (b : Reg) (c : VCtl) : ReadsBack (.vfsub d a b c) := by
  rintro _ _ _ ⟨⟩ h
  exact decodeSlot_ok (lookup_v 10 0 (by simp) (by simp) rfl)
    rfl rfl
    (by show Instr.vfsub (fD (wV 0x0A#6 d a b c.fold c.m 0#6)) (fA (wV 0x0A#6 d a b c.fold c.m 0#6)) (fB (wV 0x0A#6 d a b c.fold c.m 0#6)) ⟨fFold (wV 0x0A#6 d a b c.fold c.m 0#6), fM (wV 0x0A#6 d a b c.fold c.m 0#6)⟩ = _; simp)
theorem readsBack_vfmul (d : Reg) (a : Reg) (b : Reg) (c : VCtl) : ReadsBack (.vfmul d a b c) := by
  rintro _ _ _ ⟨⟩ h
  exact decodeSlot_ok (lookup_v 11 0 (by simp) (by simp) rfl)
    rfl rfl
    (by show Instr.vfmul (fD (wV 0x0B#6 d a b c.fold c.m 0#6)) (fA (wV 0x0B#6 d a b c.fold c.m 0#6)) (fB (wV 0x0B#6 d a b c.fold c.m 0#6)) ⟨fFold (wV 0x0B#6 d a b c.fold c.m 0#6), fM (wV 0x0B#6 d a b c.fold c.m 0#6)⟩ = _; simp)
theorem readsBack_vfma (d : Reg) (a : Reg) (b : Reg) (c : VCtl) : ReadsBack (.vfma d a b c) := by
  rintro _ _ _ ⟨⟩ h
  exact decodeSlot_ok (lookup_v 12 0 (by simp) (by simp) rfl)
    rfl rfl
    (by show Instr.vfma (fD (wV 0x0C#6 d a b c.fold c.m 0#6)) (fA (wV 0x0C#6 d a b c.fold c.m 0#6)) (fB (wV 0x0C#6 d a b c.fold c.m 0#6)) ⟨fFold (wV 0x0C#6 d a b c.fold c.m 0#6), fM (wV 0x0C#6 d a b c.fold c.m 0#6)⟩ = _; simp)
theorem readsBack_vfnma (d : Reg) (a : Reg) (b : Reg) (c : VCtl) : ReadsBack (.vfnma d a b c) := by
  rintro _ _ _ ⟨⟩ h
  exact decodeSlot_ok (lookup_v 13 0 (by simp) (by simp) rfl)
    rfl rfl
    (by show Instr.vfnma (fD (wV 0x0D#6 d a b c.fold c.m 0#6)) (fA (wV 0x0D#6 d a b c.fold c.m 0#6)) (fB (wV 0x0D#6 d a b c.fold c.m 0#6)) ⟨fFold (wV 0x0D#6 d a b c.fold c.m 0#6), fM (wV 0x0D#6 d a b c.fold c.m 0#6)⟩ = _; simp)
theorem readsBack_vfmin (d : Reg) (a : Reg) (b : Reg) (c : VCtl) : ReadsBack (.vfmin d a b c) := by
  rintro _ _ _ ⟨⟩ h
  exact decodeSlot_ok (lookup_v 14 0 (by simp) (by simp) rfl)
    rfl rfl
    (by show Instr.vfmin (fD (wV 0x0E#6 d a b c.fold c.m 0#6)) (fA (wV 0x0E#6 d a b c.fold c.m 0#6)) (fB (wV 0x0E#6 d a b c.fold c.m 0#6)) ⟨fFold (wV 0x0E#6 d a b c.fold c.m 0#6), fM (wV 0x0E#6 d a b c.fold c.m 0#6)⟩ = _; simp)
theorem readsBack_vfmax (d : Reg) (a : Reg) (b : Reg) (c : VCtl) : ReadsBack (.vfmax d a b c) := by
  rintro _ _ _ ⟨⟩ h
  exact decodeSlot_ok (lookup_v 14 1 (by simp) (by simp) rfl)
    rfl rfl
    (by show Instr.vfmax (fD (wV 0x0E#6 d a b c.fold c.m 1#6)) (fA (wV 0x0E#6 d a b c.fold c.m 1#6)) (fB (wV 0x0E#6 d a b c.fold c.m 1#6)) ⟨fFold (wV 0x0E#6 d a b c.fold c.m 1#6), fM (wV 0x0E#6 d a b c.fold c.m 1#6)⟩ = _; simp)
theorem readsBack_vfcmpeq (d : Reg3) (a : Reg) (b : Reg) (c : VCtl) : ReadsBack (.vfcmpeq d a b c) := by
  rintro _ _ _ ⟨⟩ h
  exact decodeSlot_ok (lookup_v 15 0 (by simp) (by simp) rfl)
    (by show (decide (hi2 (fD (wV 0x0F#6 (0#2 ++ d) a b c.fold c.m 0#6)) = 0#2)) = true; simp) rfl
    (by show Instr.vfcmpeq (lo3 (fD (wV 0x0F#6 (0#2 ++ d) a b c.fold c.m 0#6))) (fA (wV 0x0F#6 (0#2 ++ d) a b c.fold c.m 0#6)) (fB (wV 0x0F#6 (0#2 ++ d) a b c.fold c.m 0#6)) ⟨fFold (wV 0x0F#6 (0#2 ++ d) a b c.fold c.m 0#6), fM (wV 0x0F#6 (0#2 ++ d) a b c.fold c.m 0#6)⟩ = _; simp)
theorem readsBack_vfcmplt (d : Reg3) (a : Reg) (b : Reg) (c : VCtl) : ReadsBack (.vfcmplt d a b c) := by
  rintro _ _ _ ⟨⟩ h
  exact decodeSlot_ok (lookup_v 15 1 (by simp) (by simp) rfl)
    (by show (decide (hi2 (fD (wV 0x0F#6 (0#2 ++ d) a b c.fold c.m 1#6)) = 0#2)) = true; simp) rfl
    (by show Instr.vfcmplt (lo3 (fD (wV 0x0F#6 (0#2 ++ d) a b c.fold c.m 1#6))) (fA (wV 0x0F#6 (0#2 ++ d) a b c.fold c.m 1#6)) (fB (wV 0x0F#6 (0#2 ++ d) a b c.fold c.m 1#6)) ⟨fFold (wV 0x0F#6 (0#2 ++ d) a b c.fold c.m 1#6), fM (wV 0x0F#6 (0#2 ++ d) a b c.fold c.m 1#6)⟩ = _; simp)
theorem readsBack_vfcmple (d : Reg3) (a : Reg) (b : Reg) (c : VCtl) : ReadsBack (.vfcmple d a b c) := by
  rintro _ _ _ ⟨⟩ h
  exact decodeSlot_ok (lookup_v 15 2 (by simp) (by simp) rfl)
    (by show (decide (hi2 (fD (wV 0x0F#6 (0#2 ++ d) a b c.fold c.m 2#6)) = 0#2)) = true; simp) rfl
    (by show Instr.vfcmple (lo3 (fD (wV 0x0F#6 (0#2 ++ d) a b c.fold c.m 2#6))) (fA (wV 0x0F#6 (0#2 ++ d) a b c.fold c.m 2#6)) (fB (wV 0x0F#6 (0#2 ++ d) a b c.fold c.m 2#6)) ⟨fFold (wV 0x0F#6 (0#2 ++ d) a b c.fold c.m 2#6), fM (wV 0x0F#6 (0#2 ++ d) a b c.fold c.m 2#6)⟩ = _; simp)
theorem readsBack_vfcmpun (d : Reg3) (a : Reg) (b : Reg) (c : VCtl) : ReadsBack (.vfcmpun d a b c) := by
  rintro _ _ _ ⟨⟩ h
  exact decodeSlot_ok (lookup_v 15 3 (by simp) (by simp) rfl)
    (by show (decide (hi2 (fD (wV 0x0F#6 (0#2 ++ d) a b c.fold c.m 3#6)) = 0#2)) = true; simp) rfl
    (by show Instr.vfcmpun (lo3 (fD (wV 0x0F#6 (0#2 ++ d) a b c.fold c.m 3#6))) (fA (wV 0x0F#6 (0#2 ++ d) a b c.fold c.m 3#6)) (fB (wV 0x0F#6 (0#2 ++ d) a b c.fold c.m 3#6)) ⟨fFold (wV 0x0F#6 (0#2 ++ d) a b c.fold c.m 3#6), fM (wV 0x0F#6 (0#2 ++ d) a b c.fold c.m 3#6)⟩ = _; simp)
theorem readsBack_vfabs (d : Reg) (a : Reg) (c : VCtl) : ReadsBack (.vfabs d a c) := by
  rintro _ _ _ ⟨⟩ h
  exact decodeSlot_ok (lookup_v 16 0 (by simp) (by simp) rfl)
    (by show (decide (fB (wV 0x10#6 d a 0#5 c.fold c.m 0#6) = 0#5)) = true; simp) rfl
    (by show Instr.vfabs (fD (wV 0x10#6 d a 0#5 c.fold c.m 0#6)) (fA (wV 0x10#6 d a 0#5 c.fold c.m 0#6)) ⟨fFold (wV 0x10#6 d a 0#5 c.fold c.m 0#6), fM (wV 0x10#6 d a 0#5 c.fold c.m 0#6)⟩ = _; simp)
theorem readsBack_vfneg (d : Reg) (a : Reg) (c : VCtl) : ReadsBack (.vfneg d a c) := by
  rintro _ _ _ ⟨⟩ h
  exact decodeSlot_ok (lookup_v 16 1 (by simp) (by simp) rfl)
    (by show (decide (fB (wV 0x10#6 d a 0#5 c.fold c.m 1#6) = 0#5)) = true; simp) rfl
    (by show Instr.vfneg (fD (wV 0x10#6 d a 0#5 c.fold c.m 1#6)) (fA (wV 0x10#6 d a 0#5 c.fold c.m 1#6)) ⟨fFold (wV 0x10#6 d a 0#5 c.fold c.m 1#6), fM (wV 0x10#6 d a 0#5 c.fold c.m 1#6)⟩ = _; simp)
theorem readsBack_vfsqrt (d : Reg) (a : Reg) (c : VCtl) : ReadsBack (.vfsqrt d a c) := by
  rintro _ _ _ ⟨⟩ h
  exact decodeSlot_ok (lookup_v 16 2 (by simp) (by simp) rfl)
    (by show (decide (fB (wV 0x10#6 d a 0#5 c.fold c.m 2#6) = 0#5)) = true; simp) rfl
    (by show Instr.vfsqrt (fD (wV 0x10#6 d a 0#5 c.fold c.m 2#6)) (fA (wV 0x10#6 d a 0#5 c.fold c.m 2#6)) ⟨fFold (wV 0x10#6 d a 0#5 c.fold c.m 2#6), fM (wV 0x10#6 d a 0#5 c.fold c.m 2#6)⟩ = _; simp)
theorem readsBack_vrcp (d : Reg) (a : Reg) (c : VCtl) : ReadsBack (.vrcp d a c) := by
  rintro _ _ _ ⟨⟩ h
  exact decodeSlot_ok (lookup_v 16 3 (by simp) (by simp) rfl)
    (by show (decide (fB (wV 0x10#6 d a 0#5 c.fold c.m 3#6) = 0#5)) = true; simp) rfl
    (by show Instr.vrcp (fD (wV 0x10#6 d a 0#5 c.fold c.m 3#6)) (fA (wV 0x10#6 d a 0#5 c.fold c.m 3#6)) ⟨fFold (wV 0x10#6 d a 0#5 c.fold c.m 3#6), fM (wV 0x10#6 d a 0#5 c.fold c.m 3#6)⟩ = _; simp)
theorem readsBack_vrsq (d : Reg) (a : Reg) (c : VCtl) : ReadsBack (.vrsq d a c) := by
  rintro _ _ _ ⟨⟩ h
  exact decodeSlot_ok (lookup_v 16 4 (by simp) (by simp) rfl)
    (by show (decide (fB (wV 0x10#6 d a 0#5 c.fold c.m 4#6) = 0#5)) = true; simp) rfl
    (by show Instr.vrsq (fD (wV 0x10#6 d a 0#5 c.fold c.m 4#6)) (fA (wV 0x10#6 d a 0#5 c.fold c.m 4#6)) ⟨fFold (wV 0x10#6 d a 0#5 c.fold c.m 4#6), fM (wV 0x10#6 d a 0#5 c.fold c.m 4#6)⟩ = _; simp)
theorem readsBack_vexp2 (d : Reg) (a : Reg) (c : VCtl) : ReadsBack (.vexp2 d a c) := by
  rintro _ _ _ ⟨⟩ h
  exact decodeSlot_ok (lookup_v 16 5 (by simp) (by simp) rfl)
    (by show (decide (fB (wV 0x10#6 d a 0#5 c.fold c.m 5#6) = 0#5)) = true; simp) rfl
    (by show Instr.vexp2 (fD (wV 0x10#6 d a 0#5 c.fold c.m 5#6)) (fA (wV 0x10#6 d a 0#5 c.fold c.m 5#6)) ⟨fFold (wV 0x10#6 d a 0#5 c.fold c.m 5#6), fM (wV 0x10#6 d a 0#5 c.fold c.m 5#6)⟩ = _; simp)
theorem readsBack_vlog2 (d : Reg) (a : Reg) (c : VCtl) : ReadsBack (.vlog2 d a c) := by
  rintro _ _ _ ⟨⟩ h
  exact decodeSlot_ok (lookup_v 16 6 (by simp) (by simp) rfl)
    (by show (decide (fB (wV 0x10#6 d a 0#5 c.fold c.m 6#6) = 0#5)) = true; simp) rfl
    (by show Instr.vlog2 (fD (wV 0x10#6 d a 0#5 c.fold c.m 6#6)) (fA (wV 0x10#6 d a 0#5 c.fold c.m 6#6)) ⟨fFold (wV 0x10#6 d a 0#5 c.fold c.m 6#6), fM (wV 0x10#6 d a 0#5 c.fold c.m 6#6)⟩ = _; simp)
theorem readsBack_vfloor (d : Reg) (a : Reg) (c : VCtl) : ReadsBack (.vfloor d a c) := by
  rintro _ _ _ ⟨⟩ h
  exact decodeSlot_ok (lookup_v 16 7 (by simp) (by simp) rfl)
    (by show (decide (fB (wV 0x10#6 d a 0#5 c.fold c.m 7#6) = 0#5)) = true; simp) rfl
    (by show Instr.vfloor (fD (wV 0x10#6 d a 0#5 c.fold c.m 7#6)) (fA (wV 0x10#6 d a 0#5 c.fold c.m 7#6)) ⟨fFold (wV 0x10#6 d a 0#5 c.fold c.m 7#6), fM (wV 0x10#6 d a 0#5 c.fold c.m 7#6)⟩ = _; simp)
theorem readsBack_vfceil (d : Reg) (a : Reg) (c : VCtl) : ReadsBack (.vfceil d a c) := by
  rintro _ _ _ ⟨⟩ h
  exact decodeSlot_ok (lookup_v 16 8 (by simp) (by simp) rfl)
    (by show (decide (fB (wV 0x10#6 d a 0#5 c.fold c.m 8#6) = 0#5)) = true; simp) rfl
    (by show Instr.vfceil (fD (wV 0x10#6 d a 0#5 c.fold c.m 8#6)) (fA (wV 0x10#6 d a 0#5 c.fold c.m 8#6)) ⟨fFold (wV 0x10#6 d a 0#5 c.fold c.m 8#6), fM (wV 0x10#6 d a 0#5 c.fold c.m 8#6)⟩ = _; simp)
theorem readsBack_vfrint (d : Reg) (a : Reg) (c : VCtl) : ReadsBack (.vfrint d a c) := by
  rintro _ _ _ ⟨⟩ h
  exact decodeSlot_ok (lookup_v 16 9 (by simp) (by simp) rfl)
    (by show (decide (fB (wV 0x10#6 d a 0#5 c.fold c.m 9#6) = 0#5)) = true; simp) rfl
    (by show Instr.vfrint (fD (wV 0x10#6 d a 0#5 c.fold c.m 9#6)) (fA (wV 0x10#6 d a 0#5 c.fold c.m 9#6)) ⟨fFold (wV 0x10#6 d a 0#5 c.fold c.m 9#6), fM (wV 0x10#6 d a 0#5 c.fold c.m 9#6)⟩ = _; simp)
theorem readsBack_vcvtfi (d : Reg) (a : Reg) (c : VCtl) : ReadsBack (.vcvtfi d a c) := by
  rintro _ _ _ ⟨⟩ h
  exact decodeSlot_ok (lookup_v 17 0 (by simp) (by simp) rfl)
    (by show (decide (fB (wV 0x11#6 d a 0#5 c.fold c.m 0#6) = 0#5)) = true; simp) rfl
    (by show Instr.vcvtfi (fD (wV 0x11#6 d a 0#5 c.fold c.m 0#6)) (fA (wV 0x11#6 d a 0#5 c.fold c.m 0#6)) ⟨fFold (wV 0x11#6 d a 0#5 c.fold c.m 0#6), fM (wV 0x11#6 d a 0#5 c.fold c.m 0#6)⟩ = _; simp)
theorem readsBack_vcvtfit (d : Reg) (a : Reg) (c : VCtl) : ReadsBack (.vcvtfit d a c) := by
  rintro _ _ _ ⟨⟩ h
  exact decodeSlot_ok (lookup_v 17 1 (by simp) (by simp) rfl)
    (by show (decide (fB (wV 0x11#6 d a 0#5 c.fold c.m 1#6) = 0#5)) = true; simp) rfl
    (by show Instr.vcvtfit (fD (wV 0x11#6 d a 0#5 c.fold c.m 1#6)) (fA (wV 0x11#6 d a 0#5 c.fold c.m 1#6)) ⟨fFold (wV 0x11#6 d a 0#5 c.fold c.m 1#6), fM (wV 0x11#6 d a 0#5 c.fold c.m 1#6)⟩ = _; simp)
theorem readsBack_vcvtif (d : Reg) (a : Reg) (c : VCtl) : ReadsBack (.vcvtif d a c) := by
  rintro _ _ _ ⟨⟩ h
  exact decodeSlot_ok (lookup_v 17 2 (by simp) (by simp) rfl)
    (by show (decide (fB (wV 0x11#6 d a 0#5 c.fold c.m 2#6) = 0#5)) = true; simp) rfl
    (by show Instr.vcvtif (fD (wV 0x11#6 d a 0#5 c.fold c.m 2#6)) (fA (wV 0x11#6 d a 0#5 c.fold c.m 2#6)) ⟨fFold (wV 0x11#6 d a 0#5 c.fold c.m 2#6), fM (wV 0x11#6 d a 0#5 c.fold c.m 2#6)⟩ = _; simp)
theorem readsBack_vcvtfb (d : Reg) (a : Reg) (b : Reg) (c : VCtl) : ReadsBack (.vcvtfb d a b c) := by
  rintro _ _ _ ⟨⟩ h
  exact decodeSlot_ok (lookup_v 17 3 (by simp) (by simp) rfl)
    rfl rfl
    (by show Instr.vcvtfb (fD (wV 0x11#6 d a b c.fold c.m 3#6)) (fA (wV 0x11#6 d a b c.fold c.m 3#6)) (fB (wV 0x11#6 d a b c.fold c.m 3#6)) ⟨fFold (wV 0x11#6 d a b c.fold c.m 3#6), fM (wV 0x11#6 d a b c.fold c.m 3#6)⟩ = _; simp)
theorem readsBack_vcvtbfl (d : Reg) (a : Reg) (c : VCtl) : ReadsBack (.vcvtbfl d a c) := by
  rintro _ _ _ ⟨⟩ h
  exact decodeSlot_ok (lookup_v 17 4 (by simp) (by simp) rfl)
    (by show (decide (fB (wV 0x11#6 d a 0#5 c.fold c.m 4#6) = 0#5)) = true; simp) rfl
    (by show Instr.vcvtbfl (fD (wV 0x11#6 d a 0#5 c.fold c.m 4#6)) (fA (wV 0x11#6 d a 0#5 c.fold c.m 4#6)) ⟨fFold (wV 0x11#6 d a 0#5 c.fold c.m 4#6), fM (wV 0x11#6 d a 0#5 c.fold c.m 4#6)⟩ = _; simp)
theorem readsBack_vcvtbfh (d : Reg) (a : Reg) (c : VCtl) : ReadsBack (.vcvtbfh d a c) := by
  rintro _ _ _ ⟨⟩ h
  exact decodeSlot_ok (lookup_v 17 5 (by simp) (by simp) rfl)
    (by show (decide (fB (wV 0x11#6 d a 0#5 c.fold c.m 5#6) = 0#5)) = true; simp) rfl
    (by show Instr.vcvtbfh (fD (wV 0x11#6 d a 0#5 c.fold c.m 5#6)) (fA (wV 0x11#6 d a 0#5 c.fold c.m 5#6)) ⟨fFold (wV 0x11#6 d a 0#5 c.fold c.m 5#6), fM (wV 0x11#6 d a 0#5 c.fold c.m 5#6)⟩ = _; simp)
theorem readsBack_vdot2 (d : Reg) (a : Reg) (b : Reg) (c : VCtl) : ReadsBack (.vdot2 d a b c) := by
  rintro _ _ _ ⟨⟩ h
  exact decodeSlot_ok (lookup_v 18 0 (by simp) (by simp) rfl)
    rfl rfl
    (by show Instr.vdot2 (fD (wV 0x12#6 d a b c.fold c.m 0#6)) (fA (wV 0x12#6 d a b c.fold c.m 0#6)) (fB (wV 0x12#6 d a b c.fold c.m 0#6)) ⟨fFold (wV 0x12#6 d a b c.fold c.m 0#6), fM (wV 0x12#6 d a b c.fold c.m 0#6)⟩ = _; simp)
theorem readsBack_vdot4 (d : Reg) (a : Reg) (b : Reg) (c : VCtl) : ReadsBack (.vdot4 d a b c) := by
  rintro _ _ _ ⟨⟩ h
  exact decodeSlot_ok (lookup_v 19 0 (by simp) (by simp) rfl)
    rfl rfl
    (by show Instr.vdot4 (fD (wV 0x13#6 d a b c.fold c.m 0#6)) (fA (wV 0x13#6 d a b c.fold c.m 0#6)) (fB (wV 0x13#6 d a b c.fold c.m 0#6)) ⟨fFold (wV 0x13#6 d a b c.fold c.m 0#6), fM (wV 0x13#6 d a b c.fold c.m 0#6)⟩ = _; simp)
theorem readsBack_vdot4us (d : Reg) (a : Reg) (b : Reg) (c : VCtl) : ReadsBack (.vdot4us d a b c) := by
  rintro _ _ _ ⟨⟩ h
  exact decodeSlot_ok (lookup_v 19 1 (by simp) (by simp) rfl)
    rfl rfl
    (by show Instr.vdot4us (fD (wV 0x13#6 d a b c.fold c.m 1#6)) (fA (wV 0x13#6 d a b c.fold c.m 1#6)) (fB (wV 0x13#6 d a b c.fold c.m 1#6)) ⟨fFold (wV 0x13#6 d a b c.fold c.m 1#6), fM (wV 0x13#6 d a b c.fold c.m 1#6)⟩ = _; simp)
theorem readsBack_vqma (d : Reg3) (a : Reg) (b : Reg) (c : VCtl) : ReadsBack (.vqma d a b c) := by
  rintro _ _ _ ⟨⟩ h
  exact decodeSlot_ok (lookup_v 20 0 (by simp) (by simp) rfl)
    (by show (decide (hi2 (fD (wV 0x14#6 (0#2 ++ d) a b c.fold c.m 0#6)) = 0#2)) = true; simp) rfl
    (by show Instr.vqma (lo3 (fD (wV 0x14#6 (0#2 ++ d) a b c.fold c.m 0#6))) (fA (wV 0x14#6 (0#2 ++ d) a b c.fold c.m 0#6)) (fB (wV 0x14#6 (0#2 ++ d) a b c.fold c.m 0#6)) ⟨fFold (wV 0x14#6 (0#2 ++ d) a b c.fold c.m 0#6), fM (wV 0x14#6 (0#2 ++ d) a b c.fold c.m 0#6)⟩ = _; simp)
theorem readsBack_vqmai (d : Reg3) (a : Reg) (b : Reg) (c : VCtl) : ReadsBack (.vqmai d a b c) := by
  rintro _ _ _ ⟨⟩ h
  exact decodeSlot_ok (lookup_v 20 1 (by simp) (by simp) rfl)
    (by show (decide (hi2 (fD (wV 0x14#6 (0#2 ++ d) a b c.fold c.m 1#6)) = 0#2)) = true; simp) rfl
    (by show Instr.vqmai (lo3 (fD (wV 0x14#6 (0#2 ++ d) a b c.fold c.m 1#6))) (fA (wV 0x14#6 (0#2 ++ d) a b c.fold c.m 1#6)) (fB (wV 0x14#6 (0#2 ++ d) a b c.fold c.m 1#6)) ⟨fFold (wV 0x14#6 (0#2 ++ d) a b c.fold c.m 1#6), fM (wV 0x14#6 (0#2 ++ d) a b c.fold c.m 1#6)⟩ = _; simp)
theorem readsBack_vqnarf (d : Reg) (a : Reg3) (c : VCtl) : ReadsBack (.vqnarf d a c) := by
  rintro _ _ _ ⟨⟩ h
  exact decodeSlot_ok (lookup_v 21 0 (by simp) (by simp) rfl)
    (by show (decide (hi2 (fA (wV 0x15#6 d (0#2 ++ a) 0#5 c.fold c.m 0#6)) = 0#2) && decide (fB (wV 0x15#6 d (0#2 ++ a) 0#5 c.fold c.m 0#6) = 0#5)) = true; simp) rfl
    (by show Instr.vqnarf (fD (wV 0x15#6 d (0#2 ++ a) 0#5 c.fold c.m 0#6)) (lo3 (fA (wV 0x15#6 d (0#2 ++ a) 0#5 c.fold c.m 0#6))) ⟨fFold (wV 0x15#6 d (0#2 ++ a) 0#5 c.fold c.m 0#6), fM (wV 0x15#6 d (0#2 ++ a) 0#5 c.fold c.m 0#6)⟩ = _; simp)
theorem readsBack_vqnars (d : Reg) (a : Reg3) (c : VCtl) : ReadsBack (.vqnars d a c) := by
  rintro _ _ _ ⟨⟩ h
  exact decodeSlot_ok (lookup_v 21 1 (by simp) (by simp) rfl)
    (by show (decide (hi2 (fA (wV 0x15#6 d (0#2 ++ a) 0#5 c.fold c.m 1#6)) = 0#2) && decide (fB (wV 0x15#6 d (0#2 ++ a) 0#5 c.fold c.m 1#6) = 0#5)) = true; simp) rfl
    (by show Instr.vqnars (fD (wV 0x15#6 d (0#2 ++ a) 0#5 c.fold c.m 1#6)) (lo3 (fA (wV 0x15#6 d (0#2 ++ a) 0#5 c.fold c.m 1#6))) ⟨fFold (wV 0x15#6 d (0#2 ++ a) 0#5 c.fold c.m 1#6), fM (wV 0x15#6 d (0#2 ++ a) 0#5 c.fold c.m 1#6)⟩ = _; simp)
theorem readsBack_vqnarw (d : Reg) (a : Reg3) (c : VCtl) : ReadsBack (.vqnarw d a c) := by
  rintro _ _ _ ⟨⟩ h
  exact decodeSlot_ok (lookup_v 21 2 (by simp) (by simp) rfl)
    (by show (decide (hi2 (fA (wV 0x15#6 d (0#2 ++ a) 0#5 c.fold c.m 2#6)) = 0#2) && decide (fB (wV 0x15#6 d (0#2 ++ a) 0#5 c.fold c.m 2#6) = 0#5)) = true; simp) rfl
    (by show Instr.vqnarw (fD (wV 0x15#6 d (0#2 ++ a) 0#5 c.fold c.m 2#6)) (lo3 (fA (wV 0x15#6 d (0#2 ++ a) 0#5 c.fold c.m 2#6))) ⟨fFold (wV 0x15#6 d (0#2 ++ a) 0#5 c.fold c.m 2#6), fM (wV 0x15#6 d (0#2 ++ a) 0#5 c.fold c.m 2#6)⟩ = _; simp)
theorem readsBack_vqclr (d : Reg3) (c : VCtl) : ReadsBack (.vqclr d c) := by
  rintro _ _ _ ⟨⟩ h
  exact decodeSlot_ok (lookup_v 22 0 (by simp) (by simp) rfl)
    (by show (decide (hi2 (fD (wV 0x16#6 (0#2 ++ d) 0#5 0#5 c.fold c.m 0#6)) = 0#2) && decide (fA (wV 0x16#6 (0#2 ++ d) 0#5 0#5 c.fold c.m 0#6) = 0#5) && decide (fB (wV 0x16#6 (0#2 ++ d) 0#5 0#5 c.fold c.m 0#6) = 0#5)) = true; simp) rfl
    (by show Instr.vqclr (lo3 (fD (wV 0x16#6 (0#2 ++ d) 0#5 0#5 c.fold c.m 0#6))) ⟨fFold (wV 0x16#6 (0#2 ++ d) 0#5 0#5 c.fold c.m 0#6), fM (wV 0x16#6 (0#2 ++ d) 0#5 0#5 c.fold c.m 0#6)⟩ = _; simp)
theorem readsBack_vqwf (d : Reg3) (a : Reg) (c : VCtl) : ReadsBack (.vqwf d a c) := by
  rintro _ _ _ ⟨⟩ h
  exact decodeSlot_ok (lookup_v 22 1 (by simp) (by simp) rfl)
    (by show (decide (hi2 (fD (wV 0x16#6 (0#2 ++ d) a 0#5 c.fold c.m 1#6)) = 0#2) && decide (fB (wV 0x16#6 (0#2 ++ d) a 0#5 c.fold c.m 1#6) = 0#5)) = true; simp) rfl
    (by show Instr.vqwf (lo3 (fD (wV 0x16#6 (0#2 ++ d) a 0#5 c.fold c.m 1#6))) (fA (wV 0x16#6 (0#2 ++ d) a 0#5 c.fold c.m 1#6)) ⟨fFold (wV 0x16#6 (0#2 ++ d) a 0#5 c.fold c.m 1#6), fM (wV 0x16#6 (0#2 ++ d) a 0#5 c.fold c.m 1#6)⟩ = _; simp)
theorem readsBack_vqwi (d : Reg3) (a : Reg) (c : VCtl) : ReadsBack (.vqwi d a c) := by
  rintro _ _ _ ⟨⟩ h
  exact decodeSlot_ok (lookup_v 22 2 (by simp) (by simp) rfl)
    (by show (decide (hi2 (fD (wV 0x16#6 (0#2 ++ d) a 0#5 c.fold c.m 2#6)) = 0#2) && decide (fB (wV 0x16#6 (0#2 ++ d) a 0#5 c.fold c.m 2#6) = 0#5)) = true; simp) rfl
    (by show Instr.vqwi (lo3 (fD (wV 0x16#6 (0#2 ++ d) a 0#5 c.fold c.m 2#6))) (fA (wV 0x16#6 (0#2 ++ d) a 0#5 c.fold c.m 2#6)) ⟨fFold (wV 0x16#6 (0#2 ++ d) a 0#5 c.fold c.m 2#6), fM (wV 0x16#6 (0#2 ++ d) a 0#5 c.fold c.m 2#6)⟩ = _; simp)
theorem readsBack_vredadd (d : Reg) (a : Reg) (fold : BitVec 2) : ReadsBack (.vredadd d a fold) := by
  rintro _ _ _ ⟨⟩ h
  exact decodeSlot_ok (lookup_v 23 0 (by simp) (by simp) rfl)
    (by show (decide (fB (wV 0x17#6 d a 0#5 fold 0#3 0#6) = 0#5) && decide (fM (wV 0x17#6 d a 0#5 fold 0#3 0#6) = 0#3)) = true; simp) rfl
    (by show Instr.vredadd (fD (wV 0x17#6 d a 0#5 fold 0#3 0#6)) (fA (wV 0x17#6 d a 0#5 fold 0#3 0#6)) (fFold (wV 0x17#6 d a 0#5 fold 0#3 0#6)) = _; simp)
theorem readsBack_vredfadd (d : Reg) (a : Reg) (fold : BitVec 2) : ReadsBack (.vredfadd d a fold) := by
  rintro _ _ _ ⟨⟩ h
  exact decodeSlot_ok (lookup_v 23 1 (by simp) (by simp) rfl)
    (by show (decide (fB (wV 0x17#6 d a 0#5 fold 0#3 1#6) = 0#5) && decide (fM (wV 0x17#6 d a 0#5 fold 0#3 1#6) = 0#3)) = true; simp) rfl
    (by show Instr.vredfadd (fD (wV 0x17#6 d a 0#5 fold 0#3 1#6)) (fA (wV 0x17#6 d a 0#5 fold 0#3 1#6)) (fFold (wV 0x17#6 d a 0#5 fold 0#3 1#6)) = _; simp)
theorem readsBack_vredmin (d : Reg) (a : Reg) (fold : BitVec 2) : ReadsBack (.vredmin d a fold) := by
  rintro _ _ _ ⟨⟩ h
  exact decodeSlot_ok (lookup_v 23 2 (by simp) (by simp) rfl)
    (by show (decide (fB (wV 0x17#6 d a 0#5 fold 0#3 2#6) = 0#5) && decide (fM (wV 0x17#6 d a 0#5 fold 0#3 2#6) = 0#3)) = true; simp) rfl
    (by show Instr.vredmin (fD (wV 0x17#6 d a 0#5 fold 0#3 2#6)) (fA (wV 0x17#6 d a 0#5 fold 0#3 2#6)) (fFold (wV 0x17#6 d a 0#5 fold 0#3 2#6)) = _; simp)
theorem readsBack_vredmax (d : Reg) (a : Reg) (fold : BitVec 2) : ReadsBack (.vredmax d a fold) := by
  rintro _ _ _ ⟨⟩ h
  exact decodeSlot_ok (lookup_v 23 3 (by simp) (by simp) rfl)
    (by show (decide (fB (wV 0x17#6 d a 0#5 fold 0#3 3#6) = 0#5) && decide (fM (wV 0x17#6 d a 0#5 fold 0#3 3#6) = 0#3)) = true; simp) rfl
    (by show Instr.vredmax (fD (wV 0x17#6 d a 0#5 fold 0#3 3#6)) (fA (wV 0x17#6 d a 0#5 fold 0#3 3#6)) (fFold (wV 0x17#6 d a 0#5 fold 0#3 3#6)) = _; simp)
theorem readsBack_vredfmin (d : Reg) (a : Reg) (fold : BitVec 2) : ReadsBack (.vredfmin d a fold) := by
  rintro _ _ _ ⟨⟩ h
  exact decodeSlot_ok (lookup_v 23 4 (by simp) (by simp) rfl)
    (by show (decide (fB (wV 0x17#6 d a 0#5 fold 0#3 4#6) = 0#5) && decide (fM (wV 0x17#6 d a 0#5 fold 0#3 4#6) = 0#3)) = true; simp) rfl
    (by show Instr.vredfmin (fD (wV 0x17#6 d a 0#5 fold 0#3 4#6)) (fA (wV 0x17#6 d a 0#5 fold 0#3 4#6)) (fFold (wV 0x17#6 d a 0#5 fold 0#3 4#6)) = _; simp)
theorem readsBack_vredfmax (d : Reg) (a : Reg) (fold : BitVec 2) : ReadsBack (.vredfmax d a fold) := by
  rintro _ _ _ ⟨⟩ h
  exact decodeSlot_ok (lookup_v 23 5 (by simp) (by simp) rfl)
    (by show (decide (fB (wV 0x17#6 d a 0#5 fold 0#3 5#6) = 0#5) && decide (fM (wV 0x17#6 d a 0#5 fold 0#3 5#6) = 0#3)) = true; simp) rfl
    (by show Instr.vredfmax (fD (wV 0x17#6 d a 0#5 fold 0#3 5#6)) (fA (wV 0x17#6 d a 0#5 fold 0#3 5#6)) (fFold (wV 0x17#6 d a 0#5 fold 0#3 5#6)) = _; simp)
theorem readsBack_vbcst (d : Reg) (a : Reg) (c : VCtl) : ReadsBack (.vbcst d a c) := by
  rintro _ _ _ ⟨⟩ h
  exact decodeSlot_ok (lookup_v 24 0 (by simp) (by simp) rfl)
    (by show (decide (fB (wV 0x18#6 d a 0#5 c.fold c.m 0#6) = 0#5)) = true; simp) rfl
    (by show Instr.vbcst (fD (wV 0x18#6 d a 0#5 c.fold c.m 0#6)) (fA (wV 0x18#6 d a 0#5 c.fold c.m 0#6)) ⟨fFold (wV 0x18#6 d a 0#5 c.fold c.m 0#6), fM (wV 0x18#6 d a 0#5 c.fold c.m 0#6)⟩ = _; simp)
theorem readsBack_vextr (d : Reg) (a : Reg) (elem : BitVec 6) : ReadsBack (.vextr d a elem) := by
  rintro _ _ _ ⟨⟩ h
  exact decodeSlot_ok (lookup_v 25 _ (by simp) rfl rfl)
    (by show (decide (fB (wV 0x19#6 d a 0#5 0#2 0#3 elem) = 0#5) && decide (fFold (wV 0x19#6 d a 0#5 0#2 0#3 elem) = 0#2) && decide (fM (wV 0x19#6 d a 0#5 0#2 0#3 elem) = 0#3)) = true; simp) rfl
    (by show Instr.vextr (fD (wV 0x19#6 d a 0#5 0#2 0#3 elem)) (fA (wV 0x19#6 d a 0#5 0#2 0#3 elem)) (fSub (wV 0x19#6 d a 0#5 0#2 0#3 elem)) = _; simp)
theorem readsBack_vins (d : Reg) (a : Reg) (elem : BitVec 6) : ReadsBack (.vins d a elem) := by
  rintro _ _ _ ⟨⟩ h
  exact decodeSlot_ok (lookup_v 26 _ (by simp) rfl rfl)
    (by show (decide (fB (wV 0x1A#6 d a 0#5 0#2 0#3 elem) = 0#5) && decide (fFold (wV 0x1A#6 d a 0#5 0#2 0#3 elem) = 0#2) && decide (fM (wV 0x1A#6 d a 0#5 0#2 0#3 elem) = 0#3)) = true; simp) rfl
    (by show Instr.vins (fD (wV 0x1A#6 d a 0#5 0#2 0#3 elem)) (fA (wV 0x1A#6 d a 0#5 0#2 0#3 elem)) (fSub (wV 0x1A#6 d a 0#5 0#2 0#3 elem)) = _; simp)
theorem readsBack_viota (d : Reg) (c : VCtl) : ReadsBack (.viota d c) := by
  rintro _ _ _ ⟨⟩ h
  exact decodeSlot_ok (lookup_v 27 0 (by simp) (by simp) rfl)
    (by show (decide (fA (wV 0x1B#6 d 0#5 0#5 c.fold c.m 0#6) = 0#5) && decide (fB (wV 0x1B#6 d 0#5 0#5 c.fold c.m 0#6) = 0#5)) = true; simp) rfl
    (by show Instr.viota (fD (wV 0x1B#6 d 0#5 0#5 c.fold c.m 0#6)) ⟨fFold (wV 0x1B#6 d 0#5 0#5 c.fold c.m 0#6), fM (wV 0x1B#6 d 0#5 0#5 c.fold c.m 0#6)⟩ = _; simp)
theorem readsBack_vperm (d : Reg) (a : Reg) (b : Reg) (c : VCtl) : ReadsBack (.vperm d a b c) := by
  rintro _ _ _ ⟨⟩ h
  exact decodeSlot_ok (lookup_v 28 0 (by simp) (by simp) rfl)
    rfl rfl
    (by show Instr.vperm (fD (wV 0x1C#6 d a b c.fold c.m 0#6)) (fA (wV 0x1C#6 d a b c.fold c.m 0#6)) (fB (wV 0x1C#6 d a b c.fold c.m 0#6)) ⟨fFold (wV 0x1C#6 d a b c.fold c.m 0#6), fM (wV 0x1C#6 d a b c.fold c.m 0#6)⟩ = _; simp)
theorem readsBack_vslup (d : Reg) (a : Reg) (b : Reg) (c : VCtl) : ReadsBack (.vslup d a b c) := by
  rintro _ _ _ ⟨⟩ h
  exact decodeSlot_ok (lookup_v 29 0 (by simp) (by simp) rfl)
    rfl rfl
    (by show Instr.vslup (fD (wV 0x1D#6 d a b c.fold c.m 0#6)) (fA (wV 0x1D#6 d a b c.fold c.m 0#6)) (fB (wV 0x1D#6 d a b c.fold c.m 0#6)) ⟨fFold (wV 0x1D#6 d a b c.fold c.m 0#6), fM (wV 0x1D#6 d a b c.fold c.m 0#6)⟩ = _; simp)
theorem readsBack_vsldn (d : Reg) (a : Reg) (b : Reg) (c : VCtl) : ReadsBack (.vsldn d a b c) := by
  rintro _ _ _ ⟨⟩ h
  exact decodeSlot_ok (lookup_v 29 1 (by simp) (by simp) rfl)
    rfl rfl
    (by show Instr.vsldn (fD (wV 0x1D#6 d a b c.fold c.m 1#6)) (fA (wV 0x1D#6 d a b c.fold c.m 1#6)) (fB (wV 0x1D#6 d a b c.fold c.m 1#6)) ⟨fFold (wV 0x1D#6 d a b c.fold c.m 1#6), fM (wV 0x1D#6 d a b c.fold c.m 1#6)⟩ = _; simp)
theorem readsBack_vcmpr (d : Reg) (a : Reg) (fold : BitVec 2) (k : Reg3) : ReadsBack (.vcmpr d a fold k) := by
  rintro _ _ _ ⟨⟩ h
  exact decodeSlot_ok (lookup_v 30 0 (by simp) (by simp) rfl)
    (by show (decide (fB (wV 0x1E#6 d a 0#5 fold k 0#6) = 0#5)) = true; simp) rfl
    (by show Instr.vcmpr (fD (wV 0x1E#6 d a 0#5 fold k 0#6)) (fA (wV 0x1E#6 d a 0#5 fold k 0#6)) (fFold (wV 0x1E#6 d a 0#5 fold k 0#6)) (fM (wV 0x1E#6 d a 0#5 fold k 0#6)) = _; simp)
theorem readsBack_mand (d : Reg3) (a : Reg3) (b : Reg3) (fold : BitVec 2) : ReadsBack (.mand d a b fold) := by
  rintro _ _ _ ⟨⟩ h
  exact decodeSlot_ok (lookup_v 31 0 (by simp) (by simp) rfl)
    (by show (decide (hi2 (fD (wV 0x1F#6 (0#2 ++ d) (0#2 ++ a) (0#2 ++ b) fold 0#3 0#6)) = 0#2) && decide (hi2 (fA (wV 0x1F#6 (0#2 ++ d) (0#2 ++ a) (0#2 ++ b) fold 0#3 0#6)) = 0#2) && decide (hi2 (fB (wV 0x1F#6 (0#2 ++ d) (0#2 ++ a) (0#2 ++ b) fold 0#3 0#6)) = 0#2) && decide (fM (wV 0x1F#6 (0#2 ++ d) (0#2 ++ a) (0#2 ++ b) fold 0#3 0#6) = 0#3)) = true; simp) rfl
    (by show Instr.mand (lo3 (fD (wV 0x1F#6 (0#2 ++ d) (0#2 ++ a) (0#2 ++ b) fold 0#3 0#6))) (lo3 (fA (wV 0x1F#6 (0#2 ++ d) (0#2 ++ a) (0#2 ++ b) fold 0#3 0#6))) (lo3 (fB (wV 0x1F#6 (0#2 ++ d) (0#2 ++ a) (0#2 ++ b) fold 0#3 0#6))) (fFold (wV 0x1F#6 (0#2 ++ d) (0#2 ++ a) (0#2 ++ b) fold 0#3 0#6)) = _; simp)
theorem readsBack_mor (d : Reg3) (a : Reg3) (b : Reg3) (fold : BitVec 2) : ReadsBack (.mor d a b fold) := by
  rintro _ _ _ ⟨⟩ h
  exact decodeSlot_ok (lookup_v 31 1 (by simp) (by simp) rfl)
    (by show (decide (hi2 (fD (wV 0x1F#6 (0#2 ++ d) (0#2 ++ a) (0#2 ++ b) fold 0#3 1#6)) = 0#2) && decide (hi2 (fA (wV 0x1F#6 (0#2 ++ d) (0#2 ++ a) (0#2 ++ b) fold 0#3 1#6)) = 0#2) && decide (hi2 (fB (wV 0x1F#6 (0#2 ++ d) (0#2 ++ a) (0#2 ++ b) fold 0#3 1#6)) = 0#2) && decide (fM (wV 0x1F#6 (0#2 ++ d) (0#2 ++ a) (0#2 ++ b) fold 0#3 1#6) = 0#3)) = true; simp) rfl
    (by show Instr.mor (lo3 (fD (wV 0x1F#6 (0#2 ++ d) (0#2 ++ a) (0#2 ++ b) fold 0#3 1#6))) (lo3 (fA (wV 0x1F#6 (0#2 ++ d) (0#2 ++ a) (0#2 ++ b) fold 0#3 1#6))) (lo3 (fB (wV 0x1F#6 (0#2 ++ d) (0#2 ++ a) (0#2 ++ b) fold 0#3 1#6))) (fFold (wV 0x1F#6 (0#2 ++ d) (0#2 ++ a) (0#2 ++ b) fold 0#3 1#6)) = _; simp)
theorem readsBack_mxor (d : Reg3) (a : Reg3) (b : Reg3) (fold : BitVec 2) : ReadsBack (.mxor d a b fold) := by
  rintro _ _ _ ⟨⟩ h
  exact decodeSlot_ok (lookup_v 31 2 (by simp) (by simp) rfl)
    (by show (decide (hi2 (fD (wV 0x1F#6 (0#2 ++ d) (0#2 ++ a) (0#2 ++ b) fold 0#3 2#6)) = 0#2) && decide (hi2 (fA (wV 0x1F#6 (0#2 ++ d) (0#2 ++ a) (0#2 ++ b) fold 0#3 2#6)) = 0#2) && decide (hi2 (fB (wV 0x1F#6 (0#2 ++ d) (0#2 ++ a) (0#2 ++ b) fold 0#3 2#6)) = 0#2) && decide (fM (wV 0x1F#6 (0#2 ++ d) (0#2 ++ a) (0#2 ++ b) fold 0#3 2#6) = 0#3)) = true; simp) rfl
    (by show Instr.mxor (lo3 (fD (wV 0x1F#6 (0#2 ++ d) (0#2 ++ a) (0#2 ++ b) fold 0#3 2#6))) (lo3 (fA (wV 0x1F#6 (0#2 ++ d) (0#2 ++ a) (0#2 ++ b) fold 0#3 2#6))) (lo3 (fB (wV 0x1F#6 (0#2 ++ d) (0#2 ++ a) (0#2 ++ b) fold 0#3 2#6))) (fFold (wV 0x1F#6 (0#2 ++ d) (0#2 ++ a) (0#2 ++ b) fold 0#3 2#6)) = _; simp)
theorem readsBack_mnot (d : Reg3) (a : Reg3) (fold : BitVec 2) : ReadsBack (.mnot d a fold) := by
  rintro _ _ _ ⟨⟩ h
  exact decodeSlot_ok (lookup_v 31 3 (by simp) (by simp) rfl)
    (by show (decide (hi2 (fD (wV 0x1F#6 (0#2 ++ d) (0#2 ++ a) 0#5 fold 0#3 3#6)) = 0#2) && decide (hi2 (fA (wV 0x1F#6 (0#2 ++ d) (0#2 ++ a) 0#5 fold 0#3 3#6)) = 0#2) && decide (fB (wV 0x1F#6 (0#2 ++ d) (0#2 ++ a) 0#5 fold 0#3 3#6) = 0#5) && decide (fM (wV 0x1F#6 (0#2 ++ d) (0#2 ++ a) 0#5 fold 0#3 3#6) = 0#3)) = true; simp) rfl
    (by show Instr.mnot (lo3 (fD (wV 0x1F#6 (0#2 ++ d) (0#2 ++ a) 0#5 fold 0#3 3#6))) (lo3 (fA (wV 0x1F#6 (0#2 ++ d) (0#2 ++ a) 0#5 fold 0#3 3#6))) (fFold (wV 0x1F#6 (0#2 ++ d) (0#2 ++ a) 0#5 fold 0#3 3#6)) = _; simp)
theorem readsBack_mpop (d : Reg) (a : Reg3) (fold : BitVec 2) : ReadsBack (.mpop d a fold) := by
  rintro _ _ _ ⟨⟩ h
  exact decodeSlot_ok (lookup_v 31 4 (by simp) (by simp) rfl)
    (by show (decide (hi2 (fA (wV 0x1F#6 d (0#2 ++ a) 0#5 fold 0#3 4#6)) = 0#2) && decide (fB (wV 0x1F#6 d (0#2 ++ a) 0#5 fold 0#3 4#6) = 0#5) && decide (fM (wV 0x1F#6 d (0#2 ++ a) 0#5 fold 0#3 4#6) = 0#3)) = true; simp) rfl
    (by show Instr.mpop (fD (wV 0x1F#6 d (0#2 ++ a) 0#5 fold 0#3 4#6)) (lo3 (fA (wV 0x1F#6 d (0#2 ++ a) 0#5 fold 0#3 4#6))) (fFold (wV 0x1F#6 d (0#2 ++ a) 0#5 fold 0#3 4#6)) = _; simp)
theorem readsBack_mfirst (d : Reg) (a : Reg3) (fold : BitVec 2) : ReadsBack (.mfirst d a fold) := by
  rintro _ _ _ ⟨⟩ h
  exact decodeSlot_ok (lookup_v 31 5 (by simp) (by simp) rfl)
    (by show (decide (hi2 (fA (wV 0x1F#6 d (0#2 ++ a) 0#5 fold 0#3 5#6)) = 0#2) && decide (fB (wV 0x1F#6 d (0#2 ++ a) 0#5 fold 0#3 5#6) = 0#5) && decide (fM (wV 0x1F#6 d (0#2 ++ a) 0#5 fold 0#3 5#6) = 0#3)) = true; simp) rfl
    (by show Instr.mfirst (fD (wV 0x1F#6 d (0#2 ++ a) 0#5 fold 0#3 5#6)) (lo3 (fA (wV 0x1F#6 d (0#2 ++ a) 0#5 fold 0#3 5#6))) (fFold (wV 0x1F#6 d (0#2 ++ a) 0#5 fold 0#3 5#6)) = _; simp)
theorem readsBack_mset (d : Reg3) (a : Reg) (fold : BitVec 2) : ReadsBack (.mset d a fold) := by
  rintro _ _ _ ⟨⟩ h
  exact decodeSlot_ok (lookup_v 31 6 (by simp) (by simp) rfl)
    (by show (decide (hi2 (fD (wV 0x1F#6 (0#2 ++ d) a 0#5 fold 0#3 6#6)) = 0#2) && decide (fB (wV 0x1F#6 (0#2 ++ d) a 0#5 fold 0#3 6#6) = 0#5) && decide (fM (wV 0x1F#6 (0#2 ++ d) a 0#5 fold 0#3 6#6) = 0#3)) = true; simp) rfl
    (by show Instr.mset (lo3 (fD (wV 0x1F#6 (0#2 ++ d) a 0#5 fold 0#3 6#6))) (fA (wV 0x1F#6 (0#2 ++ d) a 0#5 fold 0#3 6#6)) (fFold (wV 0x1F#6 (0#2 ++ d) a 0#5 fold 0#3 6#6)) = _; simp)
theorem readsBack_mget (d : Reg) (a : Reg3) (fold : BitVec 2) : ReadsBack (.mget d a fold) := by
  rintro _ _ _ ⟨⟩ h
  exact decodeSlot_ok (lookup_v 31 7 (by simp) (by simp) rfl)
    (by show (decide (hi2 (fA (wV 0x1F#6 d (0#2 ++ a) 0#5 fold 0#3 7#6)) = 0#2) && decide (fB (wV 0x1F#6 d (0#2 ++ a) 0#5 fold 0#3 7#6) = 0#5) && decide (fM (wV 0x1F#6 d (0#2 ++ a) 0#5 fold 0#3 7#6) = 0#3)) = true; simp) rfl
    (by show Instr.mget (fD (wV 0x1F#6 d (0#2 ++ a) 0#5 fold 0#3 7#6)) (lo3 (fA (wV 0x1F#6 d (0#2 ++ a) 0#5 fold 0#3 7#6))) (fFold (wV 0x1F#6 d (0#2 ++ a) 0#5 fold 0#3 7#6)) = _; simp)
theorem readsBack_vsel (d : Reg) (a : Reg) (b : Reg) (fold : BitVec 2) (k : Reg3) : ReadsBack (.vsel d a b fold k) := by
  rintro _ _ _ ⟨⟩ h
  exact decodeSlot_ok (lookup_v 32 0 (by simp) (by simp) rfl)
    rfl rfl
    (by show Instr.vsel (fD (wV 0x20#6 d a b fold k 0#6)) (fA (wV 0x20#6 d a b fold k 0#6)) (fB (wV 0x20#6 d a b fold k 0#6)) (fFold (wV 0x20#6 d a b fold k 0#6)) (fM (wV 0x20#6 d a b fold k 0#6)) = _; simp)
theorem readsBack_vldW (d : Reg) (a : Reg) (b : Reg) (c : VCtl) : ReadsBack (.vldW d a b c) := by
  rintro _ _ _ ⟨⟩ h
  exact decodeSlot_ok (lookup_v 33 0 (by simp) (by simp) rfl)
    rfl rfl
    (by show Instr.vldW (fD (wV 0x21#6 d a b c.fold c.m 0#6)) (fA (wV 0x21#6 d a b c.fold c.m 0#6)) (fB (wV 0x21#6 d a b c.fold c.m 0#6)) ⟨fFold (wV 0x21#6 d a b c.fold c.m 0#6), fM (wV 0x21#6 d a b c.fold c.m 0#6)⟩ = _; simp)
theorem readsBack_vldH (d : Reg) (a : Reg) (b : Reg) (c : VCtl) : ReadsBack (.vldH d a b c) := by
  rintro _ _ _ ⟨⟩ h
  exact decodeSlot_ok (lookup_v 33 1 (by simp) (by simp) rfl)
    rfl rfl
    (by show Instr.vldH (fD (wV 0x21#6 d a b c.fold c.m 1#6)) (fA (wV 0x21#6 d a b c.fold c.m 1#6)) (fB (wV 0x21#6 d a b c.fold c.m 1#6)) ⟨fFold (wV 0x21#6 d a b c.fold c.m 1#6), fM (wV 0x21#6 d a b c.fold c.m 1#6)⟩ = _; simp)
theorem readsBack_vldHu (d : Reg) (a : Reg) (b : Reg) (c : VCtl) : ReadsBack (.vldHu d a b c) := by
  rintro _ _ _ ⟨⟩ h
  exact decodeSlot_ok (lookup_v 33 2 (by simp) (by simp) rfl)
    rfl rfl
    (by show Instr.vldHu (fD (wV 0x21#6 d a b c.fold c.m 2#6)) (fA (wV 0x21#6 d a b c.fold c.m 2#6)) (fB (wV 0x21#6 d a b c.fold c.m 2#6)) ⟨fFold (wV 0x21#6 d a b c.fold c.m 2#6), fM (wV 0x21#6 d a b c.fold c.m 2#6)⟩ = _; simp)
theorem readsBack_vldB (d : Reg) (a : Reg) (b : Reg) (c : VCtl) : ReadsBack (.vldB d a b c) := by
  rintro _ _ _ ⟨⟩ h
  exact decodeSlot_ok (lookup_v 33 3 (by simp) (by simp) rfl)
    rfl rfl
    (by show Instr.vldB (fD (wV 0x21#6 d a b c.fold c.m 3#6)) (fA (wV 0x21#6 d a b c.fold c.m 3#6)) (fB (wV 0x21#6 d a b c.fold c.m 3#6)) ⟨fFold (wV 0x21#6 d a b c.fold c.m 3#6), fM (wV 0x21#6 d a b c.fold c.m 3#6)⟩ = _; simp)
theorem readsBack_vldBu (d : Reg) (a : Reg) (b : Reg) (c : VCtl) : ReadsBack (.vldBu d a b c) := by
  rintro _ _ _ ⟨⟩ h
  exact decodeSlot_ok (lookup_v 33 4 (by simp) (by simp) rfl)
    rfl rfl
    (by show Instr.vldBu (fD (wV 0x21#6 d a b c.fold c.m 4#6)) (fA (wV 0x21#6 d a b c.fold c.m 4#6)) (fB (wV 0x21#6 d a b c.fold c.m 4#6)) ⟨fFold (wV 0x21#6 d a b c.fold c.m 4#6), fM (wV 0x21#6 d a b c.fold c.m 4#6)⟩ = _; simp)
theorem readsBack_vstW (d : Reg) (a : Reg) (b : Reg) (c : VCtl) : ReadsBack (.vstW d a b c) := by
  rintro _ _ _ ⟨⟩ h
  exact decodeSlot_ok (lookup_v 34 0 (by simp) (by simp) rfl)
    rfl rfl
    (by show Instr.vstW (fD (wV 0x22#6 d a b c.fold c.m 0#6)) (fA (wV 0x22#6 d a b c.fold c.m 0#6)) (fB (wV 0x22#6 d a b c.fold c.m 0#6)) ⟨fFold (wV 0x22#6 d a b c.fold c.m 0#6), fM (wV 0x22#6 d a b c.fold c.m 0#6)⟩ = _; simp)
theorem readsBack_vstH (d : Reg) (a : Reg) (b : Reg) (c : VCtl) : ReadsBack (.vstH d a b c) := by
  rintro _ _ _ ⟨⟩ h
  exact decodeSlot_ok (lookup_v 34 1 (by simp) (by simp) rfl)
    rfl rfl
    (by show Instr.vstH (fD (wV 0x22#6 d a b c.fold c.m 1#6)) (fA (wV 0x22#6 d a b c.fold c.m 1#6)) (fB (wV 0x22#6 d a b c.fold c.m 1#6)) ⟨fFold (wV 0x22#6 d a b c.fold c.m 1#6), fM (wV 0x22#6 d a b c.fold c.m 1#6)⟩ = _; simp)
theorem readsBack_vstB (d : Reg) (a : Reg) (b : Reg) (c : VCtl) : ReadsBack (.vstB d a b c) := by
  rintro _ _ _ ⟨⟩ h
  exact decodeSlot_ok (lookup_v 34 2 (by simp) (by simp) rfl)
    rfl rfl
    (by show Instr.vstB (fD (wV 0x22#6 d a b c.fold c.m 2#6)) (fA (wV 0x22#6 d a b c.fold c.m 2#6)) (fB (wV 0x22#6 d a b c.fold c.m 2#6)) ⟨fFold (wV 0x22#6 d a b c.fold c.m 2#6), fM (wV 0x22#6 d a b c.fold c.m 2#6)⟩ = _; simp)
theorem readsBack_vgath (d : Reg) (a : Reg) (b : Reg) (c : VCtl) : ReadsBack (.vgath d a b c) := by
  rintro _ _ _ ⟨⟩ h
  exact decodeSlot_ok (lookup_v 35 0 (by simp) (by simp) rfl)
    rfl rfl
    (by show Instr.vgath (fD (wV 0x23#6 d a b c.fold c.m 0#6)) (fA (wV 0x23#6 d a b c.fold c.m 0#6)) (fB (wV 0x23#6 d a b c.fold c.m 0#6)) ⟨fFold (wV 0x23#6 d a b c.fold c.m 0#6), fM (wV 0x23#6 d a b c.fold c.m 0#6)⟩ = _; simp)
theorem readsBack_vscat (d : Reg) (a : Reg) (b : Reg) (c : VCtl) : ReadsBack (.vscat d a b c) := by
  rintro _ _ _ ⟨⟩ h
  exact decodeSlot_ok (lookup_v 36 0 (by simp) (by simp) rfl)
    rfl rfl
    (by show Instr.vscat (fD (wV 0x24#6 d a b c.fold c.m 0#6)) (fA (wV 0x24#6 d a b c.fold c.m 0#6)) (fB (wV 0x24#6 d a b c.fold c.m 0#6)) ⟨fFold (wV 0x24#6 d a b c.fold c.m 0#6), fM (wV 0x24#6 d a b c.fold c.m 0#6)⟩ = _; simp)
theorem readsBack_vsortS (d : Reg) (a : Reg) (fold : BitVec 2) : ReadsBack (.vsortS d a fold) := by
  rintro _ _ _ ⟨⟩ h
  exact decodeSlot_ok (lookup_v 37 0 (by simp) (by simp) rfl)
    (by show (decide (fB (wV 0x25#6 d a 0#5 fold 0#3 0#6) = 0#5) && decide (fM (wV 0x25#6 d a 0#5 fold 0#3 0#6) = 0#3)) = true; simp) (by simpa [Mn.limitsOk, Instr.wellFormed] using h)
    (by show Instr.vsortS (fD (wV 0x25#6 d a 0#5 fold 0#3 0#6)) (fA (wV 0x25#6 d a 0#5 fold 0#3 0#6)) (fFold (wV 0x25#6 d a 0#5 fold 0#3 0#6)) = _; simp)
theorem readsBack_vsortF (d : Reg) (a : Reg) (fold : BitVec 2) : ReadsBack (.vsortF d a fold) := by
  rintro _ _ _ ⟨⟩ h
  exact decodeSlot_ok (lookup_v 37 1 (by simp) (by simp) rfl)
    (by show (decide (fB (wV 0x25#6 d a 0#5 fold 0#3 1#6) = 0#5) && decide (fM (wV 0x25#6 d a 0#5 fold 0#3 1#6) = 0#3)) = true; simp) (by simpa [Mn.limitsOk, Instr.wellFormed] using h)
    (by show Instr.vsortF (fD (wV 0x25#6 d a 0#5 fold 0#3 1#6)) (fA (wV 0x25#6 d a 0#5 fold 0#3 1#6)) (fFold (wV 0x25#6 d a 0#5 fold 0#3 1#6)) = _; simp)
theorem readsBack_vsortU (d : Reg) (a : Reg) (fold : BitVec 2) : ReadsBack (.vsortU d a fold) := by
  rintro _ _ _ ⟨⟩ h
  exact decodeSlot_ok (lookup_v 37 2 (by simp) (by simp) rfl)
    (by show (decide (fB (wV 0x25#6 d a 0#5 fold 0#3 2#6) = 0#5) && decide (fM (wV 0x25#6 d a 0#5 fold 0#3 2#6) = 0#3)) = true; simp) (by simpa [Mn.limitsOk, Instr.wellFormed] using h)
    (by show Instr.vsortU (fD (wV 0x25#6 d a 0#5 fold 0#3 2#6)) (fA (wV 0x25#6 d a 0#5 fold 0#3 2#6)) (fFold (wV 0x25#6 d a 0#5 fold 0#3 2#6)) = _; simp)
theorem readsBack_vruns (d : Reg3) (a : Reg) (fold : BitVec 2) : ReadsBack (.vruns d a fold) := by
  rintro _ _ _ ⟨⟩ h
  exact decodeSlot_ok (lookup_v 38 0 (by simp) (by simp) rfl)
    (by show (decide (hi2 (fD (wV 0x26#6 (0#2 ++ d) a 0#5 fold 0#3 0#6)) = 0#2) && decide (fB (wV 0x26#6 (0#2 ++ d) a 0#5 fold 0#3 0#6) = 0#5) && decide (fM (wV 0x26#6 (0#2 ++ d) a 0#5 fold 0#3 0#6) = 0#3)) = true; simp) rfl
    (by show Instr.vruns (lo3 (fD (wV 0x26#6 (0#2 ++ d) a 0#5 fold 0#3 0#6))) (fA (wV 0x26#6 (0#2 ++ d) a 0#5 fold 0#3 0#6)) (fFold (wV 0x26#6 (0#2 ++ d) a 0#5 fold 0#3 0#6)) = _; simp)
theorem readsBack_vsegadd (d : Reg) (a : Reg) (fold : BitVec 2) (k : Reg3) : ReadsBack (.vsegadd d a fold k) := by
  rintro _ _ _ ⟨⟩ h
  exact decodeSlot_ok (lookup_v 39 0 (by simp) (by simp) rfl)
    (by show (decide (fB (wV 0x27#6 d a 0#5 fold k 0#6) = 0#5)) = true; simp) rfl
    (by show Instr.vsegadd (fD (wV 0x27#6 d a 0#5 fold k 0#6)) (fA (wV 0x27#6 d a 0#5 fold k 0#6)) (fFold (wV 0x27#6 d a 0#5 fold k 0#6)) (fM (wV 0x27#6 d a 0#5 fold k 0#6)) = _; simp)
theorem readsBack_vsegfadd (d : Reg) (a : Reg) (fold : BitVec 2) (k : Reg3) : ReadsBack (.vsegfadd d a fold k) := by
  rintro _ _ _ ⟨⟩ h
  exact decodeSlot_ok (lookup_v 39 1 (by simp) (by simp) rfl)
    (by show (decide (fB (wV 0x27#6 d a 0#5 fold k 1#6) = 0#5)) = true; simp) rfl
    (by show Instr.vsegfadd (fD (wV 0x27#6 d a 0#5 fold k 1#6)) (fA (wV 0x27#6 d a 0#5 fold k 1#6)) (fFold (wV 0x27#6 d a 0#5 fold k 1#6)) (fM (wV 0x27#6 d a 0#5 fold k 1#6)) = _; simp)
theorem readsBack_vrng (d : Reg) (c : VCtl) : ReadsBack (.vrng d c) := by
  rintro _ _ _ ⟨⟩ h
  exact decodeSlot_ok (lookup_v 40 0 (by simp) (by simp) rfl)
    (by show (decide (fA (wV 0x28#6 d 0#5 0#5 c.fold c.m 0#6) = 0#5) && decide (fB (wV 0x28#6 d 0#5 0#5 c.fold c.m 0#6) = 0#5)) = true; simp) rfl
    (by show Instr.vrng (fD (wV 0x28#6 d 0#5 0#5 c.fold c.m 0#6)) ⟨fFold (wV 0x28#6 d 0#5 0#5 c.fold c.m 0#6), fM (wV 0x28#6 d 0#5 0#5 c.fold c.m 0#6)⟩ = _; simp)
theorem readsBack_vbfpq (d : Reg) (a : Reg) (fold : BitVec 2) (w : Reg3) : ReadsBack (.vbfpq d a fold w) := by
  rintro _ _ _ ⟨⟩ h
  exact decodeSlot_ok (lookup_v 41 _ (by simp) rfl (if_pos (by simpa using vbfpq_sub _ (by simpa [Instr.wellFormed] using h))))
    (by show (decide (fB (wV 0x29#6 d a 0#5 fold 0#3 (0#3 ++ w)) = 0#5) && decide (fM (wV 0x29#6 d a 0#5 fold 0#3 (0#3 ++ w)) = 0#3)) = true; simp) rfl
    (by show Instr.vbfpq (fD (wV 0x29#6 d a 0#5 fold 0#3 (0#3 ++ w))) (fA (wV 0x29#6 d a 0#5 fold 0#3 (0#3 ++ w))) (fFold (wV 0x29#6 d a 0#5 fold 0#3 (0#3 ++ w))) (lo3s (fSub (wV 0x29#6 d a 0#5 fold 0#3 (0#3 ++ w)))) = _; simp)
theorem readsBack_vbfpx (d : Reg) (a : Reg) (fold : BitVec 2) : ReadsBack (.vbfpx d a fold) := by
  rintro _ _ _ ⟨⟩ h
  exact decodeSlot_ok (lookup_v 42 0 (by simp) (by simp) rfl)
    (by show (decide (fB (wV 0x2A#6 d a 0#5 fold 0#3 0#6) = 0#5) && decide (fM (wV 0x2A#6 d a 0#5 fold 0#3 0#6) = 0#3)) = true; simp) rfl
    (by show Instr.vbfpx (fD (wV 0x2A#6 d a 0#5 fold 0#3 0#6)) (fA (wV 0x2A#6 d a 0#5 fold 0#3 0#6)) (fFold (wV 0x2A#6 d a 0#5 fold 0#3 0#6)) = _; simp)
theorem readsBack_vt5pk (d : Reg) (a : Reg) (fold : BitVec 2) : ReadsBack (.vt5pk d a fold) := by
  rintro _ _ _ ⟨⟩ h
  exact decodeSlot_ok (lookup_v 43 0 (by simp) (by simp) rfl)
    (by show (decide (fB (wV 0x2B#6 d a 0#5 fold 0#3 0#6) = 0#5) && decide (fM (wV 0x2B#6 d a 0#5 fold 0#3 0#6) = 0#3)) = true; simp) (by simpa [Mn.limitsOk, Instr.wellFormed] using h)
    (by show Instr.vt5pk (fD (wV 0x2B#6 d a 0#5 fold 0#3 0#6)) (fA (wV 0x2B#6 d a 0#5 fold 0#3 0#6)) (fFold (wV 0x2B#6 d a 0#5 fold 0#3 0#6)) = _; simp)
theorem readsBack_vt5up (d : Reg) (a : Reg) (fold : BitVec 2) : ReadsBack (.vt5up d a fold) := by
  rintro _ _ _ ⟨⟩ h
  exact decodeSlot_ok (lookup_v 44 0 (by simp) (by simp) rfl)
    (by show (decide (fB (wV 0x2C#6 d a 0#5 fold 0#3 0#6) = 0#5) && decide (fM (wV 0x2C#6 d a 0#5 fold 0#3 0#6) = 0#3)) = true; simp) (by simpa [Mn.limitsOk, Instr.wellFormed] using h)
    (by show Instr.vt5up (fD (wV 0x2C#6 d a 0#5 fold 0#3 0#6)) (fA (wV 0x2C#6 d a 0#5 fold 0#3 0#6)) (fFold (wV 0x2C#6 d a 0#5 fold 0#3 0#6)) = _; simp)
theorem readsBack_tld (d : Reg3) (a : Reg) (b : Reg) : ReadsBack (.tld d a b) := by
  rintro _ _ _ ⟨⟩ h
  exact decodeSlot_ok (lookup_t 1 0 (by simp) (by simp) rfl)
    (by show (decide (hi2 (fD (wT 0x01#6 (0#2 ++ d) a b 0#6)) = 0#2) && decide (fTz (wT 0x01#6 (0#2 ++ d) a b 0#6) = 0#5)) = true; simp) rfl
    (by show Instr.tld (lo3 (fD (wT 0x01#6 (0#2 ++ d) a b 0#6))) (fA (wT 0x01#6 (0#2 ++ d) a b 0#6)) (fB (wT 0x01#6 (0#2 ++ d) a b 0#6)) = _; simp)
theorem readsBack_tst (d : Reg3) (a : Reg) (b : Reg) : ReadsBack (.tst d a b) := by
  rintro _ _ _ ⟨⟩ h
  exact decodeSlot_ok (lookup_t 2 0 (by simp) (by simp) rfl)
    (by show (decide (hi2 (fD (wT 0x02#6 (0#2 ++ d) a b 0#6)) = 0#2) && decide (fTz (wT 0x02#6 (0#2 ++ d) a b 0#6) = 0#5)) = true; simp) rfl
    (by show Instr.tst (lo3 (fD (wT 0x02#6 (0#2 ++ d) a b 0#6))) (fA (wT 0x02#6 (0#2 ++ d) a b 0#6)) (fB (wT 0x02#6 (0#2 ++ d) a b 0#6)) = _; simp)
theorem readsBack_twin (d : Reg3) (a : Reg) (b : Reg) : ReadsBack (.twin d a b) := by
  rintro _ _ _ ⟨⟩ h
  exact decodeSlot_ok (lookup_t 3 0 (by simp) (by simp) rfl)
    (by show (decide (hi2 (fD (wT 0x03#6 (0#2 ++ d) a b 0#6)) = 0#2) && decide (fTz (wT 0x03#6 (0#2 ++ d) a b 0#6) = 0#5)) = true; simp) rfl
    (by show Instr.twin (lo3 (fD (wT 0x03#6 (0#2 ++ d) a b 0#6))) (fA (wT 0x03#6 (0#2 ++ d) a b 0#6)) (fB (wT 0x03#6 (0#2 ++ d) a b 0#6)) = _; simp)
theorem readsBack_tzero (d : Reg3) : ReadsBack (.tzero d) := by
  rintro _ _ _ ⟨⟩ h
  exact decodeSlot_ok (lookup_t 4 0 (by simp) (by simp) rfl)
    (by show (decide (hi2 (fD (wT 0x04#6 (0#2 ++ d) 0#5 0#5 0#6)) = 0#2) && decide (fA (wT 0x04#6 (0#2 ++ d) 0#5 0#5 0#6) = 0#5) && decide (fB (wT 0x04#6 (0#2 ++ d) 0#5 0#5 0#6) = 0#5) && decide (fTz (wT 0x04#6 (0#2 ++ d) 0#5 0#5 0#6) = 0#5)) = true; simp) rfl
    (by show Instr.tzero (lo3 (fD (wT 0x04#6 (0#2 ++ d) 0#5 0#5 0#6))) = _; simp)
theorem readsBack_tmmaBf16 (d : Reg) (a : Reg3) (b : Reg3) : ReadsBack (.tmmaBf16 d a b) := by
  rintro _ _ _ ⟨⟩ h
  exact decodeSlot_ok (lookup_t 5 0 (by simp) (by simp) rfl)
    (by show (decide (hi2 (fA (wT 0x05#6 d (0#2 ++ a) (0#2 ++ b) 0#6)) = 0#2) && decide (hi2 (fB (wT 0x05#6 d (0#2 ++ a) (0#2 ++ b) 0#6)) = 0#2) && decide (fTz (wT 0x05#6 d (0#2 ++ a) (0#2 ++ b) 0#6) = 0#5) && decide (hi3 (fSub (wT 0x05#6 d (0#2 ++ a) (0#2 ++ b) 0#6)) = 0#3)) = true; simp [hi3]) rfl
    (by show Instr.tmmaBf16 (fD (wT 0x05#6 d (0#2 ++ a) (0#2 ++ b) 0#6)) (lo3 (fA (wT 0x05#6 d (0#2 ++ a) (0#2 ++ b) 0#6))) (lo3 (fB (wT 0x05#6 d (0#2 ++ a) (0#2 ++ b) 0#6))) = _; simp)
theorem readsBack_tmmaBfp (d : Reg) (a : Reg3) (b : Reg3) : ReadsBack (.tmmaBfp d a b) := by
  rintro _ _ _ ⟨⟩ h
  exact decodeSlot_ok (lookup_t 5 1 (by simp) (by simp) rfl)
    (by show (decide (hi2 (fA (wT 0x05#6 d (0#2 ++ a) (0#2 ++ b) 1#6)) = 0#2) && decide (hi2 (fB (wT 0x05#6 d (0#2 ++ a) (0#2 ++ b) 1#6)) = 0#2) && decide (fTz (wT 0x05#6 d (0#2 ++ a) (0#2 ++ b) 1#6) = 0#5) && decide (hi3 (fSub (wT 0x05#6 d (0#2 ++ a) (0#2 ++ b) 1#6)) = 0#3)) = true; simp [hi3]) rfl
    (by show Instr.tmmaBfp (fD (wT 0x05#6 d (0#2 ++ a) (0#2 ++ b) 1#6)) (lo3 (fA (wT 0x05#6 d (0#2 ++ a) (0#2 ++ b) 1#6))) (lo3 (fB (wT 0x05#6 d (0#2 ++ a) (0#2 ++ b) 1#6))) = _; simp)
theorem readsBack_tmmaI8 (d : Reg) (a : Reg3) (b : Reg3) : ReadsBack (.tmmaI8 d a b) := by
  rintro _ _ _ ⟨⟩ h
  exact decodeSlot_ok (lookup_t 5 2 (by simp) (by simp) rfl)
    (by show (decide (hi2 (fA (wT 0x05#6 d (0#2 ++ a) (0#2 ++ b) 2#6)) = 0#2) && decide (hi2 (fB (wT 0x05#6 d (0#2 ++ a) (0#2 ++ b) 2#6)) = 0#2) && decide (fTz (wT 0x05#6 d (0#2 ++ a) (0#2 ++ b) 2#6) = 0#5) && decide (hi3 (fSub (wT 0x05#6 d (0#2 ++ a) (0#2 ++ b) 2#6)) = 0#3)) = true; simp [hi3]) rfl
    (by show Instr.tmmaI8 (fD (wT 0x05#6 d (0#2 ++ a) (0#2 ++ b) 2#6)) (lo3 (fA (wT 0x05#6 d (0#2 ++ a) (0#2 ++ b) 2#6))) (lo3 (fB (wT 0x05#6 d (0#2 ++ a) (0#2 ++ b) 2#6))) = _; simp)
theorem readsBack_tmmaBf16W (d : Reg) (a : Reg3) (b : Reg3) : ReadsBack (.tmmaBf16W d a b) := by
  rintro _ _ _ ⟨⟩ h
  exact decodeSlot_ok (lookup_t 5 4 (by simp) (by simp) rfl)
    (by show (decide (hi2 (fA (wT 0x05#6 d (0#2 ++ a) (0#2 ++ b) 4#6)) = 0#2) && decide (hi2 (fB (wT 0x05#6 d (0#2 ++ a) (0#2 ++ b) 4#6)) = 0#2) && decide (fTz (wT 0x05#6 d (0#2 ++ a) (0#2 ++ b) 4#6) = 0#5) && decide (hi3 (fSub (wT 0x05#6 d (0#2 ++ a) (0#2 ++ b) 4#6)) = 0#3)) = true; simp [hi3]) rfl
    (by show Instr.tmmaBf16W (fD (wT 0x05#6 d (0#2 ++ a) (0#2 ++ b) 4#6)) (lo3 (fA (wT 0x05#6 d (0#2 ++ a) (0#2 ++ b) 4#6))) (lo3 (fB (wT 0x05#6 d (0#2 ++ a) (0#2 ++ b) 4#6))) = _; simp)
theorem readsBack_tmmaBfpW (d : Reg) (a : Reg3) (b : Reg3) : ReadsBack (.tmmaBfpW d a b) := by
  rintro _ _ _ ⟨⟩ h
  exact decodeSlot_ok (lookup_t 5 5 (by simp) (by simp) rfl)
    (by show (decide (hi2 (fA (wT 0x05#6 d (0#2 ++ a) (0#2 ++ b) 5#6)) = 0#2) && decide (hi2 (fB (wT 0x05#6 d (0#2 ++ a) (0#2 ++ b) 5#6)) = 0#2) && decide (fTz (wT 0x05#6 d (0#2 ++ a) (0#2 ++ b) 5#6) = 0#5) && decide (hi3 (fSub (wT 0x05#6 d (0#2 ++ a) (0#2 ++ b) 5#6)) = 0#3)) = true; simp [hi3]) rfl
    (by show Instr.tmmaBfpW (fD (wT 0x05#6 d (0#2 ++ a) (0#2 ++ b) 5#6)) (lo3 (fA (wT 0x05#6 d (0#2 ++ a) (0#2 ++ b) 5#6))) (lo3 (fB (wT 0x05#6 d (0#2 ++ a) (0#2 ++ b) 5#6))) = _; simp)
theorem readsBack_tmmaI8W (d : Reg) (a : Reg3) (b : Reg3) : ReadsBack (.tmmaI8W d a b) := by
  rintro _ _ _ ⟨⟩ h
  exact decodeSlot_ok (lookup_t 5 6 (by simp) (by simp) rfl)
    (by show (decide (hi2 (fA (wT 0x05#6 d (0#2 ++ a) (0#2 ++ b) 6#6)) = 0#2) && decide (hi2 (fB (wT 0x05#6 d (0#2 ++ a) (0#2 ++ b) 6#6)) = 0#2) && decide (fTz (wT 0x05#6 d (0#2 ++ a) (0#2 ++ b) 6#6) = 0#5) && decide (hi3 (fSub (wT 0x05#6 d (0#2 ++ a) (0#2 ++ b) 6#6)) = 0#3)) = true; simp [hi3]) rfl
    (by show Instr.tmmaI8W (fD (wT 0x05#6 d (0#2 ++ a) (0#2 ++ b) 6#6)) (lo3 (fA (wT 0x05#6 d (0#2 ++ a) (0#2 ++ b) 6#6))) (lo3 (fB (wT 0x05#6 d (0#2 ++ a) (0#2 ++ b) 6#6))) = _; simp)
theorem readsBack_ttrn (d : Reg3) (a : Reg3) : ReadsBack (.ttrn d a) := by
  rintro _ _ _ ⟨⟩ h
  exact decodeSlot_ok (lookup_t 6 0 (by simp) (by simp) rfl)
    (by show (decide (hi2 (fD (wT 0x06#6 (0#2 ++ d) (0#2 ++ a) 0#5 0#6)) = 0#2) && decide (hi2 (fA (wT 0x06#6 (0#2 ++ d) (0#2 ++ a) 0#5 0#6)) = 0#2) && decide (fB (wT 0x06#6 (0#2 ++ d) (0#2 ++ a) 0#5 0#6) = 0#5) && decide (fTz (wT 0x06#6 (0#2 ++ d) (0#2 ++ a) 0#5 0#6) = 0#5)) = true; simp) rfl
    (by show Instr.ttrn (lo3 (fD (wT 0x06#6 (0#2 ++ d) (0#2 ++ a) 0#5 0#6))) (lo3 (fA (wT 0x06#6 (0#2 ++ d) (0#2 ++ a) 0#5 0#6))) = _; simp)
theorem readsBack_trowv (d : Reg) (a : Reg3) (b : Reg) : ReadsBack (.trowv d a b) := by
  rintro _ _ _ ⟨⟩ h
  exact decodeSlot_ok (lookup_t 7 0 (by simp) (by simp) rfl)
    (by show (decide (hi2 (fA (wT 0x07#6 d (0#2 ++ a) b 0#6)) = 0#2) && decide (fTz (wT 0x07#6 d (0#2 ++ a) b 0#6) = 0#5)) = true; simp) rfl
    (by show Instr.trowv (fD (wT 0x07#6 d (0#2 ++ a) b 0#6)) (lo3 (fA (wT 0x07#6 d (0#2 ++ a) b 0#6))) (fB (wT 0x07#6 d (0#2 ++ a) b 0#6)) = _; simp)
theorem readsBack_tvrow (d : Reg3) (a : Reg) (b : Reg) : ReadsBack (.tvrow d a b) := by
  rintro _ _ _ ⟨⟩ h
  exact decodeSlot_ok (lookup_t 7 1 (by simp) (by simp) rfl)
    (by show (decide (hi2 (fD (wT 0x07#6 (0#2 ++ d) a b 1#6)) = 0#2) && decide (fTz (wT 0x07#6 (0#2 ++ d) a b 1#6) = 0#5)) = true; simp) rfl
    (by show Instr.tvrow (lo3 (fD (wT 0x07#6 (0#2 ++ d) a b 1#6))) (fA (wT 0x07#6 (0#2 ++ d) a b 1#6)) (fB (wT 0x07#6 (0#2 ++ d) a b 1#6)) = _; simp)
theorem readsBack_xclr  : ReadsBack (.xclr) := by
  rintro _ _ _ ⟨⟩ h
  exact decodeSlot_ok (lookup_t 8 0 (by simp) (by simp) rfl)
    (by show (decide (fD (wT 0x08#6 0#5 0#5 0#5 0#6) = 0#5) && decide (fA (wT 0x08#6 0#5 0#5 0#5 0#6) = 0#5) && decide (fB (wT 0x08#6 0#5 0#5 0#5 0#6) = 0#5) && decide (fTz (wT 0x08#6 0#5 0#5 0#5 0#6) = 0#5)) = true; simp) rfl
    rfl
theorem readsBack_xswap  : ReadsBack (.xswap) := by
  rintro _ _ _ ⟨⟩ h
  exact decodeSlot_ok (lookup_t 9 0 (by simp) (by simp) rfl)
    (by show (decide (fD (wT 0x09#6 0#5 0#5 0#5 0#6) = 0#5) && decide (fA (wT 0x09#6 0#5 0#5 0#5 0#6) = 0#5) && decide (fB (wT 0x09#6 0#5 0#5 0#5 0#6) = 0#5) && decide (fTz (wT 0x09#6 0#5 0#5 0#5 0#6) = 0#5)) = true; simp) rfl
    rfl
theorem readsBack_xsave (a : Reg) : ReadsBack (.xsave a) := by
  rintro _ _ _ ⟨⟩ h
  exact decodeSlot_ok (lookup_t 10 0 (by simp) (by simp) rfl)
    (by show (decide (fD (wT 0x0A#6 0#5 a 0#5 0#6) = 0#5) && decide (fB (wT 0x0A#6 0#5 a 0#5 0#6) = 0#5) && decide (fTz (wT 0x0A#6 0#5 a 0#5 0#6) = 0#5)) = true; simp) rfl
    (by show Instr.xsave (fA (wT 0x0A#6 0#5 a 0#5 0#6)) = _; simp)
theorem readsBack_xload (a : Reg) : ReadsBack (.xload a) := by
  rintro _ _ _ ⟨⟩ h
  exact decodeSlot_ok (lookup_t 11 0 (by simp) (by simp) rfl)
    (by show (decide (fD (wT 0x0B#6 0#5 a 0#5 0#6) = 0#5) && decide (fB (wT 0x0B#6 0#5 a 0#5 0#6) = 0#5) && decide (fTz (wT 0x0B#6 0#5 a 0#5 0#6) = 0#5)) = true; simp) rfl
    (by show Instr.xload (fA (wT 0x0B#6 0#5 a 0#5 0#6)) = _; simp)
theorem readsBack_pcopy (o : PassOp) : ReadsBack (.pcopy o) := by
  rintro _ _ _ ⟨⟩ h
  exact decodeSlot_ok (lookup_w 1 0 (by simp) (by simp) rfl)
    rfl (by rw [← h]; show (Mn.limitsOk _ _ _) = _; simp only [Mn.limitsOk, passOf_wW]; rfl)
    (by show Instr.pcopy (passOf (wW 0x01#6 o.d o.a o.b o.tag 0#5) (xP o)) = _; simp)
theorem readsBack_pgath (o : PassOp) : ReadsBack (.pgath o) := by
  rintro _ _ _ ⟨⟩ h
  exact decodeSlot_ok (lookup_w 2 0 (by simp) (by simp) rfl)
    rfl (by rw [← h]; show (Mn.limitsOk _ _ _) = _; simp only [Mn.limitsOk, passOf_wW]; rfl)
    (by show Instr.pgath (passOf (wW 0x02#6 o.d o.a o.b o.tag 0#5) (xP o)) = _; simp)
theorem readsBack_pscanSumi (o : PassOp) : ReadsBack (.pscanSumi o) := by
  rintro _ _ _ ⟨⟩ h
  exact decodeSlot_ok (lookup_w 3 0 (by simp) (by simp) rfl)
    rfl (by rw [← h]; show (Mn.limitsOk _ _ _) = _; simp only [Mn.limitsOk, passOf_wW]; rfl)
    (by show Instr.pscanSumi (passOf (wW 0x03#6 o.d o.a o.b o.tag 0#5) (xP o)) = _; simp)
theorem readsBack_pscanSumf (o : PassOp) : ReadsBack (.pscanSumf o) := by
  rintro _ _ _ ⟨⟩ h
  exact decodeSlot_ok (lookup_w 3 1 (by simp) (by simp) rfl)
    rfl (by rw [← h]; show (Mn.limitsOk _ _ _) = _; simp only [Mn.limitsOk, passOf_wW]; rfl)
    (by show Instr.pscanSumf (passOf (wW 0x03#6 o.d o.a o.b o.tag 1#5) (xP o)) = _; simp)
theorem readsBack_pscanMin (o : PassOp) : ReadsBack (.pscanMin o) := by
  rintro _ _ _ ⟨⟩ h
  exact decodeSlot_ok (lookup_w 3 2 (by simp) (by simp) rfl)
    rfl (by rw [← h]; show (Mn.limitsOk _ _ _) = _; simp only [Mn.limitsOk, passOf_wW]; rfl)
    (by show Instr.pscanMin (passOf (wW 0x03#6 o.d o.a o.b o.tag 2#5) (xP o)) = _; simp)
theorem readsBack_pscanMax (o : PassOp) : ReadsBack (.pscanMax o) := by
  rintro _ _ _ ⟨⟩ h
  exact decodeSlot_ok (lookup_w 3 3 (by simp) (by simp) rfl)
    rfl (by rw [← h]; show (Mn.limitsOk _ _ _) = _; simp only [Mn.limitsOk, passOf_wW]; rfl)
    (by show Instr.pscanMax (passOf (wW 0x03#6 o.d o.a o.b o.tag 3#5) (xP o)) = _; simp)
theorem readsBack_pscanCount (o : PassOp) : ReadsBack (.pscanCount o) := by
  rintro _ _ _ ⟨⟩ h
  exact decodeSlot_ok (lookup_w 3 4 (by simp) (by simp) rfl)
    rfl (by rw [← h]; show (Mn.limitsOk _ _ _) = _; simp only [Mn.limitsOk, passOf_wW]; rfl)
    (by show Instr.pscanCount (passOf (wW 0x03#6 o.d o.a o.b o.tag 4#5) (xP o)) = _; simp)
theorem readsBack_pfilt (o : PassOp) : ReadsBack (.pfilt o) := by
  rintro _ _ _ ⟨⟩ h
  exact decodeSlot_ok (lookup_w 4 0 (by simp) (by simp) rfl)
    rfl (by rw [← h]; show (Mn.limitsOk _ _ _) = _; simp only [Mn.limitsOk, passOf_wW]; rfl)
    (by show Instr.pfilt (passOf (wW 0x04#6 o.d o.a o.b o.tag 0#5) (xP o)) = _; simp)
theorem readsBack_pput (o : PassOp) : ReadsBack (.pput o) := by
  rintro _ _ _ ⟨⟩ h
  exact decodeSlot_ok (lookup_w 5 0 (by simp) (by simp) rfl)
    rfl (by rw [← h]; show (Mn.limitsOk _ _ _) = _; simp only [Mn.limitsOk, passOf_wW]; rfl)
    (by show Instr.pput (passOf (wW 0x05#6 o.d o.a o.b o.tag 0#5) (xP o)) = _; simp)
theorem readsBack_pupdAddi32 (o : PassOp) : ReadsBack (.pupdAddi32 o) := by
  rintro _ _ _ ⟨⟩ h
  exact decodeSlot_ok (lookup_w 6 0 (by simp) (by simp) rfl)
    rfl (by rw [← h]; show (Mn.limitsOk _ _ _) = _; simp only [Mn.limitsOk, passOf_wW]; rfl)
    (by show Instr.pupdAddi32 (passOf (wW 0x06#6 o.d o.a o.b o.tag 0#5) (xP o)) = _; simp)
theorem readsBack_pupdAddf32 (o : PassOp) : ReadsBack (.pupdAddf32 o) := by
  rintro _ _ _ ⟨⟩ h
  exact decodeSlot_ok (lookup_w 6 1 (by simp) (by simp) rfl)
    rfl (by rw [← h]; show (Mn.limitsOk _ _ _) = _; simp only [Mn.limitsOk, passOf_wW]; rfl)
    (by show Instr.pupdAddf32 (passOf (wW 0x06#6 o.d o.a o.b o.tag 1#5) (xP o)) = _; simp)
theorem readsBack_pupdMini32 (o : PassOp) : ReadsBack (.pupdMini32 o) := by
  rintro _ _ _ ⟨⟩ h
  exact decodeSlot_ok (lookup_w 6 2 (by simp) (by simp) rfl)
    rfl (by rw [← h]; show (Mn.limitsOk _ _ _) = _; simp only [Mn.limitsOk, passOf_wW]; rfl)
    (by show Instr.pupdMini32 (passOf (wW 0x06#6 o.d o.a o.b o.tag 2#5) (xP o)) = _; simp)
theorem readsBack_pupdMaxi32 (o : PassOp) : ReadsBack (.pupdMaxi32 o) := by
  rintro _ _ _ ⟨⟩ h
  exact decodeSlot_ok (lookup_w 6 3 (by simp) (by simp) rfl)
    rfl (by rw [← h]; show (Mn.limitsOk _ _ _) = _; simp only [Mn.limitsOk, passOf_wW]; rfl)
    (by show Instr.pupdMaxi32 (passOf (wW 0x06#6 o.d o.a o.b o.tag 3#5) (xP o)) = _; simp)
theorem readsBack_pupdAnd (o : PassOp) : ReadsBack (.pupdAnd o) := by
  rintro _ _ _ ⟨⟩ h
  exact decodeSlot_ok (lookup_w 6 4 (by simp) (by simp) rfl)
    rfl (by rw [← h]; show (Mn.limitsOk _ _ _) = _; simp only [Mn.limitsOk, passOf_wW]; rfl)
    (by show Instr.pupdAnd (passOf (wW 0x06#6 o.d o.a o.b o.tag 4#5) (xP o)) = _; simp)
theorem readsBack_pupdOr (o : PassOp) : ReadsBack (.pupdOr o) := by
  rintro _ _ _ ⟨⟩ h
  exact decodeSlot_ok (lookup_w 6 5 (by simp) (by simp) rfl)
    rfl (by rw [← h]; show (Mn.limitsOk _ _ _) = _; simp only [Mn.limitsOk, passOf_wW]; rfl)
    (by show Instr.pupdOr (passOf (wW 0x06#6 o.d o.a o.b o.tag 5#5) (xP o)) = _; simp)
theorem readsBack_pupdXor (o : PassOp) : ReadsBack (.pupdXor o) := by
  rintro _ _ _ ⟨⟩ h
  exact decodeSlot_ok (lookup_w 6 6 (by simp) (by simp) rfl)
    rfl (by rw [← h]; show (Mn.limitsOk _ _ _) = _; simp only [Mn.limitsOk, passOf_wW]; rfl)
    (by show Instr.pupdXor (passOf (wW 0x06#6 o.d o.a o.b o.tag 6#5) (xP o)) = _; simp)
theorem readsBack_pupdSwap (o : PassOp) : ReadsBack (.pupdSwap o) := by
  rintro _ _ _ ⟨⟩ h
  exact decodeSlot_ok (lookup_w 6 7 (by simp) (by simp) rfl)
    rfl (by rw [← h]; show (Mn.limitsOk _ _ _) = _; simp only [Mn.limitsOk, passOf_wW]; rfl)
    (by show Instr.pupdSwap (passOf (wW 0x06#6 o.d o.a o.b o.tag 7#5) (xP o)) = _; simp)
theorem readsBack_pupdoAddf32 (o : PassOp) : ReadsBack (.pupdoAddf32 o) := by
  rintro _ _ _ ⟨⟩ h
  exact decodeSlot_ok (lookup_w 7 0 (by simp) (by simp) rfl)
    rfl (by rw [← h]; show (Mn.limitsOk _ _ _) = _; simp only [Mn.limitsOk, passOf_wW]; rfl)
    (by show Instr.pupdoAddf32 (passOf (wW 0x07#6 o.d o.a o.b o.tag 0#5) (xP o)) = _; simp)
theorem readsBack_pupdoAddi32 (o : PassOp) : ReadsBack (.pupdoAddi32 o) := by
  rintro _ _ _ ⟨⟩ h
  exact decodeSlot_ok (lookup_w 7 1 (by simp) (by simp) rfl)
    rfl (by rw [← h]; show (Mn.limitsOk _ _ _) = _; simp only [Mn.limitsOk, passOf_wW]; rfl)
    (by show Instr.pupdoAddi32 (passOf (wW 0x07#6 o.d o.a o.b o.tag 1#5) (xP o)) = _; simp)
theorem readsBack_pcmt (o : PassOp) : ReadsBack (.pcmt o) := by
  rintro _ _ _ ⟨⟩ h
  exact decodeSlot_ok (lookup_w 8 0 (by simp) (by simp) rfl)
    rfl (by rw [← h]; show (Mn.limitsOk _ _ _) = _; simp only [Mn.limitsOk, passOf_wW]; rfl)
    (by show Instr.pcmt (passOf (wW 0x08#6 o.d o.a o.b o.tag 0#5) (xP o)) = _; simp)
theorem readsBack_padam (o : PassOp) : ReadsBack (.padam o) := by
  rintro _ _ _ ⟨⟩ h
  exact decodeSlot_ok (lookup_w 9 0 (by simp) (by simp) rfl)
    rfl (by rw [← h]; show (Mn.limitsOk _ _ _) = _; simp only [Mn.limitsOk, passOf_wW]; rfl)
    (by show Instr.padam (passOf (wW 0x09#6 o.d o.a o.b o.tag 0#5) (xP o)) = _; simp)
theorem readsBack_pzero (o : PassOp) : ReadsBack (.pzero o) := by
  rintro _ _ _ ⟨⟩ h
  exact decodeSlot_ok (lookup_w 10 0 (by simp) (by simp) rfl)
    rfl (by rw [← h]; show (Mn.limitsOk _ _ _) = _; simp only [Mn.limitsOk, passOf_wW]; rfl)
    (by show Instr.pzero (passOf (wW 0x0A#6 o.d o.a o.b o.tag 0#5) (xP o)) = _; simp)
theorem readsBack_pzeroPhys (o : PassOp) : ReadsBack (.pzeroPhys o) := by
  rintro _ _ _ ⟨⟩ h
  exact decodeSlot_ok (lookup_w 10 1 (by simp) (by simp) rfl)
    rfl (by rw [← h]; show (Mn.limitsOk _ _ _) = _; simp only [Mn.limitsOk, passOf_wW]; rfl)
    (by show Instr.pzeroPhys (passOf (wW 0x0A#6 o.d o.a o.b o.tag 1#5) (xP o)) = _; simp)
theorem readsBack_phostIn (o : PassOp) : ReadsBack (.phostIn o) := by
  rintro _ _ _ ⟨⟩ h
  exact decodeSlot_ok (lookup_w 11 0 (by simp) (by simp) rfl)
    rfl (by rw [← h]; show (Mn.limitsOk _ _ _) = _; simp only [Mn.limitsOk, passOf_wW]; rfl)
    (by show Instr.phostIn (passOf (wW 0x0B#6 o.d o.a o.b o.tag 0#5) (xP o)) = _; simp)
theorem readsBack_phostOut (o : PassOp) : ReadsBack (.phostOut o) := by
  rintro _ _ _ ⟨⟩ h
  exact decodeSlot_ok (lookup_w 11 1 (by simp) (by simp) rfl)
    rfl (by rw [← h]; show (Mn.limitsOk _ _ _) = _; simp only [Mn.limitsOk, passOf_wW]; rfl)
    (by show Instr.phostOut (passOf (wW 0x0B#6 o.d o.a o.b o.tag 1#5) (xP o)) = _; simp)
theorem readsBack_pmatWrite (o : PassOp) : ReadsBack (.pmatWrite o) := by
  rintro _ _ _ ⟨⟩ h
  exact decodeSlot_ok (lookup_w 12 0 (by simp) (by simp) rfl)
    rfl (by rw [← h]; show (Mn.limitsOk _ _ _) = _; simp only [Mn.limitsOk, passOf_wW]; rfl)
    (by show Instr.pmatWrite (passOf (wW 0x0C#6 o.d o.a o.b o.tag 0#5) (xP o)) = _; simp)
theorem readsBack_pmatAccum (o : PassOp) : ReadsBack (.pmatAccum o) := by
  rintro _ _ _ ⟨⟩ h
  exact decodeSlot_ok (lookup_w 12 1 (by simp) (by simp) rfl)
    rfl (by rw [← h]; show (Mn.limitsOk _ _ _) = _; simp only [Mn.limitsOk, passOf_wW]; rfl)
    (by show Instr.pmatAccum (passOf (wW 0x0C#6 o.d o.a o.b o.tag 1#5) (xP o)) = _; simp)
theorem readsBack_preop (a : Reg) : ReadsBack (.preop a) := by
  rintro _ _ _ ⟨⟩ h
  exact decodeSlot_ok (lookup_w 13 0 (by simp) (by simp) rfl)
    (by show (decide (fD (wW 0x0D#6 0#5 a 0#5 0#6 0#5) = 0#5) && decide (fB (wW 0x0D#6 0#5 a 0#5 0#6 0#5) = 0#5) && decide (fTag (wW 0x0D#6 0#5 a 0#5 0#6 0#5) = 0#6)) = true; simp) rfl
    (by show Instr.preop (fA (wW 0x0D#6 0#5 a 0#5 0#6 0#5)) = _; simp)
theorem readsBack_pcanc (a : Reg) : ReadsBack (.pcanc a) := by
  rintro _ _ _ ⟨⟩ h
  exact decodeSlot_ok (lookup_w 14 0 (by simp) (by simp) rfl)
    (by show (decide (fD (wW 0x0E#6 0#5 a 0#5 0#6 0#5) = 0#5) && decide (fB (wW 0x0E#6 0#5 a 0#5 0#6 0#5) = 0#5) && decide (fTag (wW 0x0E#6 0#5 a 0#5 0#6 0#5) = 0#6)) = true; simp) rfl
    (by show Instr.pcanc (fA (wW 0x0E#6 0#5 a 0#5 0#6 0#5)) = _; simp)
theorem readsBack_pfence  : ReadsBack (.pfence) := by
  rintro _ _ _ ⟨⟩ h
  exact decodeSlot_ok (lookup_w 15 0 (by simp) (by simp) rfl)
    (by show (decide (fD (wW 0x0F#6 0#5 0#5 0#5 0#6 0#5) = 0#5) && decide (fA (wW 0x0F#6 0#5 0#5 0#5 0#6 0#5) = 0#5) && decide (fB (wW 0x0F#6 0#5 0#5 0#5 0#6 0#5) = 0#5) && decide (fTag (wW 0x0F#6 0#5 0#5 0#5 0#6 0#5) = 0#6)) = true; simp) rfl
    rfl
theorem readsBack_twany (a : Reg) : ReadsBack (.twany a) := by
  rintro _ _ _ ⟨⟩ h
  exact decodeSlot_ok (lookup_w 16 0 (by simp) (by simp) rfl)
    (by show (decide (fD (wW 0x10#6 0#5 a 0#5 0#6 0#5) = 0#5) && decide (fB (wW 0x10#6 0#5 a 0#5 0#6 0#5) = 0#5) && decide (fTag (wW 0x10#6 0#5 a 0#5 0#6 0#5) = 0#6)) = true; simp) rfl
    (by show Instr.twany (fA (wW 0x10#6 0#5 a 0#5 0#6 0#5)) = _; simp)
theorem readsBack_twall (a : Reg) : ReadsBack (.twall a) := by
  rintro _ _ _ ⟨⟩ h
  exact decodeSlot_ok (lookup_w 17 0 (by simp) (by simp) rfl)
    (by show (decide (fD (wW 0x11#6 0#5 a 0#5 0#6 0#5) = 0#5) && decide (fB (wW 0x11#6 0#5 a 0#5 0#6 0#5) = 0#5) && decide (fTag (wW 0x11#6 0#5 a 0#5 0#6 0#5) = 0#6)) = true; simp) rfl
    (by show Instr.twall (fA (wW 0x11#6 0#5 a 0#5 0#6 0#5)) = _; simp)
theorem readsBack_tfirst (d : Reg) (a : Reg) : ReadsBack (.tfirst d a) := by
  rintro _ _ _ ⟨⟩ h
  exact decodeSlot_ok (lookup_w 18 0 (by simp) (by simp) rfl)
    (by show (decide (fB (wW 0x12#6 d a 0#5 0#6 0#5) = 0#5) && decide (fTag (wW 0x12#6 d a 0#5 0#6 0#5) = 0#6)) = true; simp) rfl
    (by show Instr.tfirst (fD (wW 0x12#6 d a 0#5 0#6 0#5)) (fA (wW 0x12#6 d a 0#5 0#6 0#5)) = _; simp)
theorem readsBack_tclr (a : Reg) : ReadsBack (.tclr a) := by
  rintro _ _ _ ⟨⟩ h
  exact decodeSlot_ok (lookup_w 19 0 (by simp) (by simp) rfl)
    (by show (decide (fD (wW 0x13#6 0#5 a 0#5 0#6 0#5) = 0#5) && decide (fB (wW 0x13#6 0#5 a 0#5 0#6 0#5) = 0#5) && decide (fTag (wW 0x13#6 0#5 a 0#5 0#6 0#5) = 0#6)) = true; simp) rfl
    (by show Instr.tclr (fA (wW 0x13#6 0#5 a 0#5 0#6 0#5)) = _; simp)
theorem readsBack_cwait (a : Reg) : ReadsBack (.cwait a) := by
  rintro _ _ _ ⟨⟩ h
  exact decodeSlot_ok (lookup_w 20 0 (by simp) (by simp) rfl)
    (by show (decide (fD (wW 0x14#6 0#5 a 0#5 0#6 0#5) = 0#5) && decide (fB (wW 0x14#6 0#5 a 0#5 0#6 0#5) = 0#5) && decide (fTag (wW 0x14#6 0#5 a 0#5 0#6 0#5) = 0#6)) = true; simp) rfl
    (by show Instr.cwait (fA (wW 0x14#6 0#5 a 0#5 0#6 0#5)) = _; simp)
theorem readsBack_prnd  : ReadsBack (.prnd) := by
  rintro _ _ _ ⟨⟩ h
  exact decodeSlot_ok (lookup_w 21 0 (by simp) (by simp) rfl)
    (by show (decide (fD (wW 0x15#6 0#5 0#5 0#5 0#6 0#5) = 0#5) && decide (fA (wW 0x15#6 0#5 0#5 0#5 0#6 0#5) = 0#5) && decide (fB (wW 0x15#6 0#5 0#5 0#5 0#6 0#5) = 0#5) && decide (fTag (wW 0x15#6 0#5 0#5 0#5 0#6 0#5) = 0#6)) = true; simp) rfl
    rfl
theorem readsBack_lsendV (a : Reg) (fold : BitVec 2) (port : BitVec 4) : ReadsBack (.lsendV a fold port) := by
  rintro _ _ _ ⟨⟩ h
  exact decodeSlot_ok (lookup_l 1 0 _ (by simp) (by simp) rfl rfl)
    (by show (decide (fD (wL 0x01#6 0#5 a 0#5 fold port 0#5) = 0#5) && decide (fB (wL 0x01#6 0#5 a 0#5 fold port 0#5) = 0#5) && decide (lo4 (fSub5 (wL 0x01#6 0#5 a 0#5 fold port 0#5)) = 0#4)) = true; simp [lo4]) (by simpa [Mn.limitsOk, Instr.wellFormed] using h)
    (by show Instr.lsendV (fA (wL 0x01#6 0#5 a 0#5 fold port 0#5)) (fFold (wL 0x01#6 0#5 a 0#5 fold port 0#5)) (fPort (wL 0x01#6 0#5 a 0#5 fold port 0#5)) = _; simp)
theorem readsBack_lsendS (a : Reg) (port : BitVec 4) : ReadsBack (.lsendS a port) := by
  rintro _ _ _ ⟨⟩ h
  exact decodeSlot_ok (lookup_l 1 16 _ (by simp) (by simp) rfl rfl)
    (by show (decide (fD (wL 0x01#6 0#5 a 0#5 0#2 port 16#5) = 0#5) && decide (fB (wL 0x01#6 0#5 a 0#5 0#2 port 16#5) = 0#5) && decide (fFold (wL 0x01#6 0#5 a 0#5 0#2 port 16#5) = 0#2) && decide (lo4 (fSub5 (wL 0x01#6 0#5 a 0#5 0#2 port 16#5)) = 0#4)) = true; simp [lo4]) (by simpa [Mn.limitsOk, Instr.wellFormed] using h)
    (by show Instr.lsendS (fA (wL 0x01#6 0#5 a 0#5 0#2 port 16#5)) (fPort (wL 0x01#6 0#5 a 0#5 0#2 port 16#5)) = _; simp)
theorem readsBack_lrecv (d : Reg) (fold : BitVec 2) (port : BitVec 4) : ReadsBack (.lrecv d fold port) := by
  rintro _ _ _ ⟨⟩ h
  exact decodeSlot_ok (lookup_l 2 0 _ (by simp) (by simp) rfl rfl)
    (by show (decide (fA (wL 0x02#6 d 0#5 0#5 fold port 0#5) = 0#5) && decide (fB (wL 0x02#6 d 0#5 0#5 fold port 0#5) = 0#5)) = true; simp) (by simpa [Mn.limitsOk, Instr.wellFormed] using h)
    (by show Instr.lrecv (fD (wL 0x02#6 d 0#5 0#5 fold port 0#5)) (fFold (wL 0x02#6 d 0#5 0#5 fold port 0#5)) (fPort (wL 0x02#6 d 0#5 0#5 fold port 0#5)) = _; simp)
theorem readsBack_lput (a : Reg) (b : Reg) (fold : BitVec 2) (port : BitVec 4) : ReadsBack (.lput a b fold port) := by
  rintro _ _ _ ⟨⟩ h
  exact decodeSlot_ok (lookup_l 3 0 _ (by simp) (by simp) rfl rfl)
    (by show (decide (fD (wL 0x03#6 0#5 a b fold port 0#5) = 0#5)) = true; simp) (by simpa [Mn.limitsOk, Instr.wellFormed] using h)
    (by show Instr.lput (fA (wL 0x03#6 0#5 a b fold port 0#5)) (fB (wL 0x03#6 0#5 a b fold port 0#5)) (fFold (wL 0x03#6 0#5 a b fold port 0#5)) (fPort (wL 0x03#6 0#5 a b fold port 0#5)) = _; simp)
theorem readsBack_lamoAdd32 (a : Reg) (b : Reg) (fold : BitVec 2) (port : BitVec 4) : ReadsBack (.lamoAdd32 a b fold port) := by
  rintro _ _ _ ⟨⟩ h
  exact decodeSlot_ok (lookup_l 4 0 _ (by simp) (by simp) rfl rfl)
    (by show (decide (fD (wL 0x04#6 0#5 a b fold port 0#5) = 0#5)) = true; simp) (by simpa [Mn.limitsOk, Instr.wellFormed] using h)
    (by show Instr.lamoAdd32 (fA (wL 0x04#6 0#5 a b fold port 0#5)) (fB (wL 0x04#6 0#5 a b fold port 0#5)) (fFold (wL 0x04#6 0#5 a b fold port 0#5)) (fPort (wL 0x04#6 0#5 a b fold port 0#5)) = _; simp)
theorem readsBack_lamoFadd32 (a : Reg) (b : Reg) (fold : BitVec 2) (port : BitVec 4) : ReadsBack (.lamoFadd32 a b fold port) := by
  rintro _ _ _ ⟨⟩ h
  exact decodeSlot_ok (lookup_l 4 1 _ (by simp) (by simp) rfl rfl)
    (by show (decide (fD (wL 0x04#6 0#5 a b fold port 1#5) = 0#5)) = true; simp) (by simpa [Mn.limitsOk, Instr.wellFormed] using h)
    (by show Instr.lamoFadd32 (fA (wL 0x04#6 0#5 a b fold port 1#5)) (fB (wL 0x04#6 0#5 a b fold port 1#5)) (fFold (wL 0x04#6 0#5 a b fold port 1#5)) (fPort (wL 0x04#6 0#5 a b fold port 1#5)) = _; simp)
theorem readsBack_lamoMin32 (a : Reg) (b : Reg) (fold : BitVec 2) (port : BitVec 4) : ReadsBack (.lamoMin32 a b fold port) := by
  rintro _ _ _ ⟨⟩ h
  exact decodeSlot_ok (lookup_l 4 2 _ (by simp) (by simp) rfl rfl)
    (by show (decide (fD (wL 0x04#6 0#5 a b fold port 2#5) = 0#5)) = true; simp) (by simpa [Mn.limitsOk, Instr.wellFormed] using h)
    (by show Instr.lamoMin32 (fA (wL 0x04#6 0#5 a b fold port 2#5)) (fB (wL 0x04#6 0#5 a b fold port 2#5)) (fFold (wL 0x04#6 0#5 a b fold port 2#5)) (fPort (wL 0x04#6 0#5 a b fold port 2#5)) = _; simp)
theorem readsBack_lamoMax32 (a : Reg) (b : Reg) (fold : BitVec 2) (port : BitVec 4) : ReadsBack (.lamoMax32 a b fold port) := by
  rintro _ _ _ ⟨⟩ h
  exact decodeSlot_ok (lookup_l 4 3 _ (by simp) (by simp) rfl rfl)
    (by show (decide (fD (wL 0x04#6 0#5 a b fold port 3#5) = 0#5)) = true; simp) (by simpa [Mn.limitsOk, Instr.wellFormed] using h)
    (by show Instr.lamoMax32 (fA (wL 0x04#6 0#5 a b fold port 3#5)) (fB (wL 0x04#6 0#5 a b fold port 3#5)) (fFold (wL 0x04#6 0#5 a b fold port 3#5)) (fPort (wL 0x04#6 0#5 a b fold port 3#5)) = _; simp)
theorem readsBack_barDie (k : BitVec 4) : ReadsBack (.barDie k) := by
  rintro _ _ _ ⟨⟩ h
  exact decodeSlot_ok (lookup_l 5 0 _ (by simp) (by simp) rfl rfl)
    (by show (decide (hi1 (fD (wL 0x05#6 (0#1 ++ k) 0#5 0#5 0#2 0#4 0#5)) = 0#1) && decide (fA (wL 0x05#6 (0#1 ++ k) 0#5 0#5 0#2 0#4 0#5) = 0#5) && decide (fB (wL 0x05#6 (0#1 ++ k) 0#5 0#5 0#2 0#4 0#5) = 0#5) && decide (fFold (wL 0x05#6 (0#1 ++ k) 0#5 0#5 0#2 0#4 0#5) = 0#2) && decide (fPort (wL 0x05#6 (0#1 ++ k) 0#5 0#5 0#2 0#4 0#5) = 0#4)) = true; simp) rfl
    (by show Instr.barDie (lo4 (fD (wL 0x05#6 (0#1 ++ k) 0#5 0#5 0#2 0#4 0#5))) = _; simp)
theorem readsBack_barLaunch (k : BitVec 4) : ReadsBack (.barLaunch k) := by
  rintro _ _ _ ⟨⟩ h
  exact decodeSlot_ok (lookup_l 5 1 _ (by simp) (by simp) rfl rfl)
    (by show (decide (hi1 (fD (wL 0x05#6 (0#1 ++ k) 0#5 0#5 0#2 0#4 1#5)) = 0#1) && decide (fA (wL 0x05#6 (0#1 ++ k) 0#5 0#5 0#2 0#4 1#5) = 0#5) && decide (fB (wL 0x05#6 (0#1 ++ k) 0#5 0#5 0#2 0#4 1#5) = 0#5) && decide (fFold (wL 0x05#6 (0#1 ++ k) 0#5 0#5 0#2 0#4 1#5) = 0#2) && decide (fPort (wL 0x05#6 (0#1 ++ k) 0#5 0#5 0#2 0#4 1#5) = 0#4)) = true; simp) rfl
    (by show Instr.barLaunch (lo4 (fD (wL 0x05#6 (0#1 ++ k) 0#5 0#5 0#2 0#4 1#5))) = _; simp)
theorem readsBack_barSys (k : BitVec 4) : ReadsBack (.barSys k) := by
  rintro _ _ _ ⟨⟩ h
  exact decodeSlot_ok (lookup_l 5 2 _ (by simp) (by simp) rfl rfl)
    (by show (decide (hi1 (fD (wL 0x05#6 (0#1 ++ k) 0#5 0#5 0#2 0#4 2#5)) = 0#1) && decide (fA (wL 0x05#6 (0#1 ++ k) 0#5 0#5 0#2 0#4 2#5) = 0#5) && decide (fB (wL 0x05#6 (0#1 ++ k) 0#5 0#5 0#2 0#4 2#5) = 0#5) && decide (fFold (wL 0x05#6 (0#1 ++ k) 0#5 0#5 0#2 0#4 2#5) = 0#2) && decide (fPort (wL 0x05#6 (0#1 ++ k) 0#5 0#5 0#2 0#4 2#5) = 0#4)) = true; simp) rfl
    (by show Instr.barSys (lo4 (fD (wL 0x05#6 (0#1 ++ k) 0#5 0#5 0#2 0#4 2#5))) = _; simp)
theorem readsBack_baraDie (k : BitVec 4) : ReadsBack (.baraDie k) := by
  rintro _ _ _ ⟨⟩ h
  exact decodeSlot_ok (lookup_l 6 0 _ (by simp) (by simp) rfl rfl)
    (by show (decide (hi1 (fD (wL 0x06#6 (0#1 ++ k) 0#5 0#5 0#2 0#4 0#5)) = 0#1) && decide (fA (wL 0x06#6 (0#1 ++ k) 0#5 0#5 0#2 0#4 0#5) = 0#5) && decide (fB (wL 0x06#6 (0#1 ++ k) 0#5 0#5 0#2 0#4 0#5) = 0#5) && decide (fFold (wL 0x06#6 (0#1 ++ k) 0#5 0#5 0#2 0#4 0#5) = 0#2) && decide (fPort (wL 0x06#6 (0#1 ++ k) 0#5 0#5 0#2 0#4 0#5) = 0#4)) = true; simp) rfl
    (by show Instr.baraDie (lo4 (fD (wL 0x06#6 (0#1 ++ k) 0#5 0#5 0#2 0#4 0#5))) = _; simp)
theorem readsBack_baraLaunch (k : BitVec 4) : ReadsBack (.baraLaunch k) := by
  rintro _ _ _ ⟨⟩ h
  exact decodeSlot_ok (lookup_l 6 1 _ (by simp) (by simp) rfl rfl)
    (by show (decide (hi1 (fD (wL 0x06#6 (0#1 ++ k) 0#5 0#5 0#2 0#4 1#5)) = 0#1) && decide (fA (wL 0x06#6 (0#1 ++ k) 0#5 0#5 0#2 0#4 1#5) = 0#5) && decide (fB (wL 0x06#6 (0#1 ++ k) 0#5 0#5 0#2 0#4 1#5) = 0#5) && decide (fFold (wL 0x06#6 (0#1 ++ k) 0#5 0#5 0#2 0#4 1#5) = 0#2) && decide (fPort (wL 0x06#6 (0#1 ++ k) 0#5 0#5 0#2 0#4 1#5) = 0#4)) = true; simp) rfl
    (by show Instr.baraLaunch (lo4 (fD (wL 0x06#6 (0#1 ++ k) 0#5 0#5 0#2 0#4 1#5))) = _; simp)
theorem readsBack_baraSys (k : BitVec 4) : ReadsBack (.baraSys k) := by
  rintro _ _ _ ⟨⟩ h
  exact decodeSlot_ok (lookup_l 6 2 _ (by simp) (by simp) rfl rfl)
    (by show (decide (hi1 (fD (wL 0x06#6 (0#1 ++ k) 0#5 0#5 0#2 0#4 2#5)) = 0#1) && decide (fA (wL 0x06#6 (0#1 ++ k) 0#5 0#5 0#2 0#4 2#5) = 0#5) && decide (fB (wL 0x06#6 (0#1 ++ k) 0#5 0#5 0#2 0#4 2#5) = 0#5) && decide (fFold (wL 0x06#6 (0#1 ++ k) 0#5 0#5 0#2 0#4 2#5) = 0#2) && decide (fPort (wL 0x06#6 (0#1 ++ k) 0#5 0#5 0#2 0#4 2#5) = 0#4)) = true; simp) rfl
    (by show Instr.baraSys (lo4 (fD (wL 0x06#6 (0#1 ++ k) 0#5 0#5 0#2 0#4 2#5))) = _; simp)
theorem readsBack_barw (k : BitVec 4) : ReadsBack (.barw k) := by
  rintro _ _ _ ⟨⟩ h
  exact decodeSlot_ok (lookup_l 7 0 _ (by simp) (by simp) rfl rfl)
    (by show (decide (hi1 (fD (wL 0x07#6 (0#1 ++ k) 0#5 0#5 0#2 0#4 0#5)) = 0#1) && decide (fA (wL 0x07#6 (0#1 ++ k) 0#5 0#5 0#2 0#4 0#5) = 0#5) && decide (fB (wL 0x07#6 (0#1 ++ k) 0#5 0#5 0#2 0#4 0#5) = 0#5) && decide (fFold (wL 0x07#6 (0#1 ++ k) 0#5 0#5 0#2 0#4 0#5) = 0#2) && decide (fPort (wL 0x07#6 (0#1 ++ k) 0#5 0#5 0#2 0#4 0#5) = 0#4)) = true; simp) rfl
    (by show Instr.barw (lo4 (fD (wL 0x07#6 (0#1 ++ k) 0#5 0#5 0#2 0#4 0#5))) = _; simp)
theorem readsBack_cbacq (d : Reg) (a : Reg) : ReadsBack (.cbacq d a) := by
  rintro _ _ _ ⟨⟩ h
  exact decodeSlot_ok (lookup_l 8 0 _ (by simp) (by simp) rfl rfl)
    (by show (decide (fB (wL 0x08#6 d a 0#5 0#2 0#4 0#5) = 0#5) && decide (fFold (wL 0x08#6 d a 0#5 0#2 0#4 0#5) = 0#2) && decide (fPort (wL 0x08#6 d a 0#5 0#2 0#4 0#5) = 0#4)) = true; simp) rfl
    (by show Instr.cbacq (fD (wL 0x08#6 d a 0#5 0#2 0#4 0#5)) (fA (wL 0x08#6 d a 0#5 0#2 0#4 0#5)) = _; simp)
theorem readsBack_cbcomLocal (a : Reg) : ReadsBack (.cbcomLocal a) := by
  rintro _ _ _ ⟨⟩ h
  exact decodeSlot_ok (lookup_l 9 0 true (by simp) (by simp) (by simp) rfl)
    (by show (decide (fD (wL 0x09#6 0#5 a 0#5 0#2 15#4 0#5) = 0#5) && decide (fB (wL 0x09#6 0#5 a 0#5 0#2 15#4 0#5) = 0#5) && decide (fFold (wL 0x09#6 0#5 a 0#5 0#2 15#4 0#5) = 0#2)) = true; simp) rfl
    (by show Instr.cbcomLocal (fA (wL 0x09#6 0#5 a 0#5 0#2 15#4 0#5)) = _; simp)
theorem readsBack_cbcomRemote (a : Reg) (b : Reg) (fold : BitVec 2) (port : BitVec 4) : ReadsBack (.cbcomRemote a b fold port) := by
  rintro _ _ _ ⟨⟩ h
  exact decodeSlot_ok (lookup_l 9 0 false (by simp) (by simp) (by simpa [Instr.wellFormed] using h) rfl)
    (by show (decide (fD (wL 0x09#6 0#5 a b fold port 0#5) = 0#5)) = true; simp) (by simpa [Mn.limitsOk, Instr.wellFormed] using h)
    (by show Instr.cbcomRemote (fA (wL 0x09#6 0#5 a b fold port 0#5)) (fB (wL 0x09#6 0#5 a b fold port 0#5)) (fFold (wL 0x09#6 0#5 a b fold port 0#5)) (fPort (wL 0x09#6 0#5 a b fold port 0#5)) = _; simp)
theorem readsBack_cbwait (d : Reg) (a : Reg) : ReadsBack (.cbwait d a) := by
  rintro _ _ _ ⟨⟩ h
  exact decodeSlot_ok (lookup_l 10 0 _ (by simp) (by simp) rfl rfl)
    (by show (decide (fB (wL 0x0A#6 d a 0#5 0#2 0#4 0#5) = 0#5) && decide (fFold (wL 0x0A#6 d a 0#5 0#2 0#4 0#5) = 0#2) && decide (fPort (wL 0x0A#6 d a 0#5 0#2 0#4 0#5) = 0#4)) = true; simp) rfl
    (by show Instr.cbwait (fD (wL 0x0A#6 d a 0#5 0#2 0#4 0#5)) (fA (wL 0x0A#6 d a 0#5 0#2 0#4 0#5)) = _; simp)
theorem readsBack_cbrel (a : Reg) : ReadsBack (.cbrel a) := by
  rintro _ _ _ ⟨⟩ h
  exact decodeSlot_ok (lookup_l 11 0 _ (by simp) (by simp) rfl rfl)
    (by show (decide (fD (wL 0x0B#6 0#5 a 0#5 0#2 0#4 0#5) = 0#5) && decide (fB (wL 0x0B#6 0#5 a 0#5 0#2 0#4 0#5) = 0#5) && decide (fFold (wL 0x0B#6 0#5 a 0#5 0#2 0#4 0#5) = 0#2) && decide (fPort (wL 0x0B#6 0#5 a 0#5 0#2 0#4 0#5) = 0#4)) = true; simp) rfl
    (by show Instr.cbrel (fA (wL 0x0B#6 0#5 a 0#5 0#2 0#4 0#5)) = _; simp)
theorem readsBack_belay (a : Reg) : ReadsBack (.belay a) := by
  rintro _ _ _ ⟨⟩ h
  exact decodeSlot_ok (lookup_l 12 0 _ (by simp) (by simp) rfl rfl)
    (by show (decide (fD (wL 0x0C#6 0#5 a 0#5 0#2 0#4 0#5) = 0#5) && decide (fB (wL 0x0C#6 0#5 a 0#5 0#2 0#4 0#5) = 0#5) && decide (fFold (wL 0x0C#6 0#5 a 0#5 0#2 0#4 0#5) = 0#2) && decide (fPort (wL 0x0C#6 0#5 a 0#5 0#2 0#4 0#5) = 0#4)) = true; simp) rfl
    (by show Instr.belay (fA (wL 0x0C#6 0#5 a 0#5 0#2 0#4 0#5)) = _; simp)
theorem readsBack_waitt (a : Reg) : ReadsBack (.waitt a) := by
  rintro _ _ _ ⟨⟩ h
  exact decodeSlot_ok (lookup_l 13 0 _ (by simp) (by simp) rfl rfl)
    (by show (decide (fD (wL 0x0D#6 0#5 a 0#5 0#2 0#4 0#5) = 0#5) && decide (fB (wL 0x0D#6 0#5 a 0#5 0#2 0#4 0#5) = 0#5) && decide (fFold (wL 0x0D#6 0#5 a 0#5 0#2 0#4 0#5) = 0#2) && decide (fPort (wL 0x0D#6 0#5 a 0#5 0#2 0#4 0#5) = 0#4)) = true; simp) rfl
    (by show Instr.waitt (fA (wL 0x0D#6 0#5 a 0#5 0#2 0#4 0#5)) = _; simp)
theorem readsBack_tstmp (d : Reg) : ReadsBack (.tstmp d) := by
  rintro _ _ _ ⟨⟩ h
  exact decodeSlot_ok (lookup_l 14 0 _ (by simp) (by simp) rfl rfl)
    (by show (decide (fA (wL 0x0E#6 d 0#5 0#5 0#2 0#4 0#5) = 0#5) && decide (fB (wL 0x0E#6 d 0#5 0#5 0#2 0#4 0#5) = 0#5) && decide (fFold (wL 0x0E#6 d 0#5 0#5 0#2 0#4 0#5) = 0#2) && decide (fPort (wL 0x0E#6 d 0#5 0#5 0#2 0#4 0#5) = 0#4)) = true; simp) (by simpa [Mn.limitsOk, Instr.wellFormed] using h)
    (by show Instr.tstmp (fD (wL 0x0E#6 d 0#5 0#5 0#2 0#4 0#5)) = _; simp)
theorem readsBack_launch (a : Reg) : ReadsBack (.launch a) := by
  rintro _ _ _ ⟨⟩ h
  exact decodeSlot_ok (lookup_l 15 0 _ (by simp) (by simp) rfl rfl)
    (by show (decide (fD (wL 0x0F#6 0#5 a 0#5 0#2 0#4 0#5) = 0#5) && decide (fB (wL 0x0F#6 0#5 a 0#5 0#2 0#4 0#5) = 0#5) && decide (fFold (wL 0x0F#6 0#5 a 0#5 0#2 0#4 0#5) = 0#2) && decide (fPort (wL 0x0F#6 0#5 a 0#5 0#2 0#4 0#5) = 0#4)) = true; simp) rfl
    (by show Instr.launch (fA (wL 0x0F#6 0#5 a 0#5 0#2 0#4 0#5)) = _; simp)
theorem readsBack_ljoin (a : Reg) : ReadsBack (.ljoin a) := by
  rintro _ _ _ ⟨⟩ h
  exact decodeSlot_ok (lookup_l 16 0 _ (by simp) (by simp) rfl rfl)
    (by show (decide (fD (wL 0x10#6 0#5 a 0#5 0#2 0#4 0#5) = 0#5) && decide (fB (wL 0x10#6 0#5 a 0#5 0#2 0#4 0#5) = 0#5) && decide (fFold (wL 0x10#6 0#5 a 0#5 0#2 0#4 0#5) = 0#2) && decide (fPort (wL 0x10#6 0#5 a 0#5 0#2 0#4 0#5) = 0#4)) = true; simp) rfl
    (by show Instr.ljoin (fA (wL 0x10#6 0#5 a 0#5 0#2 0#4 0#5)) = _; simp)

end Sys2Proof
end

