-- ==== Sys2Proof/Laws/Mem.lean ====
section
/-! SUPPORT. The laws of sparse stores: a read after a write, and the canonical form. -/

namespace Sys2Proof

theorem SMap.get_dropTo {α : Type} (d : α) (k : Nat) : ∀ (m : SMap α) (j : Nat), k < j →
    SMap.get d (SMap.dropTo k m) j = SMap.get d m j := by
  intro m j h
  induction m with
  | nil => rfl
  | cons e r ih =>
    obtain ⟨k', v⟩ := e
    by_cases hk : k' ≤ k
    · simp only [SMap.dropTo, hk, if_true, ih, SMap.get]
      rw [if_neg (by omega), if_neg (by omega)]
    · simp [SMap.dropTo, hk]

theorem SMap.get_dropTo_le {α : Type} (d : α) (k : Nat) : ∀ (m : SMap α) (j : Nat), j ≤ k →
    SMap.get d (SMap.dropTo k m) j = d := by
  intro m j h
  induction m with
  | nil => rfl
  | cons e r ih =>
    obtain ⟨k', v⟩ := e
    by_cases hk : k' ≤ k
    · simp [SMap.dropTo, hk, ih]
    · simp only [SMap.dropTo, hk, if_false, SMap.get]
      rw [if_pos (by omega)]

/-- A read after a write to the same key gives the value written. -/
@[simp] theorem SMap.get_set_same {α : Type} [DecidableEq α] (d : α) : ∀ (m : SMap α) (k : Nat) (v : α),
    SMap.get d (SMap.set d m k v) k = v := by
  intro m k v
  induction m with
  | nil =>
    by_cases h : v = d
    · simp [SMap.set, SMap.get, h]
    · simp [SMap.set, SMap.get, h]
  | cons e r ih =>
    obtain ⟨k', v'⟩ := e
    simp only [SMap.set]
    split
    · split
      · subst_vars; simp [SMap.get, *]
      · simp [SMap.get]
    · split
      · split
        · subst_vars; exact SMap.get_dropTo_le _ _ _ _ (Nat.le_refl _)
        · simp [SMap.get]
      · simp [SMap.get, *]

/-- A write leaves every other key alone. -/
theorem SMap.get_set_other {α : Type} [DecidableEq α] (d : α) : ∀ (m : SMap α) (k j : Nat) (v : α), j ≠ k →
    SMap.get d (SMap.set d m k v) j = SMap.get d m j := by
  intro m k j v h
  induction m with
  | nil =>
    by_cases hv : v = d
    · simp [SMap.set, SMap.get, hv]
    · simp [SMap.set, SMap.get, hv, h]
  | cons e r ih =>
    obtain ⟨k', v'⟩ := e
    simp only [SMap.set]
    split
    · split
      · rfl
      · simp only [SMap.get, h, if_false]
        split <;> split <;> first | rfl | omega | (split <;> first | rfl | omega)
    · split
      · split
        · subst_vars
          by_cases hj : j < k'
          · rw [SMap.get_dropTo_le _ _ _ _ (by omega)]; simp [SMap.get, hj]
          · rw [SMap.get_dropTo _ _ _ _ (by omega)]; simp [SMap.get, hj, h]
        · subst_vars; simp [SMap.get, h]
      · simp only [SMap.get, ih]

/-- A read after a write, in one equation. -/
theorem SMap.get_set {α : Type} [DecidableEq α] (d : α) (m : SMap α) (k j : Nat) (v : α) :
    SMap.get d (SMap.set d m k v) j = if j = k then v else SMap.get d m j := by
  split
  · subst_vars; exact SMap.get_set_same _ _ _ _
  · exact SMap.get_set_other _ _ _ _ _ ‹_›

theorem SMap.wfFrom_weaken {α : Type} [DecidableEq α] (d : α) (m : SMap α) (lo : Option Nat) (k : Nat)
    (h : SMap.wfFrom d (some k) m = true) (hlo : ∀ l, lo = some l → l ≤ k) : SMap.wfFrom d lo m = true := by
  cases m with
  | nil => rfl
  | cons e r =>
    cases lo with
    | none => simp_all [SMap.wfFrom]
    | some l =>
      have := hlo l rfl
      simp [SMap.wfFrom] at h ⊢
      exact ⟨⟨by omega, h.1.2⟩, h.2⟩

theorem SMap.dropTo_of_wfFrom {α : Type} [DecidableEq α] (d : α) (m : SMap α) (k : Nat)
    (h : SMap.wfFrom d (some k) m = true) : SMap.dropTo k m = m := by
  cases m with
  | nil => rfl
  | cons e r =>
    simp [SMap.wfFrom] at h
    simp only [SMap.dropTo]
    rw [if_neg (by omega)]

theorem SMap.wfFrom_set {α : Type} [DecidableEq α] (d : α) : ∀ (m : SMap α) (lo : Option Nat) (k : Nat) (v : α),
    SMap.wfFrom d lo m = true → (∀ l, lo = some l → l < k) → SMap.wfFrom d lo (SMap.set d m k v) = true := by
  intro m
  induction m with
  | nil =>
    intro lo k v _ hlo
    by_cases hv : v = d
    · simp [SMap.set, hv, SMap.wfFrom]
    · cases lo with
      | none => simp [SMap.set, hv, SMap.wfFrom]
      | some l => simp [SMap.set, hv, SMap.wfFrom, hlo l rfl]
  | cons e r ih =>
    intro lo k v hw hlo
    obtain ⟨k', v'⟩ := e
    have hw' := hw
    rw [SMap.wfFrom] at hw
    simp only [Bool.and_eq_true] at hw
    obtain ⟨⟨h1, h2⟩, h3⟩ := hw
    simp only [SMap.set]
    split
    · split
      · exact hw'
      · rename_i hv
        simp only [SMap.wfFrom, Bool.and_eq_true]
        refine ⟨⟨?_, by simpa using hv⟩, ⟨by simpa using ‹k < k'›, h2⟩, h3⟩
        cases lo with
        | none => rfl
        | some l => simpa using hlo l rfl
    · split
      · split
        · subst_vars
          rw [SMap.dropTo_of_wfFrom _ _ _ h3]
          exact SMap.wfFrom_weaken _ _ _ _ h3 (fun l hl => Nat.le_of_lt (hlo l hl))
        · rename_i hv
          subst_vars
          simp only [SMap.wfFrom, Bool.and_eq_true]
          exact ⟨⟨h1, by simpa using hv⟩, h3⟩
      · simp only [SMap.wfFrom, Bool.and_eq_true]
        refine ⟨⟨h1, h2⟩, ih _ _ _ h3 ?_⟩
        intro l hl
        cases hl
        omega

/-- A write keeps the canonical form. -/
theorem SMap.wf_set {α : Type} [DecidableEq α] (d : α) (m : SMap α) (k : Nat) (v : α)
    (h : SMap.wf d m = true) : SMap.wf d (SMap.set d m k v) = true :=
  SMap.wfFrom_set d m none k v h (by simp)

theorem SMap.wf_setList {α : Type} [DecidableEq α] (d : α) : ∀ (vs : List α) (m : SMap α) (k : Nat),
    SMap.wf d m = true → SMap.wf d (SMap.setList d m k vs) = true := by
  intro vs
  induction vs with
  | nil => intro m k h; exact h
  | cons v vs ih => intro m k h; exact ih _ _ (SMap.wf_set d m k v h)

theorem SMap.wf_setAll {α : Type} [DecidableEq α] (d : α) : ∀ (es : List (Nat × α)) (m : SMap α),
    SMap.wf d m = true → SMap.wf d (SMap.setAll d m es) = true := by
  intro es
  induction es with
  | nil => intro m h; exact h
  | cons e es ih => intro m h; exact ih _ (SMap.wf_set d m e.1 e.2 h)

theorem SMap.wfFrom_filter {α : Type} [DecidableEq α] (d : α) (p : Nat × α → Bool) : ∀ (m : SMap α) (lo : Option Nat),
    SMap.wfFrom d lo m = true → SMap.wfFrom d lo (m.filter p) = true := by
  intro m
  induction m with
  | nil => intro lo h; exact h
  | cons e r ih =>
    intro lo h
    obtain ⟨k, v⟩ := e
    rw [SMap.wfFrom] at h
    simp only [Bool.and_eq_true] at h
    rw [List.filter_cons]
    split
    · simp only [SMap.wfFrom, Bool.and_eq_true]
      exact ⟨h.1, ih _ h.2⟩
    · apply ih
      apply SMap.wfFrom_weaken _ _ _ k h.2
      intro l hl
      subst hl
      simpa using Nat.le_of_lt (by simpa using h.1.1)

theorem SMap.wfFrom_keepFrom {α : Type} [DecidableEq α] (d : α) (p : Nat → Bool) : ∀ (m : SMap α) (lo q : Option Nat),
    SMap.wfFrom d lo m = true → SMap.wfFrom d lo (SMap.keepFrom p q m) = true := by
  intro m
  induction m with
  | nil => intro lo q h; exact h
  | cons e r ih =>
    intro lo q h
    obtain ⟨k, v⟩ := e
    rw [SMap.wfFrom] at h
    simp only [Bool.and_eq_true] at h
    have hw : SMap.wfFrom d lo r = true := by
      apply SMap.wfFrom_weaken _ _ _ k h.2
      intro l hl
      subst hl
      simpa using Nat.le_of_lt (by simpa using h.1.1)
    rw [SMap.keepFrom]
    split
    · exact ih _ _ hw
    · split
      · simp only [SMap.wfFrom, Bool.and_eq_true]
        exact ⟨h.1, ih _ _ h.2⟩
      · exact ih _ _ hw

/-- Dropping entries keeps the canonical form. -/
theorem SMap.wf_keep {α : Type} [DecidableEq α] (d : α) (p : Nat → Bool) (m : SMap α)
    (h : SMap.wf d m = true) : SMap.wf d (SMap.keep p m) = true :=
  SMap.wfFrom_keepFrom d p m none none h

theorem SMap.get_keepFrom {α : Type} (d : α) (p : Nat → Bool) : ∀ (m : SMap α) (q : Option Nat) (j : Nat),
    SMap.get d (SMap.keepFrom p q m) j = if p j = true ∧ ∀ l, q = some l → l < j then SMap.get d m j else d := by
  intro m
  induction m with
  | nil => intro q j; simp [SMap.keepFrom, SMap.get]
  | cons e r ih =>
    intro q j
    obtain ⟨k, v⟩ := e
    rw [SMap.keepFrom]
    by_cases hq : q.any (fun l => decide (k ≤ l)) = true
    · obtain ⟨l, rfl⟩ : ∃ l, q = some l := by cases q with | none => simp at hq | some l => exact ⟨l, rfl⟩
      rw [if_pos hq, ih]
      have hkl : k ≤ l := by simpa using hq
      by_cases h : p j = true ∧ ∀ l', some l = some l' → l' < j
      · rw [if_pos h, if_pos h]
        have := h.2 l rfl
        rw [SMap.get, if_neg (by omega), if_neg (by omega)]
      · rw [if_neg h, if_neg h]
    · rw [if_neg hq]
      have hlt : ∀ l, q = some l → l < k := by
        intro l hl; subst hl; simpa using hq
      by_cases hp : p k = true
      · rw [if_pos hp, SMap.get]
        by_cases h1 : j < k
        · rw [if_pos h1, SMap.get, if_pos h1]; simp
        · rw [if_neg h1]
          by_cases h2 : j = k
          · subst h2; rw [if_pos rfl, if_pos ⟨hp, hlt⟩, SMap.get, if_neg h1, if_pos rfl]
          · rw [if_neg h2, ih]
            have hl2 : ∀ l, q = some l → l < j := fun l hl => by have := hlt l hl; omega
            rw [SMap.get, if_neg h1, if_neg h2]
            by_cases hpj : p j = true
            · rw [if_pos ⟨hpj, by simp⟩, if_pos ⟨hpj, hl2⟩]
            · rw [if_neg (fun x => hpj x.1), if_neg (fun x => hpj x.1)]
      · rw [if_neg hp, ih]
        by_cases h1 : k < j
        · have hl2 : ∀ l, q = some l → l < j := fun l hl => by have := hlt l hl; omega
          have hg : SMap.get d ((k, v) :: r) j = SMap.get d r j := by rw [SMap.get, if_neg (by omega), if_neg (by omega)]
          rw [hg]
          by_cases hpj : p j = true
          · rw [if_pos ⟨hpj, by intro l hl; cases hl; exact h1⟩, if_pos ⟨hpj, hl2⟩]
          · rw [if_neg (fun x => hpj x.1), if_neg (fun x => hpj x.1)]
        · rw [if_neg (fun x => h1 (x.2 k rfl))]
          by_cases h2 : j = k
          · subst h2; rw [if_neg (fun x => hp x.1)]
          · have hg : SMap.get d ((k, v) :: r) j = d := by rw [SMap.get, if_pos (by omega)]
            rw [hg, ite_self]

/-- A read after entries have been dropped. -/
theorem SMap.get_keep {α : Type} (d : α) (p : Nat → Bool) (m : SMap α) (j : Nat) :
    SMap.get d (SMap.keep p m) j = if p j = true then SMap.get d m j else d := by
  rw [SMap.keep, SMap.get_keepFrom]; simp

theorem SMap.get_setList {α : Type} [DecidableEq α] (d : α) : ∀ (vs : List α) (m : SMap α) (k j : Nat),
    (j < k ∨ k + vs.length ≤ j) → SMap.get d (SMap.setList d m k vs) j = SMap.get d m j := by
  intro vs
  induction vs with
  | nil => intro m k j _; rfl
  | cons v vs ih =>
    intro m k j h
    simp only [List.length_cons] at h
    rw [SMap.setList, ih _ _ _ (by omega), SMap.get_set_other _ _ _ _ _ (by omega)]

/-- A read after a write to the same byte. -/
@[simp] theorem Memory.byte_setByte_same (m : Memory) (a : Nat) (b : Byte) : Memory.byte (Memory.setByte m a b) a = b :=
  SMap.get_set_same _ _ _ _

/-- A write leaves every other byte alone. -/
theorem Memory.byte_setByte_other (m : Memory) (a j : Nat) (b : Byte) (h : j ≠ a) :
    Memory.byte (Memory.setByte m a b) j = Memory.byte m j :=
  SMap.get_set_other _ _ _ _ _ h

theorem Memory.wf_setByte (m : Memory) (a : Nat) (b : Byte) (h : Memory.wf m = true) :
    Memory.wf (Memory.setByte m a b) = true :=
  SMap.wf_set _ _ _ _ h

/-- A wide store keeps the canonical form. -/
theorem Memory.wf_store : ∀ (n : Nat) (m : Memory) (a v : Nat), Memory.wf m = true → Memory.wf (Memory.store m a v n) = true := by
  intro n
  induction n with
  | zero => intro m a v h; exact h
  | succ n ih => intro m a v h; exact ih _ _ _ (Memory.wf_setByte _ _ _ h)

theorem Memory.wf_setBytes (m : Memory) (a : Nat) (bs : List Byte) (h : Memory.wf m = true) :
    Memory.wf (Memory.setBytes m a bs) = true :=
  SMap.wf_setList _ _ _ _ h

/-- A wide store leaves every byte outside it alone. -/
theorem Memory.byte_store_other : ∀ (n : Nat) (m : Memory) (a v j : Nat), (j < a ∨ a + n ≤ j) →
    Memory.byte (Memory.store m a v n) j = Memory.byte m j := by
  intro n
  induction n with
  | zero => intro m a v j _; rfl
  | succ n ih =>
    intro m a v j h
    rw [Memory.store, ih _ _ _ _ (by omega), Memory.byte_setByte_other _ _ _ _ (by omega)]

/-- A wide load of what a wide store wrote. -/
theorem Memory.load_store : ∀ (n : Nat) (m : Memory) (a v : Nat),
    Memory.load (Memory.store m a v n) a n = v % 256 ^ n := by
  intro n
  induction n with
  | zero => intro m a v; simp [Memory.load, Nat.mod_one]
  | succ n ih =>
    intro m a v
    rw [Memory.load, Memory.store, ih, Memory.byte_store_other _ _ _ _ _ (by omega), Memory.byte_setByte_same,
      BitVec.toNat_ofNat, pow_succ' 256 n, Nat.mod_mul]

end Sys2Proof
end

