-- ==== Sys2Proof/Laws/Float.lean ====
section
/-! SUPPORT. What the exact arithmetic of floating point does, said once: a quotient rounded in a mode, the rounding of an exact number to a
format, and exact values, products and sums as integers over one power of two. -/

set_option Elab.async false

namespace Sys2Proof.Machine

open Sys2Proof.Says

/-! ### Rounding -/

/-- Only the proportion of a remainder to its quantum counts. -/
theorem roundsUp_scale (rm : Rm) (neg : Bool) (t r h c : Nat) (hc : 0 < c) : roundsUp rm neg t (r * c) (h * c) ↔ roundsUp rm neg t r h := by
  have e : ∀ a b : Nat, a * c < b * c ↔ a < b := fun a b => Nat.mul_lt_mul_right hc
  have z : r * c ≠ 0 ↔ r ≠ 0 := by
    constructor
    · rintro h rfl; simp at h
    · intro h; exact Nat.mul_ne_zero h (Nat.pos_iff_ne_zero.mp hc)
  cases rm <;> simp only [roundsUp]
  · rw [show 2 * (r * c) = (2 * r) * c by ring, e, Nat.mul_left_inj (Nat.pos_iff_ne_zero.mp hc)]
  · rw [z]
  · rw [z]

/-- Nothing is rounded where nothing is left over. -/
theorem not_roundsUp_zero (rm : Rm) (neg : Bool) (t h : Nat) (hh : 0 < h) : ¬roundsUp rm neg t 0 h := by
  cases rm <;> simp [roundsUp]
  omega

open Classical in
/-- The quotient that `quantise` rounds, with magnitude and quantum brought to integers. -/
theorem quantise_eq (rm : Rm) (neg : Bool) (m w Q : Nat) (e q : Int) (h : (Q : Int) - w = q - e) :
    quantise rm neg m e q false =
      (if roundsUp rm neg (m * 2 ^ w / 2 ^ Q) (m * 2 ^ w % 2 ^ Q) (2 ^ Q) then m * 2 ^ w / 2 ^ Q + 1 else m * 2 ^ w / 2 ^ Q,
        decide (m * 2 ^ w % 2 ^ Q ≠ 0)) := by
  unfold quantise
  by_cases hq : q ≤ e
  · have hw : w = Q + (e - q).toNat := by omega
    have hm : m * 2 ^ w = (m * 2 ^ (e - q).toNat) * 2 ^ Q := by rw [hw, pow_add]; ring
    have hp : 0 < 2 ^ Q := Nat.two_pow_pos Q
    rw [if_pos hq, hm, Nat.mul_mod_left, Nat.mul_div_cancel _ hp, if_neg (not_roundsUp_zero _ _ _ _ hp)]
    simp
  · have hQ : Q = (q - e).toNat + w := by omega
    have hp : 0 < 2 ^ w := Nat.two_pow_pos w
    rw [if_neg hq, hQ, pow_add, Nat.mul_div_mul_right _ _ hp, Nat.mul_mod_mul_right]
    have hs : (q - e).toNat = (q - e).toNat - 1 + 1 := by omega
    have hh : 2 ^ (q - e).toNat = 2 * 2 ^ ((q - e).toNat - 1) := by rw [hs, pow_succ]; simp; ring
    rw [roundsUp_scale _ _ _ _ _ _ hp]
    have hz : (m % 2 ^ (q - e).toNat * 2 ^ w ≠ 0) ↔ (m % 2 ^ (q - e).toNat ≠ 0) := by
      constructor
      · intro h h0; exact h (by rw [h0]; simp)
      · intro h; exact Nat.mul_ne_zero h (Nat.pos_iff_ne_zero.mp hp)
    dsimp only
    generalize m % 2 ^ (q - e).toNat = r at *
    generalize m / 2 ^ (q - e).toNat = t at *
    generalize 2 ^ ((q - e).toNat - 1) = half at *
    simp only [hz]
    have hb : (r != 0 || false) = decide (r ≠ 0) := by by_cases h0 : r = 0 <;> simp [h0]
    rw [hb, hh]
    have hc : ∀ (a b : Bool) (p : Prop) [Decidable p], (a = true ↔ p) → (if a = true then t + 1 else t, b) = (if p then t + 1 else t, b) := by
      intro a b p _ hp; simp only [hp]
    cases rm <;> refine hc _ _ _ ?_ <;> simp only [roundsUp] <;> simp

/-- A number that is not 0 has its highest bit at its logarithm, at any power of two. -/
theorem log2_scale (m w : Nat) (h : m ≠ 0) : 2 ^ (Nat.log2 m + w) ≤ m * 2 ^ w ∧ m * 2 ^ w < 2 ^ (Nat.log2 m + 1 + w) := by
  have h1 := Nat.log2_self_le h
  have h2 : m < 2 ^ (Nat.log2 m + 1) := Nat.lt_log2_self
  rw [pow_add, pow_add _ (Nat.log2 m + 1)]
  exact ⟨Nat.mul_le_mul_right _ h1, Nat.mul_lt_mul_of_pos_right h2 (Nat.two_pow_pos w)⟩

open Classical in
/-- The rounding of an exact number to a format (R33, R36). -/
theorem roundFin_rounds (f : Fmt) (he : 2 ≤ f.eb) (hm : 1 ≤ f.mb) (md : FpMode) (neg : Bool) (m : Nat) (e : Int) (w k : Nat)
    (hw : (w : Int) = e + leastExp f + k) : roundsTo f md neg (m * 2 ^ w) k (roundFin f md neg m e false) := by
  have hb : 2 ≤ 2 ^ (f.eb - 1) := by
    calc 2 = 2 ^ 1 := rfl
      _ ≤ 2 ^ (f.eb - 1) := Nat.pow_le_pow_right (by omega) (by omega)
  have heb : 2 ^ f.eb = 2 * 2 ^ (f.eb - 1) := by
    conv_lhs => rw [show f.eb = f.eb - 1 + 1 by omega, pow_succ]
    ring
  have hmb : 2 ≤ 2 ^ f.mb := by
    calc 2 = 2 ^ 1 := rfl
      _ ≤ 2 ^ f.mb := Nat.pow_le_pow_right (by omega) hm
  have hmb1 : 2 ^ (f.mb + 1) = 2 * 2 ^ f.mb := by rw [pow_succ]; ring
  have hK : (leastExp f : Int) = 2 ^ (f.eb - 1) + f.mb - 2 := by unfold leastExp; push_cast [Nat.cast_sub (show 2 ≤ 2 ^ (f.eb - 1) + f.mb by omega)]; ring
  have hbias : (f.bias : Int) = 2 ^ (f.eb - 1) - 1 := by unfold Fmt.bias; push_cast [Nat.cast_sub (show 1 ≤ 2 ^ (f.eb - 1) by omega)]; ring
  have htop : 2 ^ f.mb < (2 ^ f.eb - 1) * 2 ^ f.mb := by
    calc 2 ^ f.mb = 1 * 2 ^ f.mb := by ring
      _ < (2 ^ f.eb - 1) * 2 ^ f.mb := Nat.mul_lt_mul_of_pos_right (by omega) (by omega)
  by_cases h0 : m = 0
  · subst h0
    refine ⟨1, 0, 0, 0, le_refl _, by simp, Nat.two_pow_pos _, Nat.two_pow_pos _, .inr rfl, .inr ⟨rfl, not_roundsUp_zero _ _ _ _ (Nat.two_pow_pos _)⟩, ?_⟩
    simp [roundFin, Fmt.zero, Fmt.signBit]
    omega
  · obtain ⟨hlo, hhi⟩ := log2_scale m w h0
    have hM : 0 < m * 2 ^ w := Nat.mul_pos (Nat.pos_of_ne_zero h0) (Nat.two_pow_pos w)
    rw [roundFin, if_neg h0]
    dsimp only
    by_cases ht : (Nat.log2 m : Int) + e < 1 - (f.bias : Int)
    · -- below the normal numbers
      have hQ : ((k : Nat) : Int) - w = (1 - (f.bias : Int) - f.mb) - e := by omega
      have hlt : m * 2 ^ w < 2 ^ (f.mb + k) := lt_of_lt_of_le hhi (Nat.pow_le_pow_right (by omega) (by omega))
      have hpk : 0 < 2 ^ k := Nat.two_pow_pos k
      have hdm := Nat.div_add_mod (m * 2 ^ w) (2 ^ k)
      have hml := Nat.mod_lt (m * 2 ^ w) hpk
      have htm : m * 2 ^ w / 2 ^ k < 2 ^ f.mb := by rw [Nat.div_lt_iff_lt_mul hpk, ← pow_add]; exact hlt
      rw [quantise_eq md.rm neg m w k e _ hQ]
      by_cases hc : (Nat.log2 m : Int) + e = 1 - (f.bias : Int) - 1 ∧
          (quantise md.rm neg m e ((Nat.log2 m : Int) + e - f.mb) false).1 = 2 ^ (f.mb + 1)
      · obtain ⟨hc1, hc2⟩ := hc
        have h3 : 2 * (m * 2 ^ w) = m * 2 ^ (w + 1) := by rw [pow_succ]; ring
        have hq := quantise_eq md.rm neg m (w + 1) k e ((Nat.log2 m : Int) + e - f.mb) (by push_cast; omega)
        have hcond : (decide ((Nat.log2 m : Int) + e < 1 - (f.bias : Int)) && !(decide ((Nat.log2 m : Int) + e = 1 - (f.bias : Int) - 1) &&
            (quantise md.rm neg m e ((Nat.log2 m : Int) + e - f.mb) false).1 == 2 ^ (f.mb + 1))) = false := by
          rw [hc2, decide_eq_true ht, decide_eq_true hc1]; simp
        rw [if_neg (by rw [hcond]; simp), hc2]
        have hone : ((Nat.log2 m : Int) + e + f.bias + 1).toNat = 1 := by omega
        simp only [beq_self_eq_true, if_true, hone]
        rw [if_neg (by unfold Fmt.emax; omega)]
        rw [hq] at hc2 ⊢
        rw [← h3] at hc2 ⊢
        have hM2 : 2 * (m * 2 ^ w) < 2 ^ (f.mb + 1) * 2 ^ k := by
          rw [← pow_add, show f.mb + 1 + k = f.mb + k + 1 by omega, pow_succ]; omega
        have hdm2 := Nat.div_add_mod (2 * (m * 2 ^ w)) (2 ^ k)
        have hml2 := Nat.mod_lt (2 * (m * 2 ^ w)) hpk
        have ht2 : 2 * (m * 2 ^ w) / 2 ^ k < 2 ^ (f.mb + 1) := by rw [Nat.div_lt_iff_lt_mul hpk]; exact hM2
        generalize m * 2 ^ w = M at *
        have hu : roundsUp md.rm neg (2 * M / 2 ^ k) (2 * M % 2 ^ k) (2 ^ k) := by
          by_contra hu; rw [if_neg hu] at hc2; simp only at hc2; omega
        rw [if_pos hu] at hc2
        simp only at hc2
        have ht3 : 2 * M / 2 ^ k = 2 ^ (f.mb + 1) - 1 := by omega
        have hr2 : 2 * M % 2 ^ k ≠ 0 := by
          intro h; rw [h] at hu; exact not_roundsUp_zero _ _ _ _ hpk hu
        have hnear : 2 * M = (2 ^ (f.mb + 1) - 1) * 2 ^ k + 2 * M % 2 ^ k := by rw [ht3, mul_comm] at hdm2; exact hdm2.symm
        have hnear2 : 2 * M % 2 ^ k = 2 * M - (2 ^ (f.mb + 1) - 1) * 2 ^ k := by omega
        have hexp : (2 ^ (f.mb + 1) - 1) * 2 ^ k = 2 * ((2 ^ f.mb - 1) * 2 ^ k) + 2 ^ k := by
          have : 2 ^ (f.mb + 1) - 1 = 2 * (2 ^ f.mb - 1) + 1 := by omega
          rw [this]; ring
        have htv : M / 2 ^ k = 2 ^ f.mb - 1 := by
          refine Nat.div_eq_of_lt_le (by omega) ?_
          rw [show 2 ^ f.mb - 1 + 1 = 2 ^ f.mb by omega, ← Nat.div_lt_iff_lt_mul hpk]; exact htm
        have hrv : 2 * (M % 2 ^ k) = 2 ^ k + 2 * M % 2 ^ k := by rw [htv, mul_comm] at hdm; omega
        have hup : roundsUp md.rm neg (M / 2 ^ k) (M % 2 ^ k) (2 ^ k) := by
          revert hu
          cases md.rm <;> simp only [roundsUp]
          · intro _; left; omega
          · exact id
          · exact fun h => ⟨h.1, by omega⟩
          · exact fun h => ⟨h.1, by omega⟩
        refine ⟨1, M / 2 ^ k, M % 2 ^ k, M / 2 ^ k + 1, le_refl _, ?_, ?_, ?_, .inr rfl, .inl ⟨rfl, ?_⟩, ?_⟩
        · simp only [Nat.sub_self, Nat.zero_add]; rw [mul_comm]; exact hdm.symm
        · simpa using hml
        · omega
        · simpa using hup
        · have hn : M / 2 ^ k + 1 = 2 ^ f.mb := by omega
          simp only [Nat.sub_self, Nat.zero_mul, Nat.zero_add, hn]
          refine ⟨fun h => absurd h (by omega), fun _ _ _ h => absurd h (by omega), fun _ _ => ⟨?_, ?_, fun _ => ⟨?_, ?_⟩⟩⟩
          · simp [Fmt.zero, Fmt.signBit]
          · intro h; omega
          · rintro ⟨_, h⟩
            rw [ht3] at hu
            rw [hnear2] at hu
            exact absurd ⟨by omega, hu⟩ h
          · intro _; simp only [hr2, ne_eq, not_false_eq_true, decide_true, if_true]; rfl
      · have hcond : (decide ((Nat.log2 m : Int) + e < 1 - (f.bias : Int)) && !(decide ((Nat.log2 m : Int) + e = 1 - (f.bias : Int) - 1) &&
            (quantise md.rm neg m e ((Nat.log2 m : Int) + e - f.mb) false).1 == 2 ^ (f.mb + 1))) = true := by
          simp only [ht, decide_true, Bool.true_and, Bool.not_eq_true', Bool.and_eq_false_iff, decide_eq_false_iff_not, beq_eq_false_iff_ne]
          by_cases h1 : (Nat.log2 m : Int) + e = 1 - (f.bias : Int) - 1
          · exact .inr (fun h2 => hc ⟨h1, h2⟩)
          · exact .inl h1
        rw [if_pos hcond]
        have htiny : ¬((2 ^ (f.mb + 1) - 1) * 2 ^ k ≤ 2 * (m * 2 ^ w) ∧
            roundsUp md.rm neg (2 ^ (f.mb + 1) - 1) (2 * (m * 2 ^ w) - (2 ^ (f.mb + 1) - 1) * 2 ^ k) (2 ^ k)) := by
          rintro ⟨h1, h2⟩
          have h3 : 2 * (m * 2 ^ w) = m * 2 ^ (w + 1) := by rw [pow_succ]; ring
          have h4 : 2 ^ (f.mb + k) ≤ m * 2 ^ (w + 1) := by
            rw [← h3, pow_add]
            refine le_trans (Nat.mul_le_mul_right _ (by omega : 2 ^ f.mb ≤ 2 ^ (f.mb + 1) - 1)) h1
          have h5 : m * 2 ^ (w + 1) < 2 ^ (f.mb + 1 + k) := by
            rw [← h3, show f.mb + 1 + k = f.mb + k + 1 by omega, pow_succ]; omega
          have h6 := log2_scale m (w + 1) h0
          have h7 : f.mb + k < Nat.log2 m + 1 + (w + 1) := (Nat.pow_lt_pow_iff_right (by omega)).mp (lt_of_le_of_lt h4 h6.2)
          have h8 : Nat.log2 m + w + 1 < f.mb + 1 + k := by
            have := (Nat.pow_lt_pow_iff_right (a := 2) (by omega)).mp (lt_of_le_of_lt h6.1 h5)
            omega
          have h9 : m * 2 ^ (w + 1) / 2 ^ k = 2 ^ (f.mb + 1) - 1 := by
            rw [← h3]
            refine Nat.div_eq_of_lt_le h1 ?_
            rw [show 2 ^ (f.mb + 1) - 1 + 1 = 2 ^ (f.mb + 1) by omega, h3, ← pow_add]; exact h5
          have h10 : m * 2 ^ (w + 1) % 2 ^ k = 2 * (m * 2 ^ w) - (2 ^ (f.mb + 1) - 1) * 2 ^ k := by
            have := Nat.div_add_mod (m * 2 ^ (w + 1)) (2 ^ k)
            rw [h9, ← h3, mul_comm] at this
            rw [← h3]; omega
          refine hc ⟨by omega, ?_⟩
          rw [quantise_eq md.rm neg m (w + 1) k e _ (by push_cast; omega), h9, h10, if_pos h2]
          simp only
          omega
        generalize m * 2 ^ w = M at *
        refine ⟨1, M / 2 ^ k, M % 2 ^ k, if roundsUp md.rm neg (M / 2 ^ k) (M % 2 ^ k) (2 ^ k) then M / 2 ^ k + 1 else M / 2 ^ k, le_refl _, ?_, ?_, ?_, .inr rfl, ?_, ?_⟩
        · simp only [Nat.sub_self, Nat.zero_add]; rw [mul_comm]; exact hdm.symm
        · simpa using hml
        · omega
        · simp only [Nat.sub_self, Nat.zero_add]
          by_cases hu : roundsUp md.rm neg (M / 2 ^ k) (M % 2 ^ k) (2 ^ k)
          · exact .inl ⟨if_pos hu, hu⟩
          · exact .inr ⟨if_neg hu, hu⟩
        · have hn : (if roundsUp md.rm neg (M / 2 ^ k) (M % 2 ^ k) (2 ^ k) then M / 2 ^ k + 1 else M / 2 ^ k) ≤ 2 ^ f.mb := by split_ifs <;> omega
          generalize (if roundsUp md.rm neg (M / 2 ^ k) (M % 2 ^ k) (2 ^ k) then M / 2 ^ k + 1 else M / 2 ^ k) = n at *
          simp only [Nat.sub_self, Nat.zero_mul, Nat.zero_add]
          refine ⟨fun h => absurd h (by omega), ?_, ?_⟩
          · intro _ hf hn0 hn1
            have : (md.ftz && n != 0 && decide (n < 2 ^ f.mb)) = true := by simp [hf, hn1]; omega
            rw [if_pos this]
            rfl
          · intro _ hx
            have : ¬((md.ftz && n != 0 && decide (n < 2 ^ f.mb)) = true) := by
              intro h; simp at h; exact hx ⟨h.1.1, Nat.pos_of_ne_zero h.1.2, h.2⟩
            rw [if_neg this]
            refine ⟨rfl, fun h => by simp [h], fun h => ⟨fun _ => by simp [h]; rfl, fun h' => absurd ⟨htm, htiny⟩ h'⟩⟩
    · -- a normal number
      have hx : 1 ≤ ((Nat.log2 m : Int) + e + f.bias).toNat := by omega
      obtain ⟨x, hxe⟩ : ∃ x, ((Nat.log2 m : Int) + e + f.bias).toNat = x := ⟨_, rfl⟩
      have hxi : (Nat.log2 m : Int) + e + f.bias = x := by omega
      have hcond : (decide ((Nat.log2 m : Int) + e < 1 - (f.bias : Int)) && !(decide ((Nat.log2 m : Int) + e = 1 - (f.bias : Int) - 1) &&
          (quantise md.rm neg m e ((Nat.log2 m : Int) + e - f.mb) false).1 == 2 ^ (f.mb + 1))) = false := by
        simp [ht]
      rw [if_neg (by rw [hcond]; simp)]
      rw [quantise_eq md.rm neg m w (x - 1 + k) e _ (by omega)]
      have hpk : 0 < 2 ^ (x - 1 + k) := Nat.two_pow_pos _
      have hdm := Nat.div_add_mod (m * 2 ^ w) (2 ^ (x - 1 + k))
      have hml := Nat.mod_lt (m * 2 ^ w) hpk
      have hlt : m * 2 ^ w / 2 ^ (x - 1 + k) < 2 ^ (f.mb + 1) := by
        rw [Nat.div_lt_iff_lt_mul hpk, ← pow_add]
        refine lt_of_lt_of_le hhi (Nat.pow_le_pow_right (by omega) (by omega))
      have hge : 2 ^ f.mb ≤ m * 2 ^ w / 2 ^ (x - 1 + k) := by
        rw [Nat.le_div_iff_mul_le hpk, ← pow_add]
        refine le_trans (Nat.pow_le_pow_right (by omega) (by omega)) hlo
      generalize m * 2 ^ w = M at *
      refine ⟨x, M / 2 ^ (x - 1 + k), M % 2 ^ (x - 1 + k),
        if roundsUp md.rm neg (M / 2 ^ (x - 1 + k)) (M % 2 ^ (x - 1 + k)) (2 ^ (x - 1 + k)) then M / 2 ^ (x - 1 + k) + 1 else M / 2 ^ (x - 1 + k),
        by omega, by rw [mul_comm]; exact hdm.symm, hml, hlt, .inl hge, ?_, ?_⟩
      · by_cases hu : roundsUp md.rm neg (M / 2 ^ (x - 1 + k)) (M % 2 ^ (x - 1 + k)) (2 ^ (x - 1 + k))
        · exact .inl ⟨if_pos hu, hu⟩
        · exact .inr ⟨if_neg hu, hu⟩
      · have hn : 2 ^ f.mb ≤ (if roundsUp md.rm neg (M / 2 ^ (x - 1 + k)) (M % 2 ^ (x - 1 + k)) (2 ^ (x - 1 + k)) then M / 2 ^ (x - 1 + k) + 1 else M / 2 ^ (x - 1 + k)) ∧
            (if roundsUp md.rm neg (M / 2 ^ (x - 1 + k)) (M % 2 ^ (x - 1 + k)) (2 ^ (x - 1 + k)) then M / 2 ^ (x - 1 + k) + 1 else M / 2 ^ (x - 1 + k)) ≤ 2 ^ (f.mb + 1) := by
          split_ifs <;> omega
        generalize (if roundsUp md.rm neg (M / 2 ^ (x - 1 + k)) (M % 2 ^ (x - 1 + k)) (2 ^ (x - 1 + k)) then M / 2 ^ (x - 1 + k) + 1 else M / 2 ^ (x - 1 + k)) = n at *
        obtain ⟨hn1, hn2⟩ := hn
        have hbi : ((Nat.log2 m : Int) + e + f.bias + (if (n == 2 ^ (f.mb + 1)) = true then 1 else 0)).toNat = x + (if n = 2 ^ (f.mb + 1) then 1 else 0) := by
          simp only [beq_iff_eq]; split_ifs <;> omega
        simp only [hbi]
        have hpat : (x + (if n = 2 ^ (f.mb + 1) then 1 else 0)) * 2 ^ f.mb + (if (n == 2 ^ (f.mb + 1)) = true then 0 else n - 2 ^ f.mb) = (x - 1) * 2 ^ f.mb + n := by
          obtain ⟨y, rfl⟩ : ∃ y, x = y + 1 := ⟨x - 1, by omega⟩
          simp only [beq_iff_eq, Nat.add_sub_cancel]
          split_ifs with hcy
          · rw [hcy, hmb1]; ring
          · have : (y + 1 + 0) * 2 ^ f.mb = y * 2 ^ f.mb + 2 ^ f.mb := by ring
            omega
        have hov : (2 ^ f.eb - 1) * 2 ^ f.mb ≤ (x - 1) * 2 ^ f.mb + n ↔ f.emax ≤ x + (if n = 2 ^ (f.mb + 1) then 1 else 0) := by
          rw [← hpat]
          have hs : (if (n == 2 ^ (f.mb + 1)) = true then 0 else n - 2 ^ f.mb) < 2 ^ f.mb := by
            simp only [beq_iff_eq]; split_ifs <;> omega
          constructor
          · intro h
            by_contra hlt2
            have : (x + (if n = 2 ^ (f.mb + 1) then 1 else 0) + 1) * 2 ^ f.mb ≤ (2 ^ f.eb - 1) * 2 ^ f.mb := Nat.mul_le_mul_right _ (by unfold Fmt.emax at hlt2; omega)
            rw [Nat.add_mul, Nat.one_mul] at this
            omega
          · intro h
            exact le_trans (Nat.mul_le_mul_right _ h) (Nat.le_add_right _ _)
        refine ⟨fun h => ?_, fun _ _ _ h => absurd h (by omega), fun h _ => ?_⟩
        · rw [if_pos (hov.mp h)]
          unfold overflowed Fmt.inf Fmt.signBit Fmt.emax
          have hpos : 1 ≤ (2 ^ f.eb - 1) * 2 ^ f.mb := by omega
          clear * - hpos
          generalize (2 ^ f.eb - 1) * 2 ^ f.mb = T at *
          generalize 2 ^ (f.eb + f.mb) = S at *
          cases md.rm <;> cases neg <;> simp <;> first | rfl | (refine ⟨rfl, ?_⟩; omega)
        · rw [if_neg (fun h' => by have := hov.mpr h'; omega)]
          refine ⟨?_, fun h => by simp [h], fun h => ⟨fun h' => absurd h'.1 (by omega), fun _ => by simp [h]; rfl⟩⟩
          rw [Nat.add_assoc, hpat]
          rfl

/-! ### Exact values -/

/-- A finite value of a sign is an integer over a power of two. -/
def FVal.scaled (v : FVal) (neg : Bool) (k : Nat) (n : Int) : Prop :=
  ∃ m e, v = .fin neg m e ∧ (m = 0 → n = 0) ∧ (m ≠ 0 → ∃ w : Nat, (w : Int) = e + k ∧ n = (if neg then -1 else 1) * ((m * 2 ^ w : Nat) : Int))

/-- The magnitude and the sign of such an integer. -/
theorem scaled_natAbs {neg : Bool} {M : Nat} {n : Int} (h : n = (if neg then -1 else 1) * (M : Int)) (h0 : M ≠ 0) :
    n.natAbs = M ∧ decide (n < 0) = neg ∧ n ≠ 0 := by
  cases neg <;> simp at h <;> subst h <;> refine ⟨by omega, ?_, by omega⟩ <;> simp
  omega

/-- A finite pattern, counted in the least positive number of its format. -/
theorem unpack_scaled (f : Fmt) (he : 2 ≤ f.eb) (hm : 1 ≤ f.mb) (ftz : Bool) (bits : Nat) (h : finIn f bits) :
    (unpack f ftz bits).scaled (signIn f bits) (leastExp f) (unitsIn f ftz bits) := by
  have hb : 2 ≤ 2 ^ (f.eb - 1) := by
    calc 2 = 2 ^ 1 := rfl
      _ ≤ 2 ^ (f.eb - 1) := Nat.pow_le_pow_right (by omega) (by omega)
  have hK : (leastExp f : Int) = 2 ^ (f.eb - 1) + f.mb - 2 := by unfold leastExp; push_cast [Nat.cast_sub (show 2 ≤ 2 ^ (f.eb - 1) + f.mb by omega)]; ring
  have hbias : (f.bias : Int) = 2 ^ (f.eb - 1) - 1 := by unfold Fmt.bias; push_cast [Nat.cast_sub (show 1 ≤ 2 ^ (f.eb - 1) by omega)]; ring
  unfold unpack unitsIn
  rw [if_neg (show ¬bits / 2 ^ f.mb % 2 ^ f.eb = f.emax from h)]
  unfold finIn expField at h
  unfold expField fracField signIn
  generalize bits / 2 ^ f.mb % 2 ^ f.eb = x at *
  by_cases hx : x = 0
  · simp only [hx, if_true]
    cases ftz
    · refine ⟨_, _, rfl, fun h0 => by simp [h0], fun h0 => ⟨0, ?_, by simp⟩⟩
      push_cast; omega
    · exact ⟨0, 0, rfl, fun _ => by simp, fun h0 => absurd rfl h0⟩
  · simp only [hx, if_false]
    refine ⟨_, _, rfl, fun h0 => ?_, fun h0 => ⟨x - 1, ?_, by push_cast; ring⟩⟩
    · have := Nat.two_pow_pos f.mb
      omega
    · push_cast [Nat.cast_sub (show 1 ≤ x by omega)]; omega

/-- An integer over a power of two, over a higher one. -/
theorem FVal.scaled_up {v : FVal} {a : Bool} {k : Nat} {n : Int} (j : Nat) (h : v.scaled a k n) : v.scaled a (k + j) (n * 2 ^ j) := by
  obtain ⟨m, e, rfl, h0, h1⟩ := h
  refine ⟨m, e, rfl, fun hm => by simp [h0 hm], fun hm => ?_⟩
  obtain ⟨w, hw, rfl⟩ := h1 hm
  exact ⟨w + j, by push_cast; omega, by push_cast; ring⟩

/-- The exact product. -/
theorem mulV_scaled {v w : FVal} {a b : Bool} {k j : Nat} {n p : Int} (h : v.scaled a k n) (g : w.scaled b j p) :
    (mulV v w).scaled (a != b) (k + j) (n * p) := by
  obtain ⟨m, e, rfl, h0, h1⟩ := h
  obtain ⟨l, f, rfl, g0, g1⟩ := g
  refine ⟨m * l, e + f, rfl, fun hm => ?_, fun hm => ?_⟩
  · rcases Nat.mul_eq_zero.mp hm with hm | hm
    · simp [h0 hm]
    · simp [g0 hm]
  · obtain ⟨x, hx, rfl⟩ := h1 (fun hz => hm (by simp [hz]))
    obtain ⟨y, hy, rfl⟩ := g1 (fun hz => hm (by simp [hz]))
    refine ⟨x + y, by push_cast; omega, ?_⟩
    cases a <;> cases b <;> simp <;> ring

/-- A value and its negation. -/
theorem neg_scaled {v : FVal} {a : Bool} {k : Nat} {n : Int} (h : v.scaled a k n) : v.neg.scaled (!a) k (-n) := by
  obtain ⟨m, e, rfl, h0, h1⟩ := h
  refine ⟨m, e, rfl, fun hm => by simp [h0 hm], fun hm => ?_⟩
  obtain ⟨w, hw, rfl⟩ := h1 hm
  exact ⟨w, hw, by cases a <;> simp⟩

/-- The exact sum. -/
theorem addV_scaled {v w : FVal} {a b : Bool} {k : Nat} {n p : Int} (rm : Rm) (h : v.scaled a k n) (g : w.scaled b k p) :
    (addV rm v w).scaled (if n + p = 0 then (if n = 0 ∧ a = b then a else rm == .rdn) else decide (n + p < 0)) k (n + p) := by
  obtain ⟨m, e, rfl, h0, h1⟩ := h
  obtain ⟨l, f, rfl, g0, g1⟩ := g
  have sgn : ∀ (c : Bool) (M : Nat) (z : Int), z = (if c then -1 else 1) * (M : Int) → M ≠ 0 →
      (if z = 0 then (if z = 0 ∧ a = b then a else rm == .rdn) else decide (z < 0)) = c := by
    intro c M z hz hM
    obtain ⟨_, h2, h3⟩ := scaled_natAbs hz hM
    rw [if_neg h3, h2]
  have pos : ∀ (y x : Nat), y ≠ 0 → y * 2 ^ x ≠ 0 := fun y x hy => Nat.mul_ne_zero hy (Nat.pos_iff_ne_zero.mp (Nat.two_pow_pos x))
  unfold addV
  by_cases hm : m = 0
  · by_cases hl : l = 0
    · have hn := h0 hm
      have hp := g0 hl
      subst hn; subst hp
      simp only [hm, hl, and_self, if_true, add_zero, true_and]
      exact ⟨0, 0, rfl, fun _ => rfl, fun h => absurd rfl h⟩
    · have hn := h0 hm
      subst hn
      obtain ⟨y, hy, rfl⟩ := g1 hl
      simp only [hm, hl, and_false, if_false, if_true, zero_add]
      have := sgn b (l * 2 ^ y) _ rfl (pos l y hl)
      obtain ⟨_, h2, h3⟩ := scaled_natAbs (rfl : (if b then (-1 : Int) else 1) * ((l * 2 ^ y : Nat) : Int) = _) (pos l y hl)
      rw [if_neg h3, h2]
      exact ⟨l, f, rfl, fun h => absurd h hl, fun _ => ⟨y, hy, rfl⟩⟩
  · obtain ⟨x, hx, rfl⟩ := h1 hm
    obtain ⟨_, h2, h3⟩ := scaled_natAbs (rfl : (if a then (-1 : Int) else 1) * ((m * 2 ^ x : Nat) : Int) = _) (pos m x hm)
    by_cases hl : l = 0
    · have hp := g0 hl
      subst hp
      simp only [hm, hl, false_and, if_false, if_true, add_zero]
      rw [if_neg h3, h2]
      exact ⟨m, e, rfl, fun h => absurd h hm, fun _ => ⟨x, hx, rfl⟩⟩
    · obtain ⟨y, hy, rfl⟩ := g1 hl
      simp only [hm, hl, false_and, if_false]
      -- both terms over the lower of the two powers
      have hg : ∃ c : Nat, (c : Int) = min e f + k := ⟨(min e f + k).toNat, by omega⟩
      obtain ⟨c, hc⟩ := hg
      have hs : (if a then -((m * 2 ^ (e - min e f).toNat : Nat) : Int) else ((m * 2 ^ (e - min e f).toNat : Nat) : Int)) * 2 ^ c =
          (if a then -1 else 1) * ((m * 2 ^ x : Nat) : Int) := by
        rw [show x = (e - min e f).toNat + c by omega]
        cases a <;> simp <;> ring
      have ht : (if b then -((l * 2 ^ (f - min e f).toNat : Nat) : Int) else ((l * 2 ^ (f - min e f).toNat : Nat) : Int)) * 2 ^ c =
          (if b then -1 else 1) * ((l * 2 ^ y : Nat) : Int) := by
        rw [show y = (f - min e f).toNat + c by omega]
        cases b <;> simp <;> ring
      rw [← hs, ← ht, ← Int.add_mul]
      have hz : (if a then -((m * 2 ^ (e - min e f).toNat : Nat) : Int) else ((m * 2 ^ (e - min e f).toNat : Nat) : Int)) * 2 ^ c ≠ 0 := by rw [hs]; exact h3
      generalize (if a then -((m * 2 ^ (e - min e f).toNat : Nat) : Int) else ((m * 2 ^ (e - min e f).toNat : Nat) : Int)) +
        (if b then -((l * 2 ^ (f - min e f).toNat : Nat) : Int) else ((l * 2 ^ (f - min e f).toNat : Nat) : Int)) = t
      have hc2 : (0 : Int) < 2 ^ c := by positivity
      by_cases ht0 : t = 0
      · subst ht0
        simp only [Int.zero_mul, if_true]
        rw [if_neg (fun h => hz h.1)]
        exact ⟨0, 0, rfl, fun _ => rfl, fun h => absurd rfl h⟩
      · rw [if_neg ht0, if_neg (Int.mul_ne_zero ht0 (by omega))]
        have hneg : decide (t * 2 ^ c < 0) = decide (t < 0) := by
          simp only [decide_eq_decide]
          constructor
          · intro h; by_contra h'; have := Int.mul_nonneg (show 0 ≤ t by omega) (le_of_lt hc2); omega
          · intro h; exact Int.mul_neg_of_neg_of_pos h hc2
        rw [hneg]
        refine ⟨t.natAbs, min e f, rfl, fun h => absurd (Int.natAbs_eq_zero.mp h) ht0, fun _ => ⟨c, hc, ?_⟩⟩
        push_cast
        by_cases hn : t < 0
        · simp only [hn, decide_true, if_true]
          rw [abs_of_neg hn]; ring
        · simp only [hn, decide_false, Bool.false_eq_true, if_false]
          rw [abs_of_nonneg (by omega)]; ring

/-- The rounding of an exact value (R33, R36). -/
theorem roundV_rounds (f : Fmt) (he : 2 ≤ f.eb) (hm : 1 ≤ f.mb) (md : FpMode) {v : FVal} {a : Bool} {k : Nat} {n : Int} (h : v.scaled a k n) :
    roundsInt f md (n * 2 ^ (leastExp f - k)) (k - leastExp f) a (roundV f md v) := by
  obtain ⟨m, e, rfl, h0, h1⟩ := h
  by_cases hz : m = 0
  · rw [h0 hz]
    refine ⟨fun h => absurd (Int.zero_mul _) h, fun _ => ?_⟩
    simp [roundV, roundFin, hz, Fmt.zero, Fmt.signBit]
  · obtain ⟨w, hw, rfl⟩ := h1 hz
    have hn : (if a then (-1 : Int) else 1) * ((m * 2 ^ w : Nat) : Int) * 2 ^ (leastExp f - k) =
        (if a then -1 else 1) * ((m * 2 ^ (w + (leastExp f - k)) : Nat) : Int) := by push_cast; ring
    rw [hn]
    obtain ⟨h2, h3, h4⟩ := scaled_natAbs (rfl : (if a then (-1 : Int) else 1) * ((m * 2 ^ (w + (leastExp f - k)) : Nat) : Int) = _)
      (Nat.mul_ne_zero hz (Nat.pos_iff_ne_zero.mp (Nat.two_pow_pos _)))
    refine ⟨fun _ => ?_, fun h => absurd h h4⟩
    rw [h2, h3]
    exact roundFin_rounds f he hm md a m e (w + (leastExp f - k)) (k - leastExp f) (by push_cast; omega)

end Sys2Proof.Machine
end

