-- ==== Sys2Proof/Laws/State.lean ====
section
/-! SUPPORT. The fields of the state after each of its updates, and reads after writes of the cores, segments, dies and registers. -/

set_option Elab.async false

namespace Sys2Proof.Machine

/-! ### One core, one segment, one die, the module: the fields that each update leaves alone -/

@[simp] theorem State.segs_setCoreAt (s : State) (k : Nat) (c : Core) : (s.setCoreAt k c).segs = s.segs := rfl
@[simp] theorem State.dies_setCoreAt (s : State) (k : Nat) (c : Core) : (s.setCoreAt k c).dies = s.dies := rfl
@[simp] theorem State.mod_setCoreAt (s : State) (k : Nat) (c : Core) : (s.setCoreAt k c).mod = s.mod := rfl
@[simp] theorem State.cur_setCoreAt (s : State) (k : Nat) (c : Core) : (s.setCoreAt k c).cur = s.cur := rfl
@[simp] theorem State.turns_setCoreAt (s : State) (k : Nat) (c : Core) : (s.setCoreAt k c).turns = s.turns := rfl
@[simp] theorem State.fresh_setCoreAt (s : State) (k : Nat) (c : Core) : (s.setCoreAt k c).fresh = s.fresh := rfl
@[simp] theorem State.segs_setCore (s : State) (c : Core) : (s.setCore c).segs = s.segs := rfl
@[simp] theorem State.dies_setCore (s : State) (c : Core) : (s.setCore c).dies = s.dies := rfl
@[simp] theorem State.mod_setCore (s : State) (c : Core) : (s.setCore c).mod = s.mod := rfl
@[simp] theorem State.cur_setCore (s : State) (c : Core) : (s.setCore c).cur = s.cur := rfl
@[simp] theorem State.turns_setCore (s : State) (c : Core) : (s.setCore c).turns = s.turns := rfl
@[simp] theorem State.fresh_setCore (s : State) (c : Core) : (s.setCore c).fresh = s.fresh := rfl
@[simp] theorem State.segs_onCore (s : State) (f : Core → Core) : (s.onCore f).segs = s.segs := rfl
@[simp] theorem State.dies_onCore (s : State) (f : Core → Core) : (s.onCore f).dies = s.dies := rfl
@[simp] theorem State.mod_onCore (s : State) (f : Core → Core) : (s.onCore f).mod = s.mod := rfl
@[simp] theorem State.cur_onCore (s : State) (f : Core → Core) : (s.onCore f).cur = s.cur := rfl
@[simp] theorem State.turns_onCore (s : State) (f : Core → Core) : (s.onCore f).turns = s.turns := rfl
@[simp] theorem State.fresh_onCore (s : State) (f : Core → Core) : (s.onCore f).fresh = s.fresh := rfl
@[simp] theorem State.segs_onCoreAt (s : State) (k : Nat) (f : Core → Core) : (s.onCoreAt k f).segs = s.segs := rfl
@[simp] theorem State.dies_onCoreAt (s : State) (k : Nat) (f : Core → Core) : (s.onCoreAt k f).dies = s.dies := rfl
@[simp] theorem State.mod_onCoreAt (s : State) (k : Nat) (f : Core → Core) : (s.onCoreAt k f).mod = s.mod := rfl
@[simp] theorem State.cur_onCoreAt (s : State) (k : Nat) (f : Core → Core) : (s.onCoreAt k f).cur = s.cur := rfl
@[simp] theorem State.turns_onCoreAt (s : State) (k : Nat) (f : Core → Core) : (s.onCoreAt k f).turns = s.turns := rfl
@[simp] theorem State.fresh_onCoreAt (s : State) (k : Nat) (f : Core → Core) : (s.onCoreAt k f).fresh = s.fresh := rfl
@[simp] theorem State.cores_setSegAt (s : State) (k : Nat) (g : Seg) : (s.setSegAt k g).cores = s.cores := rfl
@[simp] theorem State.dies_setSegAt (s : State) (k : Nat) (g : Seg) : (s.setSegAt k g).dies = s.dies := rfl
@[simp] theorem State.mod_setSegAt (s : State) (k : Nat) (g : Seg) : (s.setSegAt k g).mod = s.mod := rfl
@[simp] theorem State.cur_setSegAt (s : State) (k : Nat) (g : Seg) : (s.setSegAt k g).cur = s.cur := rfl
@[simp] theorem State.turns_setSegAt (s : State) (k : Nat) (g : Seg) : (s.setSegAt k g).turns = s.turns := rfl
@[simp] theorem State.fresh_setSegAt (s : State) (k : Nat) (g : Seg) : (s.setSegAt k g).fresh = s.fresh := rfl
@[simp] theorem State.cores_setDieAt (s : State) (d : Nat) (x : Die) : (s.setDieAt d x).cores = s.cores := rfl
@[simp] theorem State.segs_setDieAt (s : State) (d : Nat) (x : Die) : (s.setDieAt d x).segs = s.segs := rfl
@[simp] theorem State.mod_setDieAt (s : State) (d : Nat) (x : Die) : (s.setDieAt d x).mod = s.mod := rfl
@[simp] theorem State.cur_setDieAt (s : State) (d : Nat) (x : Die) : (s.setDieAt d x).cur = s.cur := rfl
@[simp] theorem State.turns_setDieAt (s : State) (d : Nat) (x : Die) : (s.setDieAt d x).turns = s.turns := rfl
@[simp] theorem State.fresh_setDieAt (s : State) (d : Nat) (x : Die) : (s.setDieAt d x).fresh = s.fresh := rfl
@[simp] theorem State.cores_onDieAt (s : State) (d : Nat) (f : Die → Die) : (s.onDieAt d f).cores = s.cores := rfl
@[simp] theorem State.segs_onDieAt (s : State) (d : Nat) (f : Die → Die) : (s.onDieAt d f).segs = s.segs := rfl
@[simp] theorem State.mod_onDieAt (s : State) (d : Nat) (f : Die → Die) : (s.onDieAt d f).mod = s.mod := rfl
@[simp] theorem State.cur_onDieAt (s : State) (d : Nat) (f : Die → Die) : (s.onDieAt d f).cur = s.cur := rfl
@[simp] theorem State.turns_onDieAt (s : State) (d : Nat) (f : Die → Die) : (s.onDieAt d f).turns = s.turns := rfl
@[simp] theorem State.fresh_onDieAt (s : State) (d : Nat) (f : Die → Die) : (s.onDieAt d f).fresh = s.fresh := rfl
@[simp] theorem State.cores_onMod (s : State) (f : Module → Module) : (s.onMod f).cores = s.cores := rfl
@[simp] theorem State.segs_onMod (s : State) (f : Module → Module) : (s.onMod f).segs = s.segs := rfl
@[simp] theorem State.dies_onMod (s : State) (f : Module → Module) : (s.onMod f).dies = s.dies := rfl
@[simp] theorem State.cur_onMod (s : State) (f : Module → Module) : (s.onMod f).cur = s.cur := rfl
@[simp] theorem State.turns_onMod (s : State) (f : Module → Module) : (s.onMod f).turns = s.turns := rfl
@[simp] theorem State.fresh_onMod (s : State) (f : Module → Module) : (s.onMod f).fresh = s.fresh := rfl
@[simp] theorem State.mod_onMod_eq (s : State) (f : Module → Module) : (s.onMod f).mod = f s.mod := rfl

/-! ### Updates of the module's parts: what they leave alone -/

@[simp] theorem State.cores_onPort (s : State) (n : Nat) (f : Port → Port) : (s.onPort n f).cores = s.cores := rfl
@[simp] theorem State.segs_onPort (s : State) (n : Nat) (f : Port → Port) : (s.onPort n f).segs = s.segs := rfl
@[simp] theorem State.dies_onPort (s : State) (n : Nat) (f : Port → Port) : (s.onPort n f).dies = s.dies := rfl
@[simp] theorem State.cur_onPort (s : State) (n : Nat) (f : Port → Port) : (s.onPort n f).cur = s.cur := rfl
@[simp] theorem State.turns_onPort (s : State) (n : Nat) (f : Port → Port) : (s.onPort n f).turns = s.turns := rfl
@[simp] theorem State.port_onPort_same (s : State) (n : Nat) (f : Port → Port) : (s.onPort n f).port n = f (s.port n) := SMap.get_set_same _ _ _ _
theorem State.port_onPort_other (s : State) (n k : Nat) (f : Port → Port) (h : k ≠ n) : (s.onPort n f).port k = s.port k :=
  SMap.get_set_other _ _ _ _ _ h
/-- An acknowledgement is one more flit that is to go out on its port, while the port is up. -/
theorem State.ackFlit_eq (s : State) (n : Nat) (seq : Byte) :
    s.ackFlit n seq = if (s.port n).up then s.onPort n (fun p => { p with out := p.out ++ [controlFlit 2 seq] }) else s := rfl
@[simp] theorem State.cores_ackFlit (s : State) (n : Nat) (q : Byte) : (s.ackFlit n q).cores = s.cores := by rw [ackFlit_eq]; split <;> rfl
@[simp] theorem State.segs_ackFlit (s : State) (n : Nat) (q : Byte) : (s.ackFlit n q).segs = s.segs := by rw [ackFlit_eq]; split <;> rfl
@[simp] theorem State.dies_ackFlit (s : State) (n : Nat) (q : Byte) : (s.ackFlit n q).dies = s.dies := by rw [ackFlit_eq]; split <;> rfl
@[simp] theorem State.cur_ackFlit (s : State) (n : Nat) (q : Byte) : (s.ackFlit n q).cur = s.cur := by rw [ackFlit_eq]; split <;> rfl
@[simp] theorem State.turns_ackFlit (s : State) (n : Nat) (q : Byte) : (s.ackFlit n q).turns = s.turns := by rw [ackFlit_eq]; split <;> rfl
@[simp] theorem State.farIn_ackFlit (s : State) (n : Nat) (q : Byte) : (s.ackFlit n q).mod.farIn = s.mod.farIn := by rw [ackFlit_eq]; split <;> rfl
theorem State.port_ackFlit (s : State) (n k : Nat) (q : Byte) : (s.ackFlit n q).port k =
    if k = n ∧ (s.port n).up = true then { s.port n with out := (s.port n).out ++ [controlFlit 2 q] } else s.port k := by
  rw [ackFlit_eq]
  by_cases u : (s.port n).up <;> by_cases e : k = n
  · subst e; simp [u]
  · simp [u, e, State.port_onPort_other _ _ _ _ e]
  · subst e; simp [u]
  · simp [u]
@[simp] theorem State.cores_onLaunch (s : State) (ctx : Byte) (lid : BitVec 16) (f : Launch → Launch) : (s.onLaunch ctx lid f).cores = s.cores := rfl
@[simp] theorem State.segs_onLaunch (s : State) (ctx : Byte) (lid : BitVec 16) (f : Launch → Launch) : (s.onLaunch ctx lid f).segs = s.segs := rfl
@[simp] theorem State.dies_onLaunch (s : State) (ctx : Byte) (lid : BitVec 16) (f : Launch → Launch) : (s.onLaunch ctx lid f).dies = s.dies := rfl
@[simp] theorem State.cur_onLaunch (s : State) (ctx : Byte) (lid : BitVec 16) (f : Launch → Launch) : (s.onLaunch ctx lid f).cur = s.cur := rfl
@[simp] theorem State.turns_onLaunch (s : State) (ctx : Byte) (lid : BitVec 16) (f : Launch → Launch) : (s.onLaunch ctx lid f).turns = s.turns := rfl
@[simp] theorem State.cores_setHead (s : State) (h : Option Nat) : (s.setHead h).cores = s.cores := rfl
@[simp] theorem State.segs_setHead (s : State) (h : Option Nat) : (s.setHead h).segs = s.segs := rfl
@[simp] theorem State.dies_setHead (s : State) (h : Option Nat) : (s.setHead h).dies = s.dies := rfl
@[simp] theorem State.cur_setHead (s : State) (h : Option Nat) : (s.setHead h).cur = s.cur := rfl
@[simp] theorem State.turns_setHead (s : State) (h : Option Nat) : (s.setHead h).turns = s.turns := rfl
@[simp] theorem State.head_setHead (s : State) (h : Option Nat) : (s.setHead h).mod.head = h := rfl
@[simp] theorem State.cores_setDesc (s : State) (ctx : Byte) (tid : Nat) (d : Desc) : (s.setDesc ctx tid d).cores = s.cores := rfl
@[simp] theorem State.segs_setDesc (s : State) (ctx : Byte) (tid : Nat) (d : Desc) : (s.setDesc ctx tid d).segs = s.segs := rfl
@[simp] theorem State.dies_setDesc (s : State) (ctx : Byte) (tid : Nat) (d : Desc) : (s.setDesc ctx tid d).dies = s.dies := rfl
@[simp] theorem State.cur_setDesc (s : State) (ctx : Byte) (tid : Nat) (d : Desc) : (s.setDesc ctx tid d).cur = s.cur := rfl
@[simp] theorem State.turns_setDesc (s : State) (ctx : Byte) (tid : Nat) (d : Desc) : (s.setDesc ctx tid d).turns = s.turns := rfl
@[simp] theorem State.cores_logError (s : State) (code ctx : Byte) (lid : BitVec 16) (detail : Nat) : (s.logError code ctx lid detail).cores = s.cores := by
  rw [State.logError]; rfl
@[simp] theorem State.segs_logError (s : State) (code ctx : Byte) (lid : BitVec 16) (detail : Nat) : (s.logError code ctx lid detail).segs = s.segs := by
  rw [State.logError]; rfl
@[simp] theorem State.dies_logError (s : State) (code ctx : Byte) (lid : BitVec 16) (detail : Nat) : (s.logError code ctx lid detail).dies = s.dies := by
  rw [State.logError]; rfl
@[simp] theorem State.cur_logError (s : State) (code ctx : Byte) (lid : BitVec 16) (detail : Nat) : (s.logError code ctx lid detail).cur = s.cur := by
  rw [State.logError]; rfl
@[simp] theorem State.turns_logError (s : State) (code ctx : Byte) (lid : BitVec 16) (detail : Nat) : (s.logError code ctx lid detail).turns = s.turns := by
  rw [State.logError]; rfl

/-! ### Reading a core, a segment or a die after an update -/

@[simp] theorem State.coreAt_setCoreAt_same (s : State) (k : Nat) (c : Core) : (s.setCoreAt k c).coreAt k = c := SMap.get_set_same _ _ _ _
theorem State.coreAt_setCoreAt_other (s : State) (k j : Nat) (c : Core) (h : j ≠ k) : (s.setCoreAt k c).coreAt j = s.coreAt j :=
  SMap.get_set_other _ _ _ _ _ h
theorem State.coreAt_setCoreAt (s : State) (k j : Nat) (c : Core) :
    (s.setCoreAt k c).coreAt j = if j = k then c else s.coreAt j := SMap.get_set _ _ _ _ _
@[simp] theorem State.coreAt_onCoreAt_same (s : State) (k : Nat) (f : Core → Core) : (s.onCoreAt k f).coreAt k = f (s.coreAt k) :=
  SMap.get_set_same _ _ _ _
theorem State.coreAt_onCoreAt_other (s : State) (k j : Nat) (f : Core → Core) (h : j ≠ k) : (s.onCoreAt k f).coreAt j = s.coreAt j :=
  SMap.get_set_other _ _ _ _ _ h
theorem State.coreAt_onCoreAt (s : State) (k j : Nat) (f : Core → Core) :
    (s.onCoreAt k f).coreAt j = if j = k then f (s.coreAt k) else s.coreAt j := SMap.get_set _ _ _ _ _
@[simp] theorem State.core_onCore (s : State) (f : Core → Core) : (s.onCore f).core = f s.core := SMap.get_set_same _ _ _ _
@[simp] theorem State.core_setCore (s : State) (c : Core) : (s.setCore c).core = c := SMap.get_set_same _ _ _ _
theorem State.coreAt_onCore_other (s : State) (j : Nat) (f : Core → Core) (h : j ≠ s.cur) : (s.onCore f).coreAt j = s.coreAt j :=
  SMap.get_set_other _ _ _ _ _ h
@[simp] theorem State.segAt_setSegAt_same (s : State) (k : Nat) (g : Seg) : (s.setSegAt k g).segAt k = g := SMap.get_set_same _ _ _ _
theorem State.segAt_setSegAt (s : State) (k j : Nat) (g : Seg) :
    (s.setSegAt k g).segAt j = if j = k then g else s.segAt j := SMap.get_set _ _ _ _ _
@[simp] theorem State.dieAt_setDieAt_same (s : State) (d : Nat) (x : Die) : (s.setDieAt d x).dieAt d = x := SMap.get_set_same _ _ _ _
theorem State.dieAt_setDieAt (s : State) (d e : Nat) (x : Die) :
    (s.setDieAt d x).dieAt e = if e = d then x else s.dieAt e := SMap.get_set _ _ _ _ _
@[simp] theorem State.dieAt_onDieAt_same (s : State) (d : Nat) (f : Die → Die) : (s.onDieAt d f).dieAt d = f (s.dieAt d) :=
  SMap.get_set_same _ _ _ _
theorem State.dieAt_onDieAt (s : State) (d e : Nat) (f : Die → Die) :
    (s.onDieAt d f).dieAt e = if e = d then f (s.dieAt d) else s.dieAt e := SMap.get_set _ _ _ _ _

@[simp] theorem State.dieAt_setCoreAt (s : State) (k : Nat) (c : Core) (j : Nat) : (s.setCoreAt k c).dieAt j = s.dieAt j := rfl
@[simp] theorem State.tick_setCoreAt (s : State) (k : Nat) (c : Core) : (s.setCoreAt k c).tick = s.tick := rfl
@[simp] theorem State.segAt_setCoreAt (s : State) (k : Nat) (c : Core) (j : Nat) : (s.setCoreAt k c).segAt j = s.segAt j := rfl
@[simp] theorem State.die_setCoreAt (s : State) (k : Nat) (c : Core) : (s.setCoreAt k c).die = s.die := rfl
@[simp] theorem State.sup_setCoreAt (s : State) (k : Nat) (c : Core) : (s.setCoreAt k c).sup = s.sup := rfl
@[simp] theorem State.dieAt_setCore (s : State) (c : Core) (j : Nat) : (s.setCore c).dieAt j = s.dieAt j := rfl
@[simp] theorem State.tick_setCore (s : State) (c : Core) : (s.setCore c).tick = s.tick := rfl
@[simp] theorem State.segAt_setCore (s : State) (c : Core) (j : Nat) : (s.setCore c).segAt j = s.segAt j := rfl
@[simp] theorem State.die_setCore (s : State) (c : Core) : (s.setCore c).die = s.die := rfl
@[simp] theorem State.sup_setCore (s : State) (c : Core) : (s.setCore c).sup = s.sup := rfl
@[simp] theorem State.dieAt_onCore (s : State) (f : Core → Core) (j : Nat) : (s.onCore f).dieAt j = s.dieAt j := rfl
@[simp] theorem State.tick_onCore (s : State) (f : Core → Core) : (s.onCore f).tick = s.tick := rfl
@[simp] theorem State.segAt_onCore (s : State) (f : Core → Core) (j : Nat) : (s.onCore f).segAt j = s.segAt j := rfl
@[simp] theorem State.die_onCore (s : State) (f : Core → Core) : (s.onCore f).die = s.die := rfl
@[simp] theorem State.sup_onCore (s : State) (f : Core → Core) : (s.onCore f).sup = s.sup := rfl
@[simp] theorem State.dieAt_onCoreAt (s : State) (k : Nat) (f : Core → Core) (j : Nat) : (s.onCoreAt k f).dieAt j = s.dieAt j := rfl
@[simp] theorem State.tick_onCoreAt (s : State) (k : Nat) (f : Core → Core) : (s.onCoreAt k f).tick = s.tick := rfl
@[simp] theorem State.segAt_onCoreAt (s : State) (k : Nat) (f : Core → Core) (j : Nat) : (s.onCoreAt k f).segAt j = s.segAt j := rfl
@[simp] theorem State.die_onCoreAt (s : State) (k : Nat) (f : Core → Core) : (s.onCoreAt k f).die = s.die := rfl
@[simp] theorem State.sup_onCoreAt (s : State) (k : Nat) (f : Core → Core) : (s.onCoreAt k f).sup = s.sup := rfl
@[simp] theorem State.coreAt_setSegAt (s : State) (k : Nat) (g : Seg) (j : Nat) : (s.setSegAt k g).coreAt j = s.coreAt j := rfl
@[simp] theorem State.core_setSegAt (s : State) (k : Nat) (g : Seg) : (s.setSegAt k g).core = s.core := rfl
@[simp] theorem State.dieAt_setSegAt (s : State) (k : Nat) (g : Seg) (j : Nat) : (s.setSegAt k g).dieAt j = s.dieAt j := rfl
@[simp] theorem State.tick_setSegAt (s : State) (k : Nat) (g : Seg) : (s.setSegAt k g).tick = s.tick := rfl
@[simp] theorem State.die_setSegAt (s : State) (k : Nat) (g : Seg) : (s.setSegAt k g).die = s.die := rfl
@[simp] theorem State.sup_setSegAt (s : State) (k : Nat) (g : Seg) : (s.setSegAt k g).sup = s.sup := rfl
@[simp] theorem State.coreAt_setDieAt (s : State) (d : Nat) (x : Die) (j : Nat) : (s.setDieAt d x).coreAt j = s.coreAt j := rfl
@[simp] theorem State.core_setDieAt (s : State) (d : Nat) (x : Die) : (s.setDieAt d x).core = s.core := rfl
@[simp] theorem State.segAt_setDieAt (s : State) (d : Nat) (x : Die) (j : Nat) : (s.setDieAt d x).segAt j = s.segAt j := rfl
@[simp] theorem State.die_setDieAt (s : State) (d : Nat) (x : Die) : (s.setDieAt d x).die = s.die := rfl
@[simp] theorem State.sup_setDieAt (s : State) (d : Nat) (x : Die) : (s.setDieAt d x).sup = s.sup := rfl
@[simp] theorem State.coreAt_onDieAt (s : State) (d : Nat) (f : Die → Die) (j : Nat) : (s.onDieAt d f).coreAt j = s.coreAt j := rfl
@[simp] theorem State.core_onDieAt (s : State) (d : Nat) (f : Die → Die) : (s.onDieAt d f).core = s.core := rfl
@[simp] theorem State.segAt_onDieAt (s : State) (d : Nat) (f : Die → Die) (j : Nat) : (s.onDieAt d f).segAt j = s.segAt j := rfl
@[simp] theorem State.die_onDieAt (s : State) (d : Nat) (f : Die → Die) : (s.onDieAt d f).die = s.die := rfl
@[simp] theorem State.sup_onDieAt (s : State) (d : Nat) (f : Die → Die) : (s.onDieAt d f).sup = s.sup := rfl
@[simp] theorem State.coreAt_onMod (s : State) (f : Module → Module) (j : Nat) : (s.onMod f).coreAt j = s.coreAt j := rfl
@[simp] theorem State.core_onMod (s : State) (f : Module → Module) : (s.onMod f).core = s.core := rfl
@[simp] theorem State.dieAt_onMod (s : State) (f : Module → Module) (j : Nat) : (s.onMod f).dieAt j = s.dieAt j := rfl
@[simp] theorem State.tick_onMod (s : State) (f : Module → Module) : (s.onMod f).tick = s.tick := rfl
@[simp] theorem State.segAt_onMod (s : State) (f : Module → Module) (j : Nat) : (s.onMod f).segAt j = s.segAt j := rfl
@[simp] theorem State.die_onMod (s : State) (f : Module → Module) : (s.onMod f).die = s.die := rfl
@[simp] theorem State.sup_onMod (s : State) (f : Module → Module) : (s.onMod f).sup = s.sup := rfl

/-! ### Registers: what a later row reads after a write (R125, R108) -/

theorem Core.rdS_beginRow (c : Core) (r : Reg) : c.beginRow.rdS r = if r = 0 then 0 else SMap.get 0 c.regs.s r.toNat := rfl
theorem Core.rdP_beginRow (c : Core) (r : Reg3) : c.beginRow.rdP r = (r == 0 || c.regs.p.getLsbD r.toNat) := rfl
theorem Core.rdM_beginRow (c : Core) (r : Reg3) : c.beginRow.rdM r = if r = 0 then ~~~0#64 else SMap.get 0 c.regs.m r.toNat := rfl
theorem Core.rdV_beginRow (c : Core) (r : Reg) (i : Nat) : c.beginRow.rdV r i = SMap.get 0 c.regs.v (r.toNat * 64 + i) := rfl
theorem Core.rdQ_beginRow (c : Core) (r : Reg3) (i : Nat) : c.beginRow.rdQ r i = SMap.get 0 c.regs.q (r.toNat * 64 + i) := rfl

/-- A scalar write as a change of the register file. -/
theorem Core.wrS_eq (c : Core) (r : Reg) (v : Word) :
    c.wrS r v = { c with regs := { c.regs with s := if r = 0 then c.regs.s else SMap.set 0 c.regs.s r.toNat v } } := by
  unfold Core.wrS; split <;> rfl
theorem Core.regs_wrS_s (c : Core) (r : Reg) (v : Word) :
    (c.wrS r v).regs.s = if r = 0 then c.regs.s else SMap.set 0 c.regs.s r.toNat v := by rw [Core.wrS_eq]
/-- What a later row reads in a scalar register after a write. -/
theorem Core.rdS_wrS (c : Core) (r q : Reg) (v : Word) :
    (c.wrS r v).beginRow.rdS q = if q = r ∧ q ≠ 0 then v else c.beginRow.rdS q := by
  simp only [Core.rdS_beginRow, Core.regs_wrS_s]
  by_cases hq : q = 0#5
  · simp [hq]
  · by_cases hr : r = 0#5
    · simp [hr]
    · by_cases h : q = r
      · subst h; simp [hq]
      · have e : q.toNat ≠ r.toNat := fun e => h (BitVec.eq_of_toNat_eq e)
        simp [hr, hq, h, SMap.get_set_other _ _ _ _ _ e]

/-- A predicate write as a change of the register file. -/
theorem Core.wrP_eq (c : Core) (r : Reg3) (b : Bool) :
    c.wrP r b = { c with regs := { c.regs with p := (c.wrP r b).regs.p } } := by
  unfold Core.wrP; split <;> rfl
/-- What a later row reads in a predicate after a write. -/
theorem Core.rdP_wrP (c : Core) (r q : Reg3) (b : Bool) :
    (c.wrP r b).beginRow.rdP q = if q = r ∧ q ≠ 0 then b else c.beginRow.rdP q := by
  simp only [Core.rdP_beginRow]
  unfold Core.wrP
  by_cases hq : q = 0#3
  · simp [hq]
  · by_cases hr : r = 0#3
    · simp [hr]
    · have key : ∀ (p : BitVec 8) (b : Bool) (r q : Reg3), q ≠ 0#3 → r ≠ 0#3 →
          (if b then p ||| 1#8 <<< r.toNat else p &&& ~~~(1#8 <<< r.toNat)).getLsbD q.toNat = if q = r then b else p.getLsbD q.toNat := by
        intro p b r q hq hr
        have h1 : q.toNat < 8 := q.isLt
        have h2 : r.toNat < 8 := r.isLt
        have h3 : (q = r) ↔ q.toNat = r.toNat := ⟨fun h => by rw [h], fun h => BitVec.eq_of_toNat_eq h⟩
        by_cases e : q.toNat = r.toNat
        · cases b <;> simp [h3, e, h2]
        · cases b <;> simp [h3, e, h1] <;> omega
      have hb : (q == 0#3) = false := by simpa using hq
      simp [hq, hr, hb, key _ b r q hq hr]

/-- A mask write as a change of the register file. -/
theorem Core.wrM_eq (c : Core) (r : Reg3) (v : Word) :
    c.wrM r v = { c with regs := { c.regs with m := if r = 0 then c.regs.m else SMap.set 0 c.regs.m r.toNat v } } := by
  unfold Core.wrM; split <;> rfl
/-- What a later row reads in a mask after a write. -/
theorem Core.rdM_wrM (c : Core) (r q : Reg3) (v : Word) :
    (c.wrM r v).beginRow.rdM q = if q = r ∧ q ≠ 0 then v else c.beginRow.rdM q := by
  simp only [Core.rdM_beginRow, Core.wrM_eq]
  by_cases hq : q = 0#3
  · simp [hq]
  · by_cases hr : r = 0#3
    · simp [hr]
    · by_cases h : q = r
      · subst h; simp [hq]
      · have e : q.toNat ≠ r.toNat := fun e => h (BitVec.eq_of_toNat_eq e)
        simp [hr, hq, h, SMap.get_set_other _ _ _ _ _ e]

end Sys2Proof.Machine
end

