-- ==== Sys2Proof/Laws/Ops.lean ====
section
/-! SUPPORT. What the shared operations over scratchpad and the halt line do, said once each: wide reads and writes, loads, stores and atomics
that succeed, and the raising of a class I fault. -/

set_option Elab.async false

namespace Sys2Proof

/-! ### Wide writes -/

/-- A read after the writing of consecutive values. -/
theorem SMap.get_setList_eq {α : Type} [DecidableEq α] (d : α) : ∀ (vs : List α) (m : SMap α) (k j : Nat),
    SMap.get d (SMap.setList d m k vs) j = if k ≤ j ∧ j < k + vs.length then vs.getD (j - k) d else SMap.get d m j := by
  intro vs
  induction vs with
  | nil => intro m k j; rw [if_neg (by simp)]; rfl
  | cons v vs ih =>
    intro m k j
    rw [SMap.setList, ih, SMap.get_set, List.length_cons]
    by_cases h : k = j
    · subst h; rw [if_neg (by omega), if_pos rfl, if_pos (by omega), Nat.sub_self]; rfl
    · by_cases h1 : k + 1 ≤ j ∧ j < k + 1 + vs.length
      · rw [if_pos h1, if_pos (by omega), show j - k = (j - (k + 1)) + 1 by omega]; rfl
      · rw [if_neg h1, if_neg (Ne.symm h), if_neg (by omega)]

theorem Memory.byte_setBytes (m : Memory) (x a : Nat) (bs : List Byte) :
    Memory.byte (Memory.setBytes m x bs) a = if x ≤ a ∧ a < x + bs.length then bs.getD (a - x) 0 else Memory.byte m a :=
  SMap.get_setList_eq 0 bs m x a

@[simp] theorem length_leBytes (n v : Nat) : (leBytes n v).length = n := by
  induction n generalizing v with
  | zero => rfl
  | succ n ih => simp [leBytes, ih]

/-- Byte `i` of a number, little-endian. -/
theorem getD_leBytes : ∀ (n v i : Nat), i < n → (leBytes n v).getD i 0 = BitVec.ofNat 8 (v / 256 ^ i) := by
  intro n
  induction n with
  | zero => intro v i h; omega
  | succ n ih =>
    intro v i h
    cases i with
    | zero => simp [leBytes]
    | succ i => rw [leBytes, List.getD_cons_succ, ih _ _ (by omega), Nat.div_div_eq_div_mul, pow_succ' 256 i]

/-- A read after the writing of entries none of which has the key. -/
theorem SMap.get_setAll_none {α : Type} [DecidableEq α] (d : α) (j : Nat) : ∀ (es : List (Nat × α)) (m : SMap α),
    (∀ e ∈ es, e.1 ≠ j) → SMap.get d (SMap.setAll d m es) j = SMap.get d m j := by
  intro es
  induction es with
  | nil => intro m _; rfl
  | cons e es ih =>
    intro m h
    have h1 := ih (SMap.set d m e.1 e.2) (fun x hx => h x (List.mem_cons_of_mem _ hx))
    have h2 : SMap.setAll d m (e :: es) = SMap.setAll d (SMap.set d m e.1 e.2) es := rfl
    rw [h2, h1, SMap.get_set_other _ _ _ _ _ (Ne.symm (h e List.mem_cons_self))]

theorem leNat_bytes (m : Memory) : ∀ (n a : Nat), leNat (Memory.bytes m a n) = Memory.load m a n := by
  intro n
  induction n with
  | zero => intro a; rfl
  | succ n ih =>
    intro a
    have := ih (a + 1)
    simp only [Memory.bytes] at this
    simp only [Memory.bytes, SMap.getList, leNat, Memory.load, this, Memory.byte]

theorem load_lt (m : Memory) : ∀ (n a : Nat), Memory.load m a n < 256 ^ n := by
  intro n
  induction n with
  | zero => intro a; simp [Memory.load]
  | succ n ih =>
    intro a
    have h1 := ih (a + 1)
    have h2 := (Memory.byte m a).isLt
    rw [Memory.load, pow_succ' 256 n]
    omega

namespace Machine
open Sys2Proof.Says

/-! ### Loads -/

theorem loadByte_settled (s : State) (a : Nat) (h : s.core.inPassDst a = false) : loadByte s s.core a = Memory.byte s.core.scratch a := by
  rw [loadByte, h, if_neg Bool.false_ne_true]

/-- What a load delivers where no byte belongs to an open pass. -/
theorem loadNat_settled (s : State) : ∀ (n x : Nat), settled s x n → loadNat s s.core x n = Memory.load s.core.scratch x n := by
  intro n
  induction n with
  | zero => intro x _; rfl
  | succ n ih =>
    intro x h
    rw [loadNat, loadByte_settled s x (h x (by omega) (by omega)), ih (x + 1) (fun a h1 h2 => h a (by omega) (by omega)), Memory.load]

theorem spOk_eq (s : State) (x z : Nat) : (x % z == 0 && decide (x + z ≤ s.spEnd s.cur)) = true ↔ fits s x z := by
  simp [fits]

theorem touch_load (s : State) (slot x n : Nat) (h : quiet s .load x n) : s.touch .load slot x n = s := by
  have hc : conflictAt (s.coreAt s.cur) .load (x / 64) (sectors x n) = none := h
  simp [State.touch, State.touchAt, hc, Access.writes]

/-- A load that can be made: the number at its address. -/
theorem spLoad_ok (s : State) (slot elem x z : Nat) (hf : fits s x z) (hb : badIn s.core.badScratch x z = false) (hs : settled s x z)
    (hq : quiet s .load x z) : ∃ n, spLoad s slot elem x z z = .ok { s with fresh := n } (Memory.load s.core.scratch x z) := by
  have h1 : (x % z == 0 && decide (x + z ≤ s.spEnd s.cur)) = true := (spOk_eq s x z).mpr hf
  simp only [spLoad, spRead, h1, hb, Bool.not_true, Bool.false_eq_true, if_false, loadNat_settled s z x hs]
  by_cases hp : s.core.passes = []
  · simp only [hp, if_true]; exact ⟨s.fresh, congrArg (fun u => Got.ok u _) (touch_load s slot x z hq)⟩
  · simp only [hp, if_false]; exact ⟨s.fresh + 1, congrArg (fun u => Got.ok u _) (touch_load { s with fresh := s.fresh + 1 } slot x z hq)⟩

theorem spLoad_bound (s : State) (slot elem x z : Nat) (h : ¬fits s x z) :
    spLoad s slot elem x z z = .stop (s.raise cSPBOUND slot (BitVec.ofNat 64 elem) (BitVec.ofNat 64 x)) := by
  have h1 : (x % z == 0 && decide (x + z ≤ s.spEnd s.cur)) = false := by
    by_contra c; exact h ((spOk_eq s x z).mp (by simpa using c))
  simp only [spLoad, spRead, h1, Bool.not_false, if_true]; rfl

/-! ### Stores -/

theorem shadowOwn_eq (kind : Access) : ∀ (n : Nat) (c : Core) (lo : Nat), shadowOwn c kind lo n = { c with shadows := (shadowOwn c kind lo n).shadows } := by
  intro n
  induction n with
  | zero => intro c lo; rfl
  | succ n ih => intro c lo; rw [shadowOwn, ih]

theorem get_shadowOwn (kind : Access) : ∀ (n : Nat) (c : Core) (lo k : Nat), (k < lo ∨ lo + n ≤ k) →
    SMap.get (0, 0#64, false) (shadowOwn c kind lo n).shadows k = SMap.get (0, 0#64, false) c.shadows k := by
  intro n
  induction n with
  | zero => intro c lo k _; rfl
  | succ n ih =>
    intro c lo k h
    rw [shadowOwn, ih _ _ _ (by omega)]
    exact SMap.get_set_other _ _ _ _ _ (by omega)

theorem conflictAt_putBytes (c : Core) (kind : Access) (f x : Nat) (bs : List Byte) : ∀ (n lo : Nat),
    conflictAt (c.putBytes f x bs) kind lo n = conflictAt c kind lo n := by
  intro n
  induction n with
  | zero => intro lo; rfl
  | succ n ih => intro lo; simp only [conflictAt, ih]; rfl

/-- The core after bytes have been stored and the race detector has seen a store without a conflict. -/
def stored (s : State) (kind : Access) (x : Nat) (bs : List Byte) : Core :=
  shadowOwn (s.core.putBytes s.fresh x bs) kind (x / 64) (sectors x bs.length)

theorem putAt_touch (s : State) (kind : Access) (slot x : Nat) (bs : List Byte) (hw : kind.writes = true) (hq : quiet s kind x bs.length) :
    alone s ((s.putAt s.cur x bs).touch kind slot x bs.length) ∧ ((s.putAt s.cur x bs).touch kind slot x bs.length).core = stored s kind x bs := by
  have key : ∀ n, alone s (({ s.onCoreAt s.cur (fun c => c.putBytes s.fresh x bs) with fresh := n } : State).touch kind slot x bs.length) ∧
      (({ s.onCoreAt s.cur (fun c => c.putBytes s.fresh x bs) with fresh := n } : State).touch kind slot x bs.length).core = stored s kind x bs := by
    intro n
    generalize hu : ({ s.onCoreAt s.cur (fun c => c.putBytes s.fresh x bs) with fresh := n } : State) = u
    have hcur : u.cur = s.cur := by rw [← hu]; rfl
    have hc : u.coreAt s.cur = s.core.putBytes s.fresh x bs := by rw [← hu]; exact State.coreAt_onCoreAt_same s s.cur (fun c => c.putBytes s.fresh x bs)
    have ho : ∀ k, k ≠ s.cur → u.coreAt k = s.coreAt k := by
      intro k hk; rw [← hu]; exact State.coreAt_onCoreAt_other s s.cur k (fun c => c.putBytes s.fresh x bs) hk
    have hr : u.segs = s.segs ∧ u.dies = s.dies ∧ u.mod = s.mod ∧ u.turns = s.turns := by rw [← hu]; exact ⟨rfl, rfl, rfl, rfl⟩
    have hq' : conflictAt s.core kind (x / 64) (sectors x bs.length) = none := hq
    have ht : u.touch kind slot x bs.length = u.onCoreAt s.cur (fun c => shadowOwn c kind (x / 64) (sectors x bs.length)) := by
      simp only [State.touch, State.touchAt, hcur, hc, conflictAt_putBytes, hq', hw, if_true]
    rw [ht]
    refine ⟨⟨?_, hr.1, hr.2.1, hr.2.2.1, hcur, hr.2.2.2⟩, ?_⟩
    · intro k hk; rw [State.coreAt_onCoreAt_other _ _ _ _ hk, ho k hk]
    · show (u.onCoreAt s.cur _).coreAt (u.onCoreAt s.cur _).cur = _
      rw [State.cur_onCoreAt, hcur, State.coreAt_onCoreAt_same, hc]; rfl
  by_cases hp : (s.coreAt s.cur).passes = []
  · simp only [State.putAt, hp, if_true]
    exact key s.fresh
  · simp only [State.putAt, hp, if_false]
    exact key (s.fresh + 1)

theorem stored_eq (s : State) (kind : Access) (x : Nat) (bs : List Byte) :
    stored s kind x bs = { s.core with scratch := (stored s kind x bs).scratch, badScratch := (stored s kind x bs).badScratch,
                                       passes := (stored s kind x bs).passes, shadows := (stored s kind x bs).shadows } := by
  rw [stored, shadowOwn_eq]; rfl

theorem stored_scratch (s : State) (kind : Access) (x : Nat) (bs : List Byte) :
    (stored s kind x bs).scratch = Memory.setBytes s.core.scratch x bs := by
  rw [stored, shadowOwn_eq]; rfl

theorem stored_badScratch (s : State) (kind : Access) (x : Nat) (bs : List Byte) :
    (stored s kind x bs).badScratch = s.core.badScratch.filter (fun u => !(decide (x ≤ u * 8 ∧ u * 8 + 8 ≤ x + bs.length))) := by
  rw [stored, shadowOwn_eq]; rfl

theorem stored_passes (s : State) (kind : Access) (x : Nat) (bs : List Byte) (h : s.core.passes = []) : (stored s kind x bs).passes = [] := by
  rw [stored, shadowOwn_eq]; show List.map _ s.core.passes = []; rw [h]; rfl

/-- What a state with such a core says in the terms of the statements. -/
theorem stores_of_stored (s t : State) (kind : Access) (x : Nat) (bs : List Byte) (f : Nat → Byte) (ha : alone s t)
    (hc : t.core = stored s kind x bs) (hf : ∀ i, i < bs.length → bs.getD i 0 = f i) : stores s t x bs.length f := by
  refine ⟨ha, ?_, ?_, ?_, ?_, ?_⟩
  · rw [hc]; exact stored_eq s kind x bs
  · intro a
    rw [sp, sp, hc, stored_scratch, Memory.byte_setBytes]
    split
    · exact hf _ (by omega)
    · rfl
  · intro u
    rw [hc, stored_badScratch, List.mem_filter]
    simp only [Bool.not_eq_true', decide_eq_false_iff_not, Nat.mul_comm 8 u]
  · intro h; rw [hc]; exact stored_passes s kind x bs h
  · intro k h
    rw [hc, stored, get_shadowOwn _ _ _ _ _ h]; rfl

/-- A store that can be made. -/
theorem spStore_ok (s : State) (kind : Access) (slot elem x z : Nat) (bs : List Byte) (f : Nat → Byte) (hz : bs.length = z)
    (hw : kind.writes = true) (hf : fits s x z) (hb : badPartly s.core.badScratch x z = false) (hq : quiet s kind x z)
    (hv : ∀ i, i < z → bs.getD i 0 = f i) : ∃ t, spStore s kind slot elem x z bs = .ok t () ∧ stores s t x z f := by
  subst hz
  have h1 : (x % bs.length == 0 && decide (x + bs.length ≤ s.spEnd s.cur)) = true := (spOk_eq s x _).mpr hf
  have h2 := putAt_touch s kind slot x bs hw hq
  refine ⟨_, ?_, stores_of_stored s _ kind x bs f h2.1 h2.2 hv⟩
  simp only [spStore, spWrite, h1, hb, Bool.not_true, Bool.false_eq_true, if_false]

theorem spStore_bound (s : State) (kind : Access) (slot elem x z : Nat) (bs : List Byte) (hz : bs.length = z) (h : ¬fits s x z) :
    spStore s kind slot elem x z bs = .stop (s.raise cSPBOUND slot (BitVec.ofNat 64 elem) (BitVec.ofNat 64 x)) := by
  subst hz
  have h1 : (x % bs.length == 0 && decide (x + bs.length ≤ s.spEnd s.cur)) = false := by
    by_contra c; exact h ((spOk_eq s x _).mp (by simpa using c))
  simp only [spStore, spWrite, h1, Bool.not_false, if_true]; rfl

/-- A write of bytes without a partial unit of its own is none of an uncorrectable unit either. -/
theorem badPartly_of_badIn (bad : List Nat) (x n : Nat) (h : badIn bad x n = false) : badPartly bad x n = false := by
  simp only [badIn, badPartly, List.any_eq_false] at h ⊢
  intro u hu hc
  simp only [Bool.and_eq_true] at hc
  exact h u hu hc.1

/-- An atomic that can be made: the old value, and what is stored. -/
theorem spAtomic_ok (s : State) (slot x z : Nat) (g : Nat → Nat) (hf : fits s x z) (hb : badIn s.core.badScratch x z = false)
    (hs : settled s x z) (hq : quiet s .atomic x z) :
    ∃ t, spAtomic s slot x z g = .ok t (Memory.load s.core.scratch x z) ∧
      stores s t x z (fun i => BitVec.ofNat 8 (g (Memory.load s.core.scratch x z) / 256 ^ i)) := by
  have h1 : s.spOk x z = true := (spOk_eq s x z).mpr hf
  simp only [spAtomic, h1, hb, Bool.not_true, Bool.false_eq_true, if_false, loadNat_settled s z x hs]
  have key : ∀ n, ∃ t, (({ s with fresh := n } : State).putAt s.cur x (leBytes z (g (Memory.load s.core.scratch x z)))).touch .atomic slot x z = t ∧
      stores s t x z (fun i => BitVec.ofNat 8 (g (Memory.load s.core.scratch x z) / 256 ^ i)) := by
    intro n
    have h2 := putAt_touch { s with fresh := n } .atomic slot x (leBytes z (g (Memory.load s.core.scratch x z))) rfl
      (by rw [length_leBytes]; exact hq)
    rw [length_leBytes] at h2
    refine ⟨_, rfl, ?_⟩
    have h3 := stores_of_stored { s with fresh := n } _ .atomic x (leBytes z (g (Memory.load s.core.scratch x z)))
      (fun i => BitVec.ofNat 8 (g (Memory.load s.core.scratch x z) / 256 ^ i)) h2.1 h2.2
      (by intro i hi; rw [length_leBytes] at hi; exact getD_leBytes _ _ _ hi)
    rw [length_leBytes] at h3
    exact h3
  by_cases hp : s.core.passes = []
  · rw [if_pos hp]; obtain ⟨t, h2, h3⟩ := key s.fresh; exact ⟨t, by rw [← h2], h3⟩
  · rw [if_neg hp]; obtain ⟨t, h2, h3⟩ := key (s.fresh + 1); exact ⟨t, by rw [← h2], h3⟩

theorem spAtomic_bound (s : State) (slot x z : Nat) (g : Nat → Nat) (h : ¬fits s x z) :
    spAtomic s slot x z g = .stop (s.raise cSPBOUND slot 0 (BitVec.ofNat 64 x)) := by
  have h1 : s.spOk x z = false := by
    by_contra c; exact h ((spOk_eq s x z).mp (Bool.eq_true_of_not_eq_false c))
  simp only [spAtomic, h1, Bool.not_false, if_true]

/-! ### Class I faults -/

theorem get_haltCores (s : State) (o : Nat) (pick : Nat → Core → Bool) (b u : Bool) : ∀ (l : SMap Core) (n k : Nat),
    (pick k (SMap.get {} l k) = false ∧ SMap.get {} (haltCores s o pick b u n l) k = SMap.get {} l k) ∨
    (∃ m, SMap.get {} (haltCores s o pick b u n l) k = { SMap.get {} l k with halt := some (Halt.merge (SMap.get {} l k).halt
        { at_ := haltTick s o k m, byReq := b, suspend := u,
          wall := if haltTick s o k m = (s.dieAt (keyDie k)).tick then some (s.wallAt (keyDie k)) else none }) }) ∨
    (SMap.get {} l k = ({} : Core) ∧ SMap.get {} (haltCores s o pick b u n l) k = ({} : Core)) := by
  intro l
  induction l with
  | nil => intro n k; exact .inr (.inr ⟨rfl, rfl⟩)
  | cons e r ih =>
    obtain ⟨k', c⟩ := e
    intro n k
    simp only [haltCores, SMap.get]
    by_cases h1 : k < k'
    · simp [h1]
    · by_cases h2 : k = k'
      · subst h2
        simp only [lt_irrefl, if_false, if_true]
        by_cases h3 : pick k c = true
        · simp only [h3, if_true]; exact .inr (.inl ⟨n, rfl⟩)
        · simp only [h3, Bool.false_eq_true, if_false]; exact .inl ⟨trivial, trivial⟩
      · simp only [h1, h2, if_false]; exact ih (n + 1) k

/-- Raising a class I fault in the core whose instructions run. -/
theorem raise_faults (s : State) (f : CoreFault) : faults s (s.raiseAt s.cur f) f := by
  have hg : ∀ k, ∃ h, (s.raiseAt s.cur f).coreAt k =
      { ((s.setCoreAt s.cur { s.core with fault := match s.core.fault with | none => some f | some g => some g }).coreAt k) with halt := h } ∧
      (k = s.cur → s.core.halt = none → (isAnchor s.cur = true ∨ s.core.run.live = true) →
        h = some { at_ := s.tick, wall := some (s.wallAt s.die) }) := by
    intro k
    have h0 := get_haltCores (s.setCoreAt s.cur { s.core with fault := match s.core.fault with | none => some f | some g => some g }) s.cur
      (inContext s s.cur) false false
      (s.setCoreAt s.cur { s.core with fault := match s.core.fault with | none => some f | some g => some g }).cores 0 k
    have hE : SMap.get {} (s.setCoreAt s.cur { s.core with fault := match s.core.fault with | none => some f | some g => some g }).cores s.cur =
      { s.core with fault := match s.core.fault with | none => some f | some g => some g } := SMap.get_set_same _ _ _ _
    rcases h0 with ⟨hp, hv⟩ | ⟨m, hv⟩ | ⟨hd, hv⟩
    · refine ⟨_, hv, ?_⟩
      rintro rfl hh hl
      exfalso
      rw [hE] at hp
      simp only [inContext] at hp
      rcases hl with hl | hl
      · simp [hl] at hp
      · by_cases ha : isAnchor s.cur = true
        · simp [ha] at hp
        · simp only [Bool.not_eq_true] at ha
          have hl' : (s.coreAt s.cur).run.live = true := hl
          have he : (s.coreAt s.cur).ctx = s.core.ctx := rfl
          simp [ha, hl, he] at hp
    · refine ⟨_, hv, ?_⟩
      rintro rfl hh hl
      rw [hE, hh]
      simp only [Halt.merge, haltTick, if_true, Nat.add_zero]
      rfl
    · refine ⟨(({} : Core).halt), ?_, ?_⟩
      · have : (s.raiseAt s.cur f).coreAt k = ({} : Core) := hv
        have hd' : (s.setCoreAt s.cur { s.core with fault := match s.core.fault with | none => some f | some g => some g }).coreAt k =
          ({} : Core) := hd
        rw [this, hd']
      · rintro rfl hh hl
        exfalso
        rw [hE] at hd
        have := congrArg Core.fault hd
        revert this
        cases s.core.fault <;> simp
  refine ⟨?_, ?_, ?_, ?_, rfl, rfl, rfl, rfl, rfl⟩
  · intro k
    obtain ⟨h, hk, -⟩ := hg k
    rw [hk]
    by_cases he : k = s.cur
    · subst he; rw [State.coreAt_setCoreAt_same] <;> rfl
    · rw [State.coreAt_setCoreAt_other _ _ _ _ he]
  · intro k hk
    obtain ⟨h, h1, -⟩ := hg k
    rw [h1]; show ((s.setCoreAt _ _).coreAt k).fault = _; rw [State.coreAt_setCoreAt_other _ _ _ _ hk]
  · obtain ⟨h, h1, -⟩ := hg s.cur
    show ((s.raiseAt s.cur f).coreAt s.cur).fault = _
    rw [h1]; show ((s.setCoreAt _ _).coreAt s.cur).fault = _; rw [State.coreAt_setCoreAt_same] <;> rfl
  · intro hh hl
    obtain ⟨h, h1, h2⟩ := hg s.cur
    show ((s.raiseAt s.cur f).coreAt s.cur).halt = _
    rw [h1]; exact h2 rfl hh hl

end Machine
end Sys2Proof
end

