-- ==== Sys2Proof/Laws/PerInstr.lean ====
section
/-! SUPPORT. The per-instruction family RoundTrip: a well-formed instruction's words are read back as it, one lemma for each constructor. A step of
the device has no words, so its lemma says that the encoder writes none. -/

set_option Elab.async false

/-- What the family says of an instruction: its words, where it has words, are read back as it. -/
def Sys2Proof.Laws.RoundTrip.Statement (i : Sys2Proof.Instr) : Prop := Sys2Proof.ReadsBack i

namespace Sys2Proof.Laws.RoundTrip

theorem noWords {i : Instr} (h : encode i = none) : Sys2Proof.Laws.RoundTrip.Statement i := by
  intro k w x e; rw [h] at e; cases e

theorem add (g : Guard) (d : Reg) (a : Reg) (b : Reg) : Statement (.add g d a b) := readsBack_add g d a b
theorem sub (g : Guard) (d : Reg) (a : Reg) (b : Reg) : Statement (.sub g d a b) := readsBack_sub g d a b
theorem addi (d : Reg) (a : Reg) (imm : BitVec 16) : Statement (.addi d a imm) := readsBack_addi d a imm
theorem ldi (d : Reg) (imm : BitVec 16) : Statement (.ldi d imm) := readsBack_ldi d imm
theorem lui (d : Reg) (imm : BitVec 16) : Statement (.lui d imm) := readsBack_lui d imm
theorem ldk (d : Reg) (k : W32) : Statement (.ldk d k) := readsBack_ldk d k
theorem mul (g : Guard) (d : Reg) (a : Reg) (b : Reg) : Statement (.mul g d a b) := readsBack_mul g d a b
theorem mulh (g : Guard) (d : Reg) (a : Reg) (b : Reg) : Statement (.mulh g d a b) := readsBack_mulh g d a b
theorem mulhu (g : Guard) (d : Reg) (a : Reg) (b : Reg) : Statement (.mulhu g d a b) := readsBack_mulhu g d a b
theorem div (g : Guard) (d : Reg) (a : Reg) (b : Reg) : Statement (.div g d a b) := readsBack_div g d a b
theorem divu (g : Guard) (d : Reg) (a : Reg) (b : Reg) : Statement (.divu g d a b) := readsBack_divu g d a b
theorem rem (g : Guard) (d : Reg) (a : Reg) (b : Reg) : Statement (.rem g d a b) := readsBack_rem g d a b
theorem remu (g : Guard) (d : Reg) (a : Reg) (b : Reg) : Statement (.remu g d a b) := readsBack_remu g d a b
theorem and (g : Guard) (d : Reg) (a : Reg) (b : Reg) : Statement (.and g d a b) := readsBack_and g d a b
theorem or (g : Guard) (d : Reg) (a : Reg) (b : Reg) : Statement (.or g d a b) := readsBack_or g d a b
theorem xor (g : Guard) (d : Reg) (a : Reg) (b : Reg) : Statement (.xor g d a b) := readsBack_xor g d a b
theorem andn (g : Guard) (d : Reg) (a : Reg) (b : Reg) : Statement (.andn g d a b) := readsBack_andn g d a b
theorem orn (g : Guard) (d : Reg) (a : Reg) (b : Reg) : Statement (.orn g d a b) := readsBack_orn g d a b
theorem xnor (g : Guard) (d : Reg) (a : Reg) (b : Reg) : Statement (.xnor g d a b) := readsBack_xnor g d a b
theorem andi (d : Reg) (a : Reg) (imm : BitVec 16) : Statement (.andi d a imm) := readsBack_andi d a imm
theorem ori (d : Reg) (a : Reg) (imm : BitVec 16) : Statement (.ori d a imm) := readsBack_ori d a imm
theorem xori (d : Reg) (a : Reg) (imm : BitVec 16) : Statement (.xori d a imm) := readsBack_xori d a imm
theorem shl (g : Guard) (d : Reg) (a : Reg) (b : Reg) : Statement (.shl g d a b) := readsBack_shl g d a b
theorem shr (g : Guard) (d : Reg) (a : Reg) (b : Reg) : Statement (.shr g d a b) := readsBack_shr g d a b
theorem sra (g : Guard) (d : Reg) (a : Reg) (b : Reg) : Statement (.sra g d a b) := readsBack_sra g d a b
theorem ror (g : Guard) (d : Reg) (a : Reg) (b : Reg) : Statement (.ror g d a b) := readsBack_ror g d a b
theorem shli (g : Guard) (d : Reg) (a : Reg) (b : Reg) (c : BitVec 1) : Statement (.shli g d a b c) := readsBack_shli g d a b c
theorem shri (g : Guard) (d : Reg) (a : Reg) (b : Reg) (c : BitVec 1) : Statement (.shri g d a b c) := readsBack_shri g d a b c
theorem srai (g : Guard) (d : Reg) (a : Reg) (b : Reg) (c : BitVec 1) : Statement (.srai g d a b c) := readsBack_srai g d a b c
theorem rori (g : Guard) (d : Reg) (a : Reg) (b : Reg) (c : BitVec 1) : Statement (.rori g d a b c) := readsBack_rori g d a b c
theorem min (g : Guard) (d : Reg) (a : Reg) (b : Reg) : Statement (.min g d a b) := readsBack_min g d a b
theorem max (g : Guard) (d : Reg) (a : Reg) (b : Reg) : Statement (.max g d a b) := readsBack_max g d a b
theorem minu (g : Guard) (d : Reg) (a : Reg) (b : Reg) : Statement (.minu g d a b) := readsBack_minu g d a b
theorem maxu (g : Guard) (d : Reg) (a : Reg) (b : Reg) : Statement (.maxu g d a b) := readsBack_maxu g d a b
theorem clz (g : Guard) (d : Reg) (a : Reg) : Statement (.clz g d a) := readsBack_clz g d a
theorem ctz (g : Guard) (d : Reg) (a : Reg) : Statement (.ctz g d a) := readsBack_ctz g d a
theorem popc (g : Guard) (d : Reg) (a : Reg) : Statement (.popc g d a) := readsBack_popc g d a
theorem brev (g : Guard) (d : Reg) (a : Reg) : Statement (.brev g d a) := readsBack_brev g d a
theorem sext8 (g : Guard) (d : Reg) (a : Reg) : Statement (.sext8 g d a) := readsBack_sext8 g d a
theorem sext16 (g : Guard) (d : Reg) (a : Reg) : Statement (.sext16 g d a) := readsBack_sext16 g d a
theorem sext32 (g : Guard) (d : Reg) (a : Reg) : Statement (.sext32 g d a) := readsBack_sext32 g d a
theorem zext8 (g : Guard) (d : Reg) (a : Reg) : Statement (.zext8 g d a) := readsBack_zext8 g d a
theorem zext16 (g : Guard) (d : Reg) (a : Reg) : Statement (.zext16 g d a) := readsBack_zext16 g d a
theorem zext32 (g : Guard) (d : Reg) (a : Reg) : Statement (.zext32 g d a) := readsBack_zext32 g d a
theorem cmpeq (g : Guard) (d : Reg3) (a : Reg) (b : Reg) : Statement (.cmpeq g d a b) := readsBack_cmpeq g d a b
theorem cmpne (g : Guard) (d : Reg3) (a : Reg) (b : Reg) : Statement (.cmpne g d a b) := readsBack_cmpne g d a b
theorem cmplt (g : Guard) (d : Reg3) (a : Reg) (b : Reg) : Statement (.cmplt g d a b) := readsBack_cmplt g d a b
theorem cmpltu (g : Guard) (d : Reg3) (a : Reg) (b : Reg) : Statement (.cmpltu g d a b) := readsBack_cmpltu g d a b
theorem cmple (g : Guard) (d : Reg3) (a : Reg) (b : Reg) : Statement (.cmple g d a b) := readsBack_cmple g d a b
theorem cmpleu (g : Guard) (d : Reg3) (a : Reg) (b : Reg) : Statement (.cmpleu g d a b) := readsBack_cmpleu g d a b
theorem cmpieq (d : Reg3) (a : Reg) (imm : BitVec 16) : Statement (.cmpieq d a imm) := readsBack_cmpieq d a imm
theorem cmpilt (d : Reg3) (a : Reg) (imm : BitVec 16) : Statement (.cmpilt d a imm) := readsBack_cmpilt d a imm
theorem cmpiltu (d : Reg3) (a : Reg) (imm : BitVec 16) : Statement (.cmpiltu d a imm) := readsBack_cmpiltu d a imm
theorem sel (g : Guard) (d : Reg) (a : Reg) (b : Reg) (k : Reg3) : Statement (.sel g d a b k) := readsBack_sel g d a b k
theorem pand (g : Guard) (d : Reg3) (a : Reg3) (b : Reg3) : Statement (.pand g d a b) := readsBack_pand g d a b
theorem por (g : Guard) (d : Reg3) (a : Reg3) (b : Reg3) : Statement (.por g d a b) := readsBack_por g d a b
theorem pxor (g : Guard) (d : Reg3) (a : Reg3) (b : Reg3) : Statement (.pxor g d a b) := readsBack_pxor g d a b
theorem pandn (g : Guard) (d : Reg3) (a : Reg3) (b : Reg3) : Statement (.pandn g d a b) := readsBack_pandn g d a b
theorem pnot (g : Guard) (d : Reg3) (a : Reg3) : Statement (.pnot g d a) := readsBack_pnot g d a
theorem pget (g : Guard) (d : Reg) : Statement (.pget g d) := readsBack_pget g d
theorem pset (g : Guard) (a : Reg) : Statement (.pset g a) := readsBack_pset g a
theorem ldb (d : Reg) (a : Reg) (imm : BitVec 16) : Statement (.ldb d a imm) := readsBack_ldb d a imm
theorem ldbu (d : Reg) (a : Reg) (imm : BitVec 16) : Statement (.ldbu d a imm) := readsBack_ldbu d a imm
theorem ldh (d : Reg) (a : Reg) (imm : BitVec 16) : Statement (.ldh d a imm) := readsBack_ldh d a imm
theorem ldhu (d : Reg) (a : Reg) (imm : BitVec 16) : Statement (.ldhu d a imm) := readsBack_ldhu d a imm
theorem ldw (d : Reg) (a : Reg) (imm : BitVec 16) : Statement (.ldw d a imm) := readsBack_ldw d a imm
theorem ldwu (d : Reg) (a : Reg) (imm : BitVec 16) : Statement (.ldwu d a imm) := readsBack_ldwu d a imm
theorem ldd (d : Reg) (a : Reg) (imm : BitVec 16) : Statement (.ldd d a imm) := readsBack_ldd d a imm
theorem stb (d : Reg) (a : Reg) (imm : BitVec 16) : Statement (.stb d a imm) := readsBack_stb d a imm
theorem sth (d : Reg) (a : Reg) (imm : BitVec 16) : Statement (.sth d a imm) := readsBack_sth d a imm
theorem stw (d : Reg) (a : Reg) (imm : BitVec 16) : Statement (.stw d a imm) := readsBack_stw d a imm
theorem std (d : Reg) (a : Reg) (imm : BitVec 16) : Statement (.std d a imm) := readsBack_std d a imm
theorem ldx (g : Guard) (d : Reg) (a : Reg) (b : Reg) (s : BitVec 2) (w : Reg3) : Statement (.ldx g d a b s w) := readsBack_ldx g d a b s w
theorem stx (g : Guard) (d : Reg) (a : Reg) (b : Reg) (s : BitVec 2) (w : BitVec 2) : Statement (.stx g d a b s w) := readsBack_stx g d a b s w
theorem aadd (g : Guard) (d : Reg) (a : Reg) (b : Reg) : Statement (.aadd g d a b) := readsBack_aadd g d a b
theorem aaddw (g : Guard) (d : Reg) (a : Reg) (b : Reg) : Statement (.aaddw g d a b) := readsBack_aaddw g d a b
theorem amin (g : Guard) (d : Reg) (a : Reg) (b : Reg) : Statement (.amin g d a b) := readsBack_amin g d a b
theorem amax (g : Guard) (d : Reg) (a : Reg) (b : Reg) : Statement (.amax g d a b) := readsBack_amax g d a b
theorem aswap (g : Guard) (d : Reg) (a : Reg) (b : Reg) : Statement (.aswap g d a b) := readsBack_aswap g d a b
theorem aand (g : Guard) (d : Reg) (a : Reg) (b : Reg) : Statement (.aand g d a b) := readsBack_aand g d a b
theorem aor (g : Guard) (d : Reg) (a : Reg) (b : Reg) : Statement (.aor g d a b) := readsBack_aor g d a b
theorem afadd (g : Guard) (d : Reg) (a : Reg) (b : Reg) : Statement (.afadd g d a b) := readsBack_afadd g d a b
theorem acas (g : Guard) (d : Reg) (a : Reg) (b : Reg) : Statement (.acas g d a b) := readsBack_acas g d a b
theorem br (p : Reg3) (neg : BitVec 1) (off : BitVec 22) : Statement (.br p neg off) := readsBack_br p neg off
theorem jmp (off : BitVec 22) : Statement (.jmp off) := readsBack_jmp off
theorem call (off : BitVec 22) : Statement (.call off) := readsBack_call off
theorem jmpr (g : Guard) (a : Reg) : Statement (.jmpr g a) := readsBack_jmpr g a
theorem loop (d : Reg) (imm : BitVec 16) : Statement (.loop d imm) := readsBack_loop d imm
theorem exit : Statement (.exit) := readsBack_exit
theorem tdfence (g : Guard) : Statement (.tdfence g) := readsBack_tdfence g
theorem mapfence (g : Guard) : Statement (.mapfence g) := readsBack_mapfence g
theorem spfence (g : Guard) : Statement (.spfence g) := readsBack_spfence g
theorem syncmark (g : Guard) : Statement (.syncmark g) := readsBack_syncmark g
theorem tdw (g : Guard) (a : Reg) (b : Reg) (f : BitVec 6) : Statement (.tdw g a b f) := readsBack_tdw g a b f
theorem tdr (g : Guard) (d : Reg) (a : Reg) (f : BitVec 6) : Statement (.tdr g d a f) := readsBack_tdr g d a f
theorem crd (d : Reg) (cr : BitVec 11) : Statement (.crd d cr) := readsBack_crd d cr
theorem cwr (a : Reg) (cr : BitVec 11) : Statement (.cwr a cr) := readsBack_cwr a cr
theorem rngs (g : Guard) (d : Reg) : Statement (.rngs g d) := readsBack_rngs g d
theorem trap (d : Reg) (a : Reg) (imm : BitVec 16) : Statement (.trap d a imm) := readsBack_trap d a imm
theorem eret (g : Guard) (a : Reg) (b : Reg) : Statement (.eret g a b) := readsBack_eret g a b
theorem mapw (g : Guard) (d : Reg) (a : Reg) (b : Reg) : Statement (.mapw g d a b) := readsBack_mapw g d a b
theorem haltctx (g : Guard) (d : Reg) (a : Reg) (b : Reg) : Statement (.haltctx g d a b) := readsBack_haltctx g d a b
theorem ctxsv (g : Guard) (d : Reg) (a : Reg) (b : Reg) : Statement (.ctxsv g d a b) := readsBack_ctxsv g d a b
theorem ctxrs (g : Guard) (d : Reg) (a : Reg) (b : Reg) : Statement (.ctxrs g d a b) := readsBack_ctxrs g d a b
theorem keyz (g : Guard) (d : Reg) (a : Reg) : Statement (.keyz g d a) := readsBack_keyz g d a
theorem scrub (g : Guard) (d : Reg) (a : Reg) (b : Reg) : Statement (.scrub g d a b) := readsBack_scrub g d a b
theorem assign (g : Guard) (d : Reg) (a : Reg) (b : Reg) : Statement (.assign g d a b) := readsBack_assign g d a b
theorem vadd (d : Reg) (a : Reg) (b : Reg) (c : VCtl) : Statement (.vadd d a b c) := readsBack_vadd d a b c
theorem vadds (d : Reg) (a : Reg) (b : Reg) (c : VCtl) : Statement (.vadds d a b c) := readsBack_vadds d a b c
theorem vaddsu (d : Reg) (a : Reg) (b : Reg) (c : VCtl) : Statement (.vaddsu d a b c) := readsBack_vaddsu d a b c
theorem vsub (d : Reg) (a : Reg) (b : Reg) (c : VCtl) : Statement (.vsub d a b c) := readsBack_vsub d a b c
theorem vsubs (d : Reg) (a : Reg) (b : Reg) (c : VCtl) : Statement (.vsubs d a b c) := readsBack_vsubs d a b c
theorem vsubsu (d : Reg) (a : Reg) (b : Reg) (c : VCtl) : Statement (.vsubsu d a b c) := readsBack_vsubsu d a b c
theorem vmul (d : Reg) (a : Reg) (b : Reg) (c : VCtl) : Statement (.vmul d a b c) := readsBack_vmul d a b c
theorem vmulh (d : Reg) (a : Reg) (b : Reg) (c : VCtl) : Statement (.vmulh d a b c) := readsBack_vmulh d a b c
theorem vmulhu (d : Reg) (a : Reg) (b : Reg) (c : VCtl) : Statement (.vmulhu d a b c) := readsBack_vmulhu d a b c
theorem vand (d : Reg) (a : Reg) (b : Reg) (c : VCtl) : Statement (.vand d a b c) := readsBack_vand d a b c
theorem vor (d : Reg) (a : Reg) (b : Reg) (c : VCtl) : Statement (.vor d a b c) := readsBack_vor d a b c
theorem vxor (d : Reg) (a : Reg) (b : Reg) (c : VCtl) : Statement (.vxor d a b c) := readsBack_vxor d a b c
theorem vandn (d : Reg) (a : Reg) (b : Reg) (c : VCtl) : Statement (.vandn d a b c) := readsBack_vandn d a b c
theorem vshl (d : Reg) (a : Reg) (b : Reg) (c : VCtl) : Statement (.vshl d a b c) := readsBack_vshl d a b c
theorem vshr (d : Reg) (a : Reg) (b : Reg) (c : VCtl) : Statement (.vshr d a b c) := readsBack_vshr d a b c
theorem vsra (d : Reg) (a : Reg) (b : Reg) (c : VCtl) : Statement (.vsra d a b c) := readsBack_vsra d a b c
theorem vshli (d : Reg) (a : Reg) (b : Reg) (c : VCtl) : Statement (.vshli d a b c) := readsBack_vshli d a b c
theorem vshri (d : Reg) (a : Reg) (b : Reg) (c : VCtl) : Statement (.vshri d a b c) := readsBack_vshri d a b c
theorem vsrai (d : Reg) (a : Reg) (b : Reg) (c : VCtl) : Statement (.vsrai d a b c) := readsBack_vsrai d a b c
theorem vmin (d : Reg) (a : Reg) (b : Reg) (c : VCtl) : Statement (.vmin d a b c) := readsBack_vmin d a b c
theorem vmax (d : Reg) (a : Reg) (b : Reg) (c : VCtl) : Statement (.vmax d a b c) := readsBack_vmax d a b c
theorem vminu (d : Reg) (a : Reg) (b : Reg) (c : VCtl) : Statement (.vminu d a b c) := readsBack_vminu d a b c
theorem vmaxu (d : Reg) (a : Reg) (b : Reg) (c : VCtl) : Statement (.vmaxu d a b c) := readsBack_vmaxu d a b c
theorem vcmpeq (d : Reg3) (a : Reg) (b : Reg) (c : VCtl) : Statement (.vcmpeq d a b c) := readsBack_vcmpeq d a b c
theorem vcmpne (d : Reg3) (a : Reg) (b : Reg) (c : VCtl) : Statement (.vcmpne d a b c) := readsBack_vcmpne d a b c
theorem vcmplt (d : Reg3) (a : Reg) (b : Reg) (c : VCtl) : Statement (.vcmplt d a b c) := readsBack_vcmplt d a b c
theorem vcmpltu (d : Reg3) (a : Reg) (b : Reg) (c : VCtl) : Statement (.vcmpltu d a b c) := readsBack_vcmpltu d a b c
theorem vcmple (d : Reg3) (a : Reg) (b : Reg) (c : VCtl) : Statement (.vcmple d a b c) := readsBack_vcmple d a b c
theorem vcmpleu (d : Reg3) (a : Reg) (b : Reg) (c : VCtl) : Statement (.vcmpleu d a b c) := readsBack_vcmpleu d a b c
theorem vfadd (d : Reg) (a : Reg) (b : Reg) (c : VCtl) : Statement (.vfadd d a b c) := readsBack_vfadd d a b c
theorem vfsub (d : Reg) (a : Reg) (b : Reg) (c : VCtl) : Statement (.vfsub d a b c) := readsBack_vfsub d a b c
theorem vfmul (d : Reg) (a : Reg) (b : Reg) (c : VCtl) : Statement (.vfmul d a b c) := readsBack_vfmul d a b c
theorem vfma (d : Reg) (a : Reg) (b : Reg) (c : VCtl) : Statement (.vfma d a b c) := readsBack_vfma d a b c
theorem vfnma (d : Reg) (a : Reg) (b : Reg) (c : VCtl) : Statement (.vfnma d a b c) := readsBack_vfnma d a b c
theorem vfmin (d : Reg) (a : Reg) (b : Reg) (c : VCtl) : Statement (.vfmin d a b c) := readsBack_vfmin d a b c
theorem vfmax (d : Reg) (a : Reg) (b : Reg) (c : VCtl) : Statement (.vfmax d a b c) := readsBack_vfmax d a b c
theorem vfcmpeq (d : Reg3) (a : Reg) (b : Reg) (c : VCtl) : Statement (.vfcmpeq d a b c) := readsBack_vfcmpeq d a b c
theorem vfcmplt (d : Reg3) (a : Reg) (b : Reg) (c : VCtl) : Statement (.vfcmplt d a b c) := readsBack_vfcmplt d a b c
theorem vfcmple (d : Reg3) (a : Reg) (b : Reg) (c : VCtl) : Statement (.vfcmple d a b c) := readsBack_vfcmple d a b c
theorem vfcmpun (d : Reg3) (a : Reg) (b : Reg) (c : VCtl) : Statement (.vfcmpun d a b c) := readsBack_vfcmpun d a b c
theorem vfabs (d : Reg) (a : Reg) (c : VCtl) : Statement (.vfabs d a c) := readsBack_vfabs d a c
theorem vfneg (d : Reg) (a : Reg) (c : VCtl) : Statement (.vfneg d a c) := readsBack_vfneg d a c
theorem vfsqrt (d : Reg) (a : Reg) (c : VCtl) : Statement (.vfsqrt d a c) := readsBack_vfsqrt d a c
theorem vrcp (d : Reg) (a : Reg) (c : VCtl) : Statement (.vrcp d a c) := readsBack_vrcp d a c
theorem vrsq (d : Reg) (a : Reg) (c : VCtl) : Statement (.vrsq d a c) := readsBack_vrsq d a c
theorem vexp2 (d : Reg) (a : Reg) (c : VCtl) : Statement (.vexp2 d a c) := readsBack_vexp2 d a c
theorem vlog2 (d : Reg) (a : Reg) (c : VCtl) : Statement (.vlog2 d a c) := readsBack_vlog2 d a c
theorem vfloor (d : Reg) (a : Reg) (c : VCtl) : Statement (.vfloor d a c) := readsBack_vfloor d a c
theorem vfceil (d : Reg) (a : Reg) (c : VCtl) : Statement (.vfceil d a c) := readsBack_vfceil d a c
theorem vfrint (d : Reg) (a : Reg) (c : VCtl) : Statement (.vfrint d a c) := readsBack_vfrint d a c
theorem vcvtfi (d : Reg) (a : Reg) (c : VCtl) : Statement (.vcvtfi d a c) := readsBack_vcvtfi d a c
theorem vcvtfit (d : Reg) (a : Reg) (c : VCtl) : Statement (.vcvtfit d a c) := readsBack_vcvtfit d a c
theorem vcvtif (d : Reg) (a : Reg) (c : VCtl) : Statement (.vcvtif d a c) := readsBack_vcvtif d a c
theorem vcvtfb (d : Reg) (a : Reg) (b : Reg) (c : VCtl) : Statement (.vcvtfb d a b c) := readsBack_vcvtfb d a b c
theorem vcvtbfl (d : Reg) (a : Reg) (c : VCtl) : Statement (.vcvtbfl d a c) := readsBack_vcvtbfl d a c
theorem vcvtbfh (d : Reg) (a : Reg) (c : VCtl) : Statement (.vcvtbfh d a c) := readsBack_vcvtbfh d a c
theorem vdot2 (d : Reg) (a : Reg) (b : Reg) (c : VCtl) : Statement (.vdot2 d a b c) := readsBack_vdot2 d a b c
theorem vdot4 (d : Reg) (a : Reg) (b : Reg) (c : VCtl) : Statement (.vdot4 d a b c) := readsBack_vdot4 d a b c
theorem vdot4us (d : Reg) (a : Reg) (b : Reg) (c : VCtl) : Statement (.vdot4us d a b c) := readsBack_vdot4us d a b c
theorem vqma (d : Reg3) (a : Reg) (b : Reg) (c : VCtl) : Statement (.vqma d a b c) := readsBack_vqma d a b c
theorem vqmai (d : Reg3) (a : Reg) (b : Reg) (c : VCtl) : Statement (.vqmai d a b c) := readsBack_vqmai d a b c
theorem vqnarf (d : Reg) (a : Reg3) (c : VCtl) : Statement (.vqnarf d a c) := readsBack_vqnarf d a c
theorem vqnars (d : Reg) (a : Reg3) (c : VCtl) : Statement (.vqnars d a c) := readsBack_vqnars d a c
theorem vqnarw (d : Reg) (a : Reg3) (c : VCtl) : Statement (.vqnarw d a c) := readsBack_vqnarw d a c
theorem vqclr (d : Reg3) (c : VCtl) : Statement (.vqclr d c) := readsBack_vqclr d c
theorem vqwf (d : Reg3) (a : Reg) (c : VCtl) : Statement (.vqwf d a c) := readsBack_vqwf d a c
theorem vqwi (d : Reg3) (a : Reg) (c : VCtl) : Statement (.vqwi d a c) := readsBack_vqwi d a c
theorem vredadd (d : Reg) (a : Reg) (fold : BitVec 2) : Statement (.vredadd d a fold) := readsBack_vredadd d a fold
theorem vredfadd (d : Reg) (a : Reg) (fold : BitVec 2) : Statement (.vredfadd d a fold) := readsBack_vredfadd d a fold
theorem vredmin (d : Reg) (a : Reg) (fold : BitVec 2) : Statement (.vredmin d a fold) := readsBack_vredmin d a fold
theorem vredmax (d : Reg) (a : Reg) (fold : BitVec 2) : Statement (.vredmax d a fold) := readsBack_vredmax d a fold
theorem vredfmin (d : Reg) (a : Reg) (fold : BitVec 2) : Statement (.vredfmin d a fold) := readsBack_vredfmin d a fold
theorem vredfmax (d : Reg) (a : Reg) (fold : BitVec 2) : Statement (.vredfmax d a fold) := readsBack_vredfmax d a fold
theorem vbcst (d : Reg) (a : Reg) (c : VCtl) : Statement (.vbcst d a c) := readsBack_vbcst d a c
theorem vextr (d : Reg) (a : Reg) (elem : BitVec 6) : Statement (.vextr d a elem) := readsBack_vextr d a elem
theorem vins (d : Reg) (a : Reg) (elem : BitVec 6) : Statement (.vins d a elem) := readsBack_vins d a elem
theorem viota (d : Reg) (c : VCtl) : Statement (.viota d c) := readsBack_viota d c
theorem vperm (d : Reg) (a : Reg) (b : Reg) (c : VCtl) : Statement (.vperm d a b c) := readsBack_vperm d a b c
theorem vslup (d : Reg) (a : Reg) (b : Reg) (c : VCtl) : Statement (.vslup d a b c) := readsBack_vslup d a b c
theorem vsldn (d : Reg) (a : Reg) (b : Reg) (c : VCtl) : Statement (.vsldn d a b c) := readsBack_vsldn d a b c
theorem vcmpr (d : Reg) (a : Reg) (fold : BitVec 2) (k : Reg3) : Statement (.vcmpr d a fold k) := readsBack_vcmpr d a fold k
theorem mand (d : Reg3) (a : Reg3) (b : Reg3) (fold : BitVec 2) : Statement (.mand d a b fold) := readsBack_mand d a b fold
theorem mor (d : Reg3) (a : Reg3) (b : Reg3) (fold : BitVec 2) : Statement (.mor d a b fold) := readsBack_mor d a b fold
theorem mxor (d : Reg3) (a : Reg3) (b : Reg3) (fold : BitVec 2) : Statement (.mxor d a b fold) := readsBack_mxor d a b fold
theorem mnot (d : Reg3) (a : Reg3) (fold : BitVec 2) : Statement (.mnot d a fold) := readsBack_mnot d a fold
theorem mpop (d : Reg) (a : Reg3) (fold : BitVec 2) : Statement (.mpop d a fold) := readsBack_mpop d a fold
theorem mfirst (d : Reg) (a : Reg3) (fold : BitVec 2) : Statement (.mfirst d a fold) := readsBack_mfirst d a fold
theorem mset (d : Reg3) (a : Reg) (fold : BitVec 2) : Statement (.mset d a fold) := readsBack_mset d a fold
theorem mget (d : Reg) (a : Reg3) (fold : BitVec 2) : Statement (.mget d a fold) := readsBack_mget d a fold
theorem vsel (d : Reg) (a : Reg) (b : Reg) (fold : BitVec 2) (k : Reg3) : Statement (.vsel d a b fold k) := readsBack_vsel d a b fold k
theorem vldW (d : Reg) (a : Reg) (b : Reg) (c : VCtl) : Statement (.vldW d a b c) := readsBack_vldW d a b c
theorem vldH (d : Reg) (a : Reg) (b : Reg) (c : VCtl) : Statement (.vldH d a b c) := readsBack_vldH d a b c
theorem vldHu (d : Reg) (a : Reg) (b : Reg) (c : VCtl) : Statement (.vldHu d a b c) := readsBack_vldHu d a b c
theorem vldB (d : Reg) (a : Reg) (b : Reg) (c : VCtl) : Statement (.vldB d a b c) := readsBack_vldB d a b c
theorem vldBu (d : Reg) (a : Reg) (b : Reg) (c : VCtl) : Statement (.vldBu d a b c) := readsBack_vldBu d a b c
theorem vstW (d : Reg) (a : Reg) (b : Reg) (c : VCtl) : Statement (.vstW d a b c) := readsBack_vstW d a b c
theorem vstH (d : Reg) (a : Reg) (b : Reg) (c : VCtl) : Statement (.vstH d a b c) := readsBack_vstH d a b c
theorem vstB (d : Reg) (a : Reg) (b : Reg) (c : VCtl) : Statement (.vstB d a b c) := readsBack_vstB d a b c
theorem vgath (d : Reg) (a : Reg) (b : Reg) (c : VCtl) : Statement (.vgath d a b c) := readsBack_vgath d a b c
theorem vscat (d : Reg) (a : Reg) (b : Reg) (c : VCtl) : Statement (.vscat d a b c) := readsBack_vscat d a b c
theorem vsortS (d : Reg) (a : Reg) (fold : BitVec 2) : Statement (.vsortS d a fold) := readsBack_vsortS d a fold
theorem vsortF (d : Reg) (a : Reg) (fold : BitVec 2) : Statement (.vsortF d a fold) := readsBack_vsortF d a fold
theorem vsortU (d : Reg) (a : Reg) (fold : BitVec 2) : Statement (.vsortU d a fold) := readsBack_vsortU d a fold
theorem vruns (d : Reg3) (a : Reg) (fold : BitVec 2) : Statement (.vruns d a fold) := readsBack_vruns d a fold
theorem vsegadd (d : Reg) (a : Reg) (fold : BitVec 2) (k : Reg3) : Statement (.vsegadd d a fold k) := readsBack_vsegadd d a fold k
theorem vsegfadd (d : Reg) (a : Reg) (fold : BitVec 2) (k : Reg3) : Statement (.vsegfadd d a fold k) := readsBack_vsegfadd d a fold k
theorem vrng (d : Reg) (c : VCtl) : Statement (.vrng d c) := readsBack_vrng d c
theorem vbfpq (d : Reg) (a : Reg) (fold : BitVec 2) (w : Reg3) : Statement (.vbfpq d a fold w) := readsBack_vbfpq d a fold w
theorem vbfpx (d : Reg) (a : Reg) (fold : BitVec 2) : Statement (.vbfpx d a fold) := readsBack_vbfpx d a fold
theorem vt5pk (d : Reg) (a : Reg) (fold : BitVec 2) : Statement (.vt5pk d a fold) := readsBack_vt5pk d a fold
theorem vt5up (d : Reg) (a : Reg) (fold : BitVec 2) : Statement (.vt5up d a fold) := readsBack_vt5up d a fold
theorem tld (d : Reg3) (a : Reg) (b : Reg) : Statement (.tld d a b) := readsBack_tld d a b
theorem tst (d : Reg3) (a : Reg) (b : Reg) : Statement (.tst d a b) := readsBack_tst d a b
theorem twin (d : Reg3) (a : Reg) (b : Reg) : Statement (.twin d a b) := readsBack_twin d a b
theorem tzero (d : Reg3) : Statement (.tzero d) := readsBack_tzero d
theorem tmmaBf16 (d : Reg) (a : Reg3) (b : Reg3) : Statement (.tmmaBf16 d a b) := readsBack_tmmaBf16 d a b
theorem tmmaBfp (d : Reg) (a : Reg3) (b : Reg3) : Statement (.tmmaBfp d a b) := readsBack_tmmaBfp d a b
theorem tmmaI8 (d : Reg) (a : Reg3) (b : Reg3) : Statement (.tmmaI8 d a b) := readsBack_tmmaI8 d a b
theorem tmmaBf16W (d : Reg) (a : Reg3) (b : Reg3) : Statement (.tmmaBf16W d a b) := readsBack_tmmaBf16W d a b
theorem tmmaBfpW (d : Reg) (a : Reg3) (b : Reg3) : Statement (.tmmaBfpW d a b) := readsBack_tmmaBfpW d a b
theorem tmmaI8W (d : Reg) (a : Reg3) (b : Reg3) : Statement (.tmmaI8W d a b) := readsBack_tmmaI8W d a b
theorem ttrn (d : Reg3) (a : Reg3) : Statement (.ttrn d a) := readsBack_ttrn d a
theorem trowv (d : Reg) (a : Reg3) (b : Reg) : Statement (.trowv d a b) := readsBack_trowv d a b
theorem tvrow (d : Reg3) (a : Reg) (b : Reg) : Statement (.tvrow d a b) := readsBack_tvrow d a b
theorem xclr : Statement (.xclr) := readsBack_xclr
theorem xswap : Statement (.xswap) := readsBack_xswap
theorem xsave (a : Reg) : Statement (.xsave a) := readsBack_xsave a
theorem xload (a : Reg) : Statement (.xload a) := readsBack_xload a
theorem pcopy (o : PassOp) : Statement (.pcopy o) := readsBack_pcopy o
theorem pgath (o : PassOp) : Statement (.pgath o) := readsBack_pgath o
theorem pscanSumi (o : PassOp) : Statement (.pscanSumi o) := readsBack_pscanSumi o
theorem pscanSumf (o : PassOp) : Statement (.pscanSumf o) := readsBack_pscanSumf o
theorem pscanMin (o : PassOp) : Statement (.pscanMin o) := readsBack_pscanMin o
theorem pscanMax (o : PassOp) : Statement (.pscanMax o) := readsBack_pscanMax o
theorem pscanCount (o : PassOp) : Statement (.pscanCount o) := readsBack_pscanCount o
theorem pfilt (o : PassOp) : Statement (.pfilt o) := readsBack_pfilt o
theorem pput (o : PassOp) : Statement (.pput o) := readsBack_pput o
theorem pupdAddi32 (o : PassOp) : Statement (.pupdAddi32 o) := readsBack_pupdAddi32 o
theorem pupdAddf32 (o : PassOp) : Statement (.pupdAddf32 o) := readsBack_pupdAddf32 o
theorem pupdMini32 (o : PassOp) : Statement (.pupdMini32 o) := readsBack_pupdMini32 o
theorem pupdMaxi32 (o : PassOp) : Statement (.pupdMaxi32 o) := readsBack_pupdMaxi32 o
theorem pupdAnd (o : PassOp) : Statement (.pupdAnd o) := readsBack_pupdAnd o
theorem pupdOr (o : PassOp) : Statement (.pupdOr o) := readsBack_pupdOr o
theorem pupdXor (o : PassOp) : Statement (.pupdXor o) := readsBack_pupdXor o
theorem pupdSwap (o : PassOp) : Statement (.pupdSwap o) := readsBack_pupdSwap o
theorem pupdoAddf32 (o : PassOp) : Statement (.pupdoAddf32 o) := readsBack_pupdoAddf32 o
theorem pupdoAddi32 (o : PassOp) : Statement (.pupdoAddi32 o) := readsBack_pupdoAddi32 o
theorem pcmt (o : PassOp) : Statement (.pcmt o) := readsBack_pcmt o
theorem padam (o : PassOp) : Statement (.padam o) := readsBack_padam o
theorem pzero (o : PassOp) : Statement (.pzero o) := readsBack_pzero o
theorem pzeroPhys (o : PassOp) : Statement (.pzeroPhys o) := readsBack_pzeroPhys o
theorem phostIn (o : PassOp) : Statement (.phostIn o) := readsBack_phostIn o
theorem phostOut (o : PassOp) : Statement (.phostOut o) := readsBack_phostOut o
theorem pmatWrite (o : PassOp) : Statement (.pmatWrite o) := readsBack_pmatWrite o
theorem pmatAccum (o : PassOp) : Statement (.pmatAccum o) := readsBack_pmatAccum o
theorem preop (a : Reg) : Statement (.preop a) := readsBack_preop a
theorem pcanc (a : Reg) : Statement (.pcanc a) := readsBack_pcanc a
theorem pfence : Statement (.pfence) := readsBack_pfence
theorem twany (a : Reg) : Statement (.twany a) := readsBack_twany a
theorem twall (a : Reg) : Statement (.twall a) := readsBack_twall a
theorem tfirst (d : Reg) (a : Reg) : Statement (.tfirst d a) := readsBack_tfirst d a
theorem tclr (a : Reg) : Statement (.tclr a) := readsBack_tclr a
theorem cwait (a : Reg) : Statement (.cwait a) := readsBack_cwait a
theorem prnd : Statement (.prnd) := readsBack_prnd
theorem lsendV (a : Reg) (fold : BitVec 2) (port : BitVec 4) : Statement (.lsendV a fold port) := readsBack_lsendV a fold port
theorem lsendS (a : Reg) (port : BitVec 4) : Statement (.lsendS a port) := readsBack_lsendS a port
theorem lrecv (d : Reg) (fold : BitVec 2) (port : BitVec 4) : Statement (.lrecv d fold port) := readsBack_lrecv d fold port
theorem lput (a : Reg) (b : Reg) (fold : BitVec 2) (port : BitVec 4) : Statement (.lput a b fold port) := readsBack_lput a b fold port
theorem lamoAdd32 (a : Reg) (b : Reg) (fold : BitVec 2) (port : BitVec 4) : Statement (.lamoAdd32 a b fold port) := readsBack_lamoAdd32 a b fold port
theorem lamoFadd32 (a : Reg) (b : Reg) (fold : BitVec 2) (port : BitVec 4) : Statement (.lamoFadd32 a b fold port) := readsBack_lamoFadd32 a b fold port
theorem lamoMin32 (a : Reg) (b : Reg) (fold : BitVec 2) (port : BitVec 4) : Statement (.lamoMin32 a b fold port) := readsBack_lamoMin32 a b fold port
theorem lamoMax32 (a : Reg) (b : Reg) (fold : BitVec 2) (port : BitVec 4) : Statement (.lamoMax32 a b fold port) := readsBack_lamoMax32 a b fold port
theorem barDie (k : BitVec 4) : Statement (.barDie k) := readsBack_barDie k
theorem barLaunch (k : BitVec 4) : Statement (.barLaunch k) := readsBack_barLaunch k
theorem barSys (k : BitVec 4) : Statement (.barSys k) := readsBack_barSys k
theorem baraDie (k : BitVec 4) : Statement (.baraDie k) := readsBack_baraDie k
theorem baraLaunch (k : BitVec 4) : Statement (.baraLaunch k) := readsBack_baraLaunch k
theorem baraSys (k : BitVec 4) : Statement (.baraSys k) := readsBack_baraSys k
theorem barw (k : BitVec 4) : Statement (.barw k) := readsBack_barw k
theorem cbacq (d : Reg) (a : Reg) : Statement (.cbacq d a) := readsBack_cbacq d a
theorem cbcomLocal (a : Reg) : Statement (.cbcomLocal a) := readsBack_cbcomLocal a
theorem cbcomRemote (a : Reg) (b : Reg) (fold : BitVec 2) (port : BitVec 4) : Statement (.cbcomRemote a b fold port) := readsBack_cbcomRemote a b fold port
theorem cbwait (d : Reg) (a : Reg) : Statement (.cbwait d a) := readsBack_cbwait d a
theorem cbrel (a : Reg) : Statement (.cbrel a) := readsBack_cbrel a
theorem belay (a : Reg) : Statement (.belay a) := readsBack_belay a
theorem waitt (a : Reg) : Statement (.waitt a) := readsBack_waitt a
theorem tstmp (d : Reg) : Statement (.tstmp d) := readsBack_tstmp d
theorem launch (a : Reg) : Statement (.launch a) := readsBack_launch a
theorem ljoin (a : Reg) : Statement (.ljoin a) := readsBack_ljoin a
theorem delayRow (gap : Byte) : Statement (.delayRow gap) := noWords rfl
theorem rngkeyWrite (hi : Bool) (v : Word) : Statement (.rngkeyWrite hi v) := noWords rfl
theorem xctxWrite (v : Word) : Statement (.xctxWrite v) := noWords rfl
theorem racelogWrite (v : Word) : Statement (.racelogWrite v) := noWords rfl
theorem fpflagsWrite (v : Word) : Statement (.fpflagsWrite v) := noWords rfl
theorem tagerrWrite (v : Word) : Statement (.tagerrWrite v) := noWords rfl
theorem release (v : Word) : Statement (.release v) := noWords rfl
theorem registerWrite (off : BitVec 20) (v : Word) : Statement (.registerWrite off v) := noWords rfl
theorem lwinWrite (off : Nat) (data : List Byte) : Statement (.lwinWrite off data) := noWords rfl
theorem negotiate (seq : BitVec 16) : Statement (.negotiate seq) := noWords rfl
theorem imageLoad (seq : BitVec 16) : Statement (.imageLoad seq) := noWords rfl
theorem imageDrop (seq : BitVec 16) : Statement (.imageDrop seq) := noWords rfl
theorem preload (seq : BitVec 16) : Statement (.preload seq) := noWords rfl
theorem ctxOpen (seq : BitVec 16) : Statement (.ctxOpen seq) := noWords rfl
theorem ctxClose (seq : BitVec 16) : Statement (.ctxClose seq) := noWords rfl
theorem alloc (seq : BitVec 16) : Statement (.alloc seq) := noWords rfl
theorem free (seq : BitVec 16) : Statement (.free seq) := noWords rfl
theorem cancel (seq : BitVec 16) : Statement (.cancel seq) := noWords rfl
theorem query (seq : BitVec 16) : Statement (.query seq) := noWords rfl
theorem mailboxComplete : Statement (.mailboxComplete) := noWords rfl
theorem lwIde : Statement (.lwIde) := noWords rfl
theorem getVersion (body : List Byte) : Statement (.getVersion body) := noWords rfl
theorem getCapabilities (body : List Byte) : Statement (.getCapabilities body) := noWords rfl
theorem negotiateAlgorithms (body : List Byte) : Statement (.negotiateAlgorithms body) := noWords rfl
theorem getDigests (body : List Byte) : Statement (.getDigests body) := noWords rfl
theorem getCertificate (body : List Byte) : Statement (.getCertificate body) := noWords rfl
theorem challenge (body : List Byte) : Statement (.challenge body) := noWords rfl
theorem getMeasurements (body : List Byte) : Statement (.getMeasurements body) := noWords rfl
theorem keyExchange (body : List Byte) : Statement (.keyExchange body) := noWords rfl
theorem finish (body : List Byte) : Statement (.finish body) := noWords rfl
theorem keySet (body : List Byte) : Statement (.keySet body) := noWords rfl
theorem keyClear (body : List Byte) : Statement (.keyClear body) := noWords rfl
theorem fwData (body : List Byte) : Statement (.fwData body) := noWords rfl
theorem fwCommit (body : List Byte) : Statement (.fwCommit body) := noWords rfl
theorem placeLaunch : Statement (.placeLaunch) := noWords rfl
theorem startPulse (ctx : Byte) (lid : BitVec 16) (die : DieNo) : Statement (.startPulse ctx lid die) := noWords rfl
theorem coreExit (die : DieNo) (core : CoreNo) : Statement (.coreExit die core) := noWords rfl
theorem endOfLaunch (ctx : Byte) (lid : BitVec 16) : Statement (.endOfLaunch ctx lid) := noWords rfl
theorem migration (die : DieNo) (core : CoreNo) (target : MoveTo) : Statement (.migration die core target) := noWords rfl
theorem sweepVisit (die : DieNo) : Statement (.sweepVisit die) := noWords rfl
theorem holdTick (die : DieNo) : Statement (.holdTick die) := noWords rfl
theorem passClose (die : DieNo) (core : CoreNo) (slot : SlotNo) : Statement (.passClose die core slot) := noWords rfl
theorem refusedOpen (die : DieNo) (core : CoreNo) : Statement (.refusedOpen die core) := noWords rfl
theorem bankRemap (die : DieNo) (seg : SegNo) (live : W32) : Statement (.bankRemap die seg live) := noWords rfl
theorem remapComplete (die : DieNo) (seg : SegNo) : Statement (.remapComplete die seg) := noWords rfl
theorem tmmaHandover (die : DieNo) (core : CoreNo) : Statement (.tmmaHandover die core) := noWords rfl
theorem meshDelivery (die : DieNo) (core : CoreNo) (dir : BitVec 2) : Statement (.meshDelivery die core dir) := noWords rfl
theorem messageDelivery (die : DieNo) (core : CoreNo) (port : BitVec 4) : Statement (.messageDelivery die core port) := noWords rfl
theorem remoteWrite (die : DieNo) (core : CoreNo) (port : BitVec 4) : Statement (.remoteWrite die core port) := noWords rfl
theorem remoteAtomic (die : DieNo) (core : CoreNo) (port : BitVec 4) : Statement (.remoteAtomic die core port) := noWords rfl
theorem remoteCommit (die : DieNo) (core : CoreNo) (port : BitVec 4) : Statement (.remoteCommit die core port) := noWords rfl
theorem barrierComplete (ctx : Byte) (lid : BitVec 16) (scope : Scope) (die : DieNo) (id : BitVec 4) : Statement (.barrierComplete ctx lid scope die id) := noWords rfl
theorem linkstall (die : DieNo) (core : CoreNo) : Statement (.linkstall die core) := noWords rfl
theorem phostLine (die : DieNo) (core : CoreNo) (slot : SlotNo) (answer : HostAnswer) : Statement (.phostLine die core slot answer) := noWords rfl
theorem dataFlit (die : DieNo) (link : BitVec 4) (flit : Flit) : Statement (.dataFlit die link flit) := noWords rfl
theorem acknowledge (die : DieNo) (link : BitVec 4) (seq : Byte) : Statement (.acknowledge die link seq) := noWords rfl
theorem negativeAcknowledge (die : DieNo) (link : BitVec 4) (seq : Byte) : Statement (.negativeAcknowledge die link seq) := noWords rfl
theorem training (die : DieNo) (link : BitVec 4) (far : FarEnd) : Statement (.training die link far) := noWords rfl
theorem laneLockLoss (die : DieNo) (link : BitVec 4) : Statement (.laneLockLoss die link) := noWords rfl
theorem portRetire (die : DieNo) (link : BitVec 4) : Statement (.portRetire die link) := noWords rfl
theorem tickStamp : Statement (.tickStamp) := noWords rfl
theorem dieCutOff (die : DieNo) : Statement (.dieCutOff die) := noWords rfl
theorem announce (msg : PtpMsg) : Statement (.announce msg) := noWords rfl
theorem sync (msg : PtpMsg) : Statement (.sync msg) := noWords rfl
theorem followUp (msg : PtpMsg) : Statement (.followUp msg) := noWords rfl
theorem delayReq : Statement (.delayReq) := noWords rfl
theorem delayResp (msg : PtpMsg) : Statement (.delayResp msg) := noWords rfl
theorem pdelayReq : Statement (.pdelayReq) := noWords rfl
theorem pdelayResp (msg : PtpMsg) : Statement (.pdelayResp msg) := noWords rfl
theorem pdelayRespFollowUp (msg : PtpMsg) : Statement (.pdelayRespFollowUp msg) := noWords rfl
theorem management (body : List Byte) : Statement (.management body) := noWords rfl
theorem p2pTimeout : Statement (.p2pTimeout) := noWords rfl
theorem holdover : Statement (.holdover) := noWords rfl
theorem walltStep : Statement (.walltStep) := noWords rfl
theorem ppsIn : Statement (.ppsIn) := noWords rfl
theorem ppsOut : Statement (.ppsOut) := noWords rfl
theorem levelChange (die : DieNo) (level : Level) : Statement (.levelChange die level) := noWords rfl
theorem criticalTempTrip (die : DieNo) : Statement (.criticalTempTrip die) := noWords rfl
theorem haltLine (die : DieNo) (core : CoreNo) : Statement (.haltLine die core) := noWords rfl
theorem trapEntry (die : DieNo) (core : CoreNo) : Statement (.trapEntry die core) := noWords rfl
theorem trapDelivery (die : DieNo) (core : CoreNo) : Statement (.trapDelivery die core) := noWords rfl
theorem anchorTakeRequest (die : DieNo) : Statement (.anchorTakeRequest die) := noWords rfl
theorem heartbeat (die : DieNo) : Statement (.heartbeat die) := noWords rfl
theorem anchorFailed (die : DieNo) : Statement (.anchorFailed die) := noWords rfl
theorem scrubEngineBeat (die : DieNo) : Statement (.scrubEngineBeat die) := noWords rfl
theorem coldReset : Statement (.coldReset) := noWords rfl
theorem layerReadyTimeout (die : DieNo) (layer : BitVec 5) : Statement (.layerReadyTimeout die layer) := noWords rfl
theorem warmReset : Statement (.warmReset) := noWords rfl
theorem hotBankChange (die : DieNo) (seg : SegNo) (bank : BitVec 5) (hot : Bool) : Statement (.hotBankChange die seg bank hot) := noWords rfl
theorem criticalTripClear (die : DieNo) : Statement (.criticalTripClear die) := noWords rfl
theorem ppsOutFall : Statement (.ppsOutFall) := noWords rfl
theorem softRepair (die : DieNo) (seg : SegNo) (bank : BitVec 5) (group : BitVec 6) : Statement (.softRepair die seg bank group) := noWords rfl
theorem ideKm (body : List Byte) : Statement (.ideKm body) := noWords rfl
theorem snoop (line : Nat) : Statement (.snoop line) := noWords rfl
theorem cxlCacheResponse (answer : HostReply) : Statement (.cxlCacheResponse answer) := noWords rfl

end Sys2Proof.Laws.RoundTrip
end

