-- ==== Sys2Proof/Laws/Shapes.lean ====
section
/-! SUPPORT. What the shared operations of the V slot do, said once each: elementwise and final-step results in vectors, accumulators, masks
and scalars, and the entries of mesh directions that they read and send. -/

set_option Elab.async false

namespace Sys2Proof.Machine
open Sys2Proof.Says

/-! ### Writing elements -/

/-- A read after the writing of elements. -/
theorem get_putElems {α : Type} [DecidableEq α] (d : α) (m : SMap α) (base : Nat) (pick : Nat → Bool) (f : Nat → α) :
    ∀ (n k : Nat), SMap.get d (putElems d m base pick f n) k =
      if base ≤ k ∧ k < base + n ∧ pick (k - base) = true then f (k - base) else SMap.get d m k := by
  intro n
  induction n with
  | zero => intro k; rw [if_neg (by omega)]; rfl
  | succ n ih =>
    intro k
    simp only [putElems]
    by_cases hp : pick n = true
    · rw [if_pos hp, SMap.get_set]
      by_cases hk : k = base + n
      · subst hk
        rw [if_pos rfl, if_pos ⟨by omega, by omega, by rwa [Nat.add_sub_cancel_left]⟩, Nat.add_sub_cancel_left]
      · rw [if_neg hk, ih]
        by_cases h : base ≤ k ∧ k < base + n ∧ pick (k - base) = true
        · rw [if_pos h, if_pos ⟨h.1, by omega, h.2.2⟩]
        · rw [if_neg h, if_neg (fun q => h ⟨q.1, by omega, q.2.2⟩)]
    · rw [if_neg hp, ih]
      by_cases h : base ≤ k ∧ k < base + n ∧ pick (k - base) = true
      · rw [if_pos h, if_pos ⟨h.1, by omega, h.2.2⟩]
      · rw [if_neg h, if_neg]
        intro q
        by_cases hk : k = base + n
        · subst hk; rw [Nat.add_sub_cancel_left] at q; exact hp q.2.2
        · exact h ⟨q.1, by omega, q.2.2⟩

/-- An element of a vector register after the writing of elements of one. -/
theorem get_putElems_reg {α : Type} [DecidableEq α] (z : α) (m : SMap α) (d r n i : Nat) (pick : Nat → Bool) (f : Nat → α) (hn : n ≤ 64)
    (hi : i < 64) : SMap.get z (putElems z m (d * 64) pick f n) (r * 64 + i) =
      if r = d ∧ i < n ∧ pick i = true then f i else SMap.get z m (r * 64 + i) := by
  rw [get_putElems]
  by_cases h : r = d
  · subst h
    rw [Nat.add_sub_cancel_left]
    by_cases h2 : i < n ∧ pick i = true
    · rw [if_pos ⟨by omega, by omega, h2.2⟩, if_pos ⟨rfl, h2⟩]
    · rw [if_neg (fun q => h2 ⟨by omega, q.2.2⟩), if_neg (fun q => h2 q.2)]
  · rw [if_neg (by omega), if_neg (fun q => h q.1)]

/-! ### Directions -/

theorem Core.popDirs_eq (ds : List Nat) : ∀ (c : Core), c.popDirs ds = { c with meshRecv := (c.popDirs ds).meshRecv } := by
  induction ds with
  | nil => intro c; rfl
  | cons d ds ih => intro c; rw [Core.popDirs, ih]

/-- The entries of a direction after some have been read. -/
theorem Core.get_popDirs (ds : List Nat) : ∀ (c : Core) (k : Nat), ds.Nodup →
    SMap.get [] (c.popDirs ds).meshRecv k = (SMap.get [] c.meshRecv k).drop (if k ∈ ds then 1 else 0) := by
  induction ds with
  | nil => intro c k _; simp [Core.popDirs]
  | cons d ds ih =>
    intro c k h
    rw [List.nodup_cons] at h
    rw [Core.popDirs, ih _ _ h.2]
    simp only [SMap.get_set, List.mem_cons]
    by_cases hk : k = d
    · subst hk; simp [h.1]
    · simp [hk]

theorem State.dirs_nodup (s : State) (rs : List Reg) : (s.dirs rs).Nodup := List.nodup_dedup _

theorem Core.addFlags_eq (c : Core) (n : Nat) (f : Flags) :
    c.addFlags n f = { c with flagQ := if f = 0 then c.flagQ else c.flagQ ++ [(c.beats + n, f)] } := by
  unfold Core.addFlags; split <;> rfl

/-! ### The end of a V instruction -/

/-- What the end of a V instruction does, once the instruction has changed registers and entries sent only. -/
theorem vEnd_done (s t : State) (reads : List Reg) (lat : Nat) (fl : Flags) (fly : Option Fly) (ha : alone s t)
    (hc : t.core = { s.core with regs := t.core.regs, meshSend := t.core.meshSend }) :
    vDone s (s.vEnd t reads lat fl fly) reads lat fl ∧ (s.vEnd t reads lat fl fly).core.regs = t.core.regs ∧
      (s.vEnd t reads lat fl fly).core.meshSend = t.core.meshSend := by
  have hcore : (s.vEnd t reads lat fl fly).core = { (t.core.popDirs (s.dirs reads)).addFlags lat fl with vfly := fly.map (fun g => { g with flags := fl }) } :=
    State.core_onCore _ _
  have h1 := Core.popDirs_eq (s.dirs reads) t.core
  have h2 := Core.addFlags_eq (t.core.popDirs (s.dirs reads)) lat fl
  have hmr := Core.get_popDirs (s.dirs reads) t.core
  refine ⟨⟨⟨?_, ha.2.1, ha.2.2.1, ha.2.2.2.1, ha.2.2.2.2.1, ha.2.2.2.2.2⟩, ?_, ?_, ?_⟩, ?_, ?_⟩
  · intro k hk
    rw [← ha.1 k hk]
    exact State.coreAt_onCore_other _ _ _ (by rw [ha.2.2.2.2.1]; exact hk)
  · rw [hcore, h2, h1, hc]
  · rw [hcore, h2, h1, hc]
  · intro dir
    rw [hcore, h2]
    simp only []
    rw [hmr dir (State.dirs_nodup _ _), hc]
  · rw [hcore, h2, h1]
  · rw [hcore, h2, h1]

theorem alone_onCore (s : State) (f : Core → Core) : alone s (s.onCore f) :=
  ⟨fun _ h => State.coreAt_onCore_other _ _ _ h, rfl, rfl, rfl, rfl, rfl⟩

theorem vGuard_leads (s : State) (rs : List Reg) (t : State) (h : leads s rs) : vGuard s rs t = .next t := by
  unfold vGuard; rw [h]; rfl

/-- A vector destination. -/
theorem vdst_core (s : State) (d : Reg) (n : Nat) (pick : Nat → Bool) (f : Nat → W32) :
    (s.vdst d n pick f).core = if s.isDir d then
      s.core.meshPut (dirOf d) ((List.range 64).map (fun i => if decide (i < n) && pick i then f i else 0))
    else { s.core with regs := { s.core.regs with v := putElems 0 s.core.regs.v (d.toNat * 64) pick f n } } := by
  unfold State.vdst; split <;> exact State.core_onCore _ _

theorem vdst_alone (s : State) (d : Reg) (n : Nat) (pick : Nat → Bool) (f : Nat → W32) : alone s (s.vdst d n pick f) := by
  unfold State.vdst; split <;> exact alone_onCore _ _

/-- A V instruction that gives one vector (R151, R152, R154). -/
theorem setsV_one (s : State) (d : Reg) (reads : List Reg) (lat n : Nat) (pick : Nat → Bool) (f : Nat → W32) (fl : Flags)
    (fly : Option Fly) (hn : n ≤ 64) :
    setsV s (s.vEnd (s.vdst d n pick f) reads lat fl fly) reads
      [(d, fun i => if i < n ∧ pick i = true then some (f i) else none)] lat fl := by
  have hc := vdst_core s d n pick f
  have ha := vdst_alone s d n pick f
  have hd := vEnd_done s (s.vdst d n pick f) reads lat fl fly ha (by rw [hc]; split <;> rfl)
  refine ⟨hd.1, ?_, ?_, ?_⟩
  · rw [hd.2.1, hc]; split <;> rfl
  · intro r i hi
    simp only [laterV, Core.rdV_beginRow, hd.2.1, hc, List.find?_cons, List.find?_nil]
    by_cases hdir : s.isDir d = true
    · rw [if_pos hdir]
      by_cases hr : d = r
      · subst hr; simp [hdir, Core.meshPut]
      · have hr' : (d == r) = false := by simp [hr]
        simp [hr', Core.meshPut]
    · rw [if_neg hdir]
      simp only []
      rw [get_putElems_reg _ _ _ _ _ _ _ _ hn hi]
      by_cases hr : d = r
      · subst hr
        simp only [hdir, beq_self_eq_true, Bool.true_and, Bool.not_false, true_and, Option.bind_some]
        split <;> rfl
      · have : ¬ r.toNat = d.toNat := fun h => hr (BitVec.eq_of_toNat_eq h).symm
        have hr' : (d == r) = false := by simp [hr]
        simp [hr', this]
  · intro dir
    rw [hd.2.2, hc]
    by_cases hdir : s.isDir d = true
    · rw [if_pos hdir]
      simp only [Core.meshPut, SMap.get_set, List.filter_cons, List.filter_nil, hdir, Bool.true_and, beq_iff_eq]
      by_cases h : dir = dirOf d
      · subst h
        simp only [if_true, List.map_cons, List.map_nil]
        congr 4
        funext i
        by_cases hp : i < n ∧ pick i = true
        · simp [hp]
        · rw [if_neg hp]
          simp only [Option.getD_none]
          rw [if_neg]; simpa using hp
      · simp [h, Ne.symm h]
    · rw [if_neg hdir]; simp [hdir]

theorem foldN_le (f : BitVec 2) : foldN f ≤ 64 := by
  revert f; decide

/-- An elementwise result in a vector, unless a direction leads nowhere (R152, R155). -/
theorem vEach_sets (s : State) (d : Reg) (reads : List Reg) (c : VCtl) (k : Nat) (f : Nat → W32 × Flags) (h : leads s (d :: reads)) :
    ∃ t, vEach s d reads c k f = .next t ∧ setsV s t reads [(d, masked s c.m (foldN c.fold) (fun i => (f i).1))]
      (foldBeats c.fold + k) (orFlags (s.maskBit c.m) (fun i => (f i).2) (foldN c.fold)) := by
  refine ⟨_, vGuard_leads _ _ _ h, ?_⟩
  exact setsV_one s d reads _ _ _ _ _ _ (foldN_le _)

/-- A result in a vector written in the final step (R157). -/
theorem vFinal_sets (s : State) (d : Reg) (reads : List Reg) (busy lat m : Nat) (pick : Nat → Bool) (f : Nat → W32) (fl : Flags) (hm : m ≤ 64)
    (h : leads s (d :: reads)) : ∃ t, vFinal s d reads busy lat m pick f fl = .next t ∧
      setsV s t reads [(d, fun i => if i < m ∧ pick i = true then some (f i) else none)] lat fl :=
  ⟨_, vGuard_leads _ _ _ h, setsV_one s d reads _ _ _ _ _ _ hm⟩

/-- A scalar result of the V slot. -/
theorem sFinal_sets (s : State) (d : Reg) (reads : List Reg) (busy lat : Nat) (v : Word) (fl : Flags) (h : leads s reads) :
    ∃ t, sFinal s d reads busy lat v fl = .next t ∧ setsVS s t reads d v lat fl := by
  refine ⟨_, vGuard_leads _ _ _ h, ?_⟩
  have hc : (s.setS d v).core = s.core.wrS d v := State.core_onCore _ _
  have hd := vEnd_done s (s.setS d v) reads lat fl (flight s (s.setS d v) busy lat 0 (finalKeys busy (if d = 0 then [] else [.s d.toNat])) [])
    (alone_onCore _ _) (by rw [hc, Core.wrS_eq])
  refine ⟨hd.1, ?_, ?_, ?_⟩
  · rw [hd.2.1, hc, Core.wrS_eq]
  · rw [hd.2.2, hc, Core.wrS_eq]
  · intro r
    have := Core.rdS_wrS s.core d r v
    rw [Core.rdS_beginRow] at this
    rw [laterS, Core.rdS_beginRow, hd.2.1, hc, this]
    rfl

/-- A V instruction that gives a mask. -/
theorem setsVM_one (s : State) (d : Reg3) (reads : List Reg) (lat : Nat) (fl : Flags) (fly : Option Fly) (w : Word) (v : Nat → Option Bool)
    (hv : ∀ i, i < 64 → w.getLsbD i = (v i).getD ((s.core.rdM d).getLsbD i)) :
    setsVM s (s.vEnd (s.onCore (fun c => c.wrM d w)) reads lat fl fly) reads d v lat fl := by
  have hc : (s.onCore (fun c => c.wrM d w)).core = s.core.wrM d w := State.core_onCore _ _
  have hd := vEnd_done s (s.onCore (fun c => c.wrM d w)) reads lat fl fly (alone_onCore _ _) (by rw [hc, Core.wrM_eq])
  refine ⟨hd.1, ?_, ?_, ?_⟩
  · rw [hd.2.1, hc, Core.wrM_eq]
  · rw [hd.2.2, hc, Core.wrM_eq]
  · intro r i hi
    have := Core.rdM_wrM s.core d r w
    rw [Core.rdM_beginRow] at this
    rw [laterM, Core.rdM_beginRow, hd.2.1, hc, this]
    split
    · exact hv i hi
    · rfl

/-- A whole mask as the result of the V slot. -/
theorem mFinal_sets (s : State) (d : Reg3) (reads : List Reg) (busy lat : Nat) (v : Word) (h : leads s reads) :
    ∃ t, mFinal s d reads busy lat v = .next t ∧ setsVM s t reads d (fun i => some (v.getLsbD i)) lat 0 :=
  ⟨_, vGuard_leads _ _ _ h, setsVM_one s d reads lat 0 _ v _ (fun _ _ => rfl)⟩

/-- The bits of a word after some are put. -/
theorem getLsbD_putBits (old : Word) (pick f : Nat → Bool) : ∀ (n i : Nat), n ≤ 64 →
    (putBits old pick f n).getLsbD i = if i < n ∧ pick i = true then f i else old.getLsbD i := by
  intro n
  induction n with
  | zero => intro i _; rw [if_neg (by omega)]; rfl
  | succ n ih =>
    intro i hn
    simp only [putBits]
    by_cases hp : pick n = true
    · rw [if_pos hp]
      by_cases hi : i = n
      · subst hi
        have e : ((1#64 : BitVec 64) <<< i).getLsbD i = true := by
          rw [BitVec.getLsbD_shiftLeft]; simp; omega
        rw [if_pos (⟨by omega, hp⟩ : i < i + 1 ∧ pick i = true)]
        cases hf : f i
        · simp only [Bool.false_eq_true, if_false, BitVec.getLsbD_and, BitVec.getLsbD_not, e, Bool.not_true, Bool.and_false]
        · simp only [if_true, BitVec.getLsbD_or, e, Bool.or_true]
      · have e : ((1#64 : BitVec 64) <<< n).getLsbD i = false := by
          rw [BitVec.getLsbD_shiftLeft]
          by_cases h : i < n
          · simp [h]
          · simp only [h, decide_false, Bool.not_false, Bool.and_true, BitVec.getLsbD_one]
            simp; omega
        have r : ∀ b : Bool, (if b = true then putBits old pick f n ||| (1#64 <<< n) else putBits old pick f n &&& ~~~(1#64 <<< n)).getLsbD i =
            (putBits old pick f n).getLsbD i := by
          intro b
          cases b
          · simp only [Bool.false_eq_true, if_false, BitVec.getLsbD_and, BitVec.getLsbD_not, e, Bool.not_false, Bool.and_true]
            by_cases h64 : i < 64
            · simp [h64]
            · simp [h64, BitVec.getLsbD_of_ge _ _ (by omega : 64 ≤ i)]
          · simp only [if_true, BitVec.getLsbD_or, e, Bool.or_false]
        rw [r, ih i (by omega)]
        by_cases h : i < n ∧ pick i = true
        · rw [if_pos h, if_pos ⟨by omega, h.2⟩]
        · rw [if_neg h, if_neg (fun q => h ⟨by omega, q.2⟩)]
    · rw [if_neg hp, ih i (by omega)]
      by_cases h : i < n ∧ pick i = true
      · rw [if_pos h, if_pos ⟨by omega, h.2⟩]
      · rw [if_neg h, if_neg]
        intro q
        by_cases hi : i = n
        · subst hi; exact hp q.2
        · exact h ⟨by omega, q.2⟩

/-- Bits of a mask set from elements (R158, R160). -/
theorem mEach_sets (s : State) (d : Reg3) (reads : List Reg) (c : VCtl) (k : Nat) (f : Nat → Bool × Flags) (h : leads s reads) :
    ∃ t, mEach s d reads c k f = .next t ∧
      setsVM s t reads d (fun i => if i < foldN c.fold ∧ s.maskBit c.m i = true then some (f i).1 else none) (foldBeats c.fold + k)
        (orFlags (s.maskBit c.m) (fun i => (f i).2) (foldN c.fold)) := by
  refine ⟨_, vGuard_leads _ _ _ h, setsVM_one s d reads _ _ _ _ _ (fun i _ => ?_)⟩
  refine (getLsbD_putBits _ _ _ _ i (foldN_le c.fold : 8 * foldBeats c.fold ≤ 64)).trans ?_
  show (if i < foldN c.fold ∧ s.maskBit c.m i = true then _ else _) = _
  split <;> rfl

/-- A V instruction that gives elements of an accumulator. -/
theorem setsVQ_one (s : State) (d : Reg3) (reads : List Reg) (n lat : Nat) (pick : Nat → Bool) (f : Nat → Word) (fl : Flags)
    (fly : Option Fly) (hn : n ≤ 64) :
    setsVQ s (s.vEnd (s.onCore (fun r => { r with regs := { r.regs with q := putElems 0 r.regs.q (d.toNat * 64) pick f n } })) reads lat fl fly)
      reads d (fun i => if i < n ∧ pick i = true then some (f i) else none) lat fl := by
  generalize hu : s.onCore (fun r => { r with regs := { r.regs with q := putElems 0 r.regs.q (d.toNat * 64) pick f n } }) = u
  have hc : u.core = { s.core with regs := { s.core.regs with q := putElems 0 s.core.regs.q (d.toNat * 64) pick f n } } := by
    rw [← hu]; exact State.core_onCore _ _
  have hd := vEnd_done s u reads lat fl fly (by rw [← hu]; exact alone_onCore _ _) (by rw [hc])
  refine ⟨hd.1, ?_, ?_, ?_⟩
  · rw [hd.2.1, hc]
  · rw [hd.2.2, hc]
  · intro r i hi
    rw [laterQ, Core.rdQ_beginRow, hd.2.1, hc]
    simp only []
    rw [get_putElems_reg _ _ _ _ _ _ _ _ hn hi]
    by_cases hr : r = d
    · subst hr
      simp only [true_and, if_true]
      split <;> rfl
    · have : ¬ r.toNat = d.toNat := fun h => hr (BitVec.eq_of_toNat_eq h)
      simp only [this, hr, false_and, if_false]
      rfl

/-- An elementwise result in an accumulator (R164). -/
theorem qEach_sets (s : State) (d : Reg3) (reads : List Reg) (c : VCtl) (k : Nat) (f : Nat → Word × Flags) (h : leads s reads) :
    ∃ t, qEach s d reads c k f = .next t ∧
      setsVQ s t reads d (fun i => if i < foldN c.fold ∧ s.maskBit c.m i = true then some (f i).1 else none) (foldBeats c.fold + k)
        (orFlags (s.maskBit c.m) (fun i => (f i).2) (foldN c.fold)) := by
  exact ⟨_, vGuard_leads _ _ _ h, setsVQ_one s d reads _ _ _ _ _ _ (foldN_le _)⟩

end Sys2Proof.Machine
end

