-- ==== Sys2Proof/Tests/Slice0.lean ====
section
/-! SUPPORT. Tests: words decoded by hand from the encodings of the spec, terms that the checks of well-formedness refuse, single steps on small
states, and for each statement a state and operands that meet its hypotheses. -/

set_option Elab.async false

open Sys2Proof Sys2Proof.Machine Sys2Proof.Says

namespace Sys2Proof.Tests

/-! ### Small states -/

/-- A user core of a running launch, on die 0 with segment 0. -/
def userCore : Core :=
  { run := .running, placed := true, ctx := 1, lid := 5, ncores := 4, seg := some 0, scratchLen := 65536, passesMax := 32, lanes := 16,
    tagsMax := 64, barriers := 0xFFFE, owner := 1 }
/-- The state in which a core on die 0 is as given and its instructions run. -/
def at_ (k : Nat) (c : Core) : State := { State.reset with cores := [(k, c)], cur := k }
/-- Scalar registers of a core, as the row in hand reads them. -/
def Core.holds (c : Core) (l : SMap Word) : Core := { c with regs := { c.regs with s := l }, src := { c.src with s := l } }
/-- A user core with scalar registers. -/
def user (l : SMap Word) : State := at_ 0 (Core.holds userCore l)
/-- The anchor of die 0 with scalar registers. -/
def anchor (l : SMap Word) : State := at_ 26 (Core.holds { run := .running, placed := true } l)

/-- A user core in a mesh of its die: the core to the east takes part in its launch. -/
def meshed (l : SMap Word) : State :=
  { at_ 0 (Core.holds { userCore with mesh := true } l) with
    cores := [(0, Core.holds { userCore with mesh := true } l), (1, { userCore with mesh := true, lcore := 1 })] }

/-- A user core whose tile shapes are as given. -/
def shaped (l : SMap Word) (h : SMap (BitVec 23)) : State :=
  let c := Core.holds userCore l
  at_ 0 { c with regs := { c.regs with tshape := h }, src := { c.src with tshape := h } }

/-- A tensor in ROWS layout: three rows of 30 words. -/
def rowsDesc (f : BitVec 16) : Desc :=
  { format := f, layout := 1, rank := 2, dim0 := 30, dim1 := 3, limit := 384, valid := true }
/-- Without open passes no byte belongs to a destination. -/
theorem settled_of_none (s : State) (x n : Nat) (h : s.core.passes = []) : settled s x n := fun a _ _ => by simp [Core.inPassDst, h]

/-! ### Witnesses: the S slot -/

/-- A guard that holds, and one that does not. -/
theorem witness_ScalarTwoSources : (user []).core.guardOn ⟨0, 0⟩ = true ∧ (user []).core.guardOn ⟨7, 1⟩ = true := by decide
theorem witness_ScalarOneSource : (user []).core.guardOn ⟨0, 0⟩ = true := by decide
theorem witness_ComparesAndPredicates : (user []).core.guardOn ⟨0, 0⟩ = true := by decide
/-- The last eight bytes of the range of the core. -/
theorem witness_ScalarLoads : let s := user [(1, 65528)]
    s.core.guardOn ⟨0, 0⟩ = true ∧ ∀ e ∈ loadForms s ⟨0, 0⟩ 3 1 0 3 0, fits s e.2.1 e.2.2.1 ∧
      badIn s.core.badScratch e.2.1 e.2.2.1 = false ∧ settled s e.2.1 e.2.2.1 ∧ quiet s .load e.2.1 e.2.2.1 := by
  refine ⟨by decide, fun e he => ⟨?_, rfl, settled_of_none _ _ _ rfl, ?_⟩⟩ <;> revert e <;> simp only [fits, quiet] <;> decide
theorem witness_ScalarStores : let s := user [(1, 65528)]
    s.core.guardOn ⟨0, 0⟩ = true ∧ ∀ e ∈ storeForms s ⟨0, 0⟩ 3 1 0 3 0, fits s e.2.1 e.2.2 ∧
      badPartly s.core.badScratch e.2.1 e.2.2 = false ∧ quiet s .store e.2.1 e.2.2 := by
  simp only [fits, quiet]; decide
theorem witness_ScratchpadAtomics : let s := user [(1, 65528)]
    s.core.guardOn ⟨0, 0⟩ = true ∧ fits s 65528 8 ∧ badIn s.core.badScratch 65528 8 = false ∧ settled s 65528 8 ∧ quiet s .atomic 65528 8 ∧
      fits s 65528 4 ∧ badIn s.core.badScratch 65528 4 = false ∧ settled s 65528 4 ∧ quiet s .atomic 65528 4 :=
  ⟨by decide, by simp only [fits]; decide, rfl, settled_of_none _ _ _ rfl, by simp only [quiet]; decide, by simp only [fits]; decide, rfl,
    settled_of_none _ _ _ rfl, by simp only [quiet]; decide⟩
/-- The first byte beyond the range: no form fits. -/
theorem witness_ScratchpadBounds : let s := user [(1, 65536)]
    s.core.guardOn ⟨0, 0⟩ = true ∧ (∀ e ∈ loadForms s ⟨0, 0⟩ 3 1 0 3 0, ¬fits s e.2.1 e.2.2.1) ∧
      (∀ e ∈ storeForms s ⟨0, 0⟩ 3 1 0 3 0, ¬fits s e.2.1 e.2.2) ∧ ¬fits s 65536 8 ∧ ¬fits s 65536 4 := by
  simp only [fits]; decide
theorem witness_GuardedOff : (user []).core.guardOn ⟨1, 0⟩ = false ∧ (user []).core.guardOn ⟨0, 1⟩ = false ∧
    (anchor []).core.guardOn ⟨1, 0⟩ = false ∧ (anchor []).sup = true := by decide

/-! ### Witnesses: the V slot -/

/-- Every elementwise instruction: with vector registers, and with a direction that leads to a core. -/
theorem witness_VectorInteger : (∀ e ∈ vInteger (user []) 31 30 29 ⟨3, 7⟩, leads (user []) (31 :: e.2.1)) ∧
    ∀ e ∈ vInteger (meshed []) 29 1 2 ⟨0, 0⟩, leads (meshed []) (29 :: e.2.1) := by
  simp only [leads]; decide
theorem witness_VectorFloat : (∀ e ∈ vFloat (user []) 31 30 29 7 ⟨3, 7⟩, leads (user []) (31 :: e.2.1)) ∧
    ∀ e ∈ vFloat (meshed []) 29 1 2 0 ⟨0, 0⟩, leads (meshed []) (29 :: e.2.1) := by
  simp only [leads]; decide
/-- In each format a finite number, minus that number and zero; a signalling and a quiet NaN; and infinities. -/
theorem witness_VectorFloat_values : ∀ e ∈ [(f64, 0x3FF0000000000000, 64, 0x7FF0000000000000), (f32, 0x3F800000, 32, 0x7F800000), (bf16, 0x3F80, 16, 0x7F80)],
    let f := e.1
    let minus := 2 ^ (e.2.2.1 - 1)
    let inf := e.2.2.2
    (finIn f e.2.1 ∧ expField f e.2.1 ≠ 0 ∧ signIn f e.2.1 = false) ∧ (finIn f (minus + e.2.1) ∧ signIn f (minus + e.2.1) = true ∧ expField f (minus + e.2.1) ≠ 0) ∧
      (finIn f 0 ∧ expField f 0 = 0 ∧ fracField f 0 = 0 ∧ ¬nanIn f 0) ∧ snanIn f (inf + 1) ∧ (nanIn f (inf + 2 ^ (f.mb - 1)) ∧ ¬snanIn f (inf + 2 ^ (f.mb - 1))) ∧
      infIn f inf ∧ infIn f (minus + inf) ∧ ¬snanIn f 0 := by
  simp only [finIn, snanIn, nanIn, infIn, expField, fracField]; decide +kernel
theorem witness_AccumulatorsAndMasks : (∀ e ∈ vAccum (user []) 7 31 30 ⟨3, 7⟩, leads (user []) e.2.1) ∧
    (∀ e ∈ vMasks (user []) 7 31 30 1 2 ⟨3, 7⟩, leads (user []) e.2.1) ∧ (∀ e ∈ vAccum (meshed []) 0 29 1 ⟨0, 0⟩, leads (meshed []) e.2.1) ∧
    ∀ e ∈ vMasks (meshed []) 0 29 1 1 2 ⟨0, 0⟩, leads (meshed []) e.2.1 := by
  simp only [leads]; decide
theorem witness_VectorScalars : (∀ e ∈ vScalars (user []) 31 31 7 3 63, leads (user []) e.2.1) ∧
    ∀ e ∈ vScalars (meshed []) 0 29 0 0 0, leads (meshed []) e.2.1 := by
  simp only [leads]; decide
theorem witness_VectorMoves : (∀ e ∈ vMoves (user []) 31 30 29 7 ⟨3, 7⟩ 63, leads (user []) (31 :: e.2.1)) ∧ leads (user []) [31, 30, 29] ∧
    leads (user []) [30] ∧ ∀ e ∈ vMoves (meshed []) 29 1 2 0 ⟨0, 0⟩ 0, leads (meshed []) (29 :: e.2.1) := by
  simp only [leads]; decide
theorem witness_VectorStorageAndSorts :
    (∀ e ∈ vStorage (user []) 27 27 3 6, leads (user []) (e.2.2.2.2.1.map (fun o => o.1) ++ e.2.1)) ∧ leads (user []) [30, 31, 30] := by
  simp only [leads]; decide
theorem witness_RandomStreams : (user []).core.guardOn ⟨0, 0⟩ = true ∧ leads (user []) [31] ∧ leads (meshed []) [29] := by
  simp only [leads]; decide
/-- All 64 elements in range, the last word at its end; and the first element beyond the range, after 56 that are in it. -/
theorem witness_VectorLoads : let s := user [(1, 65536 - 256), (3, 65536 - 224)]
    (∀ e ∈ vLoads s 5 1 2 ⟨3, 0⟩, leads s (5 :: e.2.1) ∧ s.isDir 5 = false ∧ ∀ i, i < 64 → s.maskBit 0 i = true) ∧ s.core.fault = none ∧
      s.core.passes = [] ∧ s.core.badScratch = [] ∧
      (∀ i, i < 64 → fits s (strideAt s 1 2 4 i) 4 ∧ quiet s .load (strideAt s 1 2 4 i) 4) ∧ strideAt s 1 2 4 63 = 65532 ∧
      (∀ i, i < 56 → fits s (strideAt s 3 2 4 i) 4) ∧ ¬fits s (strideAt s 3 2 4 56) 4 := by
  simp only [leads, fits, quiet]; decide +kernel
theorem witness_VectorStores : let s := user [(1, 65536 - 256)]
    (∀ e ∈ vStores s 5 1 2 ⟨3, 0⟩, leads s e.2.1) ∧ s.core.badScratch = [] ∧
      ∀ i, i < 64 → fits s (strideAt s 1 2 4 i) 4 ∧ badPartly s.core.badScratch (strideAt s 1 2 4 i) 4 = false ∧
        quiet s .store (strideAt s 1 2 4 i) 4 := by
  simp only [leads, fits, quiet]; decide +kernel

/-! ### Witnesses: the T slot -/

/-- The rows of the reset shape at the end of the range; and one BFP row, with a header that fits and with none. -/
theorem witness_TileLoad : let s := user [(1, 65536 - 8192)]
    (s.core.shape 7).legal = true ∧ (s.core.shape 7).code = 2 ∧
      (∀ r, r < 64 → reaches s (rowAddr s 1 0 128 r) 128 4) ∧ ∀ r, r < 64 → readable s (rowAddr s 1 0 128 r) 128 :=
  ⟨by decide, by decide, by simp only [reaches]; decide +kernel,
    fun _ _ => ⟨rfl, settled_of_none _ _ _ rfl, (by simp only [quiet]; decide +kernel : ∀ r, r < 64 → quiet _ _ _ _) _ ‹_›⟩⟩
/-- No unit of a tile is uncorrectable. -/
theorem sound_of_none (s : State) (t : Reg3) (r n : Nat) (h : s.core.badTile = []) : rowSound s t r n ∧ expSound s t r := by
  simp [rowSound, expSound, h]
/-- A user core with one row of BFP shape and the bytes of a row in its scratchpad: 128 columns, mantissas of 4 bits, exponent 0x81. -/
def bfpRow (m : Memory) : State :=
  let s := shaped [(1, 65536 - 132)] [(7, 0x237F00)]
  s.onCore (fun c => { c with scratch := m })
theorem witness_TileLoad_bfp : let s := bfpRow (Memory.setBytes [] 65404 [0x41, 0x80, 0x00, 0x81])
    (s.core.shape 7).legal = true ∧ (s.core.shape 7).code = 3 ∧ (s.core.shape 7).rows = 1 ∧ reaches s (rowAddr s 1 0 132 0) 132 4 ∧
      s.core.badTile = [] ∧ ¬badBurst s (s.core.shape 7) (rowAddr s 1 0 132 0) ∧ badBurst (bfpRow []) ((bfpRow []).core.shape 7) (rowAddr (bfpRow []) 1 0 132 0) := by
  simp only [reaches, badBurst]; decide +kernel
theorem witness_TileStore : let s := user [(1, 65536 - 8192)]
    (s.core.shape 7).legal = true ∧ ∀ r, r < 64 → reaches s (rowAddr s 1 0 128 r) 128 4 ∧
      badPartly s.core.badScratch (rowAddr s 1 0 128 r) 128 = false ∧ quiet s .store (rowAddr s 1 0 128 r) 128 ∧
      s.core.badTile = [] := by
  simp only [reaches, quiet]; decide +kernel
/-- A window descriptor: 2 × 2 pixels of 4 bytes at 0x100, one image, 1 output row of 2, kernel step 1, padding 1 on the left. -/
def windowed (p : Word) : State :=
  let s := shaped [(1, 0), (2, p)] [(7, 0x003 + 0x300)]
  s.onCore (fun c => { c with scratch := Memory.setBytes [] 0 ([0, 1, 0, 0, 2, 0, 2, 0, 1, 0, 1, 0, 2, 0, 0, 0, 4, 0, 0, 0, 0, 0, 0, 0] ++
    [0, 0, 1, 1, 0, 1, 0, 0, 0x55]) })
/-- Row 0 lies in the padding, row 1 at pixel 0, rows 2 and 3 beyond the last image. -/
theorem witness_TileWindow : let s := windowed 0
    (s.core.shape 7).legal = true ∧ (s.core.shape 7).code < 3 ∧ (s.core.shape 7).rows = 4 ∧ (s.core.shape 7).u = 4 ∧ reaches s 0 64 64 ∧
      winOk s 0 1 ∧ winAddr s 0 1 0 = none ∧ winAddr s 0 1 1 = some 0x100 ∧ reaches s 0x100 4 1 ∧ ¬winBeyond s 0 1 ∧ winBeyond s 0 2 ∧
      badIn s.core.badScratch 0 512 = false ∧ s.core.passes = [] ∧ quiet s .load 0 512 := by
  simp only [reaches, winOk, winBeyond, quiet]; decide +kernel
theorem witness_TileMoves : let s := shaped [(2, 63)] [(6, 0x11F0F), (7, 0x10F1F)]
    transposes s 7 6 ∧ s.core.badTile = [] ∧ (s.core.rdS 2).toNat < 64 ∧ ¬transposes s 6 5 := by
  simp only [transposes]; decide +kernel
/-- Tiles of the shapes that each form of `TMMA` takes, and C in the last 1,024 bytes of the range. -/
theorem witness_MatrixIssue : let s := fun h => shaped [(1, 65536 - 1024)] [(6, h), (7, h)]
    let good := fun h kind => tmmaFits (s h) kind 6 ∧ tmmaFits (s h) kind 7 ∧ reaches (s h) ((s h).core.rdS 1).toNat 1024 64 ∧
      quiet (s h) .store 64512 1024 ∧ (s h).core.badTile = []
    good 0x11F0F 0 ∧ good 0x237F0F 1 ∧ good 0x03F3F 2 := by
  simp only [tmmaFits, reaches, quiet]; decide +kernel
/-- A core whose matrix work is due, with an upset of the array that spoils so many runs. -/
def working (runs : Nat) (u : Option (Nat × Nat × Nat)) : State :=
  at_ 0 { userCore with tmma := [{ kind := 2, due := some 0, runs := runs }], tileUpset := u }
theorem witness_MatrixResults :
    (∀ n u, ((working n u).coreAt (coreKey 0 0)).nextTmma = some (0, { kind := 2, due := some 0, runs := n })) ∧ ((working 0 none).dieAt 0).tick = 0 ∧
      ((working 0 none).coreAt 0).tileUpset = none ∧ ((working 0 (some (1, 15, 15))).coreAt 0).tileUpset = some (1, 15, 15) ∧
      ((working 1 (some (2, 15, 15))).coreAt 0).tileUpset = some (2, 15, 15) ∧ ((working 1 none).coreAt 0).fault = none :=
  ⟨fun _ _ => rfl, rfl, rfl, rfl, rfl, rfl⟩
/-- Work of the forms with BF16 and with BFP operands, finite or with a NaN; a run that passes after one that was refused; and work whose rows are all
still to come. -/
theorem witness_MatrixResults_sums :
    (let j : TmmaJob := { kind := 0, write := true }
     let x := fun (t : List Byte) (r k : Nat) => (t.getD (128 * r + 2 * k) 0).toNat + 256 * (t.getD (128 * r + 2 * k + 1) 0).toNat
     (∀ k, k < 32 → finIn bf16 (x j.a 0 k) ∧ finIn bf16 (x j.b 0 k)) ∧ nanIn bf16 (x { j with a := [0xC0, 0x7F] }.a 0 0)) ∧
    (let j : TmmaJob := { kind := 1, ea := [0x7F], eb := [0xFF] }; j.ea.getD 0 0 ≠ 0xFF ∧ j.eb.getD 1 0 ≠ 0xFF ∧ j.eb.getD 0 0 = 0xFF) ∧
    ((working 1 (some (1, 15, 15))).coreAt 0).tileUpset = some (1, 15, 15) ∧ badIn userCore.badScratch 0 64 = false ∧
    (let j : TmmaJob := { kind := 2, due := some 0 }
     ((working 0 none).coreAt 0).tmma.filter (fun j => j.due.isSome) = [j] ∧ j.rows = [] ∧ ((user []).coreAt 0).tmma.filter (fun j => j.due.isSome) = [] ∧
       ∀ i, badIn ((working 0 none).coreAt 0).badScratch (j.addr + 64 * i) 64 = false) := by
  refine ⟨?_, by decide, rfl, rfl, rfl, rfl, rfl, fun _ => rfl⟩
  simp only [finIn, nanIn]; decide
/-- The last 8,192 bytes of the range. -/
theorem witness_AccumulatorSets : let s := user [(1, 65536 - 8192)]
    setFree s true ∧ setFree s false ∧ reaches s 57344 8192 64 ∧ readable s 57344 8192 ∧ quiet s .store 57344 8192 :=
  ⟨by simp only [setFree]; decide, by simp only [setFree]; decide, by simp only [reaches]; decide,
    ⟨rfl, settled_of_none _ _ _ rfl, by simp only [quiet]; decide +kernel⟩, by simp only [quiet]; decide +kernel⟩

/-! ### Witnesses: control, traps and supervisor code -/

/-- A row store: row 0 calls, row 1 does nothing, row 2 can be jumped to and has the breakpoint bit, row 3 is the last. -/
def rowsOf (c : Core) : Core := { c with rowStore := [(0, 0x80000000), (1, 0xA8000000), (16, 0x00060000)], rows := 4 }
/-- Targets: the row after the call, a marked row; and rows that are none. -/
theorem witness_ControlTransfer : let s := at_ 0 (rowsOf (Core.holds userCore []))
    s.core.guardOn ⟨0, 0⟩ = true ∧ jumpTarget s 1 ∧ jumpTarget s 2 ∧ ¬jumpTarget s 3 ∧ ¬jumpTarget s 4 := by
  simp only [jumpTarget]; decide
theorem witness_RowsFollow : let s := user []
    s.core.run = .running ∧ s.core.ret = none ∧ s.core.moved = false ∧ s.core.jump = none ∧
      (at_ 0 { userCore with jump := some 3 }).core.jump.isSome = true := by decide
theorem witness_Descriptors : (user [(1, 255)]).core.guardOn ⟨0, 0⟩ = true ∧ (user []).sup = false ∧ (anchor []).sup = true ∧
    ((user [(1, 255)]).core.rdS 1).toNat = 255 ∧ 255 < ((user [(1, 256)]).core.rdS 1).toNat ∧ (anchor [(1, 256)]).core.guardOn ⟨0, 0⟩ = true ∧
    255 < ((anchor [(1, 256)]).core.rdS 1).toNat ∧ (1 : Byte) ∈ ({ descDue := [1] } : Module).descDue ∧ ¬(1 : Byte) ∈ ({} : Module).descDue := by decide
theorem witness_ControlReads : (user []).sup = false := by decide
theorem witness_ControlWrites : (user []).sup = false ∧ (anchor []).sup = true ∧
    (∀ e ∈ (user []).core.flagQ, e.1 ≠ (user []).core.beats) ∧ (at_ 0 { userCore with arrived := (7, 0) }).core.arrived.1 ≠ 0 := by
  decide
/-- The anchor of die 0 in its handler, which it answers for core 0: a `TRAP` of that core, and a trap of its own. -/
def handling (dlv : Bool) (from_ : Nat) (sa : Word) : State :=
  let t : TrapRegs := { inh := true, dlv := dlv, code := 0x10 }
  let c := Core.holds { run := .running, placed := true, trap := t, ret := some { row := 7 }, trapDst := 31 } [(1, sa)]
  { at_ 26 c with
    cores := [(0, { userCore with hold := .trap 31 }), (26, c)]
    dies := [(0, { serving := if dlv then some (from_, { code := 0x10 }) else none })] }
theorem witness_TrapAndReturn : (user []).sup = false ∧ (anchor []).sup = true ∧ (anchor []).core.guardOn ⟨0, 0⟩ = true ∧
    (anchor []).core.trap.inh = false ∧
    (let s := handling true 0 0
     s.sup = true ∧ s.core.guardOn ⟨0, 0⟩ = true ∧ s.core.trap.inh = true ∧ (∀ e, (s.dieAt 0).serving = some e → e.1 < 26) ∧
       s.core.trap.dlv = true ∧ (s.dieAt 0).serving = some (0, { code := 0x10 }) ∧ (s.coreAt 0).hold = .trap 31 ∧
       (s.core.rdS 1).getLsbD 0 = false) ∧
    (let s := handling false 0 0
     s.core.trap.inh = true ∧ s.core.trap.dlv = false ∧ s.core.trap.code = 0x10 ∧ s.core.vkept = none ∧ s.core.tkept = none) ∧
    (handling true 25 0).core.trap.dlv = true := by
  refine ⟨by decide, by decide, by decide, by decide, ⟨by decide, by decide, by decide, ?_, by decide, by decide, by decide, by decide⟩,
    by decide, by decide⟩
  intro e h; cases h; decide
/-- A pass that has parked with a trap. -/
def parkedPass : Pass := { st := .parked, kind := .copy, row := 9, trap := some (0x01, 3) }
/-- A core with a pass that has parked with a trap: with a handler of its own, at row 2, and without. -/
def trapped (en : Bool) : State :=
  { at_ 0 (rowsOf { userCore with passes := [(4, parkedPass)], trap := { en := en, vec := 2 } }) with dies := [(0, { tick := 1 })] }
theorem witness_TrapsTaken :
    (∃ e, (trapped true).boundaryTrap (coreKey 0 0) = some e ∧ ownTrap e.2 0 e.1 = true ∧ handlerGood e.2) ∧
    ∃ e, (trapped false).boundaryTrap (coreKey 0 0) = some e ∧ ownTrap e.2 0 e.1 = false := by
  refine ⟨⟨((trapped true).boundaryTrap (coreKey 0 0)).get (by decide), ?_⟩, ((trapped false).boundaryTrap (coreKey 0 0)).get (by decide), ?_⟩ <;>
    first | decide | (simp only [handlerGood]; decide)
theorem witness_TrapOrder : isAnchor 0 = false ∧ isAnchor 25 = false ∧
    ((at_ 0 { userCore with trap := { inh := true } }).coreAt 0).trap.inh = true ∧
    ((at_ 0 { userCore with halt := some {} }).coreAt 0).halt = some {} ∧ ({} : Halt).at_ ≤ ((user []).dieAt 0).tick ∧
    (let c := (at_ 0 { userCore with segTrap := [3, 5] }).coreAt 0
     c.run = .running ∧ c.hold = .none ∧ c.halt = none ∧ c.trap.inh = false ∧ c.segTrap = 3 :: [5]) ∧
    ((trapped false).coreAt 0).passTrap 1 = some (4, parkedPass, 0x01, 3) ∧
    (parkedPass.st = .parked ∧ parkedPass.trapAt < 1 ∧ parkedPass.trap ≠ none ∧ (((trapped false).coreAt 0).passes.map Prod.fst).Pairwise (· < ·) ∧
      userCore.passes = []) ∧
    (let c := (at_ 0 (rowsOf { userCore with brken := true, pos := { row := 2 } })).coreAt 0
     c.segTrap = [] ∧ c.passTrap 0 = none ∧ c.brken = true ∧ c.pos.pend = 0 ∧ c.brkTaken = false ∧ (c.rowAt c.pos.row).brk = true) ∧
    (let c := (at_ 0 { userCore with step := true, stepTaken := false }).coreAt 0
     c.brken = false ∧ c.step = true ∧ c.stepTaken = false ∧ c.passTrap 0 = none) := by decide
/-- A request of core 25 for service 3. -/
def request : TrapReq := { code := 0x10, svc := 3 }
/-- An anchor with that request waiting and due, and a program of its own or none. -/
def asked (own : Bool) : State :=
  let c : Core := rowsOf { run := .running, placed := true, own := own, trap := { en := true, vec := 2 } }
  { at_ 26 c with
    cores := [(25, { userCore with hold := .trap 31 }), (26, c)]
    dies := [(0, { tick := request.due 25, reqs := [(25, some request)] })] }
theorem witness_AnchorTakes : ((asked true).dieAt 0).oldest = some (25, request) ∧ (asked true).anchorReady 0 = true ∧
    (asked false).anchorReady 0 = true ∧ ((asked true).coreAt 26).own = true ∧ handlerGood ((asked true).coreAt 26) ∧
    ((asked false).coreAt 26).own = false ∧ request.due 25 ≤ ((asked false).dieAt 0).tick ∧ request.code = 0x10 ∧ 3 ≤ request.svc.toNat ∧
    ((asked false).coreAt 25).hold = .trap 31 ∧ (((asked true).dieAt 0).reqs.map Prod.fst).Pairwise (· < ·) ∧ ∀ e ∈ ((user []).dieAt 0).reqs, e.2 = none := by
  refine ⟨rfl, by decide, by decide, rfl, by simp only [handlerGood]; decide, rfl, le_refl _, rfl, by decide, rfl, by decide, by decide⟩
/-- That anchor serving the request, with a fence of firmware that waits for a pass which has parked. -/
theorem witness_AnchorTakes_fence :
    let s := { asked false with dies := [(0, { serving := some (25, request), fence := some ([(25, 3)], 0, 7) })] }
    let p := (s.coreAt 25).pass 3
    ((asked true).dieAt 0).fence = none ∧ (s.dieAt 0).fence = some ([(25, 3)], 0, 7) ∧
      (s.dieAt 0).serving = some (25, request) ∧ ¬(p.st = .riding ∧ p.closeIn = 0) := by decide
/-- Two cores of one launch; the halt line has reached the second, which has not stopped, or has stopped. -/
def halting (h : Option Halt) (tick : Nat) : State :=
  { at_ 0 userCore with cores := [(0, userCore), (25, { userCore with halt := h })], dies := [(0, { tick := tick })] }
theorem witness_HaltLine : isAnchor 0 = false ∧ isAnchor 25 = false ∧ ((halting none 0).coreAt 25).ctx = ((halting none 0).coreAt 0).ctx ∧
    ((halting none 0).coreAt 25).run.live = true ∧ ((halting none 0).coreAt 25).halt = none ∧
    ((halting (some {}) 0).coreAt (coreKey 0 25)).halt = some {} ∧
    ((halting (some { wall := some 9 }) 3).coreAt (coreKey 0 25)).halt = some { wall := some 9 } ∧ ((halting none 3).dieAt 0).tick = 3 ∧
    ((halting (some { wall := some 9, stopped := true }) 12).coreAt (coreKey 0 25)).halt = some { wall := some 9, stopped := true } := by
  decide
/-- A direction that leads nowhere, an illegal shape, shapes that do not transpose, row 64, and addresses beyond the range. -/
theorem witness_RefusedForms :
    (let s := at_ 0 { userCore with mesh := true }
     s.badDir ((vRegsOf (.vadd 31 1 2 ⟨0, 0⟩)).1 ++ (vRegsOf (.vadd 31 1 2 ⟨0, 0⟩)).2) = true) ∧
    ((shaped [] [(7, 0x22000)]).core.shape 7).legal = false ∧ ¬transposes (shaped [] [(6, 0x11F0F), (7, 0x11F0F)]) 7 6 ∧
    64 ≤ ((user [(2, 64)]).core.rdS 2).toNat ∧ ¬tmmaFits (user []) 0 6 ∧ ¬tmmaFits (user []) 1 6 ∧ ¬tmmaFits (user []) 2 6 ∧
    tmmaFits (shaped [(1, 65536)] [(6, 0x11F0F), (7, 0x11F0F)]) 0 6 ∧ ¬reaches (shaped [(1, 65536)] [(6, 0x11F0F)]) 65536 1024 64 ∧
    ¬reaches (user []) 57408 8192 64 ∧ (user []).sup = false := by
  simp only [transposes, tmmaFits, reaches]; decide
/-- Rows of which the 33rd is beyond the range, or the first misaligned; window descriptors that `TWIN` refuses; and sets in use: of an open `PMAT`,
which stops `XSAVE` too, and of a parked one. -/
theorem witness_RefusedForms_more :
    (let s := user [(1, 65536 - 4096), (3, 65537)]
     (s.core.shape 7).legal = true ∧ (s.core.shape 7).code = 2 ∧ s.core.fault = none ∧ s.core.badTile = [] ∧
       (∀ r, r < 32 → reaches s (rowAddr s 1 0 128 r) 128 4 ∧ badPartly s.core.badScratch (rowAddr s 1 0 128 r) 128 = false ∧
         quiet s .store (rowAddr s 1 0 128 r) 128 ∧ quiet s .load (rowAddr s 1 0 128 r) 128) ∧
       ¬reaches s (rowAddr s 1 0 128 32) 128 4 ∧ ¬reaches s (rowAddr s 3 0 128 0) 128 4) ∧
    (let s := shaped [(1, 65536), (2, 65472)] [(7, 0x237F00)]
     (s.core.shape 7).legal = true ∧ (s.core.shape 7).code = 3 ∧ ¬reaches s 65536 64 64) ∧
    (let s := user [(2, 65472)]; (s.core.shape 7).code < 3 ∧ reaches s 65472 64 64 ∧ quiet s .load 65472 64 ∧ ¬winOk s 65472 2) ∧
    (let p : Pass := { st := .riding, kind := .matAccum }
     let s := fun (q : Pass) => at_ 0 (Core.holds { userCore with passes := [(3, q)] } [(1, 57344)])
     reaches (s p) 57344 8192 64 ∧ ¬setFree (s p) false ∧ ¬setFree (s { p with st := .parked }) true) := by
  refine ⟨?_, ?_, ?_, ?_, ?_, ?_⟩ <;> simp only [reaches, quiet, winOk, setFree] <;> decide +kernel
/-- The anchor of die 0 with its map-store window at a place, and entries in its map store: in context 1, range 0 of 64 stitches at 0, paged. -/
def mapping (table : Bool) (index : BitVec 16) (ctx : Byte) (e : BitVec 128) : State :=
  let c := Core.holds { run := .running, placed := true, mapCtx := ctx, mapTable := table, mapIndex := index }
    [(1, e.setWidth 64), (2, (e >>> (64 : Nat)).setWidth 64)]
  { at_ 26 c with dies := [(0, { ranges := [(256, rangeEntry true true true 0 64 0 0)], pages := [(9, pageEntry true true 0 4096 1 0)] })] }
theorem witness_MapWrites :
    let entry := fun (s : State) => s.core.rdS 2 ++ s.core.rdS 1
    let good := fun (s : State) => s.sup = true ∧ s.core.guardOn ⟨0, 0⟩ = true
    (let s := mapping false 256 1 0; good s ∧ s.core.mapTable = false ∧ 255 < s.core.mapIndex.toNat) ∧
    (let s := mapping false 255 1 0; good s ∧ s.core.mapIndex.toNat ≤ 255 ∧ rgV (entry s) = false) ∧
    (let s := mapping true 65535 1 0; good s ∧ s.core.mapTable = true ∧ rgV (entry s) = false) ∧
    (let s := mapping false 1 1 (rangeEntry true true false 8192 0 0 64); rgV (entry s) = true ∧ rgFieldsOk (entry s) = false) ∧
    (let s := mapping false 1 0 (rangeEntry true true false 8192 1 0 64); rgV (entry s) = true ∧ s.core.mapCtx = 0) ∧
    (let s := mapping false 1 1 (rangeEntry true true false 8064 1 0 64)
     rgFieldsOk (entry s) = true ∧ s.core.mapCtx ≠ 0 ∧ (s.dieAt 0).rangeClash 257 1 (entry s) = true) ∧
    (let s := mapping false 1 1 (rangeEntry true true false 8192 1 0 64)
     rgFieldsOk (entry s) = true ∧ (s.dieAt 0).rangeClash 257 1 (entry s) = false) ∧
    (let s := mapping true 0 1 (pageEntry true true 0 1 1 0); rgV (entry s) = true ∧ pgFieldsOk (entry s) = false) ∧
    (let s := mapping true 0 1 (pageEntry true true 0 4096 1 0)
     pgFieldsOk (entry s) = true ∧ (s.dieAt 0).pageClash 0 (entry s) = true) ∧
    (let s := mapping true 0 1 (pageEntry true true 0 0 1 0)
     pgFieldsOk (entry s) = true ∧ (s.dieAt 0).pageClash 0 (entry s) = false) := by decide +kernel
/-- The anchor of die 0 with a key in slot 63, core 25 released, and the scrub engine as given. -/
def keyed (l : SMap Word) (x : Scrub) (c : Core) : State :=
  let a := Core.holds { run := .running, placed := true } l
  { at_ 26 a with cores := [(25, c), (26, a)], dies := [(0, { keys := [(63, { loaded := true, ctx := 1 })], scrub := x })] }
theorem witness_KeysScrubsOwners :
    let s := keyed [(1, 25), (2, 0x80_00000000 + 8388480), (3, 63), (4, 64), (5, 55), (6, 255)] {} {}
    s.sup = true ∧ s.core.guardOn ⟨0, 0⟩ = true ∧ 63 < (s.core.rdS 4).toNat ∧ (SMap.get {} (s.dieAt 0).keys 62).loaded = false ∧
      (SMap.get {} (s.dieAt 0).keys 63).loaded = true ∧ scrubGood s 25 8388480 128 ∧
      (∀ done, ((keyed [] ⟨true, 25, 0, 1, done, 0⟩ {}).dieAt 0).scrub = ⟨true, 25, 0, 1, done, 0⟩) ∧
      (∀ i, i < 2 → SMap.get 0 ((keyed [] ⟨true, 25, 0, 1, 0, 0⟩ {}).coreAt 25).banks.free ((2 * (0 + 0) + i) % 32) ≤ (s.dieAt 0).tick) ∧
      s.core.hold = .none ∧ unsentHost { st := .riding, kind := .hostOut, ctx := 1, desc := rowsDesc 3, sb := 1 } 1 ∧
      (s.core.rdS 6).toNat ≤ 255 ∧ (s.coreAt 25).placed = false ∧ (s.coreAt 25).clean = true ∧ (s.dieAt 0).scrub.busy = false ∧
      ((keyed [] {} userCore).coreAt 25).placed = true ∧ ((keyed [] {} { high := 1 }).coreAt 25).clean = false ∧
      s.attached 23 = false ∧ s.mappedByOther 23 255 = false ∧ (s.segAt 23).clean = true ∧ (s.segAt 23).pzValid = false ∧
      (let v : Word := 0x190008
       v.getLsbD 3 = true ∧ (v.extractLsb' 16 5).toNat = 25 ∧ ((s.coreAt 25).placed && s.isProtected (s.coreAt 25).ctx) = false) := by
  simp only [scrubGood, unsentHost]; refine ⟨?_, ?_, ?_, ?_, ?_, ?_, fun _ => rfl, ?_, ?_, ?_, ?_⟩ <;> decide +kernel
/-- Core 25 with bytes to scrub from stitch 0 on, the last of which the beat zeroes, or not; one whose owner is the context and one whose owner is another;
and passes that a debugger has frozen, before or after their open, on a core that stands stopped or does not. -/
theorem witness_KeysScrubsOwners_more :
    (∀ e ∈ [(0, 1), (0, 2)], let c : Core := { low := BitVec.ofNat _ e.1, high := BitVec.ofNat _ e.2 }
      c.low.toNat < c.high.toNat ∧ (0 : Nat) ≤ c.low.toNat ∧ (c.high.toNat ≤ max c.low.toNat 1 ↔ e.2 = 1)) ∧
    (let s := fun (c : Core) => keyed [(1, 25), (6, 255)] {} c
     ((s { owner := 255 }).coreAt 25).owner = 255 ∧ ((s {}).coreAt 25).owner ≠ 255 ∧ ((s { owner := 255 }).coreAt 25).clean = true) ∧
    (∀ o ∈ [true, false], let p : Pass := { st := .parked, frozen := true, atOpen := o }
      let s := fun (h : Hold) => keyed [] {} { userCore with passes := [(4, p)], hold := h }
      (((s .none).coreAt 25).pass 4).frozen = true ∧ (((s .none).coreAt 25).pass 4).atOpen = o ∧ ((s .delivered).coreAt 25).hold = .delivered ∧
        ¬(((s .none).coreAt 25).hold = .delivered ∨ ((s .none).coreAt 25).run = .suspended ∨ ((s .none).coreAt 25).run = .halted)) := by
  refine ⟨by decide +kernel, by decide +kernel, by decide +kernel⟩
/-- The anchor of die 0, with core 25 of context 1 and launch 5. -/
def above (l : SMap Word) (c : Core) : State :=
  let a := Core.holds { run := .running, placed := true } l
  { at_ 26 a with cores := [(25, c), (26, a)] }
theorem witness_HaltAndImages :
    (above [] userCore).sup = true ∧ (above [] userCore).core.guardOn ⟨0, 0⟩ = true ∧
      ofLaunch 1 (some 5) 25 userCore = true ∧ ofLaunch 1 (some 6) 25 userCore = false ∧ toSuspend 1 none 25 userCore = true ∧
      toResume 1 none 25 { userCore with run := .suspended } = true ∧ userCore.halt = none ∧ userCore.savable 25 = false ∧
      ({ userCore with run := .suspended } : Core).savable 25 = true ∧ ({ userCore with run := .halted } : Core).savable 25 = true ∧
      (above [] userCore).isProtected 1 = false ∧ userCore.restorable 25 = false ∧ ({ userCore with run := .placed } : Core).restorable 25 = true ∧
      (let x := ((above [(1, 25), (2, 0xFFFFFFFFFF000)] userCore).core.rdS 2).toNat; x % 4096 = 0 ∧ x < 2 ^ 52) := by decide
/-- Selectors of the actions and of no context, halt lines that are near, and the last image that the save region takes. -/
theorem witness_HaltAndImages_places :
    (∀ a, a < 4 → (BitVec.ofNat 64 (2 ^ 32 + a)).toNat % 4 = a) ∧ ((0x100 : Word).setWidth 8 : Byte) = 0 ∧ (1 : Byte) ≠ 0 ∧
      haltsNear (above [] { userCore with halt := some { at_ := 40 } }) (ofLaunch 1 none) ∧
      haltsNear (above [] userCore) (toSuspend 1 none) ∧
      (let x : Word := BitVec.ofNat 64 (2 ^ 63 + 335306752)
       imageLen 65536 = 237568 ∧ 2 ^ 63 ≤ x.toNat ∧ x.toNat < 2 ^ 63 + 2 ^ 29 ∧ x.toNat % 2 ^ 29 % 4096 = 0 ∧
         x.toNat % 2 ^ 29 + imageLen 65536 ≤ 2621440 * 128) ∧
      ¬((4095 : Word).toNat % 4096 = 0) ∧ (4095 : Word).toNat < 2 ^ 63 := by
  simp only [haltsNear]; decide +kernel

/-! ### Witnesses: waiting rows, passes and the sweep -/

theorem witness_WaitingRows :
    (let s := at_ 0 (Core.holds { userCore with tagsMax := 8 } [(1, 256), (2, 128)])
     beyondTags s (s.core.rdS 1) ∧ ¬beyondTags s (s.core.rdS 2)) ∧
    cwaitTarget (at_ 0 { userCore with seg := none }) 1 = none ∧ cwaitTarget (anchor [(1, 0x18000000)]) 1 = none ∧
    cwaitTarget (anchor [(1, 0x17000000)]) 1 ≠ none ∧ cwaitTarget (user []) 1 ≠ none ∧ (user []).sup = false ∧ (user []).core.seg = some 0 ∧
    (user []).core.guardOn ⟨0, 0⟩ = true := by
  refine ⟨⟨⟨8, by decide, by decide⟩, ?_⟩, by decide, by decide, by decide +kernel, by decide +kernel, by decide, by decide, by decide⟩
  rintro ⟨n, h, k⟩
  have k : 8 ≤ n := k
  have l := BitVec.lt_of_getLsbD h
  interval_cases n <;> exact absurd h (by decide)
/-- A core that rides its segment with a pass, and has a fence of its passes or none: the cursor of its segment has reached the stitch or not. -/
theorem witness_WaitingRows_delays :
    let p : Pass := { st := .riding, seg := 0, key := { seq := 3 } }
    let s := at_ 0 (Core.holds { userCore with passes := [(4, p)] } [(1, 4)])
    prndLeft s ≠ [] ∧ prndLeft (user []) = [] ∧ covered s ≠ [] ∧ covered (user []) = [] ∧ cwaitTarget (user [(1, 3)]) 1 = some (0, 0) ∧
      ((user []).segAt 0).cursor = 0 ∧ ((user []).dieAt 0).holdTick = false ∧ cwaitTarget s 1 = some (0, 1) ∧ (s.segAt 0).cursor ≠ 1 ∧
      s.core.swept = false ∧ { userCore with swept := true }.swept = true := by
  decide +kernel
/-- A user core with that tensor at TID 0, mapped from stitch 5 of its segment on, and scalar registers. -/
def tensor (f : BitVec 16) (l : SMap Word) : State :=
  let s := user l
  { s with mod := { s.mod with descs := [(256, rowsDesc f)] }, dies := [(0, { ranges := [(256, rangeEntry true true false 0 3 0 5)] })] }
/-- The operands of a pass row: A in s0, B in s2, C in s3, D in s4, E in s5, TAG 63. -/
def op : PassOp := { d := 4, a := 0, b := 2, tag := 63, tid := 0, c := 3, e := 5, flags := 0 }
/-- The format that an entry takes: I32 or F32. -/
def formatFor (k : PassKind) : BitVec 16 := if k ∈ [.scanSumi, .updAddi, .updMini, .updMaxi, .updoAddi] then 2 else 3
/-- Every entry meets its checks with the last item, its areas at the end of the range. -/
theorem witness_PassOpens : ∀ e ∈ passEntries,
    let s := tensor (formatFor e.2) [(2, 1), (3, 65472), (4, 65416)]
    let pl := s.planOf e.2 op
    s.core.seg = some 0 ∧ op.tag.toNat < s.tagCount s.cur ∧ s.idleSlot s.cur = some 0 ∧ pl.descOk = true ∧ pl.limits = true ∧
      (∀ r ∈ pl.areas, r.1 % r.2.2 = 0 ∧ r.1 + r.2.1 ≤ s.spEnd s.cur) ∧ sourcesGood s pl.srcs ∧ s.core.step = false := by
  simp only [sourcesGood, quiet]; decide +kernel
/-- A stepped core with PFREEZE: a pass of its row opens frozen. -/
theorem witness_PassOpens_frozen :
    let s := (tensor 3 [(2, 3)]).onCore (fun c => { c with step := true, pfreeze := true })
    let pl := s.planOf .put op
    s.core.step = true ∧ s.core.pfreeze = true ∧ s.core.seg = some 0 ∧ s.idleSlot s.cur = some 0 ∧ pl.descOk = true ∧ pl.limits = true ∧
      (∀ r ∈ pl.areas, r.1 % r.2.2 = 0 ∧ r.1 + r.2.1 ≤ s.spEnd s.cur) ∧ sourcesGood s pl.srcs := by
  simp only [sourcesGood, quiet]; decide +kernel
/-- What a row leaves in slot 0. -/
def opened (i : Instr) (s : State) : Pass := match exec i s with | .next t => t.core.pass 0 | _ => {}
/-- A mapped tensor, and one in a range of another segment. -/
theorem witness_PassOpens_mapped :
    let s := tensor 3 [(2, 3)]
    mapped s (opened (.pput op) s) ∧ ¬mapped { s with dies := [] } (opened (.pput op) { s with dies := [] }) := by
  have h : (stitchSet (opened (.pput op) (tensor 3 [(2, 3)])).exts).map Prod.fst = [0, 1, 2] := by decide +kernel
  refine ⟨fun v hv => ⟨rangeEntry true true false 0 3 0 5, ?_⟩, fun g => ?_⟩
  · rw [h] at hv
    revert v; decide +kernel
  · obtain ⟨r, hr⟩ := g 0 (by decide +kernel)
    exact absurd hr (by simp [Die.checkOpen, Die.rangeAt, State.dieAt, SMap.get])
/-- No segment; a tag beyond the core's; no idle slot; no descriptor; areas beyond the range; items beyond the tensor. -/
theorem witness_PassOpens_refused :
    (at_ 0 { userCore with seg := none }).core.seg = none ∧
    ¬op.tag.toNat < (at_ 0 { userCore with tagsMax := 63 }).tagCount 0 ∧ (at_ 0 { userCore with passesMax := 0 }).idleSlot 0 = none ∧
    (let pl := (user [(2, 1)]).planOf .put op; pl.early = true ∧ pl.descOk = false) ∧
    (let s := tensor 3 [(2, 1), (4, 65420)]
     let pl := s.planOf .put op
     s.idleSlot 0 ≠ none ∧ pl.descOk = true ∧ ∃ r ∈ pl.areas, ¬(r.1 % r.2.2 = 0 ∧ r.1 + r.2.1 ≤ s.spEnd 0)) ∧
    (let s := tensor 3 [(2, 4)]
     let pl := s.planOf .put op
     (∀ r ∈ pl.areas, r.1 % r.2.2 = 0 ∧ r.1 + r.2.1 ≤ s.spEnd 0) ∧ ¬(pl.descOk = true ∧ pl.limits = true)) := by decide +kernel
/-- A user core with a T5 tensor of one block, and the header of its activations, for one group, in its scratchpad. -/
def ternary : State :=
  let s := user [(2, 1), (3, 4096), (4, 64), (5, 8192)]
  let d : Desc := { format := 0x10, layout := 2, rank := 2, dim0 := 320, dim1 := 128, limit := 8192, scaleTid := 1, group := 64, density := 4, valid := true }
  { s.onCore (fun c => { c with scratch := Memory.setBytes [] 64 [0, 0, 1, 0, 0, 0, 0, 0] }) with
    mod := { s.mod with descs := [(256, d)] }, dies := [(0, { heat := 4096, heatCap := 4 })] }
theorem witness_MatrixPasses :
    let s := ternary
    let o : PassOp := { op with flags := 0x3C00 }
    let d := s.desc (ownTag s) 0
    let r := fun (x : Reg) => (s.core.rdS x).toNat
    s.idleSlot s.cur = some 0 ∧ o.tag.toNat < s.tagCount s.cur ∧ s.core.seg = some 0 ∧ heatWaits (heatArm s o) o = false ∧
      o.lane.toNat < s.core.lanes ∧ o.lane = 15 ∧ d.valid = true ∧ d.fmt = some .t5 ∧ d.layout = 2 ∧ r o.d % 8 = 0 ∧ r o.d + 8 + 324 ≤ 65536 ∧
      s.core.passes = [] ∧ Memory.load s.core.scratch (r o.d + 4) 4 = 0 ∧ matGroups s o = (0, 1) ∧ 0 + 1 ≤ d.dim 0 / 320 ∧ r o.c % 4 = 0 ∧
      r o.c + 512 * r o.b ≤ 65536 ∧ r o.e % 64 = 0 ∧ r o.e + 1024 * 1 * r o.b ≤ 65536 ∧ r o.a + r o.b ≤ d.dim 1 / 128 ∧
      sourcesGood s [(r o.d, 332)] ∧ badIn s.core.badScratch (r o.d) 8 = false := by
  simp only [sourcesGood, quiet]; decide +kernel
/-- With an empty account the row is held. -/
theorem witness_MatrixPasses_held :
    let s := { ternary with dies := [(0, { heat := 0, heatCap := 4 })] }
    let o : PassOp := { op with flags := 0x3C00 }
    s.idleSlot s.cur = some 0 ∧ o.tag.toNat < s.tagCount s.cur ∧ heatWaits (heatArm s o) o = true := by decide +kernel
/-- The last stitch of segment 23; a segment that is none, and a stitch beyond the last. -/
theorem witness_MatrixPasses_zero :
    let s := anchor [(1, 8388607), (2, 1), (3, 23)]
    let o : PassOp := { op with a := 1 }
    s.idleSlot s.cur = some 0 ∧ o.tag.toNat < s.tagCount s.cur ∧ s.sup = true ∧ (s.core.rdS o.c).toNat < 24 ∧
      24 ≤ ((anchor [(3, 32)]).core.rdS o.c).toNat ∧ (anchor [(1, 8388608), (2, 1), (3, 23)]).period 23 < 8388608 + 1 ∧
      (s.core.rdS o.a).toNat + (s.core.rdS o.b).toNat ≤ s.period 23 ∧ (s.core.rdS o.b).toNat ≠ 0 ∧ (s.segAt 23).pzValid = false ∧
      s.core.step = false := by decide +kernel
/-- A user core with a pass in slot 31. -/
def riding (p : Pass) : State := at_ 0 (Core.holds { userCore with passes := [(31, p)] } [(1, 31)])
theorem witness_PassSlots :
    (let s := riding { st := .parked }
     ((s.core.rdS 1).toNat % 32 < s.slotCount 0 ∧ (s.core.pass 31).st = .parked ∧ (s.core.pass 31).frozen = false ∧
       (s.core.pass 31).atOpen = false)) ∧
    (at_ 0 { userCore with passesMax := 31 }).slotCount 0 ≤ 31 ∧ ((user []).core.pass 31).st = .idle ∧
    (let p := (riding { st := .riding }).core.pass 31; p.st = .riding ∧ p.closeIn = 0) ∧
    ((riding { st := .closing, closeIn := 3 }).core.pass 31).st = .closing ∧
    (let q := (riding { st := .closing, kind := .scanCount, err := true, sd := 65528 }).passAt (coreKey 0 0) 31
     q.st = .closing ∧ q.closeIn = 0 ∧ q.err = true ∧ q.kind = .scanCount ∧ q.cancelled = false ∧ q.spoilt = [] ∧
       badPartly userCore.badScratch q.sd 8 = false) ∧ userCore.racemode = 0 ∧
    ((at_ 0 { userCore with refusals := [(0, 63)] }).coreAt (coreKey 0 0)).refusals = (0, 63) :: [] ∧
    (∀ k ∈ [PassKind.hostIn, .hostOut],
      let q := (riding { st := .riding, kind := k, desc := rowsDesc 3, sb := 1, hostSeen := [0] }).passAt (coreKey 0 0) 31
      let ls := linesOf q.sc (q.sb * q.desc.itemBytes)
      1 ∈ ls ∧ ¬1 ∈ q.hostSeen ∧ (∀ l ∈ ls, l < 1 → l ∈ q.hostSeen) ∧ q.st ≠ .idle ∧ q.cancelled = false ∧ q.kind = k) ∧
    (List.replicate 64 (0 : Byte)).length = 64 ∧ (riding {}).isProtected 1 = false := by decide +kernel
/-- A `PMAT` with a malformed burst header, and with none; a `PFILT` that selects more entries than it may write. -/
theorem witness_PassSlots_flags :
    (let q : Pass := { kind := .matWrite, ctl := 0x10000 }
     (List.range q.groups).any q.badBurst = true ∧ (List.range { q with ctl := 0 }.groups).any q.badBurst = false) ∧
    (∃ q : Pass, q.kind = .filt ∧ q.se < q.selected.length) := by
  refine ⟨?_, ⟨{ kind := .filt, desc := { rowsDesc 3 with dim0 := 1 }, sb := 1 }, rfl, ?_⟩⟩ <;> decide +kernel
/-- A pass over words of stitch 5: what it names there. -/
def wordPass (k : PassKind) : Pass :=
  { st := .riding, kind := k, desc := { rowsDesc 3 with dim0 := 1 }, sb := 1, sd := 256, ranges := [rangeEntry true true false 0 3 0 5], ret := true }
theorem witness_PassVisits : ∀ k ∈ PassKind.copy :: .put :: .zero :: updates.map Prod.fst,
    let s := riding (wordPass k)
    (s.passAt 0 31).kind = k ∧ (s.passAt 0 31).cuts 5 = [⟨0, 0, 0, 4, 256⟩] ∧ (s.segAt 0).bad.contains 5 = false ∧ (s.passAt 0 31).ret = true ∧
      (s.passAt 0 31).key.sup = false ∧ 5 < 2 ^ 23 := by decide +kernel
/-- The pass rides segment 0 alone, whose cursor is about to come to stitch 5. -/
theorem witness_PassVisits_sweep : ∀ k ∈ [PassKind.copy, .put],
    let p := { wordPass k with openPt := 5 }
    let s : State := { riding p with segs := [(0, { cursor := 4 })], mod := { boot := none } }
    0 ∈ segKeys 0 ∧ (s.dieAt 0).holdNext = false ∧ s.mod.boot = none ∧ (s.dieAt 0).region = [] ∧ (∀ e ∈ s.cores, e.2.parts = false ∧ e.2.tmma = []) ∧
      (s.segAt 0).remap = none ∧ 5 = ((s.segAt 0).cursor + 1) % (s.segAt 0).period ∧ (∀ y ∈ segKeys 0, s.riders y = if y = 0 then [((0, 31), p)] else []) ∧
      p.st = .riding ∧ p.closeIn = 0 ∧ p.lead = 0 ∧ (p.openPt + p.visits) % (s.segAt 0).period = 5 ∧ ∀ va ∈ p.hitVas 5, p.pagedAt va = false := by
  decide +kernel
theorem witness_SweepAndBanks :
    let s := user []
    let g := s.segAt 23
    (s.dieAt 0).holdNext = false ∧ ({ holdNext := true } : Die).holdNext = true ∧ (s.dieAt 0).estimates = [] ∧
      (s.dieAt 0).cutOff = false ∧ ({ cutOff := true } : Die).cutOff = true ∧ s.moduleTick ≤ (s.dieAt 0).ptick + 3 ∧
      (s.dieAt 0).ptick < s.moduleTick + 4 ∧ 0 + 3 < ({ s with dies := (0, { tick := 4 }) :: (List.range 15).map (fun d => (d + 1, { cutOff := true })) } : State).moduleTick ∧
      ({ s with dies := [(0, { ptick := 4, tick := 0 })] } : State).moduleTick + 4 ≤ 4 ∧ g.remap = none ∧
      g.live.getLsbD 31 = true ∧ g.hot.getLsbD 31 = false ∧ ({ hot := 0x80000000 } : Seg).hot.getLsbD 31 = true ∧ s.savesOn 0 = false ∧
      (0x7FFFFFFF#32 &&& ~~~g.live = 0 ∧ 0x7FFFFFFF#32 ≠ g.live ∧ 0x7FFFFFFF#32 ≠ 0#32 ∧
        s.mappedAbove 23 (bankCount 0x7FFFFFFF * 262144) = false) ∧
      (let r : Remap := { live := 0x7FFFFFFF, setup := 0, step := 31 * 262144 + 32 }
       r.setup = 0 ∧ bankCount r.live * 262144 + 32 ≤ r.step) ∧ g.repaired.length < 8 ∧ ¬(31 * 64 + 63) ∈ g.repaired := by decide +kernel

/-! ### Witnesses: links, barriers and buffers -/

/-- Two cores of one launch on die 0: logical core 0, which sends from port 14 to port 15 of logical core 1, and core 1, as given. -/
def pair (f g : Core → Core) : State :=
  let c := f { userCore with bindings := [⟨14, [0x200F]⟩] }
  { at_ 0 c with cores := [(0, c), (25, g { userCore with lcore := 1 })] }
/-- With eight entries free and the area at the end of the range; with a queue that is full; without a binding; and out of range. -/
theorem witness_LinkSends :
    let f := fun (x : Word) (l : List Sent) (c : Core) => { Core.holds c [(2, x)] with sends := [(14, l)] }
    let good := fun (s : State) (r : Option (Nat × Nat × Nat)) => match r with | none => True | some r => r.1 % r.2.1 = 0 ∧ r.1 + r.2.2 ≤ s.spEnd s.cur
    let full : Sent := { op := .send [], entries := 8 }
    (∀ e ∈ sendForms (pair (f 65472 []) id) 1 2 1 14, (pair (f 65472 []) id).core.bound 14 = true ∧ (pair (f 65472 []) id).core.bound 13 = false ∧
      good (pair (f 65472 []) id) e.2.2.1 ∧ occupancy ((pair (f 65472 []) id).core.sendQ 14) + e.2.1 ≤ 8) ∧
    (∀ e ∈ sendForms (pair (f 65472 [full]) id) 1 2 1 14, 8 < occupancy ((pair (f 65472 [full]) id).core.sendQ 14) + e.2.1) ∧
    ∀ e ∈ sendForms (pair (f 65504 []) id) 1 2 1 14, e.2.2.1.isSome = true → ¬good (pair (f 65504 []) id) e.2.2.1 := by
  refine ⟨?_, ?_, ?_⟩ <;> simp only [sendForms, List.mem_cons, List.not_mem_nil, or_false, forall_eq_or_imp, forall_eq] <;> decide
/-- An operation on its way between them. -/
def sent (op : LOp) : Sent := { op := op, entries := 1, taken := 1, core := 1, rport := 15 }
/-- The pair with that operation due. -/
def arrives (op : LOp) (g : Core → Core) : State := pair (fun c => { c with sends := [(14, [sent op])] }) g
/-- A buffer object: two stages of 32 bytes at 0x100, with counters HEAD, TAIL, ACQ and WAITED. -/
def buffer (h t a w : Byte) : List Byte :=
  [0, 1, 0, 0, 32, 0, 0, 0, 2, 0, 0, 0, h, 0, 0, 0, t, 0, 0, 0, a, 0, 0, 0, w, 0, 0, 0]
theorem witness_LinkArrivals_messages :
    let es := fun n => List.replicate n (List.replicate 8 (0 : W32))
    let full := fun (c : Core) => { c with recvQ := [(15, List.replicate 9 {})] }
    (∀ n, arriving (arrives (.send (es n)) full) 0 0 14 (sent (.send (es n))) 25) ∧
      (((arrives (.send (es 7)) full).coreAt 25).recv 15).length + (es 7).length ≤ 16 ∧
      16 < (((arrives (.send (es 8)) full).coreAt 25).recv 15).length + (es 8).length ∧
      (let s := at_ 0 { userCore with recvQ := [(14, [{}, {}])] }; 2 ^ (1 : BitVec 2).toNat ≤ (s.core.recv 14).length) := by
  refine ⟨fun n => ?_, by decide, by decide, by decide⟩
  exact ⟨rfl, rfl, rfl, Nat.le_refl 0, rfl, nofun⟩
theorem witness_LinkArrivals_memory :
    let ws := List.replicate 8 (7 : W32)
    (∀ op ∈ [LOp.put 65504 ws, .amo 0 65504 ws, .put 65505 ws, .amo 3 65505 ws, .commit 64 ws],
      let s := arrives op (fun c => { c with scratch := Memory.setBytes [] 64 (buffer 0 0 0 0) })
      arriving s 0 0 14 (sent op) 25 ∧ (s.coreAt 25).fault = none ∧ s.spEnd 25 = 65536) ∧
    65504 + 4 * ws.length ≤ 65536 ∧ 65536 < 65505 + 4 * ws.length ∧ ws.length = 8 * 1 ∧ (sent (.put 65504 ws)).applied < 1 ∧
    (let s := arrives (.commit 64 ws) (fun c => { c with scratch := Memory.setBytes [] 64 (buffer 0 0 0 0) })
     let c := s.coreAt 25
     let b := cbufOf (Memory.load c.scratch 64 64)
     c.grants 0 [⟨[(65504, 32)], false⟩] = true ∧ c.grants 0 [⟨[(65504, 32)], true⟩] = true ∧ badIn c.badScratch 64 64 = false ∧
       badPartly c.badScratch 65504 32 = false ∧ b.ok 65536 = true ∧ 4 * ws.length ≤ b.ssize ∧ b.head = b.acq ∧ (b.acq - b.tail).toNat < b.stages ∧
       c.grants 0 [⟨[(64, 64)], true⟩, ⟨[(b.stage b.acq, 4 * ws.length)], false⟩] = true) := by
  simp only [arriving]; decide +kernel
theorem witness_LinkArrivals_others :
    (let s := meshed []
     let t := s.onCore (fun c => { c with meshSend := [(1, [{ due := some 0 }])] })
     SMap.get [] (t.coreAt (coreKey 0 0)).meshSend 1 = { due := some 0 } :: [] ∧ 0 ≤ (t.dieAt 0).tick ∧ t.dirTarget (coreKey 0 0) 1 = some 1 ∧
       (SMap.get [] (t.coreAt 1).meshRecv 3).length < 4) ∧
    (let c := (at_ 0 { userCore with stall := 1024, lstall := 1, held := 4, stallPort := 14, stallSlot := 4 }).coreAt (coreKey 0 0)
     c.stall ≠ 0 ∧ c.lstall * 1024 ≤ c.stall ∧ c.halt = none ∧ c.fault = none) := by decide
/-- Two cores, the second of which has arrived at id 15 in a scope. -/
def partner (scope : Nat) (f : Core → Core) : State :=
  pair f (fun c => { c with arr := 0x8000, arrivals := [(15, ⟨scope, 0, 0, 0⟩)] })
theorem witness_Barriers :
    (let s := pair id id
     s.core.barriers.getLsbD 15 = true ∧ s.core.barriers.getLsbD 0 = false ∧ s.core.arr.getLsbD 15 = false ∧ s.core.pos.barIn = none) ∧
    (pair (fun c => { c with arr := 0x8000 }) id).core.arr.getLsbD 15 = true ∧
    (∀ scope ∈ [0, 1, 2], ¬clashes (partner scope id) 15 scope ∧ clashes (partner scope id) 15 (scope + 1)) ∧
    (pair (fun c => { c with pos := { barIn := some 15 } }) id).core.pos.barIn ≠ none ∧
    ∀ scope ∈ [(Scope.die, 0), (.launch, 1), (.sys, 2)],
      let s := partner scope.2 (fun c => { c with run := .exited })
      let ps := participants s 1 5 scope.1 0
      (∀ e ∈ ps, counted s e 15 scope.2) ∧ (∃ e ∈ ps, e.2.run.left = false) ∧ (ps.map Prod.fst).count 25 = 1 := by
  simp only [clashes, counted]; decide +kernel
/-- A launch of the two cores whose port 15 is bound to targets of a tree of modules, with a trunk of home port 2 on port 2 that is up. -/
def treed (l : Launch) (ws : List W32) : State :=
  let s := partner 2 (fun c => { c with run := .exited, bindings := [⟨15, ws⟩] })
  { s with mod := { launches := [{ l with pkt := { version := 0x0100, image := 7, lid := 5, entry := 0xFFFF, cores := 2, dies := 1, ctx := 1, scratch := 65536 },
                                          st := .running, place := [0, 25], trunks := [(2, 3)] }],
                    ports := [(2, { up := true, everUp := true, home := 2 })] } }
/-- The root, whose child has reported; a module below it that has yet to report; and one that has been released. -/
theorem witness_Barriers_tree :
    (∀ l ∈ [({ sysIn := [(15, 2)] } : Launch), { sysGo := 0x8000 }, {}], ∀ ws ∈ [[0x81000000], [0x81000001]],
      let s := treed l ws
      let ps := participants s 1 5 .sys 0
      (∃ x, s.outstanding 1 5 = some x ∧ x.sysIn = l.sysIn ∧ x.sysGo = l.sysGo ∧ x.sysSent = 0 ∧ SMap.get 0 x.trunks 2 = 2 + 1 ∧ s.sysRoom x 2 = true) ∧
        (∀ e ∈ ps, counted s e 15 2) ∧ ∃ e ∈ ps, e.2.run.left = false) ∧
    childTrunks ((treed {} [0x81000000]).sysTargets 1 5) = [2] ∧ parentTrunk ((treed {} [0x81000000]).sysTargets 1 5) = none ∧
    parentTrunk ((treed {} [0x81000001]).sysTargets 1 5) = some 2 ∧ childTrunks ((treed {} [0x81000001]).sysTargets 1 5) = [] := by
  simp only [counted]; decide +kernel
/-- A user core with a buffer object at 64. -/
def buffered (bs : List Byte) : State :=
  let s := user [(1, 64), (2, 65536), (3, 65)]
  s.onCore (fun c => { c with scratch := Memory.setBytes [] 64 bs, commits := [⟨64, 1, 1, 3, 0⟩] })
theorem witness_CircularBuffers :
    let b := fun (s : State) => bufferAt s 1
    (∀ h t a w, (h, t, a, w) ∈ [((2 : Byte), (0 : Byte), (2 : Byte), (1 : Byte)), (1, 0, 1, 1), (2, 1, 2, 1), (0, 0, 1, 0)] →
      bufferGood (buffered (buffer h t a w)) 1) ∧
    (b (buffered (buffer 2 0 2 1))).stages ≤ ((b (buffered (buffer 2 0 2 1))).acq - (b (buffered (buffer 2 0 2 1))).tail).toNat ∧
    ((b (buffered (buffer 1 0 1 1))).acq - (b (buffered (buffer 1 0 1 1))).tail).toNat < (b (buffered (buffer 1 0 1 1))).stages ∧
    (b (buffered (buffer 0 0 1 0))).head ≠ (b (buffered (buffer 0 0 1 0))).acq ∧ (b (buffered (buffer 1 0 1 1))).head = (b (buffered (buffer 1 0 1 1))).acq ∧
    (let s := buffered (buffer 2 0 2 1)
     (b s).head ≠ (b s).waited ∧ s.core.commits.find? (fun e => e.obj == 64 && e.stage == (b s).waited.toNat) = some ⟨64, 1, 1, 3, 0⟩ ∧
       0 < (s.onDieAt 0 (fun d => { d with tick := 1 })).tick ∧ (b s).tail ≠ (b s).waited) ∧
    (let s := { buffered (buffer 2 0 2 1) with cur := 0 }.onCore (fun c => { c with commits := [] })
     ∀ m, ¬s.core.commits.find? (fun e => e.obj == 64 && e.stage == (b s).waited.toNat) = some m) ∧
    (b (buffered (buffer 2 1 2 1))).tail = (b (buffered (buffer 2 1 2 1))).waited ∧
    ¬fits (buffered []) 65536 64 ∧ ¬fits (buffered []) 65 64 ∧ fits (buffered []) 64 64 ∧ (b (buffered [])).ok 65536 = false := by
  refine ⟨?_, by decide +kernel, by decide +kernel, by decide +kernel, by decide +kernel, by decide +kernel, fun m h => ?_, by decide +kernel,
    by simp only [fits]; decide, by simp only [fits]; decide, by simp only [fits]; decide, by decide +kernel⟩
  · intro h t a w m
    simp only [List.mem_cons, List.not_mem_nil, or_false, Prod.mk.injEq] at m
    rcases m with ⟨rfl, rfl, rfl, rfl⟩ | ⟨rfl, rfl, rfl, rfl⟩ | ⟨rfl, rfl, rfl, rfl⟩ | ⟨rfl, rfl, rfl, rfl⟩ <;>
      exact ⟨by simp only [fits]; decide, rfl, settled_of_none _ _ _ rfl, by simp only [quiet]; decide, by decide +kernel⟩
  · cases h

/-! ### Witnesses: the host, links between modules, time, security, launches and service -/

/-- A state whose module is as given, with one user core. -/
def with_ (m : Module) : State := { user [] with mod := m }
/-- The module after a negotiation, with mailbox arguments. -/
def ready (args : SMap Word) : Module := { ready := true, neg := true, ifver := 0x0102, args := args }
/-- An outstanding launch 9 of context 1 that asks for one core. -/
def waiting : Launch :=
  { pkt := { version := 0x0100, image := 7, lid := 9, entry := 0xFFFF, cores := 1, dies := 1, ctx := 1, scratch := 4096, lstall := 1,
             completion := 64 } }
/-- An allocation. -/
def alloc : Alloc := { handle := 3, ctx := 1, base := 4096, stride := 4096, shards := 1, dies := [0], parts := [5] }
theorem witness_MailboxCommands :
    (ready []).ready = true ∧ ({ ready [] with mbx := some {} }).mbx.isSome = true ∧ ({ ready [] with leadchg := true }).leadchg = true ∧
    (ready []).mbx = none ∧ (ready []).leadchg = false ∧ ({ ready [] with neg := false }).neg = false ∧
    (let ok := fun (a : Nat) => a < 2 ^ 32 ∧ a % 65536 ≤ a / 65536
     ok 0x01020100 ∧ 0x0100 ≤ 0x0102 ∧ ok 0x01000102 = False ∧ ok 0xFFFF0103 ∧ 0x0102 < 0x0103 ∧ ok 0x00FF0000 ∧ 0x00FF < 0x0100 ∧
       (2 ^ 32 : Nat) ≤ 0x100000000 ∧ 0x00FF < 0x0100) ∧
    (let a := (SMap.get 0 (ready [(0, 0xFFFFFFFFFFFC0), (1, 64)]).args 0).toNat; a % 64 = 0 ∧ a + 64 ≤ 2 ^ 52) ∧
    (with_ (ready [])).imageOf 7 = none ∧ 24 * 16 < 2 ^ 9 ∧ 1 ≤ 24 * 16 / 16 ∧ 24 * 16 / 16 ≤ 24 ∧
    (let s := with_ { ready [] with images := [{ id := 7 }], launches := [waiting], contexts := [(1, { opened := true })] }
     s.imageOf 7 = some { id := 7 } ∧ (∃ l ∈ s.mod.launches, l.pkt.image = 7) ∧ (SMap.get {} s.mod.contexts 1).opened = true ∧
       (∃ l ∈ s.mod.launches, l.pkt.ctx.toNat = 1) ∧ (SMap.get {} s.mod.contexts 255).opened = false ∧ s.outstanding 1 9 = some waiting ∧
       s.outstanding 1 8 = none ∧ waiting.st = .waiting ∧ waiting.ended = false ∧ waiting.silent = false) ∧
    (let s := with_ { ready [] with images := [{ id := 7 }], allocs := [alloc], contexts := [(255, { opened := true })] }
     (∀ l ∈ s.mod.launches, l.pkt.image ≠ 7) ∧ (∀ l ∈ s.mod.launches, l.pkt.ctx.toNat ≠ 255) ∧ (∀ x ∈ s.mod.allocs, x.handle.toNat ≠ 4) ∧
       s.mod.allocs.find? (fun y => y.handle.toNat == 3) = some alloc ∧ s.allocInUse alloc = false) ∧
    (with_ { ready [] with allocs := [{ alloc with parts := [0] }] }).allocInUse { alloc with parts := [0] } = true := by decide +kernel
/-- ALLOC of one segment of pages for context 1, and of more segments than any module has; CANCEL that has been accepted, before it takes effect, of a
launch that waits, of one that runs, and of none. -/
theorem witness_MailboxCommands_more :
    (let m := { ready [(0, 1), (1, 4096), (2, 1)] with contexts := [(1, { opened := true })] }
     let s := { State.reset with mod := m }
     let stride := roundUp 4096 (pageBytes 0)
     (s.allocPlaces 1 1 1 (stride / 128) (pageBytes 0) none).isSome = true ∧ s.allocPlaces 1 384 1 (stride / 128) (pageBytes 0) none = none ∧
       s.freeBase 1 (pageBytes 0) + stride * 1 ≤ 2 ^ 48 ∧
       (s.allocPlaces 1 1 1 (stride / 128) (pageBytes 0) none).all (fun ps =>
         (s.mapParts (newAlloc s 1 (s.freeBase 1 (pageBytes 0)) stride 1 ps false 0) 0 0 ps).isSome) = true) ∧
    (∀ l ∈ [waiting, { waiting with st := .running, place := [0], dieOf := [0] }], ∀ at_ ∈ [0, 1],
      let j : MbxJob := { code := 0x09, at_ := at_, seen := some (launchState l) }
      let s := with_ { ready [(0, 0x00090001)] with mbx := some j, launches := [l] }
      s.mod.mbx = some j ∧ j.result = 0 ∧ j.acted = false ∧ s.outstanding 1 9 = some l ∧ l.ended = false ∧ l.silent = false ∧ l.restoring = false ∧
        (s.dieAt 0).tick = 0) ∧
    ({ code := 0x09 } : MbxJob).seen = none ∧ (with_ (ready [])).outstanding 1 9 = none ∧ { waiting with status := some 0x12 }.ended = false := by
  refine ⟨by decide +kernel, by decide +kernel, rfl, rfl, by decide⟩
/-- The bytes of a launch packet: version, lid 9, one core, context 1, and a completion address. -/
def packet (version : Byte) (completion : Nat) : List Byte :=
  [0, version, 0, 0, 7, 0, 0, 0, 9, 0, 0xFF, 0xFF, 1, 0, 1, 1, 0, 0x10, 0, 0, 0, 0, 0, 0, 0, 0, 0, 0, 0, 0, 1, 0] ++ List.replicate 24 0 ++
    leBytes 8 completion ++ List.replicate 64 0
/-- A module in which that packet passes its checks. -/
def open_ (l : List Launch) : Module :=
  { ready [] with images := [{ id := 7 }], contexts := [(1, { opened := true })], launches := l }
theorem witness_HostInterface :
    (let m : Module := { ready [] with mbx := some { code := 1, res := [(0, 0x0102)] } }
     m.mbx = some { code := 1, res := [(0, 0x0102)] } ∧ m.imagePending = false ∧ m.mbxBusy = true ∧ m.msixMask.getLsbD 0 = false) ∧
    ({ ready [] with msixMask := 1 }).msixMask.getLsbD 0 = true ∧ (ready []).mbxBusy = false ∧ (0x1FFF8 : BitVec 20).toNat < 0x20000 ∧
    (let x : Arrived := { bytes := packet 1 64, off := 0x80 }
     let y : Arrived := { x with off := 0x100 }
     (with_ { open_ [] with inbox := [y, x] }).mod.inbox = [y, x] ∧ x.off < y.off ∧ x.parent = none) ∧
    (0x1078 : BitVec 20).toNat = 0x1040 + 8 * 7 ∧ (∀ n, n < 8 → (0x1080 : BitVec 20).toNat ≠ 0x1040 + 8 * n) ∧
    (∀ e ∈ commands, let v : Word := 0xFFFF00 + e.2.setWidth 64; v.toNat < 2 ^ 24 ∧ v.setWidth 8 = e.2) ∧ 2 ^ 24 ≤ (0x1000000 : Word).toNat ∧
    (packet 1 64).length = 128 ∧ 0xFF80 < 0x10000 ∧ 0xFF80 % 128 = 0 ∧ 0xFF81 % 128 ≠ 0 ∧ (packet 1 64).tail.length ≠ 128 ∧
    (let s := with_ (open_ [])
     s.packetStatus (packetOf (packet 1 64)) none = 0 ∧ s.mod.lqfree ≠ 0 ∧ s.packetStatus (packetOf (packet 2 64)) none ≠ 0 ∧
       (packetOf (packet 2 64)).completion % 64 = 0 ∧ s.packetStatus (packetOf (packet 1 65)) none ≠ 0 ∧
       (packetOf (packet 1 65)).completion % 64 ≠ 0) ∧ ({ ready [] with neg := false }).neg = false ∧
    (let l := List.replicate 1024 { waiting with pkt := { waiting.pkt with lid := 8 } }
     (with_ (open_ l)).packetStatus (packetOf (packet 1 64)) none = 0 ∧ (open_ l).lqfree = 0) ∧
    (let r : CacheReq := { use := .record 1 9 true true, base := 64, len := 64, data := List.replicate 64 0 }
     ({ ready [] with cacheReqs := [{ r with id := 4 }, r] }).cacheReqs.find? (fun x => x.id == r.id) = some r ∧
       r.base % 64 = 0 ∧ r.len = 64 ∧ r.done = 0 ∧ r.data.length = 64) ∧
    (let r : CacheReq := { use := .image, len := 65 }; r.use = .image ∧ 64 * r.done + 64 < r.len) := by decide +kernel
/-- A far end that knows versions from one to another. -/
def far (lo hi : BitVec 16) : FarEnd := { identity := 1, die := 0, port := 0, versionLow := lo, versionHigh := hi }
/-- A data flit whose CRC is good. -/
def flit (seq : Byte) (payload : BitVec 208) : Flit := flitSealed { type := 1, seq := seq, circuit := 0xFFF, payload := payload, crc := 0 }
/-- A field of bytes that are all the same, wherever it lies, is made of that byte. -/
theorem fieldIn_replicate (x : Byte) (n : Nat) (r : List Nat) (k : Nat) (m : n ∈ r) (l : (r.map fieldLen).sum ≤ k) :
    fieldIn n r (List.replicate k x) = leNat (List.replicate (fieldLen n) x) := by
  induction r generalizing k with
  | nil => cases m
  | cons a r ih =>
    simp only [List.map_cons, List.sum_cons] at l
    by_cases e : a = n
    · subst e; simp [fieldIn, List.take_replicate, Nat.min_eq_left (show fieldLen a ≤ k by omega)]
    · rw [fieldIn, if_neg e, List.drop_replicate]
      exact ih _ (by simpa [Ne.symm e] using m) (by omega)
/-- A header of ones gives a count of 15, wherever its fields lie; one of zeros gives 0. -/
theorem count_of_same (x : Byte) : headOf (List.replicate 26 x) = ⟨x.toNat % 16, x.toNat / 16, x.toNat, leNat [x, x], leNat [x, x, x, x]⟩ := by
  have p : headerFields.Perm (List.range 4) := List.perm_insertionSort _ _
  have f : ∀ n < 4, fieldIn n headerFields (List.replicate 26 x) = leNat (List.replicate (fieldLen n) x) := fun n h =>
    fieldIn_replicate x n _ _ (p.mem_iff.mpr (List.mem_range.mpr h)) (by rw [(p.map fieldLen).sum_eq]; decide)
  simp only [headOf, f 0 (by omega), f 1 (by omega), f 2 (by omega), f 3 (by omega)]
  simp [fieldLen, leNat]
/-- Links of an odd and an even die; versions in common and none; acknowledged flits; a flit that is awaited and others, which make an operation or do
not; an operation that has come for a core; a port to be retired, under a running launch. -/
theorem witness_LinkPorts :
    portNo 15 3 = some 71 ∧ portNo 0 4 = some 4 ∧ ({} : Port).up = false ∧ ((far 0x11 0x12).versionLow.toNat ≤ 0x11 ∧ 0x10 ≤ (far 0x11 0x12).versionHigh.toNat) ∧
    ¬((far 0x12 0x12).versionLow.toNat ≤ 0x11) ∧ ¬(0x10 ≤ (far 0x0F 0x0F).versionHigh.toNat) ∧
    (let p : Port := { up := true, replay := [(7, flit 7 0), (8, flit 8 0)], nextRecv := 256 }
     p.up = true ∧ p.replay = [(7, flit 7 0)] ++ (8, flit 8 0) :: [] ∧ (∀ x ∈ [(7, flit 7 0)], x.2.seq ≠ 8) ∧ p.credit + 1120 < 2304 ∧
       2304 ≤ { p with credit := 1184 }.credit + 1120 ∧ 128 ≤ ((255 : Byte) - BitVec.ofNat 8 p.nextRecv).toNat ∧ (∀ o ∈ (user []).mod.farIn, o.link ≠ 3) ∧ p.retired = false ∧
       flitGood { flit 0 0 with crc := ~~~(flit 0 0).crc } = false ∧ (flit 1 0).seq.toNat ≠ p.nextRecv % 256 ∧ flitGood (flit 1 0) = true ∧
       flitGood (flit 0 0) = true ∧ (flit 0 0).type = 1 ∧ (flit 0 0).seq.toNat = p.nextRecv % 256) ∧
    (flitBytes (flit 0 (~~~0))).length < 8 + 32 * (headOf (flitBytes (flit 0 (~~~0)))).count ∧
    ({ retired := true } : Port).retired = true ∧ retires (user []) 0 { failed := true } ∧ retires (user []) 0 { crcFails := [(7, 3)] } ∧
    retires (user []) 0 { naks := [(7, 3)] } ∧
    (let o : FarOp := { id := 4, ctx := 1, lid := 5, core := 0, op := .send [[]] }
     let l := { waiting with pkt := { waiting.pkt with lid := 5 }, st := .running, place := [0], trunks := [(2, 5)] }
     let s := with_ { open_ [l] with farIn := [{ o with id := 3 }, o] }
     s.mod.farIn.filter (fun x => x.id == o.id) = [o] ∧ l.ended = false ∧ s.launchCore 1 5 0 = some 0 ∧ (s.coreAt 0).deaf = false ∧
       ((s.coreAt 0).recv 0).length + 1 ≤ 16 ∧ (open_ []).launches = [] ∧ l.st = .running ∧ (∃ h, (h, 4 + 1) ∈ l.trunks) ∧
       0 ∈ s.linkdownCores l 4 ∧ (s.coreAt 0).fault = none) := by
  have long : (flitBytes (flit 0 (~~~0))).length < 8 + 32 * (headOf (flitBytes (flit 0 (~~~0)))).count := by
    rw [show flitBytes (flit 0 (~~~0)) = List.replicate 26 255 by decide +kernel, count_of_same]; decide
  refine ⟨by decide, by decide, rfl, by decide, by decide, by decide, by decide +kernel, long, rfl, ⟨rfl, .inl rfl⟩, ⟨rfl, .inr (.inl ⟨_, .head _, by decide⟩)⟩,
    ⟨rfl, .inr (.inl ⟨_, .head _, by decide⟩)⟩, ?_⟩
  refine ⟨by decide, by decide, by decide, by decide, by decide, by decide, rfl, ⟨2, by decide⟩, by decide, rfl⟩
/-- A header of zeros is the one of an operation with no entries: its flit is the whole of it. Its circuit is one of a launch that runs, or of none. -/
theorem witness_LinkPorts_whole :
    let f := flitSealed { type := 1, seq := 0, circuit := Config.circuitNumber 1 9 0 0 0 0, payload := 0, crc := 0 }
    let h := headOf (flitBytes f)
    8 + 32 * h.count ≤ (flitBytes f).length ∧ h.kind ≠ 7 ∧ h.kind ≠ 8 ∧ flitGood f = true ∧ (with_ (open_ [])).mod.launches = [] ∧
      ∃ l ∈ (with_ (open_ [waiting])).mod.launches, l.ended = false ∧ Config.circuitNumber l.pkt.ctx l.pkt.lid 0 0 h.core h.rport = f.circuit := by
  have z : flitBytes (flitSealed { type := 1, seq := 0, circuit := Config.circuitNumber 1 9 0 0 0 0, payload := 0, crc := 0 }) = List.replicate 26 0 := by
    simp only [flitBytes, flitSealed]; decide +kernel
  simp only [z, count_of_same]
  refine ⟨by decide, by decide, by decide, ?_, rfl, waiting, .head _, rfl, rfl⟩
  simp [flitGood, flitSealed, flitCovered]
/-- A message of a port. -/
def message (source : BitVec 80) (seq : BitVec 16) : PtpMsg :=
  { domain := 0, transport := .ethernet, source := source, seq := seq, timestamp := 2 ^ 64 - 1, correction := 0, twoStep := false, requester := ownPort,
    interval := 0, dataset := [] }
/-- A port that follows master 7, in each of its waits; messages of it, of another source and of another domain; and rates within the range and beyond it.
Of two data sets, the comparison that log 17 leaves open prefers one or does not. -/
theorem witness_TimingPort :
    let p : Ptp := { st := .slave, master := some 7, sync := some (3, 0, 0), delay := some (3, 0), pdelay := some (3, 0), pdelayResp := some (3, 0),
                     p2p := some false, stepDue := some 5, crossed := true, ppsOut := true, transport := some .ethernet }
    let m := message 7 3
    let fits64 := fun (x : PtpMsg) => x.timestamp / 1000000000 * 1000000000 < 2 ^ 64
    (m.domain = 0 ∧ p.master = some m.source) ∧ fits64 m ∧ ¬fits64 { m with timestamp := 2 ^ 64 + 10 ^ 9 } ∧ (message 8 3).source ≠ 7 ∧
      { m with domain := 1 }.domain ≠ 0 ∧ (-7 ≤ m.interval ∧ m.interval ≤ 1) ∧ ¬({ m with interval := 2 }.interval ≤ 1) ∧
      (({ tick := 1024 } : Die).tick % 1024 = 0 ∧ ({} : Die).cutOff = false ∧ ({ cutOff := true } : Die).cutOff = true) ∧ p.st.on = true ∧
      PtpState.on .listening = true ∧ ({} : Ptp).master = none ∧ { m with twoStep := true }.twoStep = true ∧ m.twoStep = false ∧
      p.sync = some (m.seq, 0, 0) ∧ m.seq ≠ 4 ∧ p.p2p = some false ∧ p.transport ≠ none ∧ p.master ≠ none ∧
      p.delayAt + p.delayEvery ≤ 3600000000 ∧ ({} : Ptp).p2p ≠ some false ∧ (∀ x, ({} : Ptp).pdelayAt = some x → x + 3600000000 ≤ 0) ∧
      ({} : Ptp).p2p = none ∧ ({} : Ptp).listenAt + 10800000000 ≤ 10800000000 ∧ p.delay = some (m.seq, 0) ∧ m.requester = ownPort ∧
      p.pdelay = some (m.seq, 0) ∧ p.pdelayResp = some (m.seq, 0) ∧ p.st = .slave ∧
      (let q := { p with st := .uncalibrated, lastSync := 1 }; q.st = .uncalibrated ∧ q.holdover = false ∧ 0 < q.lastSync) ∧ p.lastSync + 7200000000 ≤ 7200000000 ∧ p.stepDue = some 5 ∧
      ({ tslock := true } : Module).tslock = true ∧ ({} : Module).tslock = false ∧ p.holdover = false ∧ { p with holdover := true }.holdover = true ∧
      p.crossed = true ∧ p.ppsOut = true ∧ p.ppsAt + 3600000 ≤ 3600000 :=
  ⟨⟨rfl, rfl⟩, by decide, by decide, by decide, by decide, by decide, by decide, by decide, rfl, rfl, rfl, rfl, rfl, rfl, by decide, rfl, nofun, nofun,
    by decide, nofun, nofun, rfl, by decide, rfl, rfl, rfl, rfl, rfl, by decide, by decide, rfl, rfl, rfl, rfl, rfl, rfl, rfl, by decide⟩
/-- The body of a key message: slot 63, context 1, zeros, and 64 bytes of key. -/
def keyBody : List Byte := [0, 1, 63, 0, 0, 0, 0, 0] ++ List.replicate 64 5
/-- A state with an SPDM connection, and die 15 with some keys. -/
def secured (k : SMap KeySlot) : State :=
  let x : Spdm := { version := true, caps := true, algs := true, pending := 1, sessions := 2 }
  let s := with_ { ready [] with contexts := [(1, { opened := true, prot := true })], spdm := x, ide := true }
  { s with dies := [(15, { keys := k })] }
/-- A connection in each of its states, and bodies at the limits of each message. Whether a signature or a `FINISH` is good is left open by logs 16
and 17: either clause holds of any body. -/
theorem witness_SecurityMessages :
    let s := secured []
    let x := s.mod.spdm
    let le := fun (b : List Byte) (i n : Nat) => leNat ((b.drop i).take n)
    let taken := fun (k : SMap KeySlot) =>
      ∃ d, d < 16 ∧ (SMap.get {} ((secured k).dieAt d).keys 63).loaded = true ∧ (SMap.get {} ((secured k).dieAt d).keys 63).ctx ≠ 1
    x.version = true ∧ ({} : Spdm).version = false ∧ x.caps = true ∧ ({} : Spdm).caps = false ∧ x.algs = true ∧ ({} : Spdm).algs = false ∧
      x.sessions + x.pending < 4 ∧ 4 ≤ ({ x with pending := 2 } : Spdm).sessions + 2 ∧ x.pending ≠ 0 ∧ ({} : Spdm).pending = 0 ∧ s.mod.ide = true ∧
      x.sessions ≠ 0 ∧ (keyBody.length = 72 ∧ (keyBody.getD 2 0).toNat = 63 ∧ le keyBody 3 5 = 0 ∧ (s.context 1).opened = true ∧
        (s.context 1).prot = true) ∧ ¬taken [(63, { loaded := true, ctx := 1 })] ∧ taken [(63, { loaded := true, ctx := 2 })] ∧
      ([0, 1] : List Byte).length < 3 ∧ 63 < (([0, 1, 64] : List Byte).getD 2 0).toNat ∧
      (3 ≤ keyBody.length ∧ (SMap.get {} (s.dieAt 15).keys 63).loaded = false ∧
        (SMap.get {} ((secured [(63, { loaded := true, ctx := 1 })]).dieAt 15).keys 63).loaded = true ∧
        unsentHost { st := .riding, kind := .hostIn, ctx := 1, desc := rowsDesc 3, sb := 1 } 1) ∧
      (let b : List Byte := List.replicate 8 0 ++ [0xC0, 0x0F, 0, 0] ++ List.replicate 4032 0
       le b 8 4 = 4032 ∧ b.length = 12 + 4032) ∧ le (List.replicate 12 0) 8 4 < 1 ∧
      (List.replicate 7 (0 : Byte)).length < 8 ∧ ¬512 ≤ (Memory.bytes s.mod.staged 0 (le (List.replicate 8 0) 4 4)).length := by
  simp only [unsentHost]; decide +kernel
/-- A user core that submits a packet from its scratchpad. -/
def submits (l : List Launch) (bs : List Byte) : State :=
  let s := user [(1, 65408), (2, 65409)]
  { s.onCore (fun c => { c with scratch := Memory.setBytes [] 65408 bs }) with mod := open_ l }
theorem witness_LaunchLife_submits :
    (∀ bs ∈ [packet 1 0, packet 2 0, packet 2 64], let s := submits [] bs
      fits s 65408 128 ∧ badIn s.core.badScratch 65408 128 = false ∧ s.core.passes = [] ∧ quiet s .load 65408 128 ∧
        Memory.bytes s.core.scratch 65408 128 = bs ∧ s.mod.lqfree ≠ 0) ∧ ¬fits (submits [] []) 65409 128 ∧
    (submits [] []).packetStatus (packetOf (packet 1 0)) (some 1) = 0 ∧ (submits [] []).packetStatus (packetOf (packet 2 0)) (some 1) ≠ 0 ∧
    (packetOf (packet 2 0)).completion = 0 ∧ (packetOf (packet 2 64)).completion = 64 := by
  simp only [fits, quiet]; decide +kernel
/-- The checks of R19 that do not hold of a packet, from facts that can be computed. -/
theorem checks_pass (s : State) (p : Packet) (i : Image) (f : s.mod.images.find? (fun i => i.id == p.image) = some i)
    (e : p.version = 0x0100 ∧ p.flags = 0 ∧ p.prio.getLsbD 7 = false ∧ p.completion % 64 = 0 ∧ s.mod.launches = [])
    (w : (p.entry.toNat ≤ 16383 ∨ p.entry = 0xFFFF) ∧ 1 ≤ p.cores ∧ p.cores ≤ 384 ∧ 1 ≤ p.dies ∧ p.dies ≤ 16 ∧ p.ctx ≠ 0 ∧ p.scratch % 4096 = 0 ∧
      4096 ≤ p.scratch ∧ p.scratch ≤ 8388608 ∧ p.passes ≤ 32 ∧ p.lanes ≤ 16 ∧ p.tags ≤ 64 ∧ 1 ≤ p.lstall ∧ p.dies ≤ p.cores ∧ p.cores ≤ 24 * p.dies)
    (o : (SMap.get {} s.mod.contexts p.ctx.toNat).opened = true) :
    (∀ n, n < 4 → ¬failsCheck s p none n) ∧
      (¬failsCheck s p none 4 ↔ (p.entry = 0xFFFF ∨ p.entry.toNat < i.rows.length) ∧
        ((SMap.get {} s.mod.contexts p.ctx.toNat).signedOnly = true → i.signed = true)) ∧
      (¬failsCheck s p none 5 ↔ i.minScratch ≤ p.scratch ∧ i.minPasses ≤ p.passes ∧ i.minLanes ≤ p.lanes ∧ i.minTags ≤ p.tags ∧ i.minHeat ≤ p.heat ∧
        ∀ r ∈ i.inits, r.1 + r.2.length ≤ p.scratch) ∧ ∀ n, 6 ≤ n → ¬failsCheck s p none n := by
  obtain ⟨v, z, q, c, l⟩ := e
  obtain ⟨w1, w2, w3, w4, w5, w6, w7, w8, w9, w10, w11, w12, w13, w14, w15⟩ := w
  refine ⟨fun n h => ?_, by simp only [failsCheck, f, Option.some.injEq, forall_eq', not_not], by simp only [failsCheck, f, Option.some.injEq, forall_eq', not_not],
    fun n h => ?_⟩
  · rcases n with _ | _ | _ | _ | n
    · exact id
    · exact fun x => x v
    · simp only [failsCheck, q, c]; simp [z]
    · exact fun x => x ⟨w1, w2, w3, w4, w5, w6, w7, w8, w9, w10, w11, w12, w13, w14, w15, fun n _ => by simp [z], by simp [l], o, nofun⟩
    · omega
  · obtain ⟨m, rfl⟩ := Nat.exists_eq_add_of_le h
    rw [Nat.add_comm]; exact id
/-- A packet that passes all checks, and packets that fail each of them, and of those that follow another one too. -/
theorem witness_LaunchLife_checks :
    let s := with_ { open_ [] with images := [{ id := 7 }, { id := 8, minScratch := 8192 }] }
    let p := packetOf (packet 1 64)
    (∀ n, ¬failsCheck s p none n) ∧
    ∀ e ∈ [(1, { p with version := 0, flags := 8 }), (2, { p with flags := 8, cores := 385 }), (3, { p with cores := 385, entry := 5, image := 8 }),
        (4, { p with entry := 5, image := 8 }), (5, { p with image := 8 })],
      failsCheck s e.2 none e.1 ∧ ∀ m, m < e.1 → ¬failsCheck s e.2 none m := by
  intro s p
  have good := checks_pass s p { id := 7 } (by decide +kernel) (by decide +kernel) (by decide +kernel) (by decide +kernel)
  have four := checks_pass s { p with entry := 5, image := 8 } { id := 8, minScratch := 8192 } (by decide +kernel) (by decide +kernel) (by decide +kernel) (by decide +kernel)
  have five := checks_pass s { p with image := 8 } { id := 8, minScratch := 8192 } (by decide +kernel) (by decide +kernel) (by decide +kernel) (by decide +kernel)
  have three : ∀ m, m < 3 → ¬failsCheck s { p with cores := 385, entry := 5, image := 8 } none m := fun m h => by
    interval_cases m <;> simp only [failsCheck] <;> decide +kernel
  refine ⟨fun n => ?_, ?_⟩
  · by_cases a : n < 4
    · exact good.1 n a
    · by_cases b : 6 ≤ n
      · exact good.2.2.2 n b
      · obtain rfl | rfl : n = 4 ∨ n = 5 := by omega
        · exact good.2.1.mpr (by decide +kernel)
        · exact good.2.2.1.mpr (by decide +kernel)
  · simp only [List.mem_cons, List.not_mem_nil, or_false, forall_eq_or_imp, forall_eq]
    refine ⟨⟨?_, fun m h => ?_⟩, ⟨?_, fun m h => ?_⟩, ⟨?_, three⟩, ⟨?_, four.1⟩, ?_, fun m h => ?_⟩
    · simp only [failsCheck]; decide +kernel
    · obtain rfl : m = 0 := by omega
      exact id
    · simp only [failsCheck]; decide +kernel
    · interval_cases m <;> simp only [failsCheck] <;> decide +kernel
    · exact fun h => absurd h.2.2.1 (by decide +kernel)
    · by_contra h; exact absurd (four.2.1.mp h) (by decide +kernel)
    · by_contra h; exact absurd (five.2.2.1.mp h).1 (by decide +kernel)
    · by_cases a : m < 4
      · exact five.1 m a
      · obtain rfl : m = 4 := by omega
        exact five.2.1.mpr (by decide +kernel)
/-- A waiting launch in a module of one live die. -/
def queue (l : Launch) (images : List Image) : State :=
  { State.reset with
    mod := { ready [] with images := images, launches := [l] }
    dies := (List.range 15).map (fun d => (d + 1, { anchorFailed := true })) }
/-- A waiting launch whose image is resident. -/
def queued : State := queue waiting [{ id := 7 }]
/-- That, where each core of the die belongs to another context. -/
def busy : State := { queued with cores := (List.range 26).map (fun k => (k, { owner := 2 })) }
/-- Where only die 0 can offer anything, what it offers is the plan. -/
theorem plan_of_offer (v : View) (s : State) (f : s.fixedSegs waiting = some []) (i : s.imageOf waiting.pkt.image = some { id := 7 })
    (b : v.barsAll s + waiting.pkt.barrierCount = 0) (there : ∀ d ∈ (List.range 16).tail, v.offer s waiting [] 0 d = none) :
    v.plan s waiting = match v.offer s waiting [] 0 0 with | none => .wait | some o => .grant [(0, o)] := by
  have all : (List.range 16).filterMap (fun x => (v.offer s waiting [] 0 x).map (fun o => (x, o))) =
      ((v.offer s waiting [] 0 0).map (fun o => (0, o))).toList := by
    rw [show List.range 16 = 0 :: (List.range 16).tail from rfl, List.filterMap_cons]
    have t : (List.range 16).tail.filterMap (fun x => (v.offer s waiting [] 0 x).map (fun o => (x, o))) = [] :=
      List.filterMap_eq_nil_iff.mpr fun d hd => by rw [there d hd]; rfl
    rw [t]
    cases v.offer s waiting [] 0 0 <;> rfl
  have e : (List.range 16).filter (fun x => !(([] : List Nat).contains x)) = List.range 16 := rfl
  have p : (List.range waiting.pkt.dies).map (groupDies [] waiting.pkt.cores waiting.pkt.dies) = [[]] := by decide
  have g : v.groups s waiting [] 0 [] [16] = (v.offer s waiting [] 0 0).map (fun o => [(0, o)]) := by
    simp only [View.groups, Nat.lt_irrefl, if_false, e, all]
    cases v.offer s waiting [] 0 0 <;> rfl
  cases h : v.offer s waiting [] 0 0 <;> rw [h] at g <;> simp [View.plan, f, i, p, b, Image.trunks, g]
/-- The pools of die 0 allow one core. -/
theorem pools_of (v : View) (s : State) (h : v.heatUsed s 0 + waiting.pkt.heat * 1 = 0) (b : v.barsUsed s 0 + waiting.pkt.barrierCount ≤ 64)
    (a : (s.dieAt 0).anchorFailed = false) : v.poolsOk s waiting.pkt 0 1 = true := by
  simp only [View.poolsOk, h, b, a, Nat.zero_le]; rfl
/-- The grant of the first core and the first segment of die 0. -/
theorem placement_of_waiting : queued.placement waiting [] = .grant [(0, [0], [0])] := by
  have here : View.offer {} queued waiting [] 0 0 = some ([0], [0]) := by
    have n : groupSize waiting.pkt.cores waiting.pkt.dies 0 = 1 := rfl
    simp only [View.offer, n, pools_of {} queued (by decide) (by decide) (by decide)]
    decide +kernel
  have plan := plan_of_offer {} queued (by decide) rfl (by decide) (by decide +kernel)
  simp [State.placement, plan, here]
/-- A launch that waits for cores of another context, which could all be free. -/
theorem placement_of_busy : busy.placement waiting [] = .wait := by
  have n : groupSize waiting.pkt.cores waiting.pkt.dies 0 = 1 := rfl
  have now : View.offer {} busy waiting [] 0 0 = none := by
    simp only [View.offer, n, pools_of {} busy (by decide +kernel) (by decide +kernel) (by decide +kernel)]
    decide +kernel
  have then_ : View.offer { all := true } busy waiting [] 0 0 = some ([0], [0]) := by
    simp only [View.offer, n, pools_of { all := true } busy (by decide +kernel) (by decide +kernel) (by decide +kernel)]
    decide +kernel
  have p := plan_of_offer {} busy (by decide +kernel) rfl (by decide +kernel) (by decide +kernel)
  have q := plan_of_offer { all := true } busy (by decide +kernel) rfl (by decide +kernel) (by decide +kernel)
  simp [State.placement, p, q, now, then_]
theorem witness_LaunchLife_placement :
    (∀ s ∈ [queue waiting [], queued, busy], s.headLaunch = some waiting ∧
      ∀ q ∈ s.mod.launches, s.stoppedFor q = false ∧ s.savedFor q = false ∧ s.restoredFor q = false) ∧
    (queue waiting []).placement waiting [] = .nofit ∧ waiting.silent = false ∧ busy.placement waiting [] = .wait ∧
    (busy.preemptFor waiting).isNone = true ∧ busy.mod.head ≠ some waiting.order ∧
    queued.placement waiting [] = .grant [(0, [0], [0])] ∧ anyCold queued waiting [(0, [0], [0])] = true ∧
    anyCold { queued with cores := [(0, { image := some 7 })] } waiting [(0, [0], [0])] = false ∧
    queued.imageOf waiting.pkt.image = some { id := 7 } ∧ waiting.restoring = false ∧
    ((grantPlaces [(0, [0], [0])]).map (fun e => e.2.2.1)).Nodup ∧ (∀ e ∈ grantPlaces [(0, [0], [0])], isAnchor e.2.2.1 = false) ∧
    (let first := { waiting with order := 3 }
     let later := { waiting with order := 4, pkt := { waiting.pkt with lid := 8, prio := 0xFF } }
     let s := { queued with mod := { queued.mod with launches := [first, later], head := some 3 } }
     s.headLaunch = some first ∧ s.eligible first = true ∧ { s with mod := { s.mod with head := none } }.headLaunch = some later) :=
  ⟨by decide +kernel, by decide +kernel, rfl, placement_of_busy, by decide +kernel, by decide, placement_of_waiting, by decide +kernel, by decide +kernel,
    rfl, rfl, by decide, by decide, by decide +kernel⟩
theorem witness_LaunchLife_end :
    (let l : Launch := { waiting with st := .placed, place := [0], dieOf := [0], startAt := 0 }
     let s := with_ (open_ [l])
     s.outstanding 1 9 = some l ∧ l.ended = false ∧ (l.st = .placed ∨ l.st = .running) ∧ 0 ∈ l.dieOf ∧ ¬0 ∈ l.fired ∧ l.restoring = false ∧
       l.startAt ≤ (s.dieAt 0).ptick ∧ l.pkt.notBefore = 0 ∧ l.pkt.det = false ∧ l.place ≠ [] ∧
       SMap.get 0 s.mod.counters (counterKey 1 9 31) = 0 ∧ l.endAt ≤ (s.dieAt 0).tick ∧ l.silent = false) ∧
    (let c := (at_ 0 { userCore with run := .exiting }).coreAt (coreKey 0 0)
     c.run = .exiting ∧ c.busyAtExit = false ∧ c.hold = .none ∧ (c.trap.inh && c.ret.isSome) = false ∧ c.halt = none ∧ c.diegrp < 31) ∧
    (let s := user []
     let c := s.coreAt (coreKey 0 0)
     let d := s.coreAt (coreKey 0 25)
     c.run = .running ∧ c.halt = none ∧ (0 : CoreNo) ≠ 25 ∧ d.placed = false ∧ d.fused = false ∧ d.clean = true ∧ d.owner = 0 ∧ c.vfly = none ∧
       c.tfly = none ∧ c.passes = [] ∧ c.scratchLen ≤ 8388608 ∧ d.failed = false ∧ s.mayMove 0 .failover = true ∧ s.mayMove 0 .heat = true) ∧
    (let c := { userCore with det := true }; c.det = true ∧ (at_ 0 c).mayMove 0 .heat = false ∧ (at_ 0 c).mayMove 0 .failover = true) ∧
    (let x : Arrived := { parent := some (5, 0) }; x.parent.isSome = true) := by decide
/-- Launches of which none has writes to come; and a core whose image is resident, and one whose expansion runs. -/
theorem witness_LaunchLife_cold :
    (∀ q ∈ queued.mod.launches, q.writeAt = none ∧ (q.pkt.ctx = waiting.pkt.ctx → q.pkt.lid = waiting.pkt.lid → q.order = waiting.order)) ∧
    (queued.mod.launches.map (fun q => q.order)).Nodup ∧ userCore.hold ≠ .delivered ∧
    (let s := { with_ (open_ []) with cores := [(0, { image := some 7 }), (1, { image := some 7, expandAt := 9 })] }
     s.mod.images.find? (fun i => some i.id == (s.coreAt 0).image) = some { id := 7 } ∧ coldFor s { id := 7 } 0 = 0 ∧ coldFor s { id := 7 } 1 = 9 ∧
       coldFor s { id := 7 } 2 = 64) := by decide +kernel
theorem witness_ServiceAndResets :
    (let x : Die := {}
     x.tick % 16 = 0 ∧ (user []).detOn 0 = false ∧ { x with critical := true }.critical = true ∧ ({ tick := 65536 } : Die).tick % 65536 = 0 ∧
       ({ tick := 65536 } : Die).tick ≠ ({ tick := 65536 } : Die).beatAt ∧ x.anchorFailed = false ∧ 4 ≤ ({ missed := 4 } : Die).missed ∧
       x.cutOff = false ∧ ¬8 ∈ x.layersDown) ∧ { ready [] with leadchg := true }.leadchg = true ∧ (user []).turns = [] ∧
    ({ user [] with turns := [.far 0] } : State).turns ≠ [] ∧
    (let l : Launch := { waiting with pkt := { waiting.pkt with lid := 5 }, place := [0, 32] }
     let s := with_ (open_ [l])
     l.ended = false ∧ (∃ k ∈ l.place, keyDie k = 0) ∧ (∃ e ∈ s.cores, ofLaunch 1 (some 5) e.1 (s.coreAt e.1) = true ∧
       (s.cores.map Prod.fst).count e.1 = 1 ∧ s.coreAt e.1 = e.2) ∧ (∃ q ∈ l.place, keyDie q ≠ 0 ∧ (s.dieAt (keyDie q)).cutOff = false) ∧
       (s.coreAt 0).run.live = true ∧ (s.coreAt 0).fault = none) ∧
    State.reset.mod.boot ≠ none ∧ State.reset.mod.coldBoot = true ∧ 1 ≤ (8 : BitVec 5).toNat ∧ (8 : BitVec 5).toNat ≤ 8 :=
  ⟨by decide, rfl, rfl, by decide, by decide, nofun, rfl, by decide, by decide⟩

/-! ### Witnesses: the step and the decoder -/

/-- A core whose rows are given, with the turn. -/
def due (rows : SMap W32) : State :=
  { at_ 0 { userCore with rowStore := rows, rows := 2 } with turns := [.core 0 0] }
/-- A row that holds `ADDI s3, s0, 5`, a delay row, and a row whose `BAR.LAUNCH 1` has yet to arrive. -/
theorem witness_StepRunsTheRow :
    (let s := due [(0, 0x80000000), (1, 0b000011_00011_00000_0000000000000101)]
     rowFallsDue s 0 0 [] ∧ (dueState s 0 []).core.dueRow.decode = .ok [.addi 3 0 5]) ∧
    (let s := due []
     rowFallsDue s 0 0 [] ∧ (dueState s 0 []).core.dueRow.decode = .ok []) ∧
    (let s := due [(0, 0x08000000), (7, 0x14200001)]
     let u := (dueState s 0 []).beginRow
     rowFallsDue s 0 0 [] ∧ (dueState s 0 []).core.dueRow.decode = .ok [.barLaunch 1] ∧ [Instr.barLaunch 1].find? u.arrives = some (.barLaunch 1) ∧
       u.rowDelays [] = [] ∧ u.arrives (.addi 3 0 5) = false ∧ ∃ t, exec (.barLaunch 1) u = .next t) := by
  simp only [rowFallsDue]
  exact ⟨⟨⟨rfl, by decide +kernel, by decide, by decide⟩, rfl⟩, ⟨⟨rfl, by decide +kernel, by decide, by decide⟩, rfl⟩,
    ⟨rfl, by decide +kernel, by decide, by decide⟩, rfl, rfl, rfl, rfl, _, rfl⟩
/-- That core in the wait of its `BAR.LAUNCH 1`, at which it has arrived: the row is held. -/
theorem witness_StepRunsTheRow_held :
    let s := (due [(0, 0x08000000), (7, 0x14200001)]).onCoreAt 0 (fun c => { c with arr := 2, pos := { c.pos with barIn := some 1 } })
    let u := (dueState s 0 []).beginRow
    rowFallsDue s 0 0 [] ∧ (dueState s 0 []).core.dueRow.decode = .ok [.barLaunch 1] ∧ u.arrives (.barLaunch 1) = false ∧
      (([.barLaunch 1] : List Instr).foldl State.arm u).rowDelays [.barLaunch 1] = 5 :: [] := by
  simp only [rowFallsDue]
  exact ⟨⟨rfl, by decide +kernel, by decide, by decide⟩, rfl, rfl, by decide +kernel⟩
theorem witness_DecodeReadsBack : (Instr.addi 3 0 5).wellFormed = true ∧ encode (.addi 3 0 5) = some (.s, 0x0C600005, 0) := ⟨rfl, rfl⟩
theorem witness_ClocksStayTogether : clocksAgree State.reset ∧ ∃ t, step State.reset = .next t := by
  refine ⟨fun d => by simp [State.reset, State.dieAt, SMap.get], ?_⟩
  exact ⟨_, rfl⟩

/-! ### Decoding: for every instruction a word, field by field, from the masks of the table and the maps of R112 to R116 -/

/-- A slot word and its extension are read as an instruction. -/
def reads (k : Slot) (w ext : W32) (i : Instr) : Prop := decodeSlot k w ext = .ok i
theorem test_decode_scalar_arithmetic :
    reads .s 0b000001_10101_01010_01101_101_1_0000000 0 (.add ⟨5, 1⟩ 21 10 13) ∧
    reads .s 0b000010_10101_01010_01101_101_1_0000000 0 (.sub ⟨5, 1⟩ 21 10 13) ∧
    reads .s 0b000011_10101_01010_1001101010111100 0 (.addi 21 10 0x9abc) ∧
    reads .s 0b000100_10101_00000_1001101010111100 0 (.ldi 21 0x9abc) ∧
    reads .s 0b000101_10101_00000_1001101010111100 0 (.lui 21 0x9abc) ∧
    reads .s 0b000110_10101_00000_0000000000000000 0x89ABCDEF (.ldk 21 0x89ABCDEF) ∧
    reads .s 0b000111_10101_01010_01101_101_1_0000000 0 (.mul ⟨5, 1⟩ 21 10 13) ∧
    reads .s 0b001000_10101_01010_01101_101_1_0000000 0 (.mulh ⟨5, 1⟩ 21 10 13) ∧
    reads .s 0b001000_10101_01010_01101_101_1_0000001 0 (.mulhu ⟨5, 1⟩ 21 10 13) ∧
    reads .s 0b001001_10101_01010_01101_101_1_0000000 0 (.div ⟨5, 1⟩ 21 10 13) ∧
    reads .s 0b001001_10101_01010_01101_101_1_0000001 0 (.divu ⟨5, 1⟩ 21 10 13) ∧
    reads .s 0b001001_10101_01010_01101_101_1_0000010 0 (.rem ⟨5, 1⟩ 21 10 13) ∧
    reads .s 0b001001_10101_01010_01101_101_1_0000011 0 (.remu ⟨5, 1⟩ 21 10 13) ∧
    reads .s 0b001010_10101_01010_01101_101_1_0000000 0 (.and ⟨5, 1⟩ 21 10 13) ∧
    reads .s 0b001010_10101_01010_01101_101_1_0000001 0 (.or ⟨5, 1⟩ 21 10 13) ∧
    reads .s 0b001010_10101_01010_01101_101_1_0000010 0 (.xor ⟨5, 1⟩ 21 10 13) ∧
    reads .s 0b001010_10101_01010_01101_101_1_0000011 0 (.andn ⟨5, 1⟩ 21 10 13) ∧
    reads .s 0b001010_10101_01010_01101_101_1_0000100 0 (.orn ⟨5, 1⟩ 21 10 13) ∧
    reads .s 0b001010_10101_01010_01101_101_1_0000101 0 (.xnor ⟨5, 1⟩ 21 10 13) ∧
    reads .s 0b001011_10101_01010_1001101010111100 0 (.andi 21 10 0x9abc) ∧
    reads .s 0b001100_10101_01010_1001101010111100 0 (.ori 21 10 0x9abc) ∧
    reads .s 0b001101_10101_01010_1001101010111100 0 (.xori 21 10 0x9abc) ∧
    reads .s 0b001110_10101_01010_01101_101_1_0000000 0 (.shl ⟨5, 1⟩ 21 10 13) ∧
    reads .s 0b001110_10101_01010_01101_101_1_0000001 0 (.shr ⟨5, 1⟩ 21 10 13) ∧
    reads .s 0b001110_10101_01010_01101_101_1_0000010 0 (.sra ⟨5, 1⟩ 21 10 13) ∧
    reads .s 0b001110_10101_01010_01101_101_1_0000011 0 (.ror ⟨5, 1⟩ 21 10 13) ∧
    reads .s 0b001111_10101_01010_01101_101_1_1_000000 0 (.shli ⟨5, 1⟩ 21 10 13 1) ∧
    reads .s 0b001111_10101_01010_01101_101_1_1_000001 0 (.shri ⟨5, 1⟩ 21 10 13 1) ∧
    reads .s 0b001111_10101_01010_01101_101_1_1_000010 0 (.srai ⟨5, 1⟩ 21 10 13 1) ∧
    reads .s 0b001111_10101_01010_01101_101_1_1_000011 0 (.rori ⟨5, 1⟩ 21 10 13 1) ∧
    reads .s 0b010000_10101_01010_01101_101_1_0000000 0 (.min ⟨5, 1⟩ 21 10 13) ∧
    reads .s 0b010000_10101_01010_01101_101_1_0000001 0 (.max ⟨5, 1⟩ 21 10 13) ∧
    reads .s 0b010000_10101_01010_01101_101_1_0000010 0 (.minu ⟨5, 1⟩ 21 10 13) ∧
    reads .s 0b010000_10101_01010_01101_101_1_0000011 0 (.maxu ⟨5, 1⟩ 21 10 13) ∧
    reads .s 0b010001_10101_01010_00000_101_1_0000000 0 (.clz ⟨5, 1⟩ 21 10) ∧
    reads .s 0b010001_10101_01010_00000_101_1_0000001 0 (.ctz ⟨5, 1⟩ 21 10) ∧
    reads .s 0b010001_10101_01010_00000_101_1_0000010 0 (.popc ⟨5, 1⟩ 21 10) ∧
    reads .s 0b010001_10101_01010_00000_101_1_0000011 0 (.brev ⟨5, 1⟩ 21 10) := by
  refine ⟨?_, ?_, ?_, ?_, ?_, ?_, ?_, ?_, ?_, ?_, ?_, ?_, ?_, ?_, ?_, ?_, ?_, ?_, ?_, ?_, ?_, ?_, ?_, ?_, ?_, ?_, ?_, ?_, ?_, ?_, ?_, ?_, ?_, ?_, ?_, ?_, ?_, ?_⟩ <;> rfl
theorem test_decode_scalar_compares :
    reads .s 0b010010_10101_01010_00000_101_1_0000000 0 (.sext8 ⟨5, 1⟩ 21 10) ∧
    reads .s 0b010010_10101_01010_00000_101_1_0000001 0 (.sext16 ⟨5, 1⟩ 21 10) ∧
    reads .s 0b010010_10101_01010_00000_101_1_0000010 0 (.sext32 ⟨5, 1⟩ 21 10) ∧
    reads .s 0b010010_10101_01010_00000_101_1_0000011 0 (.zext8 ⟨5, 1⟩ 21 10) ∧
    reads .s 0b010010_10101_01010_00000_101_1_0000100 0 (.zext16 ⟨5, 1⟩ 21 10) ∧
    reads .s 0b010010_10101_01010_00000_101_1_0000101 0 (.zext32 ⟨5, 1⟩ 21 10) ∧
    reads .s 0b010011_00_101_01010_01101_101_1_0000000 0 (.cmpeq ⟨5, 1⟩ 5 10 13) ∧
    reads .s 0b010011_00_101_01010_01101_101_1_0000001 0 (.cmpne ⟨5, 1⟩ 5 10 13) ∧
    reads .s 0b010011_00_101_01010_01101_101_1_0000010 0 (.cmplt ⟨5, 1⟩ 5 10 13) ∧
    reads .s 0b010011_00_101_01010_01101_101_1_0000011 0 (.cmpltu ⟨5, 1⟩ 5 10 13) ∧
    reads .s 0b010011_00_101_01010_01101_101_1_0000100 0 (.cmple ⟨5, 1⟩ 5 10 13) ∧
    reads .s 0b010011_00_101_01010_01101_101_1_0000101 0 (.cmpleu ⟨5, 1⟩ 5 10 13) ∧
    reads .s 0b010100_00_101_01010_1001101010111100 0 (.cmpieq 5 10 0x9abc) ∧
    reads .s 0b010101_00_101_01010_1001101010111100 0 (.cmpilt 5 10 0x9abc) ∧
    reads .s 0b010110_00_101_01010_1001101010111100 0 (.cmpiltu 5 10 0x9abc) ∧
    reads .s 0b010111_10101_01010_01101_101_1_0000_011 0 (.sel ⟨5, 1⟩ 21 10 13 3) ∧
    reads .s 0b011000_00_101_00_010_00_101_101_1_0000000 0 (.pand ⟨5, 1⟩ 5 2 5) ∧
    reads .s 0b011000_00_101_00_010_00_101_101_1_0000001 0 (.por ⟨5, 1⟩ 5 2 5) ∧
    reads .s 0b011000_00_101_00_010_00_101_101_1_0000010 0 (.pxor ⟨5, 1⟩ 5 2 5) ∧
    reads .s 0b011000_00_101_00_010_00_101_101_1_0000011 0 (.pandn ⟨5, 1⟩ 5 2 5) ∧
    reads .s 0b011000_00_101_00_010_00000_101_1_0000100 0 (.pnot ⟨5, 1⟩ 5 2) ∧
    reads .s 0b011001_10101_0000000000_101_1_0000000 0 (.pget ⟨5, 1⟩ 21) ∧
    reads .s 0b011001_00000_01010_00000_101_1_0000001 0 (.pset ⟨5, 1⟩ 10) ∧
    reads .s 0b011010_10101_01010_1001101010111100 0 (.ldb 21 10 0x9abc) ∧
    reads .s 0b011011_10101_01010_1001101010111100 0 (.ldbu 21 10 0x9abc) ∧
    reads .s 0b011100_10101_01010_1001101010111100 0 (.ldh 21 10 0x9abc) ∧
    reads .s 0b011101_10101_01010_1001101010111100 0 (.ldhu 21 10 0x9abc) ∧
    reads .s 0b011110_10101_01010_1001101010111100 0 (.ldw 21 10 0x9abc) := by
  refine ⟨?_, ?_, ?_, ?_, ?_, ?_, ?_, ?_, ?_, ?_, ?_, ?_, ?_, ?_, ?_, ?_, ?_, ?_, ?_, ?_, ?_, ?_, ?_, ?_, ?_, ?_, ?_, ?_⟩ <;> rfl
theorem test_decode_scalar_memory :
    reads .s 0b011111_10101_01010_1001101010111100 0 (.ldwu 21 10 0x9abc) ∧
    reads .s 0b100000_10101_01010_1001101010111100 0 (.ldd 21 10 0x9abc) ∧
    reads .s 0b100001_10101_01010_1001101010111100 0 (.stb 21 10 0x9abc) ∧
    reads .s 0b100010_10101_01010_1001101010111100 0 (.sth 21 10 0x9abc) ∧
    reads .s 0b100011_10101_01010_1001101010111100 0 (.stw 21 10 0x9abc) ∧
    reads .s 0b100100_10101_01010_1001101010111100 0 (.std 21 10 0x9abc) ∧
    reads .s 0b100101_10101_01010_01101_101_1_0_10_0_001 0 (.ldx ⟨5, 1⟩ 21 10 13 2 1) ∧
    reads .s 0b100110_10101_01010_01101_101_1_0_10_00_01 0 (.stx ⟨5, 1⟩ 21 10 13 2 1) ∧
    reads .s 0b100111_10101_01010_01101_101_1_0000000 0 (.aadd ⟨5, 1⟩ 21 10 13) ∧
    reads .s 0b100111_10101_01010_01101_101_1_0000001 0 (.aaddw ⟨5, 1⟩ 21 10 13) ∧
    reads .s 0b100111_10101_01010_01101_101_1_0000010 0 (.amin ⟨5, 1⟩ 21 10 13) ∧
    reads .s 0b100111_10101_01010_01101_101_1_0000011 0 (.amax ⟨5, 1⟩ 21 10 13) ∧
    reads .s 0b100111_10101_01010_01101_101_1_0000100 0 (.aswap ⟨5, 1⟩ 21 10 13) ∧
    reads .s 0b100111_10101_01010_01101_101_1_0000101 0 (.aand ⟨5, 1⟩ 21 10 13) ∧
    reads .s 0b100111_10101_01010_01101_101_1_0000110 0 (.aor ⟨5, 1⟩ 21 10 13) ∧
    reads .s 0b100111_10101_01010_01101_101_1_0000111 0 (.afadd ⟨5, 1⟩ 21 10 13) ∧
    reads .s 0b100111_10101_01010_01101_101_1_0001000 0 (.acas ⟨5, 1⟩ 21 10 13) := by
  refine ⟨?_, ?_, ?_, ?_, ?_, ?_, ?_, ?_, ?_, ?_, ?_, ?_, ?_, ?_, ?_, ?_, ?_⟩ <;> rfl
theorem test_decode_scalar_control :
    reads .s 0b101000_110_1_1010101010101010110101 0 (.br 6 1 0x2aaab5) ∧
    reads .s 0b101001_0000_1010101010101010110101 0 (.jmp 0x2aaab5) ∧
    reads .s 0b101010_0000_1010101010101010110101 0 (.call 0x2aaab5) ∧
    reads .s 0b101011_00000_01010_00000_101_1_0000000 0 (.jmpr ⟨5, 1⟩ 10) ∧
    reads .s 0b101100_10101_00000_1001101010111100 0 (.loop 21 0x9abc) ∧
    reads .s 0b101101_00000000000000000000000000 0 (.exit) ∧
    reads .s 0b101110_000000000000000_101_1_0000000 0 (.tdfence ⟨5, 1⟩) ∧
    reads .s 0b101110_000000000000000_101_1_0000001 0 (.mapfence ⟨5, 1⟩) ∧
    reads .s 0b101110_000000000000000_101_1_0000010 0 (.spfence ⟨5, 1⟩) ∧
    reads .s 0b101110_000000000000000_101_1_0000011 0 (.syncmark ⟨5, 1⟩) ∧
    reads .s 0b101111_00000_01010_01101_101_1_0_001100 0 (.tdw ⟨5, 1⟩ 10 13 12) ∧
    reads .s 0b110000_10101_01010_00000_101_1_0_001101 0 (.tdr ⟨5, 1⟩ 21 10 13) ∧
    reads .s 0b110001_10101_0000000000_00010000100 0 (.crd 21 132) ∧
    reads .s 0b110010_00000_01010_00000_00001010001 0 (.cwr 10 81) ∧
    reads .s 0b110011_10101_0000000000_101_1_0000000 0 (.rngs ⟨5, 1⟩ 21) ∧
    reads .s 0b110100_10101_01010_1001101010111100 0 (.trap 21 10 0x9abc) ∧
    reads .s 0b110101_00000_01010_01101_101_1_0000000 0 (.eret ⟨5, 1⟩ 10 13) ∧
    reads .s 0b110110_10101_01010_01101_101_1_0000000 0 (.mapw ⟨5, 1⟩ 21 10 13) ∧
    reads .s 0b110111_10101_01010_01101_101_1_0000000 0 (.haltctx ⟨5, 1⟩ 21 10 13) ∧
    reads .s 0b111000_10101_01010_01101_101_1_0000000 0 (.ctxsv ⟨5, 1⟩ 21 10 13) ∧
    reads .s 0b111001_10101_01010_01101_101_1_0000000 0 (.ctxrs ⟨5, 1⟩ 21 10 13) ∧
    reads .s 0b111010_10101_01010_00000_101_1_0000000 0 (.keyz ⟨5, 1⟩ 21 10) ∧
    reads .s 0b111011_10101_01010_01101_101_1_0000000 0 (.scrub ⟨5, 1⟩ 21 10 13) ∧
    reads .s 0b111100_10101_01010_01101_101_1_0000000 0 (.assign ⟨5, 1⟩ 21 10 13) := by
  refine ⟨?_, ?_, ?_, ?_, ?_, ?_, ?_, ?_, ?_, ?_, ?_, ?_, ?_, ?_, ?_, ?_, ?_, ?_, ?_, ?_, ?_, ?_, ?_, ?_⟩ <;> rfl
theorem test_decode_vector_integer :
    reads .v 0b000001_10101_01010_01101_10_101_000000 0 (.vadd 21 10 13 ⟨2, 5⟩) ∧
    reads .v 0b000001_10101_01010_01101_10_101_000001 0 (.vadds 21 10 13 ⟨2, 5⟩) ∧
    reads .v 0b000001_10101_01010_01101_10_101_000010 0 (.vaddsu 21 10 13 ⟨2, 5⟩) ∧
    reads .v 0b000010_10101_01010_01101_10_101_000000 0 (.vsub 21 10 13 ⟨2, 5⟩) ∧
    reads .v 0b000010_10101_01010_01101_10_101_000001 0 (.vsubs 21 10 13 ⟨2, 5⟩) ∧
    reads .v 0b000010_10101_01010_01101_10_101_000010 0 (.vsubsu 21 10 13 ⟨2, 5⟩) ∧
    reads .v 0b000011_10101_01010_01101_10_101_000000 0 (.vmul 21 10 13 ⟨2, 5⟩) ∧
    reads .v 0b000011_10101_01010_01101_10_101_000001 0 (.vmulh 21 10 13 ⟨2, 5⟩) ∧
    reads .v 0b000011_10101_01010_01101_10_101_000010 0 (.vmulhu 21 10 13 ⟨2, 5⟩) ∧
    reads .v 0b000100_10101_01010_01101_10_101_000000 0 (.vand 21 10 13 ⟨2, 5⟩) ∧
    reads .v 0b000100_10101_01010_01101_10_101_000001 0 (.vor 21 10 13 ⟨2, 5⟩) ∧
    reads .v 0b000100_10101_01010_01101_10_101_000010 0 (.vxor 21 10 13 ⟨2, 5⟩) ∧
    reads .v 0b000100_10101_01010_01101_10_101_000011 0 (.vandn 21 10 13 ⟨2, 5⟩) ∧
    reads .v 0b000101_10101_01010_01101_10_101_000000 0 (.vshl 21 10 13 ⟨2, 5⟩) ∧
    reads .v 0b000101_10101_01010_01101_10_101_000001 0 (.vshr 21 10 13 ⟨2, 5⟩) ∧
    reads .v 0b000101_10101_01010_01101_10_101_000010 0 (.vsra 21 10 13 ⟨2, 5⟩) ∧
    reads .v 0b000110_10101_01010_01101_10_101_000000 0 (.vshli 21 10 13 ⟨2, 5⟩) ∧
    reads .v 0b000110_10101_01010_01101_10_101_000001 0 (.vshri 21 10 13 ⟨2, 5⟩) ∧
    reads .v 0b000110_10101_01010_01101_10_101_000010 0 (.vsrai 21 10 13 ⟨2, 5⟩) ∧
    reads .v 0b000111_10101_01010_01101_10_101_000000 0 (.vmin 21 10 13 ⟨2, 5⟩) ∧
    reads .v 0b000111_10101_01010_01101_10_101_000001 0 (.vmax 21 10 13 ⟨2, 5⟩) ∧
    reads .v 0b000111_10101_01010_01101_10_101_000010 0 (.vminu 21 10 13 ⟨2, 5⟩) ∧
    reads .v 0b000111_10101_01010_01101_10_101_000011 0 (.vmaxu 21 10 13 ⟨2, 5⟩) ∧
    reads .v 0b001000_00_101_01010_01101_10_101_000000 0 (.vcmpeq 5 10 13 ⟨2, 5⟩) ∧
    reads .v 0b001000_00_101_01010_01101_10_101_000001 0 (.vcmpne 5 10 13 ⟨2, 5⟩) ∧
    reads .v 0b001000_00_101_01010_01101_10_101_000010 0 (.vcmplt 5 10 13 ⟨2, 5⟩) ∧
    reads .v 0b001000_00_101_01010_01101_10_101_000011 0 (.vcmpltu 5 10 13 ⟨2, 5⟩) ∧
    reads .v 0b001000_00_101_01010_01101_10_101_000100 0 (.vcmple 5 10 13 ⟨2, 5⟩) ∧
    reads .v 0b001000_00_101_01010_01101_10_101_000101 0 (.vcmpleu 5 10 13 ⟨2, 5⟩) ∧
    reads .v 0b001001_10101_01010_01101_10_101_000000 0 (.vfadd 21 10 13 ⟨2, 5⟩) := by
  refine ⟨?_, ?_, ?_, ?_, ?_, ?_, ?_, ?_, ?_, ?_, ?_, ?_, ?_, ?_, ?_, ?_, ?_, ?_, ?_, ?_, ?_, ?_, ?_, ?_, ?_, ?_, ?_, ?_, ?_, ?_⟩ <;> rfl
theorem test_decode_vector_float :
    reads .v 0b001010_10101_01010_01101_10_101_000000 0 (.vfsub 21 10 13 ⟨2, 5⟩) ∧
    reads .v 0b001011_10101_01010_01101_10_101_000000 0 (.vfmul 21 10 13 ⟨2, 5⟩) ∧
    reads .v 0b001100_10101_01010_01101_10_101_000000 0 (.vfma 21 10 13 ⟨2, 5⟩) ∧
    reads .v 0b001101_10101_01010_01101_10_101_000000 0 (.vfnma 21 10 13 ⟨2, 5⟩) ∧
    reads .v 0b001110_10101_01010_01101_10_101_000000 0 (.vfmin 21 10 13 ⟨2, 5⟩) ∧
    reads .v 0b001110_10101_01010_01101_10_101_000001 0 (.vfmax 21 10 13 ⟨2, 5⟩) ∧
    reads .v 0b001111_00_101_01010_01101_10_101_000000 0 (.vfcmpeq 5 10 13 ⟨2, 5⟩) ∧
    reads .v 0b001111_00_101_01010_01101_10_101_000001 0 (.vfcmplt 5 10 13 ⟨2, 5⟩) ∧
    reads .v 0b001111_00_101_01010_01101_10_101_000010 0 (.vfcmple 5 10 13 ⟨2, 5⟩) ∧
    reads .v 0b001111_00_101_01010_01101_10_101_000011 0 (.vfcmpun 5 10 13 ⟨2, 5⟩) ∧
    reads .v 0b010000_10101_01010_00000_10_101_000000 0 (.vfabs 21 10 ⟨2, 5⟩) ∧
    reads .v 0b010000_10101_01010_00000_10_101_000001 0 (.vfneg 21 10 ⟨2, 5⟩) ∧
    reads .v 0b010000_10101_01010_00000_10_101_000010 0 (.vfsqrt 21 10 ⟨2, 5⟩) ∧
    reads .v 0b010000_10101_01010_00000_10_101_000011 0 (.vrcp 21 10 ⟨2, 5⟩) ∧
    reads .v 0b010000_10101_01010_00000_10_101_000100 0 (.vrsq 21 10 ⟨2, 5⟩) ∧
    reads .v 0b010000_10101_01010_00000_10_101_000101 0 (.vexp2 21 10 ⟨2, 5⟩) ∧
    reads .v 0b010000_10101_01010_00000_10_101_000110 0 (.vlog2 21 10 ⟨2, 5⟩) ∧
    reads .v 0b010000_10101_01010_00000_10_101_000111 0 (.vfloor 21 10 ⟨2, 5⟩) ∧
    reads .v 0b010000_10101_01010_00000_10_101_001000 0 (.vfceil 21 10 ⟨2, 5⟩) ∧
    reads .v 0b010000_10101_01010_00000_10_101_001001 0 (.vfrint 21 10 ⟨2, 5⟩) ∧
    reads .v 0b010001_10101_01010_00000_10_101_000000 0 (.vcvtfi 21 10 ⟨2, 5⟩) ∧
    reads .v 0b010001_10101_01010_00000_10_101_000001 0 (.vcvtfit 21 10 ⟨2, 5⟩) ∧
    reads .v 0b010001_10101_01010_00000_10_101_000010 0 (.vcvtif 21 10 ⟨2, 5⟩) ∧
    reads .v 0b010001_10101_01010_01101_10_101_000011 0 (.vcvtfb 21 10 13 ⟨2, 5⟩) ∧
    reads .v 0b010001_10101_01010_00000_10_101_000100 0 (.vcvtbfl 21 10 ⟨2, 5⟩) ∧
    reads .v 0b010001_10101_01010_00000_10_101_000101 0 (.vcvtbfh 21 10 ⟨2, 5⟩) ∧
    reads .v 0b010010_10101_01010_01101_10_101_000000 0 (.vdot2 21 10 13 ⟨2, 5⟩) ∧
    reads .v 0b010011_10101_01010_01101_10_101_000000 0 (.vdot4 21 10 13 ⟨2, 5⟩) ∧
    reads .v 0b010011_10101_01010_01101_10_101_000001 0 (.vdot4us 21 10 13 ⟨2, 5⟩) ∧
    reads .v 0b010100_00_101_01010_01101_10_101_000000 0 (.vqma 5 10 13 ⟨2, 5⟩) := by
  refine ⟨?_, ?_, ?_, ?_, ?_, ?_, ?_, ?_, ?_, ?_, ?_, ?_, ?_, ?_, ?_, ?_, ?_, ?_, ?_, ?_, ?_, ?_, ?_, ?_, ?_, ?_, ?_, ?_, ?_, ?_⟩ <;> rfl
theorem test_decode_vector_accumulators :
    reads .v 0b010100_00_101_01010_01101_10_101_000001 0 (.vqmai 5 10 13 ⟨2, 5⟩) ∧
    reads .v 0b010101_10101_00_010_00000_10_101_000000 0 (.vqnarf 21 2 ⟨2, 5⟩) ∧
    reads .v 0b010101_10101_00_010_00000_10_101_000001 0 (.vqnars 21 2 ⟨2, 5⟩) ∧
    reads .v 0b010101_10101_00_010_00000_10_101_000010 0 (.vqnarw 21 2 ⟨2, 5⟩) ∧
    reads .v 0b010110_00_101_0000000000_10_101_000000 0 (.vqclr 5 ⟨2, 5⟩) ∧
    reads .v 0b010110_00_101_01010_00000_10_101_000001 0 (.vqwf 5 10 ⟨2, 5⟩) ∧
    reads .v 0b010110_00_101_01010_00000_10_101_000010 0 (.vqwi 5 10 ⟨2, 5⟩) ∧
    reads .v 0b010111_10101_01010_00000_10_000000000 0 (.vredadd 21 10 2) ∧
    reads .v 0b010111_10101_01010_00000_10_000000001 0 (.vredfadd 21 10 2) ∧
    reads .v 0b010111_10101_01010_00000_10_000000010 0 (.vredmin 21 10 2) ∧
    reads .v 0b010111_10101_01010_00000_10_000000011 0 (.vredmax 21 10 2) ∧
    reads .v 0b010111_10101_01010_00000_10_000000100 0 (.vredfmin 21 10 2) ∧
    reads .v 0b010111_10101_01010_00000_10_000000101 0 (.vredfmax 21 10 2) ∧
    reads .v 0b011000_10101_01010_00000_10_101_000000 0 (.vbcst 21 10 ⟨2, 5⟩) ∧
    reads .v 0b011001_10101_01010_0000000000_101011 0 (.vextr 21 10 43) ∧
    reads .v 0b011010_10101_01010_0000000000_101011 0 (.vins 21 10 43) ∧
    reads .v 0b011011_10101_0000000000_10_101_000000 0 (.viota 21 ⟨2, 5⟩) ∧
    reads .v 0b011100_10101_01010_01101_10_101_000000 0 (.vperm 21 10 13 ⟨2, 5⟩) ∧
    reads .v 0b011101_10101_01010_01101_10_101_000000 0 (.vslup 21 10 13 ⟨2, 5⟩) ∧
    reads .v 0b011101_10101_01010_01101_10_101_000001 0 (.vsldn 21 10 13 ⟨2, 5⟩) ∧
    reads .v 0b011110_10101_01010_00000_10_011_000000 0 (.vcmpr 21 10 2 3) ∧
    reads .v 0b011111_00_101_00_010_00_101_10_000000000 0 (.mand 5 2 5 2) ∧
    reads .v 0b011111_00_101_00_010_00_101_10_000000001 0 (.mor 5 2 5 2) ∧
    reads .v 0b011111_00_101_00_010_00_101_10_000000010 0 (.mxor 5 2 5 2) ∧
    reads .v 0b011111_00_101_00_010_00000_10_000000011 0 (.mnot 5 2 2) ∧
    reads .v 0b011111_10101_00_010_00000_10_000000100 0 (.mpop 21 2 2) ∧
    reads .v 0b011111_10101_00_010_00000_10_000000101 0 (.mfirst 21 2 2) ∧
    reads .v 0b011111_00_101_01010_00000_10_000000110 0 (.mset 5 10 2) ∧
    reads .v 0b011111_10101_00_010_00000_10_000000111 0 (.mget 21 2 2) ∧
    reads .v 0b100000_10101_01010_01101_10_011_000000 0 (.vsel 21 10 13 2 3) := by
  refine ⟨?_, ?_, ?_, ?_, ?_, ?_, ?_, ?_, ?_, ?_, ?_, ?_, ?_, ?_, ?_, ?_, ?_, ?_, ?_, ?_, ?_, ?_, ?_, ?_, ?_, ?_, ?_, ?_, ?_, ?_⟩ <;> rfl
theorem test_decode_vector_moves :
    reads .v 0b100001_10101_01010_01101_10_101_000000 0 (.vldW 21 10 13 ⟨2, 5⟩) ∧
    reads .v 0b100001_10101_01010_01101_10_101_000001 0 (.vldH 21 10 13 ⟨2, 5⟩) ∧
    reads .v 0b100001_10101_01010_01101_10_101_000010 0 (.vldHu 21 10 13 ⟨2, 5⟩) ∧
    reads .v 0b100001_10101_01010_01101_10_101_000011 0 (.vldB 21 10 13 ⟨2, 5⟩) ∧
    reads .v 0b100001_10101_01010_01101_10_101_000100 0 (.vldBu 21 10 13 ⟨2, 5⟩) ∧
    reads .v 0b100010_10101_01010_01101_10_101_000000 0 (.vstW 21 10 13 ⟨2, 5⟩) ∧
    reads .v 0b100010_10101_01010_01101_10_101_000001 0 (.vstH 21 10 13 ⟨2, 5⟩) ∧
    reads .v 0b100010_10101_01010_01101_10_101_000010 0 (.vstB 21 10 13 ⟨2, 5⟩) ∧
    reads .v 0b100011_10101_01010_01101_10_101_000000 0 (.vgath 21 10 13 ⟨2, 5⟩) ∧
    reads .v 0b100100_10101_01010_01101_10_101_000000 0 (.vscat 21 10 13 ⟨2, 5⟩) ∧
    reads .v 0b100101_10101_01010_00000_10_000000000 0 (.vsortS 21 10 2) ∧
    reads .v 0b100101_10101_01010_00000_10_000000001 0 (.vsortF 21 10 2) ∧
    reads .v 0b100101_10101_01010_00000_10_000000010 0 (.vsortU 21 10 2) ∧
    reads .v 0b100110_00_101_01010_00000_10_000000000 0 (.vruns 5 10 2) ∧
    reads .v 0b100111_10101_01010_00000_10_011_000000 0 (.vsegadd 21 10 2 3) ∧
    reads .v 0b100111_10101_01010_00000_10_011_000001 0 (.vsegfadd 21 10 2 3) ∧
    reads .v 0b101000_10101_0000000000_10_101_000000 0 (.vrng 21 ⟨2, 5⟩) ∧
    reads .v 0b101001_10101_01010_00000_10_000000_001 0 (.vbfpq 21 10 2 1) ∧
    reads .v 0b101010_10101_01010_00000_10_000000000 0 (.vbfpx 21 10 2) ∧
    reads .v 0b101011_10101_01010_00000_10_000000000 0 (.vt5pk 21 10 2) ∧
    reads .v 0b101100_10101_01010_00000_10_000000000 0 (.vt5up 21 10 2) := by
  refine ⟨?_, ?_, ?_, ?_, ?_, ?_, ?_, ?_, ?_, ?_, ?_, ?_, ?_, ?_, ?_, ?_, ?_, ?_, ?_, ?_, ?_⟩ <;> rfl
theorem test_decode_tile_all :
    reads .t 0b000001_00_101_01010_01101_00000000000 0 (.tld 5 10 13) ∧
    reads .t 0b000010_00_101_01010_01101_00000000000 0 (.tst 5 10 13) ∧
    reads .t 0b000011_00_101_01010_01101_00000000000 0 (.twin 5 10 13) ∧
    reads .t 0b000100_00_101_000000000000000000000 0 (.tzero 5) ∧
    reads .t 0b000101_10101_00_010_00_101_00000000000 0 (.tmmaBf16 21 2 5) ∧
    reads .t 0b000101_10101_00_010_00_101_00000000001 0 (.tmmaBfp 21 2 5) ∧
    reads .t 0b000101_10101_00_010_00_101_00000000010 0 (.tmmaI8 21 2 5) ∧
    reads .t 0b000101_10101_00_010_00_101_00000000100 0 (.tmmaBf16W 21 2 5) ∧
    reads .t 0b000101_10101_00_010_00_101_00000000101 0 (.tmmaBfpW 21 2 5) ∧
    reads .t 0b000101_10101_00_010_00_101_00000000110 0 (.tmmaI8W 21 2 5) ∧
    reads .t 0b000110_00_101_00_010_0000000000000000 0 (.ttrn 5 2) ∧
    reads .t 0b000111_10101_00_010_01101_00000000000 0 (.trowv 21 2 13) ∧
    reads .t 0b000111_00_101_01010_01101_00000000001 0 (.tvrow 5 10 13) ∧
    reads .t 0b001000_00000000000000000000000000 0 (.xclr) ∧
    reads .t 0b001001_00000000000000000000000000 0 (.xswap) ∧
    reads .t 0b001010_00000_01010_0000000000000000 0 (.xsave 10) ∧
    reads .t 0b001011_00000_01010_0000000000000000 0 (.xload 10) := by
  refine ⟨?_, ?_, ?_, ?_, ?_, ?_, ?_, ?_, ?_, ?_, ?_, ?_, ?_, ?_, ?_, ?_, ?_⟩ <;> rfl
theorem test_decode_pass_long :
    reads .w 0b000001_10101_01010_01101_100001_00000 0b11001000_00000_00000_00000000000000 (.pcopy ⟨21, 10, 13, 33, 200, 0, 0, 0⟩) ∧
    reads .w 0b000010_10101_00000_01101_100001_00000 0b11001000_10011_00000_00000000000000 (.pgath ⟨21, 0, 13, 33, 200, 19, 0, 0⟩) ∧
    reads .w 0b000011_10101_01010_01101_100001_00000 0b11001000_10011_00000_10100000000000 (.pscanSumi ⟨21, 10, 13, 33, 200, 19, 0, 10240⟩) ∧
    reads .w 0b000011_10101_01010_01101_100001_00001 0b11001000_10011_00000_10100000000000 (.pscanSumf ⟨21, 10, 13, 33, 200, 19, 0, 10240⟩) ∧
    reads .w 0b000011_10101_01010_01101_100001_00010 0b11001000_10011_00000_10100000000000 (.pscanMin ⟨21, 10, 13, 33, 200, 19, 0, 10240⟩) ∧
    reads .w 0b000011_10101_01010_01101_100001_00011 0b11001000_10011_00000_10100000000000 (.pscanMax ⟨21, 10, 13, 33, 200, 19, 0, 10240⟩) ∧
    reads .w 0b000011_10101_01010_01101_100001_00100 0b11001000_10011_00000_10100000000000 (.pscanCount ⟨21, 10, 13, 33, 200, 19, 0, 10240⟩) ∧
    reads .w 0b000100_10101_01010_01101_100001_00000 0b11001000_10011_11100_11000000000000 (.pfilt ⟨21, 10, 13, 33, 200, 19, 28, 12288⟩) ∧
    reads .w 0b000101_10101_01010_01101_100001_00000 0b11001000_00000_00000_00000000000000 (.pput ⟨21, 10, 13, 33, 200, 0, 0, 0⟩) ∧
    reads .w 0b000110_10101_01010_01101_100001_00000 0b11001000_00000_11100_10000000000000 (.pupdAddi32 ⟨21, 10, 13, 33, 200, 0, 28, 8192⟩) ∧
    reads .w 0b000110_10101_01010_01101_100001_00001 0b11001000_00000_11100_10000000000000 (.pupdAddf32 ⟨21, 10, 13, 33, 200, 0, 28, 8192⟩) ∧
    reads .w 0b000110_10101_01010_01101_100001_00010 0b11001000_00000_11100_10000000000000 (.pupdMini32 ⟨21, 10, 13, 33, 200, 0, 28, 8192⟩) ∧
    reads .w 0b000110_10101_01010_01101_100001_00011 0b11001000_00000_11100_10000000000000 (.pupdMaxi32 ⟨21, 10, 13, 33, 200, 0, 28, 8192⟩) ∧
    reads .w 0b000110_10101_01010_01101_100001_00100 0b11001000_00000_11100_10000000000000 (.pupdAnd ⟨21, 10, 13, 33, 200, 0, 28, 8192⟩) ∧
    reads .w 0b000110_10101_01010_01101_100001_00101 0b11001000_00000_11100_10000000000000 (.pupdOr ⟨21, 10, 13, 33, 200, 0, 28, 8192⟩) ∧
    reads .w 0b000110_10101_01010_01101_100001_00110 0b11001000_00000_11100_10000000000000 (.pupdXor ⟨21, 10, 13, 33, 200, 0, 28, 8192⟩) ∧
    reads .w 0b000110_10101_01010_01101_100001_00111 0b11001000_00000_11100_10000000000000 (.pupdSwap ⟨21, 10, 13, 33, 200, 0, 28, 8192⟩) ∧
    reads .w 0b000111_10101_00000_01101_100001_00000 0b11001000_10011_00000_01000000000000 (.pupdoAddf32 ⟨21, 0, 13, 33, 200, 19, 0, 4096⟩) ∧
    reads .w 0b000111_10101_00000_01101_100001_00001 0b11001000_10011_00000_01000000000000 (.pupdoAddi32 ⟨21, 0, 13, 33, 200, 19, 0, 4096⟩) ∧
    reads .w 0b001000_00000_01010_01101_100001_00000 0b11001000_00000_00000_00000000000000 (.pcmt ⟨0, 10, 13, 33, 200, 0, 0, 0⟩) ∧
    reads .w 0b001001_10101_01010_01101_100001_00000 0b11001000_00000_11100_00000000000000 (.padam ⟨21, 10, 13, 33, 200, 0, 28, 0⟩) ∧
    reads .w 0b001010_00000_01010_01101_100001_00000 0b11001000_00000_00000_00000000000000 (.pzero ⟨0, 10, 13, 33, 200, 0, 0, 0⟩) ∧
    reads .w 0b001010_00000_01010_01101_100001_00001 0b00000000_10011_00000_00000000000000 (.pzeroPhys ⟨0, 10, 13, 33, 0, 19, 0, 0⟩) ∧
    reads .w 0b001011_00000_01010_01101_100001_00000 0b11001000_10011_00000_00000000000000 (.phostIn ⟨0, 10, 13, 33, 200, 19, 0, 0⟩) ∧
    reads .w 0b001011_00000_01010_01101_100001_00001 0b11001000_10011_00000_00000000000000 (.phostOut ⟨0, 10, 13, 33, 200, 19, 0, 0⟩) ∧
    reads .w 0b001100_10101_01010_01101_100001_00000 0b11001000_10011_11100_10110000000000 (.pmatWrite ⟨21, 10, 13, 33, 200, 19, 28, 11264⟩) ∧
    reads .w 0b001100_10101_01010_01101_100001_00001 0b11001000_10011_11100_10110000000000 (.pmatAccum ⟨21, 10, 13, 33, 200, 19, 28, 11264⟩) := by
  refine ⟨?_, ?_, ?_, ?_, ?_, ?_, ?_, ?_, ?_, ?_, ?_, ?_, ?_, ?_, ?_, ?_, ?_, ?_, ?_, ?_, ?_, ?_, ?_, ?_, ?_, ?_, ?_⟩ <;> rfl
theorem test_decode_pass_short :
    reads .w 0b001101_00000_01010_0000000000000000 0 (.preop 10) ∧
    reads .w 0b001110_00000_01010_0000000000000000 0 (.pcanc 10) ∧
    reads .w 0b001111_00000000000000000000000000 0 (.pfence) ∧
    reads .w 0b010000_00000_01010_0000000000000000 0 (.twany 10) ∧
    reads .w 0b010001_00000_01010_0000000000000000 0 (.twall 10) ∧
    reads .w 0b010010_10101_01010_0000000000000000 0 (.tfirst 21 10) ∧
    reads .w 0b010011_00000_01010_0000000000000000 0 (.tclr 10) ∧
    reads .w 0b010100_00000_01010_0000000000000000 0 (.cwait 10) ∧
    reads .w 0b010101_00000000000000000000000000 0 (.prnd) := by
  refine ⟨?_, ?_, ?_, ?_, ?_, ?_, ?_, ?_, ?_⟩ <;> rfl
theorem test_decode_link_all :
    reads .l 0b000001_00000_01010_00000_10_0110_00000 0 (.lsendV 10 2 6) ∧
    reads .l 0b000001_00000_01010_0000000_0110_10000 0 (.lsendS 10 6) ∧
    reads .l 0b000010_10101_0000000000_10_0110_00000 0 (.lrecv 21 2 6) ∧
    reads .l 0b000011_00000_01010_01101_10_0110_00000 0 (.lput 10 13 2 6) ∧
    reads .l 0b000100_00000_01010_01101_10_0110_00000 0 (.lamoAdd32 10 13 2 6) ∧
    reads .l 0b000100_00000_01010_01101_10_0110_00001 0 (.lamoFadd32 10 13 2 6) ∧
    reads .l 0b000100_00000_01010_01101_10_0110_00010 0 (.lamoMin32 10 13 2 6) ∧
    reads .l 0b000100_00000_01010_01101_10_0110_00011 0 (.lamoMax32 10 13 2 6) ∧
    reads .l 0b000101_0_0011_000000000000000000000 0 (.barDie 3) ∧
    reads .l 0b000101_0_0011_000000000000000000001 0 (.barLaunch 3) ∧
    reads .l 0b000101_0_0011_000000000000000000010 0 (.barSys 3) ∧
    reads .l 0b000110_0_0011_000000000000000000000 0 (.baraDie 3) ∧
    reads .l 0b000110_0_0011_000000000000000000001 0 (.baraLaunch 3) ∧
    reads .l 0b000110_0_0011_000000000000000000010 0 (.baraSys 3) ∧
    reads .l 0b000111_0_0011_000000000000000000000 0 (.barw 3) ∧
    reads .l 0b001000_10101_01010_0000000000000000 0 (.cbacq 21 10) ∧
    reads .l 0b001001_00000_01010_0000000111100000 0 (.cbcomLocal 10) ∧
    reads .l 0b001001_00000_01010_01101_10_0110_00000 0 (.cbcomRemote 10 13 2 6) ∧
    reads .l 0b001010_10101_01010_0000000000000000 0 (.cbwait 21 10) ∧
    reads .l 0b001011_00000_01010_0000000000000000 0 (.cbrel 10) ∧
    reads .l 0b001100_00000_01010_0000000000000000 0 (.belay 10) ∧
    reads .l 0b001101_00000_01010_0000000000000000 0 (.waitt 10) ∧
    reads .l 0b001110_10101_000000000000000000000 0 (.tstmp 21) ∧
    reads .l 0b001111_00000_01010_0000000000000000 0 (.launch 10) ∧
    reads .l 0b010000_00000_01010_0000000000000000 0 (.ljoin 10) := by
  refine ⟨?_, ?_, ?_, ?_, ?_, ?_, ?_, ?_, ?_, ?_, ?_, ?_, ?_, ?_, ?_, ?_, ?_, ?_, ?_, ?_, ?_, ?_, ?_, ?_, ?_⟩ <;> rfl

/-! ### Decoding: words that the spec's own examples give -/

theorem test_decode_spec_examples :
    reads .s 0x0C630005 0 (.addi 3 3 5) ∧ reads .s 0xB040FFFF 0 (.loop 2 0xFFFF) ∧ reads .l 0x04040260 0 (.lsendV 4 1 3) ∧
    reads .l 0x08A00660 0 (.lrecv 5 3 3) ∧ reads .v 0x9CC50041 0 (.vsegfadd 6 5 0 1) ∧
    -- the worked program of passes on a round
    reads .w 0x500C0000 0 (.cwait 12) ∧ reads .w 0x0CA01820 0x01000000 (.pscanSumi ⟨5, 0, 3, 1, 1, 0, 0, 0⟩) ∧
    reads .w 0x19063840 0x01000000 (.pupdAddi32 ⟨8, 6, 7, 2, 1, 0, 0, 0⟩) ∧ reads .w 0x11201860 0x0152E800 (.pfilt ⟨9, 0, 3, 3, 1, 10, 11, 0x2800⟩) ∧
    -- the worked program of the embedding gradient
    reads .v 0x914568C0 0 (.vscat 10 5 13 ⟨0, 3⟩) ∧ reads .l 0x24123040 0 (.cbcomRemote 18 6 0 2) ∧ reads .v 0x3C80E801 0 (.vfcmplt 4 0 29 ⟨0, 0⟩) ∧
    reads .w 0x1860D021 0x01D81000 (.pupdAddf32 ⟨3, 0, 26, 1, 1, 27, 0, 0x1000⟩) ∧ reads .l 0x14200001 0 (.barLaunch 1) ∧
    -- the time-triggered program
    reads .s 0xC520000A 0 (.crd 9 0x00A) ∧ reads .l 0x34020000 0 (.waitt 2) ∧ reads .l 0x04030000 0 (.lsendV 3 0 0) ∧ reads .s 0xB1600000 0 (.loop 11 0) ∧
    reads .l 0x08A00000 0 (.lrecv 5 0 0) ∧ reads .s 0x05494000 0 (.add ⟨0, 0⟩ 10 9 8) ∧ reads .l 0x300A0000 0 (.belay 10) ∧
    reads .l 0x04060040 0 (.lsendV 6 0 2) ∧ reads .l 0x08E00020 0 (.lrecv 7 0 1) ∧
    -- the ternary layer with a fault
    reads .s 0xA4000003 0 (.jmp 3) ∧ reads .w 0x30801800 0x01298000 (.pmatWrite ⟨4, 0, 3, 0, 1, 5, 6, 0⟩) ∧
    reads .l 0x0C015E00 0 (.lput 1 11 3 0) ∧ reads .s 0xC6800083 0 (.crd 20 0x083) ∧ reads .s 0xD2F60001 0 (.trap 23 22 1) ∧
    reads .w 0x34000000 0 (.preop 0) ∧ reads .s 0x13000001 0 (.ldi 24 1) ∧
    -- the teardown
    reads .s 0xDCC42800 0 (.haltctx ⟨0, 0⟩ 6 4 5) ∧ reads .s 0xE9070000 0 (.keyz ⟨0, 0⟩ 8 7) ∧ reads .s 0xD9400000 0 (.mapw ⟨0, 0⟩ 10 0 0) ∧
    reads .s 0xEDCC5800 0 (.scrub ⟨0, 0⟩ 14 12 11) ∧ reads .w 0x28119021 0x00980000 (.pzeroPhys ⟨0, 17, 18, 1, 0, 19, 0, 0⟩) ∧
    reads .s 0xF2D4A800 0 (.assign ⟨0, 0⟩ 22 20 21) ∧ reads .w 0x44170000 0 (.twall 23) ∧ reads .s 0xC4600310 0 (.crd 3 0x310) := by
  repeat' apply And.intro
  all_goals rfl
/-- Rows of the time-triggered program: the second has two slots and a gap of a beat; and a delay row. -/
theorem test_decode_rows :
    (⟨0x88000000, 0xC520000A, 0, 0, 0, 0, 0, 0x34020000⟩ : RowWords).decode = .ok [.crd 9 0x00A, .waitt 2] ∧
    (⟨0x88080000, 0x05494000, 0, 0, 0, 0, 0, 0x08A00000⟩ : RowWords).decode = .ok [.add ⟨0, 0⟩ 10 9 8, .lrecv 5 0 0] ∧
    (⟨0x88080000, 0x05494000, 0, 0, 0, 0, 0, 0x08A00000⟩ : RowWords).gap = 1 ∧ (⟨0x87F80000, 0xB1600000, 0, 0, 0, 0, 0, 0⟩ : RowWords).gap = 255 ∧
    (⟨0x00080000, 0, 0, 0, 0, 0, 0, 0⟩ : RowWords).decode = .ok [] := by
  repeat' apply And.intro
  all_goals rfl
/-- Words that are none: an opcode that no map gives, a SUB beyond a map, a bit that a form leaves zero, a compare code of 7, lane bits of a pass that has
none, a width of 7. -/
theorem test_decode_refuses :
    (∀ k ∈ Slot.all, (decodeSlot k 0 0).toOption = none) ∧ (decodeSlot .s 0x24000004 0).toOption = none ∧ (decodeSlot .s 0x04000040 0).toOption = none ∧
    (decodeSlot .s 0x94000007 0).toOption = none ∧ (decodeSlot .w 0x0C000000 0x00003800).toOption = none ∧
    (decodeSlot .w 0x04000000 0x00000400).toOption = none ∧ (decodeSlot .v 0xA4000007 0).toOption = none ∧ (decodeSlot .t 0x14000003 0).toOption = none ∧
    (decodeSlot .l 0x05E00000 0).toOption = none := by
  refine ⟨fun k h => ?_, rfl, rfl, rfl, rfl, rfl, rfl, rfl, rfl⟩
  cases k <;> rfl

/-! ### Well-formedness: a term that each check refuses, beside one that it lets through -/

theorem test_wellFormed_scalar :
    (Instr.ldx ⟨0, 0⟩ 1 2 3 0 7).wellFormed = false ∧ (Instr.ldx ⟨0, 0⟩ 1 2 3 0 6).wellFormed = true ∧ (Instr.tdw ⟨0, 0⟩ 1 2 13).wellFormed = false ∧
    (Instr.tdw ⟨0, 0⟩ 1 2 12).wellFormed = true ∧ (Instr.tdr ⟨0, 0⟩ 1 2 14).wellFormed = false ∧ (Instr.tdr ⟨0, 0⟩ 1 2 13).wellFormed = true ∧
    (∀ n ∈ [0x006, 0x007, 0x012, 0x01F, 0x042, 0x047, 0x052, 0x062, 0x071, 0x085, 0x091, 0x0A1, 0x0B1, 0x202, 0x301, 0x312, 0x321, 0x7FF],
      (Instr.crd 1 (BitVec.ofNat 11 n)).wellFormed = false ∧ (Instr.cwr 1 (BitVec.ofNat 11 n)).wellFormed = false) ∧
    (Instr.crd 1 0x005).wellFormed = true ∧ (Instr.cwr 1 0x320).wellFormed = true := by decide
theorem test_wellFormed_vector :
    (Instr.vsortS 31 0 0).wellFormed = false ∧ (Instr.vsortF 31 0 0).wellFormed = false ∧ (Instr.vsortU 31 0 0).wellFormed = false ∧
    (Instr.vsortS 30 0 0).wellFormed = true ∧ (Instr.vbfpq 0 0 0 7).wellFormed = false ∧ (Instr.vbfpq 0 0 0 6).wellFormed = true ∧
    (Instr.vt5pk 0 28 0).wellFormed = false ∧ (Instr.vt5pk 0 27 0).wellFormed = true ∧ (Instr.vt5up 28 0 0).wellFormed = false ∧
    (Instr.vt5up 27 0 0).wellFormed = true := by decide
/-- A pass row with one field set that its entry leaves zero. -/
def stray (f : PassOp → PassOp) : PassOp := f ⟨0, 0, 0, 0, 0, 0, 0, 0⟩
theorem test_wellFormed_passes :
    let D := stray (fun o => { o with d := 1 })
    let A := stray (fun o => { o with a := 1 })
    let C := stray (fun o => { o with c := 1 })
    let E := stray (fun o => { o with e := 1 })
    let T := stray (fun o => { o with tid := 1 })
    let F := stray (fun o => { o with flags := 1 })
    let no := fun (i : PassOp → Instr) (l : List PassOp) => ∀ o ∈ l, (i o).wellFormed = false
    no .pcopy [C, E, F] ∧ no .pgath [A, E, F] ∧ no .pput [C, E, F] ∧ no .pcmt [D, C, E, F] ∧ no .padam [C, F] ∧ no .pzero [D, C, E, F] ∧
    no .pzeroPhys [D, T, E, F] ∧ no .phostIn [D, E, F] ∧ no .phostOut [D, E, F] ∧ no .pmatWrite [F] ∧ no .pmatAccum [F] ∧
    (∀ i ∈ [Instr.pscanSumi, .pscanSumf, .pscanMin, .pscanMax, .pscanCount],
      no i [E, F, C, stray (fun o => { o with flags := 0x3800 })] ∧ (i (stray (fun o => { o with flags := 0x3000, c := 1 }))).wellFormed = true) ∧
    no .pfilt [F, C, stray (fun o => { o with flags := 0x3800 })] ∧ (Instr.pfilt (stray (fun o => { o with flags := 0x3000, c := 1, e := 1 }))).wellFormed = true ∧
    (∀ i ∈ [Instr.pupdAddi32, .pupdAddf32, .pupdMini32, .pupdMaxi32, .pupdAnd, .pupdOr, .pupdXor, .pupdSwap, .pupdoAddf32, .pupdoAddi32],
      no i [F, C, E, stray (fun o => { o with flags := 0x1000, a := 1 })] ∧
        (i (stray (fun o => { o with flags := 0x1000, c := 1 }))).wellFormed = true) ∧
    (Instr.pupdAnd (stray (fun o => { o with flags := 0x2000, e := 1 }))).wellFormed = true ∧
    no .pupdoAddf32 [stray (fun o => { o with flags := 0x2000 })] ∧ no .pupdoAddi32 [stray (fun o => { o with flags := 0x2000 })] := by
  simp only [List.mem_cons, List.not_mem_nil, or_false, forall_eq_or_imp, forall_eq]
  repeat' apply And.intro
  all_goals rfl
theorem test_wellFormed_links :
    (∀ i ∈ [Instr.lsendV 0 0, .lsendS 0, .lrecv 0 0, .lput 0 0 0, .lamoAdd32 0 0 0, .lamoFadd32 0 0 0, .lamoMin32 0 0 0, .lamoMax32 0 0 0,
      .cbcomRemote 0 0 0], (i 15).wellFormed = false ∧ (i 14).wellFormed = true) ∧ (Instr.tstmp 31).wellFormed = false ∧
    (Instr.tstmp 30).wellFormed = true := by
  simp only [List.mem_cons, List.not_mem_nil, or_false, forall_eq_or_imp, forall_eq]
  decide

/-! ### Single steps; the expected values are the spec's own or worked out by hand from its rules -/

/-- What an instruction leaves, where it answers a next state. -/
def after {α : Type} (i : Instr) (s : State) (f : State → α) : Option α := match exec i s with | .next t => some (f t) | _ => none

theorem test_add_wraps : after (.add ⟨0, 0⟩ 3 1 1) (user [(1, 0x8000000000000001)]) (laterS · 3) = some 2 := by decide
theorem test_add_writes_no_s0 : after (.add ⟨0, 0⟩ 0 1 1) (user [(1, 7)]) (laterS · 0) = some 0 := by decide
/-- R31: division by zero gives all ones, the remainder the dividend; the most negative number by −1 wraps. -/
theorem test_div_by_zero : after (.div ⟨0, 0⟩ 3 1 2) (user [(1, 9)]) (laterS · 3) = some 0xFFFFFFFFFFFFFFFF := by decide +kernel
theorem test_div_wraps : after (.div ⟨0, 0⟩ 3 1 2) (user [(1, 0x8000000000000000), (2, 0xFFFFFFFFFFFFFFFF)]) (laterS · 3) =
    some 0x8000000000000000 := by decide +kernel
theorem test_rem_by_zero : after (.rem ⟨0, 0⟩ 3 1 2) (user [(1, 9)]) (laterS · 3) = some 9 := by decide +kernel
/-- −1 × −1 has the upper half 0, and −1 × 2 the upper half −1. -/
theorem test_mulh_signs : after (.mulh ⟨0, 0⟩ 3 1 2) (user [(1, 0xFFFFFFFFFFFFFFFF), (2, 2)]) (laterS · 3) = some 0xFFFFFFFFFFFFFFFF := by
  decide +kernel
theorem test_sra_keeps_sign : after (.sra ⟨0, 0⟩ 3 1 2) (user [(1, 0x8000000000000000), (2, 127)]) (laterS · 3) = some 0xFFFFFFFFFFFFFFFF := by
  decide +kernel
theorem test_lui : after (.lui 3 0x8000) (user []) (laterS · 3) = some 0xFFFFFFFF80000000 := by decide +kernel
theorem test_cmplt_signed : after (.cmplt ⟨0, 0⟩ 2 1 2) (user [(1, 0xFFFFFFFFFFFFFFFF)]) (laterP · 2) = some true := by decide +kernel
theorem test_cmpltu_unsigned : after (.cmpltu ⟨0, 0⟩ 2 1 2) (user [(1, 0xFFFFFFFFFFFFFFFF)]) (laterP · 2) = some false := by decide +kernel
/-- A user core with bytes in its scratchpad at 0x100. -/
def holding (l : SMap Word) (bs : List Byte) : State := (user l).onCore (fun c => { c with scratch := Memory.setBytes [] 0x100 bs })
theorem test_ldb_sign : after (.ldb 3 1 0xFFFF) (holding [(1, 0x102)] [1, 0x80]) (laterS · 3) = some 0xFFFFFFFFFFFFFF80 := by decide +kernel
theorem test_ldhu_order : after (.ldhu 3 1 0) (holding [(1, 0x100)] [1, 0x80]) (laterS · 3) = some 0x8001 := by decide +kernel
/-- The counted loop of the spec stores 225 at 0x800. -/
theorem test_std_counted_loop : after (.std 4 0 0x800) (user [(4, 225)]) (fun t => (List.range 8).map (fun i => sp t (0x800 + i))) =
    some [0xE1, 0, 0, 0, 0, 0, 0, 0] := by decide +kernel
theorem test_acas_swaps : after (.acas ⟨0, 0⟩ 5 2 6) (holding [(2, 0x100), (5, 7), (6, 9)] [7]) (fun t => (laterS t 5, sp t 0x100)) =
    some (7, 9) := by decide +kernel
theorem test_aaddw_sign : after (.aaddw ⟨0, 0⟩ 5 2 6) (holding [(2, 0x100), (6, 1)] [0, 0, 0, 0x80, 5]) (fun t =>
    (laterS t 5, memW t.core.scratch 0x100, sp t 0x104)) = some (0xFFFFFFFF80000000, 0x80000001, 5) := by decide +kernel
/-- The counted loop: with 3 left the branch from row 3 to row 2 is taken, with 1 left it is not. -/
theorem test_loop_taken : after (.loop 2 0xFFFF) ((user [(2, 3)]).onCore (fun c => { c with pos := { row := 3 } })) (fun t =>
    (laterS t 2, t.core.jump)) = some (2, some 2) := by decide +kernel
theorem test_loop_falls_through : after (.loop 2 0xFFFF) ((user [(2, 1)]).onCore (fun c => { c with pos := { row := 3 } })) (fun t =>
    (laterS t 2, t.core.jump)) = some (0, none) := by decide +kernel
theorem test_call_links : after (.call 5) ((user []).onCore (fun c => { c with pos := { row := 9 } })) (fun t => (laterS t 31, t.core.jump)) =
    some (10, some 14) := by decide +kernel
theorem test_trap_delivers : after (.trap 23 22 1) (user [(22, 3)]) (fun t => (t.core.hold, SMap.get none (t.dieAt 0).reqs 0)) =
    some (.trap 23, some { code := 0x10, elem := 3, svc := 1 }) := by decide +kernel
/-- A user core with vector registers, in order from v1. -/
def vectors (l : List (List W32)) : State :=
  let v : SMap W32 := l.zipIdx.foldl (fun m e => SMap.setList 0 m (64 * (e.2 + 1)) e.1) []
  (user []).onCore (fun c => { c with regs := { c.regs with v := v, m := [(1, 0xCB)] }, src := { c.src with v := v, m := [(1, 0xCB)] } })
/-- The first elements of a vector register. -/
def firsts (n : Nat) (r : Reg) (t : State) : List W32 := (List.range n).map (laterV t r)
theorem test_vadds_saturates : after (.vadds 3 1 2 ⟨0, 0⟩) (vectors [[0x7FFFFFFF, 0x80000000], [1, 0xFFFFFFFF]]) (fun t =>
    (firsts 2 3 t, t.core.flagQ.map Prod.snd)) = some ([0x7FFFFFFF, 0x80000000], [fSAT]) := by decide +kernel
/-- 1 + 2^−24 lies half-way between two numbers: the even one is taken, and NX is set. -/
theorem test_vfadd_ties_to_even : after (.vfadd 3 1 2 ⟨0, 0⟩) (vectors [[0x3F800000, 0x3F800001], [0x33800000, 0x33800000]]) (fun t =>
    (firsts 2 3 t, t.core.flagQ.map Prod.snd)) = some ([0x3F800000, 0x3F800002], [fNX]) := by decide +kernel
/-- The spec's merging of duplicate keys: the sorted keys with their places, the runs, the segment sums and the distinct keys. -/
theorem test_vsort_merge : after (.vsortS 3 1 0) (vectors [[5, 2, 5, 9, 2, 0, 5, 7]]) (fun t => (firsts 8 3 t, firsts 8 4 t)) =
    some ([0, 2, 2, 5, 5, 5, 7, 9], [5, 1, 4, 0, 2, 6, 7, 3]) := by decide +kernel
theorem test_vruns_merge : after (.vruns 1 1 0) (vectors [[0, 2, 2, 5, 5, 5, 7, 9]]) (fun t => laterM t 1) = some 0xCB := by decide +kernel
theorem test_vsegfadd_merge : after (.vsegfadd 6 1 0 1) (vectors [[0x3E000000, 0x3F000000, 0x3FC00000, 0x3F800000, 0x3E800000, 0xBF800000, 0x40400000,
    0x40000000]]) (firsts 8 6) = some [0x3E000000, 0x40000000, 0, 0x3E800000, 0, 0, 0x40400000, 0x40000000] := by decide +kernel
theorem test_vcmpr_merge : after (.vcmpr 7 1 0 1) (vectors [[0, 2, 2, 5, 5, 5, 7, 9]]) (firsts 8 7) = some [0, 2, 5, 7, 9, 0, 0, 0] := by
  decide +kernel
/-- The spec's five trits +1, 0, −1, −1, +1 make the byte 0xA7, and 0xA7 gives them back; three groups of zeros make 121. -/
theorem test_vt5pk_example : after (.vt5pk 6 1 0) (vectors [[1], [0], [0xFFFFFFFF], [0xFFFFFFFF], [1]]) (firsts 1 6) = some [0x797979A7] := by
  decide +kernel
theorem test_vt5up_example : after (.vt5up 6 1 0) (vectors [[0x797979A7]]) (fun t => (List.range 5).map (fun k => laterV t (6 + BitVec.ofNat 5 k) 0)) =
    some [1, 0, 0xFFFFFFFF, 0xFFFFFFFF, 1] := by decide +kernel
/-- Eight values 1 to 8 at w = 4: the exponent is 3 − 2 + 127, the mantissas are halves, 0.5 and 2.5 to the even neighbour. -/
theorem test_vbfpq : after (.vbfpq 6 1 0 2) (vectors [[0x3F800000, 0x40000000, 0x40400000, 0x40800000, 0x40A00000, 0x40C00000, 0x40E00000, 0x41000000]])
    (firsts 3 6) = some [0x80000841, 0x02020100, 0x04040302] := by decide +kernel
theorem test_mpop : after (.mpop 5 1 0) (vectors []) (laterS · 5) = some 5 := by decide +kernel
/-- The spec's window: with a 4 × 4 image and padding 1, output 0 reads the padding and output 5 the first pixel. -/
theorem test_window_example :
    let s := (user []).onCore (fun c => { c with scratch := Memory.setBytes [] 0 ([0, 1, 0, 0, 4, 0, 4, 0, 1, 0, 4, 0, 4, 0, 0, 0, 4, 0, 0, 0, 0, 0, 0, 0] ++
      [0, 0, 1, 1, 1, 1, 0, 0]) })
    winAddr s 0 1 0 = none ∧ winAddr s 0 1 5 = some 0x100 := by decide +kernel
/-- The spec's two tiles: a row of 64 ones times a row of 64 twos is 128, added to 128 it is 256. -/
theorem test_tmma_int8 :
    let j : TmmaJob := { kind := 2, a := List.replicate 64 1, b := List.replicate 384 0 ++ List.replicate 64 2 }
    (j.newC 0 3 128).1 = 256 ∧ (j.newC 0 2 0).1 = 0 := by decide +kernel
theorem test_xswap : after .xswap (user []) (fun t => t.core.regs.xsel) = some 1 := by decide +kernel
/-- The spec's descriptor of a sixteen-word ROWS tensor, as fields are written: valid with its last field. -/
theorem test_tdw_example :
    let d : Desc := { format := 2, layout := 1, rank := 2, dim0 := 1, dim1 := 16, base := 0x800000 }
    let s := user [(1, 1), (2, 0x800)]
    after (.tdw ⟨0, 0⟩ 1 2 8) { s with mod := { s.mod with descs := [(257, d)] } } (fun t => (t.desc 1 1).valid) = some true ∧
      after (.tdw ⟨0, 0⟩ 1 2 7) { s with mod := { s.mod with descs := [(257, { d with limit := 0x800 })] } } (fun t => (t.desc 1 1).valid) =
        some true ∧
      after (.tdw ⟨0, 0⟩ 1 1 8) { s with mod := { s.mod with descs := [(257, d)] } } (fun t => (t.desc 1 1).valid) = some false := by
  decide +kernel
theorem test_pcopy_opens : after (.pcopy op) (tensor 3 [(2, 90), (4, 4096)]) (fun t => ((t.core.pass 0).st, (t.core.pass 0).openPt, SMap.get 0 t.core.riders 63)) =
    some (.riding, 2, 1) := by decide +kernel
theorem test_pcopy_refused : after (.pcopy op) (tensor 3 [(2, 91), (4, 4096)]) (fun t => ((t.core.pass 0).st, t.core.refusals)) =
    some (.idle, [(4, 63)]) := by decide +kernel
theorem test_lsend_entry : after (.lsendV 4 1 14) (pair id id) (fun t => (t.core.sendQ 14).map (fun m => (m.entries, m.core, m.rport))) =
    some [(2, 1, 15)] := by decide +kernel
theorem test_bar_completes : after (.barrierComplete 1 5 .launch 0 15) (partner 1 (fun c => { c with run := .exited })) (fun t =>
    ((t.coreAt 25).arr, (t.coreAt 25).ph, (t.coreAt 0).ph)) = some (0, 0x8000, 0x8000) := by decide +kernel
theorem test_negotiate : after (.negotiate 3) (with_ { ready := true, args := [(0, 0x01010000)] }) (fun t => t.mod.mbx.map (fun j => (j.result, j.res))) =
    some (some (0, [(0, 0x0101)])) := by decide +kernel
theorem test_lwin_queues : after (.lwinWrite 0x80 (packet 1 64)) (with_ (open_ [])) (fun t =>
    t.checkInbox.mod.launches.map (fun l => (l.pkt.lid, l.st))) = some [(9, .waiting)] := by decide +kernel
/-- After reset the module boots and no core holds a launch. -/
theorem test_reset_boots : State.reset.mod.ready = false ∧ State.reset.cores = [] := by decide

end Sys2Proof.Tests
end

section
/-! PROOFS. The scope: loads of the S slot take the little-endian number at their address, and writes of control registers set the bits that can be
written. -/

namespace Sys2Proof.Machine
open Sys2Proof.Says

/-! ### Fields of a word -/

/-- A field of a word, put back at its place, is the word under the mask of the field. -/
theorem ofNat_extractLsb'_mul (v : Word) (lo n : Nat) :
    BitVec.ofNat 64 ((v.extractLsb' lo n).toNat * 2 ^ lo) = v &&& ((BitVec.allOnes n).setWidth 64 <<< lo) := by
  apply BitVec.eq_of_getLsbD_eq
  intro i hi
  rw [BitVec.getLsbD_ofNat, Nat.testBit_mul_two_pow, BitVec.testBit_toNat, BitVec.getLsbD_extractLsb', BitVec.getLsbD_and, BitVec.getLsbD_shiftLeft,
    BitVec.getLsbD_setWidth, BitVec.getLsbD_allOnes]
  by_cases h : lo ≤ i
  · have e : lo + (i - lo) = i := by omega
    simp [hi, h, e, show i - lo < 64 by omega, show ¬i < lo by omega, Bool.and_comm]
  · simp [h, show i < lo by omega]

/-- A low part of a word under a mask, widened again, is the word under the mask. -/
theorem setWidth_and_setWidth {n : Nat} (v : Word) (m : BitVec n) : (v.setWidth n &&& m).setWidth 64 = v &&& m.setWidth 64 := by
  apply BitVec.eq_of_getLsbD_eq
  intro i hi
  by_cases h : i < n
  · simp [hi, h]
  · simp [hi, h, BitVec.getLsbD_of_ge m i (by omega)]

/-- The low part of a word, widened again. -/
theorem setWidth_setWidth_eq_and (n : Nat) (v : Word) : (v.setWidth n).setWidth 64 = v &&& (BitVec.allOnes n).setWidth 64 := by
  rw [← setWidth_and_setWidth, BitVec.and_allOnes]

/-- A bit of a word, put back at its place. -/
theorem ofNat_ite_getLsbD (v : Word) (i : Nat) :
    BitVec.ofNat 64 (if v.getLsbD i then 2 ^ i else 0) = v &&& ((BitVec.allOnes 1).setWidth 64 <<< i) := by
  have hb : v.extractLsb' i 1 = BitVec.ofBool (v.getLsbD i) := by ext j hj; simp [show j = 0 by omega]
  rw [← ofNat_extractLsb'_mul, hb]
  cases v.getLsbD i
  · simp
  · simp

/-- Fields under masks without a common bit add up to the word under both masks. -/
theorem and_add_and_of_disjoint (v m n : Word) (h : m &&& n = 0) : (v &&& m) + (v &&& n) = v &&& (m ||| n) := by
  have hm : (v &&& m) &&& (v &&& n) = v &&& (m &&& n) := by
    ext i
    simp only [BitVec.getElem_and]
    cases v[i] <;> rfl
  have hd : (v &&& m) &&& (v &&& n) = 0#64 := by
    rw [hm, h]
    exact BitVec.and_zero
  rw [BitVec.add_eq_or_of_and_eq_zero _ _ hd]
  ext i; simp [Bool.and_or_distrib_left]

/-! ### Loads of the S slot (R138, R139) -/

/-- The two's complement number of the low bits is the signed number of a word of that width. -/
theorem toInt_ofNat_eq_signedNat (w v : Nat) (hw : 0 < w) : (BitVec.ofNat w v).toInt = signedNat w v := by
  have h2 : 2 ^ w = 2 * 2 ^ (w - 1) := by rw [← pow_succ']; congr 1; omega
  rw [BitVec.toInt_eq_toNat_cond, BitVec.toNat_ofNat, signedNat]
  by_cases h : v % 2 ^ w < 2 ^ (w - 1)
  · rw [if_pos h, if_pos (by omega)]
  · rw [if_neg h, if_neg (by omega)]

theorem extend_signed (z v : Nat) (hz : 0 < z) : extend z true v = (BitVec.ofNat (8 * z) v).signExtend 64 := by
  rw [BitVec.signExtend, toInt_ofNat_eq_signedNat _ _ (by omega)]; rfl

theorem extend_unsigned (z v : Nat) (hv : v < 256 ^ z) : extend z false v = (BitVec.ofNat (8 * z) v).setWidth 64 := by
  have h : v < 2 ^ (8 * z) := by rw [pow_mul]; exact hv
  apply BitVec.eq_of_toNat_eq
  rw [BitVec.toNat_setWidth, BitVec.toNat_ofNat, Nat.mod_eq_of_lt h]; rfl

theorem addrX_toNat (s : State) (a b : Reg) (sc : BitVec 2) : (addrX s a b sc).toNat = atIndex s a b sc := by
  have h : s.core.rdS b <<< sc.toNat = s.core.rdS b * BitVec.ofNat 64 (2 ^ sc.toNat) :=
    BitVec.eq_of_toNat_eq (by simp [Nat.shiftLeft_eq])
  rw [addrX, atIndex, h]

/-- A scalar result, also where a free value has been used up, sets its register and nothing else. -/
theorem setsS_setS (s : State) (n : Nat) (d : Reg) (v : Word) : setsS s (({ s with fresh := n } : State).setS d v) d v := by
  have hc : (({ s with fresh := n } : State).setS d v).core = s.core.wrS d v := State.core_onCore _ _
  refine ⟨alone_onCore { s with fresh := n } _, ?_, fun r => ?_⟩
  · rw [hc, Core.wrS_eq]
  · rw [laterS, hc, Core.rdS_wrS]; rfl

/-- A load into a scalar register that can be made gives it the number at the address. -/
theorem loadS_sets (s : State) (d : Reg) (x : Word) (z : Nat) (signed : Bool) (hf : fits s x.toNat z)
    (hb : badIn s.core.badScratch x.toNat z = false) (hs : settled s x.toNat z) (hq : quiet s .load x.toNat z) :
    ∃ t, loadS s d x z signed = .next t ∧ setsS s t d (extend z signed (Memory.load s.core.scratch x.toNat z)) := by
  obtain ⟨n, hl⟩ := spLoad_ok s 0 0 x.toNat z hf hb hs hq
  exact ⟨_, by rw [loadS, hl], setsS_setS s n d _⟩

/-- A load form runs a load of its size from its address, and gives its number the sign or the zeros of that size. -/
theorem exec_loadForms (s : State) (g : Guard) (d a b : Reg) (sc : BitVec 2) (imm : BitVec 16) (hg : s.core.guardOn g = true) :
    ∀ e ∈ loadForms s g d a b sc imm, ∃ x signed, exec e.1 s = loadS s d x e.2.2.1 signed ∧ x.toNat = e.2.1 ∧
      ∀ v < 256 ^ e.2.2.1, extend e.2.2.1 signed v = e.2.2.2 v := by
  have hx : ∀ w, exec (.ldx g d a b sc w) s = loadS s d (addrX s a b sc) (ldxWidth w).1 (ldxWidth w).2 := fun w => if_pos hg
  have ha := addrX_toNat s a b sc
  have sx : ∀ z, 0 < z → ∀ v < 256 ^ z, extend z true v = (BitVec.ofNat (8 * z) v).signExtend 64 := fun z hz v _ => extend_signed z v hz
  simp only [loadForms, List.forall_mem_cons, List.not_mem_nil, false_implies, implies_true, and_true]
  exact ⟨⟨addrI s a imm, true, rfl, rfl, sx 1 (by decide)⟩, ⟨addrI s a imm, false, rfl, rfl, extend_unsigned 1⟩,
    ⟨addrI s a imm, true, rfl, rfl, sx 2 (by decide)⟩, ⟨addrI s a imm, false, rfl, rfl, extend_unsigned 2⟩,
    ⟨addrI s a imm, true, rfl, rfl, sx 4 (by decide)⟩, ⟨addrI s a imm, false, rfl, rfl, extend_unsigned 4⟩,
    ⟨addrI s a imm, false, rfl, rfl, extend_unsigned 8⟩,
    ⟨_, true, hx 0, ha, sx 1 (by decide)⟩, ⟨_, false, hx 1, ha, extend_unsigned 1⟩, ⟨_, true, hx 2, ha, sx 2 (by decide)⟩,
    ⟨_, false, hx 3, ha, extend_unsigned 2⟩, ⟨_, true, hx 4, ha, sx 4 (by decide)⟩, ⟨_, false, hx 5, ha, extend_unsigned 4⟩,
    ⟨_, false, hx 6, ha, extend_unsigned 8⟩⟩

/-- Settles O4: each form is a load of the S slot (`exec_loadForms`), and such a load gives its register the number at its address. -/
theorem scalarLoads : Obligations.ScalarLoads := by
  intro s g d a b sc imm hg e he hf hb hs hq
  obtain ⟨x, signed, hexec, hx, hv⟩ := exec_loadForms s g d a b sc imm hg e he
  rw [← hx] at hf hb hs hq ⊢
  rw [hexec, ← hv _ (load_lt _ _ _)]
  exact loadS_sets s d x e.2.2.1 signed hf hb hs hq

/-! ### Writes of control registers (R110, R111) -/

theorem exec_cwr (a : Reg) (n : Nat) (hn : n < 2 ^ 11) (s : State) :
    exec (.cwr a (BitVec.ofNat 11 n)) s = .next (s.cwr n (s.core.rdS a)) := by
  show Host.Outcome.next (s.cwr (BitVec.ofNat 11 n).toNat (s.core.rdS a)) = _
  rw [BitVec.toNat_ofNat, Nat.mod_eq_of_lt hn]

/-- User code leaves the registers of supervisor code alone (R111). -/
theorem cwr_of_user (s : State) (n : Nat) (v : Word) (hu : s.sup = false) (hn : crSup n = true) : s.cwr n v = s := by
  unfold State.cwr; rw [hn, hu]; rfl

/-- The numbers of the control registers for which a write does something, but for the `TSHAPE`s. -/
def writtenControls : List Nat := [0x011, 0x050, 0x051, 0x060, 0x061, 0x080, 0x090, 0x0B0, 0x200, 0x201, 0x300, 0x310, 0x311, 0x320]

/-- A write to any other number leaves the state as it is. -/
theorem cwr_of_not_written (s : State) (n : Nat) (v : Word) (ht : ¬(0x048 ≤ n ∧ n ≤ 0x04F)) (hn : n ∉ writtenControls) : s.cwr n v = s := by
  simp only [writtenControls, List.mem_cons, List.not_mem_nil, or_false, not_or] at hn
  unfold State.cwr
  rw [if_neg ht]
  split
  · rfl
  · -- each number that has a case of its own is in the list
    split <;> simp_all

theorem cwr_tshape (s : State) (i : Nat) (hi : i < 8) (v : Word) :
    s.cwr (0x048 + i) v = s.onCore (fun c => { c with regs := { c.regs with
      tshape := SMap.set 0x21F3F#23 c.regs.tshape i (v.setWidth 23 &&& 0x737F3F#23) } }) := by
  have hs : crSup (0x048 + i) = false := by simp [crSup]; omega
  unfold State.cwr
  rw [hs, if_neg (by simp), if_pos (by omega), Nat.add_sub_cancel_left]

theorem cwr_fpctl (s : State) (v : Word) : s.cwr 0x050 v = s.onCore (fun c => { c with regs := { c.regs with fpctl := v.setWidth 3 } }) := rfl
theorem cwr_rngkey0 (s : State) (v : Word) : s.cwr 0x060 v = s.onCore (fun c => c.putKey false v) := rfl
theorem cwr_rngkey1 (s : State) (v : Word) : s.cwr 0x061 v = s.onCore (fun c => c.putKey true v) := rfl
theorem cwr_trapvec (s : State) (v : Word) :
    s.cwr 0x080 v = s.onCore (fun c => { c with trap := { c.trap with en := v.getLsbD 63, vec := v.setWidth 14 } }) := rfl
theorem cwr_racectl (s : State) (v : Word) :
    s.cwr 0x200 v = s.onCore (fun c => { c with racemode := v.setWidth 2, raceLost := c.raceLost && !(v.getLsbD 2) }) := rfl
theorem cwr_racelog (s : State) (v : Word) : s.cwr 0x201 v = s.onCore (fun c => c.putRacelog v) := rfl

/-! ### What a later row reads in a control register (R110, R148) -/

@[simp] theorem State.core_beginRow (s : State) : s.beginRow.core = s.core.beginRow := State.core_onCore _ _

theorem crd_tshape (s : State) (i : Nat) (hi : i < 8) :
    s.beginRow.crd (0x048 + i) = (SMap.get 0x21F3F#23 s.core.regs.tshape i).setWidth 64 := by
  have hs : crSup (0x048 + i) = false := by simp [crSup]; omega
  unfold State.crd
  simp only [hs, Bool.false_and, Bool.false_eq_true, if_false]
  rw [if_neg (by omega), if_pos (by omega), Nat.add_sub_cancel_left, State.core_beginRow]; rfl
theorem crd_fpctl (s : State) : s.beginRow.crd 0x050 = s.core.regs.fpctl.setWidth 64 := by
  change s.beginRow.core.src.fpctl.setWidth 64 = _
  rw [State.core_beginRow]; rfl
theorem crd_rngkey0 (s : State) : s.beginRow.crd 0x060 = s.core.rngkey0 := by
  change s.beginRow.core.rngkey0 = _
  rw [State.core_beginRow]; rfl
theorem crd_rngkey1 (s : State) : s.beginRow.crd 0x061 = s.core.rngkey1 := by
  change s.beginRow.core.rngkey1 = _
  rw [State.core_beginRow]; rfl
theorem crd_trapvec (s : State) :
    s.beginRow.crd 0x080 = BitVec.ofNat 64 ((if s.core.trap.en then 2 ^ 63 else 0) + s.core.trap.vec.toNat) := by
  change BitVec.ofNat 64 ((if s.beginRow.core.trap.en then 2 ^ 63 else 0) + s.beginRow.core.trap.vec.toNat) = _
  rw [State.core_beginRow]; rfl
theorem crd_racelog (s : State) : s.beginRow.crd 0x201 =
    BitVec.ofNat 64 (s.core.raceNext.toNat * 2 ^ 48 + s.core.raceSize.toNat * 2 ^ 40 + s.core.raceBase.toNat * 2 ^ 5) := by
  change BitVec.ofNat 64 (s.beginRow.core.raceNext.toNat * 2 ^ 48 + s.beginRow.core.raceSize.toNat * 2 ^ 40 +
    s.beginRow.core.raceBase.toNat * 2 ^ 5) = _
  rw [State.core_beginRow]; rfl

/-! ### The bits that a write sets -/

/-- A write that is a change of the core in hand becomes that change. -/
theorem becomes_onCore (s : State) (f : Core → Core) : becomes s (s.onCore f) (f s.core) := ⟨alone_onCore s f, State.core_onCore s f⟩

/-- A core has kept its scratchpad, its scalar and vector registers and its passes. -/
def keepsFiles (c d : Core) : Prop :=
  d.scratch = c.scratch ∧ d.regs.s = c.regs.s ∧ d.regs.v = c.regs.v ∧ d.passes = c.passes

/-- A control register that takes the bits `m` of the number written, as a later row reads them, by a change of the core in hand alone. -/
def takesBits (s : State) (n : Nat) (v m : Word) : Prop :=
  ∃ f, s.cwr n v = s.onCore f ∧ (s.onCore f).beginRow.crd n = (v &&& m) ∧ keepsFiles s.core (f s.core)

theorem takesBits_tshape (s : State) (v : Word) (i : Nat) (hi : i < 8) : takesBits s (0x048 + i) v 0x737F3F := by
  refine ⟨_, cwr_tshape s i hi v, ?_, rfl, rfl, rfl, rfl⟩
  rw [crd_tshape _ i hi, State.core_onCore, SMap.get_set_same, setWidth_and_setWidth]; rfl

theorem takesBits_fpctl (s : State) (v : Word) : takesBits s 0x050 v 7 := by
  refine ⟨_, cwr_fpctl s v, ?_, rfl, rfl, rfl, rfl⟩
  rw [crd_fpctl, State.core_onCore]
  exact setWidth_setWidth_eq_and 3 v

theorem takesBits_rngkey (s : State) (v : Word) : takesBits s 0x060 v 0xFFFFFFFFFFFFFFFF ∧ takesBits s 0x061 v 0xFFFFFFFFFFFFFFFF := by
  have hv : v &&& 0xFFFFFFFFFFFFFFFF#64 = v := BitVec.and_allOnes
  refine ⟨⟨_, cwr_rngkey0 s v, ?_, rfl, rfl, rfl, rfl⟩, ⟨_, cwr_rngkey1 s v, ?_, rfl, rfl, rfl, rfl⟩⟩
  · rw [crd_rngkey0, State.core_onCore]; exact hv.symm
  · rw [crd_rngkey1, State.core_onCore]; exact hv.symm

theorem takesBits_trapvec (s : State) (v : Word) : takesBits s 0x080 v 0x8000000000003FFF := by
  refine ⟨_, cwr_trapvec s v, ?_, rfl, rfl, rfl, rfl⟩
  rw [crd_trapvec, State.core_onCore, BitVec.ofNat_add, BitVec.ofNat_toNat, setWidth_setWidth_eq_and, ofNat_ite_getLsbD]
  exact and_add_and_of_disjoint v _ _ (by decide)

theorem takesBits_racelog (s : State) (v : Word) : takesBits s 0x201 v 0xF00007FFFE0 := by
  refine ⟨_, cwr_racelog s v, ?_, rfl, rfl, rfl, rfl⟩
  rw [crd_racelog, State.core_onCore]
  change BitVec.ofNat 64 (0 * 2 ^ 48 + (v.extractLsb' 40 4).toNat * 2 ^ 40 + (v.extractLsb' 5 18).toNat * 2 ^ 5) = _
  rw [Nat.zero_mul, Nat.zero_add, BitVec.ofNat_add, ofNat_extractLsb'_mul, ofNat_extractLsb'_mul]
  exact and_add_and_of_disjoint v _ _ (by decide)

/-- Every register of the list takes the bits that the list gives (R110). -/
theorem takesBits_writables (s : State) (v : Word) : ∀ e ∈ writables, e.1 < 2 ^ 11 ∧ takesBits s e.1 v e.2 := by
  have ht := takesBits_tshape s v
  obtain ⟨h60, h61⟩ := takesBits_rngkey s v
  simp only [writables, List.forall_mem_cons, List.not_mem_nil, false_implies, implies_true, and_true]
  exact ⟨⟨by decide, ht 0 (by decide)⟩, ⟨by decide, ht 1 (by decide)⟩, ⟨by decide, ht 2 (by decide)⟩, ⟨by decide, ht 3 (by decide)⟩,
    ⟨by decide, ht 4 (by decide)⟩, ⟨by decide, ht 5 (by decide)⟩, ⟨by decide, ht 6 (by decide)⟩, ⟨by decide, ht 7 (by decide)⟩,
    ⟨by decide, takesBits_fpctl s v⟩, ⟨by decide, h60⟩, ⟨by decide, h61⟩, ⟨by decide, takesBits_trapvec s v⟩,
    ⟨by decide, takesBits_racelog s v⟩⟩

theorem cwr_readOnly (s : State) (v : Word) : ∀ n ∈ readOnly, n < 2 ^ 11 ∧ s.cwr n v = s := fun n hn => by
  have hw : ∀ n ∈ readOnly, n < 2 ^ 11 ∧ ¬(0x048 ≤ n ∧ n ≤ 0x04F) ∧ n ∉ writtenControls := by decide
  obtain ⟨hlt, ht, hnot⟩ := hw n hn
  exact ⟨hlt, cwr_of_not_written s n v ht hnot⟩

theorem cwr_supervisorOnly (s : State) (v : Word) (hu : s.sup = false) : ∀ n ∈ supervisorOnly, n < 2 ^ 11 ∧ s.cwr n v = s := fun n hn => by
  have hw : ∀ n ∈ supervisorOnly, n < 2 ^ 11 ∧ crSup n = true := by decide
  obtain ⟨hlt, hsup⟩ := hw n hn
  exact ⟨hlt, cwr_of_user s n v hu hsup⟩

/-- Supervisor code writes the selections of its windows (R111). -/
theorem cwr_of_supervisor (s : State) (v : Word) (hs : s.sup = true) :
    s.cwr 0x300 v = s.onCore (fun c => { c with mapCtx := v.extractLsb' 40 8, mapTable := v.getLsbD 16, mapIndex := v.setWidth 16 }) ∧
    s.cwr 0x310 v = s.onCore (fun c => { c with scrubSel := v.extractLsb' 58 6 }) ∧
    s.cwr 0x311 v = s.onCore (fun c => { c with ownSel := v.extractLsb' 58 6 }) ∧
    s.cwr 0x320 v = s.onCore (fun c => { c with keySel := v.extractLsb' 58 6 }) := by
  unfold State.cwr
  rw [hs]
  exact ⟨rfl, rfl, rfl, rfl⟩

/-! ### `FPFLAGS` (R38, R39) -/

theorem flagsAt_of_no_arrival (q : List (Nat × Flags)) (beat : Nat) (h : ∀ e ∈ q, e.1 ≠ beat) : flagsAt q beat = 0 := by
  have hq : q.filter (fun e => e.1 == beat) = [] := List.filter_eq_nil_iff.mpr (fun e he => by simpa using h e he)
  rw [flagsAt, hq]; rfl

theorem putFpflags_fpflags (s : State) (v : Word) : (s.putFpflags v).core.fpflags =
    (v.setWidth 16 &&& 0xFE1F#16) ||| flagsAt s.core.flagQ s.core.beats ||| (if s.core.arrived.1 = s.tick then s.core.arrived.2 else 0) := by
  rw [State.putFpflags, State.core_onCore]; rfl

/-- A write of `FPFLAGS` changes them alone: it sets them where no flag arrives, and loses none that it sets where some do. -/
theorem fpflagsWrite_sets (s : State) (w : Word) : ∃ t, exec (.fpflagsWrite w) s = .next t ∧
    becomes s t { s.core with fpflags := t.core.fpflags } ∧
    ((∀ e ∈ s.core.flagQ, e.1 ≠ s.core.beats) → s.core.arrived.1 ≠ s.tick → t.core.fpflags = w.setWidth 16 &&& 0xFE1F#16) ∧
    (w.setWidth 16 &&& 0xFE1F#16) &&& ~~~t.core.fpflags = 0 := by
  refine ⟨s.putFpflags w, rfl, ?_, fun hq ha => ?_, ?_⟩
  · rw [putFpflags_fpflags]; exact becomes_onCore s _
  · rw [putFpflags_fpflags, flagsAt_of_no_arrival _ _ hq, if_neg ha]; simp
  · rw [putFpflags_fpflags]
    generalize w.setWidth 16 &&& 0xFE1F#16 = x
    ext i hi
    simp only [BitVec.getElem_and, BitVec.getElem_not, BitVec.getElem_or]
    cases x[i] <;> simp

/-- Settles O29: a `CWR` is `State.cwr` (`exec_cwr`), whose cases `takesBits_writables`, `cwr_readOnly`, `cwr_supervisorOnly` and
`cwr_of_supervisor` give; each other write is a change of the core in hand. -/
theorem controlWrites : Obligations.ControlWrites := by
  intro s a hi w v
  refine ⟨fun e he => ?_, fun n hn => ?_, fun hu n hn => ?_,
    ⟨_, (exec_cwr a 0x200 (by decide) s).trans (congrArg _ (cwr_racectl s v)), becomes_onCore s _⟩, fun hs => ?_,
    ⟨_, rfl, becomes_onCore s _⟩, ⟨_, rfl, becomes_onCore s _⟩, ⟨_, rfl, becomes_onCore s _⟩, ⟨_, rfl, becomes_onCore s _⟩,
    fpflagsWrite_sets s w, exec_cwr a 0x060 (by decide) s, exec_cwr a 0x061 (by decide) s, exec_cwr a 0x0B0 (by decide) s,
    exec_cwr a 0x201 (by decide) s, exec_cwr a 0x011 (by decide) s, exec_cwr a 0x051 (by decide) s⟩
  · obtain ⟨hlt, f, hcwr, hread, hscratch, hs, hv, hpasses⟩ := takesBits_writables s v e he
    obtain ⟨hcores, hsegs, hdies, hmod, -, -⟩ := alone_onCore s f
    rw [exec_cwr a e.1 hlt s, hcwr]
    refine ⟨_, rfl, hread, hcores, hsegs, hdies, hmod, ?_⟩
    rw [State.core_onCore]
    exact ⟨hscratch, hs, hv, hpasses⟩
  · obtain ⟨hlt, hcwr⟩ := cwr_readOnly s v n hn
    rw [exec_cwr a n hlt s, hcwr]
  · obtain ⟨hlt, hcwr⟩ := cwr_supervisorOnly s v hu n hn
    rw [exec_cwr a n hlt s, hcwr]
  · obtain ⟨hmap, hscrub, hown, hkey⟩ := cwr_of_supervisor s v hs
    exact ⟨⟨_, (exec_cwr a 0x300 (by decide) s).trans (congrArg _ hmap), becomes_onCore s _⟩,
      ⟨_, (exec_cwr a 0x310 (by decide) s).trans (congrArg _ hscrub), becomes_onCore s _⟩,
      ⟨_, (exec_cwr a 0x311 (by decide) s).trans (congrArg _ hown), becomes_onCore s _⟩,
      ⟨_, (exec_cwr a 0x320 (by decide) s).trans (congrArg _ hkey), becomes_onCore s _⟩⟩

end Sys2Proof.Machine
end

section
/-! PROOFS. The scope: the S-slot instructions of two scalar sources. -/

namespace Sys2Proof.Machine
open Sys2Proof.Says

/-! ### Two scalar sources (R31, R134, R135) -/

theorem divS_eq (x y : Word) : divS x y = if y = 0 then ~~~0#64 else x.sdiv y := by
  have h : BitVec.ofInt 64 (x.toInt.tdiv y.toInt) = x.sdiv y := by
    apply BitVec.eq_of_toInt_eq
    rw [BitVec.toInt_ofInt, BitVec.toInt_sdiv]
  rw [divS, h]

theorem remS_eq (x y : Word) : remS x y = if y = 0 then x else x.srem y := by
  have h : BitVec.ofInt 64 (x.toInt.tmod y.toInt) = x.srem y := by rw [← BitVec.toInt_srem, BitVec.ofInt_toInt]
  rw [remS, h]

theorem divU_eq (x y : Word) : divU x y = if y = 0 then ~~~0#64 else x / y := by
  have h : BitVec.ofNat 64 (x.toNat / y.toNat) = x / y := by rw [← BitVec.toNat_udiv, BitVec.ofNat_toNat, BitVec.setWidth_eq]
  rw [divU, h]

theorem remU_eq (x y : Word) : remU x y = if y = 0 then x else x % y := by
  have h : BitVec.ofNat 64 (x.toNat % y.toNat) = x % y := by rw [← BitVec.toNat_umod, BitVec.ofNat_toNat, BitVec.setWidth_eq]
  rw [remU, h]

theorem mulhU_eq (x y : Word) : mulhU x y = ((x.setWidth 128 * y.setWidth 128) >>> (64 : Nat)).setWidth 64 := by
  have hp : x.toNat * y.toNat < 2 ^ 128 := by
    calc x.toNat * y.toNat < 2 ^ 64 * 2 ^ 64 := Nat.mul_lt_mul'' x.isLt y.isLt
      _ = 2 ^ 128 := by norm_num
  apply BitVec.eq_of_toNat_eq
  rw [mulhU, BitVec.toNat_ofNat, BitVec.toNat_setWidth, BitVec.toNat_ushiftRight, BitVec.toNat_mul, BitVec.toNat_setWidth, BitVec.toNat_setWidth,
    Nat.shiftRight_eq_div_pow, Nat.mod_eq_of_lt (a := x.toNat) (by omega), Nat.mod_eq_of_lt (a := y.toNat) (by omega), Nat.mod_eq_of_lt hp]

theorem mulhS_eq (x y : Word) : mulhS x y = ((x.signExtend 128 * y.signExtend 128) >>> (64 : Nat)).setWidth 64 := by
  have hp : x.signExtend 128 * y.signExtend 128 = BitVec.ofInt 128 (x.toInt * y.toInt) := by
    rw [BitVec.ofInt_mul]; rfl
  apply BitVec.eq_of_toNat_eq
  rw [hp, mulhS, BitVec.toNat_ofInt, BitVec.toNat_setWidth, BitVec.toNat_ushiftRight, BitVec.toNat_ofInt, Nat.shiftRight_eq_div_pow]
  generalize x.toInt * y.toInt = z
  omega

theorem ror64_eq (x : Word) (n : Nat) (hn : n < 64) : ror64 x n = x.rotateRight n := by
  rw [ror64, BitVec.rotateRight, BitVec.rotateRightAux, Nat.mod_eq_of_lt hn]
  by_cases h : n = 0
  · simp [h]
  · rw [Nat.mod_eq_of_lt (by omega)]

theorem minS_eq (x y : Word) : minS x y = if x.sle y then x else y := by
  simp only [minS, BitVec.sle_iff_toInt_le, ← Int.not_lt, ite_not]

/-- Where a measure tells two words apart, it does not matter which of two equal words is taken. -/
theorem ite_lt_eq_ite_le {α β : Type} [LinearOrder β] (f : α → β) (hf : Function.Injective f) (x y : α) :
    (if f x < f y then y else x) = if f x ≤ f y then y else x := by
  rcases lt_trichotomy (f x) (f y) with h | h | h
  · rw [if_pos h, if_pos h.le]
  · rw [hf h]; simp
  · rw [if_neg h.le.not_gt, if_neg h.not_ge]

theorem maxS_eq (x y : Word) : maxS x y = if x.sle y then y else x := by
  simp only [BitVec.sle_iff_toInt_le]
  exact ite_lt_eq_ite_le BitVec.toInt (fun _ _ => BitVec.eq_of_toInt_eq) x y

theorem minU_eq (x y : Word) : minU x y = if x ≤ y then x else y := by
  simp only [minU, BitVec.le_def, ← Nat.not_lt, ite_not]

theorem maxU_eq (x y : Word) : maxU x y = if x ≤ y then y else x :=
  ite_lt_eq_ite_le BitVec.toNat (fun _ _ => BitVec.eq_of_toNat_eq) x y

/-- A guarded instruction of two scalar sources whose guard holds sets its destination and nothing else. -/
theorem alu3_sets (s : State) (g : Guard) (d a b : Reg) (f : Word → Word → Word) (hg : s.core.guardOn g = true) :
    ∃ t, alu3 s g d a b f = .next t ∧ setsS s t d (f (s.core.rdS a) (s.core.rdS b)) :=
  ⟨_, if_pos hg, setsS_setS s s.fresh d _⟩

/-- Each instruction of two scalar sources computes its function. -/
theorem exec_scalarTwo : ∀ e ∈ scalarTwo, ∀ (s : State) (g : Guard) (d a b : Reg), exec (e.1 g d a b) s = alu3 s g d a b e.2 := by
  have hr : ∀ x y : Word, ror64 x (cnt64 y) = x.rotateRight (y.toNat % 64) := fun x y => ror64_eq x _ (Nat.mod_lt _ (by decide))
  simp only [scalarTwo, List.forall_mem_cons, List.not_mem_nil, false_implies, implies_true, and_true, ← mulhS_eq, ← mulhU_eq, ← divS_eq, ← divU_eq,
    ← remS_eq, ← remU_eq, ← hr, ← minS_eq, ← maxS_eq, ← minU_eq, ← maxU_eq]
  and_intros <;> intros <;> rfl

/-- Settles O1: each instruction runs its function on its two sources (`exec_scalarTwo`), and such a run sets the destination alone. -/
theorem scalarTwoSources : Obligations.ScalarTwoSources := by
  intro e he s g d a b hg
  rw [exec_scalarTwo e he]
  exact alu3_sets s g d a b e.2 hg

end Sys2Proof.Machine
end

section
/-! PROOFS. The scope: open passes and tags, the close of a pass, refused opens, and the lines of a `PHOST`. -/

namespace Sys2Proof

/-! ### Sparse stores -/

/-- A read of a store whose values have all been changed by a function that keeps what an unlisted key reads as. -/
theorem SMap.get_map {α : Type} (d : α) (f : α → α) (hd : f d = d) (m : SMap α) (k : Nat) :
    SMap.get d (m.map (fun e => (e.1, f e.2))) k = f (SMap.get d m k) := by
  induction m with
  | nil => exact hd.symm
  | cons e r ih =>
    simp only [List.map_cons, SMap.get, ih]
    split
    · exact hd.symm
    · split <;> rfl

/-- Writing the little-endian bytes of a number is storing it. -/
theorem Memory.setBytes_leBytes (n : Nat) : ∀ (m : Memory) (a v : Nat), Memory.setBytes m a (leBytes n v) = Memory.store m a v n := by
  induction n with
  | zero => intro m a v; rfl
  | succ n ih => intro m a v; exact ih (Memory.setByte m a (BitVec.ofNat 8 v)) (a + 1) (v / 256)

end Sys2Proof

namespace Sys2Proof.Machine
open Sys2Proof.Says

/-! ### Ascending lists -/

/-- Of an ascending list the first element with a property is the one below which none has it. -/
theorem find?_eq_some_of_pairwise_lt (p : Nat → Bool) (x : Nat) (hp : p x = true) : ∀ (l : List Nat), l.Pairwise (· < ·) → x ∈ l →
    (∀ y ∈ l, y < x → p y = false) → l.find? p = some x := by
  intro l
  induction l with
  | nil => intro _ hx; exact absurd hx List.not_mem_nil
  | cons y l ih =>
    intro hl hx hlow
    obtain ⟨hy, hl⟩ := List.pairwise_cons.mp hl
    rcases List.mem_cons.mp hx with rfl | hx
    · exact List.find?_cons_of_pos hp
    · rw [List.find?_cons_of_neg (by rw [hlow y List.mem_cons_self (hy x hx)]; exact Bool.false_ne_true)]
      exact ih hl hx (fun z hz => hlow z (List.mem_cons_of_mem _ hz))

/-! ### The core after a class I fault, wherever it was raised -/

/-- A class I fault changes nothing of a core but its halt line and, where it was raised there, the first fault. -/
theorem State.coreAt_raiseAt (s : State) (k : Nat) (f : CoreFault) (j : Nat) : ∃ h, (s.raiseAt k f).coreAt j =
    { s.coreAt j with fault := if j = k then some ((s.coreAt k).fault.getD f) else (s.coreAt j).fault, halt := h } := by
  let x := match (s.coreAt k).fault with | none => some f | some g => some g
  have hx : x = some ((s.coreAt k).fault.getD f) := by
    show (match (s.coreAt k).fault with | none => some f | some g => some g) = _
    cases (s.coreAt k).fault <;> rfl
  let u := s.setCoreAt k { s.coreAt k with fault := x }
  have hu : SMap.get {} u.cores j = { s.coreAt j with fault := if j = k then some ((s.coreAt k).fault.getD f) else (s.coreAt j).fault } := by
    rw [← hx]
    refine (State.coreAt_setCoreAt s k j _).trans ?_
    by_cases h : j = k
    · rw [h, if_pos rfl, if_pos rfl]
    · rw [if_neg h, if_neg h]
  have hr : (s.raiseAt k f).coreAt j = SMap.get {} (haltCores u k (inContext s k) false false 0 u.cores) j := rfl
  rcases get_haltCores u k (inContext s k) false false u.cores 0 j with ⟨-, h⟩ | ⟨m, h⟩ | ⟨hd, h⟩
  · exact ⟨_, hr.trans (h.trans hu)⟩
  · rw [hu] at h; exact ⟨_, hr.trans h⟩
  · exact ⟨_, hr.trans (h.trans (hd.symm.trans hu))⟩

/-! ### What the writes and the reports of a closing pass leave alone -/

/-- Of a core, the tags and their riders, the arrived flags, the mode of the race detector and an idle slot have stayed. -/
structure KeepsSlot (n : Nat) (c d : Core) : Prop where
  riders : d.riders = c.riders
  tags : d.tags = c.tags
  tagerr : d.tagerr = c.tagerr
  fpflags : d.fpflags = c.fpflags
  racemode : d.racemode = c.racemode
  slot : (c.pass n).st = .idle → d.pass n = c.pass n

theorem KeepsSlot.refl (n : Nat) (c : Core) : KeepsSlot n c c := ⟨rfl, rfl, rfl, rfl, rfl, fun _ => rfl⟩

theorem KeepsSlot.trans {n : Nat} {c d e : Core} (h : KeepsSlot n c d) (g : KeepsSlot n d e) : KeepsSlot n c e :=
  ⟨g.riders.trans h.riders, g.tags.trans h.tags, g.tagerr.trans h.tagerr, g.fpflags.trans h.fpflags, g.racemode.trans h.racemode,
    fun hi => (g.slot (by rw [h.slot hi]; exact hi)).trans (h.slot hi)⟩

/-- A write spoils no idle slot. -/
theorem spoil_of_idle (fresh x n : Nat) (p : Pass) (h : p.st = .idle) : spoil fresh x n p = p := by
  rw [spoil, Pass.open_, h]; rfl

theorem pass_putBytes (c : Core) (fresh x : Nat) (bs : List Byte) (n : Nat) :
    (c.putBytes fresh x bs).pass n = spoil fresh x bs.length (c.pass n) :=
  SMap.get_map ({} : Pass) (spoil fresh x bs.length) (spoil_of_idle _ _ _ _ rfl) c.passes n

theorem keepsSlot_putBytes (n : Nat) (c : Core) (fresh x : Nat) (bs : List Byte) : KeepsSlot n c (c.putBytes fresh x bs) :=
  ⟨rfl, rfl, rfl, rfl, rfl, fun h => (pass_putBytes c fresh x bs n).trans (spoil_of_idle _ _ _ _ h)⟩

theorem coreAt_putAt (s : State) (k x : Nat) (bs : List Byte) : (s.putAt k x bs).coreAt k = (s.coreAt k).putBytes s.fresh x bs := by
  rw [State.putAt]
  split <;> exact State.coreAt_onCoreAt_same s k (fun c => c.putBytes s.fresh x bs)

theorem keepsSlot_putAt (n k : Nat) (s : State) (x : Nat) (bs : List Byte) : KeepsSlot n (s.coreAt k) ((s.putAt k x bs).coreAt k) := by
  rw [coreAt_putAt]; exact keepsSlot_putBytes n _ _ _ _

theorem keepsSlot_raiseAt (n k : Nat) (s : State) (f : CoreFault) : KeepsSlot n (s.coreAt k) ((s.raiseAt k f).coreAt k) := by
  obtain ⟨h, hc⟩ := State.coreAt_raiseAt s k f k
  rw [hc]; exact ⟨rfl, rfl, rfl, rfl, rfl, fun _ => rfl⟩

/-- A change of the core at hand that keeps these keeps them in the state. -/
theorem keepsSlot_onCoreAt {n k : Nat} (s : State) (f : Core → Core) (h : KeepsSlot n (s.coreAt k) (f (s.coreAt k))) :
    KeepsSlot n (s.coreAt k) ((s.onCoreAt k f).coreAt k) := by
  rw [State.coreAt_onCoreAt_same]; exact h

theorem keepsSlot_logRace (n k : Nat) (s : State) (kind : Access) (slot row addr sector : Nat) :
    KeepsSlot n (s.coreAt k) ((logRace s k kind slot row addr sector).coreAt k) := by
  unfold logRace
  dsimp only
  split
  · rw [State.coreAt_setCoreAt_same]; exact ⟨rfl, rfl, rfl, rfl, rfl, fun _ => rfl⟩
  · exact (keepsSlot_putAt n k s _ _).trans (keepsSlot_onCoreAt _ _ ⟨rfl, rfl, rfl, rfl, rfl, fun _ => rfl⟩)

/-- The report of a conflict: a record where `RACECTL` asks for one, the count, and a trap where it asks for one. -/
theorem keepsSlot_conflict (n k : Nat) (s : State) (kind : Access) (slot row addr sec : Nat) :
    KeepsSlot n (s.coreAt k) ((s.conflict k kind slot row addr sec).coreAt k) := by
  have hlog : KeepsSlot n (s.coreAt k)
      ((if (s.coreAt k).racemode.getLsbD 0 then logRace s k kind slot row addr sec else s).coreAt k) := by
    split
    · exact keepsSlot_logRace n k s _ _ _ _ _
    · exact KeepsSlot.refl n _
  have hcount := hlog.trans (keepsSlot_onCoreAt _ (fun c => { c with raceCount := satInc c.raceCount }) ⟨rfl, rfl, rfl, rfl, rfl, fun _ => rfl⟩)
  unfold State.conflict
  dsimp only
  split
  · exact hcount.trans (keepsSlot_raiseAt n k _ _)
  · exact hcount

theorem keepsSlot_touchAt (n k : Nat) (s : State) (kind : Access) (slot row x m : Nat) :
    KeepsSlot n (s.coreAt k) ((s.touchAt k kind slot row x m).coreAt k) := by
  have hown : ∀ c : Core, KeepsSlot n c (shadowOwn c kind (x / 64) (sectors x m)) := fun c => by
    rw [shadowOwn_eq]; exact ⟨rfl, rfl, rfl, rfl, rfl, fun _ => rfl⟩
  have hseen : ∀ t : State, KeepsSlot n (s.coreAt k) (t.coreAt k) → KeepsSlot n (s.coreAt k)
      ((if kind.writes then t.onCoreAt k (fun c => shadowOwn c kind (x / 64) (sectors x m)) else t).coreAt k) := fun t ht => by
    split
    · exact ht.trans (keepsSlot_onCoreAt _ _ (hown _))
    · exact ht
  unfold State.touchAt
  cases conflictAt (s.coreAt k) kind (x / 64) (sectors x m) with
  | none => exact hseen s (KeepsSlot.refl n _)
  | some sec => exact hseen _ (keepsSlot_conflict n k s _ _ _ _ _)

/-- What each step of a fold keeps, the fold keeps. -/
theorem keepsSlot_foldl {β : Type} (n k : Nat) (step : State → β → State) (hstep : ∀ s b, KeepsSlot n (s.coreAt k) ((step s b).coreAt k)) :
    ∀ (l : List β) (s : State), KeepsSlot n (s.coreAt k) ((l.foldl step s).coreAt k) := by
  intro l
  induction l with
  | nil => intro s; exact KeepsSlot.refl n _
  | cons b l ih => intro s; exact (hstep s b).trans (ih (step s b))

theorem keepsSlot_closeWrite (n k : Nat) (p : Pass) (s : State) (w : Nat × List Byte) :
    KeepsSlot n (s.coreAt k) ((s.closeWrite k p w).coreAt k) := by
  unfold State.closeWrite
  dsimp only
  split
  · exact keepsSlot_raiseAt n k s _
  · exact keepsSlot_putAt n k s _ _

theorem keepsSlot_touchClose (n k : Nat) (s : State) (p : Pass) : KeepsSlot n (s.coreAt k) ((s.touchClose k p).coreAt k) := by
  have h1 := keepsSlot_onCoreAt (n := n) (k := k) s (fun c => { c with interval := p.interval }) ⟨rfl, rfl, rfl, rfl, rfl, fun _ => rfl⟩
  have h2 := h1.trans (keepsSlot_foldl n k (fun t r => t.touchAt k .passWrite 3 p.openRow r.1 r.2)
    (fun t r => keepsSlot_touchAt n k t _ _ _ _ _) p.wrote _)
  exact h2.trans (keepsSlot_onCoreAt _ (fun c => { c with interval := (s.coreAt k).interval }) ⟨rfl, rfl, rfl, rfl, rfl, fun _ => rfl⟩)

theorem cores_hostWrite (s : State) (p : Pass) : (s.hostWrite p).1.cores = s.cores := by
  unfold State.hostWrite
  generalize p.exts = es
  suffices h : ∀ (es : List Ext) (q : State × Bool) (step : State × Bool → Ext → State × Bool),
      (∀ q e, (step q e).1.cores = q.1.cores) → (es.foldl step q).1.cores = q.1.cores by
    refine h es (s, false) _ (fun q e => ?_)
    dsimp only
    split <;> rfl
  intro es
  induction es with
  | nil => intro q _ _; rfl
  | cons e es ih => intro q step hs; exact (ih _ step hs).trans (hs q e)

theorem keepsSlot_regs (n : Nat) (c : Core) (r : Regs) : KeepsSlot n c { c with regs := r } := ⟨rfl, rfl, rfl, rfl, rfl, fun _ => rfl⟩

theorem keepsSlot_closeKind (n k : Nat) (s : State) (p : Pass) : KeepsSlot n (s.coreAt k) ((s.closeKind k p).1.coreAt k) := by
  unfold State.closeKind
  dsimp only
  split
  · exact KeepsSlot.refl n _
  · split
    · rw [State.coreAt_onDieAt]
      split
      · exact keepsSlot_onCoreAt s _ (keepsSlot_regs n _ _)
      · exact KeepsSlot.refl n _
    · split
      · have h : (s.hostWrite p).1.coreAt k = s.coreAt k := congrArg (fun m => SMap.get ({} : Core) m k) (cores_hostWrite s p)
        rw [h]; exact KeepsSlot.refl n _
      · exact KeepsSlot.refl n _

/-! ### The close of a pass (R39, R205, R222, R223) -/

/-- The results that a pass writes to scratchpad as it closes: those of a cancelled one are unspecified (R228). -/
def State.closeWrites (s : State) (k : Nat) (p : Pass) : List (Nat × List Byte) :=
  if p.cancelled then p.dstAreas.map (fun r => (r.1, (List.range r.2).map (fun i => Config.freeByte s.fresh (r.1 + i))))
  else p.results (s.coreAt k).scratch

/-- The state in which the writes of a closing pass have been made: its slot is idle. -/
def State.closeWritten (s : State) (k n : Nat) : State :=
  let p := s.passAt k n
  let s1 := s.setPassAt k n p.idle
  if p.kind = .hostOut then s1 else ((s.closeWrites k p).foldl (State.closeWrite k p) s1).touchClose k p

theorem closePass_coreAt (s : State) (k n : Nat) : ∃ tick err, (s.closePass k n).coreAt k =
    ((((s.closeWritten k n).closeKind k (s.passAt k n)).1.coreAt k).tagDone (s.passAt k n).tag ((s.passAt k n).err || err)).flagsArrive tick
      (s.passAt k n).closeFlags :=
  ⟨_, _, State.coreAt_onCoreAt_same _ k _⟩

@[simp] theorem Core.pass_setPass (c : Core) (n m : Nat) (p : Pass) : (c.setPass n p).pass m = if m = n then p else c.pass m := SMap.get_set _ _ _ _ _

theorem keepsSlot_closeWritten (n k : Nat) (s : State) :
    KeepsSlot n ((s.setPassAt k n (s.passAt k n).idle).coreAt k) ((s.closeWritten k n).coreAt k) := by
  unfold State.closeWritten
  dsimp only
  split
  · exact KeepsSlot.refl n _
  · exact (keepsSlot_foldl n k _ (fun t w => keepsSlot_closeWrite n k _ t w) _ _).trans (keepsSlot_touchClose n k _ _)

theorem fpflags_flagsArrive (c : Core) (tick : Nat) (f : Flags) : (c.flagsArrive tick f).fpflags = c.fpflags ||| f := by
  rw [Core.flagsArrive]
  split
  · next h => rw [h]; simp
  · rfl

/-- Flags that arrive change no other register that a pass's close sets. -/
theorem flagsArrive_eq (c : Core) (tick : Nat) (f : Flags) :
    c.flagsArrive tick f = { c with fpflags := (c.flagsArrive tick f).fpflags, arrived := (c.flagsArrive tick f).arrived } := by
  rw [Core.flagsArrive]
  split <;> rfl

/-- What the core holds of a pass that has closed. -/
theorem closePass_slot (s : State) (k n : Nat) :
    let p := s.passAt k n
    let c := s.coreAt k
    let d := (s.closePass k n).coreAt k
    d.pass n = p.idle ∧ SMap.get 0 d.riders p.tag.toNat = SMap.get 0 c.riders p.tag.toNat - 1 ∧
      (SMap.get 0 c.riders p.tag.toNat ≤ 1 → d.tags = c.tags ||| 1#64 <<< p.tag.toNat) ∧
      (p.err = true → d.tagerr = c.tagerr ||| 1#64 <<< p.tag.toNat) ∧ d.fpflags = c.fpflags ||| p.closeFlags := by
  obtain ⟨tick, err, hd⟩ := closePass_coreAt s k n
  have h := (keepsSlot_closeWritten n k s).trans (keepsSlot_closeKind n k _ (s.passAt k n))
  have h0 : (s.setPassAt k n (s.passAt k n).idle).coreAt k = (s.coreAt k).setPass n (s.passAt k n).idle := State.coreAt_onCoreAt_same s k _
  rw [h0] at h
  dsimp only
  rw [hd]
  generalize ((s.closeWritten k n).closeKind k (s.passAt k n)).1.coreAt k = e at h
  generalize s.passAt k n = p at h
  have hp : ((s.coreAt k).setPass n p.idle).pass n = p.idle := by simp
  refine ⟨?_, ?_, fun hr => ?_, fun he => ?_, ?_⟩
  · rw [flagsArrive_eq]; exact (h.slot (by rw [hp]; rfl)).trans hp
  · rw [flagsArrive_eq]
    show SMap.get 0 (SMap.set 0 e.riders p.tag.toNat _) _ = _
    rw [SMap.get_set_same, h.riders]; rfl
  · rw [flagsArrive_eq]
    show (if SMap.get 0 e.riders p.tag.toNat - 1 = 0 then e.tags ||| 1#64 <<< p.tag.toNat else e.tags) = _
    rw [h.riders, h.tags]
    exact if_pos (Nat.sub_eq_zero_of_le hr)
  · rw [flagsArrive_eq]
    show (if (p.err || err) = true then e.tagerr ||| 1#64 <<< p.tag.toNat else e.tagerr) = _
    rw [he, h.tagerr]; rfl
  · rw [fpflags_flagsArrive]
    exact congrArg (· ||| p.closeFlags) h.fpflags

theorem isMat_iff (k : PassKind) : k.isMat = true ↔ k = .matWrite ∨ k = .matAccum := by cases k <;> simp [PassKind.isMat]

/-- The flags of a close in the terms of the statement (R39). -/
theorem closeFlags_eq (p : Pass) : p.closeFlags = if p.cancelled = true then 0
    else if p.kind = .matWrite ∨ p.kind = .matAccum then (if (List.range p.groups).any p.badBurst = true then 0x4000#16 else 0)
    else if p.kind = .filt ∧ p.se < p.selected.length then 0x8000#16 else 0 := by
  simp only [Pass.closeFlags, isMat_iff, Bool.and_eq_true, decide_eq_true_eq]
  rfl

/-! ### The result of a `PSCAN.COUNT` (R233) -/

/-- Without a mode the race detector counts conflicts and notes writers, and leaves the scratchpad alone. -/
theorem scratch_touchAt_of_racemode (s : State) (k : Nat) (kind : Access) (slot row x m : Nat) (h : (s.coreAt k).racemode = 0) :
    ((s.touchAt k kind slot row x m).coreAt k).scratch = (s.coreAt k).scratch := by
  have hseen : ∀ t : State, (t.coreAt k).scratch = (s.coreAt k).scratch →
      ((if kind.writes then t.onCoreAt k (fun c => shadowOwn c kind (x / 64) (sectors x m)) else t).coreAt k).scratch = (s.coreAt k).scratch := by
    intro t ht
    split
    · rw [State.coreAt_onCoreAt_same, shadowOwn_eq]; exact ht
    · exact ht
  unfold State.touchAt
  cases conflictAt (s.coreAt k) kind (x / 64) (sectors x m) with
  | none => exact hseen s rfl
  | some sec =>
    refine hseen _ ?_
    simp [State.conflict, h]

theorem scratch_touchClose_of_racemode (n k : Nat) (s : State) (p : Pass) (h : (s.coreAt k).racemode = 0) :
    ((s.touchClose k p).coreAt k).scratch = (s.coreAt k).scratch := by
  suffices hf : ∀ (l : List (Nat × Nat)) (t : State), (t.coreAt k).racemode = 0 →
      ((l.foldl (fun t r => t.touchAt k .passWrite 3 p.openRow r.1 r.2) t).coreAt k).scratch = (t.coreAt k).scratch by
    unfold State.touchClose
    dsimp only
    rw [State.coreAt_onCoreAt_same]
    refine (hf _ _ ?_).trans ?_
    · rw [State.coreAt_onCoreAt_same]; exact h
    · rw [State.coreAt_onCoreAt_same]
  intro l
  induction l with
  | nil => intro t _; rfl
  | cons r l ih =>
    intro t ht
    have hk := keepsSlot_touchAt n k t .passWrite 3 p.openRow r.1 r.2
    exact (ih _ (hk.racemode.trans ht)).trans (scratch_touchAt_of_racemode t k _ _ _ _ _ ht)

/-- One write of a closing pass that takes place: the bytes as they are where the program has spoilt none. -/
theorem scratch_closeWrite (k : Nat) (p : Pass) (s : State) (w : Nat × List Byte) (hb : badPartly (s.coreAt k).badScratch w.1 w.2.length = false)
    (ha : p.addsTo w.1 = false) (hs : p.spoilt = []) :
    ((s.closeWrite k p w).coreAt k).scratch = Memory.setBytes (s.coreAt k).scratch w.1 w.2 := by
  unfold State.closeWrite
  simp only [hb, ha, hs, Bool.false_and, Bool.or_false, Bool.false_eq_true, if_false, if_true]
  exact congrArg Core.scratch (coreAt_putAt s k w.1 w.2)

/-- The 8 bytes of a `PSCAN.COUNT` hold the number of elements selected. -/
theorem closePass_scanCount (s : State) (k n : Nat) (hk : (s.passAt k n).kind = .scanCount) (hc : (s.passAt k n).cancelled = false)
    (hs : (s.passAt k n).spoilt = []) (hr : (s.coreAt k).racemode = 0) (hb : badPartly (s.coreAt k).badScratch (s.passAt k n).sd 8 = false) :
    Memory.load ((s.closePass k n).coreAt k).scratch (s.passAt k n).sd 8 = (s.passAt k n).selected.length % 2 ^ 64 := by
  obtain ⟨tick, err, hd⟩ := closePass_coreAt s k n
  rw [hd, flagsArrive_eq]
  generalize hp : s.passAt k n = p at *
  have hkind : ∀ t : State, t.closeKind k p = (t, false) := fun t => by
    simp [State.closeKind, hk, PassKind.isUpdo, PassKind.isMat]
  have hws : s.closeWrites k p = [(p.sd, leBytes 8 p.selected.length)] := by
    simp [State.closeWrites, hc, Pass.results, hk, PassKind.isScan, Pass.scanResult]
  have h0 : (s.setPassAt k n p.idle).coreAt k = (s.coreAt k).setPass n p.idle := State.coreAt_onCoreAt_same s k _
  have hw : s.closeWritten k n = ((s.setPassAt k n p.idle).closeWrite k p (p.sd, leBytes 8 p.selected.length)).touchClose k p := by
    simp only [State.closeWritten, hp, hk, hws, List.foldl_cons, List.foldl_nil]; rfl
  have hscr := scratch_closeWrite k p (s.setPassAt k n p.idle) (p.sd, leBytes 8 p.selected.length)
    (by rw [h0, length_leBytes]; exact hb) (by simp [Pass.addsTo, hk]) hs
  have hrm : (((s.setPassAt k n p.idle).closeWrite k p (p.sd, leBytes 8 p.selected.length)).coreAt k).racemode = 0 := by
    rw [(keepsSlot_closeWrite n k p _ _).racemode, h0]; exact hr
  show Memory.load (((s.closeWritten k n).closeKind k p).1.coreAt k).scratch p.sd 8 = _
  rw [hkind, hw, scratch_touchClose_of_racemode n k _ p hrm, hscr, h0, Memory.setBytes_leBytes, Memory.load_store]
  norm_num

/-! ### The instructions on open passes and on tags (R243, R244, R248, R249) -/

/-- A write of a slot of the core in hand changes that slot and nothing else. -/
theorem onCore_setPass (s : State) (n : Nat) (f : Core → Pass) : let t := s.onCore (fun c => c.setPass n (f c))
    alone s t ∧ t.core = { s.core with passes := t.core.passes } ∧ (∀ m, m ≠ n → t.core.pass m = s.core.pass m) ∧ t.core.pass n = f s.core := by
  dsimp only
  rw [State.core_onCore]
  exact ⟨alone_onCore s _, rfl, fun m hm => by simp [hm], by simp⟩

/-- A pass that has opened reopens with its next visit no earlier than one opened now (R220). -/
theorem reopened_of_opened (s : State) (p : Pass) (row : Nat) (hf : p.frozen = false) (ho : p.atOpen = false) :
    s.reopened p row = { p with
      st := .riding, trap := none, page := none, stopParked := false, row := row
      lead := if (s.dieAt (keyDie p.seg)).holdTick then 2 else 1 } := by
  simp only [State.reopened, ho, hf, Bool.false_eq_true, if_false]; rfl

/-- The tag mask keeps the bits of the tags that a core has. -/
theorem getLsbD_tagMask (s : State) (k : Nat) (v : Word) (i : Nat) : (s.tagMask k v).getLsbD i = (v.getLsbD i && decide (i < s.tagCount k)) := by
  rw [State.tagMask, BitVec.getLsbD_and, BitVec.getLsbD_ofNat, Nat.testBit_two_pow_sub_one]
  by_cases h : i < 64
  · simp [h]
  · simp [BitVec.getLsbD_of_ge v i (by omega)]

/-- The lowest bit of a mask, or 64. -/
theorem head?_maskTags (v : Word) : let m := (maskTags v).head?.getD 64
    m ≤ 64 ∧ (∀ i, i < m → v.getLsbD i = false) ∧ (m < 64 → v.getLsbD m = true) := by
  have hf : (maskTags v).head? = (List.range 64).find? v.getLsbD := List.head?_filter
  dsimp only
  rw [hf]
  cases h : (List.range 64).find? v.getLsbD with
  | none =>
    refine ⟨le_refl _, fun i hi => ?_, fun hlt => absurd hlt (lt_irrefl _)⟩
    simpa using List.find?_eq_none.mp h i (List.mem_range.mpr hi)
  | some m =>
    obtain ⟨hm, hlt, hlow⟩ := List.find?_range_eq_some.mp h
    exact ⟨(List.mem_range.mp hlt).le, fun i hi => by simpa using hlow i hi, fun _ => hm⟩

/-! ### Host lines (R242) -/

theorem linesOf_pairwise (place len : Nat) : (linesOf place len).Pairwise (· < ·) := by
  unfold linesOf
  split
  · exact List.Pairwise.nil
  · exact List.pairwise_map.mpr (List.pairwise_lt_range.imp (fun h => by omega))

/-- A line of a `PHOST` that has not closed is the next one to be answered. -/
def Pass.awaits (p : Pass) (line : Nat) : Prop :=
  line ∈ p.lines ∧ line ∉ p.hostSeen ∧ (∀ l ∈ p.lines, l < line → l ∈ p.hostSeen) ∧ p.st ≠ .idle ∧ p.cancelled = false ∧
    (p.kind = .hostIn ∨ p.kind = .hostOut)

/-- The lowest line that has had no answer is the one that the step finds. -/
theorem Pass.awaits_find {p : Pass} {line : Nat} (h : p.awaits line) : p.lines.find? (fun l => !(p.hostSeen.contains l)) = some line := by
  obtain ⟨hl, hn, hlow, -⟩ := h
  exact find?_eq_some_of_pairwise_lt _ line (by simpa using hn) _ (linesOf_pairwise _ _) hl (fun l h1 h2 => by simpa using hlow l h1 h2)

/-- A write of a slot of the core at a key changes that slot and nothing else. -/
theorem setPassAt_slot (s : State) (k n : Nat) (p : Pass) : ((s.setPassAt k n p).coreAt k).pass n = p ∧
    (s.setPassAt k n p).coreAt k = { s.coreAt k with passes := ((s.setPassAt k n p).coreAt k).passes } ∧
    (∀ j, j ≠ k → (s.setPassAt k n p).coreAt j = s.coreAt j) := by
  have h : (s.setPassAt k n p).coreAt k = (s.coreAt k).setPass n p := State.coreAt_onCoreAt_same s k _
  rw [h]
  exact ⟨by simp, rfl, fun j hj => State.coreAt_onCoreAt_other s k j _ hj⟩

/-- A `PHOST` that awaits a line is open. -/
theorem Pass.awaits_open {p : Pass} {line : Nat} (h : p.awaits line) :
    (!(p.open_ && (decide (p.kind = .hostIn) || decide (p.kind = .hostOut)) && !p.cancelled)) = false := by
  obtain ⟨-, -, -, ho, hc, hk⟩ := h
  rcases hk with hk | hk
  · simp [Pass.open_, ho, hc, hk]
  · simp [Pass.open_, ho, hc, hk]

/-- A line that the host refuses to a `PHOST` sets its ERR bit at the close. -/
theorem phostLine_refused (die : DieNo) (core : CoreNo) (slot : SlotNo) (s : State) (line : Nat)
    (h : (s.passAt (coreKey die core) slot.toNat).awaits line) :
    exec (.phostLine die core slot .refused) s =
      .next (s.setPassAt (coreKey die core) slot.toNat ((s.passAt (coreKey die core) slot.toNat).refuse line)) := by
  show execPhostLine die core slot .refused s = _
  simp only [execPhostLine, Pass.awaits_open h, Pass.awaits_find h, Bool.false_eq_true, if_false]

/-- A line of a `PHOST.OUT` that the host takes. -/
theorem phostLine_taken (die : DieNo) (core : CoreNo) (slot : SlotNo) (s : State) (line : Nat)
    (h : (s.passAt (coreKey die core) slot.toNat).awaits line) (ho : (s.passAt (coreKey die core) slot.toNat).kind = .hostOut) :
    exec (.phostLine die core slot .taken) s = .next (s.setPassAt (coreKey die core) slot.toNat
      { s.passAt (coreKey die core) slot.toNat with hostSeen := (s.passAt (coreKey die core) slot.toNat).hostSeen ++ [line] }) := by
  show execPhostLine die core slot .taken s = _
  simp only [execPhostLine, Pass.awaits_open h, Pass.awaits_find h, Bool.false_eq_true, if_false]
  exact if_pos ho

/-- A line of a `PHOST.IN` of a context without protection comes in as the host sends it, and stands in the host's memory. -/
theorem phostLine_line (die : DieNo) (core : CoreNo) (slot : SlotNo) (s : State) (line : Nat) (bs : List Byte)
    (h : (s.passAt (coreKey die core) slot.toNat).awaits line) (hi : (s.passAt (coreKey die core) slot.toNat).kind = .hostIn)
    (hb : bs.length = 64) (hp : s.isProtected (s.passAt (coreKey die core) slot.toNat).ctx = false) :
    exec (.phostLine die core slot (.line bs)) s = .next ((s.setPassAt (coreKey die core) slot.toNat
      { s.passAt (coreKey die core) slot.toNat with
        hostSeen := (s.passAt (coreKey die core) slot.toNat).hostSeen ++ [line]
        hostGot := Memory.setBytes (s.passAt (coreKey die core) slot.toNat).hostGot (64 * line) bs }).onMod
      (fun m => { m with hostMem := Memory.setBytes m.hostMem (64 * line) bs })) := by
  show execPhostLine die core slot (.line bs) s = _
  simp only [execPhostLine, Pass.awaits_open h, Pass.awaits_find h, Bool.false_eq_true, if_false]
  refine (if_neg (by simp [hi, hb])).trans ?_
  simp only [State.takeLine, hp, Bool.false_eq_true, if_false]

/-- Settles O42: a write of a slot changes that slot alone (`onCore_setPass`, `setPassAt_slot`), a close leaves what `closePass_slot` says, with the
flags of `closeFlags_eq` and the count of `closePass_scanCount`, and an answer of the host is a line refused, taken or sent
(`phostLine_refused`, `phostLine_taken`, `phostLine_line`). -/
theorem passSlots : Obligations.PassSlots := by
  intro s die core slot d a bs
  refine ⟨fun hn hp hf ho => ?_, fun h => ?_, fun h => ?_, fun h => ?_, ?_, ⟨_, rfl, becomes_onCore s _⟩, fun hst hin => ?_, fun t0 l hr => ?_,
    fun line hl hn hlow hst hc => ⟨fun hk => ?_, fun hk => ?_, fun hk hb hp => ?_⟩⟩
  · obtain ⟨halone, hcore, hother, hslot⟩ := onCore_setPass s ((s.core.rdS a).toNat % 32)
      (fun c => s.reopened (s.core.pass ((s.core.rdS a).toNat % 32)) c.pos.row)
    exact ⟨_, if_pos ⟨hn, hp, hf⟩, halone, hcore, hother, hslot.trans (reopened_of_opened s _ _ hf ho)⟩
  · refine if_neg (fun ⟨hn, hp, hf⟩ => ?_)
    rcases h with h | h | h
    · exact absurd hn (Nat.not_lt.mpr h)
    · exact h hp
    · exact absurd (h.symm.trans hf) (by decide)
  · exact ⟨_, if_pos h, onCore_setPass s _ (fun _ => (s.core.pass ((s.core.rdS a).toNat % 32)).cancel)⟩
  · refine if_neg (fun hc => ?_)
    rcases h with h | h
    · rw [h] at hc; exact absurd hc (by decide)
    · rw [h] at hc; exact absurd hc (by decide)
  · obtain ⟨hm, hlow, hit⟩ := head?_maskTags (s.core.rdS a &&& s.tagMask s.cur s.core.tags)
    have hbit : ∀ i, (s.core.rdS a &&& s.tagMask s.cur s.core.tags).getLsbD i = true ↔
        (s.core.rdS a).getLsbD i = true ∧ s.core.tags.getLsbD i = true ∧ i < s.tagCount s.cur := fun i => by
      simp [getLsbD_tagMask]
    exact ⟨_, _, rfl, setsS_setS s s.fresh d _, hm, fun i hi hh => Bool.false_ne_true ((hlow i hi).symm.trans ((hbit i).mpr hh)),
      fun h => (hbit _).mp (hit h)⟩
  · obtain ⟨hslot, hriders, htags, herr, hflags⟩ := closePass_slot s (coreKey die core) slot.toNat
    refine ⟨_, if_pos ⟨hst, hin⟩, hslot, hriders, htags, herr, by rw [hflags, closeFlags_eq], fun hk hc hs hm hb => ?_⟩
    exact closePass_scanCount s _ _ hk hc hs hm hb
  · have hexec : exec (.refusedOpen die core) s = .next (s.onCoreAt (coreKey die core) (fun c => { c with refusals := l }.tagDone t0 true)) := by
      show execRefusedOpen die core s = _
      simp only [execRefusedOpen, hr]
    refine ⟨_, hexec, rfl, ⟨?_, fun j hj => State.coreAt_onCoreAt_other s _ j _ hj, rfl, rfl⟩, fun hle => ?_⟩
    · rw [State.coreAt_onCoreAt_same]; rfl
    · rw [State.coreAt_onCoreAt_same]; exact if_pos (Nat.sub_eq_zero_of_le hle)
  · obtain ⟨h1, h2, h3⟩ := setPassAt_slot s (coreKey die core) slot.toNat ((s.passAt (coreKey die core) slot.toNat).refuse line)
    exact ⟨_, phostLine_refused die core slot s line ⟨hl, hn, hlow, hst, hc, hk⟩, rfl, h1, h2, h3, rfl, rfl⟩
  · obtain ⟨h1, h2, h3⟩ := setPassAt_slot s (coreKey die core) slot.toNat
      { s.passAt (coreKey die core) slot.toNat with hostSeen := (s.passAt (coreKey die core) slot.toNat).hostSeen ++ [line] }
    exact ⟨_, phostLine_taken die core slot s line ⟨hl, hn, hlow, hst, hc, .inr hk⟩ hk, rfl, h1, h2, h3, rfl, rfl⟩
  · refine ⟨_, phostLine_line die core slot s line bs ⟨hl, hn, hlow, hst, hc, .inl hk⟩ hk hb hp, ?_⟩
    obtain ⟨h1, h2, h3⟩ := setPassAt_slot s (coreKey die core) slot.toNat
      { s.passAt (coreKey die core) slot.toNat with
        hostSeen := (s.passAt (coreKey die core) slot.toNat).hostSeen ++ [line]
        hostGot := Memory.setBytes (s.passAt (coreKey die core) slot.toNat).hostGot (64 * line) bs }
    simp only [State.coreAt_onMod]
    refine ⟨⟨?_, h2, h3, rfl, rfl⟩, fun y => ?_, rfl, fun y => ?_⟩
    · rw [h1]
    · rw [h1, ← hb]; exact Memory.byte_setBytes _ _ _ _
    · rw [← hb]; exact Memory.byte_setBytes _ _ _ _

end Sys2Proof.Machine
end

section
/-! PROOFS. The scope: BFP bursts, packed trits and the stable sorts of the V slot. -/

namespace Sys2Proof.Machine
open Sys2Proof.Says

/-! ### Several vectors of one instruction (R151, R154) -/

/-- Vectors have been given one after another: registers take their elements, directions their entries, and nothing else has changed. -/
structure PutsV (s t : State) (outs : List (Reg × Elems)) : Prop where
  alone : alone s t
  core : t.core = { s.core with regs := { s.core.regs with v := t.core.regs.v }, meshSend := t.core.meshSend }
  elem : ∀ r i, i < 64 → SMap.get 0 t.core.regs.v (r.toNat * 64 + i) =
    ((outs.find? (fun o => o.1 == r && !(s.isDir r))).bind (fun o => o.2 i)).getD (SMap.get 0 s.core.regs.v (r.toNat * 64 + i))
  sent : ∀ dir, SMap.get [] t.core.meshSend dir = SMap.get [] s.core.meshSend dir ++
    (outs.filter (fun o => s.isDir o.1 && dirOf o.1 == dir)).map (fun o =>
      ({ words := (List.range 64).map (fun i => (o.2 i).getD 0), id := s.core.beats } : MeshEntry))

theorem putsV_nil (s : State) : PutsV s s [] := ⟨⟨fun _ _ => rfl, rfl, rfl, rfl, rfl, rfl⟩, rfl, fun _ _ _ => rfl, fun _ => by simp⟩

/-- An entry of a direction in terms of the elements given. -/
theorem entryWords (n : Nat) (pick : Nat → Bool) (f : Nat → W32) :
    (List.range 64).map (fun i => if decide (i < n) && pick i then f i else 0) =
      (List.range 64).map (fun i => (if i < n ∧ pick i = true then some (f i) else none).getD 0) := by
  refine List.map_congr_left (fun i _ => ?_)
  by_cases h : i < n ∧ pick i = true
  · simp [h]
  · rw [if_neg h, if_neg (by simpa using h)]; rfl

theorem alone_trans {s t u : State} (h : alone s t) (g : alone t u) : alone s u := by
  obtain ⟨hc, hs, hd, hm, hcur, ht⟩ := h
  obtain ⟨gc, gs, gd, gm, gcur, gt⟩ := g
  exact ⟨fun k hk => (gc k (by rw [hcur]; exact hk)).trans (hc k hk), gs.trans hs, gd.trans hd, gm.trans hm, gcur.trans hcur, gt.trans ht⟩

/-- The same registers name directions. -/
theorem PutsV.isDir {s t : State} {outs : List (Reg × Elems)} (h : PutsV s t outs) (r : Reg) : t.isDir r = s.isDir r := by
  obtain ⟨-, -, -, -, hcur, -⟩ := h.alone
  have hmesh : t.core.mesh = s.core.mesh := by rw [h.core]
  rw [State.isDir, State.isDir, State.meshOn, State.meshOn, State.sup, State.sup, hcur, hmesh]

/-- One more vector, in a register that none of those before has taken. -/
theorem putsV_vdst {s t : State} {outs : List (Reg × Elems)} (h : PutsV s t outs) (d : Reg) (n : Nat) (pick : Nat → Bool) (f : Nat → W32)
    (hn : n ≤ 64) (hd : d ∉ outs.map Prod.fst) :
    PutsV s (t.vdst d n pick f) (outs ++ [(d, fun i => if i < n ∧ pick i = true then some (f i) else none)]) := by
  have hc := vdst_core t d n pick f
  rw [h.isDir] at hc
  have hf : ∀ r : Reg, r ≠ d → ∀ g : Elems, (outs ++ [(d, g)]).find? (fun o => o.1 == r && !(s.isDir r)) =
      outs.find? (fun o => o.1 == r && !(s.isDir r)) := fun r hr g => by
    have hdr : (d == r) = false := by simpa using Ne.symm hr
    simp [List.find?_append, hdr]
  have hnone : outs.find? (fun o => o.1 == d && !(s.isDir d)) = none :=
    List.find?_eq_none.mpr (fun o ho hx => hd (List.mem_map.mpr ⟨o, ho, by simpa using (Bool.and_eq_true_iff.mp hx).1⟩))
  refine ⟨alone_trans h.alone (vdst_alone t d n pick f), ?_, fun r i hi => ?_, fun dir => ?_⟩
  · rw [hc]
    split
    · rw [Core.meshPut, h.core]
    · rw [h.core]
  · rw [hc]
    by_cases hdir : s.isDir d = true
    · -- the registers are as they were
      rw [if_pos hdir]
      refine (h.elem r i hi).trans ?_
      by_cases hr : r = d
      · subst hr; simp [List.find?_append, hdir]
      · rw [hf r hr]
    · rw [if_neg hdir]
      refine (get_putElems_reg _ _ _ _ _ _ _ _ hn hi).trans ?_
      by_cases hr : r = d
      · subst hr
        have hdir' : s.isDir r = false := by simpa using hdir
        have ht : SMap.get 0 t.core.regs.v (r.toNat * 64 + i) = SMap.get 0 s.core.regs.v (r.toNat * 64 + i) := by
          rw [h.elem r i hi, hnone]; rfl
        rw [List.find?_append, hnone, ht]
        simp only [true_and, hdir', beq_self_eq_true, Bool.not_false, Bool.and_self, List.find?_cons_of_pos, Option.none_or, Option.bind_some]
        split <;> rfl
      · rw [if_neg (fun q => hr (BitVec.eq_of_toNat_eq q.1)), hf r hr]
        exact h.elem r i hi
  · rw [List.filter_append, List.map_append, ← List.append_assoc, ← h.sent dir, hc]
    by_cases hdir : s.isDir d = true
    · rw [if_pos hdir, entryWords]
      have hb : t.core.beats = s.core.beats := by rw [h.core]
      by_cases hk : dir = dirOf d
      · subst hk
        simp [Core.meshPut, hdir, hb]
      · simp [Core.meshPut, SMap.get_set, hdir, hk, Ne.symm hk]
    · rw [if_neg hdir]; simp [hdir]

/-- The end of a V instruction that has given vectors. -/
theorem setsV_of_putsV {s t : State} {outs : List (Reg × Elems)} (h : PutsV s t outs) (reads : List Reg) (lat : Nat) (fl : Flags)
    (fly : Option Fly) : setsV s (s.vEnd t reads lat fl fly) reads outs lat fl := by
  obtain ⟨hdone, hregs, hsend⟩ := vEnd_done s t reads lat fl fly h.alone (by rw [h.core])
  refine ⟨hdone, ?_, fun r i hi => ?_, fun dir => ?_⟩
  · rw [hregs, h.core]
  · rw [laterV, laterV, Core.rdV_beginRow, Core.rdV_beginRow, hregs]; exact h.elem r i hi
  · rw [hsend]; exact h.sent dir

/-! ### Sorts (R171) -/

/-- The order in which a sort leaves its entries: by key, and entries of one key by their place. -/
def byKeyThenPlace (a b : Nat × Nat × W32) : Prop := toLex (a.1, a.2.1) ≤ toLex (b.1, b.2.1)

theorem byKeyThenPlace_iff (a b : Nat × Nat × W32) : byKeyThenPlace a b ↔ a.1 < b.1 ∨ a.1 = b.1 ∧ a.2.1 ≤ b.2.1 :=
  Prod.Lex.toLex_le_toLex

open Classical in
/-- A sort of entries whose places ascend is the insertion sort by key and place: an entry is put before those of its key, which come after it. -/
theorem sortKeys_eq_insertionSort : ∀ xs : List (Nat × Nat × W32), xs.Pairwise (fun a b => a.2.1 ≤ b.2.1) →
    sortKeys xs = xs.insertionSort byKeyThenPlace := by
  have hins : ∀ (x : Nat × Nat × W32) (ys : List (Nat × Nat × W32)), (∀ y ∈ ys, x.2.1 ≤ y.2.1) →
      insertKey x ys = ys.orderedInsert byKeyThenPlace x := by
    intro x ys
    induction ys with
    | nil => intro _; rfl
    | cons y ys ih =>
      intro h
      have hxy : byKeyThenPlace x y ↔ x.1 ≤ y.1 := by
        have := h y List.mem_cons_self
        rw [byKeyThenPlace_iff]; omega
      rw [insertKey, List.orderedInsert_cons, ih (fun z hz => h z (List.mem_cons_of_mem _ hz))]
      exact if_congr hxy.symm rfl rfl
  intro xs
  induction xs with
  | nil => intro _; rfl
  | cons x xs ih =>
    intro h
    obtain ⟨hx, hxs⟩ := List.pairwise_cons.mp h
    have hs : sortKeys (x :: xs) = insertKey x (sortKeys xs) := rfl
    rw [hs, ih hxs, List.insertionSort_cons]
    exact hins x _ (fun y hy => hx y ((List.mem_insertionSort _).mp hy))

/-- The entries of a sort of `n` elements: the key of each, its place, and itself. -/
def entries (key : W32 → Nat) (x : Nat → W32) (n : Nat) : List (Nat × Nat × W32) := (List.range n).map (fun i => (key (x i), i, x i))

theorem entries_ascend (key : W32 → Nat) (x : Nat → W32) (n : Nat) : (entries key x n).Pairwise (fun a b => a.2.1 ≤ b.2.1) :=
  List.pairwise_map.mpr List.pairwise_le_range

theorem sortKeys_entries_perm (key : W32 → Nat) (x : Nat → W32) (n : Nat) : (sortKeys (entries key x n)).Perm (entries key x n) := by
  classical
  rw [sortKeys_eq_insertionSort _ (entries_ascend key x n)]
  exact List.perm_insertionSort _ _

theorem sortKeys_entries_pairwise (key : W32 → Nat) (x : Nat → W32) (n : Nat) : (sortKeys (entries key x n)).Pairwise byKeyThenPlace := by
  classical
  have htotal : Std.Total byKeyThenPlace := ⟨fun a b => le_total (toLex (a.1, a.2.1)) (toLex (b.1, b.2.1))⟩
  have htrans : IsTrans _ byKeyThenPlace := ⟨fun _ _ _ h g => le_trans (α := Nat ×ₗ Nat) h g⟩
  rw [sortKeys_eq_insertionSort _ (entries_ascend key x n)]
  exact List.pairwise_insertionSort _ _

/-- The place that stands at position `i` after a sort. -/
def sortedPlace (key : W32 → Nat) (x : Nat → W32) (n i : Nat) : Nat := ((sortKeys (entries key x n)).getD i (0, 0, 0)).2.1

theorem length_sortKeys_entries (key : W32 → Nat) (x : Nat → W32) (n : Nat) : (sortKeys (entries key x n)).length = n := by
  rw [(sortKeys_entries_perm key x n).length_eq, entries, List.length_map, List.length_range]

/-- The entry at a position is the one of its place. -/
theorem getElem_sortKeys_entries (key : W32 → Nat) (x : Nat → W32) (n i : Nat) (hi : i < (sortKeys (entries key x n)).length) :
    sortedPlace key x n i < n ∧
      (sortKeys (entries key x n))[i] = (key (x (sortedPlace key x n i)), sortedPlace key x n i, x (sortedPlace key x n i)) := by
  have hm := (sortKeys_entries_perm key x n).mem_iff.mp (List.getElem_mem hi)
  obtain ⟨j, hj, he⟩ := List.mem_map.mp hm
  have hp : sortedPlace key x n i = j := by
    rw [sortedPlace, List.getD_eq_getElem _ _ hi, ← he]
  rw [hp]
  exact ⟨List.mem_range.mp hj, he.symm⟩

theorem sortedPlace_injective (key : W32 → Nat) (x : Nat → W32) (n i j : Nat) (hi : i < n) (hj : j < n)
    (h : sortedPlace key x n i = sortedPlace key x n j) : i = j := by
  have hnd : (sortKeys (entries key x n)).Nodup :=
    (sortKeys_entries_perm key x n).nodup_iff.mpr (List.nodup_range.map (fun a b h => congrArg (fun e => e.2.1) h))
  rw [← length_sortKeys_entries key x n] at hi hj
  have he : (sortKeys (entries key x n))[i] = (sortKeys (entries key x n))[j] := by
    rw [(getElem_sortKeys_entries key x n i hi).2, (getElem_sortKeys_entries key x n j hj).2, h]
  exact (hnd.getElem_inj_iff).mp he

/-- Positions in order hold elements in order, and those of one key by their places. -/
theorem sortedPlace_ordered (key : W32 → Nat) (x : Nat → W32) (n i j : Nat) (hij : i < j) (hj : j < n) :
    key (x (sortedPlace key x n i)) ≤ key (x (sortedPlace key x n j)) ∧
      (key (x (sortedPlace key x n j)) ≤ key (x (sortedPlace key x n i)) → sortedPlace key x n i < sortedPlace key x n j) := by
  have hl := length_sortKeys_entries key x n
  have hp := List.pairwise_iff_getElem.mp (sortKeys_entries_pairwise key x n) i j (by omega) (by omega) hij
  have hne : sortedPlace key x n i ≠ sortedPlace key x n j := fun h => absurd (sortedPlace_injective key x n i j (by omega) hj h) (by omega)
  rw [(getElem_sortKeys_entries key x n i (by omega)).2, (getElem_sortKeys_entries key x n j (by omega)).2, byKeyThenPlace_iff] at hp
  dsimp only at hp
  omega

/-- The elements below `n`, all of them picked. -/
theorem picked_eq_below (n : Nat) (f : Nat → W32) : (fun i => if i < n ∧ (fun _ : Nat => true) i = true then some (f i) else none) = below n f := by
  funext i; simp [below]

theorem below_congr {n : Nat} {f g : Nat → W32} (h : ∀ i, i < n → f i = g i) : below n f = below n g := by
  funext i
  by_cases hi : i < n
  · simp only [below, if_pos hi, h i hi]
  · simp only [below, if_neg hi]

/-- A vector of `n` elements in a register that none before has taken. -/
theorem putsV_below {s t : State} {outs : List (Reg × Elems)} (h : PutsV s t outs) (d : Reg) (n : Nat) (f : Nat → W32) (hn : n ≤ 64)
    (hd : d ∉ outs.map Prod.fst) : PutsV s (t.vdst d n (fun _ => true) f) (outs ++ [(d, below n f)]) := by
  rw [← picked_eq_below]; exact putsV_vdst h d n _ f hn hd

/-- A sort gives its destination the elements and the register after it their places. -/
theorem sortV_sets (s : State) (d a : Reg) (fold : BitVec 2) (key : W32 → Nat) (h : leads s [d, d + 1, a]) :
    ∃ t, sortV s d a fold key = .next t ∧ setsV s t [a]
      [(d, below (foldN fold) (fun i => s.vsrc a (sortedPlace key (s.vsrc a) (foldN fold) i))),
        (d + 1, below (foldN fold) (fun i => BitVec.ofNat 32 (sortedPlace key (s.vsrc a) (foldN fold) i)))] 24 0 := by
  have hne : d + 1 ∉ [d] := by simp
  have he : ∀ i, i < foldN fold → ((sortKeys (entries key (s.vsrc a) (foldN fold))).getD i (0, 0, 0)).2.2 =
      s.vsrc a (sortedPlace key (s.vsrc a) (foldN fold) i) := fun i hi => by
    rw [← length_sortKeys_entries key (s.vsrc a) (foldN fold)] at hi
    rw [List.getD_eq_getElem _ _ hi, (getElem_sortKeys_entries key (s.vsrc a) _ i hi).2]
  rw [← below_congr he]
  have hputs := putsV_below (putsV_below (putsV_nil s) d (foldN fold)
    (fun i => ((sortKeys (entries key (s.vsrc a) (foldN fold))).getD i (0, 0, 0)).2.2) (foldN_le fold) List.not_mem_nil) (d + 1) (foldN fold)
    (fun i => BitVec.ofNat 32 ((sortKeys (entries key (s.vsrc a) (foldN fold))).getD i (0, 0, 0)).2.1) (foldN_le fold) hne
  exact ⟨_, vGuard_leads _ _ _ h, setsV_of_putsV hputs _ _ _ _⟩

/-! ### Orders of the sorts -/

/-- A word with its highest bit inverted, as a number. -/
theorem toNat_xor_msb (x : W32) : (x ^^^ 0x80000000#32).toNat = if x.getLsbD 31 then x.toNat - 2 ^ 31 else x.toNat + 2 ^ 31 := by
  have hlt := x.isLt
  have hdiv : (x.toNat ^^^ 2 ^ 31) / 2 ^ 31 = x.toNat / 2 ^ 31 ^^^ 2 ^ 31 / 2 ^ 31 := Nat.xor_div_two_pow
  have hmod : (x.toNat ^^^ 2 ^ 31) % 2 ^ 31 = x.toNat % 2 ^ 31 ^^^ 2 ^ 31 % 2 ^ 31 := Nat.xor_mod_two_pow
  have hbit : x.getLsbD 31 = decide (x.toNat / 2 ^ 31 % 2 = 1) := by rw [← BitVec.testBit_toNat, Nat.testBit_eq_decide_div_mod_eq]
  rw [BitVec.toNat_xor, hbit, show (0x80000000#32).toNat = 2 ^ 31 by decide]
  rw [Nat.div_self (by norm_num)] at hdiv
  rw [Nat.mod_self, Nat.xor_zero] at hmod
  generalize x.toNat ^^^ 2 ^ 31 = z at *
  have hq : x.toNat / 2 ^ 31 = 0 ∨ x.toNat / 2 ^ 31 = 1 := by omega
  rcases hq with hq | hq
  · rw [hq, show 0 ^^^ 1 = 1 by decide] at hdiv
    rw [hq, if_neg (by decide)]; omega
  · rw [hq, Nat.xor_self] at hdiv
    rw [hq, if_pos (by decide)]; omega

theorem getLsbD_31 (x : W32) : x.getLsbD 31 = decide (2147483648 ≤ x.toNat) := by
  have hlt := x.isLt
  rw [← BitVec.testBit_toNat, Nat.testBit_eq_decide_div_mod_eq, decide_eq_decide]
  omega

theorem keyS_eq (x : W32) : (keyS x : Int) = x.toInt + 2147483648 := by
  have hlt := x.isLt
  simp only [keyS, toNat_xor_msb, BitVec.toInt_eq_toNat_cond, getLsbD_31, decide_eq_true_eq]
  split <;> split <;> omega

theorem keyS_le_iff (x y : W32) : keyS x ≤ keyS y ↔ x.sle y = true := by
  have hx := keyS_eq x
  have hy := keyS_eq y
  rw [BitVec.sle_iff_toInt_le]
  omega

theorem keyF_eq (x : W32) : (keyF x : Int) =
    (if x.getLsbD 31 then -((x.toNat % 2 ^ 31 : Nat) : Int) - 1 else (x.toNat : Int)) + 2147483648 := by
  have hlt : x.toNat < 4294967296 := x.isLt
  have hnot : (~~~x).toNat = 4294967295 - x.toNat := BitVec.toNat_not
  simp only [keyF, toNat_xor_msb, hnot, getLsbD_31, decide_eq_true_eq]
  split <;> omega

/-- Each sort's order is that of its key. -/
theorem exec_sorts : ∀ e ∈ sorts, ∃ key : W32 → Nat, (∀ s d a fold, exec (e.1 d a fold) s = sortV s d a fold key) ∧
    ∀ x y, e.2 x y = true ↔ key x ≤ key y := by
  simp only [sorts, List.forall_mem_cons, List.not_mem_nil, false_implies, implies_true, and_true]
  refine ⟨⟨keyS, fun _ _ _ _ => rfl, fun x y => (keyS_le_iff x y).symm⟩,
    ⟨fun x => x.toNat, fun _ _ _ _ => rfl, fun x y => decide_eq_true_iff.trans BitVec.le_def⟩,
    ⟨keyF, fun _ _ _ _ => rfl, fun x y => ?_⟩⟩
  have hx := keyF_eq x
  have hy := keyF_eq y
  rw [decide_eq_true_iff]
  omega

/-! ### Storage formats (R41 to R46, R174, R175) -/

/-- Registers lead somewhere, in whatever order they are named. -/
theorem leads_iff (s : State) (rs : List Reg) : leads s rs ↔ ∀ r ∈ rs, s.isDir r = true → (s.dirTarget s.cur (dirOf r)).isNone = false := by
  simp only [leads, State.badDir, State.dirs, List.any_eq_false, List.mem_dedup, List.mem_map, List.mem_filter, Bool.not_eq_true]
  constructor
  · intro h r hr hd; exact h _ ⟨r, ⟨hr, hd⟩, rfl⟩
  · rintro h _ ⟨r, ⟨hr, hd⟩, rfl⟩; exact h r hr hd

/-- A vector of `m` elements written in the final step (R157). -/
theorem vFinal_below (s : State) (d : Reg) (reads : List Reg) (busy lat m : Nat) (f g : Nat → W32) (fl : Flags) (hm : m ≤ 64)
    (h : leads s (d :: reads)) (hfg : ∀ i, i < m → f i = g i) :
    ∃ t, vFinal s d reads busy lat m (fun _ => true) f fl = .next t ∧ setsV s t reads [(d, below m g)] lat fl := by
  rw [← below_congr hfg, ← picked_eq_below]
  exact vFinal_sets s d reads busy lat m _ f fl hm h

theorem orFlags_congr {p q : Nat → Bool} {f g : Nat → Flags} : ∀ n : Nat, (∀ i, i < n → (if p i then f i else 0) = if q i then g i else 0) →
    orFlags p f n = orFlags q g n := by
  intro n
  induction n with
  | zero => intro _; rfl
  | succ n ih => intro h; rw [orFlags, orFlags, ih (fun i hi => h i (by omega)), h n (by omega)]

/-- A flag that some elements set is set where any of them does. -/
theorem orFlags_any (b : Nat → Bool) (fl : Flags) (n : Nat) :
    orFlags (fun _ => true) (fun i => if b i then fl else 0) n = if (List.range n).any b then fl else 0 := by
  induction n with
  | zero => rfl
  | succ n ih =>
    rw [orFlags, ih, List.range_succ, List.any_append, if_pos rfl]
    cases (List.range n).any b <;> cases h : b n <;> simp [h]

/-- A byte of a word, as a field of its number. -/
theorem ofNat_natBits (x : W32) (lo : Nat) : BitVec.ofNat 8 (natBits x.toNat lo 8) = x.extractLsb' lo 8 := by
  apply BitVec.eq_of_toNat_eq
  rw [BitVec.toNat_ofNat, natBits, BitVec.extractLsb'_toNat, Nat.shiftRight_eq_div_pow, Nat.mod_mod]

theorem natBits_eq_toNat (x : W32) (lo : Nat) : natBits x.toNat lo 8 = (x.extractLsb' lo 8).toNat := by
  rw [natBits, BitVec.extractLsb'_toNat, Nat.shiftRight_eq_div_pow]

theorem bfpHeaderWord_eq (e n w : Nat) (hn : n < 65536) (hw : w < 8) :
    bfpHeaderWord e n w true = BitVec.ofNat 32 (e * 2 ^ 24 + n * 2 ^ 8 + w * 2 ^ 5 + 1) := by
  apply BitVec.eq_of_toNat_eq
  rw [bfpHeaderWord, BitVec.toNat_ofNat, BitVec.toNat_ofNat, if_pos rfl]
  omega

/-- The elements of a burst: the header, and four mantissas to an element (R174). -/
theorem burstElem_eq (w n e : Nat) (ms : List Int) (i : Nat) (hn : n < 65536) (hw : w < 8) :
    burstElem (w + 2) n e ms i = if i = 0 then BitVec.ofNat 32 (e * 2 ^ 24 + n * 2 ^ 8 + w * 2 ^ 5 + 1)
      else BitVec.ofNat 32 (((ms.getD (4 * i - 4) 0) % 256).toNat + ((ms.getD (4 * i - 3) 0) % 256).toNat * 2 ^ 8 +
        ((ms.getD (4 * i - 2) 0) % 256).toNat * 2 ^ 16 + ((ms.getD (4 * i - 1) 0) % 256).toNat * 2 ^ 24) := by
  unfold burstElem
  split
  · rw [Nat.add_sub_cancel]; exact bfpHeaderWord_eq e n w hn hw
  · have h0 : 4 * (i - 1) + 0 = 4 * i - 4 := by omega
    have h1 : 4 * (i - 1) + 1 = 4 * i - 3 := by omega
    have h2 : 4 * (i - 1) + 2 = 4 * i - 2 := by omega
    have h3 : 4 * (i - 1) + 3 = 4 * i - 1 := by omega
    simp only [h0, h1, h2, h3, mantByte]

/-- The number of element i of the burst in a vector, which stands in byte i + 4. -/
def burstItem (s : State) (a : Reg) (n : Nat) (h : BfpHeader) (i : Nat) : W32 × Flags :=
  fpOut (bfpElement s.core.fpMode.ftz h.e (bfpMantissa h.wm2
    (if i + 4 < 4 * n then (s.vsrc a ((i + 4) / 4)).extractLsb' (8 * ((i + 4) % 4)) 8 else 0)))

/-- Element i of an expansion comes from byte i + 4 of the burst (R174). -/
theorem expandElem_eq (s : State) (a : Reg) (n : Nat) (h : BfpHeader) (i : Nat) :
    expandElem s a n h i = if i < h.length then burstItem s a n h i else (0, 0) := by
  have hk : 1 + i / 4 = (i + 4) / 4 := by omega
  have hr : i % 4 = (i + 4) % 4 := by omega
  have hn : (i + 4) / 4 < n ↔ i + 4 < 4 * n := by omega
  simp only [expandElem, burstItem, hk, hr, ofNat_natBits, hn]

theorem clampTrit_fst (x : W32) : (clampTrit x).1 = max (-1) (min 1 x.toInt) := by
  unfold clampTrit
  split
  · omega
  · split <;> omega

theorem clampTrit_snd (x : W32) : (clampTrit x).2 = if max (-1) (min 1 x.toInt) != x.toInt then fTCLAMP else 0 := by
  simp only [bne_iff_ne]
  unfold clampTrit
  split
  · rw [if_pos (by omega)]
  · split
    · rw [if_pos (by omega)]
    · rw [if_neg (by omega)]

/-- Five trits as a number to the base 3, the lowest first (R45). -/
theorem t5Encode_clamped (a b c d e : Int) (ha : -1 ≤ a) (hb : -1 ≤ b) (hc : -1 ≤ c) (hd : -1 ≤ d) (he : -1 ≤ e) :
    t5Encode [a, b, c, d, e] = (a + 1 + 3 * (b + 1) + 9 * (c + 1) + 27 * (d + 1) + 81 * (e + 1)).toNat := by
  simp only [t5Encode]
  omega

/-- The trits of a byte (R46). -/
theorem unpackTrit_eq (s : State) (a : Reg) (j k : Nat) (hk : k < 5) :
    unpackTrit s a j k = if ((s.vsrc a (j / 4)).extractLsb' (8 * (j % 4)) 8).toNat ≤ 242
      then BitVec.ofInt 32 ((((s.vsrc a (j / 4)).extractLsb' (8 * (j % 4)) 8).toNat / 3 ^ k % 3 : Nat) - 1 : Int) else 0 := by
  rw [unpackTrit, ofNat_natBits, t5Decode]
  generalize ((s.vsrc a (j / 4)).extractLsb' (8 * (j % 4)) 8).toNat = n
  by_cases h : 242 < n
  · simp [h]
  · simp only [h, if_false, if_pos (Nat.not_lt.mp h)]
    interval_cases k <;> simp

/-- Five registers in a row are different ones. -/
theorem reg_add_ofNat_inj (d : Reg) (i j : Nat) (hi : i < 5) (hj : j < 5) (h : d + BitVec.ofNat 5 i = d + BitVec.ofNat 5 j) : i = j := by
  have h2 := congrArg BitVec.toNat (add_left_cancel h)
  rw [BitVec.toNat_ofNat, BitVec.toNat_ofNat] at h2
  omega

/-- The vectors of an unpack, one after another. -/
theorem putsV_unpackAll (s : State) (a d : Reg) (n : Nat) (hn : n ≤ 64) : ∀ k, k ≤ 5 → PutsV s (unpackAll s a d n k s)
    ((List.range k).map (fun k => (d + BitVec.ofNat 5 k, below n (fun j => unpackTrit s a j k)))) := by
  intro k
  induction k with
  | zero => intro _; exact putsV_nil s
  | succ k ih =>
    intro hk
    rw [List.range_succ, List.map_append]
    refine putsV_below (ih (by omega)) (d + BitVec.ofNat 5 k) n _ hn (fun hm => ?_)
    simp only [List.map_map, List.mem_map, List.mem_range] at hm
    obtain ⟨j, hj, he⟩ := hm
    exact absurd (reg_add_ofNat_inj d j k (by omega) (by omega) he) (by omega)

/-- The clamped trit of element j of the vector k places on. -/
def packTrit (s : State) (a : Reg) (j k : Nat) : Int := max (-1) (min 1 (s.vsrc (a + BitVec.ofNat 5 k) j).toInt)

theorem packByte_fst (s : State) (a : Reg) (j : Nat) : (packByte s a j).1 = (packTrit s a j 0 + 1 + 3 * (packTrit s a j 1 + 1) +
    9 * (packTrit s a j 2 + 1) + 27 * (packTrit s a j 3 + 1) + 81 * (packTrit s a j 4 + 1)).toNat := by
  have hlow : ∀ k, -1 ≤ packTrit s a j k := fun k => le_max_left _ _
  simp only [packByte, clampTrit_fst]
  exact t5Encode_clamped _ _ _ _ _ (hlow 0) (hlow 1) (hlow 2) (hlow 3) (hlow 4)

theorem packByte_snd (s : State) (a : Reg) (j : Nat) : (packByte s a j).2 =
    if (List.range 5).any (fun k => packTrit s a j k != (s.vsrc (a + BitVec.ofNat 5 k) j).toInt) then fTCLAMP else 0 := by
  have h : ∀ b0 b1 b2 b3 b4 : Bool, ((if b0 then fTCLAMP else 0) ||| (if b1 then fTCLAMP else 0) ||| (if b2 then fTCLAMP else 0) |||
      (if b3 then fTCLAMP else 0) ||| if b4 then fTCLAMP else 0) = if b0 || (b1 || (b2 || (b3 || (b4 || false)))) then fTCLAMP else 0 := by decide
  simp only [packByte, clampTrit_snd]
  exact h _ _ _ _ _

/-- Quantising a vector to a burst (R44, R174). -/
theorem vbfpq_sets (s : State) (d a : Reg) (fold : BitVec 2) (w : Reg3) (h : leads s [d, a]) :
    let n := foldN fold
    let q := bfpQuant (w.toNat + 2) ((List.range n).map (fun i => (s.vsrc a i).toNat))
    ∃ t, exec (.vbfpq d a fold w) s = .next t ∧ setsV s t [a] [(d, below (n / 4 + 1) (fun i =>
      if i = 0 then BitVec.ofNat 32 (q.1 * 2 ^ 24 + n * 2 ^ 8 + w.toNat * 2 ^ 5 + 1)
      else BitVec.ofNat 32 (((q.2.1.getD (4 * i - 4) 0) % 256).toNat + ((q.2.1.getD (4 * i - 3) 0) % 256).toNat * 2 ^ 8 +
        ((q.2.1.getD (4 * i - 2) 0) % 256).toNat * 2 ^ 16 + ((q.2.1.getD (4 * i - 1) 0) % 256).toNat * 2 ^ 24)))]
      (foldBeats fold + 4) q.2.2 := by
  have hn := foldN_le fold
  have hx : (s.vlist a fold).map (fun x => x.toNat) = (List.range (foldN fold)).map (fun i => (s.vsrc a i).toNat) := List.map_map
  dsimp only
  rw [← hx]
  exact vFinal_below s d [a] (foldBeats fold) _ _ _ _ _ (by omega) h (fun i _ => burstElem_eq w.toNat _ _ _ i (by omega) w.isLt)

/-- Expanding a burst (R43, R174). -/
theorem vbfpx_sets (s : State) (d a : Reg) (fold : BitVec 2) (h : leads s [d, a]) :
    let n := foldN fold
    let b := bfpHeader (s.vsrc a 0)
    ∃ t, exec (.vbfpx d a fold) s = .next t ∧
      setsV s t [a] [(d, below n (fun i => if i < b.length then (burstItem s a n b i).1 else 0))] (foldBeats fold + 4)
        (orFlags (fun i => decide (i < b.length)) (fun i => (burstItem s a n b i).2) n ||| (if b.bad then fBFPHDR else 0)) := by
  dsimp only
  have hflags : orFlags (fun i => decide (i < (bfpHeader (s.vsrc a 0)).length)) (fun i => (burstItem s a (foldN fold) (bfpHeader (s.vsrc a 0)) i).2)
      (foldN fold) = orFlags (fun _ => true) (fun i => (expandElem s a (foldN fold) (bfpHeader (s.vsrc a 0)) i).2) (foldN fold) :=
    orFlags_congr _ (fun i _ => by
      rw [expandElem_eq]
      by_cases hi : i < (bfpHeader (s.vsrc a 0)).length <;> simp [hi])
  rw [hflags]
  refine vFinal_below s d [a] (foldBeats fold) _ _ _ _ _ (foldN_le fold) h (fun i _ => ?_)
  rw [expandElem_eq]
  split <;> rfl

/-- Packing the trits of five vectors (R45, R175). -/
theorem vt5pk_sets (s : State) (d a : Reg) (fold : BitVec 2) (h : leads s (d :: fiveRegs a)) :
    let n := foldN fold
    let pack := fun (j : Nat) => (packTrit s a j 0 + 1 + 3 * (packTrit s a j 1 + 1) + 9 * (packTrit s a j 2 + 1) + 27 * (packTrit s a j 3 + 1) +
      81 * (packTrit s a j 4 + 1)).toNat
    ∃ t, exec (.vt5pk d a fold) s = .next t ∧ setsV s t (fiveRegs a) [(d, below (n / 4) (fun i =>
        BitVec.ofNat 32 (pack (4 * i) + pack (4 * i + 1) * 2 ^ 8 + pack (4 * i + 2) * 2 ^ 16 + pack (4 * i + 3) * 2 ^ 24)))] 10
      (if (List.range n).any (fun j => (List.range 5).any (fun k => packTrit s a j k != (s.vsrc (a + BitVec.ofNat 5 k) j).toInt))
        then fTCLAMP else 0) := by
  have hn := foldN_le fold
  dsimp only
  rw [← orFlags_any]
  simp only [← packByte_fst, ← packByte_snd]
  exact vFinal_below s d (fiveRegs a) 10 10 _ _ _ _ (by omega) h (fun _ _ => rfl)

/-- Unpacking five vectors of trits (R46, R175). -/
theorem vt5up_sets (s : State) (d a : Reg) (fold : BitVec 2) (h : leads s (fiveRegs d ++ [a])) :
    let n := foldN fold
    let byte := fun (j : Nat) => (s.vsrc a (j / 4)).extractLsb' (8 * (j % 4)) 8
    ∃ t, exec (.vt5up d a fold) s = .next t ∧ setsV s t [a] ((List.range 5).map (fun k => (d + BitVec.ofNat 5 k, below n (fun j =>
        if (byte j).toNat ≤ 242 then BitVec.ofInt 32 (((byte j).toNat / 3 ^ k % 3 : Nat) - 1 : Int) else 0)))) 10
      (if (List.range n).any (fun j => decide (242 < (byte j).toNat)) then fTILL else 0) := by
  have hleads : leads s (a :: fiveRegs d) := (leads_iff s _).mpr (fun r hr => (leads_iff s _).mp h r (by
    rw [List.mem_append, List.mem_singleton]; exact (List.mem_cons.mp hr).symm))
  have houts : (List.range 5).map (fun k => (d + BitVec.ofNat 5 k, below (foldN fold) (fun j => unpackTrit s a j k))) =
      (List.range 5).map (fun k => (d + BitVec.ofNat 5 k, below (foldN fold) (fun j =>
        if ((s.vsrc a (j / 4)).extractLsb' (8 * (j % 4)) 8).toNat ≤ 242
          then BitVec.ofInt 32 ((((s.vsrc a (j / 4)).extractLsb' (8 * (j % 4)) 8).toNat / 3 ^ k % 3 : Nat) - 1 : Int) else 0))) :=
    List.map_congr_left (fun k hk => by rw [below_congr (fun j _ => unpackTrit_eq s a j k (List.mem_range.mp hk))])
  have hflags : orFlags (fun _ => true) (tillFlag s a) (foldN fold) =
      if (List.range (foldN fold)).any (fun j => decide (242 < ((s.vsrc a (j / 4)).extractLsb' (8 * (j % 4)) 8).toNat)) then fTILL else 0 := by
    rw [← orFlags_any]
    exact orFlags_congr _ (fun j _ => by simp only [tillFlag, natBits_eq_toNat, decide_eq_true_eq])
  dsimp only
  rw [← houts, ← hflags]
  exact ⟨_, vGuard_leads _ _ _ hleads, setsV_of_putsV (putsV_unpackAll s a d (foldN fold) (foldN_le fold) 5 (le_refl 5)) _ _ _ _⟩

/-- Each instruction of the storage formats gives its vectors and its flags. -/
theorem exec_vStorage (s : State) (d a : Reg) (fold : BitVec 2) (w : Reg3) : ∀ e ∈ vStorage s d a fold w,
    leads s (e.2.2.2.2.1.map (fun o => o.1) ++ e.2.1) → ∃ t, exec e.1 s = .next t ∧ setsV s t e.2.1 e.2.2.2.2.1 e.2.2.2.1 e.2.2.2.2.2 := by
  simp only [vStorage, List.forall_mem_cons, List.not_mem_nil, false_implies, implies_true, and_true]
  exact ⟨vbfpq_sets s d a fold w, vbfpx_sets s d a fold, vt5pk_sets s d a fold, fun h => vt5up_sets s d a fold (by rw [List.map_map] at h; exact h)⟩

/-- Settles O14: the storage formats by `exec_vStorage`; a sort is `sortV` with the key of its order (`exec_sorts`), which leaves the places of
`sortedPlace`. -/
theorem vectorStorageAndSorts : Obligations.VectorStorageAndSorts := by
  intro s d a fold w
  refine ⟨exec_vStorage s d a fold w, fun e he hl => ?_⟩
  obtain ⟨key, hexec, hord⟩ := exec_sorts e he
  obtain ⟨t, ht, hset⟩ := sortV_sets s d a fold key hl
  refine ⟨t, sortedPlace key (s.vsrc a) (foldN fold), (hexec s d a fold).trans ht, hset, fun i hi => ?_, sortedPlace_injective key _ _,
    fun i j hij hj => ?_⟩
  · exact (getElem_sortKeys_entries key (s.vsrc a) _ i (by rw [length_sortKeys_entries]; exact hi)).1
  · obtain ⟨hle, hlt⟩ := sortedPlace_ordered key (s.vsrc a) (foldN fold) i j hij hj
    exact ⟨(hord _ _).mpr hle, fun h => hlt ((hord _ _).mp h)⟩

end Sys2Proof.Machine
end

section
/-! PROOFS. The scope: NaNs, infinities and exact sums of floating-point values, as the instructions and the tile unit use them. -/

namespace Sys2Proof.Machine
open Sys2Proof.Says

/-! ### What a pattern is -/

theorem unpack_of_nanIn (f : Fmt) (hm : 1 ≤ f.mb) (ftz : Bool) (a : Nat) (h : nanIn f a) :
    unpack f ftz a = .nan (if a.testBit (f.mb - 1) then .quiet else .signalling) := by
  obtain ⟨hx, hf⟩ := h
  have hx : a / 2 ^ f.mb % 2 ^ f.eb = f.emax := hx
  have hf : a % 2 ^ f.mb ≠ 0 := hf
  have hb : (a % 2 ^ f.mb).testBit (f.mb - 1) = a.testBit (f.mb - 1) := by
    rw [Nat.testBit_mod_two_pow, decide_eq_true (by omega), Bool.true_and]
  simp only [unpack, hx, if_pos, if_neg hf, hb]

theorem unpack_of_infIn (f : Fmt) (ftz : Bool) (a : Nat) (h : infIn f a) : unpack f ftz a = .inf (signIn f a) := by
  obtain ⟨hx, hf⟩ := h
  have hx : a / 2 ^ f.mb % 2 ^ f.eb = f.emax := hx
  have hf : a % 2 ^ f.mb = 0 := hf
  simp only [unpack, hx, hf, if_pos, signIn]

/-- A finite pattern is a number of its sign, and 0 where it counts as 0. -/
theorem unpack_of_finIn (f : Fmt) (he : 2 ≤ f.eb) (hm : 1 ≤ f.mb) (ftz : Bool) (a : Nat) (h : finIn f a) :
    ∃ m e, unpack f ftz a = .fin (signIn f a) m e ∧ (m = 0 ↔ unitsIn f ftz a = 0) := by
  obtain ⟨m, e, hu, h0, h1⟩ := unpack_scaled f he hm ftz a h
  refine ⟨m, e, hu, h0, fun hz => ?_⟩
  by_contra hne
  obtain ⟨w, -, hn⟩ := h1 hne
  obtain ⟨-, -, hpos⟩ := scaled_natAbs hn (Nat.mul_ne_zero hne (Nat.two_pow_pos w).ne')
  exact hpos hz

/-- A pattern is a NaN, an infinity or a finite number. -/
theorem pattern_cases (f : Fmt) (a : Nat) : nanIn f a ∨ infIn f a ∨ finIn f a := by
  by_cases hx : expField f a = 2 ^ f.eb - 1
  · by_cases hf : fracField f a = 0
    · exact .inr (.inl ⟨hx, hf⟩)
    · exact .inl ⟨hx, hf⟩
  · exact .inr (.inr hx)

/-! ### NaN operands (R37) -/

/-- A value is a NaN. -/
def FVal.isNan (v : FVal) : Prop := ∃ k, v = .nan k

theorem isNan_addV_left (rm : Rm) {v : FVal} (w : FVal) (h : v.isNan) : (addV rm v w).isNan := by
  obtain ⟨k, rfl⟩ := h
  cases w <;> exact ⟨_, rfl⟩

theorem isNan_addV_right (rm : Rm) (v : FVal) {w : FVal} (h : w.isNan) : (addV rm v w).isNan := by
  obtain ⟨k, rfl⟩ := h
  cases v <;> exact ⟨_, rfl⟩

theorem isNan_mulV_left {v : FVal} (w : FVal) (h : v.isNan) : (mulV v w).isNan := by
  obtain ⟨k, rfl⟩ := h
  cases w <;> exact ⟨_, rfl⟩

theorem isNan_mulV_right (v : FVal) {w : FVal} (h : w.isNan) : (mulV v w).isNan := by
  obtain ⟨k, rfl⟩ := h
  cases v <;> exact ⟨_, rfl⟩

theorem isNan_of_nanIn (f : Fmt) (hm : 1 ≤ f.mb) (ftz : Bool) (a : Nat) (h : nanIn f a) : (unpack f ftz a).isNan := ⟨_, unpack_of_nanIn f hm ftz a h⟩

/-- A NaN rounds to the canonical one. -/
theorem roundV_of_isNan (f : Fmt) (md : FpMode) {v : FVal} (h : v.isNan) : (roundV f md v).1 = f.nan := by
  obtain ⟨k, rfl⟩ := h; rfl

/-! ### Exact sums (R49) -/

/-- A sum in which one term is a NaN is a NaN. -/
theorem isNan_sumV (rm : Rm) : ∀ (vs : List FVal) (acc : FVal), acc.isNan ∨ (∃ v ∈ vs, v.isNan) → (sumV rm acc vs).isNan := by
  intro vs
  induction vs with
  | nil => rintro acc (h | ⟨v, hv, -⟩); exacts [h, absurd hv List.not_mem_nil]
  | cons w vs ih =>
    rintro acc (h | ⟨v, hv, hn⟩)
    · exact ih _ (.inl (isNan_addV_left rm w h))
    · rcases List.mem_cons.mp hv with rfl | hv
      · exact ih _ (.inl (isNan_addV_right rm acc hn))
      · exact ih _ (.inr ⟨v, hv, hn⟩)

/-- The exact sum of finite values over one power of two. -/
theorem sumV_scaled (rm : Rm) (k : Nat) (val : Nat → FVal) (num : Nat → Int) : ∀ (l : List Nat) (acc : FVal) (a : Int),
    (∀ x ∈ l, ∃ b, (val x).scaled b k (num x)) → (∃ b, acc.scaled b k a) → ∃ b, (sumV rm acc (l.map val)).scaled b k (a + (l.map num).sum) := by
  intro l
  induction l with
  | nil => intro acc a _ h; simpa [sumV] using h
  | cons x l ih =>
    rintro acc a hl ⟨b, hb⟩
    obtain ⟨b', hb'⟩ := hl x List.mem_cons_self
    have h := ih (addV rm acc (val x)) (a + num x) (fun y hy => hl y (List.mem_cons_of_mem _ hy)) ⟨_, addV_scaled rm hb hb'⟩
    rwa [add_assoc] at h

theorem sum_map_range (num : Nat → Int) (n : Nat) : ((List.range n).map num).sum = ∑ k ∈ Finset.range n, num k := by
  induction n with
  | zero => rfl
  | succ n ih => rw [List.range_succ, List.map_append, List.sum_append, ih, Finset.sum_range_succ]; simp

/-- The rounding of an exact number depends on the sign given for 0 only where it is 0. -/
theorem roundsInt_zero {f : Fmt} {md : FpMode} {n : Int} {k : Nat} {z z' : Bool} {r : Nat × Flags} (h : roundsInt f md n k z r) (hz : n = 0 → z = z') :
    roundsInt f md n k z' r := ⟨h.1, fun hn => hz hn ▸ h.2 hn⟩

/-- The rounding of a signed integer over a power of two. -/
theorem roundFin_roundsInt (f : Fmt) (he : 2 ≤ f.eb) (hm : 1 ≤ f.mb) (md : FpMode) (n : Int) (e : Int) (w k : Nat)
    (hw : (w : Int) = e + leastExp f + k) : roundsInt f md (n * 2 ^ w) k false (roundFin f md (decide (n < 0)) n.natAbs e false) := by
  have hp : (0 : Int) < 2 ^ w := by positivity
  refine ⟨fun _ => ?_, fun h0 => ?_⟩
  · have hs : decide (n * 2 ^ w < 0) = decide (n < 0) := by
      rw [decide_eq_decide]; exact ⟨fun h => lt_of_not_ge (fun hn => absurd h (mul_nonneg hn hp.le).not_gt), fun h => mul_neg_of_neg_of_pos h hp⟩
    have ha : (n * 2 ^ w).natAbs = n.natAbs * 2 ^ w := by rw [Int.natAbs_mul, Int.natAbs_pow]; rfl
    rw [hs, ha]
    exact roundFin_rounds f he hm md _ _ e w k hw
  · have hn : n = 0 := by
      rcases mul_eq_zero.mp h0 with h | h
      · exact h
      · exact absurd h hp.ne'
    subst hn
    rfl

end Sys2Proof.Machine
end

section
/-! PROOFS. The scope: the end of a run of a `TMMA`, the words of C, and the rows of C in scratchpad. -/

namespace Sys2Proof.Machine
open Sys2Proof.Says

/-! ### The end of a run (R191, R192) -/

/-- The end of a run of the oldest work that no upset of the tile unit meets, once its tick has come. -/
theorem exec_tmmaHandover_sound (s : State) (die : DieNo) (core : CoreNo) (n due : Nat) (j : TmmaJob)
    (hj : (s.coreAt (coreKey die core)).nextTmma = some (n, j)) (hd : j.due = some due) (ht : due ≤ (s.dieAt die.toNat).tick)
    (hu : (s.coreAt (coreKey die core)).tileUpset = none) :
    let c := s.coreAt (coreKey die core)
    exec (.tmmaHandover die core) s = .next (s.setCoreAt (coreKey die core) { c with tmma := c.tmma.set n { j with handed := true } }) := by
  show execTmmaHandover die core s = _
  simp only [execTmmaHandover, hj, hd, if_neg (Nat.not_lt.mpr ht), hu]

/-- The same where an upset spoils the first `m` runs: a spoilt first run is made again, a spoilt second one is a fault. -/
theorem exec_tmmaHandover_upset (s : State) (die : DieNo) (core : CoreNo) (n due : Nat) (j : TmmaJob)
    (hj : (s.coreAt (coreKey die core)).nextTmma = some (n, j)) (hd : j.due = some due) (ht : due ≤ (s.dieAt die.toNat).tick)
    (m fi fj : Nat) (hu : (s.coreAt (coreKey die core)).tileUpset = some (m, fi, fj)) :
    let k := coreKey die core
    let c := s.coreAt k
    exec (.tmmaHandover die core) s =
      if j.runs < m then
        if j.runs = 0 then .next (s.setCoreAt k { c with tmma := c.tmma.set n { j with runs := 1, due := some (due + j.busy + 1) }, held := 9 })
        else .next ((s.setCoreAt k { c with tmma := c.tmma.eraseIdx n, tileUpset := none }).raiseAt k
          { code := cTILECHK, row := j.row, elem := BitVec.ofNat 64 (16 * fi + fj), slot := 2, addr := 0 })
      else .next (s.setCoreAt k { c with tmma := c.tmma.set n { j with handed := true }, tileUpset := none }) := by
  show execTmmaHandover die core s = _
  simp only [execTmmaHandover, hj, hd, if_neg (Nat.not_lt.mpr ht), hu]

/-- `TILECHK`: the fault of the core, and the work is gone. -/
theorem tileCheck_faults (s : State) (k : Nat) (c : Core) (f : CoreFault) (h : c.fault = none) :
    (((s.setCoreAt k c).raiseAt k f).coreAt k).fault = some f ∧ (((s.setCoreAt k c).raiseAt k f).coreAt k).tmma = c.tmma := by
  obtain ⟨x, hx⟩ := State.coreAt_raiseAt (s.setCoreAt k c) k f k
  rw [hx, State.coreAt_setCoreAt_same, h]
  exact ⟨by simp, rfl⟩

/-! ### A word of C (R49, R50) -/

/-- What a word of C takes: the product in its place, or added to its old value. -/
theorem newC_of_kind (j : TmmaJob) (i c old : Nat) (hk : j.kind ≠ 2) : j.newC i c old = if j.write = true then j.product i c
    else ((fpAdd f32 (fpModeOf j.fp) old (j.product i c).1).1, (j.product i c).2 ||| (fpAdd f32 (fpModeOf j.fp) old (j.product i c).1).2) := by
  simp only [TmmaJob.newC, if_neg hk]

theorem dot_eq_sum (j : TmmaJob) (i n c : Nat) : j.dot i n c = ∑ k ∈ Finset.range n, j.elem j.a j.wa i k * j.elem j.b j.wb c k := by
  unfold TmmaJob.dot
  induction n with
  | zero => rfl
  | succ n ih => rw [List.range_succ, List.foldl_append, ih, Finset.sum_range_succ]; rfl

/-- INT8: the sum modulo 2^32 (R49). -/
theorem newC_int8 (j : TmmaJob) (i c old : Nat) (hk : j.kind = 2) :
    (((j.newC i c old).1 : Nat) : Int) = ((if j.write then 0 else (old : Int)) +
      ∑ k ∈ Finset.range 64, (j.a.getD (128 * i + k) 0).toInt * (j.b.getD (128 * c + k) 0).toInt) % 2 ^ 32 ∧ (j.newC i c old).2 = 0 := by
  have he : ∀ (t : List Byte) (w r k : Nat), j.elem t w r k = (t.getD (128 * r + k) 0).toInt := fun t w r k => by
    rw [TmmaJob.elem, hk, if_neg (by decide), if_neg (by decide), ← toInt_ofNat_eq_signedNat 8 _ (by decide), BitVec.ofNat_toNat, BitVec.setWidth_eq]
  have hp : j.product i c = ((BitVec.ofInt 32 (j.dot i 64 c)).toNat, 0) := by
    unfold TmmaJob.product
    rw [hk]; rfl
  have hd : j.dot i 64 c = ∑ k ∈ Finset.range 64, (j.a.getD (128 * i + k) 0).toInt * (j.b.getD (128 * c + k) 0).toInt := by
    rw [dot_eq_sum]; exact Finset.sum_congr rfl (fun k _ => by rw [he, he])
  rw [← hd, TmmaJob.newC, hp, BitVec.toNat_ofInt, hk]
  generalize j.dot i 64 c = z
  cases j.write
  · have h : (((old + (z % 4294967296).toNat) % 4294967296 : Nat) : Int) = ((old : Int) + z) % 4294967296 := by omega
    exact ⟨h, rfl⟩
  · have h : (((z % 4294967296).toNat : Nat) : Int) = (0 + z) % 4294967296 := by omega
    exact ⟨h, rfl⟩

/-- A latched element of BF16. -/
def bf16At (t : List Byte) (r k : Nat) : Nat := (t.getD (128 * r + 2 * k) 0).toNat + 256 * (t.getD (128 * r + 2 * k + 1) 0).toNat

theorem leNat_take_two (t : List Byte) (n : Nat) : leNat ((t.drop n).take 2) = (t.getD n 0).toNat + 256 * (t.getD (n + 1) 0).toNat := by
  have h0 : t.getD n 0 = (t.drop n).getD 0 0 := by simp [List.getD_eq_getElem?_getD]
  have h1 : t.getD (n + 1) 0 = (t.drop n).getD 1 0 := by simp [List.getD_eq_getElem?_getD]
  rw [h0, h1]
  rcases t.drop n with _ | ⟨a, _ | ⟨b, l⟩⟩ <;> simp [leNat]

/-- The exact product of element k of a row and of a column. -/
def bf16Term (j : TmmaJob) (i c k : Nat) : FVal :=
  mulV (unpack bf16 (fpModeOf j.fp).ftz (bf16At j.a i k)) (unpack bf16 (fpModeOf j.fp).ftz (bf16At j.b c k))

/-- BF16: the exact sum of the products, rounded once (R49). -/
theorem product_bf16 (j : TmmaJob) (i c : Nat) (hk : j.kind = 0) : j.product i c =
    roundV f32 (fpModeOf j.fp) (sumV (fpModeOf j.fp).rm (bf16Term j i c 0) ((List.range' 1 31).map (bf16Term j i c))) := by
  unfold TmmaJob.product
  simp only [hk, if_true, leNat_take_two]
  rfl

theorem product_bf16_rounds (j : TmmaJob) (i c : Nat) (hk : j.kind = 0)
    (hf : ∀ k, k < 32 → finIn bf16 (bf16At j.a i k) ∧ finIn bf16 (bf16At j.b c k)) :
    ∃ zero, roundsInt f32 (fpModeOf j.fp) (∑ k ∈ Finset.range 32,
      unitsIn bf16 (fpModeOf j.fp).ftz (bf16At j.a i k) * unitsIn bf16 (fpModeOf j.fp).ftz (bf16At j.b c k)) 117 zero (j.product i c) := by
  let num := fun k => unitsIn bf16 (fpModeOf j.fp).ftz (bf16At j.a i k) * unitsIn bf16 (fpModeOf j.fp).ftz (bf16At j.b c k)
  have hterm : ∀ k, k < 32 → ∃ b, (bf16Term j i c k).scaled b 266 (num k) := fun k hlt => by
    obtain ⟨ha, hb⟩ := hf k hlt
    exact ⟨_, mulV_scaled (unpack_scaled bf16 (by decide) (by decide) _ _ ha) (unpack_scaled bf16 (by decide) (by decide) _ _ hb)⟩
  obtain ⟨b, hb⟩ := sumV_scaled (fpModeOf j.fp).rm 266 (bf16Term j i c) num (List.range' 1 31) _ _
    (fun k hm => hterm k (by have := List.mem_range'_1.mp hm; omega)) (hterm 0 (by decide))
  have hsum : num 0 + ((List.range' 1 31).map num).sum = ∑ k ∈ Finset.range 32, num k := by
    rw [← sum_map_range]; rfl
  rw [hsum] at hb
  have h := roundV_rounds f32 (by decide) (by decide) (fpModeOf j.fp) hb
  rw [product_bf16 j i c hk]
  exact ⟨b, by simpa [leastExp, f32] using h⟩

theorem product_bf16_nan (j : TmmaJob) (i c : Nat) (hk : j.kind = 0)
    (hn : ∃ k, k < 32 ∧ (nanIn bf16 (bf16At j.a i k) ∨ nanIn bf16 (bf16At j.b c k))) : (j.product i c).1 = 0x7FC00000 := by
  obtain ⟨k, hlt, hn⟩ := hn
  have hterm : (bf16Term j i c k).isNan := by
    rcases hn with hn | hn
    · exact isNan_mulV_left _ (isNan_of_nanIn bf16 (by decide) _ _ hn)
    · exact isNan_mulV_right _ (isNan_of_nanIn bf16 (by decide) _ _ hn)
  rw [product_bf16 j i c hk]
  refine roundV_of_isNan f32 _ (isNan_sumV _ _ _ ?_)
  rcases Nat.eq_zero_or_pos k with rfl | hpos
  · exact .inl hterm
  · exact .inr ⟨_, List.mem_map_of_mem (List.mem_range'_1.mpr ⟨hpos, by omega⟩), hterm⟩

/-- BFP: the exact sum of the products of mantissas, scaled by both exponents and rounded once; a NaN gauge gives NaN (R43, R49). -/
theorem product_bfp (j : TmmaJob) (i c : Nat) (hk : j.kind = 1) : j.product i c =
    if (j.ea.getD i 0).toNat = 0xFF ∨ (j.eb.getD c 0).toNat = 0xFF then (f32.nan, 0)
    else roundFin f32 (fpModeOf j.fp) (decide (j.dot i 128 c < 0)) (j.dot i 128 c).natAbs
      (((j.ea.getD i 0).toNat : Int) + (j.eb.getD c 0).toNat - 254) false := by
  unfold TmmaJob.product
  rw [hk]; rfl

theorem product_bfp_rounds (j : TmmaJob) (i c : Nat) (hk : j.kind = 1) (ha : j.ea.getD i 0 ≠ 0xFF) (hb : j.eb.getD c 0 ≠ 0xFF) :
    let e := (j.ea.getD i 0).toNat + (j.eb.getD c 0).toNat
    roundsInt f32 (fpModeOf j.fp) ((∑ k ∈ Finset.range 128, ((j.a.getD (128 * i + k) 0).setWidth (j.wa + 2)).toInt *
      ((j.b.getD (128 * c + k) 0).setWidth (j.wb + 2)).toInt) * 2 ^ (e - 105)) (105 - e) false (j.product i c) := by
  have he : ∀ (t : List Byte) (w r k : Nat), j.elem t w r k = ((t.getD (128 * r + k) 0).setWidth (w + 2)).toInt := fun t w r k => by
    rw [TmmaJob.elem, hk, if_neg (by decide), if_pos rfl, bfpMantissa, ← toInt_ofNat_eq_signedNat _ _ (by omega), BitVec.ofNat_toNat]
  have hd : j.dot i 128 c = ∑ k ∈ Finset.range 128, ((j.a.getD (128 * i + k) 0).setWidth (j.wa + 2)).toInt *
      ((j.b.getD (128 * c + k) 0).setWidth (j.wb + 2)).toInt := by
    rw [dot_eq_sum]; exact Finset.sum_congr rfl (fun k _ => by rw [he, he])
  have hne : ∀ b : Byte, b ≠ 0xFF → b.toNat ≠ 0xFF := fun b hb h => hb (BitVec.eq_of_toNat_eq h)
  dsimp only
  rw [← hd, product_bfp j i c hk, if_neg (not_or.mpr ⟨hne _ ha, hne _ hb⟩)]
  refine roundFin_roundsInt f32 (by decide) (by decide) _ _ _ _ _ ?_
  show _ = _ + ((149 : Nat) : Int) + _
  omega

theorem product_bfp_nan (j : TmmaJob) (i c : Nat) (hk : j.kind = 1) (h : j.ea.getD i 0 = 0xFF ∨ j.eb.getD c 0 = 0xFF) :
    j.product i c = (0x7FC00000, 0) := by
  rw [product_bfp j i c hk]
  exact if_pos (h.imp (fun h => by rw [h]; rfl) (fun h => by rw [h]; rfl))

/-! ### A row of C in scratchpad (R191, R306) -/

/-- The bytes of row i of C over a scratchpad. -/
def TmmaJob.rowBytes (j : TmmaJob) (m : Memory) (i : Nat) : List Byte := (j.rowOn m i).flatMap (fun w => leBytes 4 w.1)

theorem length_flatMap_leBytes (ws : List (Nat × Flags)) : (ws.flatMap (fun w => leBytes 4 w.1)).length = 4 * ws.length := by
  induction ws with
  | nil => rfl
  | cons w ws ih => rw [List.flatMap_cons, List.length_append, ih, length_leBytes, List.length_cons]; omega

/-- Byte n of words in a row is a byte of word n / 4. -/
theorem getD_flatMap_leBytes : ∀ (ws : List (Nat × Flags)) (n : Nat), n < 4 * ws.length →
    (ws.flatMap (fun w => leBytes 4 w.1)).getD n 0 = BitVec.ofNat 8 ((ws.getD (n / 4) (0, 0)).1 / 256 ^ (n % 4)) := by
  intro ws
  induction ws with
  | nil => intro n h; exact absurd h (Nat.not_lt_zero n)
  | cons w ws ih =>
    intro n h
    rw [List.length_cons] at h
    rw [List.flatMap_cons]
    by_cases hn : n < 4
    · rw [List.getD_append _ _ _ _ (by rw [length_leBytes]; exact hn), getD_leBytes 4 _ _ hn, Nat.div_eq_of_lt hn, Nat.mod_eq_of_lt hn]; rfl
    · obtain ⟨m, rfl⟩ : ∃ m, n = m + 4 := ⟨n - 4, by omega⟩
      rw [List.getD_append_right _ _ _ _ (by rw [length_leBytes]; omega), length_leBytes, Nat.add_sub_cancel, ih m (by omega),
        Nat.add_div_right m (by decide), Nat.add_mod_right]
      rfl

theorem length_rowBytes (j : TmmaJob) (m : Memory) (i : Nat) : (j.rowBytes m i).length = 64 := by
  rw [TmmaJob.rowBytes, length_flatMap_leBytes, TmmaJob.rowOn, List.length_map, List.length_range]

theorem getD_rowBytes (j : TmmaJob) (m : Memory) (i n : Nat) (hn : n < 64) : (j.rowBytes m i).getD n 0 =
    BitVec.ofNat 8 ((j.newC i (n / 4) (Memory.load m (j.addr + 64 * i + 4 * (n / 4)) 4)).1 / 256 ^ (n % 4)) := by
  have hl : (j.rowOn m i).length = 16 := by rw [TmmaJob.rowOn, List.length_map, List.length_range]
  have hw : n / 4 < (j.rowOn m i).length := by omega
  rw [TmmaJob.rowBytes, getD_flatMap_leBytes _ _ (by omega), List.getD_eq_getElem _ _ hw]
  simp only [TmmaJob.rowOn, List.getElem_map, List.getElem_range]

theorem coreAt_putSinceAt (s : State) (k beat x : Nat) (bs : List Byte) :
    (s.putSinceAt k beat x bs).coreAt k = (s.coreAt k).putSince beat s.fresh x bs ∧
      (∀ q, q ≠ k → (s.putSinceAt k beat x bs).coreAt q = s.coreAt q) ∧ (s.putSinceAt k beat x bs).segs = s.segs ∧
      (s.putSinceAt k beat x bs).dies = s.dies ∧ (s.putSinceAt k beat x bs).mod = s.mod := by
  have hs := State.coreAt_onCoreAt_same s k (fun c => c.putSince beat s.fresh x bs)
  have ho := fun q hq => State.coreAt_onCoreAt_other s k q (fun c => c.putSince beat s.fresh x bs) hq
  rw [State.putSinceAt]
  split <;> exact ⟨hs, ho, rfl, rfl, rfl⟩

/-- A row that no uncorrectable unit stops is written at its bank. -/
theorem applyRow_of_good (s : State) (k i : Nat) (j : TmmaJob)
    (h : j.write = true ∨ badIn (s.coreAt k).badScratch (j.addr + 64 * i) 64 = false) :
    (applyRow k j s i).1 = s.putSinceAt k j.beat (j.addr + 64 * i) (j.rowBytes (s.coreAt k).scratch i) := by
  have hb : (!j.write && badIn (s.coreAt k).badScratch (j.addr + 64 * i) 64) = false := by
    rcases h with h | h <;> simp [h]
  simp only [applyRow, hb, Bool.false_eq_true, if_false]
  rfl

theorem Core.putSince_scratch (c : Core) (beat fresh x : Nat) (bs : List Byte) :
    (c.putSince beat fresh x bs).scratch = Memory.setBytes c.scratch x bs := rfl

/-- The scratchpad after row `i` of C: the 16 words of the row, and every other byte as before. -/
theorem byte_applyRow (s : State) (k i : Nat) (j : TmmaJob)
    (h : j.write = true ∨ badIn (s.coreAt k).badScratch (j.addr + 64 * i) 64 = false) (y : Nat) :
    Memory.byte ((applyRow k j s i).1.coreAt k).scratch y =
      if j.addr + 64 * i ≤ y ∧ y < j.addr + 64 * i + 64 then (j.rowBytes (s.coreAt k).scratch i).getD (y - (j.addr + 64 * i)) 0
      else Memory.byte (s.coreAt k).scratch y := by
  rw [applyRow_of_good s k i j h, (coreAt_putSinceAt s k _ _ _).1, Core.putSince_scratch, Memory.byte_setBytes, length_rowBytes]

/-! ### What a later access finds (R119, R306) -/

/-- The words of a load depend on the bytes loaded alone. -/
theorem load_congr (m m' : Memory) : ∀ (n a : Nat), (∀ x, a ≤ x → x < a + n → Memory.byte m x = Memory.byte m' x) →
    Memory.load m a n = Memory.load m' a n := by
  intro n
  induction n with
  | zero => intro a _; rfl
  | succ n ih =>
    intro a h
    rw [Memory.load, Memory.load, h a (le_refl a) (by omega), ih (a + 1) (fun x h1 h2 => h x (by omega) (by omega))]

/-- No uncorrectable unit of the scratchpad stops a row of some work: it reads no word of C, or all of them can be read. -/
def rowsOpen (j : TmmaJob) (c : Core) : Prop := ∀ i, j.write = true ∨ badIn c.badScratch (j.addr + 64 * i) 64 = false

theorem badIn_of_subset {l l' : List Nat} (h : ∀ u ∈ l, u ∈ l') (x n : Nat) (hb : badIn l' x n = false) : badIn l x n = false := by
  simp only [badIn, List.any_eq_false] at hb ⊢
  exact fun u hu => hb u (h u hu)

theorem Core.fill_scratch (c : Core) (x : Nat) (bs : List Byte) : (c.fill x bs).scratch = Memory.setBytes c.scratch x bs := rfl

theorem withRowOf_eq (j : TmmaJob) (c : Core) (i : Nat) (hr : j.rows = []) (ho : rowsOpen j c) :
    c.withRowOf j i = c.fill (j.addr + 64 * i) (j.rowBytes c.scratch i) ∧ rowsOpen j (c.withRowOf j i) := by
  have hl : j.landed i = false := by rw [TmmaJob.landed, hr]; rfl
  have hb : (!j.write && badIn c.badScratch (j.addr + 64 * i) 64) = false := by
    rcases ho i with h | h <;> simp [h]
  have he : c.withRowOf j i = c.fill (j.addr + 64 * i) (j.rowBytes c.scratch i) := by
    simp only [Core.withRowOf, hl, hb, Bool.or_false, Bool.false_eq_true, if_false]
    rfl
  refine ⟨he, fun n => (ho n).imp_right (fun h => ?_)⟩
  rw [he]
  exact badIn_of_subset (fun u hu => List.mem_of_mem_filter hu) _ _ h

/-- A core with the first `m` rows of C of some work in its scratchpad. -/
def Core.withRows (j : TmmaJob) (c : Core) (m : Nat) : Core := (List.range m).foldl (Core.withRowOf j) c

theorem Core.withRows_succ (j : TmmaJob) (c : Core) (m : Nat) : c.withRows j (m + 1) = (c.withRows j m).withRowOf j m := by
  rw [Core.withRows, List.range_succ, List.foldl_append]; rfl

/-- The byte at `y` once the rows up to it have been applied. -/
def TmmaJob.byteOver (j : TmmaJob) (m : Memory) (y : Nat) : Byte :=
  BitVec.ofNat 8 ((j.newC ((y - j.addr) / 64) ((y - j.addr) % 64 / 4) (Memory.load m (j.addr + (y - j.addr) / 4 * 4) 4)).1 / 256 ^ ((y - j.addr) % 4))

/-- A byte of a row of C, over a scratchpad that has kept the row. -/
theorem getD_rowBytes_eq_byteOver (j : TmmaJob) (m m' : Memory) (i n : Nat) (hn : n < 64)
    (h : ∀ x, j.addr + 64 * i ≤ x → Memory.byte m' x = Memory.byte m x) :
    (j.rowBytes m' i).getD n 0 = j.byteOver m (j.addr + 64 * i + n) := by
  have h1 : (j.addr + 64 * i + n - j.addr) / 64 = i := by omega
  have h2 : (j.addr + 64 * i + n - j.addr) % 64 / 4 = n / 4 := by omega
  have h3 : j.addr + (j.addr + 64 * i + n - j.addr) / 4 * 4 = j.addr + 64 * i + 4 * (n / 4) := by omega
  have h4 : (j.addr + 64 * i + n - j.addr) % 4 = n % 4 := by omega
  rw [getD_rowBytes j m' i n hn, TmmaJob.byteOver, h1, h2, h3, h4, load_congr m' m 4 _ (fun x hx _ => h x (by omega))]

/-- One more row of C, written over a scratchpad that already has the rows before it. -/
theorem byte_setBytes_row (j : TmmaJob) (old cur : Memory) (m : Nat)
    (h : ∀ y, Memory.byte cur y = if j.addr ≤ y ∧ y < j.addr + 64 * m then j.byteOver old y else Memory.byte old y) (y : Nat) :
    Memory.byte (Memory.setBytes cur (j.addr + 64 * m) (j.rowBytes cur m)) y =
      if j.addr ≤ y ∧ y < j.addr + 64 * (m + 1) then j.byteOver old y else Memory.byte old y := by
  rw [Memory.byte_setBytes, length_rowBytes]
  by_cases hy : j.addr + 64 * m ≤ y ∧ y < j.addr + 64 * m + 64
  · obtain ⟨n, rfl⟩ : ∃ n, y = j.addr + 64 * m + n := Nat.exists_eq_add_of_le hy.1
    rw [if_pos hy, if_pos (by omega), Nat.add_sub_cancel_left]
    exact getD_rowBytes_eq_byteOver j old cur m n (by omega) (fun x hx => by rw [h x, if_neg (by omega)])
  · rw [if_neg hy, h y]
    by_cases hin : j.addr ≤ y ∧ y < j.addr + 64 * m
    · rw [if_pos hin, if_pos (by omega)]
    · rw [if_neg hin, if_neg (by omega)]

/-- The scratchpad after the first `m` rows of C. -/
theorem byte_withRows (j : TmmaJob) (c : Core) (hr : j.rows = []) (ho : rowsOpen j c) (m : Nat) : rowsOpen j (c.withRows j m) ∧
    ∀ y, Memory.byte (c.withRows j m).scratch y =
      if j.addr ≤ y ∧ y < j.addr + 64 * m then j.byteOver c.scratch y else Memory.byte c.scratch y := by
  induction m with
  | zero => exact ⟨ho, fun y => (if_neg (by omega)).symm⟩
  | succ m ih =>
    obtain ⟨ih1, ih2⟩ := ih
    rw [Core.withRows_succ]
    generalize c.withRows j m = d at ih1 ih2
    obtain ⟨he, hopen⟩ := withRowOf_eq j d m hr ih1
    refine ⟨hopen, fun y => ?_⟩
    rw [he, Core.fill_scratch]
    exact byte_setBytes_row j c.scratch d.scratch m ih2 y

/-- Settles O23: the end of a run by `exec_tmmaHandover_sound` and `exec_tmmaHandover_upset`, a word of C by its product (`newC_int8`,
`product_bf16_rounds`, `product_bfp_rounds` and their NaN cases), a row by `byte_applyRow`, and what a later access finds by `byte_withRows`. -/
theorem matrixResults : Obligations.MatrixResults := by
  refine ⟨fun s die core n due j hj hd ht => ?_, fun j i c old _ _ _ => ?_, fun s k i j _ hgood => ?_, fun c => ?_⟩
  · have hupset := exec_tmmaHandover_upset s die core n due j hj hd ht
    refine ⟨exec_tmmaHandover_sound s die core n due j hj hd ht, fun m x y hu hm hr => ?_, fun m x y hu hm => ?_, fun m x y hu hm hr hf => ?_⟩
    · exact (hupset m x y hu).trans ((if_pos (by omega)).trans (if_pos hr))
    · exact (hupset m x y hu).trans (if_neg (by omega))
    · refine ⟨_, ?_, tileCheck_faults s (coreKey die core)
        { s.coreAt (coreKey die core) with tmma := (s.coreAt (coreKey die core)).tmma.eraseIdx n, tileUpset := none } _ hf⟩
      exact (hupset m x y hu).trans ((if_pos (by omega)).trans (if_neg (by omega)))
  · refine ⟨fun hk => newC_int8 j i c old hk, fun hk => ⟨fun hf => ?_, fun hn => ?_⟩, fun hk => ⟨fun ha hb => ?_, fun h => ?_⟩⟩
    · obtain ⟨zero, hz⟩ := product_bf16_rounds j i c hk hf
      exact ⟨zero, _, hz, newC_of_kind j i c old (by omega)⟩
    · refine ⟨(j.product i c).2, ?_⟩
      rw [← product_bf16_nan j i c hk hn]
      exact newC_of_kind j i c old (by omega)
    · exact ⟨_, product_bfp_rounds j i c hk ha hb, newC_of_kind j i c old (by omega)⟩
    · rw [← product_bfp_nan j i c hk h]
      exact newC_of_kind j i c old (by omega)
  · refine ⟨fun y => (byte_applyRow s k i j hgood y).trans (ite_congr rfl (fun hy => getD_rowBytes j _ i _ (by omega)) (fun _ => rfl)), ?_⟩
    rw [applyRow_of_good s k i j hgood]
    obtain ⟨-, hother, hsegs, hdies, hmod⟩ := coreAt_putSinceAt s k j.beat (j.addr + 64 * i) (j.rowBytes (s.coreAt k).scratch i)
    exact ⟨hsegs, hdies, hmod, hother⟩
  · refine ⟨fun h => ?_, fun j h hr hgood y => ?_⟩
    · rw [Core.settled, h]; rfl
    · have hs : c.settled = c.withRows j 16 := congrArg (List.foldl _ c) h
      rw [hs]
      exact (byte_withRows j c hr hgood 16).2 y

end Sys2Proof.Machine
end

section
/-! PROOFS. The scope: elementwise floating-point instructions, and what the operations of a format give for finite inputs, NaNs and infinities. -/

namespace Sys2Proof.Machine
open Sys2Proof.Says

/-! ### The instructions (R159 to R163) -/

/-- Clamping to the range of int32, written with minimum and maximum. -/
theorem satS_eq (v : Int) :
    satS v = (BitVec.ofInt 32 (max (-2147483648) (min 2147483647 v)), if -2147483648 ≤ v ∧ v ≤ 2147483647 then 0 else fSAT) := by
  have hl : -((2 ^ 31 : Nat) : Int) = -2147483648 := by norm_num
  have hu : ((2 ^ 31 : Nat) : Int) - 1 = 2147483647 := by norm_num
  simp only [satS, hl, hu]
  by_cases h1 : v < -2147483648
  · rw [if_pos h1, if_neg (by omega), show max (-2147483648) (min 2147483647 v) = -2147483648 by omega]; rfl
  · by_cases h2 : 2147483647 < v
    · rw [if_neg h1, if_pos h2, if_neg (by omega), show max (-2147483648) (min 2147483647 v) = 2147483647 by omega]; rfl
    · rw [if_neg h1, if_neg h2, if_pos (by omega), show max (-2147483648) (min 2147483647 v) = v by omega]

theorem toBf16Pair_eq (md : FpMode) (x y : W32) : toBf16Pair md x y =
    (BitVec.ofNat 32 ((fpConvert f32 bf16 md x.toNat).1 + 65536 * (fpConvert f32 bf16 md y.toNat).1),
      (fpConvert f32 bf16 md x.toNat).2 ||| (fpConvert f32 bf16 md y.toNat).2) := by
  rw [Nat.mul_comm 65536]; rfl

/-- Each elementwise floating-point instruction computes its function of its sources' elements. -/
theorem exec_vFloat (s : State) (d a b : Reg) (q : Reg3) (c : VCtl) :
    ∀ e ∈ vFloat s d a b q c, exec e.1 s = vEach s d e.2.1 c e.2.2.1 e.2.2.2 := by
  simp only [vFloat, List.forall_mem_cons, List.not_mem_nil, false_implies, implies_true, and_true, ← satS_eq, ← toBf16Pair_eq]
  and_intros <;> rfl

/-! ### Finite inputs (R33, R36) -/

/-- The formats with their canonical NaNs. -/
theorem formats_mem : ∀ e ∈ [(f64, 11, 52, 0x7FF8000000000000), (f32, 8, 23, 0x7FC00000), (bf16, 8, 7, 0x7FC0)],
    e.1.eb = e.2.1 ∧ e.1.mb = e.2.2.1 ∧ e.1.nan = e.2.2.2 ∧ 2 ≤ e.1.eb ∧ 1 ≤ e.1.mb := by
  simp only [List.forall_mem_cons, List.not_mem_nil, false_implies, implies_true, and_true]
  exact ⟨⟨rfl, rfl, rfl, by decide, by decide⟩, ⟨rfl, rfl, rfl, by decide, by decide⟩, rfl, rfl, rfl, by decide, by decide⟩

theorem sources_mem : ∀ g ∈ [f64, f32, bf16], 2 ≤ g.eb ∧ 1 ≤ g.mb := by decide

section
variable (f : Fmt) (he : 2 ≤ f.eb) (hm : 1 ≤ f.mb) (md : FpMode)
include he hm

/-- The rounding of an exact number over a power of two at least that of the format. -/
theorem roundV_rounds_of_le {v : FVal} {a : Bool} {k : Nat} {n : Int} (h : v.scaled a k n) (hk : leastExp f ≤ k) :
    roundsInt f md n (k - leastExp f) a (roundV f md v) := by
  have hr := roundV_rounds f he hm md h
  rwa [Nat.sub_eq_zero_of_le hk, pow_zero, mul_one] at hr

/-- The exact sum rounded once; a sum that is 0 takes the sign of R36. -/
theorem addV_rounds {v w : FVal} {a b : Bool} {k : Nat} {n p : Int} (h : v.scaled a k n) (g : w.scaled b k p) (hk : leastExp f ≤ k) :
    roundsInt f md (n + p) (k - leastExp f) (zeroSign md a b (n = 0)) (roundV f md (addV md.rm v w)) :=
  roundsInt_zero (roundV_rounds_of_le f he hm md (addV_scaled md.rm h g) hk) (fun hz => if_pos hz)

variable {a b c : Nat} (ha : finIn f a) (hb : finIn f b)
include ha hb

theorem fpAdd_rounds : roundsInt f md (unitsIn f md.ftz a + unitsIn f md.ftz b) 0
    (zeroSign md (signIn f a) (signIn f b) (unitsIn f md.ftz a = 0)) (fpAdd f md a b) := by
  have h := addV_rounds f he hm md (unpack_scaled f he hm md.ftz a ha) (unpack_scaled f he hm md.ftz b hb) le_rfl
  rwa [Nat.sub_self] at h

theorem fpSub_rounds : roundsInt f md (unitsIn f md.ftz a - unitsIn f md.ftz b) 0
    (zeroSign md (signIn f a) (!(signIn f b)) (unitsIn f md.ftz a = 0)) (fpSub f md a b) := by
  have h := addV_rounds f he hm md (unpack_scaled f he hm md.ftz a ha) (neg_scaled (unpack_scaled f he hm md.ftz b hb)) le_rfl
  rwa [Nat.sub_self, ← sub_eq_add_neg] at h

theorem fpMul_rounds : roundsInt f md (unitsIn f md.ftz a * unitsIn f md.ftz b) (leastExp f) (signIn f a != signIn f b) (fpMul f md a b) := by
  have h := roundV_rounds_of_le f he hm md (mulV_scaled (unpack_scaled f he hm md.ftz a ha) (unpack_scaled f he hm md.ftz b hb)) (Nat.le_add_left _ _)
  rwa [Nat.add_sub_cancel] at h

/-- The product, negated where an instruction says so. -/
theorem signed_product_scaled (neg : Bool) :
    (if neg then (mulV (unpack f md.ftz a) (unpack f md.ftz b)).neg else mulV (unpack f md.ftz a) (unpack f md.ftz b)).scaled
      ((signIn f a != signIn f b) != neg) (leastExp f + leastExp f)
      ((if neg then -1 else 1) * (unitsIn f md.ftz a * unitsIn f md.ftz b)) := by
  have h := mulV_scaled (unpack_scaled f he hm md.ftz a ha) (unpack_scaled f he hm md.ftz b hb)
  cases neg with
  | false => simpa using h
  | true => simpa using neg_scaled h

theorem fpFma_rounds (neg : Bool) (hc : finIn f c) :
    roundsInt f md ((if neg then -1 else 1) * (unitsIn f md.ftz a * unitsIn f md.ftz b) + unitsIn f md.ftz c * 2 ^ leastExp f) (leastExp f)
      (zeroSign md ((signIn f a != signIn f b) != neg) (signIn f c) (unitsIn f md.ftz c = 0)) (fpFma f md neg a b c) := by
  have h := addV_rounds f he hm md (signed_product_scaled f he hm md ha hb neg) (FVal.scaled_up (leastExp f) (unpack_scaled f he hm md.ftz c hc))
    (Nat.le_add_left _ _)
  rw [Nat.add_sub_cancel] at h
  refine roundsInt_zero h (fun hz => ?_)
  have hzero : (if neg then -1 else 1) * (unitsIn f md.ftz a * unitsIn f md.ftz b) = 0 ↔ unitsIn f md.ftz c = 0 := by
    have hp : (2 : Int) ^ leastExp f ≠ 0 := pow_ne_zero _ two_ne_zero
    rw [eq_neg_of_add_eq_zero_left hz, neg_eq_zero, mul_eq_zero, or_iff_left hp]
  simp only [zeroSign, hzero]

end

/-! ### NaN inputs (R37) -/

theorem unpack_eq_signalling (f : Fmt) (hm : 1 ≤ f.mb) (ftz : Bool) (a : Nat) (h : snanIn f a) : unpack f ftz a = .nan .signalling := by
  obtain ⟨hn, hs⟩ := h
  rw [unpack_of_nanIn f hm ftz a hn, hs]; rfl

theorem unpack_eq_quiet (f : Fmt) (hm : 1 ≤ f.mb) (ftz : Bool) (a : Nat) (h : nanIn f a) (hs : ¬snanIn f a) : unpack f ftz a = .nan .quiet := by
  have hq : a.testBit (f.mb - 1) = true := by
    by_contra hq
    exact hs ⟨h, Bool.not_eq_true _ ▸ hq⟩
  rw [unpack_of_nanIn f hm ftz a h, hq]; rfl

/-- A pattern that is no signalling NaN is no signalling value. -/
theorem unpack_ne_signalling (f : Fmt) (he : 2 ≤ f.eb) (hm : 1 ≤ f.mb) (ftz : Bool) (a : Nat) (hs : ¬snanIn f a) :
    unpack f ftz a ≠ .nan .signalling := by
  rcases pattern_cases f a with h | h | h
  · rw [unpack_eq_quiet f hm ftz a h hs]; exact fun h => by cases h
  · rw [unpack_of_infIn f ftz a h]; exact fun h => by cases h
  · obtain ⟨m, e, hu, -⟩ := unpack_of_finIn f he hm ftz a h
    rw [hu]; exact fun h => by cases h

/-- An operation of two values gives a signalling NaN for a signalling one alone, and otherwise a quiet one where it takes one (R37). -/
def passesNan (op : FVal → FVal → FVal) : Prop :=
  ∀ v w, (v = .nan .signalling ∨ w = .nan .signalling → op v w = .nan .signalling) ∧
    (v ≠ .nan .signalling → w ≠ .nan .signalling → op v w ≠ .nan .signalling) ∧
    (v ≠ .nan .signalling → w ≠ .nan .signalling → v = .nan .quiet ∨ w = .nan .quiet → op v w = .nan .quiet)

/-- The kind of NaN that comes of two. -/
theorem joinNan_kinds (k l : NanKind) : (k = .signalling ∨ l = .signalling → joinNan k l = .signalling) ∧
    (k ≠ .signalling → l ≠ .signalling → joinNan k l ≠ .signalling) ∧
    (k ≠ .signalling → l ≠ .signalling → k = .quiet ∨ l = .quiet → joinNan k l = .quiet) := by
  cases k <;> cases l <;> decide

/-- An operation that joins two NaNs, keeps one, and makes no signalling NaN of numbers, passes NaNs on. -/
theorem passesNan_of (op : FVal → FVal → FVal) (hboth : ∀ k l, op (.nan k) (.nan l) = .nan (joinNan k l))
    (hleft : ∀ k w, ¬w.isNan → op (.nan k) w = .nan k) (hright : ∀ v k, ¬v.isNan → op v (.nan k) = .nan k)
    (hnone : ∀ v w, ¬v.isNan → ¬w.isNan → op v w ≠ .nan .signalling) : passesNan op := by
  intro v w
  by_cases hv : v.isNan <;> by_cases hw : w.isNan
  · obtain ⟨k, rfl⟩ := hv
    obtain ⟨l, rfl⟩ := hw
    simpa only [hboth, FVal.nan.injEq, ne_eq] using joinNan_kinds k l
  · obtain ⟨k, rfl⟩ := hv
    have hw' : ∀ l, w ≠ .nan l := fun l h => hw ⟨l, h⟩
    simp [hleft k w hw, hw']
  · obtain ⟨k, rfl⟩ := hw
    have hv' : ∀ l, v ≠ .nan l := fun l h => hv ⟨l, h⟩
    simp [hright v k hv, hv']
  · have hv' : ∀ l, v ≠ .nan l := fun l h => hv ⟨l, h⟩
    have hw' : ∀ l, w ≠ .nan l := fun l h => hw ⟨l, h⟩
    simp [hnone v w hv hw, hv', hw']

theorem not_isNan_inf (s : Bool) : ¬(FVal.inf s).isNan := fun ⟨_, h⟩ => by cases h

theorem not_isNan_fin (s : Bool) (m : Nat) (e : Int) : ¬(FVal.fin s m e).isNan := fun ⟨_, h⟩ => by cases h

/-- A value that is no NaN is an infinity or a number. -/
theorem FVal.cases_of_not_isNan {v : FVal} (h : ¬v.isNan) : (∃ s, v = .inf s) ∨ ∃ s m e, v = .fin s m e := by
  cases v with
  | nan k => exact absurd ⟨k, rfl⟩ h
  | inf s => exact .inl ⟨s, rfl⟩
  | fin s m e => exact .inr ⟨s, m, e, rfl⟩

theorem passesNan_addV (rm : Rm) : passesNan (addV rm) := by
  refine passesNan_of _ (fun _ _ => rfl) (fun k w hw => ?_) (fun v k hv => ?_) (fun v w hv hw => ?_)
  · rcases FVal.cases_of_not_isNan hw with ⟨s, rfl⟩ | ⟨s, m, e, rfl⟩ <;> rfl
  · rcases FVal.cases_of_not_isNan hv with ⟨s, rfl⟩ | ⟨s, m, e, rfl⟩ <;> rfl
  · rcases FVal.cases_of_not_isNan hv with ⟨s, rfl⟩ | ⟨s, m, e, rfl⟩ <;> rcases FVal.cases_of_not_isNan hw with ⟨t, rfl⟩ | ⟨t, n, i, rfl⟩
    · simp only [addV]
      split_ifs <;> simp
    · simp [addV]
    · simp [addV]
    · simp only [addV]
      split_ifs <;> simp

theorem passesNan_mulV : passesNan mulV := by
  refine passesNan_of _ (fun _ _ => rfl) (fun k w hw => ?_) (fun v k hv => ?_) (fun v w hv hw => ?_)
  · rcases FVal.cases_of_not_isNan hw with ⟨s, rfl⟩ | ⟨s, m, e, rfl⟩ <;> rfl
  · rcases FVal.cases_of_not_isNan hv with ⟨s, rfl⟩ | ⟨s, m, e, rfl⟩ <;> rfl
  · rcases FVal.cases_of_not_isNan hv with ⟨s, rfl⟩ | ⟨s, m, e, rfl⟩ <;> rcases FVal.cases_of_not_isNan hw with ⟨t, rfl⟩ | ⟨t, n, i, rfl⟩
    · simp [mulV]
    · simp only [mulV]
      split_ifs <;> simp
    · simp only [mulV]
      split_ifs <;> simp
    · simp [mulV]

theorem FVal.neg_eq_nan {v : FVal} {k : NanKind} : v.neg = .nan k ↔ v = .nan k := by
  cases v <;> simp [FVal.neg]

theorem passesNan_sub (rm : Rm) : passesNan (fun v w => addV rm v w.neg) := by
  intro v w
  have h := passesNan_addV rm v w.neg
  simpa only [ne_eq, FVal.neg_eq_nan] using h

section
variable (f : Fmt) (he : 2 ≤ f.eb) (hm : 1 ≤ f.mb) (md : FpMode) {a b c : Nat}
include he hm

/-- An operation that passes NaNs on, rounded to the canonical NaN. -/
theorem roundV_of_passesNan {op : FVal → FVal → FVal} (hop : passesNan op) (h : nanIn f a ∨ nanIn f b) :
    (snanIn f a ∨ snanIn f b → roundV f md (op (unpack f md.ftz a) (unpack f md.ftz b)) = (f.nan, 0x0001)) ∧
      (¬(snanIn f a ∨ snanIn f b) → roundV f md (op (unpack f md.ftz a) (unpack f md.ftz b)) = (f.nan, 0)) := by
  obtain ⟨hsig, -, hquiet⟩ := hop (unpack f md.ftz a) (unpack f md.ftz b)
  constructor
  · intro hs
    rw [hsig (hs.imp (unpack_eq_signalling f hm md.ftz a) (unpack_eq_signalling f hm md.ftz b))]; rfl
  · intro hs
    obtain ⟨ha, hb⟩ := not_or.mp hs
    rw [hquiet (unpack_ne_signalling f he hm md.ftz a ha) (unpack_ne_signalling f he hm md.ftz b hb)
      (h.imp (fun h => unpack_eq_quiet f hm md.ftz a h ha) (fun h => unpack_eq_quiet f hm md.ftz b h hb))]; rfl

theorem fpBinary_nan (h : nanIn f a ∨ nanIn f b) : ∀ r ∈ [fpAdd f md a b, fpSub f md a b, fpMul f md a b],
    (snanIn f a ∨ snanIn f b → r = (f.nan, 0x0001)) ∧ (¬(snanIn f a ∨ snanIn f b) → r = (f.nan, 0)) := by
  simp only [List.forall_mem_cons, List.not_mem_nil, false_implies, implies_true, and_true]
  exact ⟨roundV_of_passesNan f he hm md (passesNan_addV md.rm) h, roundV_of_passesNan f he hm md (passesNan_sub md.rm) h,
    roundV_of_passesNan f he hm md passesNan_mulV h⟩

theorem fpFma_nan (neg : Bool) (h : nanIn f a ∨ nanIn f b ∨ nanIn f c) :
    (snanIn f a ∨ snanIn f b ∨ snanIn f c → fpFma f md neg a b c = (f.nan, 0x0001)) ∧
      (¬(snanIn f a ∨ snanIn f b ∨ snanIn f c) → fpFma f md neg a b c = (f.nan, 0)) := by
  obtain ⟨msig, mno, mquiet⟩ := passesNan_mulV (unpack f md.ftz a) (unpack f md.ftz b)
  generalize hp : (if neg then (mulV (unpack f md.ftz a) (unpack f md.ftz b)).neg else mulV (unpack f md.ftz a) (unpack f md.ftz b)) = p
  have hp' : ∀ k, p = .nan k ↔ mulV (unpack f md.ftz a) (unpack f md.ftz b) = .nan k := by
    intro k; subst hp; cases neg
    · exact Iff.rfl
    · exact FVal.neg_eq_nan
  obtain ⟨asig, -, aquiet⟩ := passesNan_addV md.rm p (unpack f md.ftz c)
  have heq : fpFma f md neg a b c = roundV f md (addV md.rm p (unpack f md.ftz c)) := by rw [← hp]; rfl
  rw [heq]
  constructor
  · intro hs
    have hc : p = .nan .signalling ∨ unpack f md.ftz c = .nan .signalling := by
      rcases hs with hs | hs | hs
      · exact .inl ((hp' _).mpr (msig (.inl (unpack_eq_signalling f hm md.ftz a hs))))
      · exact .inl ((hp' _).mpr (msig (.inr (unpack_eq_signalling f hm md.ftz b hs))))
      · exact .inr (unpack_eq_signalling f hm md.ftz c hs)
    rw [asig hc]; rfl
  · intro hs
    obtain ⟨ha, hbc⟩ := not_or.mp hs
    obtain ⟨hb, hc⟩ := not_or.mp hbc
    have ha' := unpack_ne_signalling f he hm md.ftz a ha
    have hb' := unpack_ne_signalling f he hm md.ftz b hb
    have hq : p = .nan .quiet ∨ unpack f md.ftz c = .nan .quiet := by
      rcases h with h | h | h
      · exact .inl ((hp' _).mpr (mquiet ha' hb' (.inl (unpack_eq_quiet f hm md.ftz a h ha))))
      · exact .inl ((hp' _).mpr (mquiet ha' hb' (.inr (unpack_eq_quiet f hm md.ftz b h hb))))
      · exact .inr (unpack_eq_quiet f hm md.ftz c h hc)
    rw [aquiet (fun h => mno ha' hb' ((hp' _).mp h)) (unpack_ne_signalling f he hm md.ftz c hc) hq]; rfl

end

theorem fpConvert_nan (g f : Fmt) (hm : 1 ≤ g.mb) (md : FpMode) (a : Nat) (h : nanIn g a) :
    fpConvert g f md a = (f.nan, if a.testBit (g.mb - 1) = false then 0x0001 else 0) := by
  rw [fpConvert, unpack_of_nanIn g hm md.ftz a h]
  cases a.testBit (g.mb - 1) <;> rfl

/-! ### Infinities and invalid operations (R36, R37) -/

section
variable (f : Fmt) (he : 2 ≤ f.eb) (hm : 1 ≤ f.mb) (md : FpMode) {a b c : Nat}

theorem fpBinary_inf_inf (ha : infIn f a) (hb : infIn f b) :
    fpAdd f md a b = (if signIn f a = signIn f b then (f.inf (signIn f a), 0) else (f.nan, 0x0001)) ∧
      fpSub f md a b = (if signIn f a = signIn f b then (f.nan, 0x0001) else (f.inf (signIn f a), 0)) ∧
      fpMul f md a b = (f.inf (signIn f a != signIn f b), 0) := by
  rw [fpAdd, fpSub, fpMul, unpack_of_infIn f md.ftz a ha, unpack_of_infIn f md.ftz b hb]
  cases signIn f a <;> cases signIn f b <;> exact ⟨rfl, rfl, rfl⟩

include he hm

theorem fpSum_inf_fin (ha : infIn f a) (hb : finIn f b) :
    fpAdd f md a b = (f.inf (signIn f a), 0) ∧ fpAdd f md b a = (f.inf (signIn f a), 0) ∧ fpSub f md a b = (f.inf (signIn f a), 0) ∧
      fpSub f md b a = (f.inf (!(signIn f a)), 0) := by
  obtain ⟨m, e, hu, -⟩ := unpack_of_finIn f he hm md.ftz b hb
  rw [fpAdd, fpAdd, fpSub, fpSub, unpack_of_infIn f md.ftz a ha, hu]
  exact ⟨rfl, rfl, rfl, rfl⟩

/-- The product of an infinity and a number: invalid for 0, and otherwise an infinity. -/
theorem mulV_inf_fin (ha : infIn f a) (hb : finIn f b) :
    mulV (unpack f md.ftz a) (unpack f md.ftz b) = (if unitsIn f md.ftz b = 0 then .nan .invalid else .inf (signIn f a != signIn f b)) ∧
      mulV (unpack f md.ftz b) (unpack f md.ftz a) = (if unitsIn f md.ftz b = 0 then .nan .invalid else .inf (signIn f b != signIn f a)) := by
  obtain ⟨m, e, hu, hz⟩ := unpack_of_finIn f he hm md.ftz b hb
  rw [unpack_of_infIn f md.ftz a ha, hu]
  simp only [mulV, hz, and_self]

theorem fpMul_inf_zero (ha : infIn f a) (hb : finIn f b) (hz : unitsIn f md.ftz b = 0) :
    fpMul f md a b = (f.nan, 0x0001) ∧ fpMul f md b a = (f.nan, 0x0001) := by
  obtain ⟨h1, h2⟩ := mulV_inf_fin f he hm md ha hb
  rw [fpMul, fpMul, h1, h2, if_pos hz, if_pos hz]
  exact ⟨rfl, rfl⟩

theorem fpMul_inf_fin (ha : infIn f a) (hb : finIn f b) (hz : unitsIn f md.ftz b ≠ 0) :
    fpMul f md a b = (f.inf (signIn f a != signIn f b), 0) ∧ fpMul f md b a = (f.inf (signIn f a != signIn f b), 0) := by
  obtain ⟨h1, h2⟩ := mulV_inf_fin f he hm md ha hb
  rw [fpMul, fpMul, h1, h2, if_neg hz, if_neg hz, bne_comm (a := signIn f b)]
  exact ⟨rfl, rfl⟩

theorem fpFma_inf_zero (neg : Bool) (ha : infIn f a) (hb : finIn f b) (hz : unitsIn f md.ftz b = 0) (hc : ¬nanIn f c) :
    fpFma f md neg a b c = (f.nan, 0x0001) := by
  have hp : (if neg then (mulV (unpack f md.ftz a) (unpack f md.ftz b)).neg else mulV (unpack f md.ftz a) (unpack f md.ftz b)) = .nan .invalid := by
    rw [(mulV_inf_fin f he hm md ha hb).1, if_pos hz]
    cases neg <;> rfl
  rw [fpFma, hp]
  rcases pattern_cases f c with h | h | h
  · exact absurd h hc
  · rw [unpack_of_infIn f md.ftz c h]; rfl
  · obtain ⟨m, e, hu, -⟩ := unpack_of_finIn f he hm md.ftz c h
    rw [hu]; rfl

theorem fpSqrt_negative (ha : finIn f a) (hs : signIn f a = true) (hz : unitsIn f md.ftz a ≠ 0) : fpSqrt f md a = (f.nan, 0x0001) := by
  obtain ⟨m, e, hu, h0⟩ := unpack_of_finIn f he hm md.ftz a ha
  have hm0 : m ≠ 0 := fun h => hz (h0.mp h)
  simp only [fpSqrt, hu, hs, if_neg hm0, if_true]
  rfl

end

theorem fpConvert_inf (g f : Fmt) (md : FpMode) (a : Nat) (h : infIn g a) : fpConvert g f md a = (f.inf (signIn g a), 0) := by
  rw [fpConvert, unpack_of_infIn g md.ftz a h]; rfl

/-- An integer rounds once to FP32. -/
theorem fpOfInt_rounds (md : FpMode) (n : Int) : roundsInt f32 md (n * 2 ^ leastExp f32) 0 false (fpOfInt md n) :=
  roundFin_roundsInt f32 (by decide) (by decide) md n 0 (leastExp f32) 0 (by simp)

/-- Settles O10: each instruction is elementwise (`exec_vFloat`, `vEach_sets`), and the operations of a format round an exact value once
(`addV_rounds`, `roundV_rounds_of_le`), pass NaNs on (`roundV_of_passesNan`, `fpFma_nan`), and give infinities and invalid operations by the lemma
of each case. -/
theorem vectorFloat : Obligations.VectorFloat := by
  refine ⟨fun s d a b q c e he hl => ?_, fun e hmem md a b c neg => ?_⟩
  · rw [exec_vFloat s d a b q c e he]
    exact vEach_sets s d e.2.1 c e.2.2.1 e.2.2.2 hl
  · obtain ⟨heb, hmb, hnan, he, hm⟩ := formats_mem e hmem
    dsimp only
    rw [← hnan]
    refine ⟨heb, hmb, fun ha hb => ?_, fun g hg ha => ?_, fpBinary_nan e.1 he hm md, fun h => ?_, fun g hg h => ?_,
      fpBinary_inf_inf e.1 md, fun ha hb => ?_, fun g hg h => ?_,
      fpOfInt_rounds md, fpSqrt_negative e.1 he hm md⟩
    · exact ⟨fpAdd_rounds e.1 he hm md ha hb, fpSub_rounds e.1 he hm md ha hb, fpMul_rounds e.1 he hm md ha hb, fpFma_rounds e.1 he hm md ha hb neg⟩
    · obtain ⟨hge, hgm⟩ := sources_mem g hg
      exact roundV_rounds e.1 he hm md (unpack_scaled g hge hgm md.ftz a ha)
    · obtain ⟨hs, hq⟩ := fpFma_nan e.1 he hm md neg h
      refine ⟨?_, fun hsnan => by rw [hs hsnan], fun hno _ => by rw [hq hno]⟩
      by_cases hsnan : snanIn e.1 a ∨ snanIn e.1 b ∨ snanIn e.1 c
      · rw [hs hsnan]
      · rw [hq hsnan]
    · exact fpConvert_nan g e.1 (sources_mem g hg).2 md a h
    · obtain ⟨h1, h2, h3, h4⟩ := fpSum_inf_fin e.1 he hm md ha hb
      refine ⟨h1, h2, h3, h4, fun hz => ?_, fpMul_inf_fin e.1 he hm md ha hb⟩
      obtain ⟨h5, h6⟩ := fpMul_inf_zero e.1 he hm md ha hb hz
      exact ⟨h5, h6, fpFma_inf_zero e.1 he hm md neg ha hb hz⟩
    · exact fpConvert_inf g e.1 md a h

end Sys2Proof.Machine
end

section
/-! PROOFS. The scope: the decoder reads back what the encoder writes, as a word of its slot and as the only word of a row. -/

namespace Sys2Proof

/-! ### Every instruction (R97, R105 to R107, R112 to R116) -/

/-- The words of every instruction are read back as it: a step of the device has none, and each constructor of a slot has its lemma, here in the order
of the constructors. -/
theorem readsBack (i : Instr) : ReadsBack i := by
  cases i
  any_goals exact Laws.RoundTrip.noWords rfl
  exacts [
    -- the S slot
    readsBack_add _ _ _ _, readsBack_sub _ _ _ _, readsBack_addi _ _ _, readsBack_ldi _ _, readsBack_lui _ _, readsBack_ldk _ _,
    readsBack_mul _ _ _ _, readsBack_mulh _ _ _ _, readsBack_mulhu _ _ _ _, readsBack_div _ _ _ _, readsBack_divu _ _ _ _, readsBack_rem _ _ _ _,
    readsBack_remu _ _ _ _, readsBack_and _ _ _ _, readsBack_or _ _ _ _, readsBack_xor _ _ _ _, readsBack_andn _ _ _ _, readsBack_orn _ _ _ _,
    readsBack_xnor _ _ _ _, readsBack_andi _ _ _, readsBack_ori _ _ _, readsBack_xori _ _ _, readsBack_shl _ _ _ _, readsBack_shr _ _ _ _,
    readsBack_sra _ _ _ _, readsBack_ror _ _ _ _, readsBack_shli _ _ _ _ _, readsBack_shri _ _ _ _ _, readsBack_srai _ _ _ _ _,
    readsBack_rori _ _ _ _ _, readsBack_min _ _ _ _, readsBack_max _ _ _ _, readsBack_minu _ _ _ _, readsBack_maxu _ _ _ _, readsBack_clz _ _ _,
    readsBack_ctz _ _ _, readsBack_popc _ _ _, readsBack_brev _ _ _, readsBack_sext8 _ _ _, readsBack_sext16 _ _ _, readsBack_sext32 _ _ _,
    readsBack_zext8 _ _ _, readsBack_zext16 _ _ _, readsBack_zext32 _ _ _, readsBack_cmpeq _ _ _ _, readsBack_cmpne _ _ _ _,
    readsBack_cmplt _ _ _ _, readsBack_cmpltu _ _ _ _, readsBack_cmple _ _ _ _, readsBack_cmpleu _ _ _ _, readsBack_cmpieq _ _ _,
    readsBack_cmpilt _ _ _, readsBack_cmpiltu _ _ _, readsBack_sel _ _ _ _ _, readsBack_pand _ _ _ _, readsBack_por _ _ _ _, readsBack_pxor _ _ _ _,
    readsBack_pandn _ _ _ _, readsBack_pnot _ _ _, readsBack_pget _ _, readsBack_pset _ _, readsBack_ldb _ _ _, readsBack_ldbu _ _ _,
    readsBack_ldh _ _ _, readsBack_ldhu _ _ _, readsBack_ldw _ _ _, readsBack_ldwu _ _ _, readsBack_ldd _ _ _, readsBack_stb _ _ _,
    readsBack_sth _ _ _, readsBack_stw _ _ _, readsBack_std _ _ _, readsBack_ldx _ _ _ _ _ _, readsBack_stx _ _ _ _ _ _, readsBack_aadd _ _ _ _,
    readsBack_aaddw _ _ _ _, readsBack_amin _ _ _ _, readsBack_amax _ _ _ _, readsBack_aswap _ _ _ _, readsBack_aand _ _ _ _, readsBack_aor _ _ _ _,
    readsBack_afadd _ _ _ _, readsBack_acas _ _ _ _, readsBack_br _ _ _, readsBack_jmp _, readsBack_call _, readsBack_jmpr _ _, readsBack_loop _ _,
    readsBack_exit, readsBack_tdfence _, readsBack_mapfence _, readsBack_spfence _, readsBack_syncmark _, readsBack_tdw _ _ _ _,
    readsBack_tdr _ _ _ _, readsBack_crd _ _, readsBack_cwr _ _, readsBack_rngs _ _, readsBack_trap _ _ _, readsBack_eret _ _ _,
    readsBack_mapw _ _ _ _, readsBack_haltctx _ _ _ _, readsBack_ctxsv _ _ _ _, readsBack_ctxrs _ _ _ _, readsBack_keyz _ _ _,
    readsBack_scrub _ _ _ _, readsBack_assign _ _ _ _,
    -- the V slot
    readsBack_vadd _ _ _ _, readsBack_vadds _ _ _ _, readsBack_vaddsu _ _ _ _, readsBack_vsub _ _ _ _, readsBack_vsubs _ _ _ _,
    readsBack_vsubsu _ _ _ _, readsBack_vmul _ _ _ _, readsBack_vmulh _ _ _ _, readsBack_vmulhu _ _ _ _, readsBack_vand _ _ _ _,
    readsBack_vor _ _ _ _, readsBack_vxor _ _ _ _, readsBack_vandn _ _ _ _, readsBack_vshl _ _ _ _, readsBack_vshr _ _ _ _, readsBack_vsra _ _ _ _,
    readsBack_vshli _ _ _ _, readsBack_vshri _ _ _ _, readsBack_vsrai _ _ _ _, readsBack_vmin _ _ _ _, readsBack_vmax _ _ _ _,
    readsBack_vminu _ _ _ _, readsBack_vmaxu _ _ _ _, readsBack_vcmpeq _ _ _ _, readsBack_vcmpne _ _ _ _, readsBack_vcmplt _ _ _ _,
    readsBack_vcmpltu _ _ _ _, readsBack_vcmple _ _ _ _, readsBack_vcmpleu _ _ _ _, readsBack_vfadd _ _ _ _, readsBack_vfsub _ _ _ _,
    readsBack_vfmul _ _ _ _, readsBack_vfma _ _ _ _, readsBack_vfnma _ _ _ _, readsBack_vfmin _ _ _ _, readsBack_vfmax _ _ _ _,
    readsBack_vfcmpeq _ _ _ _, readsBack_vfcmplt _ _ _ _, readsBack_vfcmple _ _ _ _, readsBack_vfcmpun _ _ _ _, readsBack_vfabs _ _ _,
    readsBack_vfneg _ _ _, readsBack_vfsqrt _ _ _, readsBack_vrcp _ _ _, readsBack_vrsq _ _ _, readsBack_vexp2 _ _ _, readsBack_vlog2 _ _ _,
    readsBack_vfloor _ _ _, readsBack_vfceil _ _ _, readsBack_vfrint _ _ _, readsBack_vcvtfi _ _ _, readsBack_vcvtfit _ _ _, readsBack_vcvtif _ _ _,
    readsBack_vcvtfb _ _ _ _, readsBack_vcvtbfl _ _ _, readsBack_vcvtbfh _ _ _, readsBack_vdot2 _ _ _ _, readsBack_vdot4 _ _ _ _,
    readsBack_vdot4us _ _ _ _, readsBack_vqma _ _ _ _, readsBack_vqmai _ _ _ _, readsBack_vqnarf _ _ _, readsBack_vqnars _ _ _,
    readsBack_vqnarw _ _ _, readsBack_vqclr _ _, readsBack_vqwf _ _ _, readsBack_vqwi _ _ _, readsBack_vredadd _ _ _, readsBack_vredfadd _ _ _,
    readsBack_vredmin _ _ _, readsBack_vredmax _ _ _, readsBack_vredfmin _ _ _, readsBack_vredfmax _ _ _, readsBack_vbcst _ _ _,
    readsBack_vextr _ _ _, readsBack_vins _ _ _, readsBack_viota _ _, readsBack_vperm _ _ _ _, readsBack_vslup _ _ _ _, readsBack_vsldn _ _ _ _,
    readsBack_vcmpr _ _ _ _, readsBack_mand _ _ _ _, readsBack_mor _ _ _ _, readsBack_mxor _ _ _ _, readsBack_mnot _ _ _, readsBack_mpop _ _ _,
    readsBack_mfirst _ _ _, readsBack_mset _ _ _, readsBack_mget _ _ _, readsBack_vsel _ _ _ _ _, readsBack_vldW _ _ _ _, readsBack_vldH _ _ _ _,
    readsBack_vldHu _ _ _ _, readsBack_vldB _ _ _ _, readsBack_vldBu _ _ _ _, readsBack_vstW _ _ _ _, readsBack_vstH _ _ _ _,
    readsBack_vstB _ _ _ _, readsBack_vgath _ _ _ _, readsBack_vscat _ _ _ _, readsBack_vsortS _ _ _, readsBack_vsortF _ _ _,
    readsBack_vsortU _ _ _, readsBack_vruns _ _ _, readsBack_vsegadd _ _ _ _, readsBack_vsegfadd _ _ _ _, readsBack_vrng _ _,
    readsBack_vbfpq _ _ _ _, readsBack_vbfpx _ _ _, readsBack_vt5pk _ _ _, readsBack_vt5up _ _ _,
    -- the T slot
    readsBack_tld _ _ _, readsBack_tst _ _ _, readsBack_twin _ _ _, readsBack_tzero _, readsBack_tmmaBf16 _ _ _, readsBack_tmmaBfp _ _ _,
    readsBack_tmmaI8 _ _ _, readsBack_tmmaBf16W _ _ _, readsBack_tmmaBfpW _ _ _, readsBack_tmmaI8W _ _ _, readsBack_ttrn _ _, readsBack_trowv _ _ _,
    readsBack_tvrow _ _ _, readsBack_xclr, readsBack_xswap, readsBack_xsave _, readsBack_xload _,
    -- the W slot
    readsBack_pcopy _, readsBack_pgath _, readsBack_pscanSumi _, readsBack_pscanSumf _, readsBack_pscanMin _, readsBack_pscanMax _,
    readsBack_pscanCount _, readsBack_pfilt _, readsBack_pput _, readsBack_pupdAddi32 _, readsBack_pupdAddf32 _, readsBack_pupdMini32 _,
    readsBack_pupdMaxi32 _, readsBack_pupdAnd _, readsBack_pupdOr _, readsBack_pupdXor _, readsBack_pupdSwap _, readsBack_pupdoAddf32 _,
    readsBack_pupdoAddi32 _, readsBack_pcmt _, readsBack_padam _, readsBack_pzero _, readsBack_pzeroPhys _, readsBack_phostIn _,
    readsBack_phostOut _, readsBack_pmatWrite _, readsBack_pmatAccum _, readsBack_preop _, readsBack_pcanc _, readsBack_pfence, readsBack_twany _,
    readsBack_twall _, readsBack_tfirst _ _, readsBack_tclr _, readsBack_cwait _, readsBack_prnd,
    -- the L slot
    readsBack_lsendV _ _ _, readsBack_lsendS _ _, readsBack_lrecv _ _ _, readsBack_lput _ _ _ _, readsBack_lamoAdd32 _ _ _ _,
    readsBack_lamoFadd32 _ _ _ _, readsBack_lamoMin32 _ _ _ _, readsBack_lamoMax32 _ _ _ _, readsBack_barDie _, readsBack_barLaunch _,
    readsBack_barSys _, readsBack_baraDie _, readsBack_baraLaunch _, readsBack_baraSys _, readsBack_barw _, readsBack_cbacq _ _,
    readsBack_cbcomLocal _, readsBack_cbcomRemote _ _ _ _, readsBack_cbwait _ _, readsBack_cbrel _, readsBack_belay _, readsBack_waitt _,
    readsBack_tstmp _, readsBack_launch _, readsBack_ljoin _]

/-! ### A row of one word (R91, R92, R94) -/

/-- An instruction has an extension word other than 0 only where its word is long. -/
theorem ext_eq_zero_or_isLong (i : Instr) {k : Slot} {w x : W32} (h : encode i = some (k, w, x)) : x = 0#32 ∨ isLong k w = true := by
  cases i <;> cases h
  -- the extension word is the literal 0, but for `LDK` and the passes, whose opcodes are those of long words
  all_goals simp [isLong]

/-- The row of one word has the mask bit of its slot alone. -/
theorem uses_single (k j : Slot) (w x : W32) : (RowWords.single k w x).uses j = decide (j = k) := by
  cases k <;> cases j <;> simp [RowWords.single, RowWords.uses]

theorem word_single (k : Slot) (w x : W32) (hx : x = 0#32 ∨ isLong k w = true) : (RowWords.single k w x).word k = (w, x) := by
  cases k
  case s | w =>
    rcases hx with rfl | hlong
    · simp [RowWords.single, RowWords.word]
    · simp [RowWords.single, RowWords.word, hlong]
  all_goals
    have h0 : x = 0#32 := hx.resolve_right (by simp [isLong])
    rw [h0]; rfl

/-- A row that uses one slot alone decodes to the instruction of that slot. -/
theorem decode_of_uses_one {r : RowWords} {k : Slot} {i : Instr} (hu : ∀ j, r.uses j = decide (j = k))
    (h : decodeSlot k (r.word k).1 (r.word k).2 = .ok i) : r.decode = .ok [i] := by
  cases k <;> simp [RowWords.decode, Slot.all, RowWords.decodeFrom, hu, h]

/-- Settles O58: each constructor's words are read back as it (`readsBack`), and a row that uses one slot alone decodes to the instruction of that
slot (`decode_of_uses_one`). -/
theorem decodeReadsBack : Obligations.DecodeReadsBack := by
  intro i k w x hwf henc
  have hslot := readsBack i k w x henc hwf
  have hword := word_single k w x (ext_eq_zero_or_isLong i henc)
  exact ⟨hslot, decode_of_uses_one (uses_single k · w x) (by rw [hword]; exact hslot)⟩

/-! ### Words written out by hand -/

/-- The words of the list are those that the encoder writes for its instructions. -/
theorem encode_decodedWords : ∀ e ∈ Says.decodedWords, e.2.2.2.wellFormed = true ∧ encode e.2.2.2 = some (e.1, e.2.1, e.2.2.1) := by
  simp only [Says.decodedWords, List.forall_mem_cons, List.not_mem_nil, false_implies, implies_true, and_true]
  and_intros <;> rfl

/-- Settles O57: the listed words are those of their instructions (`encode_decodedWords`), which are read back (`decodeReadsBack`); the two bad words
are refused by evaluation of the maps. -/
theorem decodesWords : Obligations.DecodesWords := by
  refine ⟨fun e he => ?_, rfl, rfl⟩
  obtain ⟨hwf, henc⟩ := encode_decodedWords e he
  exact (decodeReadsBack _ _ _ _ hwf henc).1

end Sys2Proof
end

section
/-! PROOFS. The scope: what a guard that does not hold prevents, what control registers read, and the position of the next row. -/

namespace Sys2Proof.Machine
open Sys2Proof.Says

/-! ### Guards (R106, R133) -/

section
variable {s : State} {g : Guard} (h : s.core.guardOn g = false)
include h

/-- What stands under a guard that does not hold is not done. -/
theorem ite_guardOn_of_off {α : Type} (x y : α) : (if s.core.guardOn g then x else y) = y := by
  rw [h]; rfl

/-- A supervisor form whose guard does not hold leaves the state of supervisor code as it is. -/
theorem supOnly_of_guard_off (hs : s.sup = true) (t : State) : supOnly s (if s.core.guardOn g then t else s) = .next s := by
  rw [supOnly, hs, ite_guardOn_of_off h]; rfl

theorem exec_eret_of_guard_off (hs : s.sup = true) (a b : Reg) : exec (.eret g a b) s = .next s := by
  show supOnly s (if s.core.guardOn g && s.core.trap.inh then s.eret (s.core.rdS a) (s.core.rdS b) else s) = _
  rw [supOnly, hs, h]; rfl

end

/-- Settles O8: each form is guarded by `guarded`, by an `if` of its own (`ite_guardOn_of_off`), or by one below the check of supervisor code
(`supOnly_of_guard_off`). -/
theorem guardedOff : Obligations.GuardedOff := by
  intro s g d a b p q r c sc w w3 f h
  have off : ∀ x : Out, (if s.core.guardOn g then x else .next s) = .next s := fun x => ite_guardOn_of_off h x _
  refine ⟨fun e he => (exec_scalarTwo e he s g d a b).trans (off _), ?_, ?_, ?_, ?_, ?_, ?_, fun hs => ?_⟩
  all_goals simp only [scalarOne, compares, predicates, atomics, atomics32, List.forall_mem_cons, List.not_mem_nil, false_implies, implies_true,
    and_true]
  case refine_7 =>
    have sup := supOnly_of_guard_off h hs
    exact ⟨exec_eret_of_guard_off h hs a b, sup _, sup _, sup _, sup _, sup _, sup _, sup _⟩
  case refine_6 =>
    -- a `TDFENCE` or an `SPFENCE` does no more than hold its row
    exact ⟨off _, off _, off _, off _, off _, off _, off _, off _, off _, off _, rfl, off _, rfl, off _, off _, off _, off _⟩
  all_goals and_intros <;> exact off _

/-! ### Reads of control registers (R110, R111, R148) -/

theorem crd_of_user (s : State) (n : Nat) (hu : s.sup = false) (hn : crSup n = true) : s.crd n = 0 := by
  unfold State.crd; rw [hn, hu]; rfl

/-- The registers of the list read from what the state holds. -/
theorem crd_controls (s : State) : ∀ e ∈ controls s, s.crd e.1 = e.2 := by
  simp only [controls, List.forall_mem_cons, List.not_mem_nil, false_implies, implies_true, and_true]
  and_intros <;> rfl

/-- Settles O28: a `CRD` sets its register (`setsS_setS`) to what `State.crd` reads (`crd_controls`, `crd_of_user`). -/
theorem controlReads : Obligations.ControlReads := by
  have hsup : ∀ n ∈ supervisorOnly, crSup n = true := by decide
  exact fun s d cr => ⟨⟨_, rfl, setsS_setS s s.fresh d _⟩, crd_controls s, fun hu n hn => crd_of_user s n hu (hsup n hn)⟩

/-! ### The position of the next row (R92, R126, R127) -/

/-- The end of a beat changes the mesh entries on their way alone. -/
theorem Core.meshTick_eq (c : Core) (tick : Nat) : c.meshTick tick = { c with meshSend := (c.meshTick tick).meshSend } := by
  unfold Core.meshTick; split <;> rfl

/-- Outside a handler the next row follows after GAP beats, and 3 more where the row branches. -/
theorem Core.nextPos_of_no_handler (c : Core) (gap : Nat) (hr : c.ret = none) :
    let n := gap + if c.jump.isSome then 3 else 0
    c.nextPos gap = { row := c.jump.getD (c.pos.row + 1), beat := c.pos.beat + 1 + BitVec.ofNat 64 n, pend := n } := by
  unfold Core.nextPos
  rw [hr]
  cases c.jump <;> rfl

/-- A row of a running program outside a handler issues: the core stands at its next row. -/
theorem Core.endRow_of_running (c : Core) (gap tick : Nat) (hrun : c.run = .running) (hr : c.ret = none) (hm : c.moved = false) :
    c.endRow gap tick = { c with
      beats := c.beats + 1, flagQ := c.flagQ.filter (fun e => decide (c.beats < e.1)), held := 0, stall := 0
      skidRows := (c.endRow gap tick).skidRows
      pos := c.nextPos gap, lastBeat := c.pos.beat, lastRow := c.pos.row, brkTaken := false, stepTaken := !c.step } := by
  unfold Core.endRow
  rw [hm, hr, hrun]; rfl

/-- Settles O26: a delay row is the end of a row (`Core.endRow_of_running`), whose next position `Core.nextPos_of_no_handler` gives. -/
theorem rowsFollow : Obligations.RowsFollow := by
  intro s gap hrun hret hmoved
  have hcore : (s.endRow gap.toNat).core = (s.core.endRow gap.toNat s.tick).meshTick s.tick := State.core_onCore _ _
  refine ⟨s.endRow gap.toNat, rfl, alone_onCore s _, ?_⟩
  rw [hcore, Core.meshTick_eq, Core.endRow_of_running _ _ _ hrun hret hmoved, Core.nextPos_of_no_handler _ _ hret]
  exact ⟨rfl, rfl, rfl, rfl, rfl, rfl, rfl, rfl, rfl, rfl⟩

end Sys2Proof.Machine
end

section
/-! PROOFS. The scope: the turn of a core whose row falls due, from the words of the row to the step of the machine. -/

namespace Sys2Proof.Machine
open Sys2Proof.Says

/-! ### A row with its instructions (R125 to R131) -/

theorem runAll_issueOrder_singleton (i : Instr) (s : State) : runAll (issueOrder [i]) s = exec i s := by
  have ho : issueOrder [i] = [i] := by cases h : isLast i <;> simp [issueOrder, h]
  rw [ho, runAll]
  cases exec i s <;> rfl

section
variable {is : List Instr} {gap : Byte} {s a : State} (ha : is.foldl State.arm s = a)
include ha

/-- A delay holds the row. -/
theorem dueInstrs_of_delay {d : Nat} {ds : List Nat} (hd : a.rowDelays (is.filter (fun i => !(a.arrives i))) = d :: ds) :
    dueInstrs is gap s = .next (a.heldIn (ds.foldl min d) (is.findSome? a.stallOf)) := by
  subst ha
  unfold dueInstrs
  simp only [hd]

/-- The `BAR` of the row arrives, and then holds the row. -/
theorem dueInstrs_of_arrival {i : Instr} {t : State} (hd : a.rowDelays (is.filter (fun i => !(a.arrives i))) = [])
    (hi : is.find? a.arrives = some i) (ht : exec i a = .next t) : dueInstrs is gap s = .next (t.heldIn dBarrier none) := by
  subst ha
  unfold dueInstrs
  simp only [hd, hi, ht]

/-- The row issues: its instructions run in their order. -/
theorem dueInstrs_of_issue (hn : ∀ i ∈ is, a.arrives i = false) (hd : a.rowDelays is = []) :
    (∀ t, runAll (issueOrder is) a.touchBeat = .next t →
      dueInstrs is gap s = .next ((t.onCore (fun c => { c with banks := a.rowBanks is })).endRow gap.toNat)) ∧
    (∀ f, runAll (issueOrder is) a.touchBeat = .fault f → dueInstrs is gap s = .fault f) ∧
    (∀ r, runAll (issueOrder is) a.touchBeat = .refused r → dueInstrs is gap s = .refused r) := by
  subst ha
  have hfilter : is.filter (fun i => !((is.foldl State.arm s).arrives i)) = is := List.filter_eq_self.mpr (fun i hi => by simp [hn i hi])
  have hfind : is.find? (is.foldl State.arm s).arrives = none := List.find?_eq_none.mpr (fun i hi => by simp [hn i hi])
  unfold dueInstrs
  simp only [hfilter, hd, hfind]
  exact ⟨fun t h => by rw [h], fun f h => by rw [h], fun r h => by rw [h]⟩

end

/-! ### The row that falls due (R91 to R95) -/

section
variable {s : State} (hbad : s.core.pos.row ∉ s.core.badRows) (hrows : s.core.pos.row < s.core.rows)
include hbad hrows

theorem dueRow_of_delay_row (hdec : s.core.dueRow.decode = .ok []) :
    dueRow s = exec (.delayRow s.core.dueRow.gap) (s.beginRow.touchBeat.onCore (fun c => c.beatAsks s.tick)) := by
  simp only [dueRow, List.contains_iff_mem, if_neg hbad, if_neg (Nat.not_le.mpr hrows), hdec]

theorem dueRow_of_instrs {is : List Instr} (hdec : s.core.dueRow.decode = .ok is) (hne : is ≠ []) :
    dueRow s = dueInstrs is s.core.dueRow.gap s.beginRow := by
  obtain ⟨i, r, rfl⟩ := List.exists_cons_of_ne_nil hne
  simp only [dueRow, List.contains_iff_mem, if_neg hbad, if_neg (Nat.not_le.mpr hrows), hdec]

end

/-- In the turn of a core whose row falls due the step is what its row does; the core reports its exit where the row was its `EXIT`. -/
theorem step_of_rowFallsDue {s : State} {die : DieNo} {core : CoreNo} {rest : List Turn} (h : rowFallsDue s die core rest) :
    let k := coreKey die core
    (∀ t, dueRow (dueState s k rest) = .next t → step s = .next (t.exitNow k (s.coreAt k))) ∧
    (∀ f, dueRow (dueState s k rest) = .fault f → step s = .fault f) ∧
    (∀ r, dueRow (dueState s k rest) = .refused r → step s = .refused r) := by
  obtain ⟨hturns, hdoing, -, -⟩ := h
  have hd : ({ s with turns := rest } : State).doing (coreKey die core) = .row := hdoing
  have hdue : (({ s with turns := rest, cur := coreKey die core } : State).onCore Core.endHold) = dueState s (coreKey die core) rest := rfl
  unfold step
  rw [hturns]
  simp only [coreTurn, hd, hdue]
  exact ⟨fun t h => by rw [h]; rfl, fun f h => by rw [h], fun r h => by rw [h]⟩

/-- Settles O56: a step is what the due row does (`step_of_rowFallsDue`): that of a delay row (`dueRow_of_delay_row`), or of a row with instructions
(`dueRow_of_instrs`), which is held (`dueInstrs_of_delay`), arrives (`dueInstrs_of_arrival`) or issues (`dueInstrs_of_issue`). -/
theorem stepRunsTheRow : Obligations.StepRunsTheRow := by
  intro s die core rest is hfalls k u row a ends hdec
  obtain ⟨hnext, hfault, hrefused⟩ := step_of_rowFallsDue hfalls
  obtain ⟨-, -, hbad, hrows⟩ := hfalls
  refine ⟨?_, fun hne hno => ?_, fun i hi hd t ht => ?_⟩
  · rintro rfl
    exact ⟨_, rfl, hnext _ (dueRow_of_delay_row hbad hrows hdec)⟩
  · have hrow := dueRow_of_instrs hbad hrows hdec hne
    have hfilter : is.filter (fun i => !(a.arrives i)) = is := List.filter_eq_self.mpr (fun i hi => by simp [hno i hi])
    refine ⟨fun d ds hd => hnext _ (hrow.trans (dueInstrs_of_delay rfl (by rw [← hd]; exact congrArg _ hfilter))), fun hd => ?_⟩
    obtain ⟨hn, hf, hr⟩ := dueInstrs_of_issue (gap := row.gap) rfl hno hd
    refine ⟨?_, fun t ht => hnext _ (hrow.trans (hn t ht)), fun f hx => hfault f (hrow.trans (hf f hx))⟩
    rintro i rfl
    rw [runAll_issueOrder_singleton] at hn hf hr
    exact ⟨fun t ht => hnext _ (hrow.trans (hn t ht)), fun f hx => hfault f (hrow.trans (hf f hx)), fun r hx => hrefused r (hrow.trans (hr r hx))⟩
  · have hne : is ≠ [] := by rintro rfl; cases hi
    exact hnext _ ((dueRow_of_instrs hbad hrows hdec hne).trans (dueInstrs_of_arrival rfl hd hi ht))

end Sys2Proof.Machine
end

section
/-! PROOFS. The scope: the S-slot instructions of one source or an immediate, compares, and operations of predicates. -/

namespace Sys2Proof.Machine
open Sys2Proof.Says

/-! ### One source or an immediate (R31, R134, R135) -/

/-- A guarded instruction of one scalar source whose guard holds sets its destination and nothing else. -/
theorem alu2_sets (s : State) (g : Guard) (d a : Reg) (f : Word → Word) (hg : s.core.guardOn g = true) :
    ∃ t, alu2 s g d a f = .next t ∧ setsS s t d (f (s.core.rdS a)) :=
  ⟨_, if_pos hg, setsS_setS s s.fresh d _⟩

/-- Each guarded instruction of one source computes its function. -/
theorem exec_scalarOne (b : Reg) (c : BitVec 1) : ∀ e ∈ scalarOne b c, ∀ (s : State) (g : Guard) (d a : Reg),
    exec (e.1 g d a) s = alu2 s g d a e.2 := by
  have hcount : immCount b c = 32 * c.toNat + b.toNat := by rw [immCount, Nat.mul_comm]
  have hror : ∀ x : Word, ror64 x (immCount b c) = x.rotateRight (immCount b c) := fun x => ror64_eq x _ (by rw [immCount]; omega)
  have hz8 : ∀ x : Word, (x.setWidth 8).setWidth 64 = x &&& 0xFF#64 := setWidth_setWidth_eq_and 8
  have hz16 : ∀ x : Word, (x.setWidth 16).setWidth 64 = x &&& 0xFFFF#64 := setWidth_setWidth_eq_and 16
  have hz32 : ∀ x : Word, (x.setWidth 32).setWidth 64 = x &&& 0xFFFFFFFF#64 := setWidth_setWidth_eq_and 32
  simp only [scalarOne, List.forall_mem_cons, List.not_mem_nil, false_implies, implies_true, and_true, ← hz8, ← hz16, ← hz32, ← hcount, ← hror]
  and_intros <;> intros <;> rfl

/-- Each immediate instruction sets its destination to its function of the source. -/
theorem exec_scalarImm (imm : BitVec 16) (k : W32) : ∀ e ∈ scalarImm imm k, ∀ (s : State) (d a : Reg),
    exec (e.1 d a) s = .next (s.setS d (e.2 (s.core.rdS a))) := by
  have hlui : sx16 imm <<< (16 : Nat) = imm.signExtend 64 * 65536 := by
    apply BitVec.eq_of_toNat_eq; simp [sx16, Nat.shiftLeft_eq]
  simp only [scalarImm, List.forall_mem_cons, List.not_mem_nil, false_implies, implies_true, and_true, ← hlui]
  and_intros <;> intros <;> rfl

/-! ### Bits counted and reversed (R135) -/

/-- The leading zeros of a word. -/
theorem clz64_spec (x : Word) : clz64 x ≤ 64 ∧ (∀ i, i < clz64 x → x.getLsbD (63 - i) = false) ∧
    (clz64 x < 64 → x.getLsbD (63 - clz64 x) = true) := by
  rw [clz64]
  by_cases h : x = 0
  · simp [h]
  · have h0 : x.toNat ≠ 0 := fun hz => h (BitVec.eq_of_toNat_eq hz)
    have hlt : Nat.log2 x.toNat < 64 := (Nat.log2_lt h0).mpr x.isLt
    rw [if_neg h]
    refine ⟨by omega, fun i hi => ?_, fun _ => ?_⟩
    · rw [← BitVec.testBit_toNat]
      exact Nat.testBit_lt_two_pow (lt_of_lt_of_le Nat.lt_log2_self (Nat.pow_le_pow_right (by decide) (by omega)))
    · rw [← BitVec.testBit_toNat, show 63 - (63 - Nat.log2 x.toNat) = Nat.log2 x.toNat by omega]
      exact Nat.testBit_log2 h0

/-- The place of the lowest one among `n` bits from bit `i`, or the end of these bits. -/
theorem ctzFrom_spec (a n : Nat) : ∀ i, i ≤ ctzFrom a i n ∧ ctzFrom a i n ≤ i + n ∧
    (∀ j, i ≤ j → j < ctzFrom a i n → a.testBit j = false) ∧ (ctzFrom a i n < i + n → a.testBit (ctzFrom a i n) = true) := by
  induction n with
  | zero => intro i; exact ⟨le_rfl, le_rfl, fun j h1 h2 => absurd h2 (Nat.not_lt.mpr h1), fun h => absurd h (lt_irrefl _)⟩
  | succ n ih =>
    intro i
    obtain ⟨hle, hub, hzero, hone⟩ := ih (i + 1)
    rw [ctzFrom]
    by_cases h : a.testBit i = true
    · rw [if_pos h]
      exact ⟨le_rfl, by omega, fun j h1 h2 => absurd h2 (Nat.not_lt.mpr h1), fun _ => h⟩
    · rw [if_neg h]
      refine ⟨by omega, by omega, fun j h1 h2 => ?_, fun hlt => hone (by omega)⟩
      rcases Nat.eq_or_lt_of_le h1 with rfl | h1
      · simpa using h
      · exact hzero j h1 h2

/-- The trailing zeros of a word. -/
theorem ctz64_spec (x : Word) : ctz64 x ≤ 64 ∧ (∀ i, i < ctz64 x → x.getLsbD i = false) ∧ (ctz64 x < 64 → x.getLsbD (ctz64 x) = true) := by
  obtain ⟨-, hub, hzero, hone⟩ := ctzFrom_spec x.toNat 64 0
  rw [Nat.zero_add] at hub hone
  exact ⟨hub, fun i hi => hzero i (Nat.zero_le i) hi, hone⟩

/-- The number of ones among the low bits. -/
theorem onesBelow_eq (a n : Nat) : onesBelow a n = ((List.range n).filter a.testBit).length := by
  induction n with
  | zero => rfl
  | succ n ih =>
    rw [onesBelow, ih, List.range_succ, List.filter_append, List.length_append]
    cases h : a.testBit n <;> simp [h]

/-- The bits of the reversal of the low `n` bits. -/
theorem testBit_reverseBits (n : Nat) : ∀ a i : Nat, (reverseBits a n).testBit i = (decide (i < n) && a.testBit (n - 1 - i)) := by
  induction n with
  | zero => intro a i; simp [reverseBits]
  | succ n ih =>
    intro a i
    have hlow : reverseBits (a / 2) n < 2 ^ n := by
      refine Nat.lt_pow_two_of_testBit _ (fun j hj => ?_)
      rw [ih, decide_eq_false (Nat.not_lt.mpr hj), Bool.false_and]
    have hsum : reverseBits a (n + 1) = 2 ^ n * (if a.testBit 0 then 1 else 0) + reverseBits (a / 2) n := by
      rw [reverseBits, Nat.add_comm]; split <;> simp
    rw [hsum, Nat.testBit_two_pow_mul_add _ hlow, ih, Nat.testBit_div_two]
    by_cases hi : i < n
    · rw [if_pos hi, decide_eq_true hi, decide_eq_true (by omega), show n - 1 - i + 1 = n + 1 - 1 - i by omega]
    · rw [if_neg hi]
      by_cases he : i = n
      · subst he; cases h : a.testBit 0 <;> simp [h]
      · obtain ⟨m, hm⟩ : ∃ m, i - n = m + 1 := ⟨i - n - 1, by omega⟩
        rw [hm, decide_eq_false (by omega), Bool.false_and]
        cases a.testBit 0 <;> simp [Nat.testBit_succ]

/-- Bit i of the reversal of a word is its bit 63 − i. -/
theorem getLsbD_brev64 (x : Word) (i : Nat) (hi : i < 64) : (brev64 x).getLsbD i = x.getLsbD (63 - i) := by
  rw [brev64, BitVec.getLsbD_ofNat, testBit_reverseBits, decide_eq_true hi, Bool.true_and, Bool.true_and, BitVec.testBit_toNat]

/-- Settles O2: each form is an immediate instruction (`exec_scalarImm`) or one of a guarded source (`exec_scalarOne`, `alu2_sets`), and the counts
and the reversal of bits are those of `clz64_spec`, `ctz64_spec`, `onesBelow_eq` and `getLsbD_brev64`. -/
theorem scalarOneSource : Obligations.ScalarOneSource := by
  intro s g d a b c imm k x
  refine ⟨fun e he => ⟨_, exec_scalarImm imm k e he s d a, setsS_setS s s.fresh d _⟩, fun hg => ⟨fun e he => ?_, ?_, ?_, ?_, ?_⟩⟩
  · rw [exec_scalarOne b c e he]
    exact alu2_sets s g d a e.2 hg
  · obtain ⟨t, ht, hset⟩ := alu2_sets s g d a (fun x => BitVec.ofNat 64 (clz64 x)) hg
    exact ⟨t, clz64 x, ht, hset, clz64_spec x⟩
  · obtain ⟨t, ht, hset⟩ := alu2_sets s g d a (fun x => BitVec.ofNat 64 (ctz64 x)) hg
    exact ⟨t, ctz64 x, ht, hset, ctz64_spec x⟩
  · obtain ⟨t, ht, hset⟩ := alu2_sets s g d a (fun x => BitVec.ofNat 64 (popc64 x)) hg
    refine ⟨t, ht, ?_⟩
    rw [popc64, onesBelow_eq] at hset
    exact hset
  · obtain ⟨t, ht, hset⟩ := alu2_sets s g d a brev64 hg
    exact ⟨t, brev64 x, ht, hset, getLsbD_brev64 x⟩

/-! ### Words of the S slot (R117, R118) -/

/-- The figures of a word of the S slot are those of the instruction that the map names for it. -/
theorem wordS_of_lookup {i : Instr} {w : W32} {m : Mn} {n : Nat} (he : encode i = some (.s, w, 0#32)) (hl : lookup .s w = some m)
    (hlat : m.latency w = n) (hbusy : m.busy .s w = 1) : wordS i w n := by
  refine ⟨he, ?_⟩
  rw [figures, he, Option.bind_some, hl, Option.map_some, hlat, hbusy]

/-- The words and the latency of compares and of `SEL` (R136). -/
theorem wordS_compares (g : Guard) (d : Reg3) (a b : Reg) :
    ∀ e ∈ [(Instr.cmpeq g d a b, 0#6), (.cmpne g d a b, 1#6), (.cmplt g d a b, 2#6), (.cmpltu g d a b, 3#6), (.cmple g d a b, 4#6),
      (.cmpleu g d a b, 5#6)], wordS e.1 (wR 0x13#6 (0#2 ++ d) a b g 0#1 e.2) 1 := by
  simp only [List.forall_mem_cons, List.not_mem_nil, false_implies, implies_true, and_true]
  exact ⟨wordS_of_lookup rfl (lookup_s 19 0 (by simp) (by simp) rfl) rfl rfl, wordS_of_lookup rfl (lookup_s 19 1 (by simp) (by simp) rfl) rfl rfl,
    wordS_of_lookup rfl (lookup_s 19 2 (by simp) (by simp) rfl) rfl rfl, wordS_of_lookup rfl (lookup_s 19 3 (by simp) (by simp) rfl) rfl rfl,
    wordS_of_lookup rfl (lookup_s 19 4 (by simp) (by simp) rfl) rfl rfl, wordS_of_lookup rfl (lookup_s 19 5 (by simp) (by simp) rfl) rfl rfl⟩

/-! ### Predicates (R136, R137) -/

/-- A write of a predicate sets it and nothing else. -/
theorem setsP_wrP (s : State) (d : Reg3) (b : Bool) : setsP s (s.onCore (fun c => c.wrP d b)) d b := by
  have hc : (s.onCore (fun c => c.wrP d b)).core = s.core.wrP d b := State.core_onCore _ _
  refine ⟨alone_onCore s _, ?_, fun r => ?_⟩
  · rw [hc, ← Core.wrP_eq]
  · rw [laterP, hc, Core.rdP_wrP]; rfl

/-- Each compare of two registers, and each with an immediate, computes its function. -/
theorem exec_compares : ∀ e ∈ compares, ∀ (s : State) (g : Guard) (d : Reg3) (a b : Reg), exec (e.1 g d a b) s = cmpR s g d a b e.2 := by
  have hslt : ∀ x y : Word, decide (x.toInt < y.toInt) = x.slt y := fun _ _ => rfl
  have hsle : ∀ x y : Word, decide (x.toInt ≤ y.toInt) = x.sle y := fun _ _ => rfl
  simp only [compares, List.forall_mem_cons, List.not_mem_nil, false_implies, implies_true, and_true, ← hslt, ← hsle]
  and_intros <;> intros <;> rfl

theorem exec_comparesImm (imm : BitVec 16) : ∀ e ∈ comparesImm imm, ∀ (s : State) (d : Reg3) (a : Reg), exec (e.1 d a) s = cmpI s d a e.2 := by
  simp only [comparesImm, List.forall_mem_cons, List.not_mem_nil, false_implies, implies_true, and_true]
  and_intros <;> intros <;> rfl

/-- Each operation of predicates is a write of the function of its sources. -/
theorem exec_predicates : ∀ e ∈ predicates, ∀ (s : State) (g : Guard) (d a b : Reg3),
    exec (e.1 g d a b) s = guarded s g (s.onCore (fun c => c.wrP d (e.2 (c.rdP a) (c.rdP b)))) := by
  simp only [predicates, List.forall_mem_cons, List.not_mem_nil, false_implies, implies_true, and_true]
  and_intros <;> intros <;> rfl

/-- A bit of the word that `PGET` gives: p0 reads 1. -/
theorem getLsbD_predWord (c : Core) (i : Nat) (hi : i < 64) : c.predWord.getLsbD i = (decide (i < 8) && c.rdP (BitVec.ofNat 3 i)) := by
  rw [Core.predWord, BitVec.getLsbD_setWidth, BitVec.getLsbD_or, decide_eq_true hi, Bool.true_and]
  by_cases h8 : i < 8
  · have hz : (BitVec.ofNat 3 i == 0) = decide (i = 0) := by
      rw [Bool.eq_iff_iff, beq_iff_eq, decide_eq_true_iff]
      exact ⟨fun h => by have := congrArg BitVec.toNat h; simp at this; omega, fun h => by rw [h]; rfl⟩
    have hi3 : (BitVec.ofNat 3 i).toNat = i := by rw [BitVec.toNat_ofNat]; omega
    rw [Core.rdP, hz, hi3, decide_eq_true h8, Bool.true_and, BitVec.getLsbD_one, Bool.or_comm]; simp
  · rw [decide_eq_false h8, Bool.false_and, BitVec.getLsbD_of_ge _ _ (by omega), BitVec.getLsbD_of_ge _ _ (by omega)]; rfl

/-- The predicates that a later row reads after `PSET`. -/
theorem rdP_putPreds (c : Core) (v : Word) (r : Reg3) : (c.putPreds v).beginRow.rdP r = (decide (r = 0) || v.getLsbD r.toNat) := by
  have hlt : r.toNat < 8 := r.isLt
  have hmask : ∀ q : Reg3, (0xFE#8).getLsbD q.toNat = !(decide (q = 0)) := by decide
  rw [Core.rdP_beginRow]
  show (r == 0 || (v.setWidth 8 &&& 0xFE#8).getLsbD r.toNat) = _
  rw [BitVec.getLsbD_and, hmask, BitVec.getLsbD_setWidth, decide_eq_true hlt]
  by_cases h : r = 0#3
  · simp [h]
  · have hb : (r == 0#3) = false := by simpa using h
    simp [h, hb]

/-- Settles O3: the words by `wordS_of_lookup`; compares and operations of predicates are writes of one predicate (`setsP_wrP`), and the moves are
those of `getLsbD_predWord` and `rdP_putPreds`. -/
theorem comparesAndPredicates : Obligations.ComparesAndPredicates := by
  refine ⟨fun g d r a b imm => ⟨wordS_compares g d a b, ?_, ?_, ?_, ?_⟩, fun s g => ⟨fun e he d a b hg => ?_, fun imm e he d a => ?_,
    fun e he d a b hg => ?_, fun d a b k hg => ⟨_, if_pos hg, setsS_setS s s.fresh d _⟩,
    fun d hg => ⟨_, _, if_pos hg, setsS_setS s s.fresh d _, getLsbD_predWord s.core⟩, fun a hg => ?_⟩⟩
  · exact wordS_of_lookup rfl (lookup_s 20 _ (by simp) rfl rfl) rfl rfl
  · exact wordS_of_lookup rfl (lookup_s 21 _ (by simp) rfl rfl) rfl rfl
  · exact wordS_of_lookup rfl (lookup_s 22 _ (by simp) rfl rfl) rfl rfl
  · exact wordS_of_lookup rfl (lookup_s 23 _ (by simp) rfl rfl) rfl rfl
  · rw [exec_compares e he]
    exact ⟨_, if_pos hg, setsP_wrP s d _⟩
  · rw [exec_comparesImm imm e he]
    exact ⟨_, rfl, setsP_wrP s d _⟩
  · rw [exec_predicates e he]
    exact ⟨_, if_pos hg, setsP_wrP s d _⟩
  · have hc : (s.onCore (fun c => c.putPreds (c.rdS a))).core = s.core.putPreds (s.core.rdS a) := State.core_onCore _ _
    refine ⟨_, if_pos hg, alone_onCore s _, ?_, fun r => ?_⟩
    · rw [hc]; rfl
    · rw [laterP, hc, rdP_putPreds]

end Sys2Proof.Machine
end

section
/-! PROOFS. The scope: stores and atomics of the S slot, and their accesses that are misaligned or out of range. -/

namespace Sys2Proof.Machine
open Sys2Proof.Says

/-! ### Stores of the S slot (R138, R139) -/

/-- A byte of a word, from its number. -/
theorem ofNat_div_eq_extractLsb' {n : Nat} (v : BitVec n) (i : Nat) : BitVec.ofNat 8 (v.toNat / 256 ^ i) = v.extractLsb' (8 * i) 8 := by
  apply BitVec.eq_of_toNat_eq
  rw [BitVec.toNat_ofNat, BitVec.extractLsb'_toNat, Nat.shiftRight_eq_div_pow, show (256 : Nat) = 2 ^ 8 by norm_num, ← pow_mul]

/-- A store that can be made writes the low bytes of its value. -/
theorem storeS_stores (s : State) (x v : Word) (z : Nat) (hf : fits s x.toNat z) (hb : badPartly s.core.badScratch x.toNat z = false)
    (hq : quiet s .store x.toNat z) : ∃ t, storeS s x v z = .next t ∧ stores s t x.toNat z (fun i => v.extractLsb' (8 * i) 8) := by
  obtain ⟨t, ht, hst⟩ := spStore_ok s .store 0 0 x.toNat z (leBytes z v.toNat) (fun i => v.extractLsb' (8 * i) 8) (length_leBytes z _) rfl hf hb hq
    (fun i hi => by rw [getD_leBytes z _ i hi, ofNat_div_eq_extractLsb'])
  exact ⟨t, by rw [storeS, ht], hst⟩

/-- A store form runs a store of its size at its address. -/
theorem exec_storeForms (s : State) (g : Guard) (d a b : Reg) (sc : BitVec 2) (imm : BitVec 16) (hg : s.core.guardOn g = true) :
    ∀ e ∈ storeForms s g d a b sc imm, ∃ x, exec e.1 s = storeS s x (s.core.rdS d) e.2.2 ∧ x.toNat = e.2.1 := by
  have hx : ∀ w, exec (.stx g d a b sc w) s = storeS s (addrX s a b sc) (s.core.rdS d) (2 ^ w.toNat) := fun w => if_pos hg
  have ha := addrX_toNat s a b sc
  simp only [storeForms, List.forall_mem_cons, List.not_mem_nil, false_implies, implies_true, and_true]
  exact ⟨⟨addrI s a imm, rfl, rfl⟩, ⟨addrI s a imm, rfl, rfl⟩, ⟨addrI s a imm, rfl, rfl⟩, ⟨addrI s a imm, rfl, rfl⟩,
    ⟨_, hx 0, ha⟩, ⟨_, hx 1, ha⟩, ⟨_, hx 2, ha⟩, ⟨_, hx 3, ha⟩⟩

/-- Settles O5: each form is a store of the S slot (`exec_storeForms`), and such a store writes the low bytes of its register (`storeS_stores`). -/
theorem scalarStores : Obligations.ScalarStores := by
  intro s g d a b sc imm hg e he hf hb hq
  obtain ⟨x, hexec, hx⟩ := exec_storeForms s g d a b sc imm hg e he
  rw [← hx] at hf hb hq ⊢
  rw [hexec]
  exact storeS_stores s x (s.core.rdS d) e.2.2 hf hb hq

/-! ### Scratchpad atomics (R140, R141) -/

/-- Bytes stored, and then a scalar result: an atomic. -/
theorem atomically_of_stores {s t : State} {x z : Nat} {f : Nat → Byte} (h : stores s t x z f) (d : Reg) (v : Word) :
    atomically s (t.setS d v) x z f d v := by
  obtain ⟨ha, hcore, hsp, -, hp, -⟩ := h
  have hc : (t.setS d v).core = t.core.wrS d v := State.core_onCore _ _
  have hregs : t.core.regs = s.core.regs := by rw [hcore]
  rw [Core.wrS_eq] at hc
  refine ⟨alone_trans ha (alone_onCore t _), ?_, fun y => ?_, fun h0 => ?_, fun r => ?_⟩
  · rw [hc, hcore]
  · rw [sp, hc]; exact hsp y
  · rw [hc]; exact hp h0
  · have hr := Core.rdS_wrS t.core d r v
    rw [Core.rdS_beginRow t.core, hregs, ← Core.rdS_beginRow] at hr
    rw [laterS, hc, ← Core.wrS_eq]
    exact hr

theorem atomically_congr {s t : State} {x z : Nat} {f f' : Nat → Byte} {d : Reg} {v : Word} (h : atomically s t x z f d v)
    (hf : ∀ i, i < z → f i = f' i) : atomically s t x z f' d v := by
  obtain ⟨ha, hcore, hsp, hp, hr⟩ := h
  refine ⟨ha, hcore, fun y => ?_, hp, hr⟩
  rw [hsp y]
  split
  · exact hf _ (by omega)
  · rfl

/-- A guarded atomic that can be made: the bytes of the new value, and what its register takes from the old one. -/
theorem atomicS_atomically (s : State) (g : Guard) (d a : Reg) (z : Nat) (f r : Word → Word) (hg : s.core.guardOn g = true)
    (hf : fits s (s.core.rdS a).toNat z) (hb : badIn s.core.badScratch (s.core.rdS a).toNat z = false)
    (hs : settled s (s.core.rdS a).toNat z) (hq : quiet s .atomic (s.core.rdS a).toNat z) :
    let o := BitVec.ofNat 64 (Memory.load s.core.scratch (s.core.rdS a).toNat z)
    ∃ t, atomicS s g d a z f r = .next t ∧ atomically s t (s.core.rdS a).toNat z (fun i => (f o).extractLsb' (8 * i) 8) d (r o) := by
  obtain ⟨t, ht, hst⟩ := spAtomic_ok s 0 (s.core.rdS a).toNat z (fun v => (f (BitVec.ofNat 64 v)).toNat) hf hb hs hq
  simp only [ofNat_div_eq_extractLsb'] at hst
  exact ⟨_, by rw [atomicS, if_pos hg, ht], atomically_of_stores hst d _⟩

/-- Each atomic of 8 bytes gives its register the old value, and computes the new one by its function. -/
theorem exec_atomics : ∀ e ∈ atomics, ∀ (s : State) (g : Guard) (d a b : Reg),
    exec (e.1 g d a b) s = atomicS s g d a 8 (fun o => e.2 o (s.core.rdS b) (s.core.rdS d)) id := by
  simp only [atomics, List.forall_mem_cons, List.not_mem_nil, false_implies, implies_true, and_true, ← minS_eq, ← maxS_eq]
  and_intros <;> intros <;> rfl

/-- The low bytes of a word, from a word of half the width. -/
theorem extractLsb'_of_setWidth (v : Word) (i : Nat) (hi : i < 4) : v.extractLsb' (8 * i) 8 = (v.setWidth 32).extractLsb' (8 * i) 8 := by
  apply BitVec.eq_of_getLsbD_eq
  intro j hj
  have h : 8 * i + j < 32 := by omega
  simp [hj, h]

/-- Each atomic of 4 bytes gives its register what it takes from the old word, and computes the low word of the new value by its function. -/
theorem exec_atomics32 : ∀ e ∈ atomics32, ∀ (s : State) (g : Guard) (d a b : Reg), ∃ f r : Word → Word, exec (e.1 g d a b) s = atomicS s g d a 4 f r ∧
    ∀ v < 256 ^ 4, (f (BitVec.ofNat 64 v)).setWidth 32 = e.2.1 (BitVec.ofNat 32 v) ((s.core.rdS b).setWidth 32) ∧
      r (BitVec.ofNat 64 v) = e.2.2 (BitVec.ofNat 32 v) := by
  have hw : ∀ v : Nat, (BitVec.ofNat 64 v).setWidth 32 = BitVec.ofNat 32 v := fun v => by simp
  simp only [atomics32, List.forall_mem_cons, List.not_mem_nil, false_implies, implies_true, and_true]
  refine ⟨fun s g d a b => ⟨fun o => o + s.core.rdS b, fun o => (o.setWidth 32).signExtend 64, rfl, fun v _ => ⟨?_, ?_⟩⟩,
    fun s g d a b => ⟨fun o => BitVec.ofNat 64 (faddRne o.toNat ((s.core.rdS b).toNat % 2 ^ 32)), id, rfl, fun v hv => ⟨?_, ?_⟩⟩⟩
  · rw [BitVec.setWidth_add _ _ (by decide), hw]
  · exact congrArg (BitVec.signExtend 64) (hw v)
  · have h64 : (BitVec.ofNat 64 v).toNat = v := by rw [BitVec.toNat_ofNat]; omega
    have h32 : (BitVec.ofNat 32 v).toNat = v := by rw [BitVec.toNat_ofNat]; omega
    rw [hw, h64, h32, BitVec.toNat_setWidth, faddRne]
  · apply BitVec.eq_of_toNat_eq
    rw [id, BitVec.toNat_setWidth, BitVec.toNat_ofNat, BitVec.toNat_ofNat]
    omega

/-- The words, the latency and the guard of the atomics (R133, R140). -/
theorem wordS_atomics (s : State) (g : Guard) (d a b : Reg) :
    ∀ e ∈ [(Instr.aadd g d a b, 0#6), (.aaddw g d a b, 1#6), (.amin g d a b, 2#6), (.amax g d a b, 3#6), (.aswap g d a b, 4#6),
        (.aand g d a b, 5#6), (.aor g d a b, 6#6), (.afadd g d a b, 7#6), (.acas g d a b, 8#6)],
      wordS e.1 (wR 0x27#6 d a b g 0#1 e.2) 6 ∧ (s.core.guardOn g = false → exec e.1 s = .next s) := by
  have off : s.core.guardOn g = false → ∀ x : Out, (if s.core.guardOn g then x else .next s) = .next s := fun h x => ite_guardOn_of_off h x _
  simp only [List.forall_mem_cons, List.not_mem_nil, false_implies, implies_true, and_true]
  exact ⟨⟨wordS_of_lookup rfl (lookup_s 39 0 (by simp) (by simp) rfl) rfl rfl, fun h => off h _⟩,
    ⟨wordS_of_lookup rfl (lookup_s 39 1 (by simp) (by simp) rfl) rfl rfl, fun h => off h _⟩,
    ⟨wordS_of_lookup rfl (lookup_s 39 2 (by simp) (by simp) rfl) rfl rfl, fun h => off h _⟩,
    ⟨wordS_of_lookup rfl (lookup_s 39 3 (by simp) (by simp) rfl) rfl rfl, fun h => off h _⟩,
    ⟨wordS_of_lookup rfl (lookup_s 39 4 (by simp) (by simp) rfl) rfl rfl, fun h => off h _⟩,
    ⟨wordS_of_lookup rfl (lookup_s 39 5 (by simp) (by simp) rfl) rfl rfl, fun h => off h _⟩,
    ⟨wordS_of_lookup rfl (lookup_s 39 6 (by simp) (by simp) rfl) rfl rfl, fun h => off h _⟩,
    ⟨wordS_of_lookup rfl (lookup_s 39 7 (by simp) (by simp) rfl) rfl rfl, fun h => off h _⟩,
    ⟨wordS_of_lookup rfl (lookup_s 39 8 (by simp) (by simp) rfl) rfl rfl, fun h => off h _⟩⟩

/-- Settles O6: each atomic is `atomicS` with its functions (`exec_atomics`, `exec_atomics32`), which `atomicS_atomically` describes. -/
theorem scratchpadAtomics : Obligations.ScratchpadAtomics := by
  intro s g d a b
  refine ⟨wordS_atomics s g d a b, fun hg => ⟨fun e he hf hb hs hq => ?_, fun e he hf hb hs hq => ?_⟩⟩
  · rw [exec_atomics e he]
    exact atomicS_atomically s g d a 8 _ id hg hf hb hs hq
  · obtain ⟨f, r, hexec, hfr⟩ := exec_atomics32 e he s g d a b
    obtain ⟨hnew, hold⟩ := hfr _ (load_lt s.core.scratch 4 (s.core.rdS a).toNat)
    obtain ⟨t, ht, hat⟩ := atomicS_atomically s g d a 4 f r hg hf hb hs hq
    refine ⟨t, hexec.trans ht, ?_⟩
    rw [hold] at hat
    exact atomically_congr hat (fun i hi => by rw [extractLsb'_of_setWidth _ i hi, hnew])

/-! ### Accesses that are misaligned or out of range (R133, R343) -/

/-- `SPBOUND` in the S slot. -/
theorem raise_spFault (s : State) (x : Nat) : faults s (s.raise cSPBOUND 0 0 (BitVec.ofNat 64 x)) (spFault s x) := raise_faults s _

theorem loadS_bound (s : State) (d : Reg) (x : Word) (z : Nat) (signed : Bool) (h : ¬fits s x.toNat z) :
    ∃ t, loadS s d x z signed = .next t ∧ faults s t (spFault s x.toNat) :=
  ⟨_, by rw [loadS, spLoad_bound s 0 0 x.toNat z h]; rfl, raise_spFault s x.toNat⟩

theorem storeS_bound (s : State) (x v : Word) (z : Nat) (h : ¬fits s x.toNat z) :
    ∃ t, storeS s x v z = .next t ∧ faults s t (spFault s x.toNat) :=
  ⟨_, by rw [storeS, spStore_bound s .store 0 0 x.toNat z _ (length_leBytes z _) h]; rfl, raise_spFault s x.toNat⟩

theorem atomicS_bound (s : State) (g : Guard) (d a : Reg) (z : Nat) (f r : Word → Word) (hg : s.core.guardOn g = true)
    (h : ¬fits s (s.core.rdS a).toNat z) : ∃ t, atomicS s g d a z f r = .next t ∧ faults s t (spFault s (s.core.rdS a).toNat) :=
  ⟨_, by rw [atomicS, if_pos hg, spAtomic_bound s 0 _ z _ h], raise_spFault s _⟩

/-- Settles O7: each form is a load, a store or an atomic (`exec_loadForms`, `exec_storeForms`, `exec_atomics`, `exec_atomics32`), each of which stops
at an access that cannot be made. -/
theorem scratchpadBounds : Obligations.ScratchpadBounds := by
  intro s g d a b sc imm hg
  refine ⟨fun e he h => ?_, fun e he h => ?_, fun e he h => ?_, fun e he h => ?_⟩
  · obtain ⟨x, signed, hexec, hx, -⟩ := exec_loadForms s g d a b sc imm hg e he
    rw [← hx] at h ⊢
    rw [hexec]
    exact loadS_bound s d x _ signed h
  · obtain ⟨x, hexec, hx⟩ := exec_storeForms s g d a b sc imm hg e he
    rw [← hx] at h ⊢
    rw [hexec]
    exact storeS_bound s x _ _ h
  · rw [exec_atomics e he]
    exact atomicS_bound s g d a 8 _ _ hg h
  · obtain ⟨f, r, hexec, -⟩ := exec_atomics32 e he s g d a b
    rw [hexec]
    exact atomicS_bound s g d a 4 f r hg h

end Sys2Proof.Machine
end

section
/-! PROOFS. The scope: the random streams of a core, and control transfer. -/

namespace Sys2Proof.Machine
open Sys2Proof.Says

/-! ### Random streams (R149, R173) -/

/-- The next word of the scalar stream goes to a register, and its counter is one further. -/
theorem rngs_sets (s : State) (d : Reg) : let t := s.onCore (fun c => { c.wrS d c.rngs with sctr := c.sctr + 1 })
    alone s t ∧ t.core = { s.core with sctr := s.core.sctr + 1, regs := { s.core.regs with s := t.core.regs.s } } ∧
      ∀ r, laterS t r = if r = d ∧ r ≠ 0 then s.core.rngs else laterS s r := by
  dsimp only
  have hc : (s.onCore (fun c => { c.wrS d c.rngs with sctr := c.sctr + 1 })).core = { s.core.wrS d s.core.rngs with sctr := s.core.sctr + 1 } :=
    State.core_onCore _ _
  refine ⟨alone_onCore s _, ?_, fun r => ?_⟩
  · rw [hc, Core.wrS_eq]
  · rw [laterS, hc]
    exact Core.rdS_wrS s.core d r _

/-- Elements without flags raise none. -/
theorem orFlags_zero (p : Nat → Bool) (n : Nat) : orFlags p (fun _ => 0) n = 0 := by
  induction n with
  | zero => rfl
  | succ n ih => rw [orFlags, ih, ite_self]; rfl

/-- Settles O15: `RNGS` by `rngs_sets`; `VRNG` is elementwise (`vEach_sets`), raises no flags, and counts its words. -/
theorem randomStreams : Obligations.RandomStreams := by
  intro s g d c base gamma
  refine ⟨fun hg => ⟨_, if_pos hg, rngs_sets s d⟩, fun hl => ?_⟩
  obtain ⟨u, hu, hset⟩ := vEach_sets s d [] c 3 (fun i => plain (s.core.vrng i)) hl
  rw [show orFlags (s.maskBit c.m) (fun i => (plain (s.core.vrng i)).2) (foldN c.fold) = 0 from orFlags_zero _ _] at hset
  refine ⟨_, u, ?_, rfl, hset⟩
  show execVrng d c s = _
  rw [execVrng, hu]
  exact if_neg (by rw [show s.badDir [d] = false from hl]; simp)

/-! ### Control transfer (R127, R142 to R145) -/

/-- The model's legal targets of `JMPR` are those of the statement (R104). -/
theorem isTarget_iff (s : State) (r : Nat) : s.core.isTarget r = true ↔ jumpTarget s r := by
  simp only [Core.isTarget, jumpTarget, Bool.and_eq_true, Bool.or_eq_true, decide_eq_true_eq]

/-- A change of the core in hand that writes one scalar register, whatever else it changes outside the register file. -/
theorem laterS_onCore_wrS (s : State) (f : Core → Core) (d : Reg) (v : Word) (h : (f s.core).regs = (s.core.wrS d v).regs) (r : Reg) :
    laterS (s.onCore f) r = if r = d ∧ r ≠ 0 then v else laterS s r := by
  have hw := Core.rdS_wrS s.core d r v
  rw [Core.rdS_beginRow, ← h] at hw
  rw [laterS, State.core_onCore, Core.rdS_beginRow]
  exact hw

theorem call_sets (s : State) (off : Int) :
    let t := s.onCore (fun c => (c.branchTo (c.rel off)).wrS 31 (BitVec.ofNat 64 (c.pos.row + 1)))
    alone s t ∧ t.core = { s.core with jump := some (s.core.rel off), regs := { s.core.regs with s := t.core.regs.s } } ∧
      ∀ r, laterS t r = if r = 31 then BitVec.ofNat 64 (s.core.pos.row + 1) else laterS s r := by
  dsimp only
  refine ⟨alone_onCore s _, ?_, fun r => ?_⟩
  · rw [State.core_onCore, Core.wrS_eq]; rfl
  · rw [laterS_onCore_wrS s _ 31 (BitVec.ofNat 64 (s.core.pos.row + 1)) (by rw [Core.wrS_eq, Core.wrS_eq]; rfl)]
    by_cases h : r = 31
    · subst h; rfl
    · rw [if_neg (fun hr => h hr.1), if_neg h]

/-- `LOOP` counts its register down, and branches unless it has come to 0. -/
theorem loop_sets (s : State) (d : Reg) (off : Int) :
    let t := s.onCore (fun c => let c1 := c.wrS d (s.core.rdS d - 1); if s.core.rdS d - 1 = 0 then c1 else c1.branchTo (c.rel off))
    alone s t ∧ t.core = { s.core with jump := if s.core.rdS d = 1 then s.core.jump else some (s.core.rel off)
                                       regs := { s.core.regs with s := t.core.regs.s } } ∧
      ∀ r, laterS t r = if r = d ∧ r ≠ 0 then s.core.rdS d - 1 else laterS s r := by
  have hzero : s.core.rdS d - 1 = 0 ↔ s.core.rdS d = 1 := sub_eq_zero
  dsimp only
  refine ⟨alone_onCore s _, ?_, laterS_onCore_wrS s _ d _ ?_⟩
  · rw [State.core_onCore]
    simp only [hzero, Core.wrS_eq]
    split <;> rfl
  · split <;> rfl

/-- `EXIT` cancels the parked passes of the core. -/
theorem exit_passes (s : State) : let t := s.onCore (fun c => { c with
      run := .exiting
      ret := none
      lastBeat := c.pos.beat
      passes := c.passes.map (fun e => (e.1, if e.2.st = .parked then e.2.cancel else e.2)) })
    alone s t ∧ t.core = { s.core with run := .exiting, ret := none, lastBeat := s.core.pos.beat, passes := t.core.passes } ∧
      ∀ n, t.core.pass n = exited (s.core.pass n) := by
  dsimp only
  refine ⟨alone_onCore s _, ?_, fun n => ?_⟩
  · rw [State.core_onCore]
  · rw [State.core_onCore]
    exact SMap.get_map ({} : Pass) exited rfl s.core.passes n

/-- Settles O25: branches and jumps change the target alone (`becomes_onCore`), calls and loops their register besides (`call_sets`, `loop_sets`), a
`JMPR` to a row that is no target raises a fault (`raise_faults`), and `EXIT` is as `exit_passes` says. -/
theorem controlTransfer : Obligations.ControlTransfer := by
  intro s g p neg off d a imm to_
  refine ⟨?_, ⟨_, rfl, becomes_onCore s _⟩, ⟨_, rfl, call_sets s off.toInt⟩, ⟨_, rfl, loop_sets s d imm.toInt⟩, fun hg ht => ?_, fun hg ht => ?_,
    ⟨_, rfl, exit_passes s⟩⟩
  · show ∃ t, execBr p neg off s = .next t ∧ _
    rw [execBr]
    split
    · exact ⟨_, rfl, becomes_onCore s _⟩
    · exact ⟨s, rfl, ⟨fun _ _ => rfl, rfl, rfl, rfl, rfl, rfl⟩, rfl⟩
  · have hexec : exec (.jmpr g a) s = .next (s.onCore (fun c => c.branchTo (s.core.rdS a).toNat)) := by
      show execJmpr g a s = _
      rw [execJmpr, if_pos hg]
      exact if_pos ((isTarget_iff s _).mpr ht)
    exact ⟨_, hexec, becomes_onCore s _⟩
  · have hexec : exec (.jmpr g a) s = .next (s.raise cBADJUMP 0 (s.core.rdS a) 0) := by
      show execJmpr g a s = _
      rw [execJmpr, if_pos hg]
      exact if_neg (fun h => ht ((isTarget_iff s _).mp h))
    exact ⟨_, hexec, raise_faults s _⟩

end Sys2Proof.Machine
end

section
/-! PROOFS. The scope: how a core stops at a boundary, and the traps that it takes there. -/

namespace Sys2Proof.Machine
open Sys2Proof.Says

/-! ### A core stops (R131, R183, R230) -/

/-- What a stop of the operations in flight changes in a core. -/
theorem Core.freeze_eq (c : Core) : c.freeze = { c with
    regs := c.freeze.regs, scratch := c.freeze.scratch, badTile := c.freeze.badTile, badScratch := c.freeze.badScratch
    flagQ := c.freeze.flagQ, fpflags := c.freeze.fpflags, vfly := c.freeze.vfly, tfly := c.freeze.tfly } := by
  unfold Core.freeze
  cases cutShort c.tfly c.beats <;> cases cutShort c.vfly c.beats <;> rfl

/-- With no operation in flight, registers and scratchpad stand. -/
theorem Core.freeze_of_idle (c : Core) (hv : c.vfly = none) (ht : c.tfly = none) : c.freeze.regs = c.regs ∧ c.freeze.scratch = c.scratch := by
  simp only [Core.freeze, hv, ht, cutShort, and_self]

/-- What a stop changes in a core. -/
theorem Core.stop_eq (c : Core) (tick : Nat) : c.stop tick = { c with
    regs := c.freeze.regs, scratch := c.freeze.scratch, badTile := c.freeze.badTile, badScratch := c.freeze.badScratch
    flagQ := c.freeze.flagQ, fpflags := c.freeze.fpflags, vfly := c.freeze.vfly, tfly := c.freeze.tfly
    passes := c.parkAll.passes, tmma := (c.stop tick).tmma, banks := (c.stop tick).banks
    prnd := none, mapfence := none, swept := false, heatDue := none } := by
  rw [Core.stop, Core.parkAll, Core.parkAll, Core.freeze_eq]

/-- A pass of a core whose passes park. -/
theorem pass_parkAll (c : Core) (n : Nat) : c.parkAll.pass n =
    if (c.pass n).st = .riding ∧ (c.pass n).closeIn = 0 then { c.pass n with st := .parked, stopParked := true, page := none } else c.pass n := by
  refine (congrArg (fun m => SMap.get ({} : Pass) m n) (List.map_congr_left (fun e _ => ?_))).trans (SMap.get_map ({} : Pass) (fun p =>
    if p.st = .riding ∧ p.closeIn = 0 then { p with st := .parked, stopParked := true, page := none } else p) rfl c.passes n)
  dsimp only
  split <;> rfl

/-- A core after a stop, whatever else has happened to its position, its waits and its traps. -/
theorem stopsAt_of_stop {c v : Core} {tick : Nat} (hp : v.passes = (c.stop tick).passes) (hr : v.regs = (c.stop tick).regs)
    (hs : v.scratch = (c.stop tick).scratch)
    (hrest : (v.ctx, v.lid, v.seg, v.rowStore, v.tags, v.tagerr) = (c.ctx, c.lid, c.seg, c.rowStore, c.tags, c.tagerr)) : stopsAt c v := by
  rw [Core.stop_eq] at hp hr hs
  simp only [Prod.mk.injEq] at hrest
  refine ⟨fun n => ?_, fun hv ht => ?_, hrest⟩
  · rw [Core.pass, hp]; exact pass_parkAll c n
  · obtain ⟨h1, h2⟩ := Core.freeze_of_idle c hv ht
    exact ⟨hr.trans h1, hs.trans h2⟩

/-! ### Changes of one core (R263, R346) -/

theorem onlyAt_trans {s t u : State} {k : Nat} (h : onlyAt s t k) (g : onlyAt t u k) : onlyAt s u k := by
  obtain ⟨hc, hs, hm, hcur, ht, hd⟩ := h
  obtain ⟨gc, gs, gm, gcur, gt, gd⟩ := g
  refine ⟨fun j hj => (gc j hj).trans (hc j hj), gs.trans hs, gm.trans hm, gcur.trans hcur, gt.trans ht, fun d => ?_⟩
  rw [gd d, hd d]
  split
  · rfl
  · rfl

theorem onlyAt_setCoreAt (s : State) (k : Nat) (c : Core) : onlyAt s (s.setCoreAt k c) k := by
  refine ⟨fun j hj => State.coreAt_setCoreAt_other s k j c hj, rfl, rfl, rfl, rfl, fun d => ?_⟩
  rw [State.dieAt_setCoreAt]
  split <;> rfl

theorem onlyAt_onCoreAt (s : State) (k : Nat) (f : Core → Core) : onlyAt s (s.onCoreAt k f) k := onlyAt_setCoreAt s k _

/-- A change of the queue of `PMAT` rows and of the traps delivered of the core's die. -/
theorem onlyAt_onDieAt (s : State) (k : Nat) (f : Die → Die)
    (h : ∀ d, f d = { d with heatQ := (f d).heatQ, reqs := (f d).reqs, serving := (f d).serving }) : onlyAt s (s.onDieAt (keyDie k) f) k := by
  refine ⟨fun _ _ => rfl, rfl, rfl, rfl, rfl, fun d => ?_⟩
  by_cases hd : d = keyDie k
  · subst hd
    rw [if_pos rfl, State.dieAt_onDieAt_same]
    exact h _
  · rw [if_neg hd, State.dieAt_onDieAt, if_neg hd]

theorem onlyAt_stopCore (s : State) (k : Nat) : onlyAt s (s.stopCore k) k :=
  onlyAt_trans (onlyAt_onCoreAt s k _) (onlyAt_onDieAt _ k (fun d => { d with heatQ := d.heatQ.filter (fun j => j != k) }) (fun _ => rfl))

theorem coreAt_stopCore (s : State) (k : Nat) : (s.stopCore k).coreAt k = (s.coreAt k).stop (s.dieAt (keyDie k)).tick :=
  (State.coreAt_onDieAt _ _ _ _).trans (State.coreAt_onCoreAt_same s k _)

/-- A stop leaves the traps delivered and the tick of its die. -/
theorem dieAt_stopCore (s : State) (k : Nat) :
    ((s.stopCore k).dieAt (keyDie k)).reqs = (s.dieAt (keyDie k)).reqs ∧ ((s.stopCore k).dieAt (keyDie k)).tick = (s.dieAt (keyDie k)).tick := by
  rw [State.stopCore, State.dieAt_onDieAt_same]
  exact ⟨rfl, rfl⟩

/-! ### Traps taken (R345, R346) -/

/-- A core that has stopped and stands at the entry of its handler. -/
def Core.entered (c : Core) (q : TrapReq) (from_ : Option Nat) (now : Nat) : Core := { c.freed with
  ret := some c.pos, vkept := c.vfly, tkept := c.tfly, vfly := none, tfly := none
  pos := { row := c.trap.vec.toNat, beat := c.pos.beat }, trap := trapRegs c.trap q from_, hold := .entry (now + 4) }

/-- A stop and the entry leave the vector, the rows and the row store of the core. -/
theorem handlerGood_entered (c : Core) (q : TrapReq) (from_ : Option Nat) (tick now : Nat) :
    handlerGood ((c.stop tick).entered q from_ now) ↔ handlerGood c := by
  rw [Core.stop_eq]; rfl

/-- Entry to a handler whose first row is a good one (R345). -/
theorem enterHandler_of_good (s : State) (k : Nat) (q : TrapReq) (from_ : Option Nat) (h : handlerGood (s.coreAt k)) :
    s.enterHandler k q from_ = (s.stopCore k).onCoreAt k (fun c => c.entered q from_ (s.dieAt (keyDie k)).tick) := by
  have hgood : handlerGood (((s.stopCore k).onCoreAt k (fun c => c.entered q from_ (s.dieAt (keyDie k)).tick)).coreAt k) := by
    rw [State.coreAt_onCoreAt_same, coreAt_stopCore, handlerGood_entered]; exact h
  exact if_pos hgood

/-- Entry to a good handler: nothing but the core changes, and its first fault stands. -/
theorem enterHandler_enters (s : State) (k : Nat) (q : TrapReq) (from_ : Option Nat) (h : handlerGood (s.coreAt k)) :
    let t := s.enterHandler k q from_
    onlyAt s t k ∧ enters s t k q from_ ∧ (t.coreAt k).fault = (s.coreAt k).fault := by
  dsimp only
  rw [enterHandler_of_good s k q from_ h]
  have hc : ((s.stopCore k).onCoreAt k (fun c => c.entered q from_ (s.dieAt (keyDie k)).tick)).coreAt k =
      ((s.coreAt k).stop (s.dieAt (keyDie k)).tick).entered q from_ (s.dieAt (keyDie k)).tick := by
    rw [State.coreAt_onCoreAt_same, coreAt_stopCore]
  refine ⟨onlyAt_trans (onlyAt_stopCore s k) (onlyAt_onCoreAt _ k _), ?_, ?_⟩
  · unfold enters
    dsimp only
    rw [hc]
    refine ⟨stopsAt_of_stop (tick := (s.dieAt (keyDie k)).tick) rfl rfl rfl ?_, ?_⟩
    · rw [Core.stop_eq]; rfl
    · rw [Core.stop_eq]
      exact ⟨rfl, rfl, rfl, rfl, rfl, rfl⟩
  · rw [hc, Core.stop_eq]; rfl

/-- A delivered trap: the core stops, and its request waits in the queue of its die. -/
theorem deliverTrap_stops (s : State) (k : Nat) (q : TrapReq) :
    let c := s.coreAt k
    let t := s.deliverTrap k q
    onlyAt s t k ∧ stopsAt c (t.coreAt k) ∧ (t.coreAt k).hold = .delivered ∧ (t.coreAt k).pos = c.pos ∧ (t.coreAt k).trap = c.trap ∧
      ∀ n, SMap.get none (t.dieAt (keyDie k)).reqs n = if n = keyNo k then some q else SMap.get none (s.dieAt (keyDie k)).reqs n := by
  dsimp only
  have hc : (s.deliverTrap k q).coreAt k = { ((s.coreAt k).stop (s.dieAt (keyDie k)).tick).freed with hold := .delivered } := by
    rw [State.deliverTrap, State.coreAt_onDieAt, State.coreAt_onCoreAt_same, coreAt_stopCore]
  rw [hc]
  refine ⟨?_, stopsAt_of_stop (tick := (s.dieAt (keyDie k)).tick) rfl rfl rfl ?_, rfl, ?_, ?_, fun n => ?_⟩
  · exact onlyAt_trans (onlyAt_trans (onlyAt_stopCore s k) (onlyAt_onCoreAt _ k _)) (onlyAt_onDieAt _ k
      (fun d => { d with reqs := SMap.set none d.reqs (keyNo k) (some q) }) (fun _ => rfl))
  · rw [Core.stop_eq]; rfl
  · rw [Core.stop_eq]; rfl
  · rw [Core.stop_eq]; rfl
  · obtain ⟨hreqs, -⟩ := dieAt_stopCore s k
    rw [State.deliverTrap, State.dieAt_onDieAt_same, State.dieAt_onCoreAt, SMap.get_set, hreqs]

/-- Settles O31: a trap of the core's own enters its handler (`enterHandler_enters`), and any other is delivered (`deliverTrap_stops`). -/
theorem trapsTaken : Obligations.TrapsTaken := by
  intro s die core q c k hb
  have hset : (s.setCoreAt k c).coreAt k = c := State.coreAt_setCoreAt_same s k c
  refine ⟨fun hown hgood => ?_, fun hown => ?_⟩
  · obtain ⟨honly, henters, hfault⟩ := enterHandler_enters (s.setCoreAt k c) k q none (by rw [hset]; exact hgood)
    rw [hset] at hfault
    have hexec : exec (.trapEntry die core) s = .next ((s.setCoreAt k c).enterHandler k q none) := by
      show execTrapEntry die core s = _
      unfold execTrapEntry
      dsimp only
      rw [show s.boundaryTrap (coreKey die core) = some (q, c) from hb]
      exact if_pos hown
    exact ⟨_, hexec, onlyAt_trans (onlyAt_setCoreAt s k c) honly, henters, hfault⟩
  · obtain ⟨honly, hstops⟩ := deliverTrap_stops (s.setCoreAt k c) k q
    rw [hset] at hstops
    have hexec : exec (.trapDelivery die core) s = .next ((s.setCoreAt k c).deliverTrap k q) := by
      show execTrapDelivery die core s = _
      unfold execTrapDelivery
      dsimp only
      rw [show s.boundaryTrap (coreKey die core) = some (q, c) from hb]
      exact if_neg (Bool.eq_false_iff.mp hown)
    exact ⟨_, hexec, onlyAt_trans (onlyAt_setCoreAt s k c) honly, hstops⟩

end Sys2Proof.Machine
end

section
/-! PROOFS. The scope: the rows that wait for time, tags, passes, stitches and fences. -/

namespace Sys2Proof.Machine
open Sys2Proof.Says

/-! ### The delays of an instruction (R129) -/

/-- A delay holds where its test says so. -/
theorem mem_when {b : Bool} {d : Nat} : d ∈ when b d ↔ b = true := by cases b <;> simp [when]

/-- An instruction without vector registers is held by no direction. -/
theorem meshDelays_of_no_vectors (s : State) (i : Instr) (h : vRegsOf i = ([], [])) : s.meshDelays i = [] := by
  have hw : vWaits s [] [] = false := by simp [vWaits, State.dirs]
  rw [State.meshDelays, h, hw]; rfl

/-- An instruction without accesses and vector registers has the delays of its own alone. -/
theorem delays_of_plain (s : State) (i : Instr) (ha : s.areas i = []) (hr : vRegsOf i = ([], [])) : s.delays i = s.ownDelays i := by
  rw [State.delays, ha, meshDelays_of_no_vectors s i hr]; rfl

/-- Such an instruction, held by one delay where a test says so. -/
theorem mem_delays_of_plain {s : State} {i : Instr} {b : Bool} {d : Nat} (ho : s.ownDelays i = when b d) (ha : s.areas i = [] := by rfl)
    (hr : vRegsOf i = ([], []) := by rfl) : d ∈ s.delays i ↔ b = true := by
  rw [delays_of_plain s i ha hr, ho, mem_when]

/-- A change of the core in hand, and then another. -/
theorem becomes_onCore_onCore (s : State) (f g : Core → Core) : becomes s ((s.onCore f).onCore g) (g (f s.core)) := by
  refine ⟨alone_trans (alone_onCore s f) (alone_onCore _ g), ?_⟩
  rw [State.core_onCore, State.core_onCore]

/-! ### Time, launches and tags (R206, R247, R295, R331 to R334) -/

theorem ljoin_held (s : State) (a : Reg) : 5 ∈ s.delays (.ljoin a) ↔ (s.core.rdS a).setWidth 16 ∈ s.core.launched ∧
    ∃ l ∈ s.mod.launches, l.pkt.ctx = s.core.ctx ∧ l.pkt.lid = (s.core.rdS a).setWidth 16 ∧ l.parent = some (s.core.lid, s.core.lcore) := by
  rw [mem_delays_of_plain (b := ljoinWaits s a) (d := 5) rfl]
  simp only [ljoinWaits, Bool.and_eq_true, List.contains_iff_mem, List.any_eq_true, beq_iff_eq, and_assoc]

theorem pfence_held (s : State) : 6 ∈ s.delays .pfence ↔ ∃ e ∈ s.core.passes, e.2.st ≠ .idle := by
  rw [mem_delays_of_plain (b := pfenceWaits s) (d := 6) rfl]
  simp only [pfenceWaits, List.any_eq_true, Pass.open_, decide_eq_true_eq]

/-- A mask names a tag beyond those of its core. -/
theorem maskBeyond_iff (s : State) (v : Word) : maskBeyond s v = true ↔ beyondTags s v := by
  rw [maskBeyond, decide_eq_true_iff]
  constructor
  · intro h
    by_contra hb
    refine h (BitVec.eq_of_getLsbD_eq (fun i _ => ?_))
    rw [getLsbD_tagMask]
    by_cases hi : i < s.tagCount s.cur
    · rw [decide_eq_true hi, Bool.and_true]
    · rw [decide_eq_false hi, Bool.and_false, ← Bool.not_eq_true]
      exact fun hv => hb ⟨i, hv, Nat.not_lt.mp hi⟩
  · rintro ⟨n, hv, hn⟩ h
    rw [h, getLsbD_tagMask, decide_eq_false (Nat.not_lt.mpr hn), Bool.and_false] at hv
    exact Bool.false_ne_true hv

theorem mem_maskTags (v : Word) (n : Nat) : n ∈ maskTags v ↔ v.getLsbD n = true := by
  rw [maskTags, List.mem_filter, List.mem_range, and_iff_right_iff_imp]
  exact BitVec.lt_of_getLsbD

theorem tagSet_iff (s : State) (n : Nat) : s.core.tagSet n = true ↔ tagReady s n := by
  simp only [Core.tagSet, tagReady, Bool.or_eq_true, beq_iff_eq]

/-- A wait for tags that names one beyond those of its core. -/
theorem tagWait_faults (s : State) (a : Reg) (h : beyondTags s (s.core.rdS a)) :
    ∀ i ∈ [Instr.twany a, .twall a], ∃ t, exec i s = .next t ∧ faults s t (wFault s) := by
  have hb := (maskBeyond_iff s _).mpr h
  have hfault : faults s s.passBound (wFault s) := raise_faults s _
  simp only [List.forall_mem_cons, List.not_mem_nil, false_implies, implies_true, and_true]
  exact ⟨⟨_, if_pos hb, hfault⟩, ⟨_, if_pos hb, hfault⟩⟩

theorem tagWait_held (s : State) (a : Reg) (h : ¬beyondTags s (s.core.rdS a)) :
    exec (.twany a) s = .next s ∧ exec (.twall a) s = .next s ∧
      (6 ∈ s.delays (.twany a) ↔ s.core.rdS a ≠ 0 ∧ ∀ n, (s.core.rdS a).getLsbD n = true → ¬tagReady s n) ∧
      (6 ∈ s.delays (.twall a) ↔ ∃ n, (s.core.rdS a).getLsbD n = true ∧ ¬tagReady s n) := by
  have hm : ¬maskBeyond s (s.core.rdS a) = true := fun hb => h ((maskBeyond_iff s _).mp hb)
  refine ⟨if_neg hm, if_neg hm, ?_, ?_⟩
  · rw [mem_delays_of_plain (b := twanyWaits s a) (d := 6) rfl]
    simp only [twanyWaits, hm, ← tagSet_iff, ← mem_maskTags, Bool.and_eq_true, Bool.not_eq_true', decide_eq_true_eq, List.any_eq_false,
      true_and]
  · rw [mem_delays_of_plain (b := twallWaits s a) (d := 6) rfl]
    simp only [twallWaits, hm, ← tagSet_iff, ← mem_maskTags, Bool.and_eq_true, Bool.not_eq_true', List.all_eq_false, true_and]

/-! ### `PRND` (R245) -/

/-- As its row falls due, a `PRND` notes the passes that it still covers. -/
theorem prndArm_eq (s : State) : prndArm s = s.onCore (fun c => { c with prnd := some (prndLeft s) }) := by
  unfold prndArm prndLeft
  cases s.core.seg with
  | none => rfl
  | some k => rfl

theorem prndWaits_arm (s : State) : prndWaits (prndArm s) = !(prndLeft s).isEmpty := by
  rw [prndWaits, prndArm_eq, State.core_onCore]

theorem prnd_becomes (s : State) : ∃ t, exec .prnd s = .next t ∧
    becomes s t { s.core with prnd := if (prndLeft s).isEmpty then none else some (prndLeft s) } := by
  show ∃ t, execPrnd s = .next t ∧ _
  unfold execPrnd
  dsimp only
  rw [prndWaits_arm, prndArm_eq]
  cases (prndLeft s).isEmpty with
  | false => exact ⟨_, rfl, becomes_onCore s _⟩
  | true => exact ⟨_, rfl, becomes_onCore_onCore s _ _⟩

theorem prnd_held (s : State) : 6 ∈ (s.arm .prnd).delays .prnd ↔ prndLeft s ≠ [] := by
  rw [mem_delays_of_plain (b := prndWaits (prndArm s)) (d := 6) rfl, prndWaits_arm]
  simp only [Bool.not_eq_true', List.isEmpty_eq_false_iff, ne_eq]

/-- The passes of a segment: those of the cores that have not closed, and those over the save region of a die (R245, R368). -/
theorem mem_passesOn (s : State) (k x y : Nat) : (x, y) ∈ passesOn s k ↔
    (∃ e ∈ s.cores, ∃ p ∈ e.2.passes, e.1 = x ∧ p.2.st ≠ .idle ∧ p.2.seg = k ∧ p.2.key.seq = y) ∨
      keyNo k = 23 ∧ x = keyDie k * 32 + 31 ∧ ∃ j ∈ (s.dieAt (keyDie k)).region, j.seq = y := by
  have hcore : ∀ (e : Nat × Core) (p : Nat × Pass), (if p.2.open_ && p.2.seg == k then some (e.1, p.2.key.seq) else none) = some (x, y) ↔
      e.1 = x ∧ p.2.st ≠ .idle ∧ p.2.seg = k ∧ p.2.key.seq = y := fun e p => by
    simp only [Pass.open_, Option.ite_none_right_eq_some, Bool.and_eq_true, decide_eq_true_eq, beq_iff_eq, Option.some.injEq, Prod.mk.injEq]
    tauto
  have hregion : (x, y) ∈ (if keyNo k = 23 then (s.dieAt (keyDie k)).region.map (fun j => (regionKey (keyDie k), j.seq)) else []) ↔
      keyNo k = 23 ∧ x = keyDie k * 32 + 31 ∧ ∃ j ∈ (s.dieAt (keyDie k)).region, j.seq = y := by
    split
    · next h =>
      simp only [h, true_and, List.mem_map, Prod.mk.injEq, regionKey]
      exact ⟨fun ⟨j, hj, h1, h2⟩ => ⟨h1.symm, j, hj, h2⟩, fun ⟨h1, j, hj, h2⟩ => ⟨j, hj, h1.symm, h2⟩⟩
    · next h => simp [h]
  rw [passesOn, List.mem_append, hregion]
  simp only [List.mem_flatMap, List.mem_filterMap, hcore]

/-! ### `CWAIT` (R206) -/

/-- Whether the stitch is visited in this tick. -/
theorem cwaitArm_core (s : State) (a : Reg) (k x : Nat) (h : cwaitTarget s a = some (k, x)) :
    (cwaitArm s a).core = { s.core with swept := s.core.swept || (!(s.dieAt s.die).holdTick && decide ((s.segAt k).cursor = x)) } := by
  unfold cwaitArm
  rw [h, State.holding]
  dsimp only
  split
  · next hv => rw [State.core_onCore, hv, Bool.or_true]
  · next hv =>
    have hf := Bool.eq_false_iff.mpr hv
    rw [hf, Bool.or_false]

/-- The note changes nothing but itself. -/
theorem cwaitArm_eq (s : State) (a : Reg) : cwaitArm s a = s ∨ cwaitArm s a = s.onCore (fun c => { c with swept := true }) := by
  unfold cwaitArm
  cases cwaitTarget s a with
  | none => exact .inl rfl
  | some e =>
    dsimp only
    split
    · exact .inr rfl
    · exact .inl rfl

theorem cwaitTarget_arm (s : State) (a : Reg) : cwaitTarget (cwaitArm s a) a = cwaitTarget s a := by
  rcases cwaitArm_eq s a with h | h
  · rw [h]
  · have hc : (s.onCore (fun c => { c with swept := true })).core = { s.core with swept := true } := State.core_onCore _ _
    rw [h]
    unfold cwaitTarget
    rw [hc]
    rfl

theorem cwait_becomes (s : State) (a : Reg) (k x : Nat) (h : cwaitTarget s a = some (k, x))
    (hv : s.core.swept = true ∨ ((s.dieAt s.die).holdTick = false ∧ (s.segAt k).cursor = x)) :
    ∃ t, exec (.cwait a) s = .next t ∧ becomes s t { s.core with swept := false } := by
  have hswept : (cwaitArm s a).core.swept = true := by
    rw [cwaitArm_core s a k x h]
    rcases hv with hv | ⟨hh, hc⟩
    · rw [hv]; rfl
    · simp [hh, hc]
  have hwait : cwaitWaits (cwaitArm s a) a = false := by rw [cwaitWaits, hswept]; simp
  refine ⟨(cwaitArm s a).onCore (fun c => { c with swept := false }), ?_, ?_⟩
  · show execCwait a s = _
    unfold execCwait
    rw [h]
    exact if_neg (by rw [hwait]; exact Bool.false_ne_true)
  · rcases cwaitArm_eq s a with he | he
    · rw [he]; exact becomes_onCore s _
    · rw [he]; exact becomes_onCore_onCore s _ _

theorem cwait_held (s : State) (a : Reg) : 7 ∈ (s.arm (.cwait a)).delays (.cwait a) ↔ ∃ k x, cwaitTarget s a = some (k, x) ∧
    s.core.swept = false ∧ ¬((s.dieAt s.die).holdTick = false ∧ (s.segAt k).cursor = x) := by
  rw [mem_delays_of_plain (b := cwaitWaits (cwaitArm s a) a) (d := 7) rfl, cwaitWaits, cwaitTarget_arm]
  cases h : cwaitTarget s a with
  | none => simp
  | some e =>
    obtain ⟨k, x⟩ := e
    rw [cwaitArm_core s a k x h]
    simp only [Option.some.injEq, Prod.mk.injEq]
    constructor
    · intro hw
      refine ⟨k, x, ⟨rfl, rfl⟩, ?_⟩
      cases hh : (s.dieAt s.die).holdTick <;> simpa [hh] using hw
    · rintro ⟨_, _, ⟨rfl, rfl⟩, hw⟩
      cases hh : (s.dieAt s.die).holdTick <;> simpa [hh] using hw

/-! ### Fences (R146, R216, R312) -/

theorem tdfence_held (s : State) (g : Guard) : 11 ∈ s.delays (.tdfence g) ↔ s.core.guardOn g = true ∧ s.tick < s.core.tdwDue := by
  rw [mem_delays_of_plain (b := s.core.guardOn g && tdfenceWaits s) (d := 11) rfl, Bool.and_eq_true, tdfenceWaits, decide_eq_true_iff]

theorem spfence_held (s : State) (g : Guard) :
    11 ∈ s.delays (.spfence g) ↔ s.core.guardOn g = true ∧ ∃ q ∈ s.core.sends, ∃ m ∈ q.2, m.op.writes = true := by
  rw [mem_delays_of_plain (b := s.core.guardOn g && spfenceWaits s) (d := 11) rfl]
  simp only [Bool.and_eq_true, spfenceWaits, List.any_eq_true]

/-- As its row falls due, a `MAPFENCE` notes the passes that it covers and that still ride. -/
theorem mapfenceArm_eq (s : State) : mapfenceArm s = s.onCore (fun c => { c with mapfence := some (covered s) }) := by
  have hride : ∀ l, stillRiding s l = l.filter (stillOn s) := fun l => List.filter_congr (fun e _ => by
    simp only [stillOn, RegionJob.rides, Pass.rides, Core.pass]; rfl)
  unfold mapfenceArm covered
  cases s.core.mapfence with
  | none => rfl
  | some l => simp only [hride]

theorem mapfenceWaits_arm (s : State) : mapfenceWaits (mapfenceArm s) = !(covered s).isEmpty := by
  rw [mapfenceWaits, mapfenceArm_eq, State.core_onCore]

theorem mapfence_becomes (s : State) (g : Guard) (hg : s.core.guardOn g = true) : ∃ t, exec (.mapfence g) s = .next t ∧
    becomes s t { s.core with mapfence := if (covered s).isEmpty then none else some (covered s) } := by
  show ∃ t, execMapfence g s = .next t ∧ _
  unfold execMapfence
  dsimp only
  rw [if_pos hg, mapfenceWaits_arm, mapfenceArm_eq]
  cases (covered s).isEmpty with
  | false => exact ⟨_, rfl, becomes_onCore s _⟩
  | true => exact ⟨_, rfl, becomes_onCore_onCore s _ _⟩

theorem mapfence_held (s : State) (g : Guard) :
    11 ∈ (s.arm (.mapfence g)).delays (.mapfence g) ↔ s.core.guardOn g = true ∧ covered s ≠ [] := by
  rw [mem_delays_of_plain (b := (s.arm (.mapfence g)).core.guardOn g && mapfenceWaits (s.arm (.mapfence g))) (d := 11) rfl]
  have harm : s.arm (.mapfence g) = if s.core.guardOn g then mapfenceArm s else s := rfl
  rw [harm]
  by_cases hg : s.core.guardOn g = true
  · have hguard : (mapfenceArm s).core.guardOn g = s.core.guardOn g := by rw [mapfenceArm_eq, State.core_onCore]; rfl
    rw [if_pos hg, hguard, hg, mapfenceWaits_arm]
    simp
  · rw [if_neg hg]
    simp [hg]

/-- The passes that ride on a die: those of its cores, and those over its save region (R216, R368). -/
theorem mem_ridingOn (s : State) (h x y : Nat) : (x, y) ∈ ridingOn s h ↔
    (∃ e ∈ s.cores, ∃ p ∈ e.2.passes, e.1 = x ∧ keyDie x = h ∧ p.1 = y ∧ p.2.st = .riding ∧ p.2.closeIn = 0) ∨
      x = h * 32 + 31 ∧ ∃ j ∈ (s.dieAt h).region, j.left ≠ 0 ∧ j.seq = y := by
  have hcore : ∀ e : Nat × Core, (x, y) ∈ (if keyDie e.1 = h then
      e.2.passes.filterMap (fun p => if p.2.rides then some (e.1, p.1) else none) else []) ↔
      ∃ p ∈ e.2.passes, e.1 = x ∧ keyDie x = h ∧ p.1 = y ∧ p.2.st = .riding ∧ p.2.closeIn = 0 := fun e => by
    split
    · next hd =>
      simp only [List.mem_filterMap, Pass.rides, Option.ite_none_right_eq_some, Bool.and_eq_true, decide_eq_true_eq, beq_iff_eq,
        Option.some.injEq, Prod.mk.injEq]
      exact ⟨fun ⟨p, hp, ⟨h1, h2⟩, h3, h4⟩ => ⟨p, hp, h3, h3 ▸ hd, h4, h1, h2⟩, fun ⟨p, hp, h3, _, h4, h1, h2⟩ => ⟨p, hp, ⟨h1, h2⟩, h3, h4⟩⟩
    · next hd =>
      refine ⟨fun hn => absurd hn List.not_mem_nil, ?_⟩
      rintro ⟨p, -, rfl, hx, -⟩
      exact absurd hx hd
  rw [ridingOn, List.mem_append]
  simp only [List.mem_flatMap, hcore, List.mem_map, List.mem_filter, RegionJob.rides, decide_eq_true_eq, Prod.mk.injEq, regionKey]
  refine or_congr Iff.rfl ⟨fun ⟨j, ⟨hj, hl⟩, h1, h2⟩ => ⟨h1.symm, j, hj, hl, h2⟩, fun ⟨h1, j, hj, hl, h2⟩ => ⟨j, ⟨hj, hl⟩, h1.symm, h2⟩⟩

/-! ### `TSTMP` (R334) -/

/-- Two scalar registers written one after the other. -/
theorem laterS_wrS_wrS (s : State) (d e : Reg) (v w : Word) (r : Reg) : laterS (s.onCore (fun c => (c.wrS d v).wrS e w)) r =
    if r = e ∧ r ≠ 0 then w else if r = d ∧ r ≠ 0 then v else laterS s r := by
  rw [laterS, State.core_onCore, Core.rdS_wrS, Core.rdS_wrS]; rfl

/-- Settles O39: the tests of the delays are read by the lemma of each instruction (`mem_delays_of_plain`); what is left to do as the row issues is a
change of the core in hand (`prnd_becomes`, `cwait_becomes`, `mapfence_becomes`), a fault (`tagWait_faults`), or a write of registers. -/
theorem waitingRows : Obligations.WaitingRows := by
  intro s g d a c v
  refine ⟨rfl, (mem_delays_of_plain (b := belayWaits s a) rfl).trans decide_eq_true_iff, rfl,
    (mem_delays_of_plain (b := waittWaits s a) rfl).trans decide_eq_true_iff, rfl, ljoin_held s a, rfl, pfence_held s, tagWait_faults s a,
    tagWait_held s a, prnd_becomes s, prnd_held s, mem_passesOn s, fun h => ?_, fun hu k hk => ?_,
    fun k x h => ⟨cwaitArm_core s a k x h, cwait_becomes s a k x h⟩, cwait_held s a, rfl, tdfence_held s g, rfl, spfence_held s g,
    fun hg => ⟨⟨_, if_pos hg, becomes_onCore s _⟩, mapfence_becomes s g hg⟩, mapfence_held s g, mem_ridingOn s,
    _, rfl, alone_onCore s _, ?_, laterS_wrS_wrS s d (d + 1) _ _⟩
  · refine ⟨s.passBound, ?_, raise_faults s _⟩
    show execCwait a s = _
    unfold execCwait
    rw [h]
  · unfold cwaitTarget
    rw [hu, show s.core.seg = some k from hk]
    rfl
  · rw [State.core_onCore, Core.wrS_eq, Core.wrS_eq]

end Sys2Proof.Machine
end

section
/-! PROOFS. The scope: circular buffers. -/

namespace Sys2Proof.Machine
open Sys2Proof.Says

/-! ### The bytes of a number and of a range -/

/-- The number of a range, from those of its parts. -/
theorem load_add (m : Memory) : ∀ (j a n : Nat), Memory.load m a (j + n) = Memory.load m a j + 256 ^ j * Memory.load m (a + j) n := by
  intro j
  induction j with
  | zero => intro a n; rw [Nat.zero_add, Memory.load, pow_zero, Nat.add_zero, Nat.zero_add, Nat.one_mul]
  | succ j ih =>
    intro a n
    rw [Nat.succ_add, Memory.load, ih (a + 1) n, Memory.load, pow_succ, Nat.add_assoc a 1 j, Nat.add_comm 1 j]
    ring

/-- The number of a part, from that of the range. -/
theorem load_part (m : Memory) (a j n k : Nat) : Memory.load m (a + j) n = Memory.load m a (j + n + k) / 256 ^ j % 256 ^ n := by
  rw [Nat.add_assoc, load_add, load_add m n, Nat.add_mul_div_left _ _ (Nat.pow_pos (by norm_num)), Nat.div_eq_of_lt (load_lt m j a), Nat.zero_add,
    Nat.add_mul_mod_self_left, Nat.mod_eq_of_lt (load_lt m n (a + j))]

/-- A byte of a range, from its number. -/
theorem byte_eq_load (m : Memory) (a n i : Nat) (h : i < n) : Memory.byte m (a + i) = BitVec.ofNat 8 (Memory.load m a n / 256 ^ i) := by
  have hl := load_part m a i 1 (n - (i + 1))
  rw [Nat.add_sub_cancel' h] at hl
  have h1 : Memory.load m (a + i) 1 = (Memory.byte m (a + i)).toNat := by simp [Memory.load]
  apply BitVec.eq_of_toNat_eq
  rw [BitVec.toNat_ofNat, ← h1, hl]
  norm_num

/-- A number with the four bytes from some place on replaced by a word. -/
def withWord (v off : Nat) (w : W32) : Nat := v % 2 ^ (8 * off) + 2 ^ (8 * off) * (w.toNat + 2 ^ 32 * (v / 2 ^ (8 * off + 32)))

theorem testBit_withWord (v off : Nat) (w : W32) (k : Nat) : (withWord v off w).testBit k =
    if 8 * off ≤ k ∧ k < 8 * off + 32 then w.getLsbD (k - 8 * off) else v.testBit k := by
  have hlow : v % 2 ^ (8 * off) < 2 ^ (8 * off) := Nat.mod_lt _ (Nat.two_pow_pos _)
  rw [withWord, Nat.add_comm, Nat.testBit_two_pow_mul_add _ hlow, Nat.add_comm w.toNat, Nat.testBit_two_pow_mul_add _ w.isLt]
  by_cases h1 : k < 8 * off
  · simp [h1, Nat.testBit_mod_two_pow, show ¬8 * off ≤ k by omega]
  · by_cases h2 : k - 8 * off < 32
    · rw [if_neg h1, if_pos h2, if_pos (by omega)]; rfl
    · rw [if_neg h1, if_neg h2, if_neg (by omega), Nat.testBit_div_two_pow]
      congr 1
      omega

theorem byte_withWord (v off : Nat) (w : W32) (i : Nat) : BitVec.ofNat 8 (withWord v off w / 256 ^ i) =
    if off ≤ i ∧ i < off + 4 then w.extractLsb' (8 * (i - off)) 8 else BitVec.ofNat 8 (v / 256 ^ i) := by
  rw [show (256 : Nat) = 2 ^ 8 by norm_num, ← pow_mul]
  apply BitVec.eq_of_getLsbD_eq
  intro j hj
  rw [BitVec.getLsbD_ofNat, Nat.testBit_div_two_pow, testBit_withWord]
  by_cases h : off ≤ i ∧ i < off + 4
  · rw [if_pos h, if_pos (by omega), BitVec.getLsbD_extractLsb']
    simp only [hj, decide_true, Bool.true_and]
    congr 1
    omega
  · rw [if_neg h, if_neg (by omega), BitVec.getLsbD_ofNat, Nat.testBit_div_two_pow]

/-! ### Buffer objects (R291) -/

theorem counters_head (v : Nat) (w : W32) : ({ cbufOf v with head := w } : Cbuf).counters v = withWord v 0x0C w := by
  simp only [Cbuf.counters, cbufOf, natBits, BitVec.toNat_ofNat, withWord]
  omega

theorem counters_tail (v : Nat) (w : W32) : ({ cbufOf v with tail := w } : Cbuf).counters v = withWord v 0x10 w := by
  simp only [Cbuf.counters, cbufOf, natBits, BitVec.toNat_ofNat, withWord]
  omega

theorem counters_acq (v : Nat) (w : W32) : ({ cbufOf v with acq := w } : Cbuf).counters v = withWord v 0x14 w := by
  simp only [Cbuf.counters, cbufOf, natBits, BitVec.toNat_ofNat, withWord]
  omega

theorem counters_waited (v : Nat) (w : W32) : ({ cbufOf v with waited := w } : Cbuf).counters v = withWord v 0x18 w := by
  simp only [Cbuf.counters, cbufOf, natBits, BitVec.toNat_ofNat, withWord]
  omega

/-- A counter of an object is a word of the scratchpad. -/
theorem ofNat_natBits_load (m : Memory) (x off : Nat) (h : off + 4 ≤ 64) :
    BitVec.ofNat 32 (natBits (Memory.load m x 64) (8 * off) (8 * 4)) = memW m (x + off) := by
  rw [memW, load_part m x off 4 (64 - (off + 4)), Nat.add_sub_cancel' h, natBits, show (256 : Nat) = 2 ^ 8 by norm_num, ← pow_mul, ← pow_mul]

/-! ### A step on a buffer object (R292) -/

theorem cbStep_bound (s : State) (a : Reg) (f : Cbuf → Option (Nat × Cbuf)) (h : ¬fits s (s.core.rdS a).toNat 64) :
    cbStep s a f = .stop (s.linkBoundAt (s.core.rdS a).toNat) := by
  have hf := Bool.eq_false_iff.mpr (mt (spOk_eq s (s.core.rdS a).toNat 64).mp h)
  rw [cbStep]
  dsimp only
  rw [hf]
  rfl

theorem cbObj_bound (s : State) (a : Reg) (h : ¬fits s (s.core.rdS a).toNat 64) : cbObj s a = none := by
  have hf := Bool.eq_false_iff.mpr (mt (spOk_eq s (s.core.rdS a).toNat 64).mp h)
  rw [cbObj]
  rw [hf]
  rfl

/-- A step on a buffer object that can be read. -/
theorem cbStep_read (s : State) (a : Reg) (f : Cbuf → Option (Nat × Cbuf)) (hf : fits s (s.core.rdS a).toNat 64)
    (hb : badIn s.core.badScratch (s.core.rdS a).toNat 64 = false) (hs : settled s (s.core.rdS a).toNat 64) :
    cbStep s a f = if (bufferAt s a).ok (s.spEnd s.cur) then
      match f (bufferAt s a) with
      | none => .stop (s.raiseL cCBMISUSE (s.core.rdS a).toNat)
      | some (r, b) => .ok ((s.putAt s.cur (s.core.rdS a).toNat (leBytes 64 (b.counters (Memory.load s.core.scratch (s.core.rdS a).toNat 64)))).touch
          .buffer 4 (s.core.rdS a).toNat 64) r
    else .stop (s.raiseL cCBMISUSE (s.core.rdS a).toNat) := by
  rw [cbStep]
  dsimp only
  rw [(spOk_eq s _ 64).mpr hf, hb, loadNat_settled s 64 _ hs, ← bufferAt]
  cases (bufferAt s a).ok (s.spEnd s.cur) <;> rfl

theorem cbObj_read (s : State) (a : Reg) (hf : fits s (s.core.rdS a).toNat 64)
    (hb : badIn s.core.badScratch (s.core.rdS a).toNat 64 = false) (hs : settled s (s.core.rdS a).toNat 64) :
    cbObj s a = if (bufferAt s a).ok (s.spEnd s.cur) then some (bufferAt s a) else none := by
  rw [cbObj]
  rw [(spOk_eq s _ 64).mpr hf, hb, loadNat_settled s 64 _ hs, ← bufferAt]
  rfl

theorem cbObj_good {s : State} {a : Reg} (h : bufferGood s a) : cbObj s a = some (bufferAt s a) := by
  obtain ⟨hf, hb, hs, -, hok⟩ := h
  rw [cbObj_read s a hf hb hs, if_pos hok]

/-- A step without a result in an object that is well formed. -/
theorem cbStep_misuse {s : State} {a : Reg} (h : bufferGood s a) {f : Cbuf → Option (Nat × Cbuf)} (hn : f (bufferAt s a) = none) :
    cbStep s a f = .stop (s.raiseL cCBMISUSE (s.core.rdS a).toNat) := by
  obtain ⟨hf, hb, hs, -, hok⟩ := h
  rw [cbStep_read s a f hf hb hs, if_pos hok, hn]

/-- A counter of a well-formed object goes up by one. -/
theorem cbStep_counts {s : State} {a : Reg} (h : bufferGood s a) {f : Cbuf → Option (Nat × Cbuf)} {r : Nat} {b : Cbuf} (off : Nat)
    (hfb : f (bufferAt s a) = some (r, b))
    (hc : b.counters (Memory.load s.core.scratch (s.core.rdS a).toNat 64) =
      withWord (Memory.load s.core.scratch (s.core.rdS a).toNat 64) off (memW s.core.scratch ((s.core.rdS a).toNat + off) + 1)) :
    ∃ t, cbStep s a f = .ok t r ∧ stores s t (s.core.rdS a).toNat 64 (fun i => if off ≤ i ∧ i < off + 4 then
      (memW s.core.scratch ((s.core.rdS a).toNat + off) + 1).extractLsb' (8 * (i - off)) 8 else sp s ((s.core.rdS a).toNat + i)) := by
  obtain ⟨hf, hb, hs, hq, hok⟩ := h
  have hlen : (leBytes 64 (b.counters (Memory.load s.core.scratch (s.core.rdS a).toNat 64))).length = 64 := length_leBytes _ _
  rw [cbStep_read s a f hf hb hs, if_pos hok, hfb]
  refine ⟨_, rfl, ?_⟩
  obtain ⟨ha, hcore⟩ := putAt_touch s .buffer 4 (s.core.rdS a).toNat (leBytes 64 (b.counters (Memory.load s.core.scratch (s.core.rdS a).toNat 64)))
    rfl (by rw [hlen]; exact hq)
  rw [hlen] at ha hcore
  have hfin := stores_of_stored s _ .buffer _ _ (fun i => if off ≤ i ∧ i < off + 4 then
      (memW s.core.scratch ((s.core.rdS a).toNat + off) + 1).extractLsb' (8 * (i - off)) 8 else sp s ((s.core.rdS a).toNat + i)) ha hcore
    (fun i hi => by
      rw [hlen] at hi
      rw [getD_leBytes 64 _ i hi, hc, byte_withWord, sp, byte_eq_load _ _ 64 i hi])
  rw [hlen] at hfin
  exact hfin

/-! ### Instructions on a buffer object -/

/-- Bytes stored, and no result. -/
theorem atomically_of_stores_alone {s t : State} {x z : Nat} {f : Nat → Byte} (h : stores s t x z f) : atomically s t x z f 0 0 := by
  obtain ⟨ha, hcore, hsp, -, hp, -⟩ := h
  have hregs : t.core.regs = s.core.regs := by rw [hcore]
  refine ⟨ha, ?_, hsp, hp, fun r => ?_⟩
  · rw [hregs]; exact hcore
  · rw [if_neg (fun h => h.2 h.1), laterS, Core.rdS_beginRow, hregs, ← Core.rdS_beginRow]; rfl

/-- A state whose core is the same. -/
theorem atomically_of_core_eq {s u t : State} {x z : Nat} {f : Nat → Byte} {d : Reg} {v : Word} (h : atomically s u x z f d v) (ha : alone u t)
    (hc : t.core = u.core) : atomically s t x z f d v := by
  obtain ⟨hau, hcore, hsp, hp, hr⟩ := h
  refine ⟨alone_trans hau ha, ?_, fun y => ?_, fun h0 => ?_, fun r => ?_⟩
  · rw [hc]; exact hcore
  · rw [sp, hc]; exact hsp y
  · rw [hc]; exact hp h0
  · rw [laterS, hc]; exact hr r

/-- An instruction that is held by a delay of its own, its accesses apart. -/
theorem mem_delays_of_access {s : State} {i : Instr} {b : Bool} {d : Nat} (hd : d ≠ dStore) (ho : s.ownDelays i = when b d)
    (hr : vRegsOf i = ([], []) := by rfl) : d ∈ s.delays i ↔ b = true := by
  have hs : ∀ w : Bool, d ∉ when w dStore := fun w => by cases w <;> simp [when, hd]
  rw [State.delays, meshDelays_of_no_vectors s i hr, List.append_nil, List.mem_append, ho, mem_when]
  exact or_iff_right (hs _)

theorem cbacqWaits_good {s : State} {a : Reg} (h : bufferGood s a) :
    cbacqWaits s a = decide ((bufferAt s a).stages ≤ ((bufferAt s a).acq - (bufferAt s a).tail).toNat) := by rw [cbacqWaits, cbObj_good h]

theorem cbwaitWaits_good {s : State} {a : Reg} (h : bufferGood s a) : cbwaitWaits s a = true ↔ (bufferAt s a).head = (bufferAt s a).waited ∨
    ∃ m, s.core.commitOf (s.core.rdS a).toNat (bufferAt s a).waited = some m ∧ s.tick ≤ m.tick := by
  rw [cbwaitWaits, cbObj_good h]
  dsimp only
  rw [Bool.or_eq_true, decide_eq_true_iff]
  refine or_congr Iff.rfl ?_
  cases s.core.commitOf (s.core.rdS a).toNat (bufferAt s a).waited with
  | none => simp
  | some m => simp

theorem raise_lFault (s : State) (x : Nat) : faults s (s.linkBoundAt x) (lFault s 0x20 x) := raise_faults s _

theorem raise_misuse (s : State) (x : Nat) : faults s (s.raiseL cCBMISUSE x) { lFault s 0x2A 0 with elem := BitVec.ofNat 64 x } := raise_faults s _

/-- An instruction on a buffer whose step stops. -/
theorem exec_buffer_of_stop (s : State) (d a : Reg) (t : State) (hobj : cbObj s a = none) (h : ∀ f, cbStep s a f = .stop t) :
    ∀ i ∈ [Instr.cbacq d a, .cbcomLocal a, .cbwait d a, .cbrel a], exec i s = .next t := by
  have hacq : exec (.cbacq d a) s = .next t := by
    show execCbacq d a s = _
    rw [execCbacq, cbacqWaits, hobj, if_neg Bool.false_ne_true, h]
  have hcom : exec (.cbcomLocal a) s = .next t := by
    show execCbcomLocal a s = _
    rw [execCbcomLocal, h]
  have hwait : exec (.cbwait d a) s = .next t := by
    show execCbwait d a s = _
    rw [execCbwait, cbwaitWaits, hobj, if_neg Bool.false_ne_true, h]
  have hrel : exec (.cbrel a) s = .next t := by
    show execCbrel a s = _
    rw [execCbrel, h]
  simp only [List.forall_mem_cons, List.not_mem_nil, false_implies, implies_true, and_true]
  exact ⟨hacq, hcom, hwait, hrel⟩

theorem cbacq_bumps {s : State} {d a : Reg} (h : bufferGood s a) (hr : ((bufferAt s a).acq - (bufferAt s a).tail).toNat < (bufferAt s a).stages) :
    ∃ t, exec (.cbacq d a) s = .next t ∧ bumps s t a 0x14 d (BitVec.ofNat 64 ((bufferAt s a).stage (bufferAt s a).acq)) := by
  obtain ⟨t, ht, hst⟩ := cbStep_counts h 0x14 (f := fun b => some (b.stage b.acq, { b with acq := b.acq + 1 })) rfl
    ((counters_acq _ _).trans (by rw [← ofNat_natBits_load _ _ 0x14 (by norm_num)]; rfl))
  refine ⟨_, ?_, atomically_of_stores hst d _⟩
  show execCbacq d a s = _
  rw [execCbacq, cbacqWaits_good h, if_neg (by rw [decide_eq_true_iff]; omega), ht]

theorem cbcomLocal_bumps {s : State} {a : Reg} (h : bufferGood s a) (hr : (bufferAt s a).head ≠ (bufferAt s a).acq) :
    ∃ t, exec (.cbcomLocal a) s = .next t ∧ bumps s t a 0x0C 0 0 := by
  obtain ⟨t, ht, hst⟩ := cbStep_counts h 0x0C (f := fun b => if b.head = b.acq then none else some (0, { b with head := b.head + 1 })) (if_neg hr)
    ((counters_head _ _).trans (by rw [← ofNat_natBits_load _ _ 0x0C (by norm_num)]; rfl))
  refine ⟨t, ?_, atomically_of_stores_alone hst⟩
  show execCbcomLocal a s = _
  rw [execCbcomLocal, ht]

theorem cbrel_bumps {s : State} {a : Reg} (h : bufferGood s a) (hr : (bufferAt s a).tail ≠ (bufferAt s a).waited) :
    ∃ t, exec (.cbrel a) s = .next t ∧ bumps s t a 0x10 0 0 := by
  obtain ⟨t, ht, hst⟩ := cbStep_counts h 0x10 (f := fun b => if b.tail = b.waited then none else some (0, { b with tail := b.tail + 1 })) (if_neg hr)
    ((counters_tail _ _).trans (by rw [← ofNat_natBits_load _ _ 0x10 (by norm_num)]; rfl))
  refine ⟨t, ?_, atomically_of_stores_alone hst⟩
  show execCbrel a s = _
  rw [execCbrel, ht]

/-- What a `CBWAIT` notes of a remote commit of the stage that it hands out (R292, R312). -/
def Core.takeCommit (c : Core) (x : Nat) (stage : W32) : Core :=
  match c.commitOf x stage with
  | none => c
  | some m => { c.observe m.core m.interval with commits := c.commits.filter (fun e => e != m) }

theorem cbwait_bumps {s : State} {d a : Reg} (h : bufferGood s a) (hw : ¬cbwaitWaits s a = true) :
    ∃ u, bumps s u a 0x18 d (BitVec.ofNat 64 ((bufferAt s a).stage (bufferAt s a).waited)) ∧
      exec (.cbwait d a) s = .next (u.onCore (fun c => c.takeCommit (s.core.rdS a).toNat (bufferAt s a).waited)) := by
  obtain ⟨t, ht, hst⟩ := cbStep_counts h 0x18 (f := fun b => some (b.stage b.waited, { b with waited := b.waited + 1 })) rfl
    ((counters_waited _ _).trans (by rw [← ofNat_natBits_load _ _ 0x18 (by norm_num)]; rfl))
  refine ⟨_, atomically_of_stores hst d _, ?_⟩
  show execCbwait d a s = _
  rw [execCbwait, if_neg hw, ht, cbObj_good h]
  rfl

theorem get_observe (c : Core) (y : Nat) (i : Word) : i.toNat ≤ (SMap.get 0 (c.observe y i).observed y).toNat := by
  rw [Core.observe, SMap.get_set_same]
  split
  · exact le_rfl
  · omega

/-- Settles O48: a step on an object stops (`cbStep_bound`, `cbStep_read`, `cbStep_misuse`) or moves one counter (`cbStep_counts`), as each instruction
asks. -/
theorem circularBuffers : Obligations.CircularBuffers := by
  intro s d a
  refine ⟨fun i hi => ⟨fun hf => ⟨_, exec_buffer_of_stop s d a _ (cbObj_bound s a hf) (fun f => cbStep_bound s a f hf) i hi, raise_lFault s _⟩,
    fun hf hb hs hok => ⟨_, exec_buffer_of_stop s d a _ (by rw [cbObj_read s a hf hb hs, hok]; rfl)
      (fun f => by rw [cbStep_read s a f hf hb hs, hok]; rfl) i hi, raise_misuse s _⟩⟩, fun h => ?_⟩
  refine ⟨?_, ?_, cbacq_bumps h, fun hr => ?_, cbcomLocal_bumps h, fun hr => ⟨_, ?_, raise_misuse s _⟩, fun hr hm => ?_, fun hr m hm htick => ?_,
    cbrel_bumps h, fun hr => ⟨_, ?_, raise_misuse s _⟩⟩
  · rw [mem_delays_of_access (b := cbacqWaits s a) (d := 5) (by decide) rfl, cbacqWaits_good h, decide_eq_true_iff]
  · exact (mem_delays_of_access (b := cbwaitWaits s a) (d := 3) (by decide) rfl).trans (cbwaitWaits_good h)
  · exact if_pos (by rw [cbacqWaits_good h, decide_eq_true_iff]; exact hr)
  · show execCbcomLocal a s = _
    rw [execCbcomLocal, cbStep_misuse h (if_pos hr)]
  · obtain ⟨u, hu, hexec⟩ := cbwait_bumps (d := d) h (by
      rw [cbwaitWaits_good h]
      rintro (he | ⟨m, hs, -⟩)
      · exact hr he
      · exact hm m hs)
    have hcommits : u.core.commits = s.core.commits := by rw [hu.2.1]
    have hnone : u.core.commitOf (s.core.rdS a).toNat (bufferAt s a).waited = none := by
      rw [Core.commitOf, hcommits]
      exact Option.eq_none_iff_forall_ne_some.mpr hm
    have hcore : (u.onCore (fun c => c.takeCommit (s.core.rdS a).toNat (bufferAt s a).waited)).core = u.core := by
      rw [State.core_onCore, Core.takeCommit, hnone]
    unfold bumps at hu ⊢
    exact ⟨_, hexec, atomically_of_core_eq hu (alone_onCore u _) hcore⟩
  · obtain ⟨u, hu, hexec⟩ := cbwait_bumps (d := d) h (by
      rw [cbwaitWaits_good h]
      rintro (he | ⟨m', hs, hle⟩)
      · exact hr he
      · rw [Core.commitOf] at hs
        rw [hm, Option.some.injEq] at hs
        subst hs
        omega)
    have hcommits : u.core.commits = s.core.commits := by rw [hu.2.1]
    have hsome : u.core.commitOf (s.core.rdS a).toNat (bufferAt s a).waited = some m := by rw [Core.commitOf, hcommits]; exact hm
    refine ⟨_, u, hexec, hu, alone_onCore u _, ?_, ?_⟩
    · rw [State.core_onCore, Core.takeCommit, hsome, hcommits]
      rfl
    · rw [State.core_onCore, Core.takeCommit, hsome]
      exact get_observe u.core m.core m.interval
  · show execCbrel a s = _
    rw [execCbrel, cbStep_misuse h (if_pos hr)]

end Sys2Proof.Machine
end

section
/-! PROOFS. The scope: instructions that send over a link. -/

namespace Sys2Proof.Machine
open Sys2Proof.Says

/-! ### What an L instruction that sends does (R273, R275) -/

/-- The area that an operation names is aligned and in range. -/
def State.sendGood (s : State) : Option (Nat × Nat × Nat) → Bool
  | none => true
  | some r => r.1 % r.2.1 == 0 && decide (r.1 + r.2.2 ≤ s.spEnd s.cur)

/-- The checks of an L instruction that sends, the send-full delay, and its operation sent: a port, entries, an area, an address to name, the
operation, and whether it ends the interval. -/
def sendStep (s : State) (p n : Nat) (area : Option (Nat × Nat × Nat)) (x : Nat) (op : LOp) (sync : Bool) : Out :=
  if !(s.core.bound p) then .next s.linkBound
  else if !(s.sendGood area) then .next (s.linkBoundAt x)
  else if s.core.bound p && sendFull s p n then .next s
  else .next (s.sendOp p n op sync)

/-- The send-full delay of such an instruction. -/
def sendHeld (s : State) (p n : Nat) (area : Option (Nat × Nat × Nat)) : Bool := s.sendGood area && (s.core.bound p && sendFull s p n)

theorem entriesOf_map (g : Nat → W32) : ∀ n k : Nat, entriesOf n ((List.range (8 * n)).map (fun i => g (k + i))) =
    (List.range n).map (fun i => (List.range 8).map (fun j => g (k + (8 * i + j)))) := by
  intro n
  induction n with
  | zero => intro k; rfl
  | succ n ih =>
    intro k
    have hsplit : (List.range (8 * (n + 1))).map (fun i => g (k + i)) =
        (List.range 8).map (fun i => g (k + i)) ++ (List.range (8 * n)).map (fun i => g (k + 8 + i)) := by
      rw [show 8 * (n + 1) = 8 + 8 * n by ring, List.range_add, List.map_append, List.map_map]
      simp only [Function.comp_def, Nat.add_assoc]
    have hlen : ((List.range 8).map (fun i => g (k + i))).length = 8 := by simp
    have hrest : (List.range n).map (fun i => (List.range 8).map (fun j => g (k + 8 + (8 * i + j)))) =
        (List.range n).map (fun i => (List.range 8).map (fun j => g (k + (8 * (1 + i) + j)))) :=
      List.map_congr_left (fun i _ => List.map_congr_left (fun j _ => congrArg g (by ring)))
    rw [entriesOf, hsplit, List.take_left' hlen, List.drop_left' hlen, ih (k + 8), hrest, Nat.add_comm n 1, List.range_add, List.map_append,
      List.map_map]
    simp only [List.range_one, List.map_cons, List.map_nil, Nat.mul_zero, Nat.zero_add]
    rfl

/-- The entries of a vector register, eight words each. -/
theorem entriesOf_sendWords (c : Core) (a : Reg) (f : BitVec 2) : entriesOf (foldBeats f) (c.sendWords a f) =
    (List.range (2 ^ f.toNat)).map (fun i => (List.range 8).map (fun j => c.rdV a (8 * i + j))) := by
  have h := entriesOf_map (c.rdV a) (foldBeats f) 0
  simp only [Nat.zero_add] at h
  exact h

/-- Each form that sends, by its operation; its delay and its send stall. -/
theorem exec_sendForms (s : State) (a b : Reg) (f : BitVec 2) (port : BitVec 4) : ∀ e ∈ sendForms s a b f port,
    exec e.1 s = sendStep s port.toNat e.2.1 e.2.2.1 (s.core.rdS b).toNat e.2.2.2.1 e.2.2.2.2 ∧
      (dFull ∈ s.delays e.1 ↔ sendHeld s port.toNat e.2.1 e.2.2.1 = true) ∧
      s.stallOf e.1 = if (s.delays e.1).contains dFull then some (port.toNat, 4) else none := by
  have hsend : exec (.lsendV a f port) s = sendStep s port.toNat (2 ^ f.toNat) none (s.core.rdS b).toNat
      (.send ((List.range (2 ^ f.toNat)).map (fun i => (List.range 8).map (fun j => s.core.rdV a (8 * i + j))))) true := by
    rw [← entriesOf_sendWords]; rfl
  simp only [sendForms, List.forall_mem_cons, List.not_mem_nil, false_implies, implies_true, and_true]
  exact ⟨⟨hsend, mem_delays_of_plain rfl, rfl⟩, ⟨rfl, mem_delays_of_plain rfl, rfl⟩, ⟨rfl, mem_delays_of_plain rfl, rfl⟩,
    ⟨rfl, mem_delays_of_plain rfl, rfl⟩, ⟨rfl, mem_delays_of_plain rfl, rfl⟩, ⟨rfl, mem_delays_of_plain rfl, rfl⟩,
    ⟨rfl, mem_delays_of_plain rfl, rfl⟩, ⟨rfl, mem_delays_of_plain rfl, rfl⟩⟩

/-! ### The operation sent (R274, R275, R312) -/

/-- The copies of an operation, one for each target of its port. -/
def State.copies (s : State) (p n : Nat) (op : LOp) : List Sent :=
  (s.core.targets p).zipIdx.map (fun t => copyFor s s.core s.core.sendNo n op s.core.interval t.1 t.2)

theorem length_copies (s : State) (p n : Nat) (op : LOp) : (s.copies p n op).length = (s.core.targets p).length := by
  rw [State.copies, List.length_map, List.length_zipIdx]

theorem getElem?_copies (s : State) (p n : Nat) (op : LOp) (i : Nat) (w : W32) (h : (s.core.targets p)[i]? = some w) :
    (s.copies p n op)[i]? = some (copyFor s s.core s.core.sendNo n op s.core.interval w i) := by
  rw [State.copies, List.getElem?_map, List.getElem?_zipIdx, h, Nat.zero_add]; rfl

/-- A copy may arrive within 64 ticks (R274). -/
theorem due_copyFor (s : State) (c : Core) (no n : Nat) (op : LOp) (carry : Word) (w : W32) (i : Nat) :
    s.tick < (copyFor s c no n op carry w i).due ∧ (copyFor s c no n op carry w i).due ≤ s.tick + 64 := by
  have hfree : ∀ near : Bool,
      (if near then Config.freeTicks .linkDie (s.fresh + i) % 16 else Config.freeTicks .linkModule (s.fresh + i) % 64) < 64
    | true => (Nat.mod_lt _ (by norm_num : 0 < 16)).trans (by norm_num)
    | false => Nat.mod_lt _ (by norm_num)
  obtain ⟨k, hk, hdue⟩ : ∃ k, k < 64 ∧ (copyFor s c no n op carry w i).due = s.tick + 1 + k := ⟨_, hfree _, rfl⟩
  rw [hdue]
  omega

/-- A copy leads over a trunk exactly where its target word says so. -/
theorem mem_far_copies (s : State) (p n : Nat) (op : LOp) (k : Nat) : (∃ m ∈ (s.copies p n op).filter (fun m => m.far), m.trunk = k) ↔
    ∃ w ∈ s.core.targets p, w.getLsbD 31 = true ∧ (w.extractLsb' 23 7).toNat = k := by
  simp only [State.copies, List.mem_filter, List.mem_map]
  constructor
  · rintro ⟨_, ⟨⟨e, he, rfl⟩, hfar⟩, htrunk⟩
    exact ⟨e.1, List.fst_mem_of_mem_zipIdx he, hfar, htrunk⟩
  · rintro ⟨w, hw, hfar, htrunk⟩
    obtain ⟨i, hi⟩ := List.mem_iff_getElem?.mp hw
    exact ⟨_, ⟨⟨(w, i), List.mk_mem_zipIdx_iff_getElem?.mpr hi, rfl⟩, hfar⟩, htrunk⟩

theorem mem_foldl_trunks (n : Nat) : ∀ (ms : List Sent) (l : List Nat),
    n ∈ ms.foldl (fun l m => if l.contains m.trunk then l else l ++ [m.trunk]) l ↔ n ∈ l ∨ ∃ m ∈ ms, m.trunk = n := by
  intro ms
  induction ms with
  | nil => intro l; simp
  | cons m ms ih =>
    intro l
    have hstep : n ∈ (if l.contains m.trunk then l else l ++ [m.trunk]) ↔ n ∈ l ∨ m.trunk = n := by
      split
      · next h =>
        refine ⟨.inl, ?_⟩
        rintro (h' | rfl)
        · exact h'
        · exact List.contains_iff_mem.mp h
      · next h => rw [List.mem_append, List.mem_singleton, eq_comm]
    rw [List.foldl_cons, ih, hstep, or_assoc]
    simp only [List.exists_mem_cons_iff]

theorem core_sendOp (s : State) (p n : Nat) (op : LOp) (sync : Bool) : (s.sendOp p n op sync).core =
    { s.core with
      sends := SMap.set [] s.core.sends p (s.core.sendQ p ++ s.copies p n op)
      sendNo := s.core.sendNo + 1
      farSent := ((s.copies p n op).filter (fun m => m.far)).foldl (fun l m => if l.contains m.trunk then l else l ++ [m.trunk]) s.core.farSent
      interval := if sync then s.core.interval + 1 else s.core.interval } := State.core_setCore _ _

theorem alone_sendOp (s : State) (p n : Nat) (op : LOp) (sync : Bool) : alone s (s.sendOp p n op sync) :=
  ⟨fun _ h => SMap.get_set_other _ _ _ _ _ h, rfl, rfl, rfl, rfl, rfl⟩

theorem sendGood_iff (s : State) (area : Option (Nat × Nat × Nat)) :
    s.sendGood area = true ↔ match area with | none => True | some r => r.1 % r.2.1 = 0 ∧ r.1 + r.2.2 ≤ s.spEnd s.cur := by
  cases area <;> simp [State.sendGood]

theorem sendFull_iff (s : State) (p n : Nat) : sendFull s p n = true ↔ 8 < occupancy (s.core.sendQ p) + n := decide_eq_true_iff

/-- Settles O45: each form is `sendStep` on its operation (`exec_sendForms`), and an operation sent is a copy for each target (`core_sendOp`). -/
theorem linkSends : Obligations.LinkSends := by
  intro s a b f port e he
  obtain ⟨hexec, hdelay, hstall⟩ := exec_sendForms s a b f port e he
  have hheld : sendHeld s port.toNat e.2.1 e.2.2.1 = true ↔ s.core.bound port.toNat = true ∧
      (match e.2.2.1 with | none => True | some r => r.1 % r.2.1 = 0 ∧ r.1 + r.2.2 ≤ s.spEnd s.cur) ∧
        8 < occupancy (s.core.sendQ port.toNat) + e.2.1 := by
    rw [sendHeld, Bool.and_eq_true, Bool.and_eq_true, sendGood_iff, sendFull_iff]
    exact and_left_comm
  refine ⟨fun hb => ⟨s.linkBound, ?_, raise_faults s _⟩, fun hb hg => ⟨s.linkBoundAt (s.core.rdS b).toNat, ?_, raise_lFault s _⟩, hdelay.trans hheld,
    fun hb hg hf => ⟨?_, ?_⟩, fun hb hg hf => ?_⟩
  · rw [hexec, sendStep, hb]; rfl
  · have hgood := Bool.eq_false_iff.mpr (mt (sendGood_iff s e.2.2.1).mp hg)
    rw [hexec, sendStep, hb, hgood]; rfl
  · rw [hexec, sendStep, hb, (sendGood_iff s e.2.2.1).mpr hg, (sendFull_iff s _ _).mpr hf]; rfl
  · rw [hstall, if_pos (List.contains_iff_mem.mpr (hdelay.mpr (hheld.mpr ⟨hb, hg, hf⟩)))]
  · have hroom := Bool.eq_false_iff.mpr (mt (sendFull_iff s port.toNat e.2.1).mp hf)
    have hcore := core_sendOp s port.toNat e.2.1 e.2.2.2.1 e.2.2.2.2
    refine ⟨s.sendOp port.toNat e.2.1 e.2.2.2.1 e.2.2.2.2, s.copies port.toNat e.2.1 e.2.2.2.1, ?_, alone_sendOp s _ _ _ _, ?_, fun q => ?_,
      length_copies s _ _ _, fun i w m hw hm => ?_, fun n => ?_⟩
    · rw [hexec, sendStep, hb, (sendGood_iff s e.2.2.1).mpr hg, hroom]; rfl
    · rw [hcore]
    · rw [hcore, Core.sendQ, SMap.get_set]; rfl
    · rw [getElem?_copies s _ _ _ i w hw, Option.some.injEq] at hm
      subst hm
      obtain ⟨h1, h2⟩ := due_copyFor s s.core s.core.sendNo e.2.1 e.2.2.2.1 s.core.interval w i
      exact ⟨h1, h2, rfl⟩
    · rw [hcore, mem_foldl_trunks, mem_far_copies]

end Sys2Proof.Machine
end

section
/-! PROOFS. The scope: directions that lead nowhere, and the forms that the T slot refuses. -/

namespace Sys2Proof.Machine
open Sys2Proof.Says

/-! ### Directions that lead nowhere (R155) -/

/-- A direction that leads nowhere stays one among more registers. -/
theorem badDir_of_subset {s : State} {rs rs' : List Reg} (h : ∀ r ∈ rs, r ∈ rs') (hb : s.badDir rs = true) : s.badDir rs' = true := by
  by_contra hn
  have hl : leads s rs' := Bool.eq_false_iff.mpr hn
  have hl' : leads s rs := (leads_iff s rs).mpr (fun r hr => (leads_iff s rs').mp hl r (h r hr))
  exact Bool.false_ne_true (hl'.symm.trans hb)

/-- No register names no direction. -/
theorem badDir_nil (s : State) : s.badDir [] = false := by simp [State.badDir, State.dirs]

/-- The fault of a direction that leads nowhere. -/
def dirFault (s : State) : CoreFault := { code := 0x20, row := s.core.pos.row, elem := 0, slot := 1, addr := 0 }

/-- An instruction that runs under the guard of some registers, those that it reads and writes among them. -/
theorem refused_of_vGuard {s : State} {x : Instr} {rs : List Reg} (hx : ∃ act, exec x s = vGuard s rs act)
    (h : s.badDir ((vRegsOf x).1 ++ (vRegsOf x).2) = true) (hr : ∀ r ∈ (vRegsOf x).1 ++ (vRegsOf x).2, r ∈ rs := by simp [vRegsOf, fiveRegs]) :
    ∃ t, exec x s = .next t ∧ faults s t (dirFault s) := by
  obtain ⟨act, hact⟩ := hx
  exact ⟨_, by rw [hact, vGuard, if_pos (badDir_of_subset hr h)]; rfl, raise_faults s (dirFault s)⟩

theorem vLoad_vGuard (s : State) (d : Reg) (reads : List Reg) (c : VCtl) (busy lat z : Nat) (signed : Bool) (addr : Nat → Word) :
    ∃ act, vLoad s d reads c busy lat z signed addr = vGuard s (d :: reads) act := by
  unfold vLoad
  dsimp only
  split
  · exact ⟨_, rfl⟩
  · exact ⟨_, rfl⟩

/-- A random stream under its guard. -/
theorem vrng_refused (s : State) (d : Reg) (c : VCtl) (h : s.badDir [d] = true) :
    ∃ t, exec (.vrng d c) s = .next t ∧ faults s t (dirFault s) := by
  refine ⟨s.raise cSPBOUND 1 0 0, ?_, raise_faults s _⟩
  show execVrng d c s = _
  rw [execVrng, vEach, vGuard, if_pos h]
  exact if_pos h

/-- Each V instruction runs under the guard of the registers that it reads and writes. -/
theorem badDir_refused (s : State) (x : Instr) (h : s.badDir ((vRegsOf x).1 ++ (vRegsOf x).2) = true) :
    ∃ t, exec x s = .next t ∧ faults s t (dirFault s) := by
  cases x with
  | vadd _ _ _ _ | vadds _ _ _ _ | vaddsu _ _ _ _ | vsub _ _ _ _ | vsubs _ _ _ _ | vsubsu _ _ _ _ | vmul _ _ _ _ | vmulh _ _ _ _
  | vmulhu _ _ _ _ | vand _ _ _ _ | vor _ _ _ _ | vxor _ _ _ _ | vandn _ _ _ _ | vshl _ _ _ _ | vshr _ _ _ _ | vsra _ _ _ _
  | vmin _ _ _ _ | vmax _ _ _ _ | vminu _ _ _ _ | vmaxu _ _ _ _ | vfadd _ _ _ _ | vfsub _ _ _ _ | vfmul _ _ _ _ | vfmin _ _ _ _
  | vfmax _ _ _ _ | vcvtfb _ _ _ _ | vperm _ _ _ _ | vshli _ _ _ _ | vshri _ _ _ _ | vsrai _ _ _ _ | vslup _ _ _ _ | vsldn _ _ _ _
  | vcmpr _ _ _ _ | vsegadd _ _ _ _ | vsegfadd _ _ _ _ | vbfpq _ _ _ _ | vcmpeq _ _ _ _ | vcmpne _ _ _ _ | vcmplt _ _ _ _
  | vcmpltu _ _ _ _ | vcmple _ _ _ _ | vcmpleu _ _ _ _ | vfcmpeq _ _ _ _ | vfcmplt _ _ _ _ | vfcmple _ _ _ _ | vfcmpun _ _ _ _
  | vqma _ _ _ _ | vqmai _ _ _ _ | vfma _ _ _ _ | vfnma _ _ _ _ | vdot2 _ _ _ _ | vdot4 _ _ _ _ | vdot4us _ _ _ _ | vsel _ _ _ _ _
  | vfabs _ _ _ | vfneg _ _ _ | vfsqrt _ _ _ | vrcp _ _ _ | vrsq _ _ _ | vexp2 _ _ _ | vlog2 _ _ _ | vfloor _ _ _ | vfceil _ _ _
  | vfrint _ _ _ | vcvtfi _ _ _ | vcvtfit _ _ _ | vcvtif _ _ _ | vcvtbfl _ _ _ | vcvtbfh _ _ _ | vbfpx _ _ _ | vqnarf _ _ _
  | vqnars _ _ _ | vqnarw _ _ _ | vbcst _ _ _ | vqwf _ _ _ | vqwi _ _ _ | vredadd _ _ _ | vredfadd _ _ _ | vredmin _ _ _ | vredmax _ _ _
  | vredfmin _ _ _ | vredfmax _ _ _ | vextr _ _ _ | vruns _ _ _ | viota _ _ | vsortS _ _ _ | vsortF _ _ _ | vsortU _ _ _
  | vt5up _ _ _ | vstW _ _ _ _ | vstH _ _ _ _ | vstB _ _ _ _ | vscat _ _ _ _ => exact refused_of_vGuard ⟨_, rfl⟩ h
  | vldW _ _ _ _ | vldH _ _ _ _ | vldHu _ _ _ _ | vldB _ _ _ _ | vldBu _ _ _ _ | vgath _ _ _ _ =>
    exact refused_of_vGuard (vLoad_vGuard _ _ _ _ _ _ _ _ _) h
  | vins d a el =>
    by_cases hd : s.isDir d = true
    · exact refused_of_vGuard (rs := [d, d]) ⟨_, if_pos hd⟩ h
    · exact refused_of_vGuard (rs := [d]) ⟨_, if_neg hd⟩ h
  | vt5pk d a _ => exact refused_of_vGuard ⟨_, rfl⟩ h (by simp [vRegsOf, fiveRegs, or_comm])
  | vrng d c => exact vrng_refused s d c h
  | _ => exact absurd ((badDir_nil s).symm.trans h) Bool.false_ne_true

/-! ### Refusals at issue (R177, R186, R188 to R190, R267) -/

theorem reaches_iff (s : State) (x n al : Nat) : (x % al == 0 && decide (x + n ≤ s.spEnd s.cur)) = true ↔ reaches s x n al := by
  simp [reaches]

theorem not_reaches {s : State} {x n al : Nat} (h : ¬reaches s x n al) : (x % al == 0 && decide (x + n ≤ s.spEnd s.cur)) = false :=
  Bool.eq_false_iff.mpr (mt (reaches_iff s x n al).mp h)

/-- `SPBOUND` of the T slot. -/
theorem raiseT_faults (s : State) (x : Nat) : faults s (s.raiseT cSPBOUND 0 x) (tFault s x) := raise_faults s _

/-- A shape that is not legal. -/
theorem illegalShape_refused (s : State) (d : Reg3) (a b : Reg) (h : (s.core.shape d).legal = false) :
    ∀ i ∈ [Instr.tld d a b, .tst d a b, .twin d a b], ∃ t, exec i s = .next t ∧ faults s t (tFault s 0) := by
  have hl : (!(s.core.shape d).legal) = true := by rw [h]; rfl
  have hw : (!(s.core.shape d).legal || decide ((s.core.shape d).code = 3)) = true := by rw [hl]; rfl
  simp only [List.forall_mem_cons, List.not_mem_nil, false_implies, implies_true, and_true]
  exact ⟨⟨_, if_pos hl, raiseT_faults s 0⟩, ⟨_, if_pos hl, raiseT_faults s 0⟩, ⟨_, if_pos hw, raiseT_faults s 0⟩⟩

theorem twin_refused_code (s : State) (d : Reg3) (a b : Reg) (h : (s.core.shape d).code = 3) :
    ∃ t, exec (.twin d a b) s = .next t ∧ faults s t (tFault s 0) :=
  ⟨_, if_pos (by rw [decide_eq_true h, Bool.or_true]), raiseT_faults s 0⟩

/-- A shape that a `TWIN` takes. -/
theorem twin_legal {h : Shape} (hl : h.legal = true) (hc : h.code < 3) : (!h.legal || decide (h.code = 3)) = false := by
  rw [hl, decide_eq_false (by omega)]; rfl

theorem spRead_bound (s : State) (slot elem : Nat) {x n al : Nat} (h : ¬reaches s x n al) :
    spRead s slot elem x n al = .stop (s.raise cSPBOUND slot (BitVec.ofNat 64 elem) (BitVec.ofNat 64 x)) := by
  rw [spRead, not_reaches h]; rfl

/-- A part of a load that can be read. -/
theorem spRead_ok (s : State) (slot elem : Nat) {x n al : Nat} (h : reaches s x n al) (hr : readable s x n) :
    ∃ m, spRead s slot elem x n al = .ok { s with fresh := m } (Memory.load s.core.scratch x n) := by
  obtain ⟨hb, hs, -⟩ := hr
  rw [spRead, (reaches_iff s x n al).mpr h, hb, loadNat_settled s n x hs]
  by_cases hp : s.core.passes = []
  · exact ⟨s.fresh, by rw [if_pos hp]; rfl⟩
  · exact ⟨s.fresh + 1, by rw [if_neg hp]; rfl⟩

theorem twin_refused_address (s : State) (d : Reg3) (a b : Reg) (hl : (s.core.shape d).legal = true) (hc : (s.core.shape d).code < 3)
    (h : ¬reaches s (s.core.rdS a).toNat 64 64) : ∃ t, exec (.twin d a b) s = .next t ∧ faults s t (tFault s (s.core.rdS a).toNat) := by
  refine ⟨s.raise cSPBOUND 2 (BitVec.ofNat 64 0) (BitVec.ofNat 64 (s.core.rdS a).toNat), ?_, raise_faults s _⟩
  show execTwin d a b s = _
  rw [execTwin]
  dsimp only
  rw [twin_legal hl hc, spRead_bound s 2 0 h]
  rfl

/-- A field of a number of 64 bytes is the number of its bytes. -/
theorem natBits_load (m : Memory) (x off n : Nat) (h : off + n ≤ 64) : natBits (Memory.load m x 64) (8 * off) (8 * n) = Memory.load m (x + off) n := by
  rw [load_part m x off n (64 - (off + n)), Nat.add_sub_cancel' h, natBits, show (256 : Nat) = 2 ^ 8 by norm_num, ← pow_mul, ← pow_mul]

/-- The limits of a window descriptor, as they are checked. -/
theorem windowOk_iff (s : State) (x z : Nat) : (windowOf (Memory.load s.core.scratch x 64)).ok z = true ↔ winOk s x z := by
  have field := natBits_load s.core.scratch x
  simp only [Window.ok, Bool.and_eq_true, beq_iff_eq, decide_eq_true_eq]
  simp only [-Nat.reduceMul, windowOf, Bool.and_eq_true, beq_iff_eq, winOk, winField]
  rw [field 0x0E 2 (by norm_num), field 0x16 2 (by norm_num), field 0x1E 2 (by norm_num), field 0x24 28 (by norm_num),
    field 0x1A 1 (by norm_num), field 0x1B 1 (by norm_num), field 0x0A 2 (by norm_num), field 0x0C 2 (by norm_num),
    field 0x08 2 (by norm_num), field 0x10 4 (by norm_num)]
  constructor
  · rintro ⟨⟨⟨⟨⟨⟨⟨⟨⟨z1, z2⟩, z3⟩, z4⟩, hsx⟩, hsy⟩, hoh⟩, how⟩, hb⟩, hp⟩
    exact ⟨z1, z2, z3, z4, hsy, hsx, hoh, how, hb, hp⟩
  · rintro ⟨z1, z2, z3, z4, hsy, hsx, hoh, how, hb, hp⟩
    exact ⟨⟨⟨⟨⟨⟨⟨⟨⟨z1, z2⟩, z3⟩, z4⟩, hsx⟩, hsy⟩, hoh⟩, how⟩, hb⟩, hp⟩

theorem twin_refused_window (s : State) (d : Reg3) (a b : Reg) (hl : (s.core.shape d).legal = true) (hc : (s.core.shape d).code < 3)
    (h : reaches s (s.core.rdS a).toNat 64 64) (hr : readable s (s.core.rdS a).toNat 64) (hw : ¬winOk s (s.core.rdS a).toNat (s.core.shape d).z) :
    ∃ t, exec (.twin d a b) s = .next t ∧ faults s t (tFault s 0) := by
  obtain ⟨m, hm⟩ := spRead_ok s 2 0 h hr
  refine ⟨s.raiseT cSPBOUND 0 0, ?_, raiseT_faults s 0⟩
  show execTwin d a b s = _
  rw [execTwin]
  dsimp only
  rw [twin_legal hl hc, hm]
  dsimp only
  rw [Bool.eq_false_iff.mpr (mt (windowOk_iff s _ _).mp hw)]
  rfl

theorem ttrn_refused (s : State) (d e : Reg3) (h : ¬transposes s d e) : ∃ t, exec (.ttrn d e) s = .next t ∧ faults s t (tFault s 0) := by
  refine ⟨s.raiseT cSPBOUND 0 0, ?_, raiseT_faults s 0⟩
  show execTtrn d e s = _
  rw [execTtrn]
  refine if_pos ?_
  rw [Bool.not_eq_true', ← Bool.not_eq_true]
  refine fun hok => h ?_
  simp only [Bool.and_eq_true, Bool.or_eq_true, decide_eq_true_eq] at hok
  obtain ⟨⟨⟨⟨⟨⟨h1, h2⟩, h3⟩, h4⟩, h5⟩, h6⟩, h7⟩ := hok
  exact ⟨h1, h2, h3, h4, h5, h6, h7⟩

theorem rowMoves_refused (s : State) (d : Reg3) (v b : Reg) (h : 64 ≤ (s.core.rdS b).toNat) :
    ∀ i ∈ [Instr.trowv v d b, .tvrow d v b], ∃ t, exec i s = .next t ∧ faults s t (tFault s 0) := by
  simp only [List.forall_mem_cons, List.not_mem_nil, false_implies, implies_true, and_true]
  exact ⟨⟨_, if_pos h, raiseT_faults s 0⟩, ⟨_, if_pos h, raiseT_faults s 0⟩⟩

/-- Each form of `TMMA`. -/
theorem exec_tmmas (s : State) (a : Reg) (d e : Reg3) : ∀ m ∈ tmmas, exec (m.1 a d e) s = tmma s m.2.1 m.2.2 a d e := by
  simp only [tmmas, List.forall_mem_cons, List.not_mem_nil, false_implies, implies_true, and_true]
  exact ⟨rfl, rfl, rfl, rfl, rfl, rfl⟩

/-- A tile fits a kind of `TMMA`, as it is checked. -/
theorem mmaFits_iff (s : State) (kind : Nat) (t : Reg3) : ((s.core.shape t).legal && decide ((s.core.shape t).code = (mmaShape kind).1) &&
    decide ((s.core.shape t).cols = (mmaShape kind).2) && decide (16 ≤ (s.core.shape t).rows)) = true ↔ tmmaFits s kind t := by
  simp only [Bool.and_eq_true, decide_eq_true_eq, tmmaFits, and_assoc]
  match kind with
  | 0 => exact Iff.rfl
  | 1 => exact Iff.rfl
  | _ + 2 => exact Iff.rfl

theorem tmma_refused_shape (s : State) (kind : Nat) (w : Bool) (a : Reg) (d e : Reg3) (h : ¬(tmmaFits s kind d ∧ tmmaFits s kind e)) :
    ∃ t, tmma s kind w a d e = .next t ∧ faults s t (tFault s 0) := by
  refine ⟨s.raiseT cSPBOUND 0 0, ?_, raiseT_faults s 0⟩
  rw [tmma]
  refine if_pos ?_
  rw [Bool.not_eq_true', ← Bool.not_eq_true, Bool.and_eq_true, mmaFits_iff, mmaFits_iff]
  exact h

theorem tmma_refused_address (s : State) (kind : Nat) (w : Bool) (a : Reg) (d e : Reg3) (hd : tmmaFits s kind d) (he : tmmaFits s kind e)
    (h : ¬reaches s (s.core.rdS a).toNat 1024 64) : ∃ t, tmma s kind w a d e = .next t ∧ faults s t (tFault s (s.core.rdS a).toNat) := by
  refine ⟨s.raiseT cSPBOUND 0 (s.core.rdS a).toNat, ?_, raiseT_faults s _⟩
  rw [tmma]
  refine (if_neg ?_).trans (if_pos ?_)
  · rw [Bool.not_eq_true', Bool.not_eq_false, Bool.and_eq_true, mmaFits_iff, mmaFits_iff]
    exact ⟨hd, he⟩
  · rw [not_reaches h]; rfl

/-- A `PMAT` that keeps a set from an instruction, as it is checked. -/
theorem setBusy_iff (s : State) (parked : Bool) : setBusy s parked = true ↔ ¬setFree s parked := by
  simp only [setBusy, setFree, Pass.boundTo, List.any_eq_true, Bool.and_eq_true, Bool.or_eq_true, decide_eq_true_eq, not_forall]
  constructor
  · rintro ⟨e, he, ⟨hk, hset⟩, hst⟩
    refine ⟨e, he, hk, hset, ?_⟩
    rintro (hi | ⟨hp, hn⟩)
    · simp [hi] at hst
    · simp [hp, hn] at hst
  · rintro ⟨e, he, hk, hset, hst⟩
    refine ⟨e, he, ⟨hk, hset⟩, ?_⟩
    cases h : e.2.st with
    | idle => exact absurd (.inl h) hst
    | riding => exact .inl (.inl rfl)
    | closing => exact .inl (.inr rfl)
    | parked => exact .inr ⟨Bool.of_not_eq_false (fun hp => hst (.inr ⟨h, hp⟩)), rfl⟩

theorem sets_refused_address (s : State) (a : Reg) (h : ¬reaches s (s.core.rdS a).toNat 8192 64) :
    ∀ i ∈ [Instr.xsave a, .xload a], ∃ t, exec i s = .next t ∧ faults s t (tFault s (s.core.rdS a).toNat) := by
  have hn : (!((s.core.rdS a).toNat % 64 == 0 && decide ((s.core.rdS a).toNat + 8192 ≤ s.spEnd s.cur))) = true := by rw [not_reaches h]; rfl
  simp only [List.forall_mem_cons, List.not_mem_nil, false_implies, implies_true, and_true]
  exact ⟨⟨_, if_pos hn, raiseT_faults s _⟩, ⟨_, if_pos hn, raiseT_faults s _⟩⟩

theorem xsave_refused_busy (s : State) (a : Reg) (h : reaches s (s.core.rdS a).toNat 8192 64) (hb : ¬setFree s false) :
    ∃ t, exec (.xsave a) s = .next t ∧ faults s t (tFault s 0) := by
  refine ⟨s.raiseT cSPBOUND 0 0, ?_, raiseT_faults s 0⟩
  show execXsave a s = _
  rw [execXsave]
  dsimp only
  rw [(reaches_iff s _ _ _).mpr h, (setBusy_iff s _).mpr hb]
  rfl

theorem xload_refused_busy (s : State) (a : Reg) (h : reaches s (s.core.rdS a).toNat 8192 64) (hb : ¬setFree s (!s.sup)) :
    ∃ t, exec (.xload a) s = .next t ∧ faults s t (tFault s 0) := by
  refine ⟨s.raiseT cSPBOUND 0 0, ?_, raiseT_faults s 0⟩
  show execXload a s = _
  rw [execXload]
  dsimp only
  rw [(reaches_iff s _ _ _).mpr h, (setBusy_iff s _).mpr hb]
  rfl

/-- A supervisor instruction in user mode. -/
theorem supervisor_refused (s : State) (g : Guard) (q a b : Reg) (o : PassOp) (h : s.sup = false) :
    ∀ i ∈ supervisorForms g q a b o, exec i s = .fault .illegalRow := by
  have hsup : ∀ t, supOnly s t = .fault .illegalRow := fun t => by rw [supOnly, h]; rfl
  simp only [supervisorForms, List.forall_mem_cons, List.not_mem_nil, false_implies, implies_true, and_true]
  exact ⟨hsup _, hsup _, hsup _, hsup _, hsup _, hsup _, hsup _, hsup _, hsup _⟩

end Sys2Proof.Machine
end

section
/-! PROOFS. The scope: `TLD` and `TST` up to the first row that is not aligned or not in range. -/

namespace Sys2Proof.Machine
open Sys2Proof.Says

/-! ### The race detector without conflicts (R313) -/

/-- The race detector looks at the shadows and what the core has observed. -/
theorem conflictAt_congr {c c' : Core} (hs : c'.shadows = c.shadows) (hl : c'.lcore = c.lcore) (ho : c'.observed = c.observed) (kind : Access) :
    ∀ n lo : Nat, conflictAt c' kind lo n = conflictAt c kind lo n := by
  intro n
  induction n with
  | zero => intro lo; rfl
  | succ n ih => intro lo; rw [conflictAt, conflictAt, hs, hl, ho, ih]

/-- Areas none of which conflicts. -/
theorem conflictIn_none (c : Core) (kind : Access) : ∀ areas : List (Nat × Nat),
    (∀ r ∈ areas, conflictAt c kind (r.1 / 64) (sectors r.1 r.2) = none) → conflictIn c kind areas = none := by
  intro areas
  induction areas with
  | nil => intro _; rfl
  | cons r rs ih =>
    intro h
    obtain ⟨hr, hrs⟩ := List.forall_mem_cons.mp h
    rw [conflictIn, List.foldl_cons, hr]
    exact ih hrs

theorem touchAll_load_quiet (s : State) (slot : Nat) (areas : List (Nat × Nat)) (h : ∀ r ∈ areas, quiet s .load r.1 r.2) :
    s.touchAll .load slot areas = s := by
  rw [State.touchAll, State.touchAllAt, conflictIn_none s.core .load areas h]; rfl

theorem foldl_shadowOwn_eq (kind : Access) : ∀ (areas : List (Nat × Nat)) (c : Core),
    areas.foldl (fun c r => shadowOwn c kind (r.1 / 64) (sectors r.1 r.2)) c =
      { c with shadows := (areas.foldl (fun c r => shadowOwn c kind (r.1 / 64) (sectors r.1 r.2)) c).shadows } := by
  intro areas
  induction areas with
  | nil => intro c; rfl
  | cons r rs ih => intro c; rw [List.foldl_cons, ih, shadowOwn_eq]

/-- What the race detector notes of a store to some areas in an interval. -/
def Core.noteStore (interval : Word) (areas : List (Nat × Nat)) (c : Core) : Core :=
  { areas.foldl (fun c r => shadowOwn c .store (r.1 / 64) (sectors r.1 r.2)) { c with interval := interval } with interval := c.interval }

theorem noteStore_eq (interval : Word) (areas : List (Nat × Nat)) (c : Core) :
    c.noteStore interval areas = { c with shadows := (c.noteStore interval areas).shadows } := by
  rw [Core.noteStore, foldl_shadowOwn_eq]

theorem core_touchAll_store_quiet (s : State) (slot : Nat) (areas : List (Nat × Nat)) (h : ∀ r ∈ areas, quiet s .store r.1 r.2) :
    (s.touchAll .store slot areas).core = s.core.noteStore s.core.interval areas := by
  have ht : s.touchAll .store slot areas = s.onCoreAt s.cur (Core.noteStore s.core.interval areas) := by
    rw [State.touchAll, State.touchAllAt, conflictIn_none s.core .store areas h]; rfl
  rw [ht]
  exact State.coreAt_onCoreAt_same s s.cur _

/-! ### Loads of rows -/

/-- A core of which only rows of a tile below some row have changed. -/
def Core.rowsBelow (c c' : Core) (d : Reg3) (r : Nat) : Prop :=
  c' = { c with regs := { c.regs with t := c'.regs.t, texp := c'.regs.texp }, badTile := c'.badTile } ∧
    (∀ b ∈ c'.badTile, b ∈ c.badTile) ∧
    (∀ y, ¬(8192 * d.toNat ≤ y ∧ y < 8192 * d.toNat + 128 * r) → SMap.get 0 c'.regs.t y = SMap.get 0 c.regs.t y) ∧
    ∀ y, ¬(64 * d.toNat ≤ y ∧ y < 64 * d.toNat + r) → SMap.get 0 c'.regs.texp y = SMap.get 0 c.regs.texp y

theorem rowsBelow_refl (c : Core) (d : Reg3) (r : Nat) : c.rowsBelow c d r := ⟨rfl, fun _ h => h, fun _ _ => rfl, fun _ _ => rfl⟩

theorem rowsBelow_wrTileRow {c c' : Core} {d : Reg3} {r : Nat} (bs : List Byte) (hl : bs.length ≤ 128) (h : c.rowsBelow c' d r) :
    c.rowsBelow (c'.wrTileRow d r bs) d (r + 1) := by
  obtain ⟨hc, hb, ht, he⟩ := h
  refine ⟨?_, fun b hm => hb b (List.mem_of_mem_filter hm), fun y hy => ?_, fun y hy => he y (by omega)⟩
  · rw [hc]; rfl
  · have hlen : (bs ++ List.replicate (128 - bs.length) (0 : Byte)).length = 128 := by simp; omega
    show SMap.get 0 (SMap.setList 0 c'.regs.t _ _) y = _
    rw [SMap.get_setList_eq, if_neg (by rw [hlen]; omega), ht y (by omega)]

theorem rowsBelow_wrTileExp {c c' : Core} {d : Reg3} {r : Nat} (e : Byte) (h : c.rowsBelow c' d r) (r' : Nat) (hr : r' < r) :
    c.rowsBelow (c'.wrTileExp d r' e) d r := by
  obtain ⟨hc, hb, ht, he⟩ := h
  refine ⟨?_, hb, ht, fun y hy => ?_⟩
  · rw [hc]; rfl
  · show SMap.get 0 (SMap.set 0 c'.regs.texp _ _) y = _
    rw [SMap.get_set_other _ _ _ _ _ (by omega), he y hy]

/-- What `TLD` writes of a row: its exponent where it changes, and the row. -/
def Core.loadRow (c : Core) (d : Reg3) (r : Nat) (x : Option Byte × List Byte × Flags) : Core :=
  (match x.1 with | none => c | some e => c.wrTileExp d r e).wrTileRow d r x.2.1

theorem rowsBelow_loadRow {c c' : Core} {d : Reg3} {r : Nat} (x : Option Byte × List Byte × Flags) (hl : x.2.1.length ≤ 128)
    (h : c.rowsBelow c' d r) :
    c.rowsBelow (c'.loadRow d r x) d (r + 1) := by
  rw [Core.loadRow]
  cases x.1 with
  | none => exact rowsBelow_wrTileRow _ hl h
  | some e => exact rowsBelow_wrTileExp e (rowsBelow_wrTileRow x.2.1 hl h) r (Nat.lt_succ_self r)

/-- A legal shape has rows of up to 128 bytes. -/
theorem length_tileRowOf {h : Shape} (hl : h.legal = true) (bs : List Byte) (hb : bs.length = h.u) : (tileRowOf h bs).2.1.length ≤ 128 := by
  simp only [Shape.legal, Bool.and_eq_true, decide_eq_true_eq] at hl
  have hz : 1 ≤ h.z := by
    rw [Shape.z]
    split <;> norm_num
  have hcols : h.cols ≤ 128 := by nlinarith [hl.1]
  unfold tileRowOf
  split
  · next hc =>
    have hu : h.u = h.cols * h.z := by rw [Shape.u, if_neg (by omega)]
    show bs.length ≤ 128
    rw [hb, hu]
    omega
  · dsimp only
    split
    · exact Nat.zero_le _
    · rw [List.length_take]; omega

/-- The end of the scratchpad of the core in hand. -/
theorem spEnd_congr {s u : State} (hcur : u.cur = s.cur) (hlen : u.core.scratchLen = s.core.scratchLen) : u.spEnd u.cur = s.spEnd s.cur := by
  have h : (u.coreAt u.cur).scratchLen = (s.coreAt s.cur).scratchLen := hlen
  rw [State.spEnd, State.spEnd, h, hcur]

theorem reaches_congr {s u : State} (hcur : u.cur = s.cur) (hlen : u.core.scratchLen = s.core.scratchLen) (x n al : Nat) :
    reaches u x n al ↔ reaches s x n al := by rw [reaches, reaches, spEnd_congr hcur hlen]

theorem rowsBelow_readable {s u : State} {d : Reg3} {r x n : Nat} (h : s.core.rowsBelow u.core d r) (hr : readable s x n) : readable u x n := by
  obtain ⟨hb, hs, hq⟩ := hr
  obtain ⟨hc, -, -, -⟩ := h
  refine ⟨?_, fun a h1 h2 => ?_, ?_⟩
  · rw [hc]; exact hb
  · rw [hc]; exact hs a h1 h2
  · exact (conflictAt_congr (by rw [hc]) (by rw [hc]) (by rw [hc]) .load _ _).trans hq

theorem tileExpBad_of_sound {s : State} {c : Core} {t : Reg3} {j : Nat} (hb : ∀ b ∈ c.badTile, b ∈ s.core.badTile) (h : expSound s t j) :
    c.tileExpBad t j = false := by
  rw [Core.tileExpBad, ← Bool.not_eq_true, List.contains_iff_mem]
  exact fun hm => h (by rw [Nat.mul_comm 8]; exact hb _ hm)

/-- Rows are loaded up to the first whose bytes are not aligned or not in range. -/
theorem loadRows_stops (s : State) (d : Reg3) (h : Shape) (addr : Nat → Nat) (r : Nat) (hl : h.legal = true)
    (hgood : ∀ j, j < r → reaches s (addr j) h.u h.align ∧ readable s (addr j) h.u ∧ (h.code = 3 → expSound s d j))
    (hr : ¬reaches s (addr r) h.u h.align) : ∀ (n m : Nat) (u : State), m ≤ r → r < m + n → u.cur = s.cur → s.core.rowsBelow u.core d m →
      ∃ (v : State) (fl : Flags) (l : List (Nat × LoadPart)), loadRows d h addr n m u = (v.raise cSPBOUND 2 (BitVec.ofNat 64 r) (BitVec.ofNat 64 (addr r)), r, fl, l) ∧
        v.cur = s.cur ∧ s.core.rowsBelow v.core d r ∧ ∀ a ∈ partAreas l, ∃ j, j < r ∧ a = (addr j, h.u) := by
  intro n
  induction n with
  | zero => intro m u h1 h2; omega
  | succ n ih =>
    intro m u h1 h2 hcur hrel
    have hlen : u.core.scratchLen = s.core.scratchLen := by rw [hrel.1]
    by_cases hm : m = r
    · subst hm
      refine ⟨u, 0, [], ?_, hcur, hrel, fun a ha => absurd ha List.not_mem_nil⟩
      rw [loadRows, spRead_bound u 2 m (mt (reaches_congr hcur hlen _ _ _).mp hr)]
    · obtain ⟨hreach, hread, hexp⟩ := hgood m (by omega)
      obtain ⟨k, hk⟩ := spRead_ok u 2 m ((reaches_congr hcur hlen _ _ _).mpr hreach) (rowsBelow_readable hrel hread)
      have hnobad : ¬(h.code = 3 ∧ u.core.tileExpBad d m = true) := by
        rintro ⟨hc, hb⟩
        rw [tileExpBad_of_sound hrel.2.1 (hexp hc)] at hb
        exact Bool.false_ne_true hb
      have hbytes : (leBytes h.u (Memory.load u.core.scratch (addr m) h.u)).length = h.u := length_leBytes _ _
      generalize hx : tileRowOf h (leBytes h.u (Memory.load u.core.scratch (addr m) h.u)) = x
      have hxlen : x.2.1.length ≤ 128 := by rw [← hx]; exact length_tileRowOf hl _ hbytes
      obtain ⟨v, fl, l, hv, hvcur, hvrel, hareas⟩ := ih (m + 1)
        (({ u with fresh := k } : State).onCore (fun c => c.loadRow d m x))
        (by omega) (by omega) hcur (by rw [State.core_onCore]; exact rowsBelow_loadRow x hxlen hrel)
      refine ⟨v, x.2.2 ||| fl, (m, ⟨addr m, leBytes h.u (Memory.load u.core.scratch (addr m) h.u), .tile (d.toNat * 64 + m) h.code h.cols h.wm2⟩) :: l,
        ?_, hvcur, hvrel, ?_⟩
      · rw [loadRows, hk]
        dsimp only
        rw [if_neg hnobad, hx]
        exact congrArg (fun q : State × Nat × Flags × List (Nat × LoadPart) => (q.1, q.2.1, x.2.2 ||| q.2.2.1, _ :: q.2.2.2)) hv
      · refine List.forall_mem_cons.mpr ⟨⟨m, by omega, ?_⟩, hareas⟩
        exact congrArg (Prod.mk (addr m)) hbytes

/-- A byte of a row, from the register file. -/
theorem getD_getList {α : Type} (d e : α) (m : SMap α) : ∀ (n k i : Nat), i < n → (SMap.getList d m k n).getD i e = SMap.get d m (k + i) := by
  intro n
  induction n with
  | zero => intro k i h; omega
  | succ n ih =>
    intro k i h
    cases i with
    | zero => rfl
    | succ i =>
      rw [SMap.getList, List.getD_cons_succ, ih (k + 1) i (by omega)]
      congr 1
      omega

theorem laterT_eq (s : State) (q : Reg3) (k i : Nat) (hi : i < 128) : laterT s q k i = SMap.get 0 s.core.regs.t (q.toNat * 8192 + 128 * k + i) :=
  getD_getList 0 0 _ 128 _ i hi

/-- Rows whose places are kept are read as before. -/
theorem later_of_kept {s t : State} {d : Reg3} {r : Nat} (hr : r ≤ 64)
    (ht : ∀ y, ¬(8192 * d.toNat ≤ y ∧ y < 8192 * d.toNat + 128 * r) → SMap.get 0 t.core.regs.t y = SMap.get 0 s.core.regs.t y)
    (he : ∀ y, ¬(64 * d.toNat ≤ y ∧ y < 64 * d.toNat + r) → SMap.get 0 t.core.regs.texp y = SMap.get 0 s.core.regs.texp y)
    (q : Reg3) (k i : Nat) (hk : k < 64) (hi : i < 128) (hq : q ≠ d ∨ r ≤ k) : laterT t q k i = laterT s q k i ∧ laterE t q k = laterE s q k := by
  have hplace : q.toNat ≠ d.toNat ∨ r ≤ k := hq.imp_left (fun hn he => hn (BitVec.eq_of_toNat_eq he))
  constructor
  · rw [laterT_eq t q k i hi, laterT_eq s q k i hi]
    exact ht _ (by omega)
  · exact he (q.toNat * 64 + k) (by omega)

theorem shape_rows (s : State) (d : Reg3) : (s.core.shape d).rows ≤ 64 := by
  have h := ((SMap.get 0x21F3F#23 s.core.src.tshape d.toNat).extractLsb' 0 6).isLt
  have hr : (s.core.shape d).rows = ((SMap.get 0x21F3F#23 s.core.src.tshape d.toNat).extractLsb' 0 6).toNat + 1 := rfl
  omega

/-- The first fault of a row, which names its row. -/
theorem core_raise_row {s v : State} (r x : Nat) (hf : v.core.fault = none) (hpos : v.core.pos = s.core.pos) :
    ∃ w h, v.raise cSPBOUND 2 (BitVec.ofNat 64 r) (BitVec.ofNat 64 x) = w ∧
      w.core = { v.core with fault := some { tFault s x with elem := BitVec.ofNat 64 r }, halt := h } := by
  let f : CoreFault := ⟨cSPBOUND, v.core.pos.row, BitVec.ofNat 64 r, 2, BitVec.ofNat 64 x⟩
  obtain ⟨hc, -, hfault, -, -, -, hcur, -⟩ := raise_faults v f
  have hcore : (v.raiseAt v.cur f).core = (v.raiseAt v.cur f).coreAt v.cur := congrArg (v.raiseAt v.cur f).coreAt hcur
  have hrow : f = { tFault s x with elem := BitVec.ofNat 64 r } := by rw [tFault, ← hpos]; rfl
  rw [hf, hcore] at hfault
  exact ⟨v.raiseAt v.cur f, _, rfl, hcore.trans ((hc v.cur).trans (by rw [hfault, hrow]; rfl))⟩

/-- `TLD` stops at the first row that is not aligned or not in range, and writes no row from it on. -/
theorem tld_stops (s : State) (d : Reg3) (a b : Reg) (hl : (s.core.shape d).legal = true) (hfault : s.core.fault = none) (r : Nat)
    (hr : r < (s.core.shape d).rows) (hstop : ¬reaches s (rowAddr s a b (s.core.shape d).u r) (s.core.shape d).u (s.core.shape d).align)
    (hgood : ∀ j, j < r → reaches s (rowAddr s a b (s.core.shape d).u j) (s.core.shape d).u (s.core.shape d).align ∧
      readable s (rowAddr s a b (s.core.shape d).u j) (s.core.shape d).u ∧ ((s.core.shape d).code = 3 → expSound s d j)) :
    ∃ t, exec (.tld d a b) s = .next t ∧
      t.core.fault = some { tFault s (rowAddr s a b (s.core.shape d).u r) with elem := BitVec.ofNat 64 r } ∧ t.core.scratch = s.core.scratch ∧
      ∀ q k i, k < 64 → i < 128 → q ≠ d ∨ r ≤ k → laterT t q k i = laterT s q k i ∧ laterE t q k = laterE s q k := by
  have hrows := shape_rows s d
  have haddr : ∀ j, rowAddr s a b (s.core.shape d).u j = tileAddr s a b (s.core.shape d).u j := fun _ => rfl
  simp only [haddr] at hstop hgood ⊢
  generalize hh : s.core.shape d = h at *
  obtain ⟨v, fl, l, hv, hcur, hrel, hareas⟩ := loadRows_stops s d h (tileAddr s a b h.u) r hl hgood hstop h.rows 0 s (Nat.zero_le r) (by omega) rfl
    (rowsBelow_refl s.core d 0)
  obtain ⟨hc, -, ht, he⟩ := hrel
  have hvf : v.core.fault = none := by rw [hc]; exact hfault
  have hpos : v.core.pos = s.core.pos := by rw [hc]
  obtain ⟨w, hlt, hraise, hw⟩ := core_raise_row r (tileAddr s a b h.u r) hvf hpos
  rw [hraise] at hv
  have hquiet : ∀ x ∈ partAreas l, quiet w .load x.1 x.2 := fun x hx => by
    obtain ⟨j, hj, rfl⟩ := hareas x hx
    obtain ⟨-, ⟨-, -, hq⟩, -⟩ := hgood j hj
    exact (conflictAt_congr (by rw [hw, hc]) (by rw [hw, hc]) (by rw [hw, hc]) .load _ _).trans hq
  refine ⟨w.tEnd (tBusy (h.rows * h.u) + 4) fl none, ?_, ?_⟩
  · show execTld d a b s = _
    rw [execTld]
    dsimp only
    rw [hh, hl, hv]
    dsimp only
    rw [touchAll_load_quiet w 2 _ hquiet, if_pos hr]
    rfl
  · have hcore : (w.tEnd (tBusy (h.rows * h.u) + 4) fl none).core = { w.core.addFlags (tBusy (h.rows * h.u) + 4) fl with tfly := none } :=
      State.core_onCore _ _
    rw [Core.addFlags_eq, hw] at hcore
    refine ⟨?_, ?_, later_of_kept (by omega) (fun y hy => ?_) (fun y hy => ?_)⟩
    · rw [hcore]
    · rw [hcore, hc]
    · rw [hcore]; exact ht y hy
    · rw [hcore]; exact he y hy

/-! ### Stores of rows -/

/-- A core of which only bytes of some rows below a row have been written. -/
def Core.bytesBelow (c c' : Core) (addr : Nat → Nat) (u r : Nat) : Prop :=
  c' = { c with scratch := c'.scratch, badScratch := c'.badScratch, passes := c'.passes } ∧ (∀ b ∈ c'.badScratch, b ∈ c.badScratch) ∧
    ∀ z, (∀ j, j < r → ¬(addr j ≤ z ∧ z < addr j + u)) → Memory.byte c'.scratch z = Memory.byte c.scratch z

theorem bytesBelow_refl (c : Core) (addr : Nat → Nat) (u r : Nat) : c.bytesBelow c addr u r := ⟨rfl, fun _ h => h, fun _ _ => rfl⟩

theorem bytesBelow_putBytes {c c' : Core} {addr : Nat → Nat} {u r : Nat} (f : Nat) (bs : List Byte) (hl : bs.length = u)
    (h : c.bytesBelow c' addr u r) : c.bytesBelow (c'.putBytes f (addr r) bs) addr u (r + 1) := by
  obtain ⟨hc, hb, hz⟩ := h
  refine ⟨?_, fun b hm => hb b (List.mem_of_mem_filter hm), fun z hn => ?_⟩
  · rw [hc]; rfl
  · show Memory.byte (Memory.setBytes c'.scratch (addr r) bs) z = _
    rw [Memory.byte_setBytes, hl, if_neg (hn r (Nat.lt_succ_self r)), hz z (fun j hj => hn j (by omega))]

/-- A write that finds no partial error finds none where errors have been cleared. -/
theorem badPartly_of_subset {l l' : List Nat} {x n : Nat} (hs : ∀ b ∈ l', b ∈ l) (h : badPartly l x n = false) : badPartly l' x n = false := by
  rw [badPartly, List.any_eq_false] at h ⊢
  exact fun b hb => h b (hs b hb)

theorem length_tileRow (c : Core) (t : Reg3) (r n : Nat) : (c.tileRow t r n).length = n := by
  have hlen : ∀ (n k : Nat) (m : SMap Byte), (SMap.getList 0 m k n).length = n := by
    intro n
    induction n with
    | zero => intro k m; rfl
    | succ n ih => intro k m; rw [SMap.getList, List.length_cons, ih]
  exact hlen n _ _

/-- A row is stored in its natural size. -/
theorem length_tileBytes (c : Core) (t : Reg3) (h : Shape) (r : Nat) (hc : h.code ≤ 3) : (tileBytes c t h r).length = h.u := by
  unfold tileBytes
  by_cases h3 : h.code < 3
  · rw [if_pos h3, length_tileRow]
  · rw [if_neg h3, List.length_append, List.length_append, length_leBytes, length_tileRow, List.length_replicate, Shape.u, if_pos (by omega)]
    omega

theorem tstBad_of_sound {s : State} {c : Core} {t : Reg3} {h : Shape} {j : Nat} (hb : c.badTile = s.core.badTile)
    (hr : rowSound s t j (if h.code = 3 then h.cols else h.u)) (he : h.code = 3 → expSound s t j) : c.tstBad t h j = false := by
  rw [Core.tstBad, Bool.or_eq_false_iff, Bool.and_eq_false_iff]
  constructor
  · rw [Core.tileRowBad, hb, List.any_eq_false]
    intro u hu hbad
    simp only [Bool.and_eq_true, beq_iff_eq, decide_eq_true_eq] at hbad
    exact hr u hu ⟨by omega, by omega⟩
  · by_cases h3 : h.code = 3
    · exact .inr (tileExpBad_of_sound (s := s) (fun b hm => by rw [← hb]; exact hm) (he h3))
    · exact .inl (decide_eq_false h3)

theorem core_putAt (s : State) (x : Nat) (bs : List Byte) : (s.putAt s.cur x bs).cur = s.cur ∧ (s.putAt s.cur x bs).core = s.core.putBytes s.fresh x bs := by
  have hcur : (s.putAt s.cur x bs).cur = s.cur := by
    rw [State.putAt]
    split <;> rfl
  refine ⟨hcur, ?_⟩
  rw [State.core, hcur]
  exact coreAt_putAt s s.cur x bs

/-- Rows are stored up to the first whose bytes are not aligned or not in range. -/
theorem storeRows_stops (s : State) (d : Reg3) (h : Shape) (addr : Nat → Nat) (r : Nat) (hcode : h.code ≤ 3) (hu : 0 < h.u)
    (hgood : ∀ j, j < r → reaches s (addr j) h.u h.align ∧ badPartly s.core.badScratch (addr j) h.u = false ∧ quiet s .store (addr j) h.u ∧
      rowSound s d j (if h.code = 3 then h.cols else h.u) ∧ (h.code = 3 → expSound s d j))
    (hr : ¬reaches s (addr r) h.u h.align) : ∀ (n m : Nat) (u : State), m ≤ r → r < m + n → u.cur = s.cur → s.core.bytesBelow u.core addr h.u m →
      ∃ (v : State) (l : RowStores), storeRows d h addr n m u = (v.raise cSPBOUND 2 (BitVec.ofNat 64 r) (BitVec.ofNat 64 (addr r)), r, l) ∧
        v.cur = s.cur ∧ s.core.bytesBelow v.core addr h.u r ∧ ∀ a ∈ RowStores.areas l, ∃ j, j < r ∧ a = (addr j, h.u) := by
  intro n
  induction n with
  | zero => intro m u h1 h2; omega
  | succ n ih =>
    intro m u h1 h2 hcur hrel
    obtain ⟨hc, hb, -⟩ := id hrel
    have hlen : u.core.scratchLen = s.core.scratchLen := by rw [hc]
    have hbytes : (tileBytes u.core d h m).length = h.u := length_tileBytes u.core d h m hcode
    rw [storeRows]
    dsimp only
    by_cases hm : m = r
    · subst hm
      have hno := not_reaches (mt (reaches_congr hcur hlen _ _ _).mp hr)
      refine ⟨u, [], ?_, hcur, hrel, fun a ha => absurd ha List.not_mem_nil⟩
      rw [hbytes, hno, if_neg (by simp), spWrite, hbytes, hno]
      rfl
    · obtain ⟨hreach, hpart, hquiet, hrow, hexp⟩ := hgood m (by omega)
      have hyes := (reaches_iff u _ _ _).mpr ((reaches_congr hcur hlen _ _ _).mpr hreach)
      have hsound : u.core.tstBad d h m = false := tstBad_of_sound (by rw [hc]) hrow hexp
      obtain ⟨hpcur, hpcore⟩ := core_putAt u (addr m) (tileBytes u.core d h m)
      obtain ⟨v, l, hv, hvcur, hvrel, hareas⟩ := ih (m + 1) (u.putAt u.cur (addr m) (tileBytes u.core d h m)) (by omega) (by omega)
        (hpcur.trans hcur) (by rw [hpcore]; exact bytesBelow_putBytes _ _ hbytes hrel)
      refine ⟨v, storedAt u.core m (addr m) (tileBytes u.core d h m) :: l, ?_, hvcur, hvrel, ?_⟩
      · rw [hbytes, hyes, hsound, if_neg (by simp), spWrite, hbytes, hyes, badPartly_of_subset hb hpart]
        exact congrArg (fun q : State × Nat × RowStores => (q.1, q.2.1, _ :: q.2.2)) hv
      · refine List.forall_mem_cons.mpr ⟨⟨m, by omega, ?_⟩, hareas⟩
        obtain ⟨k, hk⟩ := Nat.exists_eq_succ_of_ne_zero (Nat.pos_iff_ne_zero.mp hu)
        show (((List.range (tileBytes u.core d h m).length).map _).headD (0, 0, 0) |>.1, ((List.range (tileBytes u.core d h m).length).map _).length) = _
        rw [hbytes, List.length_map, List.length_range, hk, List.range_succ_eq_map]
        rfl

theorem shape_code (s : State) (d : Reg3) : (s.core.shape d).code ≤ 3 ∧ 1 ≤ (s.core.shape d).cols := by
  have h := ((SMap.get 0x21F3F#23 s.core.src.tshape d.toNat).extractLsb' 16 2).isLt
  have hc : (s.core.shape d).code = ((SMap.get 0x21F3F#23 s.core.src.tshape d.toNat).extractLsb' 16 2).toNat := rfl
  have hn : (s.core.shape d).cols = ((SMap.get 0x21F3F#23 s.core.src.tshape d.toNat).extractLsb' 8 7).toNat + 1 := rfl
  omega

theorem Shape.u_pos {h : Shape} (hc : 1 ≤ h.cols) : 0 < h.u := by
  have hz : 0 < h.z := by
    rw [Shape.z]
    split <;> norm_num
  rw [Shape.u]
  split
  · omega
  · exact Nat.mul_pos hc hz

/-- `TST` stops at the first row that is not aligned or not in range, and stores no row from it on. -/
theorem tst_stops (s : State) (d : Reg3) (a b : Reg) (hl : (s.core.shape d).legal = true) (hfault : s.core.fault = none) (r : Nat)
    (hr : r < (s.core.shape d).rows) (hstop : ¬reaches s (rowAddr s a b (s.core.shape d).u r) (s.core.shape d).u (s.core.shape d).align)
    (hgood : ∀ j, j < r → reaches s (rowAddr s a b (s.core.shape d).u j) (s.core.shape d).u (s.core.shape d).align ∧
      badPartly s.core.badScratch (rowAddr s a b (s.core.shape d).u j) (s.core.shape d).u = false ∧
      quiet s .store (rowAddr s a b (s.core.shape d).u j) (s.core.shape d).u ∧
      rowSound s d j (if (s.core.shape d).code = 3 then (s.core.shape d).cols else (s.core.shape d).u) ∧
      ((s.core.shape d).code = 3 → expSound s d j)) :
    ∃ t, exec (.tst d a b) s = .next t ∧
      t.core.fault = some { tFault s (rowAddr s a b (s.core.shape d).u r) with elem := BitVec.ofNat 64 r } ∧
      ∀ z, (∀ j, j < r → ¬(rowAddr s a b (s.core.shape d).u j ≤ z ∧ z < rowAddr s a b (s.core.shape d).u j + (s.core.shape d).u)) →
        sp t z = sp s z := by
  have haddr : ∀ j, rowAddr s a b (s.core.shape d).u j = tileAddr s a b (s.core.shape d).u j := fun _ => rfl
  obtain ⟨hcode, hcols⟩ := shape_code s d
  simp only [haddr] at hstop hgood ⊢
  generalize hh : s.core.shape d = h at *
  obtain ⟨v, l, hv, hcur, ⟨hc, -, hz⟩, hareas⟩ := storeRows_stops s d h (tileAddr s a b h.u) r hcode (Shape.u_pos hcols) hgood hstop h.rows 0 s
    (Nat.zero_le r) (by omega) rfl (bytesBelow_refl s.core _ _ 0)
  have hvf : v.core.fault = none := by rw [hc]; exact hfault
  have hpos : v.core.pos = s.core.pos := by rw [hc]
  obtain ⟨w, hlt, hraise, hw⟩ := core_raise_row r (tileAddr s a b h.u r) hvf hpos
  rw [hraise] at hv
  have hquiet : ∀ x ∈ RowStores.areas l, quiet w .store x.1 x.2 := fun x hx => by
    obtain ⟨j, hj, rfl⟩ := hareas x hx
    obtain ⟨-, -, hq, -, -⟩ := hgood j hj
    exact (conflictAt_congr (by rw [hw, hc]) (by rw [hw, hc]) (by rw [hw, hc]) .store _ _).trans hq
  have hcore : ((w.touchAll .store 2 (RowStores.areas l)).tEnd 0 0 none).core =
      { w.core.noteStore w.core.interval (RowStores.areas l) with tfly := none } := by
    rw [State.tEnd, State.core_onCore, core_touchAll_store_quiet w 2 _ hquiet]
    rfl
  refine ⟨(w.touchAll .store 2 (RowStores.areas l)).tEnd 0 0 none, ?_, ?_, fun z hn => ?_⟩
  · show execTst d a b s = _
    rw [execTst]
    dsimp only
    rw [hh, hl, hv]
    dsimp only
    rw [if_pos hr]
    rfl
  · rw [hcore, noteStore_eq, hw]
  · rw [sp, hcore, noteStore_eq, hw]
    exact hz z hn

/-- Settles O35: each form is refused at issue by its own checks, a V instruction by the guard of its registers (`badDir_refused`), and `TLD` and `TST`
go up to the first row that cannot be reached (`tld_stops`, `tst_stops`). -/
theorem refusedForms : Obligations.RefusedForms := by
  intro s g d e q v a b o x
  refine ⟨badDir_refused s x, illegalShape_refused s d a b, fun hl hf r hr hstop => ⟨tld_stops s d a b hl hf r hr hstop, tst_stops s d a b hl hf r hr hstop⟩,
    fun _ hc => twin_refused_code s d a b hc, twin_refused_address s d a b, twin_refused_window s d a b, ttrn_refused s d e,
    rowMoves_refused s d v b, fun m hm h => ?_, fun m hm hd he h => ?_, sets_refused_address s a, xsave_refused_busy s a, fun hb => ⟨?_, ?_⟩,
    supervisor_refused s g q v a o⟩
  · rw [exec_tmmas s a d e m hm]
    exact tmma_refused_shape s _ _ a d e h
  · rw [exec_tmmas s a d e m hm]
    exact tmma_refused_address s _ _ a d e hd he h
  · exact ⟨s.raiseT cSPBOUND 0 0, if_pos ((setBusy_iff s _).mpr hb), raiseT_faults s 0⟩
  · exact fun hr => xload_refused_busy s a hr hb

end Sys2Proof.Machine
end

section
/-! PROOFS. The scope: entries received from a link, entries on the mesh, and send stalls. -/

namespace Sys2Proof.Machine
open Sys2Proof.Says

/-! ### `LRECV` (R277, R312) -/

theorem lrecv_held (s : State) (d : Reg) (f : BitVec 2) (port : BitVec 4) :
    3 ∈ s.delays (.lrecv d f port) ↔ (s.core.recv port.toNat).length < 2 ^ f.toNat :=
  (mem_delays_of_plain (b := lrecvWaits s f port) (d := 3) rfl).trans decide_eq_true_iff

/-- What a core observes by entries that it takes. -/
def Core.observeAll (c : Core) (es : List Entry) : Core :=
  es.foldl (fun c e => match e.sender with | none => c | some y => c.observe y.1 y.2) c

theorem observeAll_eq : ∀ (es : List Entry) (c : Core), c.observeAll es = { c with observed := (c.observeAll es).observed } := by
  intro es
  induction es with
  | nil => intro c; rfl
  | cons e es ih =>
    intro c
    rw [Core.observeAll, List.foldl_cons, ← Core.observeAll, ih]
    cases e.sender <;> rfl

/-- An observed interval does not go back. -/
theorem le_observe (c : Core) (y x : Nat) (i : Word) : (SMap.get 0 c.observed x).toNat ≤ (SMap.get 0 (c.observe y i).observed x).toNat := by
  rw [Core.observe]
  by_cases h : x = y
  · subst h
    rw [SMap.get_set_same]
    split <;> omega
  · rw [SMap.get_set_other _ _ _ _ _ h]

theorem le_observeAll : ∀ (es : List Entry) (c : Core) (x : Nat),
    (SMap.get 0 c.observed x).toNat ≤ (SMap.get 0 (c.observeAll es).observed x).toNat := by
  intro es
  induction es with
  | nil => intro c x; exact le_rfl
  | cons e es ih =>
    intro c x
    rw [Core.observeAll, List.foldl_cons, ← Core.observeAll]
    refine le_trans ?_ (ih _ x)
    cases e.sender with
    | none => exact le_rfl
    | some y => exact le_observe c y.1 x y.2

/-- The senders of the entries have been observed. -/
theorem observeAll_senders (y : Nat) (i : Word) : ∀ (es : List Entry) (c : Core), (∃ e ∈ es, e.sender = some (y, i)) →
    i.toNat ≤ (SMap.get 0 (c.observeAll es).observed y).toNat := by
  intro es
  induction es with
  | nil => rintro c ⟨e, he, -⟩; exact absurd he List.not_mem_nil
  | cons e es ih =>
    rintro c ⟨e', he', hs⟩
    rw [Core.observeAll, List.foldl_cons, ← Core.observeAll]
    rcases List.mem_cons.mp he' with rfl | he'
    · rw [hs]
      exact (get_observe c y i).trans (le_observeAll es _ y)
    · exact ih _ ⟨e', he', hs⟩

/-- Element i of entries of eight words. -/
theorem getD_entryWords : ∀ (es : List Entry) (i : Nat), i < 8 * es.length →
    (es.flatMap (fun e => (List.range 8).map (fun j => e.words.getD j 0))).getD i 0 = ((es.getD (i / 8) {}).words).getD (i % 8) 0 := by
  intro es
  induction es with
  | nil => intro i h; exact absurd h (Nat.not_lt_zero i)
  | cons e es ih =>
    intro i h
    rw [List.length_cons] at h
    have hlen : ((List.range 8).map (fun j => e.words.getD j 0)).length = 8 := by simp
    rw [List.flatMap_cons]
    by_cases h8 : i < 8
    · rw [List.getD_append _ _ _ _ (by omega), Nat.div_eq_of_lt h8, Nat.mod_eq_of_lt h8, List.getD_eq_getElem _ _ (by omega)]
      simp
    · rw [List.getD_append_right _ _ _ _ (by omega), hlen, ih (i - 8) (by omega), show i / 8 = (i - 8) / 8 + 1 by omega,
        show i % 8 = (i - 8) % 8 by omega, List.getD_cons_succ]

theorem getD_take (l : List Entry) (n i : Nat) (h : i < n) : (l.take n).getD i {} = l.getD i {} := by
  rw [List.getD_eq_getElem?_getD, List.getD_eq_getElem?_getD, List.getElem?_take_of_lt h]

/-- `LRECV` takes the entries at the head of its queue. -/
theorem lrecv_takes (s : State) (d : Reg) (f : BitVec 2) (port : BitVec 4) (h : 2 ^ f.toNat ≤ (s.core.recv port.toNat).length) :
    ∃ t, exec (.lrecv d f port) s = .next t ∧ alone s t ∧
      t.core = { s.core with regs := { s.core.regs with v := t.core.regs.v }, recvQ := t.core.recvQ, observed := t.core.observed } ∧
      (∀ p, t.core.recv p = if p = port.toNat then (s.core.recv port.toNat).drop (2 ^ f.toNat) else s.core.recv p) ∧
      (∀ r i, i < 64 → laterV t r i = if r = d ∧ i < 8 * 2 ^ f.toNat then
        (((s.core.recv port.toNat).getD (i / 8) {}).words).getD (i % 8) 0 else laterV s r i) ∧
      ∀ y i, (y, i) ∈ ((s.core.recv port.toNat).take (2 ^ f.toNat)).filterMap (fun e => e.sender) →
        i.toNat ≤ (SMap.get 0 t.core.observed y).toNat := by
  let es := (s.core.recv port.toNat).take (foldBeats f)
  let ws := es.flatMap (fun e => (List.range 8).map (fun j => e.words.getD j 0))
  have hes : es.length = 2 ^ f.toNat := List.length_take_of_le h
  have hw : ¬lrecvWaits s f port = true := by
    rw [lrecvWaits, decide_eq_true_iff]
    exact Nat.not_lt.mpr h
  refine ⟨s.onCore (fun c => { c.observeAll es with
      recvQ := SMap.set [] (c.observeAll es).recvQ port.toNat ((s.core.recv port.toNat).drop (foldBeats f))
      regs := { (c.observeAll es).regs with
        v := putElems 0 (c.observeAll es).regs.v (d.toNat * 64) (fun _ => true) (fun i => ws.getD i 0) (foldN f) } }),
    if_neg hw, alone_onCore s _, ?_, fun p => ?_, fun r i hi => ?_, fun y i hm => ?_⟩
  · rw [State.core_onCore, observeAll_eq]
  · rw [State.core_onCore, observeAll_eq, Core.recv, SMap.get_set]; rfl
  · have hplace : r = d ↔ r.toNat = d.toNat := ⟨fun h => by rw [h], BitVec.eq_of_toNat_eq⟩
    rw [laterV, laterV, Core.rdV_beginRow, Core.rdV_beginRow, State.core_onCore, observeAll_eq, get_putElems_reg _ _ _ _ _ _ _ _ (foldN_le f) hi]
    simp only [and_true, hplace]
    by_cases hlt : i < 8 * 2 ^ f.toNat
    · rw [getD_entryWords es i (by rw [hes]; exact hlt), getD_take _ _ _ (show i / 8 < foldBeats f from Nat.div_lt_of_lt_mul hlt)]
      rfl
    · rw [if_neg (fun hc => hlt hc.2), if_neg (fun hc => hlt hc.2)]
  · rw [State.core_onCore]
    obtain ⟨e, he, hs⟩ := List.mem_filterMap.mp hm
    exact observeAll_senders y i es s.core ⟨e, he, hs⟩

/-! ### Mesh entries (R154) -/

/-- An entry leaves the queue of a direction. -/
def State.dropMesh (s : State) (k d : Nat) (r : List MeshEntry) : State := s.onCoreAt k (fun c => { c with meshSend := SMap.set [] c.meshSend d r })

theorem coreAt_dropMesh (s : State) (k d : Nat) (r : List MeshEntry) (x : Nat) :
    (s.dropMesh k d r).coreAt x = { s.coreAt x with meshSend := ((s.dropMesh k d r).coreAt x).meshSend } := by
  rw [State.dropMesh, State.coreAt_onCoreAt]
  split
  · next h => rw [h]
  · rfl

theorem meshSend_dropMesh (s : State) (k d : Nat) (r : List MeshEntry) : SMap.get [] ((s.dropMesh k d r).coreAt k).meshSend d = r := by
  rw [State.dropMesh, State.coreAt_onCoreAt_same, SMap.get_set_same]

/-- A mesh entry off the array is lost. -/
theorem mesh_lost (s : State) (die : DieNo) (core : CoreNo) (dir : BitVec 2) (due : Nat) (e : MeshEntry) (r : List MeshEntry)
    (hq : SMap.get [] (s.coreAt (coreKey die core)).meshSend dir.toNat = e :: r) (hd : e.due = some due) (hle : due ≤ (s.dieAt die.toNat).tick)
    (ht : s.dirTarget (coreKey die core) dir.toNat = none) : ∃ t, exec (.meshDelivery die core dir) s = .next t ∧
      SMap.get [] (t.coreAt (coreKey die core)).meshSend dir.toNat = r ∧
        ∀ x, t.coreAt x = { s.coreAt x with meshSend := (t.coreAt x).meshSend } := by
  refine ⟨s.dropMesh (coreKey die core) dir.toNat r, ?_, meshSend_dropMesh s _ _ r, coreAt_dropMesh s _ _ r⟩
  · show execMeshDelivery die core dir s = _
    rw [execMeshDelivery]
    dsimp only
    rw [hq]
    dsimp only
    rw [hd, ht]
    exact if_neg (by simp [hle])

/-- A mesh entry reaches a queue that has room. -/
theorem mesh_arrives (s : State) (die : DieNo) (core : CoreNo) (dir : BitVec 2) (due : Nat) (e : MeshEntry) (r : List MeshEntry) (i : Nat)
    (hq : SMap.get [] (s.coreAt (coreKey die core)).meshSend dir.toNat = e :: r) (hd : e.due = some due) (hle : due ≤ (s.dieAt die.toNat).tick)
    (ht : s.dirTarget (coreKey die core) dir.toNat = some i) (hroom : (SMap.get [] (s.coreAt i).meshRecv ((dir.toNat + 2) % 4)).length < 4) :
    ∃ t, exec (.meshDelivery die core dir) s = .next t ∧ t.segs = s.segs ∧ t.dies = s.dies ∧ t.mod = s.mod ∧
      SMap.get [] (t.coreAt (coreKey die core)).meshSend dir.toNat = r ∧
      SMap.get [] (t.coreAt i).meshRecv ((dir.toNat + 2) % 4) = SMap.get [] (s.coreAt i).meshRecv ((dir.toNat + 2) % 4) ++ [e.words] ∧
      ∀ x, t.coreAt x = { s.coreAt x with meshSend := (t.coreAt x).meshSend, meshRecv := (t.coreAt x).meshRecv } := by
  let q := SMap.get [] (s.coreAt i).meshRecv ((dir.toNat + 2) % 4) ++ [e.words]
  refine ⟨(s.dropMesh (coreKey die core) dir.toNat r).onCoreAt i
    (fun c => { c with meshRecv := SMap.set [] c.meshRecv ((dir.toNat + 2) % 4) q }), ?_, rfl, rfl, rfl, ?_, ?_, fun x => ?_⟩
  · show execMeshDelivery die core dir s = _
    rw [execMeshDelivery]
    dsimp only
    rw [hq]
    dsimp only
    rw [hd, ht]
    exact (if_neg (by simp [hle])).trans (if_neg (Nat.not_le.mpr hroom))
  · rw [State.coreAt_onCoreAt]
    split
    · next h => rw [← h]; exact meshSend_dropMesh s _ _ r
    · exact meshSend_dropMesh s _ _ r
  · rw [State.coreAt_onCoreAt_same, SMap.get_set_same]
  · by_cases hx : x = i
    · rw [hx, State.coreAt_onCoreAt_same, coreAt_dropMesh]
    · rw [State.coreAt_onCoreAt_other _ _ _ _ hx, coreAt_dropMesh]

/-! ### Send stalls (R281) -/

/-- A class I fault at a core that has none. -/
theorem coreAt_raiseAt_of_sound (s : State) (k : Nat) (f : CoreFault) (hf : (s.coreAt k).fault = none) :
    (∀ x, (s.raiseAt k f).coreAt x = { s.coreAt x with fault := ((s.raiseAt k f).coreAt x).fault, halt := ((s.raiseAt k f).coreAt x).halt }) ∧
      ((s.raiseAt k f).coreAt k).fault = some f := by
  constructor
  · intro x
    obtain ⟨h, hx⟩ := State.coreAt_raiseAt s k f x
    rw [hx]
  · obtain ⟨h, hx⟩ := State.coreAt_raiseAt s k f k
    rw [hx]
    show (if k = k then some ((s.coreAt k).fault.getD f) else (s.coreAt k).fault) = some f
    rw [if_pos rfl, hf]
    rfl

/-- A send stall that has lasted too long. -/
theorem linkstall_raises (s : State) (die : DieNo) (core : CoreNo) (h0 : (s.coreAt (coreKey die core)).stall ≠ 0)
    (hl : (s.coreAt (coreKey die core)).lstall * 1024 ≤ (s.coreAt (coreKey die core)).stall) (hh : (s.coreAt (coreKey die core)).halt = none)
    (hf : (s.coreAt (coreKey die core)).fault = none) : ∃ t, exec (.linkstall die core) s = .next t ∧ t.segs = s.segs ∧ t.dies = s.dies ∧
      (∀ x, t.coreAt x = { s.coreAt x with fault := (t.coreAt x).fault, halt := (t.coreAt x).halt }) ∧
      (t.coreAt (coreKey die core)).fault = some ⟨0x25, (s.coreAt (coreKey die core)).pos.row,
        BitVec.ofNat 64 (s.coreAt (coreKey die core)).stallPort, (s.coreAt (coreKey die core)).stallSlot, 0⟩ := by
  obtain ⟨hx, hk⟩ := coreAt_raiseAt_of_sound s (coreKey die core) ⟨cLINKSTALL, (s.coreAt (coreKey die core)).pos.row,
    BitVec.ofNat 64 (s.coreAt (coreKey die core)).stallPort, (s.coreAt (coreKey die core)).stallSlot, 0⟩ hf
  refine ⟨_, if_neg ?_, rfl, rfl, hx, hk⟩
  rintro (h | h | h)
  · exact h0 h
  · omega
  · rw [hh] at h; exact Bool.false_ne_true h

end Sys2Proof.Machine
end

section
/-! PROOFS. The scope: what a write of another core changes of its target, beneath the stores in flight there. -/

namespace Sys2Proof.Machine
open Sys2Proof.Says

/-! ### What an arrival leaves alone (R153, R276 to R282) -/

theorem linked_refl (c : Core) : linked c c := ⟨rfl, fun h1 h2 h3 h4 => ⟨rfl, rfl, rfl, h1, h2, h3, h4⟩⟩

theorem linked_trans {c d e : Core} (h : linked c d) (g : linked d e) : linked c e := by
  obtain ⟨hd, hnone⟩ := h
  obtain ⟨he, gnone⟩ := g
  rw [hd] at he
  refine ⟨he, fun h1 h2 h3 h4 => ?_⟩
  obtain ⟨hr, hq, hm, i1, i2, i3, i4⟩ := hnone h1 h2 h3 h4
  obtain ⟨gr, gq, gm, j1, j2, j3, j4⟩ := gnone i1 i2 i3 i4
  exact ⟨gr.trans hr, gq.trans hq, gm.trans hm, j1, j2, j3, j4⟩

/-- A change of a core by an arrival: what `linked` says, its queues kept, and the places that its stores in flight have still to write. -/
def Core.took (c d : Core) : Prop := linked c d ∧ d.sends = c.sends ∧ d.toCome.map Prod.fst = c.toCome.map Prod.fst

theorem took_refl (c : Core) : c.took c := ⟨linked_refl c, rfl, rfl⟩

theorem took_trans {c d e : Core} (h : c.took d) (g : d.took e) : c.took e :=
  ⟨linked_trans h.1 g.1, g.2.1.trans h.2.1, g.2.2.trans h.2.2⟩

/-- A change that leaves what is in flight, the register files and the queues of the mesh as they were. -/
theorem took_of_eq {c d : Core}
    (h : d = { c with scratch := d.scratch, badScratch := d.badScratch, passes := d.passes, shadows := d.shadows, recvQ := d.recvQ,
                      commits := d.commits, banks := d.banks, fault := d.fault, halt := d.halt }) : c.took d := by
  rw [h]
  exact ⟨⟨rfl, fun h1 h2 h3 h4 => ⟨rfl, rfl, rfl, h1, h2, h3, h4⟩⟩, rfl, rfl⟩

/-! ### Loads in flight -/

theorem foldl_seeFly_eq (x : Nat) (bs : List Byte) : ∀ (l : List Fly) (c : Core), l.foldl (fun c f => c.seeFly x bs f) c =
    { c with meshSend := (l.foldl (fun c f => c.seeFly x bs f) c).meshSend, regs := (l.foldl (fun c f => c.seeFly x bs f) c).regs,
             flagQ := (l.foldl (fun c f => c.seeFly x bs f) c).flagQ } := by
  intro l
  induction l with
  | nil => intro c; rfl
  | cons f l ih =>
    intro c
    have hone : c.seeFly x bs f = { c with meshSend := (c.seeFly x bs f).meshSend, regs := (c.seeFly x bs f).regs, flagQ := (c.seeFly x bs f).flagQ } := by
      unfold Core.seeFly
      dsimp only
      split
      · rfl
      · split <;> rfl
    rw [List.foldl_cons, ih, hone]

/-- What an operation in flight has still to write is nothing that a load reads. -/
theorem toCome_see (f : Option Fly) (beats beats' x : Nat) (bs : List Byte) : Fly.toCome (f.map (fun f => f.see beats' x bs)) beats = Fly.toCome f beats := by
  cases f with
  | none => rfl
  | some f =>
    have hsee : f.see beats' x bs = f ∨ f.see beats' x bs = f.reads (f.hit beats' x bs) := by
      unfold Fly.see
      split
      · exact .inl rfl
      · exact .inr rfl
    rcases hsee with h | h
    · rw [Option.map_some, h]
    · rw [Option.map_some, h]; rfl

theorem took_see (c : Core) (x : Nat) (bs : List Byte) : c.took (c.see x bs) := by
  refine ⟨⟨?_, fun h1 h2 h3 h4 => ?_⟩, ?_, ?_⟩
  · unfold Core.see
    rw [foldl_seeFly_eq]
  · unfold Core.see
    rw [h1, h2, h3, h4]
    exact ⟨rfl, rfl, rfl, rfl, rfl, rfl, rfl⟩
  · unfold Core.see
    rw [foldl_seeFly_eq]
  · unfold Core.see Core.toCome
    rw [foldl_seeFly_eq]
    dsimp only
    rw [toCome_see, toCome_see]

theorem kept_see (c : Core) (x : Nat) (bs : List Byte) : (c.see x bs).scratch = c.scratch ∧ (c.see x bs).commits = c.commits := by
  unfold Core.see
  rw [foldl_seeFly_eq]
  exact ⟨rfl, rfl⟩

/-! ### Stores in flight -/

theorem fst_underBytes (a : Nat) (b : Byte) : ∀ l : List (Nat × Byte × Byte), (underBytes a b l).1.map Prod.fst = l.map Prod.fst := by
  intro l
  induction l with
  | nil => rfl
  | cons w r ih =>
    rw [underBytes]
    split
    · next h => rw [List.map_cons, List.map_cons, h]
    · dsimp only
      rw [List.map_cons, List.map_cons, ih]

theorem fst_underBeats (a : Nat) (b : Byte) : ∀ l : List (List (Nat × Byte × Byte)),
    (underBeats a b l).1.flatten.map Prod.fst = l.flatten.map Prod.fst := by
  intro l
  induction l with
  | nil => rfl
  | cons g r ih =>
    rw [underBeats]
    dsimp only
    split
    · rw [List.flatten_cons, List.flatten_cons, List.map_append, List.map_append, fst_underBytes]
    · rw [List.flatten_cons, List.flatten_cons, List.map_append, List.map_append, ih]

/-- A byte that goes under the stores in flight leaves their places. -/
theorem toCome_under (a : Nat) (b : Byte) (beats : Nat) (f : Option Fly) :
    (Fly.toCome (Fly.under a b beats f).1 beats).map Prod.fst = (Fly.toCome f beats).map Prod.fst := by
  cases f with
  | none => rfl
  | some x =>
    have hdrop : ∀ (n : Nat) (l : List (List (Nat × Byte × Byte))), (l.take n ++ (underBeats a b (l.drop n)).1).drop n = (underBeats a b (l.drop n)).1 := by
      intro n l
      rcases Nat.lt_or_ge n l.length with h | h
      · exact List.drop_left' (List.length_take_of_le h.le)
      · rw [List.drop_of_length_le h, List.take_of_length_le h]
        exact List.drop_of_length_le (by simp [underBeats, h])
    rw [Fly.under]
    dsimp only
    split
    · rfl
    · next hk =>
      rw [Fly.toCome, Fly.toCome]
      dsimp only
      rw [if_neg hk, if_neg hk]
      show ((List.drop (x.steps beats) _).flatten).map _ = _
      rw [hdrop, fst_underBeats]

theorem took_setUnder (c : Core) (a : Nat) (b : Byte) : c.took (c.setUnder a b) := by
  unfold Core.setUnder
  dsimp only
  split
  · next hq =>
    refine ⟨⟨rfl, fun h1 h2 h3 h4 => ?_⟩, rfl, ?_⟩
    · rw [h1] at hq; exact absurd hq Bool.false_ne_true
    · rw [Core.toCome, Core.toCome, List.map_append, List.map_append]
      exact congrArg (· ++ _) (toCome_under a b c.beats c.vfly)
  · refine ⟨⟨rfl, fun h1 h2 h3 h4 => ?_⟩, rfl, ?_⟩
    · rw [h2]; exact ⟨rfl, rfl, rfl, h1, rfl, h3, h4⟩
    · rw [Core.toCome, Core.toCome, List.map_append, List.map_append]
      exact congrArg (_ ++ ·) (toCome_under a b c.beats c.tfly)

theorem kept_setUnder (c : Core) (a : Nat) (b : Byte) : (c.setUnder a b).scratch = c.scratch ∧ (c.setUnder a b).commits = c.commits := by
  unfold Core.setUnder
  dsimp only
  split <;> exact ⟨rfl, rfl⟩

theorem foldl_setUnder (x : Nat) : ∀ (l : List (Byte × Nat)) (c : Core), c.took (l.foldl (fun c b => c.setUnder (x + b.2) b.1) c) ∧
    (l.foldl (fun c b => c.setUnder (x + b.2) b.1) c).scratch = c.scratch ∧
    (l.foldl (fun c b => c.setUnder (x + b.2) b.1) c).commits = c.commits := by
  intro l
  induction l with
  | nil => intro c; exact ⟨took_refl c, rfl, rfl⟩
  | cons b l ih =>
    intro c
    obtain ⟨ht, hs, hm⟩ := ih (c.setUnder (x + b.2) b.1)
    obtain ⟨us, um⟩ := kept_setUnder c (x + b.2) b.1
    exact ⟨took_trans (took_setUnder c _ _) ht, hs.trans us, hm.trans um⟩

theorem took_meet (c : Core) (x : Nat) (bs : List Byte) :
    c.took (c.meet x bs) ∧ (c.meet x bs).scratch = c.scratch ∧ (c.meet x bs).commits = c.commits := by
  obtain ⟨ht, hs, hm⟩ := foldl_setUnder x bs.zipIdx (c.see x bs)
  obtain ⟨us, um⟩ := kept_see c x bs
  exact ⟨took_trans (took_see c x bs) ht, hs.trans us, hm.trans um⟩

/-! ### Shadows, and the note of the operations in flight -/

theorem shadowFrom_eq (y : Nat) (i : Word) (atom : Bool) : ∀ (n lo : Nat) (c : Core),
    shadowFrom c y i atom lo n = { c with shadows := (shadowFrom c y i atom lo n).shadows } := by
  intro n
  induction n with
  | zero => intro lo c; rfl
  | succ n ih => intro lo c; rw [shadowFrom, ih]

theorem toCome_meets (x n beats : Nat) (f : Option Fly) : Fly.toCome (f.map (Fly.meets x n)) beats = Fly.toCome f beats := by cases f <;> rfl

theorem took_meets (c : Core) (x n : Nat) : c.took (c.meets x n) := by
  refine ⟨⟨rfl, fun h1 h2 h3 h4 => ?_⟩, rfl, ?_⟩
  · unfold Core.meets
    rw [h1, h2, h3, h4]
    exact ⟨rfl, rfl, rfl, rfl, rfl, rfl, rfl⟩
  · unfold Core.meets Core.toCome
    dsimp only
    rw [toCome_meets, toCome_meets]

/-- The core after another has written bytes: they go under its stores in flight, its scratchpad has what those leave, and the shadows name the writer. -/
def Core.remotely (c : Core) (fresh x : Nat) (bs : List Byte) (y : Nat) (i : Word) (atom : Bool) : Core :=
  (shadowFrom ((c.meet x bs).putBytes fresh x (c.overlaid x bs)) y i atom (x / 64) (sectors x bs.length)).meets x bs.length

theorem took_remotely (c : Core) (fresh x : Nat) (bs : List Byte) (y : Nat) (i : Word) (atom : Bool) : c.took (c.remotely fresh x bs y i atom) := by
  have hput : (c.meet x bs).took ((c.meet x bs).putBytes fresh x (c.overlaid x bs)) := took_of_eq rfl
  have hshadow := shadowFrom_eq y i atom (sectors x bs.length) (x / 64) ((c.meet x bs).putBytes fresh x (c.overlaid x bs))
  refine took_trans (took_meet c x bs).1 (took_trans hput (took_trans (took_of_eq ?_) (took_meets _ x bs.length)))
  rw [hshadow]

theorem scratch_remotely (c : Core) (fresh x : Nat) (bs : List Byte) (y : Nat) (i : Word) (atom : Bool) :
    (c.remotely fresh x bs y i atom).scratch = Memory.setBytes c.scratch x (c.overlaid x bs) := by
  have hshadow := shadowFrom_eq y i atom (sectors x bs.length) (x / 64) ((c.meet x bs).putBytes fresh x (c.overlaid x bs))
  show (shadowFrom ((c.meet x bs).putBytes fresh x (c.overlaid x bs)) y i atom (x / 64) (sectors x bs.length)).scratch = _
  rw [hshadow]
  show Memory.setBytes (c.meet x bs).scratch x _ = _
  rw [(took_meet c x bs).2.1]

theorem commits_remotely (c : Core) (fresh x : Nat) (bs : List Byte) (y : Nat) (i : Word) (atom : Bool) :
    (c.remotely fresh x bs y i atom).commits = c.commits := by
  have hshadow := shadowFrom_eq y i atom (sectors x bs.length) (x / 64) ((c.meet x bs).putBytes fresh x (c.overlaid x bs))
  show (shadowFrom ((c.meet x bs).putBytes fresh x (c.overlaid x bs)) y i atom (x / 64) (sectors x bs.length)).commits = _
  rw [hshadow]
  exact (took_meet c x bs).2.2

/-! ### Bytes beneath stores in flight -/

/-- A place that a store in flight has still to write. -/
def Core.awaits (c : Core) (a : Nat) : Prop := a ∈ c.toCome.map Prod.fst

theorem not_awaits {c : Core} {x n : Nat} (h : noneToCome c x n) (a : Nat) (h1 : x ≤ a) (h2 : a < x + n) : ¬c.awaits a := by
  intro hm
  obtain ⟨w, hw, rfl⟩ := List.mem_map.mp hm
  rcases h w hw with hlt | hge <;> omega

theorem length_overlaid (c : Core) (x : Nat) (bs : List Byte) : (c.overlaid x bs).length = bs.length := by
  unfold Core.overlaid
  dsimp only
  split
  · rfl
  · rw [List.length_map, List.length_zipIdx]

/-- A byte that no store in flight is to write is what the other core writes. -/
theorem getD_overlaid (c : Core) (x : Nat) (bs : List Byte) (i : Nat) (hi : i < bs.length) (hn : ¬c.awaits (x + i)) :
    (c.overlaid x bs).getD i 0 = bs.getD i 0 := by
  unfold Core.overlaid
  dsimp only
  split
  · rfl
  · have hany : c.toCome.any (fun e => e.1 == x + i) = false := by
      rw [List.any_eq_false]
      intro w hw he
      exact hn (List.mem_map.mpr ⟨w, hw, beq_iff_eq.mp he⟩)
    rw [List.getD_eq_getElem?_getD, List.getElem?_map, List.getElem?_zipIdx, List.getElem?_eq_getElem hi, List.getD_eq_getElem _ _ hi]
    show (if c.toCome.any (fun e => e.1 == x + (0 + i)) then Memory.byte c.scratch (x + (0 + i)) else bs[i]) = bs[i]
    rw [Nat.zero_add, hany]
    rfl

/-- The bytes of a core after another has written some. -/
theorem byte_remotely (c : Core) (fresh x : Nat) (bs : List Byte) (y : Nat) (i : Word) (atom : Bool) (z : Nat) (hn : ¬c.awaits z) :
    Memory.byte (c.remotely fresh x bs y i atom).scratch z = if x ≤ z ∧ z < x + bs.length then bs.getD (z - x) 0 else Memory.byte c.scratch z := by
  rw [scratch_remotely, Memory.byte_setBytes, length_overlaid]
  split
  · next h => exact getD_overlaid c x bs (z - x) (by omega) (by rw [Nat.add_sub_cancel' h.1]; exact hn)
  · rfl

theorem byte_remotely_outside (c : Core) (fresh x : Nat) (bs : List Byte) (y : Nat) (i : Word) (atom : Bool) (z : Nat)
    (h : z < x ∨ x + bs.length ≤ z) : Memory.byte (c.remotely fresh x bs y i atom).scratch z = Memory.byte c.scratch z := by
  rw [scratch_remotely, Memory.byte_setBytes, length_overlaid, if_neg (by omega)]

/-- The number that the banks hold, where no store in flight is to write. -/
theorem bankLoad_eq (c : Core) : ∀ (n x : Nat), (∀ a, x ≤ a → a < x + n → ¬c.awaits a) → c.bankLoad x n = Memory.load c.scratch x n := by
  intro n
  induction n with
  | zero => intro x _; rfl
  | succ n ih =>
    intro x h
    have hbyte : c.bankByte x = Memory.byte c.scratch x := by
      have hfind : c.toCome.find? (fun w => w.1 == x) = none := by
        rw [List.find?_eq_none]
        intro w hw he
        exact h x le_rfl (by omega) (List.mem_map.mpr ⟨w, hw, beq_iff_eq.mp he⟩)
      rw [Core.bankByte, hfind]
    have hrest := ih (x + 1) (fun a h1 h2 => h a (by omega) (by omega))
    rw [Core.bankLoad] at hrest ⊢
    rw [List.range_succ_eq_map, List.map_cons, List.map_map, leNat, Memory.load, ← hrest, Nat.add_zero, hbyte]
    have hshift : ((fun i => c.bankByte (x + i)) ∘ Nat.succ) = fun i => c.bankByte (x + 1 + i) := by
      funext k
      show c.bankByte (x + (k + 1)) = _
      rw [Nat.add_right_comm]
      rfl
    rw [hshift]

/-! ### The state after a write of another core -/

/-- What an arrival at a core leaves alone of the state. -/
def State.took (s t : State) (j : Nat) : Prop :=
  (∀ x, (s.coreAt x).took (t.coreAt x)) ∧ t.segs = s.segs ∧ t.dies = s.dies ∧ t.mod = { s.mod with launches := t.mod.launches } ∧
    ∀ x, x ≠ j → (t.coreAt x).scratch = (s.coreAt x).scratch

theorem stateTook_refl (s : State) (j : Nat) : s.took s j := ⟨fun _ => took_refl _, rfl, rfl, rfl, fun _ _ => rfl⟩

theorem stateTook_trans {s t u : State} {j : Nat} (h : s.took t j) (g : t.took u j) : s.took u j := by
  obtain ⟨hc, hs, hd, hm, hx⟩ := h
  obtain ⟨gc, gs, gd, gm, gx⟩ := g
  refine ⟨fun x => took_trans (hc x) (gc x), gs.trans hs, gd.trans hd, ?_, fun x hn => (gx x hn).trans (hx x hn)⟩
  rw [hm] at gm
  exact gm

theorem stateTook_onCoreAt (s : State) (j : Nat) (f : Core → Core) (h : (s.coreAt j).took (f (s.coreAt j))) : s.took (s.onCoreAt j f) j := by
  refine ⟨fun x => ?_, rfl, rfl, rfl, fun x hx => by rw [State.coreAt_onCoreAt_other _ _ _ _ hx]⟩
  rw [State.coreAt_onCoreAt]
  split
  · next hx => rw [hx]; exact h
  · exact took_refl _

theorem stateTook_raise (s : State) (j : Nat) (f : CoreFault) : s.took (s.raiseAt j f) j ∧
    ∀ x, ((s.raiseAt j f).coreAt x).scratch = (s.coreAt x).scratch := by
  have hc : ∀ x, ∃ a b, (s.raiseAt j f).coreAt x = { s.coreAt x with fault := a, halt := b } := fun x => by
    obtain ⟨h, hx⟩ := State.coreAt_raiseAt s j f x
    exact ⟨_, h, hx⟩
  have hscratch : ∀ x, ((s.raiseAt j f).coreAt x).scratch = (s.coreAt x).scratch := fun x => by
    obtain ⟨a, b, hx⟩ := hc x
    rw [hx]
  refine ⟨⟨fun x => ?_, rfl, rfl, rfl, fun x _ => hscratch x⟩, hscratch⟩
  obtain ⟨a, b, hx⟩ := hc x
  rw [hx]
  exact took_of_eq rfl

theorem coreAt_remotePut (s : State) (j x : Nat) (bs : List Byte) (y : Nat) (i : Word) (atom : Bool) :
    ∃ fresh, (s.remotePut j x bs y i atom).coreAt j = (s.coreAt j).remotely fresh x bs y i atom := by
  refine ⟨s.fresh, ?_⟩
  rw [State.remotePut, State.coreAt_onCoreAt_same, coreAt_putAt, State.coreAt_onCoreAt_same]
  rfl

theorem stateTook_remotePut (s : State) (j x : Nat) (bs : List Byte) (y : Nat) (i : Word) (atom : Bool) : s.took (s.remotePut j x bs y i atom) j := by
  obtain ⟨fresh, hj⟩ := coreAt_remotePut s j x bs y i atom
  have hput : ∀ (u : State) (b : List Byte), (u.putAt j x b).segs = u.segs ∧ (u.putAt j x b).dies = u.dies ∧ (u.putAt j x b).mod = u.mod ∧
      ∀ k, k ≠ j → (u.putAt j x b).coreAt k = u.coreAt k := fun u b => by
    rw [State.putAt]
    split
    · exact ⟨rfl, rfl, rfl, fun k hk => State.coreAt_onCoreAt_other _ _ _ _ hk⟩
    · exact ⟨rfl, rfl, rfl, fun k hk => State.coreAt_onCoreAt_other u j k (fun c => c.putBytes u.fresh x b) hk⟩
  obtain ⟨hs, hd, hm, ho⟩ := hput (s.onCoreAt j (fun c => c.meet x bs)) ((s.coreAt j).overlaid x bs)
  have hother : ∀ k, k ≠ j → (s.remotePut j x bs y i atom).coreAt k = s.coreAt k := fun k hk => by
    rw [State.remotePut, State.coreAt_onCoreAt_other _ _ _ _ hk, ho k hk, State.coreAt_onCoreAt_other _ _ _ _ hk]
  refine ⟨fun k => ?_, hs, hd, ?_, fun k hk => by rw [hother k hk]⟩
  · by_cases hk : k = j
    · rw [hk, hj]; exact took_remotely _ _ _ _ _ _ _
    · rw [hother k hk]; exact took_refl _
  · have hmod : (s.remotePut j x bs y i atom).mod = s.mod := hm
    rw [hmod]

end Sys2Proof.Machine
end

section
/-! PROOFS. The scope: operations of another core that arrive at their target. -/

namespace Sys2Proof.Machine
open Sys2Proof.Says

/-! ### Words and their bytes -/

theorem wordBytes_eq (ws : List W32) : wordBytes ws = (ws.map (fun w => (w.toNat, (0 : Flags)))).flatMap (fun w => leBytes 4 w.1) := by
  rw [wordBytes, List.flatMap_map]

theorem length_wordBytes (ws : List W32) : (wordBytes ws).length = 4 * ws.length := by
  rw [wordBytes_eq, length_flatMap_leBytes, List.length_map]

theorem getD_wordBytes (ws : List W32) (n : Nat) (h : n < 4 * ws.length) :
    (wordBytes ws).getD n 0 = (ws.getD (n / 4) 0).extractLsb' (8 * (n % 4)) 8 := by
  have hget : (ws.map (fun w => (w.toNat, (0 : Flags)))).getD (n / 4) (0, 0) = ((ws.getD (n / 4) 0).toNat, (0 : Flags)) :=
    List.getD_map ws 0 (fun w : W32 => (w.toNat, (0 : Flags)))
  rw [wordBytes_eq, getD_flatMap_leBytes _ n (by rw [List.length_map]; exact h), hget, ofNat_div_eq_extractLsb']

/-- A word of the scratchpad, from its bytes. -/
theorem memW_of_bytes (m : Memory) (a : Nat) (w : W32) (h : ∀ i, i < 4 → Memory.byte m (a + i) = w.extractLsb' (8 * i) 8) : memW m a = w := by
  have hload : Memory.load m a 4 = w.toNat := by
    have hstore := Memory.load_store 4 m a w.toNat
    rw [Nat.mod_eq_of_lt (show w.toNat < 256 ^ 4 from w.isLt), ← Memory.setBytes_leBytes] at hstore
    rw [← hstore]
    refine load_congr _ _ 4 a (fun x h1 h2 => ?_)
    rw [Memory.byte_setBytes, length_leBytes, if_pos ⟨h1, h2⟩, getD_leBytes 4 _ _ (by omega), ofNat_div_eq_extractLsb', ← h (x - a) (by omega),
      Nat.add_sub_cancel' h1]
  rw [memW, hload, BitVec.ofNat_toNat, BitVec.setWidth_eq]

/-! ### Entries of a write or an atomic (R278, R279) -/

/-- A write or an atomic on some words at an address. -/
def LOp.entries (op : LOp) (x : Nat) (ws : List W32) : Prop := op = .put x ws ∨ ∃ o, op = .amo o x ws

theorem entryArea_eq (x l n : Nat) (ws : List W32) (hl : ws.length = 8 * l) (hn : n < l) : LOp.entryArea x ws n = (x + 32 * n, 32) := by
  rw [LOp.entryArea, hl]
  congr 1
  omega

theorem length_take_drop (l n : Nat) (ws : List W32) (hl : ws.length = 8 * l) (hn : n < l) : ((ws.drop (8 * n)).take 8).length = 8 := by
  rw [List.length_take, List.length_drop]
  omega

theorem getD_take_drop (n i : Nat) (ws : List W32) (hi : i < 8) : ((ws.drop (8 * n)).take 8).getD i 0 = ws.getD (8 * n + i) 0 := by
  rw [List.getD_eq_getElem?_getD, List.getD_eq_getElem?_getD, List.getElem?_take_of_lt hi, List.getElem?_drop]

/-- The words that an entry of an atomic writes. -/
def amoWords (c : Core) (o x : Nat) (ws : List W32) (n : Nat) : List W32 :=
  ((ws.drop (8 * n)).take 8).zipIdx.map (fun w => amoWord o (BitVec.ofNat 32 (c.bankLoad (x + 32 * n + 4 * w.2) 4)) w.1)

theorem length_amoWords (c : Core) (o x l n : Nat) (ws : List W32) (hl : ws.length = 8 * l) (hn : n < l) : (amoWords c o x ws n).length = 8 := by
  rw [amoWords, List.length_map, List.length_zipIdx, length_take_drop l n ws hl hn]

theorem getD_amoWords (c : Core) (o x l n i : Nat) (ws : List W32) (hl : ws.length = 8 * l) (hn : n < l) (hi : i < 8) :
    (amoWords c o x ws n).getD i 0 = amoWord o (BitVec.ofNat 32 (c.bankLoad (x + 32 * n + 4 * i) 4)) (ws.getD (8 * n + i) 0) := by
  have hlen := length_take_drop l n ws hl hn
  rw [amoWords, List.getD_eq_getElem?_getD, List.getElem?_map, List.getElem?_zipIdx, List.getElem?_eq_getElem (by omega), ← getD_take_drop n i ws hi,
    List.getD_eq_getElem _ _ (by omega), Nat.zero_add]
  rfl

theorem landEntry_put (s : State) (j x l n y : Nat) (ws : List W32) (i : Word) (hl : ws.length = 8 * l) (hn : n < l)
    (hb : badPartly (s.coreAt j).badScratch (x + 32 * n) 32 = false) :
    s.landEntry j (.put x ws) y i n = s.remotePut j (x + 32 * n) (wordBytes ((ws.drop (8 * n)).take 8)) y i false := by
  rw [State.landEntry]
  rw [entryArea_eq x l n ws hl hn]
  exact if_neg (by rw [hb]; exact Bool.false_ne_true)

theorem landEntry_amo (s : State) (j o x l n y : Nat) (ws : List W32) (i : Word) (hl : ws.length = 8 * l) (hn : n < l)
    (hb : badIn (s.coreAt j).badScratch (x + 32 * n) 32 = false) :
    s.landEntry j (.amo o x ws) y i n = s.remotePut j (x + 32 * n) (wordBytes (amoWords (s.coreAt j) o x ws n)) y i true := by
  rw [State.landEntry]
  rw [entryArea_eq x l n ws hl hn]
  exact if_neg (by rw [hb]; exact Bool.false_ne_true)

/-- An entry that lands leaves what lies below it and beyond the operation. -/
theorem landEntry_took (s : State) (j x l n y : Nat) (op : LOp) (ws : List W32) (i : Word) (hop : op.entries x ws) (hl : ws.length = 8 * l)
    (hn : n < l) : s.took (s.landEntry j op y i n) j ∧ ∀ z, z < x + 32 * n ∨ x + 32 * n + 32 ≤ z →
      Memory.byte ((s.landEntry j op y i n).coreAt j).scratch z = Memory.byte (s.coreAt j).scratch z := by
  have hput : ∀ (bs : List Byte) (atom : Bool), bs.length = 32 → s.took (s.remotePut j (x + 32 * n) bs y i atom) j ∧
      ∀ z, z < x + 32 * n ∨ x + 32 * n + 32 ≤ z →
        Memory.byte ((s.remotePut j (x + 32 * n) bs y i atom).coreAt j).scratch z = Memory.byte (s.coreAt j).scratch z := fun bs atom hlen => by
    obtain ⟨fresh, hj⟩ := coreAt_remotePut s j (x + 32 * n) bs y i atom
    refine ⟨stateTook_remotePut s j _ bs y i atom, fun z hz => ?_⟩
    rw [hj, byte_remotely_outside _ _ _ _ _ _ _ z (by rw [hlen]; exact hz)]
  have hraise : ∀ f, s.took (s.raiseAt j f) j ∧ ∀ z, z < x + 32 * n ∨ x + 32 * n + 32 ≤ z →
      Memory.byte ((s.raiseAt j f).coreAt j).scratch z = Memory.byte (s.coreAt j).scratch z := fun f => by
    obtain ⟨ht, hs⟩ := stateTook_raise s j f
    exact ⟨ht, fun z _ => by rw [hs j]⟩
  rcases hop with rfl | ⟨o, rfl⟩
  · by_cases hb : badPartly (s.coreAt j).badScratch (x + 32 * n) 32 = true
    · rw [State.landEntry]
      rw [entryArea_eq x l n ws hl hn, if_pos hb]
      exact hraise _
    · rw [landEntry_put s j x l n y ws i hl hn (Bool.eq_false_iff.mpr hb)]
      exact hput _ _ (by rw [length_wordBytes, length_take_drop l n ws hl hn])
  · by_cases hb : badIn (s.coreAt j).badScratch (x + 32 * n) 32 = true
    · rw [State.landEntry]
      rw [entryArea_eq x l n ws hl hn, if_pos hb]
      exact hraise _
    · rw [landEntry_amo s j o x l n y ws i hl hn (Bool.eq_false_iff.mpr hb)]
      exact hput _ _ (by rw [length_wordBytes, length_amoWords _ _ _ l _ _ hl hn])

theorem took_takeBanks (c : Core) (tick : Nat) (asks : List Ask) : c.took (c.takeBanks tick asks) := took_of_eq rfl

/-- A core from which an entry has taken its banks. -/
def State.granted (s : State) (j : Nat) (asks : List Ask) : State := s.onCoreAt j (fun c => c.takeBanks (s.dieAt (keyDie j)).tick asks)

theorem coreAt_granted (s : State) (j : Nat) (asks : List Ask) :
    (s.granted j asks).coreAt j = (s.coreAt j).takeBanks (s.dieAt (keyDie j)).tick asks := State.coreAt_onCoreAt_same _ _ _

theorem stateTook_granted (s : State) (j : Nat) (asks : List Ask) : s.took (s.granted j asks) j := stateTook_onCoreAt s j _ (took_takeBanks _ _ _)

/-- The entries from some number on leave what lies below them and beyond the operation. -/
theorem landEntries_took (j x l y : Nat) (op : LOp) (ws : List W32) (i : Word) (hop : op.entries x ws) (hl : ws.length = 8 * l) :
    ∀ (fuel n : Nat) (s : State), n + fuel = l →
      s.took (State.landEntries j op y i fuel n s).1 j ∧ n ≤ (State.landEntries j op y i fuel n s).2 ∧ (State.landEntries j op y i fuel n s).2 ≤ l ∧
        ∀ z, z < x + 32 * n ∨ x + 32 * l ≤ z →
          Memory.byte ((State.landEntries j op y i fuel n s).1.coreAt j).scratch z = Memory.byte (s.coreAt j).scratch z := by
  intro fuel
  induction fuel with
  | zero => intro n s h; exact ⟨stateTook_refl s j, le_rfl, by rw [State.landEntries]; omega, fun _ _ => rfl⟩
  | succ fuel ih =>
    intro n s h
    rw [State.landEntries]
    split
    · obtain ⟨ht, h1, h2, hz⟩ := ih (n + 1) ((s.granted j [op.ask n]).landEntry j op y i n) (by omega)
      obtain ⟨hland, hkept⟩ := landEntry_took (s.granted j [op.ask n]) j x l n y op ws i hop hl (by omega)
      refine ⟨stateTook_trans (stateTook_granted s j _) (stateTook_trans hland ht), (Nat.le_succ n).trans h1, h2, fun z hout => ?_⟩
      exact (hz z (by omega)).trans ((hkept z (by omega)).trans (by rw [coreAt_granted]; rfl))
    · exact ⟨stateTook_refl s j, le_rfl, by omega, fun _ _ => rfl⟩

/-- A write or atomic whose next entry is granted: that entry lands, and what follows leaves it as it is. -/
theorem landEntries_first (s : State) (j x l a y : Nat) (op : LOp) (ws : List W32) (i : Word) (hop : op.entries x ws) (hl : ws.length = 8 * l)
    (ha : a < l) (hg : (s.coreAt j).grants (s.dieAt (keyDie j)).tick [op.ask a] = true) :
    ∃ t n, State.landEntries j op y i (l - a) a s = (t, n) ∧ s.took t j ∧ a < n ∧ n ≤ l ∧
      (∀ z, z < x + 32 * a ∨ x + 32 * l ≤ z → Memory.byte (t.coreAt j).scratch z = Memory.byte (s.coreAt j).scratch z) ∧
      ∀ z, x + 32 * a ≤ z → z < x + 32 * a + 32 →
        Memory.byte (t.coreAt j).scratch z = Memory.byte (((s.granted j [op.ask a]).landEntry j op y i a).coreAt j).scratch z := by
  obtain ⟨fuel, hfuel⟩ : ∃ fuel, l - a = fuel + 1 := ⟨l - a - 1, by omega⟩
  obtain ⟨ht, h1, h2, hz⟩ := landEntries_took j x l y op ws i hop hl fuel (a + 1) ((s.granted j [op.ask a]).landEntry j op y i a) (by omega)
  obtain ⟨hland, hkept⟩ := landEntry_took (s.granted j [op.ask a]) j x l a y op ws i hop hl ha
  refine ⟨_, _, ?_, stateTook_trans (stateTook_granted s j _) (stateTook_trans hland ht), h1, h2, fun z hout => ?_, fun z hge hlt => hz z (by omega)⟩
  · rw [hfuel, State.landEntries]
    exact if_pos hg
  · exact (hz z (by omega)).trans ((hkept z (by omega)).trans (by rw [coreAt_granted]; rfl))

/-! ### A copy that is alone on its port (R274, R280) -/

/-- What `linked` says of every core, and of the rest of the state. -/
def State.framed (s t : State) (j : Nat) : Prop :=
  (∀ x, linked (s.coreAt x) (t.coreAt x)) ∧ t.segs = s.segs ∧ t.dies = s.dies ∧ t.mod = { s.mod with launches := t.mod.launches } ∧
    ∀ x, x ≠ j → (t.coreAt x).scratch = (s.coreAt x).scratch

/-- The queue of a port changes. -/
def State.onSends (s : State) (k port : Nat) (f : List Sent → List Sent) : State :=
  s.onCoreAt k (fun c => { c with sends := SMap.set [] c.sends port (f (c.sendQ port)) })

theorem coreAt_onSends (s : State) (k port : Nat) (f : List Sent → List Sent) (x : Nat) :
    (s.onSends k port f).coreAt x = { s.coreAt x with sends := ((s.onSends k port f).coreAt x).sends } := by
  rw [State.onSends, State.coreAt_onCoreAt]
  split
  · next h => rw [h]
  · rfl

theorem sendQ_onSends (s : State) (k port : Nat) (f : List Sent → List Sent) :
    ((s.onSends k port f).coreAt k).sendQ port = f ((s.coreAt k).sendQ port) := by
  rw [State.onSends, State.coreAt_onCoreAt_same]
  exact SMap.get_set_same _ _ _ _

theorem linked_sends (c : Core) (q : SMap (List Sent)) : linked c { c with sends := q } :=
  ⟨rfl, fun h1 h2 h3 h4 => ⟨rfl, rfl, rfl, h1, h2, h3, h4⟩⟩

theorem framed_onSends {s t : State} {j : Nat} (h : s.took t j) (k port : Nat) (f : List Sent → List Sent) : s.framed (t.onSends k port f) j := by
  obtain ⟨hc, hs, hd, hm, hx⟩ := h
  refine ⟨fun x => ?_, hs, hd, hm, fun x hn => ?_⟩
  · rw [coreAt_onSends]
    exact linked_trans (hc x).1 (linked_sends _ _)
  · rw [coreAt_onSends]
    exact hx x hn

section
variable {s : State} {die : DieNo} {core : CoreNo} {port : BitVec 4} {m : Sent} {j : Nat} (h : arriving s die core port m j)
  {kind : LOp → Bool} (hk : kind m.op = true)
include h

theorem deliverOne_arriving : s.deliverOne (coreKey die core) port.toNat m =
    match s.arrival j m.rport m.op m.applied (s.coreAt (coreKey die core)).lcore m.interval with
    | .waits => none
    | .part t n => some (t.onSends (coreKey die core) port.toNat (markSent m n))
    | .over t => some (t.onSends (coreKey die core) port.toNat (dropSent m)) := by
  obtain ⟨-, -, -, -, hcore, hrun⟩ := h
  have hdeaf : (s.coreAt j).deaf = false := by rw [Core.deaf, decide_eq_false hrun]; rfl
  rw [State.deliverOne]
  dsimp only
  rw [hcore]
  dsimp only
  rw [hdeaf]
  cases s.arrival j m.rport m.op m.applied (s.coreAt (coreKey die core)).lcore m.interval <;> rfl

include hk

theorem deliver_arriving : deliver s die core port kind = if (State.deliverAll (coreKey die core) port.toNat [m] (s, false)).2 then
    .next (State.deliverAll (coreKey die core) port.toNat [m] (s, false)).1 else .refused .notEnabled := by
  obtain ⟨hq, hfar, htaken, hdue, -, -⟩ := h
  have hheads : headsOf kind (s.dieAt die.toNat).tick [] [m] = [m] := by simp [headsOf, hk, hfar, htaken, hdue]
  have hfirst : firstServed (s.dieAt die.toNat).tick [m] = [m] := by
    unfold firstServed
    cases hy : m.yields (s.dieAt die.toNat).tick <;> simp [hy]
  rw [deliver]
  rw [hq, hheads, hfirst]

theorem deliver_of_none (hn : s.deliverOne (coreKey die core) port.toNat m = none) : deliver s die core port kind = .refused .notEnabled := by
  rw [deliver_arriving h hk, State.deliverAll, State.deliverAll]
  dsimp only
  rw [hn]
  rfl

theorem deliver_of_some {t : State} (ht : s.deliverOne (coreKey die core) port.toNat m = some t) : deliver s die core port kind = .next t := by
  rw [deliver_arriving h hk, State.deliverAll, State.deliverAll]
  dsimp only
  rw [ht]
  rfl

/-- A copy whose arrival is over leaves its queue. -/
theorem deliver_over {t : State} (ht : s.took t j)
    (ha : s.arrival j m.rport m.op m.applied (s.coreAt (coreKey die core)).lcore m.interval = .over t) :
    ∃ u, deliver s die core port kind = .next u ∧ s.framed u j ∧ (u.coreAt (coreKey die core)).sendQ port.toNat = [] ∧
      ∀ x, u.coreAt x = { t.coreAt x with sends := (u.coreAt x).sends } := by
  have hqueue : (t.coreAt (coreKey die core)).sendQ port.toNat = [m] := by rw [Core.sendQ, (ht.1 _).2.1]; exact h.1
  refine ⟨_, deliver_of_some h hk (by rw [deliverOne_arriving h, ha]), framed_onSends ht _ _ _, ?_, coreAt_onSends t _ _ _⟩
  rw [sendQ_onSends, hqueue]
  simp [dropSent, Sent.same]

/-- A copy of which entries have been applied stays with their number. -/
theorem deliver_part {t : State} {n : Nat} (ht : s.took t j)
    (ha : s.arrival j m.rport m.op m.applied (s.coreAt (coreKey die core)).lcore m.interval = .part t n) :
    ∃ u, deliver s die core port kind = .next u ∧ s.framed u j ∧ (u.coreAt (coreKey die core)).sendQ port.toNat = [{ m with applied := n }] ∧
      ∀ x, u.coreAt x = { t.coreAt x with sends := (u.coreAt x).sends } := by
  have hqueue : (t.coreAt (coreKey die core)).sendQ port.toNat = [m] := by rw [Core.sendQ, (ht.1 _).2.1]; exact h.1
  refine ⟨_, deliver_of_some h hk (by rw [deliverOne_arriving h, ha]), framed_onSends ht _ _ _, ?_, coreAt_onSends t _ _ _⟩
  rw [sendQ_onSends, hqueue]
  simp [markSent, Sent.same]

end

end Sys2Proof.Machine
end

section
/-! PROOFS. The scope: messages, remote writes, atomics and commits at their targets, and what they leave alone. -/

namespace Sys2Proof.Machine
open Sys2Proof.Says

/-! ### What each arrival comes to (R276 to R279, R293) -/

section
variable {s : State} {die : DieNo} {core : CoreNo} {port : BitVec 4} {m : Sent} {j : Nat} (h : arriving s die core port m j)
include h

/-- A message that its queue has room for. -/
theorem message_arrives (es : List (List W32)) (hop : m.op = .send es) (hroom : ((s.coreAt j).recv m.rport).length + es.length ≤ 16) :
    ∃ t, exec (.messageDelivery die core port) s = .next t ∧ s.framed t j ∧ (t.coreAt (coreKey die core)).sendQ port.toNat = [] ∧
      (∀ y, Memory.byte (t.coreAt j).scratch y = Memory.byte (s.coreAt j).scratch y) ∧
      (t.coreAt j).recv m.rport = (s.coreAt j).recv m.rport ++ es.zipIdx.map (fun e =>
        { words := e.1, sender := if e.2 = 0 then some ((s.coreAt (coreKey die core)).lcore, m.interval) else none }) := by
  let new := es.zipIdx.map (fun e => ({ words := e.1, sender := if e.2 = 0 then some ((s.coreAt (coreKey die core)).lcore, m.interval) else none } : Entry))
  let t := s.onCoreAt j (fun c => { c with recvQ := SMap.set [] c.recvQ m.rport ((s.coreAt j).recv m.rport ++ new) })
  have hland : s.landMessage j m.rport es (s.coreAt (coreKey die core)).lcore m.interval = some t := by
    rw [State.landMessage]
    exact if_neg (Nat.not_lt.mpr hroom)
  have harr : s.arrival j m.rport m.op m.applied (s.coreAt (coreKey die core)).lcore m.interval = .over t := by
    rw [hop, State.arrival, hland]
  obtain ⟨u, hu, hframe, hgone, hx⟩ := deliver_over h (kind := fun o => match o with | .send _ => true | _ => false) (by rw [hop])
    (stateTook_onCoreAt s j _ (took_of_eq rfl)) harr
  refine ⟨u, hu, hframe, hgone, fun y => ?_, ?_⟩
  · rw [hx j, State.coreAt_onCoreAt_same]
  · rw [hx j, Core.recv, State.coreAt_onCoreAt_same]
    exact SMap.get_set_same _ _ _ _

/-- A message that its queue has no room for waits. -/
theorem message_waits (es : List (List W32)) (hop : m.op = .send es) (hfull : 16 < ((s.coreAt j).recv m.rport).length + es.length) :
    exec (.messageDelivery die core port) s = .refused .notEnabled := by
  refine deliver_of_none h (kind := fun o => match o with | .send _ => true | _ => false) (by rw [hop]) ?_
  have hland : s.landMessage j m.rport es (s.coreAt (coreKey die core)).lcore m.interval = none := by
    rw [State.landMessage]
    exact if_pos hfull
  rw [deliverOne_arriving h, hop, State.arrival, hland]

/-- An operation beyond the end of the scratchpad raises `SPBOUND` at its target. -/
theorem beyond_raises {kind : LOp → Bool} (hk : kind m.op = true) (x : Nat) (hf : (s.coreAt j).fault = none)
    (harr : s.arrival j m.rport m.op m.applied (s.coreAt (coreKey die core)).lcore m.interval = .over (s.raiseAtTarget j cSPBOUND 0 x)) :
    ∃ t, deliver s die core port kind = .next t ∧ s.framed t j ∧ (t.coreAt (coreKey die core)).sendQ port.toNat = [] ∧
      (∀ y, Memory.byte (t.coreAt j).scratch y = Memory.byte (s.coreAt j).scratch y) ∧
      (t.coreAt j).fault = some { code := 0x20, row := 0, elem := 0, slot := 5, addr := BitVec.ofNat 64 x } := by
  obtain ⟨htook, hscratch⟩ := stateTook_raise s j ⟨cSPBOUND, 0, BitVec.ofNat 64 0, 5, BitVec.ofNat 64 x⟩
  obtain ⟨-, hfault⟩ := coreAt_raiseAt_of_sound s j ⟨cSPBOUND, 0, BitVec.ofNat 64 0, 5, BitVec.ofNat 64 x⟩ hf
  obtain ⟨u, hu, hframe, hgone, hx⟩ := deliver_over h hk htook harr
  refine ⟨u, hu, hframe, hgone, fun y => ?_, ?_⟩
  · rw [hx j]; exact congrArg (fun m => Memory.byte m y) (hscratch j)
  · rw [hx j]; exact hfault

omit h in
/-- The arrival of a write or an atomic that fits. -/
theorem arrival_entries {x l n : Nat} {ws : List W32} {t : State} (hop : m.op.entries x ws) (hl : ws.length = 8 * l)
    (hfit : x + 4 * ws.length ≤ s.spEnd j) (hn : m.applied < n)
    (hland : State.landEntries j m.op (s.coreAt (coreKey die core)).lcore m.interval (l - m.applied) m.applied s = (t, n)) :
    s.arrival j m.rport m.op m.applied (s.coreAt (coreKey die core)).lcore m.interval = if n = l then .over t else .part t n := by
  have hin : ¬s.spEnd j < x + 4 * ws.length := Nat.not_lt.mpr hfit
  have hcount : (ws.length + 7) / 8 = l := by omega
  rcases hop with hop | ⟨o, hop⟩
  · rw [hop] at hland ⊢
    rw [State.arrival, LOp.beyond, if_neg hin]
    dsimp only
    rw [hcount, hland]
    dsimp only
    rw [if_neg (show ¬n = m.applied by omega)]
  · rw [hop] at hland ⊢
    rw [State.arrival, LOp.beyond, if_neg hin]
    dsimp only
    rw [hcount, hland]
    dsimp only
    rw [if_neg (show ¬n = m.applied by omega)]

/-- A write or an atomic whose next entry is granted leaves its queue, or stays there with the number of the entries applied. -/
theorem deliver_entries {kind : LOp → Bool} (hk : kind m.op = true) {x l : Nat} {ws : List W32} (hop : m.op.entries x ws)
    (hl : ws.length = 8 * l) (hfit : x + 4 * ws.length ≤ s.spEnd j) (ha : m.applied < l)
    (hg : (s.coreAt j).grants (s.dieAt (keyDie j)).tick [m.op.ask m.applied] = true) :
    ∃ t, deliver s die core port kind = .next t ∧ s.framed t j ∧
      ((t.coreAt (coreKey die core)).sendQ port.toNat = [] ∨
        ∃ i, m.applied < i ∧ i < l ∧ (t.coreAt (coreKey die core)).sendQ port.toNat = [{ m with applied := i }]) ∧
      (∀ z, x + 32 * m.applied ≤ z → z < x + 32 * m.applied + 32 → Memory.byte (t.coreAt j).scratch z =
        Memory.byte (((s.granted j [m.op.ask m.applied]).landEntry j m.op (s.coreAt (coreKey die core)).lcore m.interval m.applied).coreAt j).scratch z) ∧
      ∀ y, y < x + 32 * m.applied ∨ x + 4 * ws.length ≤ y → Memory.byte (t.coreAt j).scratch y = Memory.byte (s.coreAt j).scratch y := by
  obtain ⟨t, n, hland, htook, hn, hle, hout, hin⟩ := landEntries_first s j x l m.applied (s.coreAt (coreKey die core)).lcore m.op ws m.interval hop hl ha hg
  have harr := arrival_entries (die := die) (core := core) hop hl hfit hn hland
  by_cases hall : n = l
  · rw [if_pos hall] at harr
    obtain ⟨u, hu, hframe, hgone, hx⟩ := deliver_over h hk htook harr
    refine ⟨u, hu, hframe, .inl hgone, fun z h1 h2 => ?_, fun y hy => ?_⟩
    · rw [hx j]; exact hin z h1 h2
    · rw [hx j]; exact hout y (by omega)
  · rw [if_neg hall] at harr
    obtain ⟨u, hu, hframe, hpart, hx⟩ := deliver_part h hk htook harr
    refine ⟨u, hu, hframe, .inr ⟨n, hn, by omega, hpart⟩, fun z h1 h2 => ?_, fun y hy => ?_⟩
    · rw [hx j]; exact hin z h1 h2
    · rw [hx j]; exact hout y (by omega)

end

/-- Places that a core which has been granted banks awaits. -/
theorem awaits_granted (s : State) (j : Nat) (asks : List Ask) (a : Nat) : ((s.granted j asks).coreAt j).awaits a ↔ (s.coreAt j).awaits a := by
  rw [Core.awaits, Core.awaits, ((stateTook_granted s j asks).1 j).2.2]

/-- The bytes of an entry of a write, once it has landed. -/
theorem byte_landEntry_put (s : State) (j x l n y : Nat) (ws : List W32) (i : Word) (asks : List Ask) (hl : ws.length = 8 * l) (hn : n < l)
    (hb : badPartly (s.coreAt j).badScratch (x + 32 * n) 32 = false) (b : Nat) (hlt : b < 32) (hfree : noneToCome (s.coreAt j) (x + 32 * n + b) 1) :
    Memory.byte (((s.granted j asks).landEntry j (.put x ws) y i n).coreAt j).scratch (x + 32 * n + b) =
      (ws.getD (8 * n + b / 4) 0).extractLsb' (8 * (b % 4)) 8 := by
  have hlen : (wordBytes ((ws.drop (8 * n)).take 8)).length = 32 := by rw [length_wordBytes, length_take_drop l n ws hl hn]
  have hno : ¬((s.granted j asks).coreAt j).awaits (x + 32 * n + b) := fun ha =>
    not_awaits hfree _ le_rfl (by omega) ((awaits_granted s j asks _).mp ha)
  rw [landEntry_put (s.granted j asks) j x l n y ws i hl hn (by rw [coreAt_granted]; exact hb)]
  obtain ⟨fresh, hj⟩ := coreAt_remotePut (s.granted j asks) j (x + 32 * n) (wordBytes ((ws.drop (8 * n)).take 8)) y i false
  rw [hj, byte_remotely _ _ _ _ _ _ _ _ hno, if_pos ⟨Nat.le_add_right _ _, by omega⟩, Nat.add_sub_cancel_left,
    getD_wordBytes _ b (by rw [length_take_drop l n ws hl hn]; omega), getD_take_drop n (b / 4) ws (by omega)]

/-- A word of an entry of an atomic, once it has landed. -/
theorem word_landEntry_amo (s : State) (j o x l n y : Nat) (ws : List W32) (i : Word) (asks : List Ask) (hl : ws.length = 8 * l) (hn : n < l)
    (hb : badIn (s.coreAt j).badScratch (x + 32 * n) 32 = false) (w : Nat) (hlt : w < 8) (hfree : noneToCome (s.coreAt j) (x + 32 * n + 4 * w) 4)
    (b : Nat) (hb4 : b < 4) :
    Memory.byte (((s.granted j asks).landEntry j (.amo o x ws) y i n).coreAt j).scratch (x + 32 * n + 4 * w + b) =
      (amoWord o (memW (s.coreAt j).scratch (x + 32 * n + 4 * w)) (ws.getD (8 * n + w) 0)).extractLsb' (8 * b) 8 := by
  have hwords := length_amoWords ((s.granted j asks).coreAt j) o x l n ws hl hn
  have hfreeG : ∀ a, x + 32 * n + 4 * w ≤ a → a < x + 32 * n + 4 * w + 4 → ¬((s.granted j asks).coreAt j).awaits a := fun a h1 h2 ha =>
    not_awaits hfree a h1 h2 ((awaits_granted s j asks a).mp ha)
  rw [landEntry_amo (s.granted j asks) j o x l n y ws i hl hn (by rw [coreAt_granted]; exact hb)]
  obtain ⟨fresh, hj⟩ := coreAt_remotePut (s.granted j asks) j (x + 32 * n) (wordBytes (amoWords ((s.granted j asks).coreAt j) o x ws n)) y i true
  rw [hj, byte_remotely _ _ _ _ _ _ _ _ (hfreeG _ (by omega) (by omega)), if_pos ⟨by omega, by rw [length_wordBytes, hwords]; omega⟩,
    getD_wordBytes _ _ (by rw [hwords]; omega), show (x + 32 * n + 4 * w + b - (x + 32 * n)) / 4 = w by omega,
    show (x + 32 * n + 4 * w + b - (x + 32 * n)) % 4 = b by omega, getD_amoWords _ o x l n w ws hl hn hlt, bankLoad_eq _ 4 _ hfreeG]
  rw [coreAt_granted]
  rfl

/-- The updates of remote words, as they are computed. -/
theorem amoWord_eq : ∀ u ∈ remoteUpdates, ∀ o v : W32, amoWord u.1 o v = u.2 o v := by
  simp only [remoteUpdates, List.forall_mem_cons, List.not_mem_nil, false_implies, implies_true, and_true]
  refine ⟨fun o v => rfl, fun o v => rfl, fun o v => ?_, fun o v => ?_⟩
  · simp only [amoWord, BitVec.slt, decide_eq_true_eq]
  · simp only [amoWord, BitVec.slt, decide_eq_true_eq]

/-! ### Commits (R293) -/

theorem counters_commit (v : Nat) : ({ cbufOf v with acq := (cbufOf v).acq + 1, head := (cbufOf v).head + 1 } : Cbuf).counters v =
    withWord (withWord v 0x0C ((cbufOf v).head + 1)) 0x14 ((cbufOf v).acq + 1) := by
  generalize (cbufOf v).acq + 1 = a
  generalize (cbufOf v).head + 1 = b
  simp only [Cbuf.counters, cbufOf, natBits, BitVec.toNat_ofNat, withWord]
  have ha := a.isLt
  have hb := b.isLt
  omega

/-- A commit that finds a stage and its banks: the stage is written, then the object with its two counters, and the commit is noted. -/
theorem landCommit_appends (s : State) (j x y : Nat) (ws : List W32) (i : Word) (hin : x + 64 ≤ s.spEnd j)
    (hbad : badIn (s.coreAt j).badScratch x 64 = false) (hfree : noneToCome (s.coreAt j) x 64) (b : Cbuf)
    (hb : b = cbufOf (Memory.load (s.coreAt j).scratch x 64)) (hok : b.ok (s.spEnd j) = true) (hlen : 4 * ws.length ≤ b.ssize)
    (hhead : b.head = b.acq) (hroom : (b.acq - b.tail).toNat < b.stages) (hstage : noneToCome (s.coreAt j) (b.stage b.acq) (4 * ws.length))
    (hg : (s.coreAt j).grants (s.dieAt (keyDie j)).tick [⟨[(x, 64)], true⟩, ⟨[(b.stage b.acq, 4 * ws.length)], false⟩] = true) :
    ∃ t, s.landCommit j x ws y i = some t ∧ s.took t j ∧
      (t.coreAt j).commits = (s.coreAt j).commits ++ [⟨x, b.acq.toNat, y, i, (s.dieAt (keyDie j)).tick⟩] ∧
      (∀ k, k < 64 → Memory.byte (t.coreAt j).scratch (x + k) = BitVec.ofNat 8
        (withWord (withWord (Memory.load (s.coreAt j).scratch x 64) 0x0C (b.head + 1)) 0x14 (b.acq + 1) / 256 ^ k)) ∧
      ∀ z, z < x ∨ x + 64 ≤ z → Memory.byte (t.coreAt j).scratch z = if b.stage b.acq ≤ z ∧ z < b.stage b.acq + 4 * ws.length
        then (ws.getD ((z - b.stage b.acq) / 4) 0).extractLsb' (8 * ((z - b.stage b.acq) % 4)) 8 else Memory.byte (s.coreAt j).scratch z := by
  let asks : List Ask := [⟨[(x, 64)], true⟩, ⟨[(b.stage b.acq, 4 * ws.length)], false⟩]
  let v := Memory.load (s.coreAt j).scratch x 64
  let bs := leBytes 64 (({ b with acq := b.acq + 1, head := b.head + 1 } : Cbuf).counters v)
  let s1 := (s.granted j asks).remotePut j (b.stage b.acq) (wordBytes ws) y i false
  let s2 := s1.remotePut j x bs y i true
  have hload : (s.coreAt j).bankLoad x 64 = v := bankLoad_eq _ 64 x (not_awaits hfree)
  have hbs : bs.length = 64 := length_leBytes _ _
  obtain ⟨f1, h1⟩ := coreAt_remotePut (s.granted j asks) j (b.stage b.acq) (wordBytes ws) y i false
  obtain ⟨f2, h2⟩ := coreAt_remotePut s1 j x bs y i true
  have htook1 : s.took s1 j := stateTook_trans (stateTook_granted s j asks) (stateTook_remotePut _ j _ _ y i false)
  have hawaits : ∀ a, (s1.coreAt j).awaits a ↔ (s.coreAt j).awaits a := fun a => by rw [Core.awaits, Core.awaits, (htook1.1 j).2.2]
  have hcommits : (s2.coreAt j).commits = (s.coreAt j).commits := by
    rw [h2, commits_remotely, h1, commits_remotely, coreAt_granted]; rfl
  refine ⟨s2.onCoreAt j (fun c => { c with commits := c.commits ++ [⟨x, b.acq.toNat, y, i, (s.dieAt (keyDie j)).tick⟩] }), ?_,
    stateTook_trans (stateTook_trans htook1 (stateTook_remotePut s1 j x bs y i true)) (stateTook_onCoreAt s2 j _ (took_of_eq rfl)), ?_,
    fun k hk => ?_, fun z hz => ?_⟩
  · rw [State.landCommit]
    dsimp only
    rw [if_neg (Nat.not_lt.mpr hin), hbad, if_neg Bool.false_ne_true, hload, ← hb, hok, decide_eq_false (Nat.not_lt.mpr hlen), if_neg (by simp),
      if_neg]
    · rfl
    · rintro (hne | hle | hgr)
      · exact hne hhead
      · omega
      · exact Bool.false_ne_true (hgr.symm.trans hg)
  · rw [State.coreAt_onCoreAt_same]
    exact congrArg (· ++ _) hcommits
  · rw [State.coreAt_onCoreAt_same]
    show Memory.byte (s2.coreAt j).scratch (x + k) = _
    rw [h2, byte_remotely _ _ _ _ _ _ _ _ (fun ha => not_awaits hfree _ (by omega) (by omega) ((hawaits _).mp ha)),
      if_pos ⟨Nat.le_add_right _ _, by omega⟩, Nat.add_sub_cancel_left, getD_leBytes 64 _ k hk, hb, counters_commit]
  · rw [State.coreAt_onCoreAt_same]
    show Memory.byte (s2.coreAt j).scratch z = _
    rw [h2, byte_remotely_outside _ _ _ _ _ _ _ _ (by rw [hbs]; exact hz), h1]
    by_cases hin : b.stage b.acq ≤ z ∧ z < b.stage b.acq + 4 * ws.length
    · rw [if_pos hin, byte_remotely _ _ _ _ _ _ _ _ (fun ha => not_awaits hstage z hin.1 hin.2 ((awaits_granted s j asks z).mp ha)),
        if_pos (by rw [length_wordBytes]; exact hin), getD_wordBytes _ _ (by omega)]
    · rw [if_neg hin, byte_remotely_outside _ _ _ _ _ _ _ _ (by rw [length_wordBytes]; omega), coreAt_granted]
      rfl

/-- A commit arrives. -/
theorem commit_arrives {s : State} {die : DieNo} {core : CoreNo} {port : BitVec 4} {m : Sent} {j : Nat} (h : arriving s die core port m j)
    (x : Nat) (ws : List W32) (hop : m.op = .commit x ws) (hin : x + 64 ≤ s.spEnd j)
    (hbad : badIn (s.coreAt j).badScratch x 64 = false) (hfree : noneToCome (s.coreAt j) x 64) (b : Cbuf)
    (hb : b = cbufOf (Memory.load (s.coreAt j).scratch x 64)) (hok : b.ok (s.spEnd j) = true) (hlen : 4 * ws.length ≤ b.ssize)
    (hhead : b.head = b.acq) (hroom : (b.acq - b.tail).toNat < b.stages) (hstage : noneToCome (s.coreAt j) (b.stage b.acq) (4 * ws.length))
    (hg : (s.coreAt j).grants (s.dieAt (keyDie j)).tick [⟨[(x, 64)], true⟩, ⟨[(b.stage b.acq, 4 * ws.length)], false⟩] = true) :
    ∃ t, exec (.remoteCommit die core port) s = .next t ∧ s.framed t j ∧ (t.coreAt (coreKey die core)).sendQ port.toNat = [] ∧
      memW (t.coreAt j).scratch (x + 0x0C) = b.head + 1 ∧ memW (t.coreAt j).scratch (x + 0x14) = b.acq + 1 ∧
      (t.coreAt j).commits = (s.coreAt j).commits ++
        [⟨x, b.acq.toNat, (s.coreAt (coreKey die core)).lcore, m.interval, (s.dieAt (keyDie j)).tick⟩] ∧
      (∀ z, z < x ∨ x + 64 ≤ z → Memory.byte (t.coreAt j).scratch z = if b.stage b.acq ≤ z ∧ z < b.stage b.acq + 4 * ws.length
        then (ws.getD ((z - b.stage b.acq) / 4) 0).extractLsb' (8 * ((z - b.stage b.acq) % 4)) 8 else Memory.byte (s.coreAt j).scratch z) ∧
      ∀ y, y < 64 → ¬(0x0C ≤ y ∧ y < 0x10) → ¬(0x14 ≤ y ∧ y < 0x18) →
        Memory.byte (t.coreAt j).scratch (x + y) = Memory.byte (s.coreAt j).scratch (x + y) := by
  obtain ⟨t, ht, htook, hcommits, hobj, hout⟩ := landCommit_appends s j x (s.coreAt (coreKey die core)).lcore ws m.interval hin hbad hfree b hb hok hlen
    hhead hroom hstage hg
  have harr : s.arrival j m.rport m.op m.applied (s.coreAt (coreKey die core)).lcore m.interval = .over t := by
    rw [hop, State.arrival, ht]
  obtain ⟨u, hu, hframe, hgone, hx⟩ := deliver_over h (kind := fun o => match o with | .commit _ _ => true | _ => false) (by rw [hop]) htook harr
  have hbyte : ∀ z, Memory.byte (u.coreAt j).scratch z = Memory.byte (t.coreAt j).scratch z := fun z => by rw [hx j]
  refine ⟨u, hu, hframe, hgone, memW_of_bytes _ _ _ (fun i hi => ?_), memW_of_bytes _ _ _ (fun i hi => ?_), ?_, fun z hz => (hbyte z).trans (hout z hz),
    fun y hy h1 h2 => ?_⟩
  · rw [hbyte, Nat.add_assoc, hobj _ (by omega), byte_withWord, if_neg (by omega), byte_withWord, if_pos (by omega), Nat.add_sub_cancel_left]
  · rw [hbyte, Nat.add_assoc, hobj _ (by omega), byte_withWord, if_pos (by omega), Nat.add_sub_cancel_left]
  · rw [hx j]; exact hcommits
  · rw [hbyte, hobj y hy, byte_withWord, if_neg (by omega), byte_withWord, if_neg (by omega), byte_eq_load _ x 64 y hy]

/-- Settles O46: each kind of operation by its arrival (`message_arrives`, `deliver_entries`, `commit_arrives`, `beyond_raises`), entries of a port by
`lrecv_takes`, mesh entries by `mesh_arrives` and `mesh_lost`, and a stall that lasts too long by `linkstall_raises`. -/
theorem linkArrivals : Obligations.LinkArrivals := by
  intro s die core port m j d f dir
  refine ⟨lrecv_held s d f port, lrecv_takes s d f port, fun h => ⟨fun es hop => ⟨message_arrives h es hop, message_waits h es hop⟩,
    fun x ws hop hout hf => ?_, fun o x ws hop hout hf => ?_, fun x ws hop hfit l hl ha hg hb => ?_, fun u hu x ws hop hfit l hl ha hg hb => ?_,
    fun x ws hop hin hbad hfree hok hlen hhead hroom hstage hg => commit_arrives h x ws hop hin hbad hfree _ rfl hok hlen hhead hroom hstage hg⟩,
    fun due e r hq hd hle => ⟨mesh_lost s die core dir due e r hq hd hle, fun i ht => mesh_arrives s die core dir due e r i hq hd hle ht⟩,
    fun tick delay p slot => ⟨rfl, rfl, rfl, rfl⟩, linkstall_raises s die core⟩
  · refine beyond_raises h (kind := fun o => match o with | .put _ _ => true | _ => false) (by rw [hop]) x hf ?_
    rw [hop, State.arrival, LOp.beyond, if_pos hout]
  · refine beyond_raises h (kind := fun o => match o with | .amo _ _ _ => true | _ => false) (by rw [hop]) x hf ?_
    rw [hop, State.arrival, LOp.beyond, if_pos hout]
  · have hask : m.op.ask m.applied = ⟨[(x + 32 * m.applied, 32)], false⟩ := by rw [hop, LOp.ask, entryArea_eq x l _ ws hl ha]
    obtain ⟨t, ht, hframe, hgone, hin, hout⟩ := deliver_entries h (kind := fun o => match o with | .put _ _ => true | _ => false) (by rw [hop])
      (.inl hop) hl hfit ha (by rw [hask]; exact hg)
    refine ⟨t, ht, hframe, hgone, fun y hy hfree => ?_, hout⟩
    rw [hop] at hin
    exact (hin _ (by omega) (by omega)).trans (byte_landEntry_put s j x l m.applied _ ws m.interval _ hl ha hb y hy hfree)
  · have hask : m.op.ask m.applied = ⟨[(x + 32 * m.applied, 32)], true⟩ := by rw [hop, LOp.ask, entryArea_eq x l _ ws hl ha]
    obtain ⟨t, ht, hframe, hgone, hin, hout⟩ := deliver_entries h (kind := fun o => match o with | .amo _ _ _ => true | _ => false) (by rw [hop])
      (.inr ⟨u.1, hop⟩) hl hfit ha (by rw [hask]; exact hg)
    refine ⟨t, ht, hframe, hgone, fun w hw hfree => memW_of_bytes _ _ _ (fun b hb4 => ?_), hout⟩
    rw [hop] at hin
    rw [← amoWord_eq u hu]
    exact (hin _ (by omega) (by omega)).trans (word_landEntry_amo s j u.1 x l m.applied _ ws m.interval _ hl ha hb w hw hfree b hb4)

end Sys2Proof.Machine
end

section
/-! PROOFS. The scope: vector stores and scatters. -/

namespace Sys2Proof.Machine
open Sys2Proof.Says

/-! ### The last of the elements that write a byte (R169) -/

/-- The highest of the elements below `n` that a mask allows and whose `z` bytes hold a byte. -/
def lastWriter (z : Nat) (pick : Nat → Bool) (addr : Nat → Word) (n x : Nat) : Option Nat :=
  ((List.range n).filter (fun i => pick i && decide ((addr i).toNat ≤ x ∧ x < (addr i).toNat + z))).getLast?

/-- Only the elements below `n` of a vector that a mask allows have been stored at their addresses, the higher last. -/
def StoresElems (s : State) (z : Nat) (pick : Nat → Bool) (addr : Nat → Word) (val : Nat → W32) (t : State) (n : Nat) : Prop :=
  alone s t ∧ t.core = { s.core with scratch := t.core.scratch, badScratch := t.core.badScratch, passes := t.core.passes } ∧
    (∀ u ∈ t.core.badScratch, u ∈ s.core.badScratch) ∧
    (∀ x, sp t x = (lastWriter z pick addr n x).elim (sp s x) (fun i => (val i).extractLsb' (8 * (x - (addr i).toNat)) 8)) ∧
    (s.core.passes = [] → t.core.passes = [])

theorem lastWriter_succ (z : Nat) (pick : Nat → Bool) (addr : Nat → Word) (n x : Nat) : lastWriter z pick addr (n + 1) x =
    if pick n && decide ((addr n).toNat ≤ x ∧ x < (addr n).toNat + z) then some n else lastWriter z pick addr n x := by
  rw [lastWriter, List.range_succ, List.filter_append, List.getLast?_append, List.filter_singleton]
  cases pick n && decide ((addr n).toNat ≤ x ∧ x < (addr n).toNat + z)
  · exact Option.none_or
  · rfl

/-- A byte of an element. -/
theorem getD_leBytes_elem (z : Nat) (v : W32) (i : Nat) (hi : i < z) : (leBytes z v.toNat).getD i 0 = v.extractLsb' (8 * i) 8 := by
  apply BitVec.eq_of_toNat_eq
  rw [getD_leBytes z _ i hi, BitVec.toNat_ofNat, BitVec.extractLsb'_toNat, Nat.shiftRight_eq_div_pow, pow_mul,
    show (256 : Nat) = 2 ^ 8 by norm_num]

/-! ### Elements stored in order -/

section
variable (s : State) (z : Nat) (pick : Nat → Bool) (addr : Nat → Word) (val : Nat → W32)

theorem storesElems_zero : StoresElems s z pick addr val s 0 :=
  ⟨⟨fun _ _ => rfl, rfl, rfl, rfl, rfl, rfl⟩, rfl, fun _ h => h, fun _ => rfl, fun h => h⟩

theorem alone_putAt (t : State) (x : Nat) (bs : List Byte) : alone t (t.putAt t.cur x bs) := by
  have h := alone_onCore t (fun c => c.putBytes t.fresh x bs)
  rw [State.putAt]
  split
  · exact h
  · exact h

variable {s z pick addr val} {t : State} {n : Nat}

/-- An element that the mask does not allow is not stored. -/
theorem storesElems_skip (h : StoresElems s z pick addr val t n) (hp : ¬pick n = true) : StoresElems s z pick addr val t (n + 1) := by
  obtain ⟨halone, hcore, hbad, hbyte, hpasses⟩ := h
  exact ⟨halone, hcore, hbad, fun x => by rw [lastWriter_succ, if_neg (by simp [hp]), hbyte x], hpasses⟩

/-- An element is stored over those before it. -/
theorem storesElems_put (h : StoresElems s z pick addr val t n) (hp : pick n = true) :
    StoresElems s z pick addr val (t.putAt t.cur (addr n).toNat (leBytes z (val n).toNat)) (n + 1) := by
  obtain ⟨halone, hcore, hbad, hbyte, hpasses⟩ := h
  obtain ⟨-, hput⟩ := core_putAt t (addr n).toNat (leBytes z (val n).toNat)
  refine ⟨alone_trans halone (alone_putAt t _ _), ?_, fun u hu => ?_, fun x => ?_, fun hs => ?_⟩
  · rw [hput, hcore]; rfl
  · rw [hput] at hu
    exact hbad u (List.mem_of_mem_filter hu)
  · rw [lastWriter_succ, hp, Bool.true_and, sp, hput]
    refine (Memory.byte_setBytes _ _ _ _).trans ?_
    rw [length_leBytes]
    by_cases hx : (addr n).toNat ≤ x ∧ x < (addr n).toNat + z
    · rw [if_pos hx, if_pos (decide_eq_true hx), getD_leBytes_elem z _ _ (by omega)]; rfl
    · rw [if_neg hx, if_neg (by simpa using hx)]
      exact hbyte x
  · rw [hput]
    show t.core.passes.map _ = []
    rw [hpasses hs]; rfl

/-- Elements that can all be written are stored in order. -/
theorem storeElems_ok : ∀ fuel n t, StoresElems s z pick addr val t n →
    (∀ j, n ≤ j → j < n + fuel → pick j = true → fits s (addr j).toNat z ∧ badPartly s.core.badScratch (addr j).toNat z = false) →
    ∃ u l, storeElems z pick addr val fuel n t = (l, n + fuel, u) ∧ StoresElems s z pick addr val u (n + fuel) ∧
      ∀ e ∈ l, e.1 < n + fuel ∧ pick e.1 = true := by
  intro fuel
  induction fuel with
  | zero => intro n t h _; exact ⟨t, [], rfl, h, fun e he => absurd he List.not_mem_nil⟩
  | succ fuel ih =>
    intro n t h hgood
    have hrest : ∀ j, n + 1 ≤ j → j < n + 1 + fuel → pick j = true →
        fits s (addr j).toNat z ∧ badPartly s.core.badScratch (addr j).toNat z = false := fun j h1 h2 => hgood j (by omega) (by omega)
    rw [storeElems, show n + (fuel + 1) = n + 1 + fuel by omega]
    by_cases hp : pick n = true
    · obtain ⟨hfit, hbad⟩ := hgood n le_rfl (by omega) hp
      obtain ⟨⟨-, -, -, -, hcur, -⟩, hcore, hsub, -⟩ := id h
      have hlen : t.core.scratchLen = s.core.scratchLen := by rw [hcore]
      have hwrite : spWrite t 1 n (addr n).toNat z (leBytes z (val n).toNat) = .ok (t.putAt t.cur (addr n).toNat (leBytes z (val n).toNat)) () := by
        rw [spWrite, length_leBytes, (reaches_iff t _ z z).mpr ((reaches_congr hcur hlen _ z z).mpr hfit), badPartly_of_subset hsub hbad]; rfl
      obtain ⟨u, l, hu, hstores, hl⟩ := ih (n + 1) _ (storesElems_put h hp) hrest
      rw [if_pos hp]
      dsimp only
      rw [hwrite]
      dsimp only
      rw [hu]
      exact ⟨u, _, rfl, hstores, List.forall_mem_cons.mpr ⟨⟨by omega, hp⟩, hl⟩⟩
    · obtain ⟨u, l, hu, hstores, hl⟩ := ih (n + 1) t (storesElems_skip h hp) hrest
      rw [if_neg hp]
      exact ⟨u, l, hu, hstores, hl⟩

end

/-! ### The end of a V instruction without flags -/

theorem core_vEnd (s t : State) (reads : List Reg) (lat : Nat) (fly : Option Fly) : (s.vEnd t reads lat 0 fly).core =
    { t.core with vfly := fly.map (fun g => { g with flags := 0 }), meshRecv := (t.core.popDirs (s.dirs reads)).meshRecv } := by
  have hcore : (s.vEnd t reads lat 0 fly).core =
      { (t.core.popDirs (s.dirs reads)).addFlags lat 0 with vfly := fly.map (fun g => { g with flags := 0 }) } := State.core_onCore _ _
  rw [hcore, Core.addFlags_eq, Core.popDirs_eq]
  rfl

/-! ### Stores and scatters -/

theorem touchAll_store_quiet (s : State) (slot : Nat) (areas : List (Nat × Nat)) (h : ∀ r ∈ areas, quiet s .store r.1 r.2) :
    s.touchAll .store slot areas = s.onCore (Core.noteStore s.core.interval areas) := by
  rw [State.touchAll, State.touchAllAt, conflictIn_none s.core .store areas h]; rfl

/-- A vector store whose elements can all be written. -/
theorem vStore_stores (s : State) (d : Reg) (reads : List Reg) (c : VCtl) (busy z : Nat) (addr : Nat → Word) (h : leads s (d :: reads))
    (hgood : ∀ i, i < foldN c.fold → s.maskBit c.m i = true →
      fits s (addr i).toNat z ∧ badPartly s.core.badScratch (addr i).toNat z = false ∧ quiet s .store (addr i).toNat z) :
    ∃ t, vStore s d reads c busy z addr = .next t ∧ alone s t ∧
      t.core = { s.core with scratch := t.core.scratch, badScratch := t.core.badScratch, passes := t.core.passes, shadows := t.core.shadows,
                             vfly := t.core.vfly, meshRecv := t.core.meshRecv } ∧
      (∀ x, sp t x = (lastWriter z (s.maskBit c.m) addr (foldN c.fold) x).elim (sp s x)
        (fun i => (s.vsrc d i).extractLsb' (8 * (x - (addr i).toNat)) 8)) ∧
      (∀ dir, SMap.get [] t.core.meshRecv dir = (SMap.get [] s.core.meshRecv dir).drop (if dir ∈ s.dirs (d :: reads) then 1 else 0)) ∧
      (s.core.passes = [] → t.core.passes = []) := by
  obtain ⟨u, l, hu, hst, hl⟩ := storeElems_ok (foldN c.fold) 0 s (storesElems_zero s z (s.maskBit c.m) addr (s.vsrc d)) (fun j _ hj hp =>
    ⟨(hgood j (by omega) hp).1, (hgood j (by omega) hp).2.1⟩)
  rw [Nat.zero_add] at hu hst hl
  obtain ⟨halone, hcore, -, hbyte, hpasses⟩ := hst
  have hquiet : ∀ r ∈ l.map (fun e => ((addr e.1).toNat, z)), quiet u .store r.1 r.2 := fun r hr => by
    obtain ⟨e, he, rfl⟩ := List.mem_map.mp hr
    obtain ⟨hi, hp⟩ := hl e he
    obtain ⟨-, -, hq⟩ := hgood e.1 hi hp
    exact (conflictAt_congr (by rw [hcore]) (by rw [hcore]) (by rw [hcore]) .store _ _).trans hq
  rw [vStore]
  dsimp only
  rw [hu]
  dsimp only
  rw [touchAll_store_quiet u 1 _ hquiet]
  refine ⟨_, vGuard_leads _ _ _ h, alone_trans (alone_trans halone (alone_onCore u _)) (alone_onCore _ _), ?_⟩
  rw [core_vEnd, State.core_onCore, noteStore_eq]
  refine ⟨?_, fun x => ?_, fun dir => ?_, hpasses⟩
  · rw [hcore]
  · rw [← hbyte x, sp, core_vEnd, State.core_onCore, noteStore_eq]; rfl
  · refine (Core.get_popDirs _ _ dir (State.dirs_nodup s _)).trans ?_
    rw [hcore]

/-- Each store form is a vector store to its addresses. -/
theorem exec_vStores (s : State) (d a b : Reg) (c : VCtl) : ∀ e ∈ vStores s d a b c, ∃ (reads : List Reg) (busy : Nat) (addr : Nat → Word),
    exec e.1 s = vStore s d reads c busy e.2.2.1 addr ∧ e.2.1 = d :: reads ∧ ∀ i, (addr i).toNat = e.2.2.2 i := by
  simp only [vStores, List.forall_mem_cons, List.not_mem_nil, false_implies, implies_true, and_true]
  exact ⟨⟨[], _, strided s a b 4, rfl, rfl, fun _ => rfl⟩, ⟨[], _, strided s a b 2, rfl, rfl, fun _ => rfl⟩,
    ⟨[], _, strided s a b 1, rfl, rfl, fun _ => rfl⟩, [b], _, indexed s a b, rfl, rfl, fun _ => rfl⟩

/-- Settles O17: each form is a vector store (`exec_vStores`), which leaves in a byte what the last of its elements to write it holds
(`vStore_stores`). -/
theorem vectorStores : Obligations.VectorStores := by
  intro s d a b c e he hl
  obtain ⟨reads, busy, addr, hexec, hreads, haddr⟩ := exec_vStores s d a b c e he
  simp only [← haddr]
  rw [hreads] at hl ⊢
  rw [hexec]
  intro hgood
  obtain ⟨t, ht, halone, hcore, hbyte, hrecv, hpasses⟩ := vStore_stores s d reads c busy e.2.2.1 addr hl hgood
  refine ⟨t, ht, halone, hcore, fun x => ?_, hrecv, hpasses⟩
  rw [hbyte x]
  split
  · next hw => rw [show lastWriter e.2.2.1 (s.maskBit c.m) addr (foldN c.fold) x = none from hw]; rfl
  · next i hw => rw [show lastWriter e.2.2.1 (s.maskBit c.m) addr (foldN c.fold) x = some i from hw]; rfl

end Sys2Proof.Machine
end

section
/-! PROOFS. The scope: vector loads and gathers, and where they stop. -/

namespace Sys2Proof.Machine
open Sys2Proof.Says

/-! ### Elements loaded in order (R169) -/

theorem extend32_signed (z v : Nat) (hz : 0 < z) : extend32 z true v = (BitVec.ofNat (8 * z) v).signExtend 32 := by
  rw [BitVec.signExtend, toInt_ofNat_eq_signedNat _ _ (by omega)]; rfl

/-- The elements that a mask allows among those from `i` on, with the numbers at their addresses. -/
def loadedElems (s : State) (z : Nat) (pick : Nat → Bool) (addr : Nat → Word) (i n : Nat) : List (Nat × Nat) :=
  ((List.range' i n).filter pick).map (fun j => (j, Memory.load s.core.scratch (addr j).toNat z))

/-- The loads of elements that can be read come before those of the elements after them. -/
theorem loadElems_add (s : State) (z : Nat) (pick : Nat → Bool) (addr : Nat → Word) (fuel : Nat) : ∀ n i m,
    (∀ j, i ≤ j → j < i + n → pick j = true → fits s (addr j).toNat z ∧ readable s (addr j).toNat z) →
    ∃ m', loadElems z pick addr (n + fuel) i { s with fresh := m } =
      (loadedElems s z pick addr i n ++ (loadElems z pick addr fuel (i + n) { s with fresh := m' }).1,
        (loadElems z pick addr fuel (i + n) { s with fresh := m' }).2) := by
  intro n
  induction n with
  | zero => intro i m _; exact ⟨m, by rw [Nat.zero_add]; rfl⟩
  | succ n ih =>
    intro i m h
    have hrest : ∀ j, i + 1 ≤ j → j < i + 1 + n → pick j = true → fits s (addr j).toNat z ∧ readable s (addr j).toNat z :=
      fun j h1 h2 => h j (by omega) (by omega)
    rw [Nat.succ_add_eq_add_succ n fuel, Nat.add_succ, loadElems, show i + (n + 1) = i + 1 + n by omega, loadedElems, List.range'_succ]
    by_cases hp : pick i = true
    · obtain ⟨hfit, hread⟩ := h i le_rfl (by omega) hp
      obtain ⟨k, hk⟩ := spRead_ok { s with fresh := m } 1 i hfit hread
      obtain ⟨m', hm⟩ := ih (i + 1) k hrest
      refine ⟨m', ?_⟩
      rw [if_pos hp, hk, List.filter_cons_of_pos hp]
      dsimp only
      rw [hm]
      rfl
    · obtain ⟨m', hm⟩ := ih (i + 1) m hrest
      refine ⟨m', ?_⟩
      rw [if_neg hp, hm, List.filter_cons_of_neg hp]
      rfl

/-- The number loaded for an element. -/
theorem loadedAt_loadedElems (s : State) (z : Nat) (pick : Nat → Bool) (addr : Nat → Word) (n i : Nat) :
    loadedAt (loadedElems s z pick addr 0 n) i = if i < n ∧ pick i = true then some (Memory.load s.core.scratch (addr i).toNat z) else none := by
  induction n with
  | zero => rw [if_neg (by omega)]; rfl
  | succ n ih =>
    rw [loadedElems, ← List.range_eq_range'] at ih ⊢
    rw [List.range_succ, List.filter_append, List.map_append, loadedAt, List.find?_append, Option.map_or]
    rw [loadedAt] at ih
    rw [ih]
    by_cases hi : i = n
    · subst hi
      rw [if_neg (by omega)]
      by_cases hp : pick i = true <;> simp [hp]
    · have hlt : i < n + 1 ↔ i < n := by omega
      simp only [hlt]
      by_cases hp : pick n = true <;> simp [hp, Ne.symm hi]

/-- The elements loaded go into a vector as a mask allows. -/
theorem loadedElems_masked (s : State) (z : Nat) (m : Reg3) (addr : Nat → Word) (signed : Bool) (n : Nat) :
    (fun i => if i < n ∧ (loadedAt (loadedElems s z (s.maskBit m) addr 0 n) i).isSome = true
      then some (extend32 z signed ((loadedAt (loadedElems s z (s.maskBit m) addr 0 n) i).getD 0)) else none) =
      masked s m n (fun i => extend32 z signed (Memory.load s.core.scratch (addr i).toNat z)) := by
  funext i
  rw [loadedAt_loadedElems, masked]
  by_cases h : i < n ∧ s.maskBit m i = true
  · rw [if_pos h, if_pos h, if_pos ⟨h.1, rfl⟩]; rfl
  · rw [if_neg h, if_neg h, if_neg (by simp)]

/-- The registers that name directions depend on the mode of the core in hand alone. -/
theorem isDir_congr {s t : State} (hcur : t.cur = s.cur) (hmesh : t.core.mesh = s.core.mesh) (r : Reg) : t.isDir r = s.isDir r := by
  rw [State.isDir, State.isDir, State.meshOn, State.meshOn, State.sup, State.sup, hcur, hmesh]

/-- No vector has been given yet where a free value has been used up. -/
theorem putsV_fresh (s : State) (m : Nat) : PutsV s { s with fresh := m } [] :=
  ⟨(putsV_nil s).alone, rfl, (putsV_nil s).elem, (putsV_nil s).sent⟩

section
variable (s : State) (d : Reg) (reads : List Reg) (c : VCtl) (busy lat z : Nat) (signed : Bool) (addr : Nat → Word)

/-- The areas of the elements loaded raise no conflict. -/
theorem loadedElems_quiet (n : Nat) (h : ∀ i, i < n → s.maskBit c.m i = true → readable s (addr i).toNat z) :
    ∀ r ∈ (loadedElems s z (s.maskBit c.m) addr 0 n).map (fun e => ((addr e.1).toNat, z)), quiet s .load r.1 r.2 := by
  intro r hr
  simp only [loadedElems, List.map_map, List.mem_map, List.mem_filter, List.mem_range'_1] at hr
  obtain ⟨i, ⟨hi, hp⟩, rfl⟩ := hr
  obtain ⟨-, -, hq⟩ := h i (by omega) hp
  exact hq

/-- A vector load whose elements can all be read. -/
theorem vLoad_sets (h : leads s (d :: reads))
    (hgood : ∀ i, i < foldN c.fold → s.maskBit c.m i = true → fits s (addr i).toNat z ∧ readable s (addr i).toNat z) :
    ∃ t, vLoad s d reads c busy lat z signed addr = .next t ∧ setsV s t reads
      [(d, masked s c.m (foldN c.fold) (fun i => extend32 z signed (Memory.load s.core.scratch (addr i).toNat z)))] lat 0 := by
  obtain ⟨m, hr⟩ := loadElems_add s z (s.maskBit c.m) addr 0 (foldN c.fold) 0 s.fresh (fun j _ hj => hgood j (by omega))
  rw [loadElems, List.append_nil, Nat.zero_add, Nat.add_zero] at hr
  have hquiet := loadedElems_quiet s c z addr (foldN c.fold) (fun i hi hp => (hgood i hi hp).2)
  have hputs := putsV_vdst (putsV_fresh s m) d (foldN c.fold)
    (fun i => (loadedAt (loadedElems s z (s.maskBit c.m) addr 0 (foldN c.fold)) i).isSome)
    (fun i => extend32 z signed ((loadedAt (loadedElems s z (s.maskBit c.m) addr 0 (foldN c.fold)) i).getD 0)) (foldN_le c.fold) (by simp)
  rw [loadedElems_masked] at hputs
  rw [vLoad]
  dsimp only
  rw [hr]
  dsimp only
  rw [touchAll_load_quiet { s with fresh := m } 1 _ hquiet, if_neg (by simp)]
  exact ⟨_, vGuard_leads _ _ _ h, setsV_of_putsV hputs _ _ _ _⟩

/-- The first fault of a core, as it stands after the raise. -/
theorem core_raise (v : State) (code : Byte) (slot : Nat) (elem a : Word) (hf : v.core.fault = none) :
    ∃ h, (v.raise code slot elem a).core = { v.core with fault := some ⟨code, v.core.pos.row, elem, slot, a⟩, halt := h } := by
  obtain ⟨hc, -, hfault, -⟩ := raise_faults v ⟨code, v.core.pos.row, elem, slot, a⟩
  rw [hf] at hfault
  refine ⟨(v.raise code slot elem a).core.halt, (hc v.cur).trans ?_⟩
  exact congrArg (fun f => { v.core with fault := f, halt := (v.raise code slot elem a).core.halt }) hfault

/-- A vector load stops at the first element that is not aligned or not in range. -/
theorem vLoad_stops (h : leads s (d :: reads)) (j : Nat) (hj : j < foldN c.fold) (hp : s.maskBit c.m j = true) (hstop : ¬fits s (addr j).toNat z)
    (hdir : s.isDir d = false) (hfault : s.core.fault = none)
    (hgood : ∀ i, i < j → s.maskBit c.m i = true → fits s (addr i).toNat z ∧ readable s (addr i).toNat z) :
    ∃ t, vLoad s d reads c busy lat z signed addr = .next t ∧
      t.core.fault = some ⟨cSPBOUND, s.core.pos.row, BitVec.ofNat 64 j, 1, BitVec.ofNat 64 (addr j).toNat⟩ ∧ t.core.scratch = s.core.scratch ∧
      ∀ r i, i < 64 → laterV t r i =
        if r = d ∧ i < j ∧ s.maskBit c.m i = true then extend32 z signed (Memory.load s.core.scratch (addr i).toNat z) else laterV s r i := by
  obtain ⟨k, hk⟩ := Nat.exists_eq_add_of_lt hj
  obtain ⟨m, hr⟩ := loadElems_add s z (s.maskBit c.m) addr (k + 1) j 0 s.fresh (fun i _ hi => hgood i (by omega))
  rw [loadElems, Nat.zero_add, if_pos hp, spRead_bound (s := { s with fresh := m }) 1 j hstop, List.append_nil, ← Nat.add_assoc, ← hk] at hr
  generalize hw : ({ s with fresh := m } : State).raise cSPBOUND 1 (BitVec.ofNat 64 j) (BitVec.ofNat 64 (addr j).toNat) = w at hr
  obtain ⟨hlt, hcore⟩ := core_raise { s with fresh := m } cSPBOUND 1 (BitVec.ofNat 64 j) (BitVec.ofNat 64 (addr j).toNat) hfault
  rw [hw] at hcore
  have hcur : w.cur = s.cur := by rw [← hw]; rfl
  have hquiet : ∀ r ∈ (loadedElems s z (s.maskBit c.m) addr 0 j).map (fun e => ((addr e.1).toNat, z)), quiet w .load r.1 r.2 := fun r hr =>
    (conflictAt_congr (by rw [hcore]; rfl) (by rw [hcore]; rfl) (by rw [hcore]; rfl) .load _ _).trans
      (loadedElems_quiet s c z addr j (fun i hi hp => (hgood i hi hp).2) r hr)
  have hwdir : w.isDir d = false := (isDir_congr hcur (by rw [hcore]; rfl) d).trans hdir
  rw [vLoad]
  dsimp only
  rw [hr]
  dsimp only
  rw [touchAll_load_quiet w 1 _ hquiet, if_neg (by simp [hdir]), if_pos hj]
  refine ⟨_, vGuard_leads _ _ _ h, ?_⟩
  rw [core_vEnd, vdst_core, hwdir, if_neg Bool.false_ne_true, hcore]
  refine ⟨rfl, rfl, fun r i hi => ?_⟩
  rw [laterV, laterV, Core.rdV_beginRow, Core.rdV_beginRow, core_vEnd, vdst_core, hwdir, if_neg Bool.false_ne_true, hcore]
  refine (get_putElems_reg _ _ _ _ _ _ _ _ (foldN_le c.fold) hi).trans ?_
  by_cases hr : r = d
  · subst hr
    rw [loadedAt_loadedElems]
    by_cases hi : i < j ∧ s.maskBit c.m i = true
    · rw [if_pos hi, if_pos ⟨rfl, by omega, rfl⟩, if_pos ⟨rfl, hi⟩]; rfl
    · rw [if_neg hi, if_neg (by simp), if_neg (fun q => hi q.2)]; rfl
  · rw [if_neg (fun q => hr (BitVec.eq_of_toNat_eq q.1)), if_neg (fun q => hr q.1)]
    rfl

end

/-- Each load form is a vector load from its addresses, and gives its numbers the sign or the zeros of their size. -/
theorem exec_vLoads (s : State) (d a b : Reg) (c : VCtl) : ∀ e ∈ vLoads s d a b c, ∃ (busy : Nat) (signed : Bool) (addr : Nat → Word),
    exec e.1 s = vLoad s d e.2.1 c busy (e.2.2.1 + 4) e.2.2.2.1 signed addr ∧ (∀ i, (addr i).toNat = e.2.2.2.2.1 i) ∧
      ∀ v, extend32 e.2.2.2.1 signed v = e.2.2.2.2.2 v := by
  have zeros : ∀ z v, extend32 z false v = BitVec.ofNat 32 v := fun _ _ => rfl
  simp only [vLoads, List.forall_mem_cons, List.not_mem_nil, false_implies, implies_true, and_true]
  exact ⟨⟨_, false, strided s a b 4, rfl, fun _ => rfl, zeros 4⟩,
    ⟨_, true, strided s a b 2, rfl, fun _ => rfl, fun v => extend32_signed 2 v (by decide)⟩,
    ⟨_, false, strided s a b 2, rfl, fun _ => rfl, zeros 2⟩,
    ⟨_, true, strided s a b 1, rfl, fun _ => rfl, fun v => extend32_signed 1 v (by decide)⟩,
    ⟨_, false, strided s a b 1, rfl, fun _ => rfl, zeros 1⟩, _, false, indexed s a b, rfl, fun _ => rfl, zeros 4⟩

/-- Settles O16: each form is a vector load (`exec_vLoads`), which takes all its elements (`vLoad_sets`) or stops at the first that is not aligned or
not in range (`vLoad_stops`). -/
theorem vectorLoads : Obligations.VectorLoads := by
  intro s d a b c e he hl
  obtain ⟨busy, signed, addr, hexec, haddr, hval⟩ := exec_vLoads s d a b c e he
  simp only [← haddr, ← hval]
  rw [hexec]
  exact ⟨fun h => vLoad_sets s d e.2.1 c busy _ _ signed addr hl h,
    fun j hj hp hstop hdir hfault h => vLoad_stops s d e.2.1 c busy _ _ signed addr hl j hj hp hstop hdir hfault h⟩

end Sys2Proof.Machine
end

section
/-! PROOFS. The scope: elementwise integer instructions of the V slot. -/

namespace Sys2Proof.Machine
open Sys2Proof.Says

/-! ### Integer elements (R30, R31, R49, R158) -/

theorem mulh32_eq (x y : W32) : mulh32 x y = ((x.signExtend 64 * y.signExtend 64) >>> (32 : Nat)).setWidth 32 := by
  have hp : x.signExtend 64 * y.signExtend 64 = BitVec.ofInt 64 (x.toInt * y.toInt) := by
    rw [BitVec.ofInt_mul]; rfl
  apply BitVec.eq_of_toNat_eq
  rw [hp, mulh32, BitVec.toNat_ofInt, BitVec.toNat_setWidth, BitVec.toNat_ushiftRight, BitVec.toNat_ofInt, Nat.shiftRight_eq_div_pow]
  generalize x.toInt * y.toInt = z
  omega

theorem mulhu32_eq (x y : W32) : mulhu32 x y = ((x.setWidth 64 * y.setWidth 64) >>> (32 : Nat)).setWidth 32 := by
  have hp : x.toNat * y.toNat < 2 ^ 64 := by
    calc x.toNat * y.toNat < 2 ^ 32 * 2 ^ 32 := Nat.mul_lt_mul'' x.isLt y.isLt
      _ = 2 ^ 64 := by norm_num
  apply BitVec.eq_of_toNat_eq
  rw [mulhu32, BitVec.toNat_ofNat, BitVec.toNat_setWidth, BitVec.toNat_ushiftRight, BitVec.toNat_mul, BitVec.toNat_setWidth, BitVec.toNat_setWidth,
    Nat.shiftRight_eq_div_pow, Nat.mod_eq_of_lt (a := x.toNat) (by omega), Nat.mod_eq_of_lt (a := y.toNat) (by omega), Nat.mod_eq_of_lt hp]

/-- Clamping to the range of uint32, written with minimum and maximum. -/
theorem satU_eq (v : Int) :
    satU v = (BitVec.ofInt 32 (max 0 (min 4294967295 v)), if 0 ≤ v ∧ v ≤ 4294967295 then 0 else fSAT) := by
  have hu : ((2 ^ 32 : Nat) : Int) - 1 = 4294967295 := by norm_num
  simp only [satU, hu]
  by_cases h1 : v < 0
  · rw [if_pos h1, if_neg (by omega), show max 0 (min 4294967295 v) = 0 by omega]; rfl
  · by_cases h2 : 4294967295 < v
    · rw [if_neg h1, if_pos h2, if_neg (by omega), show max 0 (min 4294967295 v) = 4294967295 by omega]; rfl
    · rw [if_neg h1, if_neg h2, if_pos (by omega), show max 0 (min 4294967295 v) = v by omega]

theorem min32_eq (x y : W32) : min32 x y = if x.sle y then x else y := by
  simp only [min32, BitVec.sle_iff_toInt_le, ← Int.not_lt, ite_not]

theorem max32_eq (x y : W32) : max32 x y = if x.sle y then y else x := by
  simp only [BitVec.sle_iff_toInt_le]
  exact ite_lt_eq_ite_le BitVec.toInt (fun _ _ => BitVec.eq_of_toInt_eq) x y

theorem minu32_eq (x y : W32) : minu32 x y = if x ≤ y then x else y := by
  simp only [minu32, BitVec.le_def, ← Nat.not_lt, ite_not]

theorem maxu32_eq (x y : W32) : maxu32 x y = if x ≤ y then y else x :=
  ite_lt_eq_ite_le BitVec.toNat (fun _ _ => BitVec.eq_of_toNat_eq) x y

/-- A byte of a word as a signed number. -/
theorem ofInt_signedByte (x : W32) (lo : Nat) : BitVec.ofInt 32 (signedNat 8 (natBits x.toNat lo 8)) = (x.extractLsb' lo 8).signExtend 32 := by
  rw [natBits_eq_toNat, ← toInt_ofNat_eq_signedNat 8 _ (by decide), BitVec.ofNat_toNat, BitVec.setWidth_eq]; rfl

/-- A byte of a word as an unsigned number. -/
theorem ofInt_unsignedByte (x : W32) (lo : Nat) : BitVec.ofInt 32 ((natBits x.toNat lo 8 : Nat) : Int) = (x.extractLsb' lo 8).setWidth 32 := by
  rw [natBits_eq_toNat, BitVec.ofInt_natCast, BitVec.ofNat_toNat]

theorem dot4_signed (x y z : W32) : dot4 true x y z =
    (z + (x.extractLsb' (8 * 0) 8).signExtend 32 * (y.extractLsb' (8 * 0) 8).signExtend 32 +
      (x.extractLsb' (8 * 1) 8).signExtend 32 * (y.extractLsb' (8 * 1) 8).signExtend 32 +
      (x.extractLsb' (8 * 2) 8).signExtend 32 * (y.extractLsb' (8 * 2) 8).signExtend 32 +
      (x.extractLsb' (8 * 3) 8).signExtend 32 * (y.extractLsb' (8 * 3) 8).signExtend 32, 0) := by
  simp only [dot4, plain, if_true, BitVec.ofInt_add, BitVec.ofInt_mul, BitVec.ofInt_toInt, ofInt_signedByte]

theorem dot4_unsigned (x y z : W32) : dot4 false x y z =
    (z + (x.extractLsb' (8 * 0) 8).setWidth 32 * (y.extractLsb' (8 * 0) 8).signExtend 32 +
      (x.extractLsb' (8 * 1) 8).setWidth 32 * (y.extractLsb' (8 * 1) 8).signExtend 32 +
      (x.extractLsb' (8 * 2) 8).setWidth 32 * (y.extractLsb' (8 * 2) 8).signExtend 32 +
      (x.extractLsb' (8 * 3) 8).setWidth 32 * (y.extractLsb' (8 * 3) 8).signExtend 32, 0) := by
  simp only [dot4, plain, Bool.false_eq_true, if_false, BitVec.ofInt_add, BitVec.ofInt_mul, BitVec.ofInt_toInt, ofInt_signedByte, ofInt_unsignedByte]

/-- Each elementwise integer instruction computes its function of its sources' elements. -/
theorem exec_vInteger (s : State) (d a b : Reg) (c : VCtl) :
    ∀ e ∈ vInteger s d a b c, exec e.1 s = vEach s d e.2.1 c e.2.2.1 e.2.2.2 := by
  simp only [vInteger, List.forall_mem_cons, List.not_mem_nil, false_implies, implies_true, and_true, ← mulh32_eq, ← mulhu32_eq, ← min32_eq,
    ← max32_eq, ← minu32_eq, ← maxu32_eq, ← dot4_signed, ← dot4_unsigned, Int.reduceNeg, Int.reduceSub, ← satS_eq, ← satU_eq]
  and_intros <;> rfl

/-- Settles O9: each instruction is elementwise (`exec_vInteger`), and such an instruction writes the elements that its mask allows. -/
theorem vectorInteger : Obligations.VectorInteger := by
  intro s d a b c e he hl
  rw [exec_vInteger s d a b c e he]
  exact vEach_sets s d e.2.1 c e.2.2.1 e.2.2.2 hl

end Sys2Proof.Machine
end

section
/-! PROOFS. The scope: accumulators and masks of the V slot. -/

namespace Sys2Proof.Machine
open Sys2Proof.Says

/-! ### Accumulators (R164) -/

/-- Each elementwise instruction with an accumulator as destination computes its function of its sources' elements. -/
theorem exec_vAccum (s : State) (d : Reg3) (a b : Reg) (c : VCtl) :
    ∀ e ∈ vAccum s d a b c, exec e.1 s = qEach s d e.2.1 c e.2.2.1 e.2.2.2 := by
  simp only [vAccum, List.forall_mem_cons, List.not_mem_nil, false_implies, implies_true, and_true]
  and_intros <;> rfl

/-! ### Masks (R158, R160, R168) -/

/-- A compare that is ordered raises NV for any NaN. -/
theorem fpCmp_ordered (f : Int → Int → Bool) (x y : W32) : fpCmp true f x y =
    (!(isNan f32 x.toNat || isNan f32 y.toNat) && f (fpKey f32 x.toNat) (fpKey f32 y.toNat),
      if isNan f32 x.toNat || isNan f32 y.toNat then fNV else 0) := by
  have h : ∀ n m q r : Bool, (n && q || m && r || true && (n || m)) = (n || m) := by decide
  simp only [fpCmp, isSnan, h]

/-- A compare that is not ordered raises NV for a signalling NaN only. -/
theorem fpCmp_unordered (f : Int → Int → Bool) (x y : W32) : fpCmp false f x y =
    (!(isNan f32 x.toNat || isNan f32 y.toNat) && f (fpKey f32 x.toNat) (fpKey f32 y.toNat),
      if isSnan f32 x.toNat || isSnan f32 y.toNat then fNV else 0) := by
  simp only [fpCmp, Bool.false_and, Bool.or_false]

/-- Each instruction that writes bits of a mask computes its function of its sources' elements. -/
theorem exec_vMasks (s : State) (d : Reg3) (a b : Reg) (ma mb : Reg3) (c : VCtl) :
    ∀ e ∈ vMasks s d a b ma mb c, exec e.1 s = mEach s d e.2.1 ⟨c.fold, e.2.2.1⟩ e.2.2.2.1 e.2.2.2.2 := by
  have heq := fpCmp_unordered (fun x y => x == y)
  have hlt := fpCmp_ordered (fun x y => decide (x < y))
  have hle := fpCmp_ordered (fun x y => decide (x ≤ y))
  simp only [vMasks, List.forall_mem_cons, List.not_mem_nil, false_implies, implies_true, and_true, ← heq, ← hlt, ← hle]
  and_intros <;> rfl

/-- Settles O11: each instruction is elementwise (`exec_vAccum`, `exec_vMasks`), and such an instruction writes the elements or bits that its mask
allows. -/
theorem accumulatorsAndMasks : Obligations.AccumulatorsAndMasks := by
  intro s d a b ma mb c
  constructor
  · intro e he hl
    rw [exec_vAccum s d a b c e he]
    exact qEach_sets s d e.2.1 c e.2.2.1 e.2.2.2 hl
  · intro e he hl
    rw [exec_vMasks s d a b ma mb c e he]
    exact mEach_sets s d e.2.1 ⟨c.fold, e.2.2.1⟩ e.2.2.2.1 e.2.2.2.2 hl

end Sys2Proof.Machine
end

section
/-! PROOFS. The scope: reductions, counts, moves, permutations and segments of the V slot. -/

namespace Sys2Proof.Machine
open Sys2Proof.Says

/-! ### Scalars (R165, R166, R168) -/

theorem sum32_eq_fold1 (xs : List W32) : sum32 xs = fold1 (fun x y => x + y) xs := by
  cases xs with
  | nil => rfl
  | cons x xs => rw [sum32, List.foldl_cons, zero_add]; rfl

/-- The lowest one among `n` bits from bit `i`, found by a search. -/
theorem ctzFrom_eq_find (a n : Nat) : ∀ i, ctzFrom a i n = ((List.range' i n).find? a.testBit).getD (i + n) := by
  induction n with
  | zero => intro i; rfl
  | succ n ih =>
    intro i
    rw [ctzFrom, List.range'_succ, List.find?_cons, ih (i + 1), show i + 1 + n = i + (n + 1) by omega]
    cases a.testBit i <;> rfl

/-- Each instruction that gives a scalar in its final step gives its value and its flags. -/
theorem exec_vScalars (s : State) (d a : Reg) (m : Reg3) (fold : BitVec 2) (el : BitVec 6) :
    ∀ e ∈ vScalars s d a m fold el, ∃ busy, exec e.1 s = sFinal s d e.2.1 busy e.2.2.1 e.2.2.2.1 e.2.2.2.2 := by
  have hadd : exec (.vredadd d a fold) s = reduce s d a fold (fun xs => ((fold1 (fun x y => x + y) xs).signExtend 64, 0)) := by
    simp only [← sum32_eq_fold1]; rfl
  have hpop : exec (.mpop d m fold) s = sFinal s d [] (foldBeats fold) (foldBeats fold + 1)
      (BitVec.ofNat 64 ((List.range (foldN fold)).filter (s.core.rdM m).getLsbD).length) 0 := by
    show execMpop d m fold s = _
    rw [execMpop, onesBelow_eq]; rfl
  have hfirst : exec (.mfirst d m fold) s = sFinal s d [] (foldBeats fold) (foldBeats fold + 1)
      (BitVec.ofNat 64 (((List.range (foldN fold)).find? (s.core.rdM m).getLsbD).getD (foldN fold))) 0 := by
    show execMfirst d m fold s = _
    rw [execMfirst, ctzFrom_eq_find, ← List.range_eq_range', Nat.zero_add]; rfl
  simp only [vScalars, List.forall_mem_cons, List.not_mem_nil, false_implies, implies_true, and_true, ← min32_eq, ← max32_eq]
  exact ⟨⟨_, hadd⟩, ⟨_, rfl⟩, ⟨_, rfl⟩, ⟨_, rfl⟩, ⟨_, rfl⟩, ⟨_, rfl⟩, ⟨_, rfl⟩, ⟨_, hpop⟩, ⟨_, hfirst⟩, _, rfl⟩

/-- Settles O12: each instruction gives its scalar in its final step (`exec_vScalars`). -/
theorem vectorScalars : Obligations.VectorScalars := by
  intro s d a m fold el e he hl
  obtain ⟨busy, hexec⟩ := exec_vScalars s d a m fold el e he
  rw [hexec]
  exact sFinal_sets s d e.2.1 busy e.2.2.1 e.2.2.2.1 e.2.2.2.2 hl

/-! ### Moves (R166, R167) -/

/-- The mask m0 allows every element (R151). -/
theorem masked_all (s : State) {n : Nat} (f : Nat → W32) (hn : n ≤ 64) : masked s 0 n f = below n f := by
  have hm : ∀ i, i < n → s.maskBit 0 i = true := fun i hi => by
    rw [State.maskBit, Core.rdM, if_pos rfl, BitVec.getLsbD_not, BitVec.getLsbD_zero, decide_eq_true (by omega : i < 64)]; rfl
  funext i
  by_cases hi : i < n
  · simp only [masked, below, hm i hi, and_true]
  · simp only [masked, below, hi, false_and]

/-- An element goes into a register, or into the entry read from a direction. -/
theorem vins_sets (s : State) (d a : Reg) (el : BitVec 6) (h : leads s (d :: if s.isDir d then [d] else [])) :
    ∃ t, exec (.vins d a el) s = .next t ∧ setsV s t (if s.isDir d then [d] else []) [(d, fun i =>
      if i = el.toNat then some ((s.core.rdS a).setWidth 32) else if s.isDir d ∧ i < 64 then some (s.vsrc d i) else none)] 3 0 := by
  have hel : ∀ i, i = el.toNat → i < 64 := fun i hi => hi ▸ el.isLt
  by_cases hd : s.isDir d = true
  · rw [if_pos hd] at h ⊢
    have helems : (fun i => if i = el.toNat then some ((s.core.rdS a).setWidth 32) else if s.isDir d ∧ i < 64 then some (s.vsrc d i) else none) =
        below 64 (fun i => if i = el.toNat then (s.core.rdS a).setWidth 32 else s.vsrc d i) := by
      funext i
      by_cases hi : i = el.toNat
      · simp only [below, if_pos hi, if_pos (hel i hi)]
      · simp only [below, if_neg hi, hd, true_and]
    rw [helems]
    obtain ⟨t, ht, hs⟩ := vFinal_below s d [d] 1 3 64 (fun i => if i = el.toNat then (s.core.rdS a).setWidth 32 else s.vsrc d i) _ 0 le_rfl h
      (fun _ _ => rfl)
    exact ⟨t, (if_pos hd).trans ht, hs⟩
  · rw [if_neg hd] at h ⊢
    have helems : (fun i => if i = el.toNat then some ((s.core.rdS a).setWidth 32) else if s.isDir d ∧ i < 64 then some (s.vsrc d i) else none) =
        fun i => if i < 64 ∧ (i == el.toNat) = true then some ((s.core.rdS a).setWidth 32) else none := by
      funext i
      by_cases hi : i = el.toNat
      · rw [if_pos hi, if_pos ⟨hel i hi, beq_iff_eq.mpr hi⟩]
      · rw [if_neg hi, if_neg (fun q => hd q.1), if_neg (fun q => hi (beq_iff_eq.mp q.2))]
    rw [helems]
    obtain ⟨t, ht, hs⟩ := vFinal_sets s d [] 1 3 64 (fun i => i == el.toNat) (fun _ => (s.core.rdS a).setWidth 32) 0 le_rfl h
    exact ⟨t, (if_neg hd).trans ht, hs⟩

/-- Selection by a mask is elementwise, under the mask of all ones. -/
theorem vsel_sets (s : State) (d a b : Reg) (fold : BitVec 2) (m : Reg3) (h : leads s [d, a, b]) :
    ∃ t, exec (.vsel d a b fold m) s = .next t ∧
      setsV s t [a, b] [(d, below (foldN fold) (fun i => if s.maskBit m i then s.vsrc a i else s.vsrc b i))] (foldBeats fold + 1) 0 := by
  obtain ⟨t, ht, hs⟩ := vEach_sets s d [a, b] ⟨fold, 0⟩ 1 (fun i => plain (if s.maskBit m i then s.vsrc a i else s.vsrc b i)) h
  simp only [masked_all s _ (foldN_le fold), plain, orFlags_zero] at hs
  exact ⟨t, ht, hs⟩

/-! ### Segments (R172) -/

/-- A segment is its start and the elements after it up to the next start. -/
theorem segment_eq (s : State) (a : Reg) (k : Reg3) : ∀ fuel i, segment s a k i (fuel + 1) =
    s.vsrc a i :: ((List.range' (i + 1) fuel).takeWhile (fun j => !(s.maskBit k j))).map (s.vsrc a) := by
  intro fuel
  induction fuel with
  | zero => intro i; rw [segment, segment, ite_self]; rfl
  | succ fuel ih =>
    intro i
    rw [segment, ih (i + 1), List.range'_succ, List.takeWhile_cons]
    cases s.maskBit k (i + 1) <;> rfl

/-- The elements of the segment that starts at an element, among `n`. -/
def segmentAt (s : State) (a : Reg) (k : Reg3) (n i : Nat) : List W32 :=
  s.vsrc a i :: ((List.range' (i + 1) (n - 1 - i)).takeWhile (fun j => !(s.maskBit k j))).map (s.vsrc a)

/-- Segmented sums: each start receives the sum of its segment. -/
theorem segSum_sets (s : State) (d a : Reg) (fold : BitVec 2) (k : Reg3) (f : List W32 → W32 × Flags) (h : leads s [d, a]) :
    ∃ t, segSum s d a fold k f = .next t ∧ setsV s t [a]
      [(d, below (foldN fold) (fun i => if i == 0 || s.maskBit k i then (f (segmentAt s a k (foldN fold) i)).1 else 0))] (foldBeats fold + 8)
      (orFlags (fun i => i == 0 || s.maskBit k i) (fun i => (f (segmentAt s a k (foldN fold) i)).2) (foldN fold)) := by
  have hseg : ∀ i, i < foldN fold → segment s a k i (foldN fold - i) = segmentAt s a k (foldN fold) i := fun i hi => by
    rw [show foldN fold - i = foldN fold - 1 - i + 1 by omega, segment_eq]; rfl
  have hflags : orFlags (fun i => i == 0 || s.maskBit k i) (fun i => (f (segmentAt s a k (foldN fold) i)).2) (foldN fold) =
      orFlags (fun _ => true) (fun i => (if i == 0 || s.maskBit k i then f (segment s a k i (foldN fold - i)) else (0, 0)).2) (foldN fold) :=
    orFlags_congr _ (fun i hi => by rw [hseg i hi]; cases i == 0 || s.maskBit k i <;> rfl)
  rw [hflags]
  exact vFinal_below s d [a] (foldBeats fold) _ _ _ _ _ (foldN_le fold) h (fun i hi => by
    dsimp only
    rw [hseg i hi]
    split <;> rfl)

/-- Integer sums of segments raise no flags. -/
theorem vsegadd_sets (s : State) (d a : Reg) (fold : BitVec 2) (k : Reg3) (h : leads s [d, a]) :
    ∃ t, exec (.vsegadd d a fold k) s = .next t ∧ setsV s t [a] [(d, below (foldN fold) (fun i =>
      if i == 0 || s.maskBit k i then (segmentAt s a k (foldN fold) i).foldl (fun x y => x + y) 0 else 0))] (foldBeats fold + 8) 0 := by
  obtain ⟨t, ht, hs⟩ := segSum_sets s d a fold k (fun xs => plain (sum32 xs)) h
  simp only [plain, orFlags_zero] at hs
  exact ⟨t, ht, hs⟩

/-- Each move gives its vector and its flags. -/
theorem exec_vMoves (s : State) (d a b : Reg) (m : Reg3) (c : VCtl) (el : BitVec 6) : ∀ e ∈ vMoves s d a b m c el, leads s (d :: e.2.1) →
    ∃ t, exec e.1 s = .next t ∧ setsV s t e.2.1 [(d, e.2.2.2.2.1)] e.2.2.2.1 e.2.2.2.2.2 := by
  have hn := foldN_le c.fold
  simp only [vMoves, List.forall_mem_cons, List.not_mem_nil, false_implies, implies_true, and_true]
  refine ⟨vins_sets s d a el, vFinal_sets s d [a, b] _ _ _ _ _ 0 hn, vFinal_sets s d [a] _ _ _ _ _ 0 hn, vFinal_sets s d [a] _ _ _ _ _ 0 hn,
    ?_, ?_, ?_⟩
  · exact fun h => vFinal_below s d [a] _ _ _ _ _ 0 hn h (fun _ _ => rfl)
  · exact vsegadd_sets s d a c.fold m
  · have h := segSum_sets s d a c.fold m (fun xs => fpOut (fixedTree f32 s.core.fpMode (xs.map (fun x => x.toNat))))
    simp only [segmentAt, fpOut] at h
    exact h

/-- Runs: a bit for each element that differs from the one before it. -/
theorem vruns_sets (s : State) (k : Reg3) (a : Reg) (fold : BitVec 2) (h : leads s [a]) :
    ∃ t, exec (.vruns k a fold) s = .next t ∧
      setsVM s t [a] k (fun i => if i < foldN fold then some (i == 0 || s.vsrc a i != s.vsrc a (i - 1)) else none) (foldBeats fold + 2) 0 := by
  refine ⟨_, vGuard_leads _ _ _ h, setsVM_one s k [a] _ 0 _ _ _ (fun i _ => ?_)⟩
  rw [getLsbD_putBits _ _ _ _ i (foldN_le fold)]
  by_cases hi : i < foldN fold <;> simp [hi]

/-- Settles O13: each move in its final step (`exec_vMoves`), selection elementwise, and whole masks and runs as masks. -/
theorem vectorMoves : Obligations.VectorMoves := by
  intro s d a b m k c el
  exact ⟨exec_vMoves s d a b m c el, vsel_sets s d a b c.fold m,
    mFinal_sets s k [] _ _ _ ((leads_iff s []).mpr (fun r hr => absurd hr List.not_mem_nil)), vruns_sets s k a c.fold⟩

end Sys2Proof.Machine
end

section
/-! PROOFS. The scope: what a T instruction writes of a tile register, row by row, and the bytes of lists that rows are made of. -/

namespace Sys2Proof

/-! ### Lists of bytes -/

theorem SMap.length_getList {α : Type} (d : α) (m : SMap α) : ∀ n k : Nat, (SMap.getList d m k n).length = n := by
  intro n
  induction n with
  | zero => intro k; rfl
  | succ n ih => intro k; rw [SMap.getList, List.length_cons, ih]

theorem SMap.drop_getList {α : Type} (d : α) (m : SMap α) : ∀ j n k : Nat, (SMap.getList d m k (j + n)).drop j = SMap.getList d m (k + j) n := by
  intro j
  induction j with
  | zero => intro n k; rw [Nat.zero_add, List.drop_zero, Nat.add_zero]
  | succ j ih => intro n k; rw [Nat.succ_add, SMap.getList, List.drop_succ_cons, ih, Nat.add_assoc, Nat.add_comm 1 j]

theorem SMap.take_getList {α : Type} (d : α) (m : SMap α) : ∀ j n k : Nat, (SMap.getList d m k (j + n)).take j = SMap.getList d m k j := by
  intro j
  induction j with
  | zero => intro n k; rfl
  | succ j ih => intro n k; rw [Nat.succ_add, SMap.getList, List.take_succ_cons, ih, SMap.getList]

/-- A part of consecutive values. -/
theorem SMap.part_getList {α : Type} (d : α) (m : SMap α) (k j n l : Nat) (h : j + n ≤ l) :
    ((SMap.getList d m k l).drop j).take n = SMap.getList d m (k + j) n := by
  obtain ⟨r, rfl⟩ := Nat.exists_eq_add_of_le h
  rw [Nat.add_assoc, SMap.drop_getList, SMap.take_getList]

/-- The bytes of the number that a range holds are those of the range. -/
theorem leBytes_load (m : Memory) : ∀ n a : Nat, leBytes n (Memory.load m a n) = Memory.bytes m a n := by
  intro n
  induction n with
  | zero => intro a; rfl
  | succ n ih =>
    intro a
    have hlt := (Memory.byte m a).isLt
    have hbyte : BitVec.ofNat 8 (Memory.load m a (n + 1)) = Memory.byte m a := by
      apply BitVec.eq_of_toNat_eq
      rw [Memory.load, BitVec.toNat_ofNat]
      omega
    have hrest : Memory.load m a (n + 1) / 256 = Memory.load m (a + 1) n := by
      rw [Memory.load]
      omega
    rw [leBytes, hbyte, hrest, ih]
    rfl

/-- A byte of a range, and 0 beyond it. -/
theorem getD_bytes (m : Memory) (a n i : Nat) : (Memory.bytes m a n).getD i 0 = if i < n then Memory.byte m (a + i) else 0 := by
  by_cases h : i < n
  · rw [if_pos h]
    exact Machine.getD_getList 0 0 m n a i h
  · rw [if_neg h, List.getD_eq_default _ _ (by rw [Memory.bytes, SMap.length_getList]; omega)]

/-- Zeros after a list are what lies beyond it. -/
theorem getD_append_zeros (bs : List Byte) (n i : Nat) : (bs ++ List.replicate n (0 : Byte)).getD i 0 = bs.getD i 0 := by
  by_cases hi : i < bs.length
  · rw [List.getD_append _ _ _ _ hi]
  · rw [List.getD_append_right _ _ _ _ (by omega), List.getD_eq_default bs _ (by omega)]
    by_cases hn : i - bs.length < n
    · rw [List.getD_replicate _ hn]
    · rw [List.getD_eq_default _ _ (by rw [List.length_replicate]; omega)]

/-- An item of pieces of one length that stand in a row: piece i / z, at place i % z. -/
theorem getD_flatMap_range {α : Type} (d : α) (z : Nat) (g : Nat → List α) (hz : 0 < z) : ∀ n : Nat, (∀ r, r < n → (g r).length = z) →
    ((List.range n).flatMap g).length = n * z ∧
      ∀ i, ((List.range n).flatMap g).getD i d = if i < n * z then (g (i / z)).getD (i % z) d else d := by
  intro n
  induction n with
  | zero => intro _; exact ⟨(Nat.zero_mul z).symm, fun i => by rw [Nat.zero_mul, if_neg (Nat.not_lt_zero i)]; rfl⟩
  | succ n ih =>
    intro hg
    obtain ⟨hlen, hget⟩ := ih (fun r hr => hg r (by omega))
    have hn := hg n (Nat.lt_succ_self n)
    rw [List.range_succ, List.flatMap_append, List.flatMap_singleton, Nat.succ_mul]
    refine ⟨by rw [List.length_append, hlen, hn], fun i => ?_⟩
    by_cases hi : i < n * z
    · rw [List.getD_append _ _ _ _ (by rw [hlen]; exact hi), hget, if_pos hi, if_pos (by omega)]
    · rw [List.getD_append_right _ _ _ _ (by rw [hlen]; omega), hlen]
      by_cases hi2 : i < n * z + z
      · have hdiv : i / z = n := Nat.div_eq_of_lt_le (by omega) (by rw [Nat.succ_mul]; exact hi2)
        have hmod : i % z = i - n * z := by
          have h := Nat.div_add_mod i z
          rw [hdiv, Nat.mul_comm] at h
          omega
        rw [if_pos hi2, hdiv, hmod]
      · rw [if_neg hi2, List.getD_eq_default _ _ (by rw [hn]; omega)]

end Sys2Proof

namespace Sys2Proof.Machine
open Sys2Proof.Says

/-! ### Shapes (R176, R177) -/

theorem Shape.z_pos (h : Shape) : 0 < h.z := by
  rw [Shape.z]
  split <;> norm_num

/-- The elements of a row of a legal shape take up to 128 bytes. -/
theorem Shape.cols_z_le {h : Shape} (hl : h.legal = true) : h.cols * h.z ≤ 128 := by
  simp only [Shape.legal, Bool.and_eq_true, decide_eq_true_eq] at hl
  omega

/-! ### Rows of a tile (R176, R180) -/

/-- A byte of a tile row and an exponent as later rows read them. -/
def Core.nextT (c : Core) (q : Reg3) (r i : Nat) : Byte := SMap.get 0 c.regs.t (q.toNat * 8192 + 128 * r + i)
def Core.nextE (c : Core) (q : Reg3) (r : Nat) : Byte := SMap.get 0 c.regs.texp (q.toNat * 64 + r)

/-- Of a core only rows and exponents of one tile have been written, and their errors cleared. -/
def Core.writesT (c c' : Core) (d : Reg3) (row : Nat → Option (Nat → Byte)) (ex : Nat → Option Byte) : Prop :=
  c' = { c with regs := { c.regs with t := c'.regs.t, texp := c'.regs.texp }, badTile := c'.badTile } ∧
    (∀ q r i, r < 64 → i < 128 → c'.nextT q r i = if q = d then ((row r).map (fun f => f i)).getD (c.nextT q r i) else c.nextT q r i) ∧
    (∀ q r, r < 64 → c'.nextE q r = if q = d then (ex r).getD (c.nextE q r) else c.nextE q r) ∧
    ∀ u, u ∈ c'.badTile ↔ u ∈ c.badTile ∧ ¬(u / 1024 = d.toNat ∧ (row (u / 16 % 64)).isSome = true) ∧
      ¬(u / 8 = 1024 + d.toNat ∧ ∀ r, r < 64 → (ex r).isSome = true)

theorem writesT_refl (c : Core) (d : Reg3) : c.writesT c d (fun _ => none) (fun _ => none) :=
  ⟨rfl, fun _ _ _ _ _ => (ite_self _).symm, fun _ _ _ => (ite_self _).symm, fun u =>
    ⟨fun h => ⟨h, fun q => Bool.false_ne_true q.2, fun q => Bool.false_ne_true (q.2 0 (by norm_num))⟩, fun h => h.1⟩⟩

/-- One more row, which clears the errors of its own units. -/
theorem writesT_wrTileRow {c c' : Core} {d : Reg3} {r : Nat} {row row' : Nat → Option (Nat → Byte)} {ex : Nat → Option Byte} {bs : List Byte}
    {f : Nat → Byte} (h : c.writesT c' d row ex) (hr : r < 64) (hl : bs.length ≤ 128) (hf : ∀ i, i < 128 → bs.getD i 0 = f i)
    (hrow : ∀ k, k < 64 → row' k = if k = r then some f else row k) : c.writesT (c'.wrTileRow d r bs) d row' ex := by
  obtain ⟨hc, ht, he, hb⟩ := h
  have hlen : (bs ++ List.replicate (128 - bs.length) (0 : Byte)).length = 128 := by
    rw [List.length_append, List.length_replicate]
    omega
  refine ⟨by rw [hc]; rfl, fun q k i hk hi => ?_, he, fun u => ?_⟩
  · have hread : (c'.wrTileRow d r bs).nextT q k i = SMap.get 0 (SMap.setList 0 c'.regs.t (d.toNat * 8192 + 128 * r)
        (bs ++ List.replicate (128 - bs.length) 0)) (q.toNat * 8192 + 128 * k + i) := rfl
    rw [hread, SMap.get_setList_eq, hlen, hrow k hk]
    by_cases hq : q = d
    · subst hq
      by_cases hkr : k = r
      · subst hkr
        rw [if_pos (by omega), Nat.add_sub_cancel_left, getD_append_zeros, hf i hi, if_pos rfl, if_pos rfl]
        rfl
      · rw [if_neg (by omega), if_neg hkr]
        exact ht q k i hk hi
    · have hne : q.toNat ≠ d.toNat := fun e => hq (BitVec.eq_of_toNat_eq e)
      rw [if_neg (by omega), if_neg hq]
      exact (ht q k i hk hi).trans (if_neg hq)
  · have hmem : u ∈ (c'.wrTileRow d r bs).badTile ↔ u ∈ c'.badTile ∧ u / 16 ≠ (d.toNat * 8192 + 128 * r) / 128 := by
      show u ∈ List.filter _ _ ↔ _
      rw [List.mem_filter, decide_eq_true_eq]
    rw [hmem, hb u, hrow _ (Nat.mod_lt _ (by norm_num)), show (d.toNat * 8192 + 128 * r) / 128 = d.toNat * 64 + r by omega]
    by_cases hk : u / 16 % 64 = r
    · rw [if_pos hk]
      simp only [Option.isSome_some, and_true]
      constructor
      · rintro ⟨⟨hu, -, hx⟩, hn⟩
        exact ⟨hu, by omega, hx⟩
      · rintro ⟨hu, hn, hx⟩
        exact ⟨⟨hu, fun q => hn q.1, hx⟩, by omega⟩
    · rw [if_neg hk]
      exact ⟨fun q => q.1, fun q => ⟨q, by omega⟩⟩

/-- One more exponent; no unit of exponents that holds an error is written as a whole. -/
theorem writesT_wrTileExp {c c' : Core} {d : Reg3} {r : Nat} {row : Nat → Option (Nat → Byte)} {ex ex' : Nat → Option Byte} {e : Byte}
    (h : c.writesT c' d row ex) (hr : r < 64) (hex : ∀ k, k < 64 → ex' k = if k = r then some e else ex k)
    (hbad : (∀ k, k < 64 → (ex' k).isSome = true) → ∀ u ∈ c.badTile, u / 8 ≠ 1024 + d.toNat) : c.writesT (c'.wrTileExp d r e) d row ex' := by
  obtain ⟨hc, ht, he, hb⟩ := h
  refine ⟨by rw [hc]; rfl, ht, fun q k hk => ?_, fun u => ?_⟩
  · have hread : (c'.wrTileExp d r e).nextE q k = SMap.get 0 (SMap.set 0 c'.regs.texp (d.toNat * 64 + r) e) (q.toNat * 64 + k) := rfl
    rw [hread, SMap.get_set, hex k hk]
    by_cases hq : q = d
    · subst hq
      by_cases hkr : k = r
      · rw [if_pos (by omega), if_pos rfl, if_pos hkr]
        rfl
      · rw [if_neg (by omega), if_neg hkr]
        exact he q k hk
    · have hne : q.toNat ≠ d.toNat := fun e => hq (BitVec.eq_of_toNat_eq e)
      rw [if_neg (by omega), if_neg hq]
      exact (he q k hk).trans (if_neg hq)
  · have hmore : (∀ k, k < 64 → (ex k).isSome = true) → ∀ k, k < 64 → (ex' k).isSome = true := fun hall k hk => by
      rw [hex k hk]
      split
      · rfl
      · exact hall k hk
    refine (hb u).trans ⟨fun ⟨hu, hrow, _⟩ => ⟨hu, hrow, fun q => hbad q.2 u hu q.1⟩, fun ⟨hu, hrow, hx⟩ => ⟨hu, hrow, fun q => hx ⟨q.1, hmore q.2⟩⟩⟩

/-- What stands below a row, and nothing from it on. -/
def upTo {α : Type} (m : Nat) (f : Nat → Option α) (k : Nat) : Option α := if k < m then f k else none

theorem upTo_succ {α : Type} (m : Nat) (f : Nat → Option α) (k : Nat) : upTo (m + 1) f k = if k = m then f m else upTo m f k := by
  rcases Nat.lt_trichotomy k m with h | rfl | h
  · rw [upTo, upTo, if_pos (by omega), if_neg (by omega), if_pos h]
  · rw [upTo, if_pos (Nat.lt_succ_self k), if_pos rfl]
  · rw [upTo, upTo, if_neg (by omega), if_neg (by omega), if_neg (by omega)]

/-- The state after a T instruction that has written rows of a tile in the core in hand, and notes flags that arrive later. -/
theorem setsT_of_writesT {s t : State} {c : Core} {d : Reg3} {row : Nat → Option (Nat → Byte)} {ex : Nat → Option Byte} {lat : Nat} {fl : Flags}
    (ha : alone s t) (hw : s.core.writesT c d row ex) (ht : t.core = { c.addFlags lat fl with tfly := t.core.tfly }) :
    setsT s t d row ex lat fl := by
  obtain ⟨hc, hrow, hexp, hbad⟩ := hw
  rw [Core.addFlags_eq] at ht
  have hbeats : c.beats = s.core.beats := by rw [hc]
  have hqueue : c.flagQ = s.core.flagQ := by rw [hc]
  have hregs : t.core.regs = c.regs := by rw [ht]
  refine ⟨ha, ?_, ?_, fun q r i hr hi => ?_, fun q r hr => ?_, fun u => ?_⟩
  · rw [ht, hc]
  · rw [ht, hbeats, hqueue]
  · rw [laterT_eq t q r i hi, laterT_eq s q r i hi, hregs]
    exact hrow q r i hr hi
  · have h : laterE t q r = c.nextE q r := congrArg (fun g : Regs => SMap.get 0 g.texp (q.toNat * 64 + r)) hregs
    rw [h]
    exact hexp q r hr
  · rw [ht]
    exact hbad u

/-- A T instruction ends: its flags are on their way and its later beats noted. -/
theorem setsT_tEnd {s t : State} {d : Reg3} {row : Nat → Option (Nat → Byte)} {ex : Nat → Option Byte} (lat : Nat) (fl : Flags) (fly : Option Fly)
    (ha : alone s t) (hw : s.core.writesT t.core d row ex) : setsT s (t.tEnd lat fl fly) d row ex lat fl :=
  setsT_of_writesT (alone_trans ha (alone_onCore t _)) hw (by rw [State.tEnd, State.core_onCore])

/-- The same without flags and later beats. -/
theorem setsT_onCore {s : State} {d : Reg3} {row : Nat → Option (Nat → Byte)} {ex : Nat → Option Byte} (f : Core → Core)
    (hw : s.core.writesT (f s.core) d row ex) : setsT s (s.onCore f) d row ex 0 0 :=
  setsT_of_writesT (alone_onCore s f) hw (by rw [State.core_onCore]; rfl)

/-- An access stays without a conflict where the shadows and what the core has observed stay. -/
theorem quiet_congr {s t : State} {kind : Access} {x n : Nat} (hs : t.core.shadows = s.core.shadows) (hl : t.core.lcore = s.core.lcore)
    (ho : t.core.observed = s.core.observed) (h : quiet s kind x n) : quiet t kind x n :=
  (conflictAt_congr hs hl ho kind _ _).trans h

theorem tileByte_eq (s : State) (t : Reg3) (r i : Nat) (hi : i < 128) :
    tileByte s t r i = SMap.get 0 s.core.src.t (t.toNat * 8192 + 128 * r + i) := getD_getList 0 0 _ 128 _ i hi

theorem tileRowBad_of_sound {s : State} {t : Reg3} {r n : Nat} (h : rowSound s t r n) : s.core.tileRowBad t r n = false := by
  rw [Core.tileRowBad, List.any_eq_false]
  intro u hu hbad
  simp only [Bool.and_eq_true, beq_iff_eq, decide_eq_true_eq] at hbad
  exact h u hu ⟨by omega, by omega⟩

end Sys2Proof.Machine
end

section
/-! PROOFS. The scope: zeroing and transposing a tile, and moving a row between a tile and a vector register. -/

namespace Sys2Proof.Machine
open Sys2Proof.Says

/-! ### The word of `TTRN` (R118, R188) -/

theorem figures_ttrn (d a : Reg3) : figures (.ttrn d a) = some (12, 8) := by
  have hl : lookup .t (wT 0x06#6 (0#2 ++ d) (0#2 ++ a) 0#5 0#6) = some .ttrn := lookup_t 6 0 (by simp) (by simp) rfl
  have he : encode (.ttrn d a) = some (.t, wT 0x06#6 (0#2 ++ d) (0#2 ++ a) 0#5 0#6, 0#32) := rfl
  rw [figures, he, Option.bind_some, hl]
  rfl

/-! ### `TZERO` (R187) -/

theorem tzero_sets (s : State) (d : Reg3) :
    ∃ t, exec (.tzero d) s = .next t ∧ setsT s t d (fun _ => some (fun _ => 0)) (fun _ => some 0) 0 0 := by
  have hne : ∀ q : Reg3, q ≠ d → q.toNat ≠ d.toNat := fun q hq e => hq (BitVec.eq_of_toNat_eq e)
  refine ⟨_, rfl, setsT_onCore _ ⟨rfl, fun q r i hr hi => ?_, fun q r hr => ?_, fun u => ?_⟩⟩
  · refine (SMap.get_keep 0 _ _ _).trans ?_
    rw [show (q.toNat * 8192 + 128 * r + i) / 8192 = q.toNat by omega]
    by_cases hq : q = d
    · rw [if_pos hq, hq, bne_self_eq_false, if_neg Bool.false_ne_true]; rfl
    · rw [if_neg hq, if_pos (bne_iff_ne.mpr (hne q hq))]; rfl
  · refine (SMap.get_keep 0 _ _ _).trans ?_
    rw [show (q.toNat * 64 + r) / 64 = q.toNat by omega]
    by_cases hq : q = d
    · rw [if_pos hq, hq, bne_self_eq_false, if_neg Bool.false_ne_true]; rfl
    · rw [if_neg hq, if_pos (bne_iff_ne.mpr (hne q hq))]; rfl
  · refine List.mem_filter.trans ?_
    simp

/-! ### `TTRN` (R188) -/

/-- Rows written one after another, from row 0 on. -/
theorem writesT_putRows {c : Core} {d : Reg3} {f : Nat → List Byte} {row : Nat → Nat → Byte} {ex : Nat → Option Byte} {n : Nat} (hn : n ≤ 64)
    (hlen : ∀ r, r < n → (f r).length ≤ 128) (hrow : ∀ r i, r < n → (f r).getD i 0 = row r i) : ∀ (k r : Nat) (c' : Core), r + k = n →
      c.writesT c' d (upTo r (fun r => some (row r))) ex → c.writesT (putRows d f k r c') d (upTo n (fun r => some (row r))) ex := by
  intro k
  induction k with
  | zero => intro r c' hr h; rw [← hr]; exact h
  | succ k ih =>
    intro r c' hr h
    rw [putRows]
    exact ih (r + 1) _ (by omega) (writesT_wrTileRow h (by omega) (hlen r (by omega)) (fun i _ => hrow r i (by omega)) (fun j _ => upTo_succ _ _ j))

/-- Column `c` of a tile as a row: the elements of all its rows, of `z` bytes each. -/
def columnOf (core : Core) (a : Reg3) (h : Shape) (c : Nat) : List Byte :=
  (List.range h.rows).flatMap (fun r => ((core.tileRow a r 128).drop (c * h.z)).take h.z)

theorem columnOf_eq (s : State) (a : Reg3) (h : Shape) (c : Nat) (hc : c * h.z + h.z ≤ 128) : (columnOf s.core a h c).length = h.rows * h.z ∧
    ∀ i, (columnOf s.core a h c).getD i 0 = if i < h.rows * h.z then tileByte s a (i / h.z) (c * h.z + i % h.z) else 0 := by
  have hpart : ∀ r, ((s.core.tileRow a r 128).drop (c * h.z)).take h.z =
      SMap.getList 0 s.core.src.t (a.toNat * 8192 + 128 * r + c * h.z) h.z := fun r => SMap.part_getList 0 _ _ _ _ 128 hc
  obtain ⟨hlen, hget⟩ := getD_flatMap_range 0 h.z _ h.z_pos h.rows (fun r _ => (congrArg List.length (hpart r)).trans (SMap.length_getList 0 _ _ _))
  refine ⟨hlen, fun i => (hget i).trans ?_⟩
  have hmod := Nat.mod_lt i h.z_pos
  rw [hpart, getD_getList 0 0 _ _ _ _ hmod, tileByte_eq s a _ _ (by omega), Nat.add_assoc _ (c * h.z)]

/-- The shapes between which `TTRN` transposes, as they are checked. -/
theorem transposes_checked {s : State} {d a : Reg3} (h : transposes s d a) : ((s.core.shape a).legal && (s.core.shape d).legal &&
    decide ((s.core.shape a).code < 3) && decide ((s.core.shape d).code = (s.core.shape a).code) &&
    decide ((s.core.shape d).rows = (s.core.shape a).cols) && decide ((s.core.shape d).cols = (s.core.shape a).rows) &&
    (decide (d ≠ a) || decide ((s.core.shape a).rows = (s.core.shape a).cols))) = true := by
  simp only [Bool.and_eq_true, Bool.or_eq_true, decide_eq_true_eq, and_assoc]
  exact h

/-- The columns of a tile are written as rows. -/
theorem exec_ttrn (s : State) (d a : Reg3) (h : transposes s d a) (hsound : ∀ r, r < (s.core.shape a).rows → rowSound s a r (s.core.shape a).u) :
    ∃ fly, exec (.ttrn d a) s =
      .next ((s.onCore (putRows d (columnOf s.core a (s.core.shape a)) (s.core.shape a).cols 0)).tEnd 12 0 fly) := by
  have hgood : (List.range (s.core.shape a).rows).any (fun r => s.core.tileRowBad a r (s.core.shape a).u) = false := by
    rw [List.any_eq_false]
    intro r hr
    rw [tileRowBad_of_sound (hsound r (List.mem_range.mp hr))]
    exact Bool.false_ne_true
  refine ⟨_, (if_neg ?_).trans (if_neg ?_)⟩
  · rw [transposes_checked h]
    exact Bool.false_ne_true
  · rw [hgood]
    exact Bool.false_ne_true

theorem ttrn_sets (s : State) (d a : Reg3) (h : transposes s d a) (hsound : ∀ r, r < (s.core.shape a).rows → rowSound s a r (s.core.shape a).u) :
    ∃ t, exec (.ttrn d a) s = .next t ∧
      setsT s t d (fun c => if c < (s.core.shape a).cols then some (fun i => if i < (s.core.shape a).rows * (s.core.shape a).z
        then tileByte s a (i / (s.core.shape a).z) (c * (s.core.shape a).z + i % (s.core.shape a).z) else 0) else none) (fun _ => none) 12 0 := by
  obtain ⟨fly, hexec⟩ := exec_ttrn s d a h hsound
  obtain ⟨hla, hld, -, hcode, hrows, hcols, -⟩ := h
  have hrows64 := shape_rows s d
  have hlen := Shape.cols_z_le hld
  have hlen' := Shape.cols_z_le hla
  have hz : (s.core.shape d).z = (s.core.shape a).z := by rw [Shape.z, Shape.z, hcode]
  rw [hcols, hz] at hlen
  have hcol := fun c (hc : c < (s.core.shape a).cols) => columnOf_eq s a (s.core.shape a) c
    (le_trans (by rw [← Nat.succ_mul]; exact Nat.mul_le_mul_right _ hc) hlen')
  refine ⟨_, hexec, setsT_tEnd 12 0 fly (alone_onCore s _) ?_⟩
  rw [State.core_onCore]
  exact writesT_putRows (by rw [← hrows]; exact hrows64) (fun c hc => (hcol c hc).1.trans_le hlen) (fun c i hc => (hcol c hc).2 i) _ 0 s.core
    (Nat.zero_add _) (writesT_refl s.core d)

/-! ### Row moves (R189) -/

theorem tvrow_sets (s : State) (d : Reg3) (v b : Reg) (hr : (s.core.rdS b).toNat < 64) : ∃ t, exec (.tvrow d v b) s = .next t ∧
    setsT s t d (fun k => if k = (s.core.rdS b).toNat then some (fun i => (s.core.rdV v (i / 4)).extractLsb' (8 * (i % 4)) 8) else none)
      (fun _ => none) 0 0 := by
  obtain ⟨hlen, hget⟩ := getD_flatMap_range (0 : Byte) 4 (fun i => leBytes 4 (s.core.rdV v i).toNat) (by norm_num) 32 (fun _ _ => length_leBytes 4 _)
  refine ⟨_, if_neg (by omega), setsT_onCore _ (writesT_wrTileRow (writesT_refl s.core d) hr (by rw [hlen]) (fun i hi => ?_) (fun _ _ => rfl))⟩
  rw [hget, if_pos (by omega), getD_leBytes 4 _ _ (Nat.mod_lt i (by norm_num)), ofNat_div_eq_extractLsb']

/-- Word `i` of a tile row. -/
theorem leNat_tileWord (s : State) (a : Reg3) (r i : Nat) (hi : i < 32) : leNat (((s.core.tileRow a r 128).drop (4 * i)).take 4) =
    leNat [tileByte s a r (4 * i), tileByte s a r (4 * i + 1), tileByte s a r (4 * i + 2), tileByte s a r (4 * i + 3)] := by
  rw [tileByte_eq s a r _ (by omega), tileByte_eq s a r _ (by omega), tileByte_eq s a r _ (by omega), tileByte_eq s a r _ (by omega)]
  rw [Core.tileRow, SMap.part_getList 0 s.core.src.t _ (4 * i) 4 128 (by omega)]
  simp only [SMap.getList, Nat.add_assoc, Nat.reduceAdd]

/-- The first `n` elements of a vector register are written. -/
def Core.wrElems (c : Core) (v : Reg) (n : Nat) (f : Nat → W32) : Core :=
  { c with regs := { c.regs with v := putElems 0 c.regs.v (v.toNat * 64) (fun _ => true) f n } }

theorem wrElems_eq (c : Core) (v : Reg) (n : Nat) (f : Nat → W32) :
    c.wrElems v n f = { c with regs := { c.regs with v := (c.wrElems v n f).regs.v } } := rfl

theorem rdV_wrElems (c : Core) (v q : Reg) (n : Nat) (f : Nat → W32) (i : Nat) (hn : n ≤ 64) (hi : i < 64) :
    (c.wrElems v n f).beginRow.rdV q i = if q = v ∧ i < n then f i else c.beginRow.rdV q i := by
  rw [Core.rdV_beginRow, Core.rdV_beginRow]
  refine (get_putElems_reg 0 c.regs.v v.toNat q.toNat n i _ f hn hi).trans ?_
  by_cases hq : q = v ∧ i < n
  · rw [if_pos ⟨congrArg BitVec.toNat hq.1, hq.2, rfl⟩, if_pos hq]
  · rw [if_neg (fun h => hq ⟨BitVec.eq_of_toNat_eq h.1, h.2.1⟩), if_neg hq]

theorem exec_trowv (s : State) (v : Reg) (a : Reg3) (b : Reg) (hr : (s.core.rdS b).toNat < 64) (hsound : rowSound s a (s.core.rdS b).toNat 128) :
    exec (.trowv v a b) s = .next (s.onCore (fun c => c.wrElems v 32 (fun i =>
      BitVec.ofNat 32 (leNat (((s.core.tileRow a (s.core.rdS b).toNat 128).drop (4 * i)).take 4))))) := by
  show execTrowv v a b s = _
  simp only [execTrowv, if_neg (not_le.mpr hr), tileRowBad_of_sound hsound, Bool.false_eq_true, if_false, Core.wrElems]

theorem trowv_sets (s : State) (v : Reg) (a : Reg3) (b : Reg) (hr : (s.core.rdS b).toNat < 64) (hsound : rowSound s a (s.core.rdS b).toNat 128) :
    ∃ t, exec (.trowv v a b) s = .next t ∧ alone s t ∧ t.core = { s.core with regs := { s.core.regs with v := t.core.regs.v } } ∧
      ∀ q i, i < 64 → laterV t q i = if q = v ∧ i < 32 then
        BitVec.ofNat 32 (leNat [tileByte s a (s.core.rdS b).toNat (4 * i), tileByte s a (s.core.rdS b).toNat (4 * i + 1),
          tileByte s a (s.core.rdS b).toNat (4 * i + 2), tileByte s a (s.core.rdS b).toNat (4 * i + 3)])
      else laterV s q i := by
  refine ⟨_, exec_trowv s v a b hr hsound, alone_onCore s _, ?_, fun q i hi => ?_⟩
  · rw [State.core_onCore]
    exact wrElems_eq _ _ _ _
  · rw [laterV, State.core_onCore, rdV_wrElems s.core v q 32 _ i (by norm_num) hi]
    by_cases hq : q = v ∧ i < 32
    · rw [if_pos hq, if_pos hq, leNat_tileWord s a _ i hq.2]
    · rw [if_neg hq, if_neg hq]
      rfl

/-- Settles O21: the word and the figures of `TTRN`, the shapes that it refuses (`ttrn_refused`), and what `TZERO`, `TTRN`, `TVROW` and `TROWV`
write (`tzero_sets`, `ttrn_sets`, `tvrow_sets`, `trowv_sets`). -/
theorem tileMoves : Obligations.TileMoves := by
  intro s d a v b
  exact ⟨rfl, figures_ttrn d a, ttrn_refused s d a, tzero_sets s d, ttrn_sets s d a, tvrow_sets s d v b, trowv_sets s v a b⟩

end Sys2Proof.Machine
end

section
/-! PROOFS. The scope: a `TMMA` as it issues. -/

namespace Sys2Proof.Machine
open Sys2Proof.Says

/-! ### What a `TMMA` latches (R190, R191) -/

/-- The work that a `TMMA` begins: its operands, the address of C, and the tick in which its run is over. -/
def tmmaJob (s : State) (kind : Nat) (write : Bool) (d : Reg) (a b : Reg3) : TmmaJob :=
  let busy := if kind = 1 then max (s.core.shape a).wm2 (s.core.shape b).wm2 + 2 else 4
  { row := s.core.pos.row, beat := s.core.beats, kind := kind, write := write, addr := (s.core.rdS d).toNat
    a := (List.range 16).flatMap (fun r => s.core.tileRow a r 128), b := (List.range 16).flatMap (fun r => s.core.tileRow b r 128)
    ea := (List.range 16).map (s.core.tileExp a), eb := (List.range 16).map (s.core.tileExp b), wa := (s.core.shape a).wm2
    wb := (s.core.shape b).wm2, fp := s.core.src.fpctl, busy := busy, due := some (s.tick + busy) }

/-- A byte of a latched tile. -/
theorem getD_latchedRows (s : State) (t : Reg3) (r i : Nat) (hr : r < 16) (hi : i < 128) :
    ((List.range 16).flatMap (fun r => s.core.tileRow t r 128)).getD (128 * r + i) 0 = tileByte s t r i := by
  obtain ⟨-, hget⟩ := getD_flatMap_range (0 : Byte) 128 (fun r => s.core.tileRow t r 128) (by norm_num) 16 (fun r _ => length_tileRow s.core t r 128)
  rw [hget, if_pos (by omega), show (128 * r + i) / 128 = r by omega, show (128 * r + i) % 128 = i by omega]
  rfl

/-- An exponent of a latched tile. -/
theorem getD_latchedExps (s : State) (t : Reg3) (r : Nat) (hr : r < 16) : ((List.range 16).map (s.core.tileExp t)).getD r 0 = s.core.tileExp t r := by
  rw [List.getD_eq_getElem _ _ (by rw [List.length_map, List.length_range]; exact hr), List.getElem_map, List.getElem_range]

/-! ### Issue (R190) -/

theorem mmaBad_of_sound {s : State} {kind : Nat} {t : Reg3} {r : Nat} (hr : rowSound s t r (if kind = 1 then 128 else 64))
    (he : kind = 1 → expSound s t r) : s.core.mmaBad kind t r = false := by
  rw [Core.mmaBad, tileRowBad_of_sound hr, Bool.false_or, Bool.and_eq_false_iff]
  by_cases hk : kind = 1
  · exact .inr (tileExpBad_of_sound (fun _ hb => hb) (he hk))
  · exact .inl (decide_eq_false hk)

/-- A `TMMA` that no check refuses. -/
theorem tmma_issues {s : State} {kind : Nat} (write : Bool) {d : Reg} {a b : Reg3} (ha : tmmaFits s kind a) (hb : tmmaFits s kind b)
    (hreach : reaches s (s.core.rdS d).toNat 1024 64)
    (hsound : ∀ t ∈ [a, b], ∀ r, r < 16 → rowSound s t r (if kind = 1 then 128 else 64) ∧ (kind = 1 → expSound s t r)) :
    tmma s kind write d a b = .next ((s.onCore (fun c => { c with tmma := c.tmma ++ [tmmaJob s kind write d a b] })).touch .store 2
      (s.core.rdS d).toNat 1024) := by
  have hgood : (List.range 16).any (fun r => s.core.mmaBad kind a r || s.core.mmaBad kind b r) = false := by
    rw [List.any_eq_false]
    intro r hr
    have hr := List.mem_range.mp hr
    obtain ⟨hra, hea⟩ := hsound a (by simp) r hr
    obtain ⟨hrb, heb⟩ := hsound b (by simp) r hr
    rw [mmaBad_of_sound hra hea, mmaBad_of_sound hrb heb]
    exact Bool.false_ne_true
  unfold tmma
  simp only [(mmaFits_iff s kind a).mpr ha, (mmaFits_iff s kind b).mpr hb, (reaches_iff s _ _ _).mpr hreach, hgood, Bool.and_self, Bool.not_true,
    Bool.false_eq_true, if_false, tmmaJob]

/-- A store to one area that raises no conflict. -/
theorem touch_store_quiet (s : State) (slot x n : Nat) (h : quiet s .store x n) :
    s.touch .store slot x n = s.onCore (fun c => shadowOwn c .store (x / 64) (sectors x n)) := by
  have hc : conflictAt (s.coreAt s.cur) .store (x / 64) (sectors x n) = none := h
  rw [State.touch, State.touchAt, hc]
  rfl

/-- The core after a `TMMA` has issued. -/
theorem tmma_appends (s : State) (j : TmmaJob) (x n : Nat) (h : quiet s .store x n) :
    ∃ t, (s.onCore (fun c => { c with tmma := c.tmma ++ [j] })).touch .store 2 x n = t ∧ alone s t ∧
      t.core = { s.core with tmma := s.core.tmma ++ [j], shadows := t.core.shadows } := by
  have hquiet : quiet (s.onCore (fun c => { c with tmma := c.tmma ++ [j] })) .store x n :=
    quiet_congr (by rw [State.core_onCore]) (by rw [State.core_onCore]) (by rw [State.core_onCore]) h
  refine ⟨_, touch_store_quiet _ 2 x n hquiet, alone_trans (alone_onCore s _) (alone_onCore _ _), ?_⟩
  rw [State.core_onCore, State.core_onCore, shadowOwn_eq]

/-- Settles O22: each form is a `TMMA` (`exec_tmmas`), which issues where no check refuses it (`tmma_issues`, `tmma_appends`); the bytes and the
exponents latched are those of the tiles (`getD_latchedRows`, `getD_latchedExps`). -/
theorem matrixIssue : Obligations.MatrixIssue := by
  intro m hm s a d e hd he hreach hsound hquiet
  obtain ⟨t, ht, halone, hcore⟩ := tmma_appends s (tmmaJob s m.2.1 m.2.2 a d e) _ 1024 hquiet
  refine ⟨t, tmmaJob s m.2.1 m.2.2 a d e, ?_, halone, hcore, rfl, rfl, rfl, rfl, rfl, rfl, rfl, rfl, fun r i hr hi => ?_⟩
  · rw [exec_tmmas s a d e m hm, tmma_issues m.2.2 hd he hreach hsound, ht]
  · exact ⟨getD_latchedRows s d r i hr hi, getD_latchedRows s e r i hr hi, getD_latchedExps s d r hr, getD_latchedExps s e r hr⟩

end Sys2Proof.Machine
end

section
/-! PROOFS. The scope: `TLD` whose rows can all be loaded. -/

namespace Sys2Proof.Machine
open Sys2Proof.Says

/-! ### A flag that some of the rows raise (R39) -/

/-- Flags hold nothing but `f`, and hold it where a condition is met. -/
def raisesIf (f fl : Flags) (p : Prop) : Prop := (fl = 0 ∨ fl = f) ∧ (fl = f ↔ p)

theorem raisesIf_zero {f : Flags} {p : Prop} (hf : f ≠ 0) (hp : ¬p) : raisesIf f 0 p := ⟨.inl rfl, fun h => absurd h.symm hf, fun h => absurd h hp⟩

theorem raisesIf_self {f : Flags} {p : Prop} (hp : p) : raisesIf f f p := ⟨.inr rfl, fun _ => hp, fun _ => rfl⟩

theorem raisesIf_or {f a b : Flags} {p q : Prop} (hf : f ≠ 0) (ha : raisesIf f a p) (hb : raisesIf f b q) : raisesIf f (a ||| b) (p ∨ q) := by
  obtain ⟨ha0, hap⟩ := ha
  obtain ⟨hb0, hbq⟩ := hb
  rw [← hap, ← hbq, raisesIf]
  rcases ha0 with rfl | rfl
  · rw [show (0 : Flags) ||| b = b from BitVec.zero_or]
    exact ⟨hb0, .inr, fun h => h.resolve_left hf.symm⟩
  · rcases hb0 with rfl | rfl
    · rw [show a ||| (0 : Flags) = a from BitVec.or_zero]
      exact ⟨.inr rfl, .inl, fun _ => rfl⟩
    · rw [BitVec.or_self]
      exact ⟨.inr rfl, .inl, fun _ => rfl⟩

/-- Some row from `m` on is row `m` or one after it. -/
theorem exists_from_iff {n m : Nat} (p : Nat → Prop) (h : m < n) : (∃ r, m ≤ r ∧ r < n ∧ p r) ↔ p m ∨ ∃ r, m + 1 ≤ r ∧ r < n ∧ p r := by
  constructor
  · rintro ⟨r, hm, hn, hp⟩
    rcases Nat.eq_or_lt_of_le hm with rfl | hlt
    · exact .inl hp
    · exact .inr ⟨r, hlt, hn, hp⟩
  · rintro (hp | ⟨r, hm, hn, hp⟩)
    · exact ⟨m, le_rfl, h, hp⟩
    · exact ⟨r, by omega, hn, hp⟩

/-! ### A row from its bytes (R41, R43, R184) -/

/-- Row r of a `TLD` at an address: the exponent where it changes, the row, and the flags. -/
def rowAt (s : State) (h : Shape) (x : Nat) : Option Byte × List Byte × Flags := tileRowOf h (Memory.bytes s.core.scratch x h.u)

theorem rowAt_plain (s : State) {h : Shape} (x : Nat) (hc : h.code < 3) : rowAt s h x = (none, Memory.bytes s.core.scratch x h.u, 0) := if_pos hc

/-- Natural size of a BFP row: its header, its mantissas and the bytes that fill up its last word. -/
theorem Shape.u_bfp {h : Shape} (hc : h.code = 3) : h.u = 4 + (h.cols + 3) / 4 * 4 := if_pos hc

/-- The header of a BFP row. -/
def headerAt (s : State) (x : Nat) : BfpHeader := bfpHeader (BitVec.ofNat 32 (Memory.load s.core.scratch x 4))

theorem rowAt_bfp (s : State) {h : Shape} (x : Nat) (hc : h.code = 3) : rowAt s h x =
    if (headerAt s x).bad || decide ((headerAt s x).length ≠ h.cols) || decide ((headerAt s x).wm2 ≠ h.wm2) then (some 0xFF, [], fBFPHDR)
    else (some (BitVec.ofNat 8 (headerAt s x).e), Memory.bytes s.core.scratch (x + 4) h.cols, 0) := by
  have hu := Shape.u_bfp hc
  have hhead : leNat ((Memory.bytes s.core.scratch x h.u).take 4) = Memory.load s.core.scratch x 4 := by
    rw [hu, Memory.bytes, SMap.take_getList]
    exact leNat_bytes _ 4 x
  have hrow : ((Memory.bytes s.core.scratch x h.u).drop 4).take h.cols = Memory.bytes s.core.scratch (x + 4) h.cols :=
    SMap.part_getList 0 _ x 4 h.cols h.u (by omega)
  rw [rowAt, tileRowOf, if_neg (by omega), hhead, hrow]
  rfl

theorem badBurst_iff (s : State) (h : Shape) (x : Nat) :
    ((headerAt s x).bad || decide ((headerAt s x).length ≠ h.cols) || decide ((headerAt s x).wm2 ≠ h.wm2)) = true ↔ badBurst s h x := by
  simp only [Bool.or_eq_true, decide_eq_true_eq, or_assoc]
  exact Iff.rfl

theorem rowAt_bad (s : State) {h : Shape} (x : Nat) (hc : h.code = 3) (hb : badBurst s h x) : rowAt s h x = (some 0xFF, [], fBFPHDR) := by
  rw [rowAt_bfp s x hc, if_pos ((badBurst_iff s h x).mpr hb)]

/-- The exponent of a header that is not malformed is its highest byte. -/
theorem headerAt_e (s : State) (x : Nat) (hb : (headerAt s x).bad = false) : BitVec.ofNat 8 (headerAt s x).e = sp s (x + 3) := by
  have he : (headerAt s x).e = ((BitVec.ofNat 32 (Memory.load s.core.scratch x 4)).extractLsb' 24 8).toNat :=
    if_neg (Bool.eq_false_iff.mp hb)
  have hlt := load_lt s.core.scratch 4 x
  rw [he, BitVec.ofNat_toNat, BitVec.setWidth_eq, sp, byte_eq_load s.core.scratch x 4 3 (by norm_num)]
  apply BitVec.eq_of_toNat_eq
  rw [BitVec.extractLsb'_toNat, BitVec.toNat_ofNat, BitVec.toNat_ofNat, Nat.shiftRight_eq_div_pow]
  omega

theorem rowAt_good (s : State) {h : Shape} (x : Nat) (hc : h.code = 3) (hb : ¬badBurst s h x) :
    rowAt s h x = (some (sp s (x + 3)), Memory.bytes s.core.scratch (x + 4) h.cols, 0) := by
  have hwell : (headerAt s x).bad = false := Bool.eq_false_iff.mpr (fun h => hb (.inl h))
  rw [rowAt_bfp s x hc, if_neg (mt (badBurst_iff s h x).mp hb), headerAt_e s x hwell]

/-- A row raises `BFPHDR` where its burst does not fit. -/
theorem rowAt_flags (s : State) {h : Shape} (x : Nat) (hc : h.code ≤ 3) : raisesIf fBFPHDR (rowAt s h x).2.2 (h.code = 3 ∧ badBurst s h x) := by
  have hne : fBFPHDR ≠ 0 := by decide
  by_cases h3 : h.code = 3
  · by_cases hb : badBurst s h x
    · rw [rowAt_bad s x h3 hb]
      exact raisesIf_self ⟨h3, hb⟩
    · rw [rowAt_good s x h3 hb]
      exact raisesIf_zero hne (fun h => hb h.2)
  · rw [rowAt_plain s x (by omega)]
    exact raisesIf_zero hne (fun h => h3 h.1)

/-- Only a BFP row has an exponent. -/
theorem code_of_rowAt_exponent (s : State) {h : Shape} (x : Nat) (hc : h.code ≤ 3) (he : (rowAt s h x).1.isSome = true) : h.code = 3 := by
  by_contra h3
  rw [rowAt_plain s x (by omega)] at he
  exact Bool.false_ne_true he

/-! ### Rows loaded in order (R180, R184) -/

/-- Exponents are known by those below 64. -/
theorem writesT_congr {c c' : Core} {d : Reg3} {row : Nat → Option (Nat → Byte)} {ex ex' : Nat → Option Byte} (h : c.writesT c' d row ex)
    (hex : ∀ k, k < 64 → ex' k = ex k) : c.writesT c' d row ex' := by
  obtain ⟨hc, ht, he, hb⟩ := h
  have hall : (∀ k, k < 64 → (ex' k).isSome = true) ↔ ∀ k, k < 64 → (ex k).isSome = true :=
    forall_congr' (fun k => forall_congr' (fun hk => by rw [hex k hk]))
  exact ⟨hc, ht, fun q r hr => by rw [he q r hr, hex r hr], fun u => by rw [hb u, hall]⟩

/-- What `TLD` writes of one more row. -/
theorem writesT_loadRow {c c' : Core} {d : Reg3} {r : Nat} {row row' : Nat → Option (Nat → Byte)} {ex ex' : Nat → Option Byte}
    {x : Option Byte × List Byte × Flags} (h : c.writesT c' d row ex) (hr : r < 64) (hl : x.2.1.length ≤ 128)
    (hrow : ∀ k, k < 64 → row' k = if k = r then some (fun i => x.2.1.getD i 0) else row k) (hnone : ex r = none)
    (hex : ∀ k, k < 64 → ex' k = if k = r then x.1 else ex k)
    (hbad : (∀ k, k < 64 → (ex' k).isSome = true) → ∀ u ∈ c.badTile, u / 8 ≠ 1024 + d.toNat) : c.writesT (c'.loadRow d r x) d row' ex' := by
  obtain ⟨e, bs, fl⟩ := x
  rw [Core.loadRow]
  refine writesT_wrTileRow ?_ hr hl (fun _ _ => rfl) hrow
  cases e with
  | none =>
    refine writesT_congr h (fun k hk => (hex k hk).trans ?_)
    split
    · next hk => rw [hk, hnone]
    · rfl
  | some e => exact writesT_wrTileExp h hr hex hbad

theorem readable_of_writesT {s u : State} {d : Reg3} {row : Nat → Option (Nat → Byte)} {ex : Nat → Option Byte} {x n : Nat}
    (h : s.core.writesT u.core d row ex) (hr : readable s x n) : readable u x n := by
  obtain ⟨hc, -, -, -⟩ := h
  obtain ⟨hb, hs, hq⟩ := hr
  refine ⟨?_, fun a h1 h2 => ?_, quiet_congr (by rw [hc]) (by rw [hc]) (by rw [hc]) hq⟩
  · rw [hc]; exact hb
  · rw [hc]; exact hs a h1 h2

/-- No unit of the exponents of a tile is uncorrectable. -/
theorem exponents_sound {s : State} {d : Reg3} (h : ∀ r, r < 64 → expSound s d r) : ∀ u ∈ s.core.badTile, u / 8 ≠ 1024 + d.toNat := by
  intro u hu hd
  refine h (8 * (u % 8)) (by omega) ?_
  rw [show 8192 + 8 * d.toNat + 8 * (u % 8) / 8 = u by omega]
  exact hu

section
variable (s : State) (d : Reg3) (h : Shape) (addr : Nat → Nat)

/-- The rows and the exponents that a `TLD` gives. -/
def rowGiven (r : Nat) : Option (Nat → Byte) := some (fun i => (rowAt s h (addr r)).2.1.getD i 0)
def expGiven (r : Nat) : Option Byte := (rowAt s h (addr r)).1

variable {s d h addr}

/-- One more row that can be loaded. -/
theorem loadRows_succ (hl : h.legal = true) (hc : h.code ≤ 3) {m n : Nat} {u : State} (hm : m < 64) (halone : alone s u)
    (hw : s.core.writesT u.core d (upTo m (rowGiven s h addr)) (upTo m (expGiven s h addr)))
    (hgood : ∀ j, j ≤ m → reaches s (addr j) h.u h.align ∧ readable s (addr j) h.u ∧ (h.code = 3 → expSound s d j)) :
    ∃ (v : State) (part : LoadPart), loadRows d h addr (n + 1) m u = ((loadRows d h addr n (m + 1) v).1, (loadRows d h addr n (m + 1) v).2.1,
        (rowAt s h (addr m)).2.2 ||| (loadRows d h addr n (m + 1) v).2.2.1, (m, part) :: (loadRows d h addr n (m + 1) v).2.2.2) ∧
      alone s v ∧ s.core.writesT v.core d (upTo (m + 1) (rowGiven s h addr)) (upTo (m + 1) (expGiven s h addr)) ∧
      (part.addr, part.bytes.length) = (addr m, h.u) := by
  obtain ⟨hreach, hread, hexp⟩ := hgood m le_rfl
  obtain ⟨-, -, -, -, hcur, -⟩ := id halone
  obtain ⟨hcore, -, -, hbadTile⟩ := id hw
  have hlen : u.core.scratchLen = s.core.scratchLen := by rw [hcore]
  have hscratch : u.core.scratch = s.core.scratch := by rw [hcore]
  have hsub : ∀ b ∈ u.core.badTile, b ∈ s.core.badTile := fun b hb => ((hbadTile b).mp hb).1
  obtain ⟨k, hk⟩ := spRead_ok u 2 m ((reaches_congr hcur hlen _ _ _).mpr hreach) (readable_of_writesT hw hread)
  rw [hscratch] at hk
  have hnobad : ¬(h.code = 3 ∧ u.core.tileExpBad d m = true) := by
    rintro ⟨h3, hb⟩
    rw [tileExpBad_of_sound hsub (hexp h3)] at hb
    exact Bool.false_ne_true hb
  have hrowlen : (rowAt s h (addr m)).2.1.length ≤ 128 := length_tileRowOf hl _ (SMap.length_getList 0 _ _ _)
  refine ⟨({ u with fresh := k } : State).onCore (fun c => c.loadRow d m (rowAt s h (addr m))),
    ⟨addr m, Memory.bytes s.core.scratch (addr m) h.u, .tile (d.toNat * 64 + m) h.code h.cols h.wm2⟩, ?_,
    alone_trans halone (alone_onCore { u with fresh := k } _), ?_, congrArg (Prod.mk (addr m)) (SMap.length_getList 0 _ _ _)⟩
  · rw [loadRows, hk]
    dsimp only
    rw [if_neg hnobad, leBytes_load]
    rfl
  · rw [State.core_onCore]
    refine writesT_loadRow hw hm hrowlen (fun j _ => upTo_succ _ _ j) (if_neg (Nat.lt_irrefl m)) (fun j _ => upTo_succ _ _ j) (fun hall => ?_)
    refine exponents_sound (fun r hr => ?_)
    have hsome := hall r hr
    rw [upTo] at hsome
    split at hsome
    · next hrm => exact (hgood r (by omega)).2.2 (code_of_rowAt_exponent s (addr r) hc hsome)
    · exact absurd hsome Bool.false_ne_true

/-- Rows that can all be loaded. -/
theorem loadRows_loads (hl : h.legal = true) (hc : h.code ≤ 3) (hrows : h.rows ≤ 64)
    (hgood : ∀ j, j < h.rows → reaches s (addr j) h.u h.align ∧ readable s (addr j) h.u ∧ (h.code = 3 → expSound s d j)) :
    ∀ (n m : Nat) (u : State), m + n = h.rows → alone s u →
      s.core.writesT u.core d (upTo m (rowGiven s h addr)) (upTo m (expGiven s h addr)) →
      ∃ (v : State) (fl : Flags) (l : List (Nat × LoadPart)), loadRows d h addr n m u = (v, h.rows, fl, l) ∧ alone s v ∧
        s.core.writesT v.core d (upTo h.rows (rowGiven s h addr)) (upTo h.rows (expGiven s h addr)) ∧
        raisesIf fBFPHDR fl (∃ r, m ≤ r ∧ r < h.rows ∧ h.code = 3 ∧ badBurst s h (addr r)) ∧
        ∀ a ∈ partAreas l, ∃ j, j < h.rows ∧ a = (addr j, h.u) := by
  intro n
  induction n with
  | zero =>
    intro m u hm halone hw
    obtain rfl : m = h.rows := hm
    exact ⟨u, 0, [], rfl, halone, hw, raisesIf_zero (by decide) (fun ⟨r, h1, h2, _⟩ => absurd h1 (not_le.mpr h2)), fun a ha => absurd ha List.not_mem_nil⟩
  | succ n ih =>
    intro m u hm halone hw
    obtain ⟨v, part, hstep, hvalone, hvw, hpart⟩ := loadRows_succ (n := n) hl hc (by omega) halone hw (fun j hj => hgood j (by omega))
    obtain ⟨w, fl, l, hw, hwalone, hww, hfl, hareas⟩ := ih (m + 1) v (by omega) hvalone hvw
    rw [hw] at hstep
    refine ⟨w, _, _, hstep, hwalone, hww, ?_, List.forall_mem_cons.mpr ⟨⟨m, by omega, hpart⟩, hareas⟩⟩
    rw [exists_from_iff _ (by omega)]
    exact raisesIf_or (by decide) (rowAt_flags s (addr m) hc) hfl

end

/-- `TLD` whose rows can all be loaded. -/
theorem tld_sets (s : State) (d : Reg3) (a b : Reg) (hl : (s.core.shape d).legal = true)
    (hgood : ∀ j, j < (s.core.shape d).rows → reaches s (rowAddr s a b (s.core.shape d).u j) (s.core.shape d).u (s.core.shape d).align ∧
      readable s (rowAddr s a b (s.core.shape d).u j) (s.core.shape d).u ∧ ((s.core.shape d).code = 3 → expSound s d j)) :
    let h := s.core.shape d
    let addr := rowAddr s a b h.u
    ∃ t fl, exec (.tld d a b) s = .next t ∧ raisesIf fBFPHDR fl (∃ r, 0 ≤ r ∧ r < h.rows ∧ h.code = 3 ∧ badBurst s h (addr r)) ∧
      setsT s t d (upTo h.rows (rowGiven s h addr)) (upTo h.rows (expGiven s h addr)) ((h.rows * h.u + 255) / 256 + 4) fl := by
  intro h addr
  obtain ⟨v, fl, l, hv, halone, hw, hfl, hareas⟩ := loadRows_loads hl (shape_code s d).1 (shape_rows s d) hgood h.rows 0 s (Nat.zero_add _)
    ⟨fun _ _ => rfl, rfl, rfl, rfl, rfl, rfl⟩ (writesT_refl s.core d)
  have hquiet : ∀ x ∈ partAreas l, quiet v .load x.1 x.2 := fun x hx => by
    obtain ⟨j, hj, rfl⟩ := hareas x hx
    obtain ⟨-, -, hq⟩ := readable_of_writesT hw (hgood j hj).2.1
    exact hq
  have hexec : ∃ fly, exec (.tld d a b) s = .next (v.tEnd (tBusy (h.rows * h.u) + 4) fl fly) := by
    show ∃ fly, execTld d a b s = _
    rw [execTld]
    dsimp only
    rw [hl, show loadRows d (s.core.shape d) (tileAddr s a b (s.core.shape d).u) (s.core.shape d).rows 0 s = _ from hv]
    dsimp only
    rw [touchAll_load_quiet v 2 _ hquiet]
    exact ⟨_, rfl⟩
  obtain ⟨fly, hexec⟩ := hexec
  exact ⟨_, fl, hexec, hfl, setsT_tEnd _ fl fly halone hw⟩

/-- Settles O18: every row is loaded (`tld_sets`), as its bytes say (`rowAt_plain`, `rowAt_bad`, `rowAt_good`). -/
theorem tileLoad : Obligations.TileLoad := by
  intro s d a b h x hl hgood
  obtain ⟨t, fl, hexec, ⟨hfl, hflag⟩, hsets⟩ := tld_sets s d a b hl hgood
  refine ⟨t, fl, hexec, hfl, hflag.trans ⟨fun ⟨r, _, hr, hc, hb⟩ => ⟨hc, r, hr, hb⟩, fun ⟨hc, r, hr, hb⟩ => ⟨r, Nat.zero_le r, hr, hc, hb⟩⟩,
    _, _, hsets, fun r _ => ⟨fun hr => ?_, fun hr hc => ?_, fun hr hc hb => ?_, fun hr hc hb => ?_⟩⟩
  · exact ⟨if_neg (not_lt.mpr hr), if_neg (not_lt.mpr hr)⟩
  · rw [upTo, upTo, if_pos hr, if_pos hr, rowGiven, expGiven, rowAt_plain s _ hc]
    exact ⟨congrArg some (funext (getD_bytes _ _ _)), rfl⟩
  · rw [upTo, upTo, if_pos hr, if_pos hr, rowGiven, expGiven, rowAt_bad s _ hc hb]
    exact ⟨rfl, rfl⟩
  · rw [upTo, upTo, if_pos hr, if_pos hr, rowGiven, expGiven, rowAt_good s _ hc hb]
    exact ⟨congrArg some (funext (getD_bytes _ _ _)), rfl⟩

end Sys2Proof.Machine
end

section
/-! PROOFS. The scope: `TST` whose rows can all be stored. -/

namespace Sys2Proof.Machine
open Sys2Proof.Says

/-! ### The bytes of a row (R41, R184) -/

/-- The header word of a BFP row. -/
def headerOf (s : State) (d : Reg3) (h : Shape) (r : Nat) : Nat :=
  (s.core.tileExp d r).toNat * 2 ^ 24 + h.cols * 2 ^ 8 + h.wm2 * 2 ^ 5 + (if r + 1 = h.rows then 1 else 0)

/-- Byte `i` of a number's low four bytes is that of its word. -/
theorem ofNat_byte_of_word (v i : Nat) (hi : i < 4) : BitVec.ofNat 8 (v / 256 ^ i) = (BitVec.ofNat 32 v).extractLsb' (8 * i) 8 := by
  rw [← ofNat_div_eq_extractLsb', BitVec.toNat_ofNat]
  apply BitVec.eq_of_toNat_eq
  rw [BitVec.toNat_ofNat, BitVec.toNat_ofNat]
  interval_cases i <;> omega

/-- A row of a tile, as far as its shape goes. -/
theorem getD_tileRow (s : State) (d : Reg3) (r n i : Nat) (hn : n ≤ 128) (hi : i < n) : (s.core.tileRow d r n).getD i 0 = tileByte s d r i := by
  rw [tileByte_eq s d r i (by omega)]
  exact getD_getList 0 0 _ n _ i hi

/-- A `TST` stores the row's bytes, and before the mantissas of a BFP row its header. -/
theorem getD_tileBytes (s : State) (d : Reg3) {h : Shape} (hl : h.legal = true) (hc : h.code ≤ 3) (r i : Nat) (hi : i < h.u) :
    (tileBytes s.core d h r).getD i 0 = rowImage s d h r i := by
  have hz := h.z_pos
  have hwide := Shape.cols_z_le hl
  have hcols : h.cols ≤ 128 := le_trans (Nat.le_mul_of_pos_right _ hz) hwide
  rw [tileBytes, rowImage]
  by_cases h3 : h.code < 3
  · have hu : h.u = h.cols * h.z := if_neg (by omega)
    rw [if_pos h3, if_pos h3, getD_tileRow s d r h.u i (by omega) hi]
  · rw [if_neg h3, if_neg h3]
    change (leBytes 4 (headerOf s d h r) ++ s.core.tileRow d r h.cols ++ List.replicate (h.u - 4 - h.cols) 0).getD i 0 =
      if i < 4 then (BitVec.ofNat 32 (headerOf s d h r)).extractLsb' (8 * i) 8 else _
    have hrow := length_tileRow s.core d r h.cols
    by_cases hi4 : i < 4
    · rw [if_pos hi4, List.append_assoc, List.getD_append _ _ _ _ (by rw [length_leBytes]; exact hi4), getD_leBytes 4 _ i hi4,
        ofNat_byte_of_word _ i hi4]
    · rw [if_neg hi4, List.append_assoc, List.getD_append_right _ _ _ _ (by rw [length_leBytes]; omega), length_leBytes]
      by_cases hic : i < 4 + h.cols
      · rw [if_pos hic, List.getD_append _ _ _ _ (by omega), getD_tileRow s d r h.cols _ hcols (by omega)]
      · rw [if_neg hic, List.getD_append_right _ _ _ _ (by omega), List.getD_replicate _ (by omega)]

/-! ### Rows stored in order (R180, R184) -/

/-- Of a core only the bytes of the rows below `n` of a tile have been stored at their addresses, the later over the earlier, and errors cleared. -/
def Core.storesRows (c c' : Core) (addr : Nat → Word) (size : Nat) (image : Nat → Nat → Byte) (n : Nat) : Prop :=
  c' = { c with scratch := c'.scratch, badScratch := c'.badScratch, passes := c'.passes } ∧ (∀ u ∈ c'.badScratch, u ∈ c.badScratch) ∧
    (∀ y, Memory.byte c'.scratch y = (lastWriter size (fun _ => true) addr n y).elim (Memory.byte c.scratch y) (fun r => image r (y - (addr r).toNat))) ∧
    (c.passes = [] → c'.passes = [])

theorem storesRows_zero (c : Core) (addr : Nat → Word) (size : Nat) (image : Nat → Nat → Byte) : c.storesRows c addr size image 0 :=
  ⟨rfl, fun _ h => h, fun _ => rfl, fun h => h⟩

/-- One more row is stored over those before it. -/
theorem storesRows_putBytes {c c' : Core} {addr : Nat → Word} {size n : Nat} {image : Nat → Nat → Byte} {bs : List Byte} (fresh : Nat)
    (h : c.storesRows c' addr size image n) (hl : bs.length = size) (hi : ∀ i, i < size → bs.getD i 0 = image n i) :
    c.storesRows (c'.putBytes fresh (addr n).toNat bs) addr size image (n + 1) := by
  obtain ⟨hc, hbad, hbyte, hpasses⟩ := h
  refine ⟨by rw [hc]; rfl, fun u hu => hbad u (List.mem_of_mem_filter hu), fun y => ?_, fun hp => ?_⟩
  · refine (Memory.byte_setBytes _ _ _ _).trans ?_
    rw [hl, lastWriter_succ, Bool.true_and]
    by_cases hy : (addr n).toNat ≤ y ∧ y < (addr n).toNat + size
    · rw [if_pos hy, if_pos (decide_eq_true hy), hi _ (by omega)]
      rfl
    · rw [if_neg hy, if_neg (by rw [decide_eq_true_eq]; exact hy)]
      exact hbyte y
  · show c'.passes.map _ = []
    rw [hpasses hp]
    rfl

/-- The area of a row stored. -/
theorem areas_cons_storedAt (c : Core) (r x : Nat) (bs : List Byte) (l : RowStores) (hb : 0 < bs.length) :
    RowStores.areas (storedAt c r x bs :: l) = (x, bs.length) :: RowStores.areas l := by
  obtain ⟨k, hk⟩ := Nat.exists_eq_succ_of_ne_zero (Nat.pos_iff_ne_zero.mp hb)
  show (((List.range bs.length).map _).headD (0, 0, 0) |>.1, ((List.range bs.length).map _).length) :: RowStores.areas l = _
  rw [List.length_map, List.length_range, hk, List.range_succ_eq_map]
  rfl

section
variable {s : State} {d : Reg3} {h : Shape} {addr : Nat → Word}

/-- One more row that can be stored. -/
theorem storeRows_succ (hl : h.legal = true) (hc : h.code ≤ 3) {m n : Nat} {u : State} (halone : alone s u)
    (hst : s.core.storesRows u.core addr h.u (rowImage s d h) m) (hreach : reaches s (addr m).toNat h.u h.align)
    (hpart : badPartly s.core.badScratch (addr m).toNat h.u = false) (hrow : rowSound s d m (if h.code = 3 then h.cols else h.u))
    (hexp : h.code = 3 → expSound s d m) :
    ∃ (v : State) (bs : List Byte), storeRows d h (fun r => (addr r).toNat) (n + 1) m u = ((storeRows d h (fun r => (addr r).toNat) n (m + 1) v).1,
        (storeRows d h (fun r => (addr r).toNat) n (m + 1) v).2.1,
        storedAt u.core m (addr m).toNat bs :: (storeRows d h (fun r => (addr r).toNat) n (m + 1) v).2.2) ∧
      bs.length = h.u ∧ alone s v ∧ s.core.storesRows v.core addr h.u (rowImage s d h) (m + 1) := by
  obtain ⟨-, -, -, -, hcur, -⟩ := id halone
  obtain ⟨hcore, hbad, -, -⟩ := id hst
  have hlen : u.core.scratchLen = s.core.scratchLen := by rw [hcore]
  have hbytes : tileBytes u.core d h m = tileBytes s.core d h m := by rw [hcore]; rfl
  have hsize := length_tileBytes s.core d h m hc
  have hyes := (reaches_iff u _ _ _).mpr ((reaches_congr hcur hlen _ _ _).mpr hreach)
  have hsound : u.core.tstBad d h m = false := tstBad_of_sound (by rw [hcore]) hrow hexp
  obtain ⟨-, hput⟩ := core_putAt u (addr m).toNat (tileBytes s.core d h m)
  refine ⟨u.putAt u.cur (addr m).toNat (tileBytes s.core d h m), tileBytes s.core d h m, ?_, hsize, alone_trans halone (alone_putAt u _ _), ?_⟩
  · rw [storeRows]
    dsimp only
    rw [hbytes, hsize, hyes, hsound, if_neg (by simp), spWrite, hsize, hyes, badPartly_of_subset hbad hpart]
    rfl
  · rw [hput]
    exact storesRows_putBytes _ hst hsize (fun i hi => getD_tileBytes s d hl hc m i hi)

/-- Rows that can all be stored. -/
theorem storeRows_stores (hl : h.legal = true) (hc : h.code ≤ 3) (hu : 0 < h.u)
    (hgood : ∀ j, j < h.rows → reaches s (addr j).toNat h.u h.align ∧ badPartly s.core.badScratch (addr j).toNat h.u = false ∧
      quiet s .store (addr j).toNat h.u ∧ rowSound s d j (if h.code = 3 then h.cols else h.u) ∧ (h.code = 3 → expSound s d j)) :
    ∀ (n m : Nat) (u : State), m + n = h.rows → alone s u → s.core.storesRows u.core addr h.u (rowImage s d h) m →
      ∃ (v : State) (l : RowStores), storeRows d h (fun r => (addr r).toNat) n m u = (v, h.rows, l) ∧ alone s v ∧
        s.core.storesRows v.core addr h.u (rowImage s d h) h.rows ∧ ∀ a ∈ RowStores.areas l, ∃ j, j < h.rows ∧ a = ((addr j).toNat, h.u) := by
  intro n
  induction n with
  | zero =>
    intro m u hm halone hst
    obtain rfl : m = h.rows := hm
    exact ⟨u, [], rfl, halone, hst, fun a ha => absurd ha List.not_mem_nil⟩
  | succ n ih =>
    intro m u hm halone hst
    obtain ⟨hreach, hpart, -, hrow, hexp⟩ := hgood m (by omega)
    obtain ⟨v, bs, hstep, hbs, hvalone, hvst⟩ := storeRows_succ (n := n) hl hc halone hst hreach hpart hrow hexp
    obtain ⟨w, l, hw, hwalone, hwst, hareas⟩ := ih (m + 1) v (by omega) hvalone hvst
    rw [hw] at hstep
    refine ⟨w, _, hstep, hwalone, hwst, ?_⟩
    rw [areas_cons_storedAt _ _ _ _ _ (by rw [hbs]; exact hu), hbs]
    exact List.forall_mem_cons.mpr ⟨⟨m, by omega, rfl⟩, hareas⟩

end

/-- The address of row `r`, as a word. -/
def rowWord (s : State) (a b : Reg) (u r : Nat) : Word :=
  s.core.rdS a + BitVec.ofNat 64 r * (if s.core.rdS b = 0 then BitVec.ofNat 64 u else s.core.rdS b)

/-- `TST` whose rows can all be stored. -/
theorem tst_stores (s : State) (d : Reg3) (a b : Reg) (hl : (s.core.shape d).legal = true)
    (hgood : ∀ r, r < (s.core.shape d).rows → reaches s (rowAddr s a b (s.core.shape d).u r) (s.core.shape d).u (s.core.shape d).align ∧
      badPartly s.core.badScratch (rowAddr s a b (s.core.shape d).u r) (s.core.shape d).u = false ∧
      quiet s .store (rowAddr s a b (s.core.shape d).u r) (s.core.shape d).u ∧
      rowSound s d r (if (s.core.shape d).code = 3 then (s.core.shape d).cols else (s.core.shape d).u) ∧
      ((s.core.shape d).code = 3 → expSound s d r)) :
    let h := s.core.shape d
    ∃ t, exec (.tst d a b) s = .next t ∧ alone s t ∧
      t.core = { s.core with scratch := t.core.scratch, badScratch := t.core.badScratch, passes := t.core.passes, shadows := t.core.shadows,
                             tfly := t.core.tfly } ∧
      (s.core.passes = [] → t.core.passes = []) ∧
      ∀ y, sp t y = (lastWriter h.u (fun _ => true) (rowWord s a b h.u) h.rows y).elim (sp s y)
        (fun r => rowImage s d h r (y - rowAddr s a b h.u r)) := by
  intro h
  obtain ⟨hc, hcols⟩ := shape_code s d
  obtain ⟨v, l, hv, halone, ⟨hcore, -, hbyte, hpasses⟩, hareas⟩ := storeRows_stores (addr := rowWord s a b h.u) hl hc (Shape.u_pos hcols) hgood h.rows 0 s
    (Nat.zero_add _) ⟨fun _ _ => rfl, rfl, rfl, rfl, rfl, rfl⟩ (storesRows_zero s.core _ _ _)
  have hquiet : ∀ x ∈ RowStores.areas l, quiet v .store x.1 x.2 := fun x hx => by
    obtain ⟨j, hj, rfl⟩ := hareas x hx
    obtain ⟨-, -, hq, -, -⟩ := hgood j hj
    exact quiet_congr (by rw [hcore]) (by rw [hcore]) (by rw [hcore]) hq
  have hexec : ∃ fly, exec (.tst d a b) s = .next ((v.onCore (Core.noteStore v.core.interval (RowStores.areas l))).tEnd 0 0 fly) := by
    show ∃ fly, execTst d a b s = _
    rw [execTst]
    dsimp only
    rw [hl, show storeRows d (s.core.shape d) (tileAddr s a b (s.core.shape d).u) (s.core.shape d).rows 0 s = _ from hv]
    dsimp only
    rw [touchAll_store_quiet v 2 _ hquiet]
    exact ⟨_, rfl⟩
  obtain ⟨fly, hexec⟩ := hexec
  have ht : ((v.onCore (Core.noteStore v.core.interval (RowStores.areas l))).tEnd 0 0 fly).core =
      { v.core.noteStore v.core.interval (RowStores.areas l) with tfly := fly.map (fun f => { f with flags := 0 }) } := by
    rw [State.tEnd, State.core_onCore, State.core_onCore]
    rfl
  refine ⟨_, hexec, alone_trans (alone_trans halone (alone_onCore v _)) (alone_onCore _ _), ?_, fun hp => ?_, fun y => ?_⟩
  · rw [ht, noteStore_eq, hcore]
  · rw [ht, noteStore_eq]
    exact hpasses hp
  · rw [sp, ht, noteStore_eq]
    exact hbyte y

/-- Settles O19: all rows are stored (`tst_stores`), and a byte is that of the last of the rows that hold it. -/
theorem tileStore : Obligations.TileStore := by
  intro s d a b h x writers hl hgood
  obtain ⟨t, hexec, halone, hcore, hpasses, hbyte⟩ := tst_stores s d a b hl hgood
  refine ⟨t, hexec, halone, hcore, hpasses, fun y => (hbyte y).trans ?_⟩
  have hlast : lastWriter h.u (fun _ => true) (rowWord s a b h.u) h.rows y = (writers y).getLast? := rfl
  rw [hlast]
  cases (writers y).getLast? with
  | none => rfl
  | some r => rfl

end Sys2Proof.Machine
end

section
/-! PROOFS. The scope: `TWIN` whose pixels can all be read. -/

namespace Sys2Proof.Machine
open Sys2Proof.Says

/-! ### The window descriptor (R185, R186) -/

/-- The descriptor that the 64 bytes at an address hold. -/
def windowAt (s : State) (x : Nat) : Window := windowOf (Memory.load s.core.scratch x 64)

/-- Its fields are the numbers of their bytes. -/
theorem windowAt_fields (s : State) (x : Nat) : windowAt s x = { windowAt s x with
    ibase := winField s x 0x00 4, h := winField s x 0x04 2, w := winField s x 0x06 2, batch := winField s x 0x08 2, oh := winField s x 0x0A 2
    ow := winField s x 0x0C 2, pstride := winField s x 0x10 4, c0 := winField s x 0x14 2, fy := winField s x 0x18 1, fx := winField s x 0x19 1
    sy := winField s x 0x1A 1, sx := winField s x 0x1B 1, py := winField s x 0x1C 1, px := winField s x 0x1D 1, pad := winField s x 0x20 4 } := by
  have field := natBits_load s.core.scratch x
  simp only [-Nat.reduceMul, windowAt, windowOf, winField]
  rw [field 0x00 4 (by norm_num), field 0x04 2 (by norm_num), field 0x06 2 (by norm_num), field 0x08 2 (by norm_num), field 0x0A 2 (by norm_num),
    field 0x0C 2 (by norm_num), field 0x10 4 (by norm_num), field 0x14 2 (by norm_num), field 0x18 1 (by norm_num), field 0x19 1 (by norm_num),
    field 0x1A 1 (by norm_num), field 0x1B 1 (by norm_num), field 0x1C 1 (by norm_num), field 0x1D 1 (by norm_num), field 0x20 4 (by norm_num)]

/-- A window row lies at its pixel's first channel, or nowhere for padding; and it may lie beyond the last image. -/
theorem pixel_windowAt (s : State) (x z p : Nat) :
    winAddr s x z p = ((windowAt s x).pixel p).1.map (fun y => y + (windowAt s x).c0 * z) ∧
      (((windowAt s x).pixel p).2 = true ↔ winBeyond s x p) := by
  rw [windowAt_fields]
  simp only [Window.pixel, winAddr, winBeyond]
  by_cases hb : winField s x 0x08 2 ≤ p / (winField s x 0x0A 2 * winField s x 0x0C 2)
  · rw [if_pos (.inl hb), if_pos hb]
    exact ⟨rfl, fun _ => hb, fun _ => rfl⟩
  · simp only [or_iff_right hb, if_neg hb]
    split
    · exact ⟨rfl, fun h => absurd h Bool.false_ne_true, fun h => absurd h hb⟩
    · exact ⟨rfl, fun h => absurd h Bool.false_ne_true, fun h => absurd h hb⟩

/-! ### A row of a window -/

/-- Byte `i` of window row `p`: of its pixel, or of the padding element. -/
def windowByte (s : State) (x z p i : Nat) : Byte := match winAddr s x z p with | some y => sp s (y + i) | none => sp s (x + 0x20 + i % z)

/-- Window row `p` in a tile of a shape. -/
def windowRow (s : State) (x : Nat) (h : Shape) (p i : Nat) : Byte := if i < h.u then windowByte s x h.z p i else 0

theorem Shape.u_plain {h : Shape} (hc : h.code < 3) : h.u = h.cols * h.z := if_neg (by omega)

theorem Shape.z_le (h : Shape) : h.z ≤ 4 := by
  rw [Shape.z]
  split <;> norm_num

/-- A row of padding elements. -/
theorem padRow_eq (s : State) (x : Nat) {h : Shape} {p : Nat} (hc : h.code < 3) (hp : winAddr s x h.z p = none) :
    ((List.replicate h.cols (leBytes h.z (windowAt s x).pad)).flatten).length = h.u ∧
      ∀ i, ((List.replicate h.cols (leBytes h.z (windowAt s x).pad)).flatten).getD i 0 = windowRow s x h p i := by
  have hflat : (List.replicate h.cols (leBytes h.z (windowAt s x).pad)).flatten =
      (List.range h.cols).flatMap (fun _ => leBytes h.z (windowAt s x).pad) := by
    rw [List.flatMap_def, List.map_const', List.length_range]
  have hpad : (windowAt s x).pad = Memory.load s.core.scratch (x + 0x20) 4 := by rw [windowAt_fields]; rfl
  obtain ⟨hlen, hget⟩ := getD_flatMap_range (0 : Byte) h.z (fun _ => leBytes h.z (windowAt s x).pad) h.z_pos h.cols (fun _ _ => length_leBytes _ _)
  rw [hflat]
  refine ⟨hlen.trans (Shape.u_plain hc).symm, fun i => ?_⟩
  have hi := Nat.mod_lt i h.z_pos
  have hz := h.z_le
  rw [hget, windowRow, windowByte, hp, Shape.u_plain hc, hpad, getD_leBytes _ _ _ hi, ← byte_eq_load _ _ 4 _ (by omega)]
  rfl

/-- A row of a pixel. -/
theorem pixelRow_eq (s : State) (x : Nat) {h : Shape} {p y : Nat} (hp : winAddr s x h.z p = some y) (i : Nat) :
    (Memory.bytes s.core.scratch y h.u).getD i 0 = windowRow s x h p i := by
  rw [getD_bytes, windowRow, windowByte, hp]
  rfl

/-! ### Rows loaded in order (R186) -/

section
variable {s : State} {d : Reg3} {h : Shape} {x p0 : Nat}

/-- One more row of a window. -/
theorem windowRows_succ (hl : h.legal = true) (hc : h.code < 3) {m n : Nat} {u : State} (hm : m < 64) (halone : alone s u)
    (hw : s.core.writesT u.core d (upTo m (fun r => some (windowRow s x h (p0 + r)))) (fun _ => none))
    (hgood : ∀ y, winAddr s x h.z (p0 + m) = some y → reaches s y h.u h.z ∧ readable s y h.u) :
    ∃ (v : State) (fl : Flags) (l : List (Nat × LoadPart)), windowRows d h (windowAt s x) p0 (n + 1) m u =
        ((windowRows d h (windowAt s x) p0 n (m + 1) v).1, (windowRows d h (windowAt s x) p0 n (m + 1) v).2.1,
          fl ||| (windowRows d h (windowAt s x) p0 n (m + 1) v).2.2.1, l ++ (windowRows d h (windowAt s x) p0 n (m + 1) v).2.2.2) ∧
      alone s v ∧ s.core.writesT v.core d (upTo (m + 1) (fun r => some (windowRow s x h (p0 + r)))) (fun _ => none) ∧
      raisesIf fWBATCH fl (winBeyond s x (p0 + m)) ∧ ∀ a ∈ partAreas l, readable s a.1 a.2 := by
  have hwide : h.u ≤ 128 := (Shape.u_plain hc).trans_le (Shape.cols_z_le hl)
  have hne : fWBATCH ≠ 0 := by decide
  obtain ⟨haddr, hbeyond⟩ := pixel_windowAt s x h.z (p0 + m)
  rw [windowRows]
  dsimp only
  cases hp : ((windowAt s x).pixel (p0 + m)).1 with
  | none =>
    rw [hp, Option.map_none] at haddr
    obtain ⟨hlen, hrow⟩ := padRow_eq s x hc haddr
    refine ⟨_, _, [], rfl, alone_trans halone (alone_onCore u _), ?_, ?_, fun a ha => absurd ha List.not_mem_nil⟩
    · rw [State.core_onCore]
      exact writesT_wrTileRow hw hm (hlen.trans_le hwide) (fun i _ => hrow i) (fun k _ => upTo_succ _ _ k)
    · by_cases hb : ((windowAt s x).pixel (p0 + m)).2 = true
      · rw [if_pos hb]
        exact raisesIf_self (hbeyond.mp hb)
      · rw [if_neg hb]
        exact raisesIf_zero hne (mt hbeyond.mpr hb)
  | some y =>
    rw [hp, Option.map_some] at haddr
    obtain ⟨hreach, hread⟩ := hgood _ haddr
    obtain ⟨-, -, -, -, hcur, -⟩ := id halone
    obtain ⟨hcore, -, -, -⟩ := id hw
    have hlen : u.core.scratchLen = s.core.scratchLen := by rw [hcore]
    have hscratch : u.core.scratch = s.core.scratch := by rw [hcore]
    obtain ⟨k, hk⟩ := spRead_ok u 2 m ((reaches_congr hcur hlen _ _ _).mpr hreach) (readable_of_writesT hw hread)
    rw [hscratch] at hk
    have hinside : ¬winBeyond s x (p0 + m) := fun hb => by
      rw [winAddr] at haddr
      rw [if_pos (.inl hb)] at haddr
      cases haddr
    refine ⟨({ u with fresh := k } : State).onCore (fun c => c.wrTileRow d m (Memory.bytes s.core.scratch (y + (windowAt s x).c0 * h.z) h.u)), 0,
      [(m, ⟨y + (windowAt s x).c0 * h.z, Memory.bytes s.core.scratch (y + (windowAt s x).c0 * h.z) h.u, .window (d.toNat * 64 + m)⟩)], ?_,
      alone_trans halone (alone_onCore { u with fresh := k } _), ?_, raisesIf_zero hne hinside, List.forall_mem_singleton.mpr ?_⟩
    · dsimp only
      rw [hk]
      dsimp only
      rw [leBytes_load, show ∀ f : Flags, 0 ||| f = f from fun _ => BitVec.zero_or]
      rfl
    · rw [State.core_onCore]
      exact writesT_wrTileRow hw hm (by rw [Memory.bytes, SMap.length_getList]; exact hwide) (fun i _ => pixelRow_eq s x haddr i)
        (fun k _ => upTo_succ _ _ k)
    · show readable s _ (Memory.bytes _ _ _).length
      rw [Memory.bytes, SMap.length_getList]
      exact hread

/-- Rows of a window whose pixels can all be read. -/
theorem windowRows_loads (hl : h.legal = true) (hc : h.code < 3) (hrows : h.rows ≤ 64)
    (hgood : ∀ r y, r < h.rows → winAddr s x h.z (p0 + r) = some y → reaches s y h.u h.z ∧ readable s y h.u) :
    ∀ (n m : Nat) (u : State), m + n = h.rows → alone s u →
      s.core.writesT u.core d (upTo m (fun r => some (windowRow s x h (p0 + r)))) (fun _ => none) →
      ∃ (v : State) (fl : Flags) (l : List (Nat × LoadPart)), windowRows d h (windowAt s x) p0 n m u = (v, h.rows, fl, l) ∧ alone s v ∧
        s.core.writesT v.core d (upTo h.rows (fun r => some (windowRow s x h (p0 + r)))) (fun _ => none) ∧
        raisesIf fWBATCH fl (∃ r, m ≤ r ∧ r < h.rows ∧ winBeyond s x (p0 + r)) ∧ ∀ a ∈ partAreas l, readable s a.1 a.2 := by
  intro n
  induction n with
  | zero =>
    intro m u hm halone hw
    obtain rfl : m = h.rows := hm
    exact ⟨u, 0, [], rfl, halone, hw, raisesIf_zero (by decide) (fun ⟨r, h1, h2, _⟩ => absurd h1 (not_le.mpr h2)), fun a ha => absurd ha List.not_mem_nil⟩
  | succ n ih =>
    intro m u hm halone hw
    obtain ⟨v, fl, l, hstep, hvalone, hvw, hfl, hareas⟩ := windowRows_succ (n := n) hl hc (by omega) halone hw (fun y hy => hgood m y (by omega) hy)
    obtain ⟨w, fl', l', hw, hwalone, hww, hfl', hareas'⟩ := ih (m + 1) v (by omega) hvalone hvw
    rw [hw] at hstep
    refine ⟨w, _, _, hstep, hwalone, hww, ?_, ?_⟩
    · rw [exists_from_iff _ (by omega)]
      exact raisesIf_or (by decide) hfl hfl'
    · rw [partAreas, List.map_append]
      exact List.forall_mem_append.mpr ⟨hareas, hareas'⟩

end

/-- Settles O20: every row is that of its pixel or of padding (`windowRows_loads`), at the place that the descriptor gives (`pixel_windowAt`). -/
theorem tileWindow : Obligations.TileWindow := by
  intro s d a b h x p0 hl hc hreach hread hok hgood
  obtain ⟨k, hk⟩ := spRead_ok s 2 0 hreach hread
  obtain ⟨v, fl, l, hv, halone, hw, ⟨hfl, hflag⟩, hareas⟩ := windowRows_loads (d := d) (p0 := p0) hl hc (shape_rows s d) hgood h.rows 0
    { s with fresh := k } (Nat.zero_add _) ⟨fun _ _ => rfl, rfl, rfl, rfl, rfl, rfl⟩ (writesT_refl s.core d)
  have hquiet : ∀ r ∈ (x, 64) :: partAreas l, quiet v .load r.1 r.2 := fun r hr => by
    have hr' := (List.forall_mem_cons (p := fun r => readable s r.1 r.2)).mpr ⟨hread, hareas⟩ r hr
    exact (readable_of_writesT hw hr').2.2
  have hexec : ∃ fly, exec (.twin d a b) s = .next (v.tEnd (tBusy (h.rows * h.u) + 4) fl fly) := by
    show ∃ fly, execTwin d a b s = _
    rw [execTwin]
    dsimp only
    rw [twin_legal hl hc, hk]
    dsimp only
    rw [(windowOk_iff s x h.z).mpr hok, show windowRows d h (windowOf (Memory.load s.core.scratch x 64)) p0 h.rows 0 { s with fresh := k } = _ from hv]
    dsimp only
    rw [touchAll_load_quiet v 2 _ hquiet]
    exact ⟨_, rfl⟩
  obtain ⟨fly, hexec⟩ := hexec
  refine ⟨_, fl, hexec, hfl, hflag.trans ⟨fun ⟨r, _, hr, hb⟩ => ⟨r, hr, hb⟩, fun ⟨r, hr, hb⟩ => ⟨r, Nat.zero_le r, hr, hb⟩⟩, ?_⟩
  exact setsT_tEnd _ fl fly halone hw

end Sys2Proof.Machine
end

section
/-! PROOFS. Which trap a row boundary takes (R219, R345, R347). -/

namespace Sys2Proof.Machine
open Sys2Proof.Says

/-! ### The passes that have a trap pending (R219) -/

/-- A pass has parked in an earlier tick, with a trap. -/
def Pass.pending (p : Pass) (now : Nat) : Prop := p.st = .parked ∧ p.trapAt < now ∧ p.trap ≠ none

/-- What a slot offers to a boundary. -/
def trapOf (now : Nat) (e : Nat × Pass) : Option (Nat × Pass × Byte × Nat) :=
  if e.2.st = .parked ∧ e.2.trapAt < now then e.2.trap.map (fun t => (e.1, e.2, t.1, t.2)) else none

theorem trapOf_none_iff (now : Nat) (e : Nat × Pass) : trapOf now e = none ↔ ¬e.2.pending now := by
  rw [trapOf, Pass.pending]
  split
  · next h => simp [h]
  · next h => exact ⟨fun _ hp => h ⟨hp.1, hp.2.1⟩, fun _ => rfl⟩

theorem trapOf_some {now : Nat} {e : Nat × Pass} {n : Nat} {p : Pass} {code : Byte} {no : Nat} (h : trapOf now e = some (n, p, code, no)) :
    e = (n, p) ∧ p.trap = some (code, no) := by
  rw [trapOf] at h
  split at h
  · obtain ⟨t, ht, he⟩ := Option.map_eq_some_iff.mp h
    simp only [Prod.mk.injEq] at he
    obtain ⟨rfl, rfl, rfl, rfl⟩ := he
    exact ⟨rfl, ht⟩
  · exact absurd h (by simp)

/-- No trap is taken where no pass has one pending. -/
theorem passTrap_none_iff (c : Core) (now : Nat) : c.passTrap now = none ↔ ∀ e ∈ c.passes, ¬e.2.pending now :=
  List.findSome?_eq_none_iff.trans (forall₂_congr (fun e _ => trapOf_none_iff now e))

/-- The trap taken is that of the first pass with one pending: in ascending slots, of the lowest. -/
theorem passTrap_some {c : Core} {now n : Nat} {p : Pass} {code : Byte} {no : Nat} (h : c.passTrap now = some (n, p, code, no)) :
    (n, p) ∈ c.passes ∧ p.pending now ∧ p.trap = some (code, no) ∧
      ((c.passes.map Prod.fst).Pairwise (· < ·) → ∀ e ∈ c.passes, e.2.pending now → n ≤ e.1) := by
  obtain ⟨l, e, r, hl, he, hlow⟩ := List.findSome?_eq_some_iff.mp (show c.passes.findSome? (trapOf now) = _ from h)
  obtain ⟨rfl, ht⟩ := trapOf_some he
  have hpend : p.pending now := by
    by_contra hn
    exact absurd ((trapOf_none_iff now (n, p)).mpr hn) (by simp [he])
  refine ⟨by simp [hl], hpend, ht, fun hsort e hemem hep => ?_⟩
  rw [hl, List.map_append, List.map_cons] at hsort
  rw [hl, List.mem_append, List.mem_cons] at hemem
  rcases hemem with hbefore | rfl | hafter
  · exact absurd hep ((trapOf_none_iff now e).mp (hlow e hbefore))
  · exact le_refl _
  · exact ((List.pairwise_cons.mp (List.pairwise_append.mp hsort).2.1).1 e.1 (List.mem_map_of_mem hafter)).le

/-! ### The order at a boundary of a compute core (R347) -/

/-- A halt line that has arrived leaves no boundary (R348). -/
theorem atBoundary_of_halt {s : State} {k : Nat} {h : Halt} (hh : (s.coreAt k).halt = some h) (hat : h.at_ ≤ (s.dieAt (keyDie k)).tick) :
    s.atBoundary k = false := by
  simp [State.atBoundary, hh, hat]

theorem boundaryTrap_of_no_boundary {s : State} {k : Nat} (h : s.atBoundary k = false) : s.boundaryTrap k = none := by
  simp [State.boundaryTrap, h]

theorem boundaryTrap_in_handler {s : State} {k : Nat} (ha : isAnchor k = false) (hi : (s.coreAt k).trap.inh = true) : s.boundaryTrap k = none := by
  simp [State.boundaryTrap, ha, hi]

/-- The trap of a debugger: the breakpoint of the row due, then the step. -/
def Core.debugTrap (c : Core) (now : Nat) : Option (TrapReq × Core) :=
  if c.brken && decide (c.run = .running) && decide (c.pos.pend = 0) && !c.brkTaken && (c.rowAt c.pos.row).brk then
    some ({ code := cBRK, row := c.pos.row, elem := c.pos.beat, tick := now }, { c with brkTaken := true })
  else if c.step && !c.stepTaken then
    some ({ code := cSTEP, row := c.lastRow, elem := c.lastBeat, tick := now }, { c with stepTaken := true })
  else none

/-- The trap that a boundary of a compute core outside its handler takes. -/
def Core.nextTrap (c : Core) (now : Nat) : Option (TrapReq × Core) :=
  match c.segTrap with
  | row :: r => some ({ code := cSEG, cls := 1, row := row, slot := 3, tick := now }, { c with segTrap := r })
  | [] =>
    match c.passTrap now with
    | some (n, p, code, no) =>
      some ({ code := code, cls := 1, row := p.row, elem := BitVec.ofNat 64 no, slot := 3, tick := now, pslot := some n },
            c.setPass n { p with trap := none })
    | none => c.debugTrap now

theorem boundaryTrap_eq {s : State} {k : Nat} (ha : isAnchor k = false) (hb : s.atBoundary k = true) (hi : (s.coreAt k).trap.inh = false) :
    s.boundaryTrap k = (s.coreAt k).nextTrap (s.dieAt (keyDie k)).tick := by
  simp only [State.boundaryTrap, hb, ha, hi, Bool.not_true, Bool.false_eq_true, if_false] <;> rfl

/-- Settles O32: the passes by `passTrap_none_iff` and `passTrap_some`; a boundary takes none in a handler or past the halt line
(`boundaryTrap_in_handler`, `boundaryTrap_of_no_boundary`), and else the first of the order that `boundaryTrap_eq` gives. -/
theorem trapOrder : Obligations.TrapOrder := by
  intro s k ha c now waits
  refine ⟨passTrap_none_iff c now, fun n p code no h => passTrap_some h, boundaryTrap_in_handler ha,
    fun h hh hat => boundaryTrap_of_no_boundary (atBoundary_of_halt hh hat), fun hrun hhold hhalt hinh => ?_⟩
  have hb : s.atBoundary k = true := by
    simp [State.atBoundary, show (s.coreAt k).run = _ from hrun, show (s.coreAt k).hold = _ from hhold, show (s.coreAt k).halt = _ from hhalt]
  have hnext : s.boundaryTrap k = c.nextTrap now := boundaryTrap_eq ha hb hinh
  rw [hnext]
  refine ⟨fun row rest hs => ?_, fun hs n p code no hp => ?_, fun hs hp hen hpend htaken hbrk => ?_, fun hs hp hen hstep htaken => ?_⟩
  · simp only [Core.nextTrap, hs]; rfl
  · simp only [Core.nextTrap, hs, hp]; exact ⟨_, rfl⟩
  · simp only [Core.nextTrap, hs, hp, Core.debugTrap, hen, hrun, hpend, htaken, hbrk]; exact ⟨_, rfl⟩
  · simp only [Core.nextTrap, hs, hp, Core.debugTrap, hen, hstep, htaken]; exact ⟨_, rfl⟩

end Sys2Proof.Machine
end

section
/-! PROOFS. The oldest request of a die, and how its anchor takes it (R216, R346, R363). -/

namespace Sys2Proof.Machine
open Sys2Proof.Says

/-! ### The oldest request (R346) -/

/-- Of a request kept so far and the next of a list, the one that is kept: the later only where it is older. -/
def keepOlder (best : Option (Nat × TrapReq)) (e : Nat × Option TrapReq) : Option (Nat × TrapReq) :=
  match e.2, best with
  | none, _ => best
  | some t, none => some (e.1, t)
  | some t, some b => if t.tick < b.2.tick then some (e.1, t) else best

/-- A request is the oldest of a list: no other is of an earlier tick, and in ascending keys none of its tick has a lower one. -/
def oldestOf (l : SMap (Option TrapReq)) (x : Nat) (q : TrapReq) : Prop :=
  (x, some q) ∈ l ∧ ∀ y r, (y, some r) ∈ l → q.tick ≤ r.tick ∧ ((l.map Prod.fst).Pairwise (· < ·) → r.tick = q.tick → x ≤ y)

/-- What a scan of a list has found. -/
def scanned (l : SMap (Option TrapReq)) : Option (Nat × TrapReq) → Prop
  | none => ∀ e ∈ l, e.2 = none
  | some (x, q) => oldestOf l x q

/-- The oldest of a list stays so where the next entry holds no request, or one that is no older. -/
theorem oldestOf_append {l : SMap (Option TrapReq)} {x : Nat} {q : TrapReq} (h : oldestOf l x q) (y : Nat) (o : Option TrapReq)
    (ho : ∀ r, o = some r → q.tick ≤ r.tick) : oldestOf (l ++ [(y, o)]) x q := by
  obtain ⟨hmem, hmin⟩ := h
  refine ⟨List.mem_append_left _ hmem, fun z r hz => ?_⟩
  rw [List.map_append]
  rcases List.mem_append.mp hz with hz | hz
  · obtain ⟨hle, htie⟩ := hmin z r hz
    exact ⟨hle, fun hs => htie (List.pairwise_append.mp hs).1⟩
  · obtain ⟨rfl, hr⟩ := Prod.mk.inj (List.mem_singleton.mp hz)
    refine ⟨ho r hr.symm, fun hs _ => ?_⟩
    exact ((List.pairwise_append.mp hs).2.2 x (List.mem_map_of_mem (f := Prod.fst) hmem) z (by simp)).le

/-- A request that is older than all before it is the oldest. -/
theorem oldestOf_last {l : SMap (Option TrapReq)} {y : Nat} {t : TrapReq} (h : ∀ z r, (z, some r) ∈ l → t.tick < r.tick) :
    oldestOf (l ++ [(y, some t)]) y t := by
  refine ⟨by simp, fun z r hz => ?_⟩
  rcases List.mem_append.mp hz with hz | hz
  · exact ⟨(h z r hz).le, fun _ he => absurd he (h z r hz).ne'⟩
  · obtain ⟨rfl, hr⟩ := Prod.mk.inj (List.mem_singleton.mp hz)
    obtain rfl := Option.some.inj hr
    exact ⟨le_refl _, fun _ _ => le_refl _⟩

theorem scanned_keepOlder {l : SMap (Option TrapReq)} {best : Option (Nat × TrapReq)} (h : scanned l best) (e : Nat × Option TrapReq) :
    scanned (l ++ [e]) (keepOlder best e) := by
  obtain ⟨y, o⟩ := e
  cases best with
  | none =>
    have hnone : ∀ z r, (z, some r) ∉ l := fun z r hz => absurd (h _ hz) (by simp)
    cases o with
    | none =>
      intro e he
      rcases List.mem_append.mp he with he | he
      · exact h e he
      · rw [List.mem_singleton.mp he]
    | some t => exact oldestOf_last (fun z r hz => absurd hz (hnone z r))
  | some b =>
    obtain ⟨x, q⟩ := b
    cases o with
    | none => exact oldestOf_append h y none (fun r hr => absurd hr (by simp))
    | some t =>
      show scanned _ (if t.tick < q.tick then some (y, t) else some (x, q))
      split
      · next hlt => exact oldestOf_last (fun z r hz => hlt.trans_le (h.2 z r hz).1)
      · next hge => exact oldestOf_append h y (some t) (fun r hr => Option.some.inj hr ▸ not_lt.mp hge)

theorem scanned_oldest (d : Die) : scanned d.reqs d.oldest := by
  show scanned d.reqs (d.reqs.foldl keepOlder none)
  induction d.reqs using List.reverseRecOn with
  | nil => exact fun e he => absurd he List.not_mem_nil
  | append_singleton l e ih =>
    rw [List.foldl_append]
    exact scanned_keepOlder ih e

theorem oldest_some {d : Die} {x : Nat} {q : TrapReq} (h : d.oldest = some (x, q)) : oldestOf d.reqs x q := by
  have hs := scanned_oldest d
  rw [h] at hs
  exact hs

theorem oldest_none_iff (d : Die) : d.oldest = none ↔ ∀ e ∈ d.reqs, e.2 = none := by
  have hs := scanned_oldest d
  refine ⟨fun h => by rw [h] at hs; exact hs, fun h => ?_⟩
  cases ho : d.oldest with
  | none => rfl
  | some b => exact absurd (h _ (oldest_some (x := b.1) (q := b.2) ho).1) (by simp)

/-! ### Answers to a `TRAP` (R346, R362) -/

theorem keyDie_core {d x : Nat} (h : x < 32) : keyDie (d * 32 + x) = d := by rw [keyDie]; omega

/-- A core whose `TRAP` has its answer: the register takes a value, and nothing holds the core. -/
def Core.answered (r : Reg) (v : Word) (c : Core) : Core := { c.wrS r v with hold := .none }

/-- A core that its `TRAP` holds takes a value in its register, and goes on. -/
theorem answerTrap_eq {s : State} {k : Nat} {r : Reg} (h : (s.coreAt k).hold = .trap r.toNat) (v : Word) :
    s.answerTrap k v = s.onCoreAt k (Core.answered r v) := by
  rw [State.answerTrap, h]
  simp only [BitVec.ofNat_toNat, BitVec.setWidth_eq]
  rfl

/-- The answer to a `TRAP` that asks for no end of the core's handler. -/
theorem answer_trap {s : State} {k : Nat} {q : TrapReq} {r : Reg} (hq : q.code = 0x10) (h : (s.coreAt k).hold = .trap r.toNat) (v : Word) :
    s.answer k q 0 v = s.onCoreAt k (Core.answered r v) := by
  rw [← answerTrap_eq h v]
  simp [State.answer, show q.code = cSWTRAP from hq, h]

/-- The core so answered: no other core has changed, and a later row reads the value. -/
theorem coreAt_answered (s : State) (k : Nat) (r : Reg) (v : Word) : let t := s.onCoreAt k (Core.answered r v)
    (t.coreAt k).hold = .none ∧ (t.coreAt k).beginRow.rdS r = if r = 0 then 0 else v := by
  dsimp only
  rw [State.coreAt_onCoreAt_same]
  refine ⟨rfl, (Core.rdS_wrS (s.coreAt k) r r v).trans ?_⟩
  by_cases hr : r = 0
  · rw [if_neg (fun h => h.2 hr), if_pos hr, Core.rdS_beginRow, if_pos hr]
  · rw [if_pos ⟨rfl, hr⟩, if_neg hr]

/-! ### The anchor takes a request (R346, R363) -/

section
variable {s : State} {die : DieNo} {x : Nat} {q : TrapReq} (ho : (s.dieAt die.toNat).oldest = some (x, q)) (hf : (s.dieAt die.toNat).fence = none)
  (hr : s.anchorReady die.toNat = true)

/-- The state with the request taken from the queue of its die. -/
def State.dequeue (s : State) (d x : Nat) : State := s.onDieAt d (fun p => { p with reqs := SMap.set none p.reqs x none })

include ho hf hr

theorem takeRequest_own (hown : (s.coreAt (die.toNat * 32 + 26)).own = true) : exec (.anchorTakeRequest die) s =
    .next (((s.dequeue die.toNat x).onDieAt die.toNat (fun p => { p with serving := some (x, q) })).enterHandler (die.toNat * 32 + 26) q (some x)) := by
  show execAnchorTakeRequest die s = _
  simp only [execAnchorTakeRequest, ho, hf, hr, show (s.coreAt (die.toNat * 32 + Config.anchorNo)).own = true from hown, Bool.not_true, Bool.false_and,
    Bool.or_false, Bool.false_eq_true, if_false, if_true] <;> rfl

theorem takeRequest_firmware (hown : (s.coreAt (die.toNat * 32 + 26)).own = false) (hdue : q.due (die.toNat * 32 + x) ≤ (s.dieAt die.toNat).tick) :
    exec (.anchorTakeRequest die) s = .next ((s.dequeue die.toNat x).firmware (die.toNat * 32 + x) q) := by
  show execAnchorTakeRequest die s = _
  simp only [execAnchorTakeRequest, ho, hf, hr, show (s.coreAt (die.toNat * 32 + Config.anchorNo)).own = false from hown, Bool.not_true,
    Bool.not_false, Bool.true_and, not_lt.mpr hdue, decide_false, Bool.or_false, Bool.false_eq_true, if_false] <;> rfl
end

/-- The entry of an anchor into its handler for a request: nothing else changes but its die's queue and the request served. -/
theorem serve_enters (s : State) (d x : Nat) (q : TrapReq) (hgood : handlerGood (s.coreAt (d * 32 + 26))) :
    let k := d * 32 + 26
    let t := ((s.dequeue d x).onDieAt d (fun p => { p with serving := some (x, q) })).enterHandler k q (some x)
    onlyAt s t k ∧ enters s t k q (some x) ∧ (t.dieAt d).serving = some (x, q) ∧
      ∀ n, SMap.get none (t.dieAt d).reqs n = if n = x then none else SMap.get none (s.dieAt d).reqs n := by
  intro k
  have hk : keyDie k = d := keyDie_core (by decide)
  set u := (s.dequeue d x).onDieAt d (fun p => { p with serving := some (x, q) }) with hu
  have hdie : u.dieAt d = { s.dieAt d with reqs := SMap.set none (s.dieAt d).reqs x none, serving := some (x, q) } := by
    rw [hu, State.dieAt_onDieAt_same, State.dequeue, State.dieAt_onDieAt_same]
  have honly : onlyAt s u k := by
    rw [hu, State.dequeue, ← hk]
    exact onlyAt_trans (onlyAt_onDieAt s k _ (fun _ => rfl)) (onlyAt_onDieAt _ k (fun p => { p with serving := some (x, q) }) (fun _ => rfl))
  obtain ⟨hent, henters, -⟩ := enterHandler_enters u k q (some x) hgood
  have htdie : (u.enterHandler k q (some x)).dieAt d = { u.dieAt d with heatQ := ((u.enterHandler k q (some x)).dieAt d).heatQ } := by
    rw [enterHandler_of_good u k q (some x) hgood, State.dieAt_onCoreAt, State.stopCore, hk, State.dieAt_onDieAt_same, State.dieAt_onCoreAt]
  refine ⟨onlyAt_trans honly hent, ?_, ?_, fun n => ?_⟩
  · have htick : (u.dieAt (keyDie k)).tick = (s.dieAt (keyDie k)).tick := by rw [hk, hdie]
    have hcore : u.coreAt k = s.coreAt k := rfl
    simpa only [enters, htick, hcore] using henters
  · rw [htdie, hdie]
  · rw [htdie, hdie]
    exact SMap.get_set _ _ _ _ _

/-- Firmware answers a `TRAP` of a service that it does not define with all ones (R363). -/
theorem firmware_undefined {s : State} {k : Nat} {q : TrapReq} {r : Reg} (hq : q.code = 0x10) (hsvc : 3 ≤ q.svc.toNat)
    (h : (s.coreAt k).hold = .trap r.toNat) : s.firmware k q = s.onCoreAt k (Core.answered r (~~~0#64)) := by
  rw [← answer_trap hq h]
  obtain ⟨n, hn⟩ : ∃ n, q.svc.toNat = n + 3 := ⟨q.svc.toNat - 3, by omega⟩
  simp only [State.firmware, show q.code = cSWTRAP from hq, if_true, hn]

/-! ### The fence of firmware (R216) -/

/-- Passes none of which still rides leave nothing to wait for. -/
theorem stillRiding_nil {s : State} {l : List (Nat × Nat)} (h : ∀ e ∈ l, stillOn s e = false) : stillRiding s l = [] := by
  refine List.filter_eq_nil_iff.mpr (fun e he => ?_)
  have hoff : stillOn s e = false := h e he
  rw [stillOn] at hoff
  refine Bool.eq_false_iff.mp (Eq.trans ?_ hoff)
  split
  · rfl
  · exact congrArg (_ && ·) (by rw [Bool.beq_eq_decide_eq]; rfl)

/-- The fence is over: the request is answered, and none is served. -/
theorem takeRequest_fence {s : State} {die : DieNo} {x : Nat} {q : TrapReq} {l : List (Nat × Nat)} {v : Word} {r : Reg}
    (hf : (s.dieAt die.toNat).fence = some (l, 0, v)) (hs : (s.dieAt die.toNat).serving = some (x, q)) (hq : q.code = 0x10)
    (hh : (s.coreAt (die.toNat * 32 + x)).hold = .trap r.toNat) (hoff : ∀ e ∈ l, stillOn s e = false) :
    exec (.anchorTakeRequest die) s = .next ((s.onCoreAt (die.toNat * 32 + x) (Core.answered r v)).onDieAt die.toNat
      (fun d => { d with serving := none, fence := none })) := by
  rw [← answer_trap hq hh]
  show execAnchorTakeRequest die s = _
  simp only [execAnchorTakeRequest, hf, State.fenceStep, stillRiding_nil hoff, hs]

/-- Settles O33: the oldest request by `oldest_none_iff` and `oldest_some`; an anchor's own program enters its handler (`serve_enters`), and firmware
answers a service that it does not define (`firmware_undefined`), or at the end of its fence (`takeRequest_fence`). -/
theorem anchorTakes : Obligations.AnchorTakes := by
  intro s die x q d k reqs
  refine ⟨oldest_none_iff _, oldest_some, fun ho hready hfence => ⟨fun hown hgood => ?_, fun r hx hown hdue hq hsvc hh => ?_⟩,
    fun l v r hx hf hs hq hh hoff => ?_⟩
  · exact ⟨_, takeRequest_own ho hfence hready hown, serve_enters s d x q hgood⟩
  · have hkd : keyDie (d * 32 + x) = d := keyDie_core (by omega)
    refine ⟨_, takeRequest_firmware ho hfence hready hown hdue, ?_⟩
    rw [firmware_undefined (s := s.dequeue d x) hq hsvc hh]
    obtain ⟨hnone, hval⟩ := coreAt_answered (s.dequeue d x) (d * 32 + x) r (~~~0#64)
    refine ⟨onlyAt_trans ?_ (onlyAt_onCoreAt _ _ _), hnone, hval, ?_⟩
    · have hq := onlyAt_onDieAt s (d * 32 + x) (fun p => { p with reqs := SMap.set none p.reqs x none }) (fun _ => rfl)
      rw [hkd] at hq
      exact hq
    · rw [State.dieAt_onCoreAt, State.dequeue, State.dieAt_onDieAt_same]
      exact SMap.get_set_same _ _ _ _
  · obtain ⟨hnone, hval⟩ := coreAt_answered s (d * 32 + x) r v
    refine ⟨_, takeRequest_fence hf hs hq hh hoff, fun j hj => ?_, rfl, rfl, State.dieAt_onDieAt_same _ _ _, hnone, hval⟩
    exact State.coreAt_onCoreAt_other s (d * 32 + x) j (Core.answered r v) hj

end Sys2Proof.Machine
end

section
/-! PROOFS. `MAPW` (R212, R213, R215, R366). -/

namespace Sys2Proof.Machine
open Sys2Proof.Says

/-! ### The die after a write of its map store (R366) -/

/-- The checks of a write to the ranges come in the order 3, 1, 2. -/
theorem mapw_range (d : Die) {ctx index : Nat} (e : BitVec 128) (hi : index ≤ 255) (hv : rgV e = true) : d.mapw false ctx index e =
    if rgFieldsOk e = false ∨ ctx = 0 then (1, d) else if d.rangeClash (ctx * 256 + index) ctx e = true then (2, d)
    else (0, { d with ranges := SMap.set 0 d.ranges (ctx * 256 + index) e }) := by
  simp [Die.mapw, Die.putRange, hv, not_lt.mpr hi]

theorem mapw_beyond (d : Die) {ctx index : Nat} (e : BitVec 128) (hi : 255 < index) : d.mapw false ctx index e = (3, d) := by
  simp [Die.mapw, hi]

/-- An invalid range entry takes its pages with it. -/
theorem mapw_range_invalid (d : Die) {ctx index : Nat} (e : BitVec 128) (hi : index ≤ 255) (hv : rgV e = false) : d.mapw false ctx index e =
    (0, { d with ranges := SMap.set 0 d.ranges (ctx * 256 + index) e
                 pages := d.pages.filter (fun q => decide (pgCtx q.2 * 256 + pgRange q.2 ≠ ctx * 256 + index)) }) := by
  simp [Die.mapw, Die.putRange, hv, not_lt.mpr hi]

theorem mapw_page (d : Die) (ctx index : Nat) (e : BitVec 128) (hv : rgV e = true) : d.mapw true ctx index e =
    if pgFieldsOk e = false then (1, d) else if d.pageClash index e = true then (2, d)
    else (0, { d with pages := SMap.set 0 d.pages index e }) := by
  simp [Die.mapw, hv]

theorem mapw_page_invalid (d : Die) (ctx index : Nat) (e : BitVec 128) (hv : rgV e = false) :
    d.mapw true ctx index e = (0, { d with pages := SMap.set 0 d.pages index e }) := by
  simp [Die.mapw, hv]

/-! ### The instruction (R215, R366) -/

/-- The window of an anchor after a write that was made: the next index. -/
def Core.nextEntry (c : Core) : Core :=
  { c with mapIndex := if c.mapTable then c.mapIndex + 1 else BitVec.ofNat 16 ((c.mapIndex.toNat + 1) % 256) }

/-- The state after a `MAPW` with an answer: the die, the register, and where the write was made the window. -/
def State.mapWritten (s : State) (d : Reg) (code : Nat) (x : Die) : State :=
  let t := (s.setDieAt s.die x).setS d (BitVec.ofNat 64 code)
  if code = 0 then t.onCore Core.nextEntry else t

section
variable {s : State} {g : Guard} {d a b : Reg} (hs : s.sup = true) (hg : s.core.guardOn g = true)
include hs hg

theorem exec_mapw {table : Bool} {code : Nat} {x : Die} (ht : s.core.mapTable = table)
    (hw : (s.dieAt s.die).mapw table s.core.mapCtx.toNat s.core.mapIndex.toNat (s.core.rdS b ++ s.core.rdS a) = (code, x)) :
    exec (.mapw g d a b) s = .next (s.mapWritten d code x) := by
  subst ht
  show execMapw g d a b s = _
  simp only [execMapw, supOnly, hs, hg, if_true, hw]
  rfl
end

/-- The core after a `MAPW`: its register has the answer, its window may have moved on. -/
theorem core_mapWritten (s : State) (d : Reg) (code : Nat) (x : Die) :
    (s.mapWritten d code x).core = if code = 0 then (s.core.wrS d (BitVec.ofNat 64 code)).nextEntry else s.core.wrS d (BitVec.ofNat 64 code) := by
  have hset : ((s.setDieAt s.die x).setS d (BitVec.ofNat 64 code)).core = s.core.wrS d (BitVec.ofNat 64 code) := State.core_onCore _ _
  rw [State.mapWritten]
  split
  · rw [State.core_onCore, hset]
  · exact hset

theorem coreAt_mapWritten (s : State) (d : Reg) (code : Nat) (x : Die) (k : Nat) (hk : k ≠ s.cur) : (s.mapWritten d code x).coreAt k = s.coreAt k := by
  have hset : ((s.setDieAt s.die x).setS d (BitVec.ofNat 64 code)).coreAt k = s.coreAt k := State.coreAt_onCore_other _ _ _ hk
  rw [State.mapWritten]
  split
  · exact (State.coreAt_onCore_other ((s.setDieAt s.die x).setS d (BitVec.ofNat 64 code)) k Core.nextEntry hk).trans hset
  · exact hset

theorem dieAt_mapWritten (s : State) (d : Reg) (code : Nat) (x : Die) : (s.mapWritten d code x).dieAt s.die = x := by
  have hset : ((s.setDieAt s.die x).setS d (BitVec.ofNat 64 code)).dieAt s.die = x := State.dieAt_setDieAt_same _ _ _
  rw [State.mapWritten]
  split <;> exact hset

/-- What a `MAPW` leaves alone: the module, the segments, other cores, other registers, and the scratchpad. -/
theorem mapWritten_frame (s : State) (d : Reg) (code : Nat) (x : Die) : let t := s.mapWritten d code x
    t.mod = s.mod ∧ t.segs = s.segs ∧ (∀ k, k ≠ s.cur → t.coreAt k = s.coreAt k) ∧
      (∀ r, laterS t r = if r = d ∧ r ≠ 0 then BitVec.ofNat 64 code else laterS s r) ∧ t.core.scratch = s.core.scratch := by
  intro t
  have hframe : t.mod = s.mod ∧ t.segs = s.segs := by
    show (s.mapWritten d code x).mod = _ ∧ (s.mapWritten d code x).segs = _
    rw [State.mapWritten]
    split <;> exact ⟨rfl, rfl⟩
  have hregs : t.core.regs = (s.core.wrS d (BitVec.ofNat 64 code)).regs ∧ t.core.scratch = (s.core.wrS d (BitVec.ofNat 64 code)).scratch := by
    rw [core_mapWritten]
    split <;> exact ⟨rfl, rfl⟩
  refine ⟨hframe.1, hframe.2, coreAt_mapWritten s d code x, fun r => ?_, ?_⟩
  · have hread : laterS t r = (s.core.wrS d (BitVec.ofNat 64 code)).beginRow.rdS r := by
      rw [laterS, Core.rdS_beginRow, Core.rdS_beginRow, hregs.1]
    exact hread.trans (Core.rdS_wrS _ _ _ _)
  · rw [hregs.2, Core.wrS_eq]

/-- The index of the window after a write that was made: the next one, of 256 ranges or of 65,536 pages (R215). -/
theorem mapIndex_mapWritten (s : State) (d : Reg) (x : Die) : (s.mapWritten d 0 x).core.mapIndex =
    if s.core.mapTable then s.core.mapIndex + 1 else BitVec.ofNat 16 ((s.core.mapIndex.toNat + 1) % 256) := by
  rw [core_mapWritten, if_pos rfl, Core.wrS_eq]
  rfl

/-- Settles O36: a `MAPW` leaves what `mapWritten_frame` says and the die that `Die.mapw` gives, by the table and the checks (`mapw_beyond`, `mapw_range`,
`mapw_range_invalid`, `mapw_page`, `mapw_page_invalid`). -/
theorem mapWrites : Obligations.MapWrites := by
  intro s g d a b hs hg e x place done
  have hctx : s.core.mapCtx.toNat = 0 ↔ s.core.mapCtx = 0 := by rw [← BitVec.toNat_inj]; rfl
  -- A `MAPW` whose checks give a code and a die.
  have written : ∀ {table : Bool} {code : Nat} {y : Die}, s.core.mapTable = table →
      x.mapw table s.core.mapCtx.toNat s.core.mapIndex.toNat e = (code, y) → done (s.mapWritten d code y) (BitVec.ofNat 64 code) :=
    fun ht hw => ⟨exec_mapw hs hg ht hw, mapWritten_frame s d _ _⟩
  refine ⟨fun ht hi => ?_, fun ht hi hv => ?_, fun ht hv => ?_, fun ht hi hv => ⟨fun hbad => ?_, fun hok hc hclash => ?_, fun hok hc hclash => ?_⟩,
    fun ht hv => ⟨fun hbad => ?_, fun hok hclash => ?_, fun hok hclash => ?_⟩⟩
  · exact ⟨_, written ht (mapw_beyond x e hi), dieAt_mapWritten _ _ _ _⟩
  · refine ⟨_, written ht (mapw_range_invalid x e hi hv), ?_, fun p => ?_⟩
    · rw [dieAt_mapWritten]
    · rw [dieAt_mapWritten, List.mem_filter, decide_eq_true_iff]
  · exact ⟨_, written ht (mapw_page_invalid x _ _ e hv), dieAt_mapWritten _ _ _ _⟩
  · exact ⟨_, written ht ((mapw_range x e hi hv).trans (if_pos (hbad.imp_right hctx.mpr))), dieAt_mapWritten _ _ _ _⟩
  · have hgood : ¬(rgFieldsOk e = false ∨ s.core.mapCtx.toNat = 0) := not_or.mpr ⟨by simp [hok], mt hctx.mp hc⟩
    exact ⟨_, written ht ((mapw_range x e hi hv).trans ((if_neg hgood).trans (if_pos hclash))), dieAt_mapWritten _ _ _ _⟩
  · have hgood : ¬(rgFieldsOk e = false ∨ s.core.mapCtx.toNat = 0) := not_or.mpr ⟨by simp [hok], mt hctx.mp hc⟩
    have hfree : ¬x.rangeClash place s.core.mapCtx.toNat e = true := Bool.eq_false_iff.mp hclash
    refine ⟨_, written ht ((mapw_range x e hi hv).trans ((if_neg hgood).trans (if_neg hfree))), dieAt_mapWritten _ _ _ _, ?_⟩
    rw [mapIndex_mapWritten, ht, if_neg Bool.false_ne_true, BitVec.toNat_ofNat]
    omega
  · exact ⟨_, written ht ((mapw_page x _ _ e hv).trans (if_pos hbad)), dieAt_mapWritten _ _ _ _⟩
  · exact ⟨_, written ht ((mapw_page x _ _ e hv).trans ((if_neg (by simp [hok])).trans (if_pos hclash))), dieAt_mapWritten _ _ _ _⟩
  · refine ⟨_, written ht ((mapw_page x _ _ e hv).trans ((if_neg (by simp [hok])).trans (if_neg (Bool.eq_false_iff.mp hclash)))), dieAt_mapWritten _ _ _ _, ?_⟩
    rw [mapIndex_mapWritten, ht, if_pos rfl]

end Sys2Proof.Machine
end

section
/-! PROOFS. A pass row opens a pass, parks it, or is refused (R204, R217, R218, R221 to R226, R231 to R242, R360). -/

namespace Sys2Proof.Machine
open Sys2Proof.Says

/-! ### The entries (R231 to R242) -/

/-- A pass row is issued on the segment of its core, with the checks of its entry. -/
theorem exec_passEntries : ∀ e ∈ passEntries, ∀ (s : State) (o : PassOp), exec (e.1 o) s = .next (s.issuePass s.core.seg (s.planOf e.2 o)) := by
  simp only [passEntries, List.forall_mem_cons, List.not_mem_nil, false_implies, implies_true, and_true]
  and_intros <;> exact fun _ _ => rfl

/-- None of the entries zeroes stitches by their numbers or is a ternary pass. -/
theorem plain_passEntries : ∀ e ∈ passEntries, e.2 ≠ .zeroPhys ∧ e.2.isMat = false := by
  simp only [passEntries, List.forall_mem_cons, List.not_mem_nil, false_implies, implies_true, and_true]
  decide

/-- The pass of an entry's checks has the operands of its row; the entry says whether it has a list, and whether it returns old values. -/
theorem pass_planOf : ∀ e ∈ passEntries, ∀ (s : State) (o : PassOp), ∃ idx ret, (s.planOf e.2 o).pass = { s.passOf e.2 o with idx := idx, ret := ret } := by
  simp only [passEntries, List.forall_mem_cons, List.not_mem_nil, false_implies, implies_true, and_true]
  and_intros <;> exact fun _ _ => ⟨_, _, rfl⟩

/-! ### The check at open (R217, R218) -/

theorem checkStitches_ok {d : Die} {ctx segNo period : Nat} {need : Perm} : ∀ (l : List Nat) (rs : List (BitVec 128)),
    (∀ v ∈ l, ∃ r, d.checkOpen ctx segNo period need (128 * v) = .inr r) → ∃ rs', checkStitches d ctx segNo period need l rs = .inr rs' := by
  intro l
  induction l with
  | nil => intro rs _; exact ⟨rs, rfl⟩
  | cons v l ih =>
    intro rs h
    obtain ⟨⟨r, hr⟩, hl⟩ := List.forall_mem_cons.mp h
    obtain ⟨rs', h'⟩ := ih (if rs.contains r then rs else rs ++ [r]) hl
    exact ⟨rs', by rw [checkStitches, hr]; exact h'⟩

theorem checkStitches_fails {d : Die} {ctx segNo period : Nat} {need : Perm} : ∀ (l : List Nat) (rs : List (BitVec 128)),
    (¬∀ v ∈ l, ∃ r, d.checkOpen ctx segNo period need (128 * v) = .inr r) → ∃ f, checkStitches d ctx segNo period need l rs = .inl f := by
  intro l
  induction l with
  | nil => intro rs h; exact absurd (fun v hv => absurd hv List.not_mem_nil) h
  | cons v l ih =>
    intro rs h
    cases hv : d.checkOpen ctx segNo period need (128 * v) with
    | inl code => exact ⟨(code, v), by rw [checkStitches, hv]⟩
    | inr r =>
      obtain ⟨f, hf⟩ := ih (if rs.contains r then rs else rs ++ [r]) (fun hl => h (List.forall_mem_cons.mpr ⟨⟨r, hv⟩, hl⟩))
      exact ⟨f, by rw [checkStitches, hv]; exact hf⟩

/-- A pass whose stitches are mapped for it rides. -/
theorem openCheck_of_mapped {s : State} {p : Pass} (hk : p.kind ≠ .zeroPhys) (h : mapped s p) :
    ∃ rs, s.openCheck p = { p with st := .riding, atOpen := false, ranges := rs, page := none } := by
  obtain ⟨rs, hrs⟩ := checkStitches_ok _ [] h
  exact ⟨rs, by rw [State.openCheck, if_neg hk, hrs]⟩

/-- Else it parks at its open point, with a trap. -/
theorem openCheck_of_not_mapped {s : State} {p : Pass} (hk : p.kind ≠ .zeroPhys) (h : ¬mapped s p) :
    ∃ tr now, s.openCheck p = { p with st := .parked, atOpen := true, trap := some tr, page := none, trapAt := now } := by
  obtain ⟨f, hf⟩ := checkStitches_fails _ [] h
  exact ⟨_, _, by rw [State.openCheck, if_neg hk, hf]⟩

/-! ### Opening (R204, R208, R221 to R224, R360) -/

/-- What opening decides of a pass: its state, where it parks and the trap with which, the ranges found, and the set of a `PCMT`; the rest it has
from its row. -/
def Pass.opensAs (p q : Pass) : Prop :=
  q = { p with st := q.st, atOpen := q.atOpen, frozen := q.frozen, ranges := q.ranges, page := q.page, trap := q.trap, trapAt := q.trapAt, elig := q.elig }

theorem opensAs_trans {p q r : Pass} (h : p.opensAs q) (g : q.opensAs r) : p.opensAs r := by
  rw [Pass.opensAs] at h g ⊢
  rw [g, h]

/-- Whether its stitches are mapped, a pass has from its row. -/
theorem mapped_congr {s : State} {p q : Pass} (h : p.opensAs q) : mapped s q ↔ mapped s p := by
  rw [h]; rfl

/-- A pass with its order key, and with its place at opening. -/
def State.keyed (s : State) (p : Pass) : Pass :=
  { p with
    key := if s.sup then { sup := true, seq := (s.dieAt s.die).supSeq } else { launch := s.core.lid.toNat, lcore := s.core.lcore, seq := s.core.seq.toNat }
    row := s.core.pos.row, openRow := s.core.pos.row, openBeat := s.core.beats
    openPt := (s.cursorOf p.seg + 2) % s.period p.seg, lead := s.leadOf p.seg, interval := s.core.interval }

/-- The pass that opens in a slot. -/
def State.openedPass (s : State) (p : Pass) : Pass :=
  let q := (s.openKind (s.keyed p)).2
  if s.core.step && s.core.pfreeze then { q with st := .parked, atOpen := true, frozen := true } else s.openCheck q

/-- A pass that is neither a zero of stitches nor ternary reserves entries of its segment's buffer, or takes the set that it commits. -/
theorem openKind_plain (s : State) (p : Pass) (hk : p.kind ≠ .zeroPhys) (hm : p.kind.isMat = false) :
    (s.openKind p).2 = { p with elig := (s.openKind p).2.elig } ∧
      ∃ r, (s.openKind p).1 = s ∨ (s.openKind p).1 = s.setSegAt p.seg { s.segAt p.seg with reserved := r } := by
  simp only [State.openKind, hk, if_false, hm, Bool.false_eq_true]
  split
  · exact ⟨rfl, _, .inr rfl⟩
  · split
    · exact ⟨rfl, [], .inl rfl⟩
    · exact ⟨rfl, [], .inl rfl⟩

theorem opensAs_openKind {s : State} {p : Pass} (hk : p.kind ≠ .zeroPhys) (hm : p.kind.isMat = false) : p.opensAs (s.openKind p).2 := by
  rw [Pass.opensAs, (openKind_plain s p hk hm).1]

/-- What becomes of a pass that opens: unless the core is stepped with PFREEZE, its map decides. -/
theorem openedPass_cases (s : State) (p : Pass) (hk : p.kind ≠ .zeroPhys) (hm : p.kind.isMat = false) : let f := s.openedPass p
    (s.keyed p).opensAs f ∧ (s.core.step = false → mapped s f → f.st = .riding) ∧
      (s.core.step = false → ¬mapped s f → f.st = .parked ∧ f.atOpen = true ∧ f.trap.isSome = true) ∧
      (s.core.step = true → s.core.pfreeze = true → f.st = .parked ∧ f.atOpen = true ∧ f.frozen = true ∧ f.trap = p.trap) := by
  intro f
  set q := (s.openKind (s.keyed p)).2 with hq
  have hopen : (s.keyed p).opensAs q := opensAs_openKind hk hm
  have hqk : q.kind ≠ .zeroPhys := by rw [hopen]; exact hk
  by_cases hz : (s.core.step && s.core.pfreeze) = true
  · have hf : f = { q with st := .parked, atOpen := true, frozen := true } := if_pos hz
    have hstep : s.core.step ≠ false := by simp [(Bool.and_eq_true_iff.mp hz).1]
    refine ⟨opensAs_trans hopen (by rw [Pass.opensAs, hf]), fun h => absurd h hstep, fun h => absurd h hstep, fun _ _ => ?_⟩
    have htrap : q.trap = p.trap := by rw [hq, (openKind_plain s (s.keyed p) hk hm).1]; rfl
    rw [hf]
    exact ⟨rfl, rfl, rfl, htrap⟩
  · have hf : f = s.openCheck q := if_neg hz
    have hnot : s.core.step = true → s.core.pfreeze = true → False := fun h1 h2 => hz (by rw [h1, h2]; rfl)
    by_cases hmap : mapped s q
    · obtain ⟨rs, hc⟩ := openCheck_of_mapped hqk hmap
      rw [← hf] at hc
      have hqf : q.opensAs f := by rw [Pass.opensAs, hc]
      refine ⟨opensAs_trans hopen hqf, fun _ _ => by rw [hc], fun _ h => absurd ((mapped_congr hqf).mpr hmap) h, fun h1 h2 => (hnot h1 h2).elim⟩
    · obtain ⟨tr, now, hc⟩ := openCheck_of_not_mapped hqk hmap
      rw [← hf] at hc
      have hqf : q.opensAs f := by rw [Pass.opensAs, hc]
      refine ⟨opensAs_trans hopen hqf, fun _ h => absurd ((mapped_congr hqf).mp h) hmap, fun _ _ => ?_, fun h1 h2 => (hnot h1 h2).elim⟩
      rw [hc]
      exact ⟨rfl, rfl, rfl⟩

/-- The core after a pass has opened in a slot. -/
def Core.withPass (c : Core) (n : Nat) (f : Pass) : Core := { (c.tagIssue f.tag).setPass n f with seq := c.seq + 1 }

/-- The state after a pass has opened: the core, the entries reserved in the segment, and the opening order of supervisor passes. -/
theorem openPass_spec (s : State) (n : Nat) (p : Pass) (hk : p.kind ≠ .zeroPhys) (hm : p.kind.isMat = false) : let t := s.openPass n p
    t.core = s.core.withPass n (s.openedPass p) ∧ (∀ k, k ≠ s.cur → t.coreAt k = s.coreAt k) ∧ t.mod = s.mod ∧ t.cur = s.cur ∧ t.turns = s.turns ∧
      (∀ k, t.segAt k = { s.segAt k with reserved := (t.segAt k).reserved }) ∧ ∀ d, t.dieAt d = { s.dieAt d with supSeq := (t.dieAt d).supSeq } := by
  intro t
  set u := (s.openKind (s.keyed p)).1 with hu
  set g : Core → Core := fun c => { (c.tagIssue p.tag).setPass n (s.openedPass p) with seq := c.seq + 1 } with hg
  have ht : t = if s.sup then (u.onCore g).onDieAt s.die (fun d => { d with supSeq := d.supSeq + 1 }) else u.onCore g := rfl
  have htag : (s.openedPass p).tag = p.tag := by
    rw [(openedPass_cases s p hk hm).1]; rfl
  have hucores : u.cores = s.cores ∧ u.dies = s.dies ∧ u.mod = s.mod ∧ u.cur = s.cur ∧ u.turns = s.turns ∧
      ∀ k, u.segAt k = { s.segAt k with reserved := (u.segAt k).reserved } := by
    obtain ⟨-, r, h | h⟩ := openKind_plain s (s.keyed p) hk hm
    · rw [hu, h]
      exact ⟨rfl, rfl, rfl, rfl, rfl, fun _ => rfl⟩
    · rw [hu, h]
      refine ⟨rfl, rfl, rfl, rfl, rfl, fun k => ?_⟩
      rw [State.segAt_setSegAt]
      split
      · next hkey => rw [hkey]
      · rfl
  obtain ⟨hcores, hdies, hmod, hcur, hturns, hsegs⟩ := hucores
  have hucore : ∀ k, u.coreAt k = s.coreAt k := fun k => by rw [State.coreAt, State.coreAt, hcores]
  have hcore : (u.onCore g).core = s.core.withPass n (s.openedPass p) := by
    rw [State.core_onCore, State.core, hcur, hucore, Core.withPass, htag]; rfl
  have hother : ∀ k, k ≠ s.cur → (u.onCore g).coreAt k = s.coreAt k := fun k hk => by
    rw [State.coreAt_onCore_other _ _ _ (by rw [hcur]; exact hk), hucore]
  have hdie : ∀ d, (u.onCore g).dieAt d = s.dieAt d := fun d => by rw [State.dieAt_onCore, State.dieAt, State.dieAt, hdies]
  rw [ht]
  split
  · refine ⟨hcore, hother, hmod, hcur, hturns, hsegs, fun d => ?_⟩
    rw [State.dieAt_onDieAt, hdie, hdie]
    split
    · next hd => rw [hd]
    · rfl
  · exact ⟨hcore, hother, hmod, hcur, hturns, hsegs, fun d => by rw [hdie]⟩

/-! ### A row that is refused (R221, R225, R226) -/

/-- A tag has issued (R223). -/
theorem get_riders_tagIssue (c : Core) (g : BitVec 6) (m : Nat) :
    SMap.get 0 (c.tagIssue g).riders m = if m = g.toNat then SMap.get 0 c.riders m + 1 else SMap.get 0 c.riders m := by
  rw [Core.tagIssue]
  refine (SMap.get_set _ _ _ _ _).trans ?_
  by_cases h : m = g.toNat
  · rw [if_pos h, if_pos h, h]
  · rw [if_neg h, if_neg h]

/-- A refused open, with what else the row leaves in the core's list of traps for want of a segment. -/
theorem refuses_onCore (s : State) (g : BitVec 6) (f : Core → List Nat) :
    let t := s.onCore (fun c => { c.tagIssue g with seq := c.seq + 1, refusals := c.refusals ++ [(4, g)], segTrap := f c })
    refuses s t g ∧ t.core.segTrap = f s.core := by
  intro t
  have hc : t.core = { s.core.tagIssue g with seq := s.core.seq + 1, refusals := s.core.refusals ++ [(4, g)], segTrap := f s.core } :=
    State.core_onCore _ _
  refine ⟨⟨alone_onCore s _, ⟨by rw [hc]; rfl, fun m => ?_⟩, by rw [hc]; rfl⟩, by rw [hc]⟩
  rw [hc]
  exact get_riders_tagIssue s.core g m

theorem refuseOpen_refuses (s : State) (g : BitVec 6) : refuses s (s.refuseOpen g) g ∧ (s.refuseOpen g).core.segTrap = s.core.segTrap :=
  refuses_onCore s g Core.segTrap

/-- A row of a core without a segment is refused, and leaves a trap pending. -/
theorem noSegment_refuses (s : State) (g : BitVec 6) : let t := (s.refuseOpen g).onCore (fun c => { c with segTrap := c.segTrap ++ [c.pos.row] })
    refuses s t g ∧ t.core.segTrap = s.core.segTrap ++ [s.core.pos.row] := by
  intro t
  obtain ⟨⟨halone, htag, hcore⟩, htrap⟩ := refuseOpen_refuses s g
  have hc : t.core = { (s.refuseOpen g).core with segTrap := (s.refuseOpen g).core.segTrap ++ [(s.refuseOpen g).core.pos.row] } := State.core_onCore _ _
  have hpos : (s.refuseOpen g).core.pos = s.core.pos := by rw [hcore]
  refine ⟨⟨alone_trans halone (alone_onCore _ _), ?_, ?_⟩, by rw [hc, htrap, hpos]⟩
  · rw [tagged, hc]; exact htag
  · rw [hc]
    dsimp only
    rw [hcore]

/-! ### The checks of a pass row (R225, R226) -/

theorem areaOk_iff (top : Nat) (r : Nat × Nat × Nat) : areaOk top r = true ↔ r.1 % r.2.2 = 0 ∧ r.1 + r.2.1 ≤ top := by
  simp [areaOk]

/-- Of areas that do not all fit, the first that does not is named. -/
theorem areaBound_faults (s : State) (areas : List (Nat × Nat × Nat)) (h : areas.all (areaOk (s.spEnd s.cur)) = false) :
    ∃ r ∈ areas, ¬areaOk (s.spEnd s.cur) r = true ∧ faults s (s.areaBound areas) { wFault s with addr := BitVec.ofNat 64 r.1 } := by
  have hex : (areas.find? (fun a => !(areaOk (s.spEnd s.cur) a))).isSome = true := by
    rw [List.find?_isSome]
    obtain ⟨r, hr, hbad⟩ := List.all_eq_false.mp h
    exact ⟨r, hr, by simpa using hbad⟩
  obtain ⟨r, hr⟩ := Option.isSome_iff_exists.mp hex
  refine ⟨r, List.mem_of_find?_eq_some hr, by simpa using List.find?_some hr, ?_⟩
  rw [State.areaBound, hr]
  exact raise_faults s _

section
variable {s : State} {pl : Plan} {seg n : Nat}

theorem passEntry_ok (ht : pl.pass.tag.toNat < s.tagCount s.cur) (hn : s.idleSlot s.cur = some n) : s.passEntry (some seg) pl.pass.tag = .inr (seg, n) := by
  simp only [State.passEntry, not_le.mpr ht, if_false, hn]

/-- A row whose tag is none of the core's, or that finds no idle slot. -/
theorem issuePass_bound (h : ¬pl.pass.tag.toNat < s.tagCount s.cur ∨ s.idleSlot s.cur = none) :
    s.issuePass (some seg) pl = s.passBound := by
  have hentry : s.passEntry (some seg) pl.pass.tag = .inl s.passBound := by
    rw [State.passEntry]
    split
    · rfl
    · next ht =>
      rcases h with h | h
      · exact absurd (not_lt.mp h) ht
      · rw [h]
  rw [State.issuePass, hentry]

variable (ht : pl.pass.tag.toNat < s.tagCount s.cur) (hn : s.idleSlot s.cur = some n)
include ht hn

/-- The rest of the checks: the descriptor where the areas need it, the areas, and the limits. -/
theorem issuePass_eq : s.issuePass (some seg) pl =
    if pl.early && !pl.descOk then s.refuseOpen pl.pass.tag
    else if !(pl.areas.all (areaOk (s.spEnd s.cur))) then s.areaBound pl.areas
    else if !(pl.descOk && pl.limits) then s.refuseOpen pl.pass.tag
    else s.takePass n { pl.pass with seg := seg } pl.srcs pl.dsts := by
  rw [State.issuePass, passEntry_ok ht hn]

theorem issuePass_early (he : pl.early = true) (hd : pl.descOk = false) : s.issuePass (some seg) pl = s.refuseOpen pl.pass.tag := by
  rw [issuePass_eq ht hn, he, hd]
  rfl

theorem issuePass_area (he : ¬(pl.early = true ∧ pl.descOk = false)) (ha : pl.areas.all (areaOk (s.spEnd s.cur)) = false) :
    s.issuePass (some seg) pl = s.areaBound pl.areas := by
  rw [issuePass_eq ht hn, if_neg (by simpa using he), ha]
  rfl

theorem issuePass_limits (ha : pl.areas.all (areaOk (s.spEnd s.cur)) = true) (hd : ¬(pl.descOk = true ∧ pl.limits = true)) :
    s.issuePass (some seg) pl = s.refuseOpen pl.pass.tag := by
  have hd' : (pl.descOk && pl.limits) = false := by
    rw [Bool.eq_false_iff]
    exact fun h => hd (Bool.and_eq_true_iff.mp h)
  rw [issuePass_eq ht hn, ha, hd']
  simp

theorem issuePass_takes (ha : pl.areas.all (areaOk (s.spEnd s.cur)) = true) (hd : pl.descOk = true) (hl : pl.limits = true) :
    s.issuePass (some seg) pl = s.takePass n { pl.pass with seg := seg } pl.srcs pl.dsts := by
  rw [issuePass_eq ht hn, ha, hd, hl]
  simp
end

/-! ### The opening of a row whose checks succeed -/

/-- A pass that reads no sector of another core's writes leaves the race detector as it is. -/
theorem touchAreas_quiet : ∀ (areas : List (Nat × Nat)) (s : State), (∀ r ∈ areas, quiet s .passRead r.1 r.2) → touchAreas s .passRead areas = s := by
  intro areas
  induction areas with
  | nil => intro s _; rfl
  | cons r rs ih =>
    intro s h
    obtain ⟨hr, hrs⟩ := List.forall_mem_cons.mp h
    have htouch : s.touch .passRead 3 r.1 r.2 = s := by
      simp [State.touch, State.touchAt, show conflictAt (s.coreAt s.cur) .passRead (r.1 / 64) (sectors r.1 r.2) = none from hr, Access.writes]
    rw [touchAreas, htouch]
    exact ih s hrs

/-- A pass with the areas that it reads and writes, and their bytes. -/
def State.armed (s : State) (p : Pass) (srcs dsts : List (Nat × Nat)) : Pass :=
  let q : Pass := { p with src := s.core.areaBytes s.fresh srcs, srcAreas := srcs, dstAreas := dsts }
  { q with err := q.badIndex }

theorem takePass_good {s : State} (n : Nat) (p : Pass) {srcs : List (Nat × Nat)} (dsts : List (Nat × Nat)) (h : sourcesGood s srcs) :
    s.takePass n p srcs dsts = ({ s with fresh := s.fresh + 1 } : State).openPass n (s.armed p srcs dsts) := by
  have hfind : srcs.find? (fun r => badIn s.core.settled.badScratch r.1 r.2) = none :=
    List.find?_eq_none.mpr (fun r hr => by rw [(h r hr).1]; exact Bool.false_ne_true)
  rw [State.takePass, hfind, touchAreas_quiet srcs s (fun r hr => (h r hr).2)]
  rfl

/-- What a pass has from its row. -/
theorem opened_operands {s : State} {e : PassKind} {o : PassOp} {idx ret : Bool} {seg : Nat} {srcs dsts : List (Nat × Nat)} {f : Pass}
    (hf : (s.keyed (s.armed { s.passOf e o with idx := idx, ret := ret, seg := seg } srcs dsts)).opensAs f) :
    let r := fun (x : Reg) => (s.core.rdS x).toNat
    f.kind = e ∧ f.tag = o.tag ∧ f.sa = r o.a ∧ f.sb = r o.b ∧ f.sc = r o.c ∧ f.sd = r o.d ∧ f.se = r o.e ∧ f.seg = seg ∧ f.ctx = ownTag s ∧
      f.desc = s.desc (ownTag s) o.tid.toNat ∧ f.row = s.core.pos.row ∧ f.openRow = s.core.pos.row ∧ f.interval = s.core.interval ∧ f.visits = 0 ∧
      f.closeIn = 0 ∧ f.cancelled = false ∧ f.openPt = (s.cursorOf seg + 2) % s.period seg ∧
      f.lead = (if (s.dieAt (keyDie seg)).holdTick then 2 else 1) ∧
      (s.sup = false → f.key = { launch := s.core.lid.toNat, lcore := s.core.lcore, seq := s.core.seq.toNat }) ∧
      (s.sup = true → f.key = { sup := true, seq := (s.dieAt s.die).supSeq }) := by
  have hkey : f.key = if s.sup then { sup := true, seq := (s.dieAt s.die).supSeq }
      else { launch := s.core.lid.toNat, lcore := s.core.lcore, seq := s.core.seq.toNat } := by rw [hf]; rfl
  refine ⟨?_, ?_, ?_, ?_, ?_, ?_, ?_, ?_, ?_, ?_, ?_, ?_, ?_, ?_, ?_, ?_, ?_, ?_, fun h => hkey.trans (by rw [h]; rfl), fun h => hkey.trans (by rw [h]; rfl)⟩
  all_goals rw [hf]; rfl

/-- A row whose checks succeed opens its pass. -/
theorem takePass_opens {s : State} {n seg : Nat} {e : PassKind} {o : PassOp} {idx ret : Bool} {srcs : List (Nat × Nat)} (dsts : List (Nat × Nat))
    (hk : e ≠ .zeroPhys) (hm : e.isMat = false) (h : sourcesGood s srcs) :
    let t := s.takePass n { s.passOf e o with idx := idx, ret := ret, seg := seg } srcs dsts
    opens s t e o seg n ∧ t.core.regs = s.core.regs ∧
      t.core.heatDue = s.core.heatDue ∧ t.core.tfly = s.core.tfly ∧ t.core.tkept = s.core.tkept ∧
      (∀ k, t.segAt k = { s.segAt k with reserved := (t.segAt k).reserved }) ∧ (∀ d, t.dieAt d = { s.dieAt d with supSeq := (t.dieAt d).supSeq }) ∧
      (s.core.step = false → mapped s (t.core.pass n) → (t.core.pass n).st = .riding) ∧
      (s.core.step = false → ¬mapped s (t.core.pass n) →
        (t.core.pass n).st = .parked ∧ (t.core.pass n).atOpen = true ∧ (t.core.pass n).trap.isSome = true) ∧
      (s.core.step = true → s.core.pfreeze = true →
        (t.core.pass n).st = .parked ∧ (t.core.pass n).atOpen = true ∧ (t.core.pass n).frozen = true ∧ (t.core.pass n).trap = none) := by
  intro t
  set p := s.armed { s.passOf e o with idx := idx, ret := ret, seg := seg } srcs dsts with hp
  have hpk : p.kind ≠ .zeroPhys := hk
  have hpm : p.kind.isMat = false := hm
  let u : State := { s with fresh := s.fresh + 1 }
  have ht : t = u.openPass n p := takePass_good n _ dsts h
  obtain ⟨hf, hride, hpark, hfreeze⟩ := openedPass_cases u p hpk hpm
  obtain ⟨hcore, hother, hmod, hcur, hturns, hsegs, hdies⟩ := openPass_spec u n p hpk hpm
  rw [← ht] at hcore hother hmod hcur hturns hsegs hdies
  set f := u.openedPass p
  have hops := opened_operands (f := f) (hp ▸ hf)
  have htag : f.tag = o.tag := hops.2.1
  have hslot : t.core.pass n = f := by
    rw [hcore]; exact SMap.get_set_same _ _ _ _
  have hpass : ∀ m, m ≠ n → t.core.pass m = s.core.pass m := fun m hm => by
    rw [hcore]; exact SMap.get_set_other _ _ _ _ _ hm
  have htagged : tagged s t o.tag := by
    rw [tagged, hcore, ← htag]
    exact ⟨rfl, get_riders_tagIssue s.core f.tag⟩
  have hrest : t.core = { s.core with
      tags := t.core.tags, riders := t.core.riders, passes := t.core.passes, seq := s.core.seq + 1, regs := t.core.regs, heatDue := t.core.heatDue, tfly := t.core.tfly, tkept := t.core.tkept } := by
    rw [hcore]; rfl
  refine ⟨?_, by rw [hcore]; rfl, by rw [hcore]; rfl, by rw [hcore]; rfl, by rw [hcore]; rfl, hsegs, hdies, ?_, ?_, ?_⟩
  · refine ⟨htagged, hother, hmod, hcur, hturns, hrest, hpass, ?_⟩
    rw [hslot]
    exact hops
  · rw [hslot]; exact hride
  · rw [hslot]; exact hpark
  · rw [hslot]; exact hfreeze

/-- Settles O40: every entry is issued by its plan (`exec_passEntries`), whose checks refuse the row (`noSegment_refuses`, `issuePass_bound`,
`issuePass_early`, `issuePass_area`, `issuePass_limits`) or open the pass (`issuePass_takes`, `takePass_opens`). -/
theorem passOpens : Obligations.PassOpens := by
  intro e he s o pl inTags fit
  obtain ⟨hk, hm⟩ := plain_passEntries e he
  obtain ⟨idx, ret, hpl⟩ := pass_planOf e he s o
  have htag : pl.pass.tag = o.tag := by show (s.planOf e.2 o).pass.tag = _; rw [hpl]; rfl
  have hfit : pl.areas.all (areaOk (s.spEnd s.cur)) = true ↔ ∀ r ∈ pl.areas, fit r :=
    List.all_eq_true.trans (forall₂_congr (fun r _ => areaOk_iff _ r))
  have hexec : ∀ {seg t}, s.core.seg = seg → s.issuePass seg pl = t → exec (e.1 o) s = .next t := fun hs ht => by
    rw [exec_passEntries e he, hs]; exact congrArg _ ht
  have hin : inTags → pl.pass.tag.toNat < s.tagCount s.cur := fun h => by rw [htag]; exact h
  refine ⟨fun seg n hs ht hn hd hl ha hsrc => ?_, fun hs => ?_, fun hs h => ?_, fun hs ht hn => ?_⟩
  · have htake := issuePass_takes (seg := seg) (hin ht) hn (hfit.mpr ha) hd hl
    rw [show pl.pass = { s.passOf e.2 o with idx := idx, ret := ret } from hpl] at htake
    exact ⟨_, hexec hs htake, takePass_opens pl.dsts hk hm hsrc⟩
  · have hissue : s.issuePass none pl = (s.refuseOpen o.tag).onCore (fun c => { c with segTrap := c.segTrap ++ [c.pos.row] }) := by rw [← htag]; rfl
    exact ⟨_, hexec hs hissue, noSegment_refuses s o.tag⟩
  · obtain ⟨seg, hseg⟩ := Option.ne_none_iff_exists'.mp hs
    exact ⟨_, hexec hseg (issuePass_bound (h.imp_left (fun h => by rw [htag]; exact h))), raise_faults s _⟩
  · obtain ⟨seg, hseg⟩ := Option.ne_none_iff_exists'.mp hs
    obtain ⟨n, hslot⟩ := Option.ne_none_iff_exists'.mp hn
    refine ⟨fun hearly hdesc => ?_, fun hearly ⟨r, hr, hbad⟩ => ?_, fun ha hd => ?_⟩
    · refine ⟨_, hexec hseg (issuePass_early (hin ht) hslot hearly hdesc), ?_⟩
      rw [htag]
      exact refuseOpen_refuses s o.tag
    · have hnot : pl.areas.all (areaOk (s.spEnd s.cur)) = false := Bool.eq_false_iff.mpr (fun h => hbad (hfit.mp h r hr))
      obtain ⟨r, hr, hbad, hfault⟩ := areaBound_faults s pl.areas hnot
      exact ⟨_, r, hr, mt (areaOk_iff _ r).mpr hbad, hexec hseg (issuePass_area (hin ht) hslot hearly hnot), hfault⟩
    · refine ⟨_, hexec hseg (issuePass_limits (hin ht) hslot (hfit.mpr ha) hd), ?_⟩
      rw [htag]
      exact refuseOpen_refuses s o.tag

end Sys2Proof.Machine
end

section
/-! PROOFS. O44: the counts of a tick of a die and the cursors of its segments (R195, R198 to R203, R322, R325), and the steps of banks and lanes
(R200 to R202, R391). -/

namespace Sys2Proof.Machine
open Sys2Proof.Says

/-! ### What only the counts of a tick change -/

/-- What of a die only the counts of a tick change. -/
def Die.counts (x : Die) : Nat × Nat × Bool × Bool × Nat := (x.tick, x.ptick, x.slipped, x.holdTick, x.visits)
/-- What of a segment the passes of a visit leave alone. -/
def Seg.banks (g : Seg) : Seg := { cursor := g.cursor, live := g.live, hot := g.hot, refresh := g.refresh, remap := g.remap }
/-- The dies have made the same ticks, and the segments stand at the same stitches. -/
def State.inStep (s t : State) : Prop :=
  (∀ e, (t.dieAt e).counts = (s.dieAt e).counts) ∧ ∀ k, (t.segAt k).banks = (s.segAt k).banks

theorem Seg.cursor_banks (g : Seg) : g.banks.cursor = g.cursor := rfl

theorem banks_inj {g h : Seg} (e : g.banks = h.banks) : g.cursor = h.cursor ∧ g.hot = h.hot ∧ g.refresh = h.refresh := by
  simp only [Seg.banks, Seg.mk.injEq] at e
  obtain ⟨-, -, -, hcursor, -, -, -, -, -, -, -, -, -, -, -, -, -, hhot, hrefresh⟩ := e
  exact ⟨hcursor, hhot, hrefresh⟩

theorem inStep_refl (s : State) : s.inStep s := ⟨fun _ => rfl, fun _ => rfl⟩

theorem inStep_trans {s t u : State} (h : s.inStep t) (g : t.inStep u) : s.inStep u :=
  ⟨fun e => (g.1 e).trans (h.1 e), fun k => (g.2 k).trans (h.2 k)⟩

theorem inStep_of_eq {s t : State} (hs : t.segs = s.segs) (hd : t.dies = s.dies) : s.inStep t :=
  ⟨fun e => by rw [State.dieAt, hd]; rfl, fun k => by rw [State.segAt, hs]; rfl⟩

theorem inStep_onMod (s : State) (f : Module → Module) : s.inStep (s.onMod f) := inStep_refl s
theorem inStep_onCoreAt (s : State) (k : Nat) (f : Core → Core) : s.inStep (s.onCoreAt k f) := inStep_refl s
theorem inStep_setPassAt (s : State) (k n : Nat) (p : Pass) : s.inStep (s.setPassAt k n p) := inStep_refl s
theorem inStep_raiseAt (s : State) (k : Nat) (f : CoreFault) : s.inStep (s.raiseAt k f) := inStep_refl s
theorem inStep_cores (s : State) (cs : SMap Core) : s.inStep { s with cores := cs } := inStep_refl s

theorem inStep_onDieAt (s : State) (d : Nat) (f : Die → Die) (h : (f (s.dieAt d)).counts = (s.dieAt d).counts) : s.inStep (s.onDieAt d f) := by
  refine ⟨fun e => ?_, fun k => rfl⟩
  rw [State.dieAt_onDieAt]
  split
  · next he => rw [he, h]
  · rfl

theorem inStep_setSegAt (s : State) (k : Nat) (g : Seg) (h : g.banks = (s.segAt k).banks) : s.inStep (s.setSegAt k g) := by
  refine ⟨fun e => rfl, fun j => ?_⟩
  rw [State.segAt_setSegAt]
  split
  · next hj => rw [hj, h]
  · rfl

theorem inStep_foldl {β : Type} (f : State → β → State) (h : ∀ (s : State) b, s.inStep (f s b)) : ∀ (l : List β) (s : State), s.inStep (l.foldl f s)
  | [], s => inStep_refl s
  | b :: l, s => inStep_trans (h s b) (inStep_foldl f h l (f s b))

/-! ### The work of a tick beside its counts -/

theorem inStep_sendFar (s : State) (k : Nat) : s.inStep (s.sendFar k) := by
  unfold State.sendFar
  dsimp only
  split
  · exact inStep_refl s
  · split
    · exact inStep_refl s
    · exact inStep_of_eq rfl rfl

theorem inStep_putSinceAt (s : State) (k beat x : Nat) (bs : List Byte) : s.inStep (s.putSinceAt k beat x bs) := by
  unfold State.putSinceAt
  dsimp only
  split <;> exact inStep_of_eq rfl rfl

theorem inStep_applyRow (k : Nat) (j : TmmaJob) (s : State) (i : Nat) : s.inStep (applyRow k j s i).1 := by
  unfold applyRow
  dsimp only
  split
  · exact inStep_of_eq rfl rfl
  · exact inStep_putSinceAt s k _ _ _

theorem inStep_accRow (k tick : Nat) (q : State × List Nat) (e : Nat × Nat) : q.1.inStep (State.accRow k tick q e).1 := by
  unfold State.accRow
  split
  · exact inStep_refl q.1
  · dsimp only
    split
    · exact inStep_refl q.1
    · split
      · exact inStep_refl q.1
      · exact inStep_trans (inStep_applyRow k _ q.1 _) (inStep_of_eq rfl rfl)

theorem inStep_accRows (k tick : Nat) : ∀ (l : List (Nat × Nat)) (q : State × List Nat), q.1.inStep (l.foldl (State.accRow k tick) q).1
  | [], q => inStep_refl q.1
  | e :: l, q => inStep_trans (inStep_accRow k tick q e) (inStep_accRows k tick l _)

theorem inStep_accumulate (s : State) (k : Nat) : s.inStep (s.accumulate k) := by
  unfold State.accumulate
  dsimp only
  split
  · exact inStep_accRows k _ _ (s, [])
  · exact inStep_refl s

theorem inStep_zeroSegs (s : State) : s.inStep s.zeroSegs := by
  unfold State.zeroSegs
  generalize allSegs = l
  refine inStep_foldl _ (fun t k => ?_) l s
  exact inStep_setSegAt t k _ rfl

theorem inStep_bootDone (s : State) : s.inStep s.bootDone := by
  have hzero : s.inStep (if s.mod.coldBoot && s.mod.firmwareGood then s.zeroSegs else s) := by
    split
    · exact inStep_zeroSegs s
    · exact inStep_refl s
  unfold State.bootDone
  dsimp only
  split
  · exact inStep_trans hzero (inStep_onMod _ _)
  · refine inStep_trans (inStep_trans hzero (inStep_onMod _ _)) (inStep_trans (inStep_foldl _ (fun t d => ?_) _ _) (inStep_onMod _ _))
    exact inStep_trans (inStep_onDieAt t d _ rfl) (inStep_onCoreAt _ _ _)

theorem inStep_bootTick (s : State) : s.inStep s.bootTick := by
  unfold State.bootTick
  split
  · exact inStep_refl s
  · split
    · exact inStep_bootDone s
    · exact inStep_of_eq rfl rfl

theorem inStep_startScrub (s : State) (die : Nat) : s.inStep (s.startScrub die) := by
  unfold State.startScrub
  dsimp only
  split
  · exact inStep_refl s
  · split
    · exact inStep_refl s
    · exact inStep_onDieAt s die _ rfl

/-- A tick's start is the counts of its die, and work that changes no count. -/
theorem inStep_startTick (s : State) (die : Nat) (hold : Bool) :
    (s.onDieAt die (fun x => x.next s.moduleTick hold)).inStep (s.startTick die hold) := by
  have hsend : ∀ (l : List (Nat × Core)) (t : State), t.inStep (l.foldl (fun t e => (t.sendFar e.1).accumulate e.1) t) :=
    inStep_foldl _ (fun t e => inStep_trans (inStep_sendFar t e.1) (inStep_accumulate _ e.1))
  unfold State.startTick
  dsimp only
  refine inStep_trans ?_ (inStep_startScrub _ die)
  split
  · refine inStep_trans ?_ (inStep_bootTick _)
    exact inStep_trans (inStep_cores _ _) (inStep_trans (hsend _ _) (inStep_trans (inStep_onMod _ _) (inStep_onMod _ _)))
  · exact inStep_trans (inStep_cores _ _) (inStep_trans (hsend _ _) (inStep_onMod _ _))

theorem inStep_hostDone (s : State) (anchor : Nat) (v : Word) : s.inStep (s.hostDone anchor v) := by
  unfold State.hostDone
  split
  · exact inStep_of_eq rfl rfl
  · exact inStep_refl s

theorem inStep_restoreCore {s t : State} {k : Nat} {bs : List Byte} (h : s.restoreCore k bs = some t) : s.inStep t := by
  unfold State.restoreCore at h
  dsimp only at h
  split at h
  · cases h
  · obtain ⟨-, h⟩ := Option.ite_none_left_eq_some.mp h
    cases h
    exact inStep_trans (inStep_onCoreAt _ _ _) (inStep_onDieAt _ (keyDie k) _ rfl)

theorem inStep_regionGot (s : State) (die anchor k : Nat) (j : RegionJob) : s.inStep (s.regionGot die anchor k j) := by
  unfold State.regionGot
  dsimp only
  split
  · split
    · exact inStep_hostDone s _ _
    · exact inStep_onDieAt s die _ rfl
  · split
    · exact inStep_hostDone s _ _
    · next hr => exact inStep_trans (inStep_restoreCore hr) (inStep_hostDone _ _ _)

theorem inStep_haltLaunch (s : State) (origin : Nat) (ctx : Byte) (lid : Option (BitVec 16)) (status : Byte) :
    s.inStep (s.haltLaunch origin ctx lid status) := by
  unfold State.haltLaunch
  split
  · exact inStep_refl s
  · exact inStep_of_eq rfl rfl

theorem inStep_regionDone (s : State) (die : Nat) (j : RegionJob) : s.inStep (s.regionDone die j) := by
  unfold State.regionDone
  split
  · exact inStep_refl s
  · split
    · exact inStep_hostDone s _ _
    · exact inStep_regionGot s _ _ _ _
    · exact inStep_refl s
    · split
      · exact inStep_haltLaunch s _ _ _ _
      · next hr => exact inStep_restoreCore hr

theorem inStep_regionTick (s : State) (die : Nat) : s.inStep (s.regionTick die) :=
  inStep_trans (inStep_onDieAt s die _ rfl) (inStep_foldl _ (fun t j => inStep_regionDone t die j) _ _)

/-! ### The visit of a stitch -/

theorem inStep_approachAll (seg period x : Nat) : ∀ (l : List ((Nat × Nat) × Pass)) (s : State), s.inStep (approachAll seg period x l s).1
  | [], s => inStep_refl s
  | _ :: l, s => inStep_trans (inStep_setPassAt s _ _ _) (inStep_approachAll seg period x l _)

theorem inStep_capture (s : State) (seg x : Nat) (bs : List Byte) (e : Nat × Nat) : s.inStep (s.capture seg x bs e) := by
  unfold State.capture
  dsimp only
  split
  · exact inStep_refl s
  · split
    · exact inStep_of_eq rfl rfl
    · split
      · split <;> exact inStep_of_eq rfl rfl
      · split <;> exact inStep_of_eq rfl rfl

theorem banks_effect (p : Pass) (x : Nat) (cs : List Cut) (g : Seg) : (p.effect x cs g).1.banks = g.banks := by
  unfold Pass.effect
  cases p.kind <;> rfl

theorem banks_countZero (g : Seg) (p : Pass) (x : Nat) : (g.countZero p x).banks = g.banks := by
  unfold Seg.countZero
  split <;> rfl

/-- A stitch that a pass has written in some bytes: its mark of an error goes where all of it was written, and its block is dirty, or the record of a
supervisor's zeroing moves on (R210, R377, R381). -/
def Seg.marked (g : Seg) (p : Pass) (x n : Nat) : Seg :=
  let g1 := if !p.kind.needsValue && n == 128 then { g with bad := g.bad.filter (fun y => y != x) } else g
  if p.key.sup then g1.countZero p x
  else if n ≠ 0 then { g1 with dirty := g1.dirty ||| blockBit x, pzTouched := g1.pzTouched ||| blockBit x } else g1

/-- A write-side pass comes to a stitch: a `PHOST.IN` with the lines that it needs (R242). -/
def State.visitor (s : State) (p : Pass) (x : Nat) : Pass :=
  if p.kind = .hostIn then s.fetchLines p ((p.cuts x).flatMap (fun c => linesOf c.place p.desc.itemBytes)) else p

theorem applyPass_eq (s : State) (seg x : Nat) (e : Nat × Nat) :
    let p := s.passAt e.1 e.2
    let r := (s.visitor p x).effect x (p.cuts x) (s.segAt seg)
    s.applyPass seg x e = if (p.cuts x).isEmpty then s else if (s.segAt seg).bad.contains x && p.kind.needsValue then s.visitFault e.1 p cECC x
      else (s.setSegAt seg (r.1.marked p x r.2.2)).setPassAt e.1 e.2 r.2.1 := rfl

theorem banks_marked (g : Seg) (p : Pass) (x n : Nat) : (g.marked p x n).banks = g.banks := by
  have hgood : (if !p.kind.needsValue && n == 128 then { g with bad := g.bad.filter (fun y => y != x) } else g).banks = g.banks := by
    split <;> rfl
  unfold Seg.marked
  dsimp only
  split
  · exact (banks_countZero _ _ _).trans hgood
  · split <;> exact hgood

theorem inStep_applyPass (s : State) (seg x : Nat) (e : Nat × Nat) : s.inStep (s.applyPass seg x e) := by
  rw [applyPass_eq]
  split
  · exact inStep_refl s
  · split
    · exact inStep_raiseAt s _ _
    · exact inStep_trans (inStep_setSegAt s seg _ ((banks_marked _ _ _ _).trans (banks_effect _ _ _ _))) (inStep_setPassAt _ _ _ _)

theorem inStep_applyJob (s : State) (seg x : Nat) (j : RegionJob) : s.inStep (s.applyJob seg x j).1 := by
  unfold State.applyJob
  split
  · exact inStep_refl s
  · split
    · exact inStep_refl s
    · dsimp only
      split
      · exact inStep_refl s
      · split
        · exact inStep_setSegAt s seg _ rfl
        · split
          · exact inStep_of_eq rfl rfl
          · exact inStep_refl s

/-- One supervisor pass of a visit acts: a writer of the segment, or a pass of the save region (R208). -/
def State.supOp (seg x : Nat) (q : State × List RegionJob) (o : Nat × ((Nat × Nat) ⊕ RegionJob)) : State × List RegionJob :=
  match o.2 with
  | .inl e => (q.1.applyPass seg x e, q.2)
  | .inr j => let t := q.1.applyJob seg x j; (t.1, q.2 ++ [t.2])

theorem inStep_supOps (seg x : Nat) : ∀ (l : List (Nat × ((Nat × Nat) ⊕ RegionJob))) (q : State × List RegionJob),
    q.1.inStep (l.foldl (State.supOp seg x) q).1
  | [], q => inStep_refl q.1
  | (_, .inl e) :: l, q => inStep_trans (inStep_applyPass q.1 seg x e) (inStep_supOps seg x l _)
  | (_, .inr j) :: l, q => inStep_trans (inStep_applyJob q.1 seg x j) (inStep_supOps seg x l _)

theorem inStep_applySups (s : State) (seg x : Nat) (ws : List ((Nat × Nat) × Pass)) : s.inStep (s.applySups seg x ws) := by
  have hops := fun l => inStep_supOps seg x l (s, [])
  unfold State.applySups
  dsimp only
  generalize (if keyNo seg = 23 then (s.dieAt (keyDie seg)).region else []) = jobs
  split
  · exact hops _
  · exact inStep_trans (hops _) (inStep_onDieAt _ (keyDie seg) _ rfl)

/-- The readers of a visit capture the stitch as it stood (R207). -/
def State.visitRead (s : State) (seg x : Nat) (bs : List Byte) (l : List ((Nat × Nat) × Pass)) : State :=
  (l.filter (fun e => e.2.kind.isReader)).foldl (fun t e => t.capture seg x bs e.1) s
/-- The writers of a visit in key order (R208). -/
def writersOf (l : List ((Nat × Nat) × Pass)) : List ((Nat × Nat) × Pass) :=
  (l.filter (fun e => !e.2.kind.isReader)).insertionSort (fun u v => u.2.key.le v.2.key = true)
/-- The writers of a visit apply to the stitch: users' passes, then those of supervisors (R207, R208). -/
def State.visitWrite (s : State) (seg x : Nat) (ws : List ((Nat × Nat) × Pass)) : State :=
  ((ws.filter (fun e => !e.2.key.sup)).foldl (fun t e => t.applyPass seg x e.1) s).applySups seg x (ws.filter (fun e => e.2.key.sup))
/-- The passes of a visit have made it (R205). -/
def State.visitMade (s : State) (period : Nat) (l : List ((Nat × Nat) × Pass)) : State :=
  l.foldl (fun t e => t.setPassAt e.1.1 e.1.2 ((t.passAt e.1.1 e.1.2).advance period)) s
/-- A bad stitch whose value no pass of the visit needs is reported, once (R210). -/
def State.visitReport (s : State) (seg x : Nat) (bad : Bool) (l : List ((Nat × Nat) × Pass)) : State :=
  if bad && !(l.any (fun e => e.2.kind.needsValue && !(e.2.cuts x).isEmpty)) then
    s.onDieAt (keyDie seg) (fun d =>
      if d.reported.contains (keyNo seg * 2 ^ 23 + x) then d else { d with reported := d.reported ++ [keyNo seg * 2 ^ 23 + x] })
  else s

/-- The order of a visit (R204 to R210). -/
theorem visitStitch_eq (s : State) (seg x : Nat) :
    let a := approachAll seg (s.period seg) x (s.riders seg) s
    s.visitStitch seg x = (((a.1.visitRead seg x ((s.segAt seg).stitch x) a.2).visitWrite seg x (writersOf a.2)).visitMade (s.period seg) a.2).visitReport
      seg x ((s.segAt seg).bad.contains x) a.2 := rfl

theorem inStep_visitRead (s : State) (seg x : Nat) (bs : List Byte) (l : List ((Nat × Nat) × Pass)) : s.inStep (s.visitRead seg x bs l) :=
  inStep_foldl _ (fun t (e : (Nat × Nat) × Pass) => inStep_capture t seg x bs e.1) _ s

theorem inStep_visitWrite (s : State) (seg x : Nat) (ws : List ((Nat × Nat) × Pass)) : s.inStep (s.visitWrite seg x ws) :=
  inStep_trans (inStep_foldl _ (fun t (e : (Nat × Nat) × Pass) => inStep_applyPass t seg x e.1) _ s) (inStep_applySups _ seg x _)

theorem inStep_visitMade (s : State) (n : Nat) (l : List ((Nat × Nat) × Pass)) : s.inStep (s.visitMade n l) :=
  inStep_foldl _ (fun t (e : (Nat × Nat) × Pass) => inStep_setPassAt t e.1.1 e.1.2 ((t.passAt e.1.1 e.1.2).advance n)) l s

theorem inStep_visitReport (s : State) (seg x : Nat) (bad : Bool) (l : List ((Nat × Nat) × Pass)) : s.inStep (s.visitReport seg x bad l) := by
  unfold State.visitReport
  split
  · refine inStep_onDieAt s (keyDie seg) _ ?_
    split <;> rfl
  · exact inStep_refl s

theorem inStep_visitStitch (s : State) (seg x : Nat) : s.inStep (s.visitStitch seg x) := by
  rw [visitStitch_eq]
  exact inStep_trans (inStep_trans (inStep_trans (inStep_trans (inStep_approachAll seg _ x _ s) (inStep_visitRead _ seg x _ _))
    (inStep_visitWrite _ seg x _)) (inStep_visitMade _ _ _)) (inStep_visitReport _ seg x _ _)

/-! ### The segments of a die in a tick -/

/-- A visit tick's step of a segment: its cursor moves on, or its remap walker takes a step. -/
def Seg.comesTo (g : Seg) : Seg :=
  match g.remap with
  | some r => { g with remap := some (if r.setup ≠ 0 then { r with setup := r.setup - 1 } else { r with step := r.step + 1 }) }
  | none => { g with cursor := (g.cursor + 1) % g.period }

theorem inStep_visitSegment (s : State) (seg : Nat) : (s.setSegAt seg (s.segAt seg).comesTo).inStep (s.visitSegment seg) := by
  unfold State.visitSegment Seg.comesTo
  dsimp only
  cases (s.segAt seg).remap with
  | none => exact inStep_visitStitch _ seg _
  | some r => exact inStep_refl _

theorem counts_visitSegment (s : State) (seg e : Nat) : ((s.visitSegment seg).dieAt e).counts = (s.dieAt e).counts := (inStep_visitSegment s seg).1 e

theorem banks_visitSegment_same (s : State) (seg : Nat) : ((s.visitSegment seg).segAt seg).banks = (s.segAt seg).comesTo.banks := by
  rw [(inStep_visitSegment s seg).2 seg, State.segAt_setSegAt_same]

theorem banks_visitSegment_other (s : State) {seg k : Nat} (h : k ≠ seg) : ((s.visitSegment seg).segAt k).banks = (s.segAt k).banks := by
  rw [(inStep_visitSegment s seg).2 k, State.segAt_setSegAt, if_neg h]

theorem counts_visitSegments (e : Nat) : ∀ (l : List Nat) (s : State), ((l.foldl State.visitSegment s).dieAt e).counts = (s.dieAt e).counts
  | [], _ => rfl
  | k :: l, s => (counts_visitSegments e l _).trans (counts_visitSegment s k e)

theorem comesTo_none {g : Seg} (h : g.remap = none) : g.comesTo = { g with cursor := (g.cursor + 1) % g.period } := by
  rw [Seg.comesTo, h]

theorem comesTo_some {g : Seg} {r : Remap} (h : g.remap = some r) :
    g.comesTo = { g with remap := some (if r.setup ≠ 0 then { r with setup := r.setup - 1 } else { r with step := r.step + 1 }) } := by
  rw [Seg.comesTo, h]

theorem banks_comesTo (g : Seg) : g.comesTo.banks = g.banks.comesTo := by
  rcases h : g.remap with _ | r
  · rw [comesTo_none h, comesTo_none (g := g.banks) h]
    rfl
  · rw [comesTo_some h, comesTo_some (g := g.banks) h]
    rfl

theorem foldl_other {σ α : Type} (get : σ → Nat → α) (f : σ → Nat → σ) (hf : ∀ s j k, k ≠ j → get (f s j) k = get s k) {k : Nat} (l : List Nat) :
    ∀ s : σ, ¬k ∈ l → get (l.foldl f s) k = get s k := by
  induction l with
  | nil => exact fun _ _ => rfl
  | cons j l ih =>
    intro s h
    obtain ⟨hj, hl⟩ := not_or.mp (mt List.mem_cons.mpr h)
    exact (ih (f s j) hl).trans (hf s j k hj)

/-- A fold over different places takes a step at each, once. -/
theorem foldl_once {σ α : Type} (get : σ → Nat → α) (f : σ → Nat → σ) (step : Nat → α → α) (hsame : ∀ s k, get (f s k) k = step k (get s k))
    (hother : ∀ s j k, k ≠ j → get (f s j) k = get s k) {k : Nat} (l : List Nat) :
    ∀ s : σ, l.Nodup → k ∈ l → get (l.foldl f s) k = step k (get s k) := by
  induction l with
  | nil => exact fun _ _ h => (List.not_mem_nil h).elim
  | cons j l ih =>
    intro s hn h
    obtain ⟨hj, hl⟩ := List.nodup_cons.mp hn
    by_cases hk : k = j
    · subst hk
      exact (foldl_other get f hother l (f s k) hj).trans (hsame s k)
    · exact (ih (f s j) hl (List.mem_of_ne_of_mem hk h)).trans (congrArg (step k) (hother s j k hk))

theorem banks_visitSegments {k : Nat} (l : List Nat) (s : State) (hn : l.Nodup) (hk : k ∈ l) :
    ((l.foldl State.visitSegment s).segAt k).banks = (s.segAt k).banks.comesTo :=
  foldl_once (fun (s : State) k => (s.segAt k).banks) State.visitSegment (fun _ => Seg.comesTo)
    (fun s k => (banks_visitSegment_same s k).trans (banks_comesTo _)) (fun s _ _ h => banks_visitSegment_other s h) l s hn hk

theorem nodup_segKeys (d : Nat) : (segKeys d).Nodup :=
  List.Nodup.map (fun a b (h : d * 32 + a = d * 32 + b) => Nat.add_left_cancel h) List.nodup_range

theorem mem_segKeys {d n : Nat} (h : n < 24) : d * 32 + n ∈ segKeys d := List.mem_map.mpr ⟨n, List.mem_range.mpr h, rfl⟩

/-- A hold tick refreshes the hot banks of one segment (R200). -/
def State.refreshAt (s : State) (k : Nat) : State := s.setSegAt k (s.segAt k).refreshed

theorem segAt_refreshAll {k : Nat} (l : List Nat) (s : State) (hn : l.Nodup) (hk : k ∈ l) :
    (l.foldl State.refreshAt s).segAt k = (s.segAt k).refreshed :=
  foldl_once State.segAt State.refreshAt (fun _ => Seg.refreshed) (fun s k => State.segAt_setSegAt_same s k _)
    (fun s j k h => (State.segAt_setSegAt s j k _).trans (if_neg h)) l s hn hk

theorem dieAt_refreshAll (e : Nat) (l : List Nat) : ∀ s : State, (l.foldl State.refreshAt s).dieAt e = s.dieAt e := by
  induction l with
  | nil => exact fun _ => rfl
  | cons j l ih => exact fun s => ih (s.refreshAt j)

/-- The refresh pointer of one bank moves on by 8 rows where the bank is hot (R200). -/
def refreshBank (hot : W32) (m : SMap Nat) (b : Nat) : SMap Nat := if hot.getLsbD b then SMap.set 0 m b ((SMap.get 0 m b + 8) % 2 ^ 18) else m

theorem get_refreshBank_other (hot : W32) (m : SMap Nat) {b j : Nat} (h : j ≠ b) : SMap.get 0 (refreshBank hot m b) j = SMap.get 0 m j := by
  unfold refreshBank
  split
  · exact SMap.get_set_other _ _ _ _ _ h
  · rfl

theorem get_refreshBank_same (hot : W32) (m : SMap Nat) (b : Nat) : SMap.get 0 (refreshBank hot m b) b =
    if hot.getLsbD b then (SMap.get 0 m b + 8) % 2 ^ 18 else SMap.get 0 m b := by
  unfold refreshBank
  split
  · exact SMap.get_set_same _ _ _ _
  · rfl

theorem refreshed_eq (g : Seg) : g.refreshed = { g with refresh := (List.range 32).foldl (refreshBank g.hot) g.refresh } := rfl

theorem get_refreshed (g : Seg) {b : Nat} (hb : b < 32) (h : g.hot.getLsbD b = true) :
    SMap.get 0 g.refreshed.refresh b = (SMap.get 0 g.refresh b + 8) % 2 ^ 18 := by
  have honce := foldl_once (SMap.get 0) (refreshBank g.hot) (fun b n => if g.hot.getLsbD b then (n + 8) % 2 ^ 18 else n) (get_refreshBank_same g.hot)
    (fun m _ _ hj => get_refreshBank_other g.hot m hj) (List.range 32) g.refresh List.nodup_range (List.mem_range.mpr hb)
  rw [refreshed_eq, honce, if_pos h]

/-! ### PTICK (R322, R325) -/

theorem lt_foldl_min {α : Type} (f : α → Nat) (p : Nat) (l : List α) : ∀ a : Nat, p < l.foldl (fun a e => min a (f e)) a ↔ p < a ∧ ∀ e ∈ l, p < f e := by
  induction l with
  | nil => simp
  | cons e l ih => exact fun a => by rw [List.foldl_cons, ih, lt_min_iff, and_assoc, List.forall_mem_cons]

theorem lt_least (x : Die) (p n : Nat) : p < x.least n ↔ p < n ∧ ∀ e ∈ x.estimates, (p : Int) < n + e.2 := by
  refine (lt_foldl_min _ p x.estimates n).trans (and_congr_right (fun _ => forall₂_congr (fun e _ => ?_)))
  exact Int.lt_toNat

theorem rises_cutOff {x : Die} (h : x.cutOff = true) (m : Nat) : x.rises m = true ↔ x.ptick < x.tick + 1 := by
  rw [Die.rises, if_pos h, decide_eq_true_iff]

theorem rises_iff {x : Die} (h : x.cutOff = false) (m : Nat) : x.rises m = true ↔
    ((x.ptick < x.tick + 1 ∧ ∀ e ∈ x.estimates, (x.ptick : Int) < x.tick + 1 + e.2) ∧ x.ptick < m + 4) ∨ x.ptick + 3 < m := by
  rw [Die.rises, h, if_neg Bool.false_ne_true, Bool.or_eq_true, Bool.and_eq_true, decide_eq_true_iff, decide_eq_true_iff, decide_eq_true_iff, lt_least]
  rfl

/-- The ticks of a die after a tick whose module tick is m (R319, R322, R325). -/
def Die.countsTo (x : Die) (m : Nat) (y : Die) : Prop :=
  y.tick = x.tick + 1 ∧ y.slipped = false ∧ (x.cutOff = true → y.ptick = if x.ptick < x.tick + 1 then x.ptick + 1 else x.ptick) ∧
    (x.cutOff = false → (x.ptick + 3 < m → y.ptick = x.ptick + 1) ∧ (m + 4 ≤ x.ptick → y.ptick = x.ptick) ∧
      (m ≤ x.ptick + 3 → x.ptick < m + 4 → y.ptick =
        if x.ptick < x.tick + 1 ∧ ∀ e ∈ x.estimates, (x.ptick : Int) < x.tick + 1 + e.2 then x.ptick + 1 else x.ptick))

theorem countsTo_next (x : Die) (m : Nat) (hold : Bool) : x.countsTo m (x.next m hold) := by
  have hp : (x.next m hold).ptick = if x.rises m then x.ptick + 1 else x.ptick := rfl
  refine ⟨rfl, rfl, fun h => ?_, fun h => ⟨fun hl => ?_, fun hl => ?_, fun hl hg => ?_⟩⟩ <;> rw [hp]
  · simp only [rises_cutOff h]
  · exact if_pos ((rises_iff h m).mpr (.inr hl))
  · refine if_neg (fun hr => ?_)
    rcases (rises_iff h m).mp hr with ⟨-, hlt⟩ | hlt <;> omega
  · refine if_congr ((rises_iff h m).trans ⟨fun hr => hr.elim And.left (fun hlt => by omega), fun hr => .inl ⟨hr, hg⟩⟩) rfl rfl

theorem countsTo_of_counts {x y z : Die} {m : Nat} (h : x.countsTo m y) (e : z.counts = y.counts) : x.countsTo m z := by
  simp only [Die.counts, Prod.mk.injEq] at e
  obtain ⟨htick, hptick, hslipped, -⟩ := e
  rw [Die.countsTo, htick, hptick, hslipped]
  exact h

/-! ### The visit tick and the hold tick (R198 to R200) -/

theorem counts_startTick (s : State) (d : Nat) (hold : Bool) :
    ((s.startTick d hold).dieAt d).counts = ((s.dieAt d).next s.moduleTick hold).counts := by
  rw [(inStep_startTick s d hold).1 d, State.dieAt_onDieAt_same]

theorem banks_startTick (s : State) (d : Nat) (hold : Bool) (k : Nat) : ((s.startTick d hold).segAt k).banks = (s.segAt k).banks :=
  (inStep_startTick s d hold).2 k

/-- A visit tick up to the visits of its segments. -/
def State.beginVisits (s : State) (d : Nat) : State := (s.startTick d false).onDieAt d (fun x => { x with visits := x.visits + 1 })
/-- A visit tick of a die. -/
def State.visitTick (s : State) (d : Nat) : State :=
  ((((segKeys d).foldl State.visitSegment (s.beginVisits d)).regionTick d)).onDieAt d (fun x =>
    { x with holdNext := decide (x.visits % 64 = 0) && (s.beginVisits d).anyHot d })
/-- A hold tick of a die. -/
def State.refreshTick (s : State) (d : Nat) : State := (segKeys d).foldl State.refreshAt (s.startTick d true)

theorem exec_sweepVisit {s : State} {die : DieNo} (h : (s.dieAt die.toNat).holdNext = false) :
    exec (.sweepVisit die) s = .next (s.visitTick die.toNat) := by
  show execSweepVisit die s = _
  rw [execSweepVisit, h]
  rfl

theorem exec_holdTick {s : State} {die : DieNo} (h : (s.dieAt die.toNat).holdNext = true) :
    exec (.holdTick die) s = .next (s.refreshTick die.toNat) := by
  show execHoldTick die s = _
  rw [execHoldTick, h]
  rfl

theorem inStep_visitTick (s : State) (d : Nat) : ((segKeys d).foldl State.visitSegment (s.beginVisits d)).inStep (s.visitTick d) := by
  rw [State.visitTick]
  generalize (segKeys d).foldl State.visitSegment (s.beginVisits d) = u
  exact inStep_trans (inStep_regionTick u d) (inStep_onDieAt _ d _ rfl)

theorem counts_visitTick (s : State) (d : Nat) : ((s.visitTick d).dieAt d).counts =
    ({ (s.dieAt d).next s.moduleTick false with visits := (s.dieAt d).visits + 1 } : Die).counts := by
  have hstart := counts_startTick s d false
  rw [(inStep_visitTick s d).1 d, counts_visitSegments, State.beginVisits, State.dieAt_onDieAt_same]
  simp only [Die.counts, Prod.mk.injEq] at hstart ⊢
  obtain ⟨htick, hptick, hslipped, hhold, hvisits⟩ := hstart
  exact ⟨htick, hptick, hslipped, hhold, congrArg (· + 1) hvisits⟩

theorem banks_visitTick (s : State) {d k : Nat} (hk : k ∈ segKeys d) : ((s.visitTick d).segAt k).banks = (s.segAt k).banks.comesTo := by
  rw [(inStep_visitTick s d).2 k, banks_visitSegments _ _ (nodup_segKeys d) hk, State.beginVisits, State.segAt_onDieAt, banks_startTick]

theorem cursor_visitTick (s : State) {d k : Nat} (hk : k ∈ segKeys d) (hr : (s.segAt k).remap = none) :
    ((s.visitTick d).segAt k).cursor = ((s.segAt k).cursor + 1) % (s.segAt k).period := by
  rw [← Seg.cursor_banks, banks_visitTick s hk, ← banks_comesTo, comesTo_none hr, Seg.cursor_banks]

theorem counts_refreshTick (s : State) (d : Nat) : ((s.refreshTick d).dieAt d).counts = ((s.dieAt d).next s.moduleTick true).counts := by
  rw [State.refreshTick, dieAt_refreshAll, counts_startTick]

theorem segAt_refreshTick (s : State) {d k : Nat} (hk : k ∈ segKeys d) : (s.refreshTick d).segAt k = ((s.startTick d true).segAt k).refreshed :=
  segAt_refreshAll _ _ (nodup_segKeys d) hk

/-! ### Hot banks, the remap and via lanes (R200 to R202, R391) -/

theorem getLsbD_bit {b : Nat} (hb : b < 32) (j : Nat) : (1#32 <<< b).getLsbD j = decide (j = b) := by
  rw [BitVec.getLsbD_shiftLeft, BitVec.getLsbD_one]
  rcases Nat.lt_trichotomy j b with h | h | h
  · simp [h, Nat.ne_of_lt h]
  · simp [h, hb]
  · have hj : ¬(j - b = 0) := by omega
    simp [Nat.ne_of_gt h, hj]

theorem getLsbD_setBit (x : W32) {b : Nat} (hb : b < 32) (j : Nat) : (x ||| 1#32 <<< b).getLsbD j = if j = b then true else x.getLsbD j := by
  rw [BitVec.getLsbD_or, getLsbD_bit hb]
  by_cases h : j = b <;> simp [h]

theorem getLsbD_clearBit (x : W32) {b : Nat} (hb : b < 32) {j : Nat} (hj : j < 32) :
    (x &&& ~~~(1#32 <<< b)).getLsbD j = if j = b then false else x.getLsbD j := by
  rw [BitVec.getLsbD_and, BitVec.getLsbD_not, getLsbD_bit hb]
  by_cases h : j = b <;> simp [h, hj]

theorem stepped_hotBankChange {s : State} {die : DieNo} {seg : SegNo} {bank : BitVec 5} {hot : Bool} (hseg : seg.toNat < 24)
    (hlive : (s.segAt (die.toNat * 32 + seg.toNat)).live.getLsbD bank.toNat = true)
    (hhot : (s.segAt (die.toNat * 32 + seg.toNat)).hot.getLsbD bank.toNat = !hot) :
    ∃ h r, exec (.hotBankChange die seg bank hot) s =
        .next (s.setSegAt (die.toNat * 32 + seg.toNat) { s.segAt (die.toNat * 32 + seg.toNat) with hot := h, refresh := r }) ∧
      ∀ b, b < 32 → h.getLsbD b = if b = bank.toNat then hot else (s.segAt (die.toNat * 32 + seg.toNat)).hot.getLsbD b := by
  have hno : ¬(24 ≤ seg.toNat ∨ (s.segAt (die.toNat * 32 + seg.toNat)).live.getLsbD bank.toNat = false ∨
      (s.segAt (die.toNat * 32 + seg.toNat)).hot.getLsbD bank.toNat = hot) := by
    rw [hlive, hhot]
    cases hot <;> simp <;> omega
  have hexec : exec (.hotBankChange die seg bank hot) s = execHotBankChange die seg bank hot s := rfl
  rw [hexec, execHotBankChange, if_neg hno]
  cases hot
  · exact ⟨_, _, rfl, fun b hb => getLsbD_clearBit _ bank.isLt hb⟩
  · exact ⟨_, _, rfl, fun b _ => getLsbD_setBit _ bank.isLt b⟩

theorem only_setSegAt (s : State) (k : Nat) (g : Seg) :
    (s.setSegAt k g).segAt k = g ∧ (∀ j, j ≠ k → (s.setSegAt k g).segAt j = s.segAt j) ∧ (s.setSegAt k g).dies = s.dies ∧ (s.setSegAt k g).mod = s.mod :=
  ⟨State.segAt_setSegAt_same _ _ _, fun _ hj => (State.segAt_setSegAt _ _ _ _).trans (if_neg hj), rfl, rfl⟩

theorem segAt_resumeCore (s : State) (c k : Nat) : (s.resumeCore c).segAt k = s.segAt k := by
  unfold State.resumeCore
  dsimp only
  split <;> rfl

/-- The core that a segment is attached to goes on, unless something else has stopped it (R202). -/
def State.resumeAttached (u : State) (seg : Nat) : State :=
  match u.attachedCore seg with
  | none => u
  | some c => if (u.coreAt c).goes then (u.resumeCore c).onCoreAt c (fun x => { x with hold := (u.coreAt c).hold }) else u

theorem segAt_resumeAttached (u : State) (seg k : Nat) : (u.resumeAttached seg).segAt k = u.segAt k := by
  unfold State.resumeAttached
  split
  · rfl
  · split
    · exact segAt_resumeCore _ _ _
    · rfl

theorem exec_bankRemap {s : State} {die : DieNo} {seg : SegNo} {live : W32} (hseg : seg.toNat < 24)
    (hsaves : seg.toNat = 23 → s.savesOn die.toNat = false) (hr : (s.segAt (die.toNat * 32 + seg.toNat)).remap = none)
    (hsub : live &&& ~~~(s.segAt (die.toNat * 32 + seg.toNat)).live = 0) (hne : live ≠ (s.segAt (die.toNat * 32 + seg.toNat)).live) (h0 : live ≠ 0)
    (hmap : s.mappedAbove (die.toNat * 32 + seg.toNat) (bankCount live * 262144) = false) :
    ∃ u : State, exec (.bankRemap die seg live) s = .next (u.setSegAt (die.toNat * 32 + seg.toNat)
        { s.segAt (die.toNat * 32 + seg.toNat) with remap := some { live := live } }) ∧ ∀ j, u.segAt j = s.segAt j := by
  have hno : ¬(24 ≤ seg.toNat ∨ (s.segAt (die.toNat * 32 + seg.toNat)).remap.isSome = true ∨ live &&& ~~~(s.segAt (die.toNat * 32 + seg.toNat)).live ≠ 0 ∨
      live = (s.segAt (die.toNat * 32 + seg.toNat)).live ∨ live = 0 ∨
      s.mappedAbove (die.toNat * 32 + seg.toNat) ((liveBanks live).length * Config.bankStitches) = true ∨
      (seg.toNat = 23 ∧ s.savesOn die.toNat = true)) := by
    rintro (h | h | h | h | h | h | ⟨h, hon⟩)
    · omega
    · rw [hr] at h; cases h
    · exact h hsub
    · exact hne h
    · exact h0 h
    · exact Bool.false_ne_true (hmap.symm.trans h)
    · exact Bool.false_ne_true ((hsaves h).symm.trans hon)
  have hexec : exec (.bankRemap die seg live) s = execBankRemap die seg live s := rfl
  rw [hexec, execBankRemap, if_neg hno]
  refine ⟨_, rfl, fun j => ?_⟩
  split
  · rfl
  · split <;> rfl

theorem exec_remapComplete {s : State} {die : DieNo} {seg : SegNo} {r : Remap} (hr : (s.segAt (die.toNat * 32 + seg.toNat)).remap = some r)
    (hsetup : r.setup = 0) (hstep : bankCount r.live * 262144 + 32 ≤ r.step) :
    let k := die.toNat * 32 + seg.toNat
    let g := s.segAt k
    let m := bankCount r.live * 262144
    ∃ t, exec (.remapComplete die seg) s = .next t ∧ ∀ j, t.segAt j = (s.setSegAt k { g with
      live := r.live, remap := none, cursor := if g.cursor < m then g.cursor else 0, hot := g.hot &&& r.live
      repaired := g.repaired.filter (fun n => r.live.getLsbD (n / 64)), data := SMap.keep (fun a => decide (a < m * 128)) g.data
      bad := g.bad.filter (fun x => decide (x < m)) }).segAt j := by
  have hgo : ¬(r.setup ≠ 0 ∨ r.step < (liveBanks r.live).length * Config.bankStitches + 32) := by
    rintro (h | h)
    · exact h hsetup
    · exact absurd hstep (Nat.not_le.mpr h)
  have hexec : exec (.remapComplete die seg) s = execRemapComplete die seg s := rfl
  dsimp only
  rw [hexec, execRemapComplete, hr]
  dsimp only
  rw [if_neg hgo]
  exact ⟨_, rfl, fun j => segAt_resumeAttached _ _ j⟩

theorem exec_softRepair {s : State} {die : DieNo} {seg : SegNo} {bank : BitVec 5} {group : BitVec 6} (hseg : seg.toNat < 24)
    (hlive : (s.segAt (die.toNat * 32 + seg.toNat)).live.getLsbD bank.toNat = true) (h8 : (s.segAt (die.toNat * 32 + seg.toNat)).repaired.length < 8)
    (hnew : ¬(bank.toNat * 64 + group.toNat) ∈ (s.segAt (die.toNat * 32 + seg.toNat)).repaired) :
    exec (.softRepair die seg bank group) s = .next (s.setSegAt (die.toNat * 32 + seg.toNat) { s.segAt (die.toNat * 32 + seg.toNat) with
      repaired := (s.segAt (die.toNat * 32 + seg.toNat)).repaired ++ [bank.toNat * 64 + group.toNat] }) := by
  have hno : ¬(24 ≤ seg.toNat ∨ (s.segAt (die.toNat * 32 + seg.toNat)).repaired.contains (bank.toNat * 64 + group.toNat) = true ∨
      8 ≤ (s.segAt (die.toNat * 32 + seg.toNat)).repaired.length ∨ (s.segAt (die.toNat * 32 + seg.toNat)).live.getLsbD bank.toNat = false) := by
    rintro (h | h | h | h)
    · omega
    · exact hnew (List.contains_iff_mem.mp h)
    · omega
    · exact Bool.false_ne_true (h.symm.trans hlive)
  have hexec : exec (.softRepair die seg bank group) s = execSoftRepair die seg bank group s := rfl
  rw [hexec, execSoftRepair, if_neg hno]

/-- Settles O44: a tick's start is the counts of its die (`counts_startTick`, `countsTo_next`) and moves no segment; the visits move each cursor of the
die once (`cursor_visitTick`), a hold tick each hot bank's pointer (`get_refreshed`); and the steps of banks and lanes by their own rules. -/
theorem sweepAndBanks : Obligations.SweepAndBanks := by
  intro s die seg bank group hot live d x k g m counts only
  have hcounts : ∀ (hold : Bool) (t : State), (t.dieAt d).counts = (x.next s.moduleTick hold).counts → counts t :=
    fun hold t h => countsTo_of_counts (countsTo_next x s.moduleTick hold) h
  refine ⟨fun hn => ?_, fun hn => ?_, fun hseg hlive hhot => ?_, fun hseg hsaves hr hsub hne h0 hmap => ?_, fun r hr hl hsetup hstep => ?_,
    fun hseg hlive h8 hnew => ?_⟩
  · have hc := counts_visitTick s d
    have hnext : x.countsTo s.moduleTick { x.next s.moduleTick false with visits := x.visits + 1 } := countsTo_next x s.moduleTick false
    have hall : counts (s.visitTick d) := countsTo_of_counts hnext hc
    simp only [Die.counts, Prod.mk.injEq] at hc
    obtain ⟨-, -, -, hhold, hvisits⟩ := hc
    exact ⟨_, exec_sweepVisit hn, hall, hhold, hvisits, fun hseg hr => cursor_visitTick s (mem_segKeys hseg) hr⟩
  · have hc := counts_refreshTick s d
    have hall := hcounts true _ hc
    simp only [Die.counts, Prod.mk.injEq] at hc
    obtain ⟨-, -, -, hhold, hvisits⟩ := hc
    refine ⟨_, exec_holdTick hn, hall, hhold, hvisits, fun hseg => ?_⟩
    have hbanks := banks_startTick s d true k
    rw [segAt_refreshTick s (mem_segKeys hseg)]
    obtain ⟨hcursor, hhot, hrefresh⟩ := banks_inj hbanks
    refine ⟨hcursor, fun hb => ?_⟩
    rw [← hhot] at hb
    rw [get_refreshed _ bank.isLt hb, hrefresh]
  · obtain ⟨h, r, hexec, hbits⟩ := stepped_hotBankChange hseg hlive hhot
    obtain ⟨hsame, hother, hdies, hmod⟩ := only_setSegAt s k { g with hot := h, refresh := r }
    refine ⟨_, hexec, ⟨?_, hother, hdies, hmod⟩, fun b hb => ?_⟩
    · rw [hsame]
    · rw [hsame]
      exact hbits b hb
  · obtain ⟨u, hexec, hu⟩ := exec_bankRemap hseg hsaves hr hsub hne h0 hmap
    exact ⟨_, hexec, State.segAt_setSegAt_same _ _ _, fun j hj => ((State.segAt_setSegAt _ _ _ _).trans (if_neg hj)).trans (hu j)⟩
  · subst hl
    obtain ⟨t, hexec, ht⟩ := exec_remapComplete hr hsetup hstep
    refine ⟨t, hexec, ?_⟩
    rw [ht k, State.segAt_setSegAt_same]
    refine ⟨rfl, rfl, rfl, fun n => List.mem_filter, fun y => ?_, fun j hj => (ht j).trans ((State.segAt_setSegAt _ _ _ _).trans (if_neg hj))⟩
    refine (SMap.get_keep 0 _ g.data y).trans ?_
    rw [Nat.mul_comm 128 m]
    simp only [decide_eq_true_iff]
    rfl
  · exact ⟨_, exec_softRepair hseg hlive h8 hnew, only_setSegAt s k _⟩

end Sys2Proof.Machine
end

section
/-! PROOFS. O43: what a visit of a stitch does for a pass that names bytes of it (R207, R210, R231, R235, R236, R241, R377). -/

namespace Sys2Proof.Machine
open Sys2Proof.Says

/-! ### Parts of a stitch written one after another -/

/-- Of several pieces of bytes written one after another, the last that holds a byte gives its value. -/
theorem byte_foldl_setBytes {α : Type} (a : α → Nat) (f : α → List Byte) (y : Nat) (m : Memory) (cs : List α) :
    Memory.byte (cs.foldl (fun m c => Memory.setBytes m (a c) (f c)) m) y =
      (cs.filter (fun c => decide (a c ≤ y ∧ y < a c + (f c).length))).getLast?.elim (Memory.byte m y) (fun c => (f c).getD (y - a c) 0) := by
  induction cs using List.reverseRecOn with
  | nil => rfl
  | append_singleton cs c ih =>
    rw [List.foldl_append, List.foldl_cons, List.foldl_nil, Memory.byte_setBytes, List.filter_append]
    by_cases h : a c ≤ y ∧ y < a c + (f c).length
    · rw [if_pos h, List.filter_cons_of_pos (by simpa using h), List.filter_nil, List.getLast?_concat, Option.elim_some]
    · rw [if_neg h, List.filter_cons_of_neg (by simpa using h), List.filter_nil, List.append_nil, ih]

/-- The bytes of a list at places of a part of it. -/
theorem getD_part (bs : List Byte) (pos n i : Nat) (h : i < (part bs pos n).length) : (part bs pos n).getD i 0 = bs.getD (pos + i) 0 := by
  have hn : i < n := lt_of_lt_of_le h (List.length_take_le _ _)
  rw [part, List.getD_eq_getElem?_getD, List.getElem?_take_of_lt hn, List.getElem?_drop, List.getD_eq_getElem?_getD]

/-- The captured part that gives a byte outside its value. -/
def capturedAt (bs : List Byte) (cs : List Cut) (y : Nat) : Option Cut :=
  (cs.filter (fun c => decide (c.place + c.lo ≤ y ∧ y < c.place + c.lo + (part bs c.pos c.n).length))).getLast?

theorem capturedAt_some {bs : List Byte} {cs : List Cut} {y : Nat} {c : Cut} (h : capturedAt bs cs y = some c) :
    c.place + c.lo ≤ y ∧ y < c.place + c.lo + (part bs c.pos c.n).length :=
  of_decide_eq_true (List.mem_filter.mp (List.mem_of_getLast? h)).2

theorem byte_captureBytes (bs : List Byte) (cs : List Cut) (m : Memory) (y : Nat) : Memory.byte (captureBytes bs cs m) y =
    (capturedAt bs cs y).elim (Memory.byte m y) (fun c => bs.getD (c.pos + (y - (c.place + c.lo))) 0) := by
  rw [captureBytes, byte_foldl_setBytes (fun c : Cut => c.place + c.lo)]
  rcases hlast : capturedAt bs cs y with _ | c
  · rw [show List.getLast? _ = none from hlast]
    rfl
  · rw [show List.getLast? _ = some c from hlast]
    obtain ⟨hle, hlt⟩ := capturedAt_some hlast
    exact getD_part bs c.pos c.n _ (by omega)

/-- The part of a stitch that gives a byte of the segment its value. -/
def partAt (cs : List Cut) (x y : Nat) : Option Cut := if 128 * x ≤ y then cutAt cs (y - 128 * x) else none

theorem partAt_eq (cs : List Cut) (x y : Nat) :
    (cs.filter (fun c => decide (x * 128 + c.pos ≤ y ∧ y < x * 128 + c.pos + c.n))).getLast? = partAt cs x y := by
  unfold partAt cutAt
  split
  · refine congrArg List.getLast? (List.filter_congr (fun c _ => decide_eq_decide.mpr ?_))
    omega
  · rw [List.filter_eq_nil_iff.mpr (fun c _ => by simp; omega)]
    rfl

theorem partAt_some {cs : List Cut} {x y : Nat} {c : Cut} (h : partAt cs x y = some c) : x * 128 + c.pos ≤ y ∧ y < x * 128 + c.pos + c.n := by
  rw [← partAt_eq] at h
  exact of_decide_eq_true (List.mem_filter.mp (List.mem_of_getLast? h)).2

theorem byte_applyPut (f : Cut → List Byte) (hf : ∀ c, (f c).length = c.n) (x : Nat) (cs : List Cut) (m : Memory) (y : Nat) :
    Memory.byte (applyPut f x cs m) y = (partAt cs x y).elim (Memory.byte m y) (fun c => (f c).getD (y - (x * 128 + c.pos)) 0) := by
  rw [applyPut, byte_foldl_setBytes (fun c : Cut => x * 128 + c.pos), ← partAt_eq]
  simp only [hf]

/-! ### The effect of a pass on a stitch -/

theorem data_countZero (g : Seg) (p : Pass) (x : Nat) : (g.countZero p x).data = g.data := by
  unfold Seg.countZero
  split <;> rfl

theorem data_marked (g : Seg) (p : Pass) (x n : Nat) : (g.marked p x n).data = g.data := by
  have hgood : (if !p.kind.needsValue && n == 128 then { g with bad := g.bad.filter (fun y => y != x) } else g).data = g.data := by
    split <;> rfl
  unfold Seg.marked
  dsimp only
  split
  · exact (data_countZero _ p x).trans hgood
  · split <;> exact hgood

/-- The pass of a stitch that is good, at which it names bytes, acts on it. -/
theorem applyPass_good {s : State} {seg x k n : Nat} (hcs : (s.passAt k n).cuts x ≠ []) (hbad : (s.segAt seg).bad.contains x = false) :
    let p := s.passAt k n
    let r := (s.visitor p x).effect x (p.cuts x) (s.segAt seg)
    s.applyPass seg x (k, n) = (s.setSegAt seg (r.1.marked p x r.2.2)).setPassAt k n r.2.1 := by
  dsimp only
  rw [applyPass_eq, if_neg (by rwa [List.isEmpty_iff]), hbad, Bool.false_and, if_neg Bool.false_ne_true]

theorem visitor_eq {s : State} {p : Pass} (h : p.kind ≠ .hostIn) (x : Nat) : s.visitor p x = p := if_neg h

theorem passAt_setPassAt (s : State) (k n : Nat) (p : Pass) : (s.setPassAt k n p).passAt k n = p := by
  rw [State.passAt, State.setPassAt, State.coreAt_onCoreAt_same, Core.pass_setPass, if_pos rfl]

section
variable {s : State} {seg x k n : Nat} (hcs : (s.passAt k n).cuts x ≠ []) (hbad : (s.segAt seg).bad.contains x = false)
include hcs hbad

theorem segAt_applyPass_other {j : Nat} (hj : j ≠ seg) : (s.applyPass seg x (k, n)).segAt j = s.segAt j := by
  rw [applyPass_good hcs hbad]
  exact (State.segAt_setSegAt _ _ _ _).trans (if_neg hj)

theorem segAt_applyPass (hk : (s.passAt k n).kind ≠ .hostIn) :
    let r := (s.passAt k n).effect x ((s.passAt k n).cuts x) (s.segAt seg)
    (s.applyPass seg x (k, n)).segAt seg = r.1.marked (s.passAt k n) x r.2.2 := by
  rw [applyPass_good hcs hbad, visitor_eq hk]
  exact State.segAt_setSegAt_same _ _ _

theorem data_applyPass (hk : (s.passAt k n).kind ≠ .hostIn) :
    ((s.applyPass seg x (k, n)).segAt seg).data = ((s.passAt k n).effect x ((s.passAt k n).cuts x) (s.segAt seg)).1.data := by
  rw [segAt_applyPass hcs hbad hk, data_marked]

theorem passAt_applyPass (hk : (s.passAt k n).kind ≠ .hostIn) :
    (s.applyPass seg x (k, n)).passAt k n = ((s.passAt k n).effect x ((s.passAt k n).cuts x) (s.segAt seg)).2.1 := by
  rw [applyPass_good hcs hbad, visitor_eq hk]
  exact passAt_setPassAt _ _ _ _

/-! ### `PCOPY`, `PPUT`, `PZERO` (R231, R235, R241) -/

theorem capture_copy (hk : (s.passAt k n).kind = .copy) (bs : List Byte) :
    s.capture seg x bs (k, n) = s.setPassAt k n { s.passAt k n with out := captureBytes bs ((s.passAt k n).cuts x) (s.passAt k n).out } := by
  have hempty : ¬((s.passAt k n).cuts x).isEmpty = true := by rwa [List.isEmpty_iff]
  unfold State.capture
  dsimp only
  rw [if_neg hempty, if_neg (by rw [hbad]; exact Bool.false_ne_true), hk]
  rfl

theorem byte_capture_copy (hk : (s.passAt k n).kind = .copy) (bs : List Byte) (y : Nat) :
    Memory.byte ((s.capture seg x bs (k, n)).passAt k n).out y =
      (capturedAt bs ((s.passAt k n).cuts x) y).elim (Memory.byte (s.passAt k n).out y) (fun c => bs.getD (c.pos + (y - (c.place + c.lo))) 0) := by
  rw [capture_copy hcs hbad hk, passAt_setPassAt]
  exact byte_captureBytes bs _ _ y

theorem byte_put (hk : (s.passAt k n).kind = .put) (y : Nat) : Memory.byte ((s.applyPass seg x (k, n)).segAt seg).data y =
    (partAt ((s.passAt k n).cuts x) x y).elim (Memory.byte (s.segAt seg).data y)
      (fun c => Memory.byte (s.passAt k n).src (c.place + c.lo + (y - 128 * x - c.pos))) := by
  rw [data_applyPass hcs hbad (by rw [hk]; decide), Pass.effect, hk]
  refine (byte_applyPut _ (fun c => SMap.length_getList 0 _ _ _) x _ _ y).trans ?_
  rcases hpart : partAt ((s.passAt k n).cuts x) x y with _ | c
  · rfl
  · have hc := partAt_some hpart
    have hplace : y - (x * 128 + c.pos) = y - 128 * x - c.pos := by omega
    refine (getD_bytes _ _ _ _).trans ?_
    rw [if_pos (by omega), hplace, Option.elim_some]

theorem byte_zero (hk : (s.passAt k n).kind = .zero) (y : Nat) : Memory.byte ((s.applyPass seg x (k, n)).segAt seg).data y =
    if (partAt ((s.passAt k n).cuts x) x y).isSome then 0 else Memory.byte (s.segAt seg).data y := by
  rw [data_applyPass hcs hbad (by rw [hk]; decide), Pass.effect, hk]
  refine (byte_applyPut _ (fun c => List.length_replicate) x _ _ y).trans ?_
  rcases hpart : partAt ((s.passAt k n).cuts x) x y with _ | c
  · rfl
  · have hc := partAt_some hpart
    have hlt : y - (x * 128 + c.pos) < c.n := by omega
    exact List.getD_replicate _ hlt

end

/-! ### `PUPD` of one word (R236) -/

/-- The kinds of the updates of a word, one by one. -/
theorem kind_updates : ∀ e ∈ updates,
    e.1 = .updAddi ∨ e.1 = .updAddf ∨ e.1 = .updMini ∨ e.1 = .updMaxi ∨ e.1 = .updAnd ∨ e.1 = .updOr ∨ e.1 = .updXor ∨ e.1 = .updSwap := by
  decide

theorem effect_upd {p : Pass} {e : PassKind × (W32 → W32 → W32)} (he : e ∈ updates) (hk : p.kind = e.1) (x : Nat) (cs : List Cut) (g : Seg) :
    p.effect x cs g =
      ({ g with data := (applyUpd p x cs (g.data, p.out)).1 }, { p with out := (applyUpd p x cs (g.data, p.out)).2 }, bytesIn cs) := by
  rcases kind_updates e he with h | h | h | h | h | h | h | h <;> rw [h] at hk <;> rw [Pass.effect, hk]

theorem applyUpd_word (p : Pass) (x : Nat) {c : Cut} (hn : c.n = 4) (q : Memory × Memory) : applyUpd p x [c] q =
    (Memory.store q.1 (x * 128 + c.pos) (updWord p.kind (memW q.1 (x * 128 + c.pos)) (memW p.src (c.place + c.lo))).toNat 4,
      if p.ret then Memory.store q.2 (p.se + (c.place + c.lo - p.sd)) (memW q.1 (x * 128 + c.pos)).toNat 4 else q.2) := by
  have hw : [c].flatMap Cut.words = [(c.pos, c.place + c.lo)] := by
    rw [List.flatMap_singleton, Cut.words, hn]
    rfl
  rw [applyUpd, hw]
  rfl

theorem memW_store (m : Memory) (a : Nat) (w : W32) : memW (Memory.store m a w.toNat 4) a = w := by
  have hlt : w.toNat % 256 ^ 4 = w.toNat := Nat.mod_eq_of_lt w.isLt
  rw [memW, Memory.load_store, hlt, BitVec.ofNat_toNat, BitVec.setWidth_eq]

theorem updWord_updates {e : PassKind × (W32 → W32 → W32)} (h : e ∈ updates) (o u : W32) : updWord e.1 o u = e.2 o u := by
  have hslt : ∀ a b : W32, a.slt b = true ↔ a.toInt < b.toInt := fun a b => BitVec.slt_iff_toInt_lt
  simp only [updates, List.mem_cons, List.not_mem_nil, or_false] at h
  rcases h with h | h | h | h | h | h | h | h <;> rw [h]
  · rfl
  · rfl
  · exact if_congr (hslt u o).symm rfl rfl
  · exact if_congr (hslt o u).symm rfl rfl
  all_goals rfl

/-! ### Dirty blocks (R377) -/

theorem n_pos_of_mem_cuts {p : Pass} {x : Nat} {c : Cut} (hk : p.kind ≠ .zeroPhys) (h : c ∈ p.cuts x) : 0 < c.n := by
  rw [Pass.cuts, if_neg hk, Pass.cutsOf] at h
  obtain ⟨va, -, h⟩ := List.mem_flatMap.mp h
  obtain ⟨e, -, h⟩ := List.mem_flatMap.mp h
  unfold Ext.cut at h
  dsimp only at h
  split at h
  · rw [List.mem_singleton.mp h]
    show 0 < _ - _
    omega
  · cases h

theorem bytesIn_ne_zero {p : Pass} {x : Nat} (hk : p.kind ≠ .zeroPhys) (hcs : p.cuts x ≠ []) : bytesIn (p.cuts x) ≠ 0 := by
  obtain ⟨c, hc⟩ := List.exists_mem_of_ne_nil _ hcs
  have hle := List.single_le_sum (fun _ _ => Nat.zero_le _) _ (List.mem_map_of_mem (f := fun c : Cut => c.n) hc)
  have hpos := n_pos_of_mem_cuts hk hc
  exact Nat.ne_of_gt (lt_of_lt_of_le hpos hle)

theorem dirty_marked (g : Seg) {p : Pass} {x n : Nat} (hsup : p.key.sup = false) (hn : n ≠ 0) (hx : x < 2 ^ 23) :
    (g.marked p x n).dirty.getLsbD (x / 16384) = true := by
  have hbit : (blockBit x).getLsbD (x / 16384) = true := by
    have hlt : x / 16384 < 512 := by omega
    simp [blockBit, hlt]
  rw [Seg.marked, hsup, if_neg Bool.false_ne_true, if_pos hn]
  simp only [BitVec.getLsbD_or, hbit, Bool.or_true]

theorem bytes_effect_written {p : Pass} (h : p.kind = .put ∨ p.kind = .zero) (x : Nat) (cs : List Cut) (g : Seg) : (p.effect x cs g).2.2 = bytesIn cs := by
  unfold Pass.effect
  rcases h with h | h <;> rw [h]

end Sys2Proof.Machine
end

section
/-! PROOFS. O43: the visit tick of a segment that one pass rides alone (R198, R204, R205, R207, R216). -/

namespace Sys2Proof

/-! ### Sparse stores as lists -/

/-- What a list of entries yields is at most cut down by a write that yields no more than the value before it did. -/
theorem SMap.flatMap_dropTo_sublist {α β : Type} (f : Nat × α → List β) (k : Nat) : ∀ m : SMap α, ((SMap.dropTo k m).flatMap f).Sublist (m.flatMap f) := by
  intro m
  induction m with
  | nil => exact List.Sublist.refl _
  | cons e r ih =>
    rw [SMap.dropTo, List.flatMap_cons]
    split
    · exact ih.trans (List.sublist_append_right _ _)
    · exact List.Sublist.refl _

theorem SMap.flatMap_set_sublist {α β : Type} [DecidableEq α] (d : α) (f : Nat × α → List β) (k : Nat) (v : α) :
    ∀ m : SMap α, (f (k, v)).Sublist (f (k, SMap.get d m k)) → f (k, d) = [] → ((SMap.set d m k v).flatMap f).Sublist (m.flatMap f) := by
  intro m
  induction m with
  | nil =>
    intro h hd
    have hv : f (k, v) = [] := List.sublist_nil.mp (hd ▸ h)
    rw [SMap.set]
    split
    · exact List.Sublist.refl _
    · simp [hv]
  | cons e r ih =>
    intro h hd
    obtain ⟨j, w⟩ := e
    rw [SMap.get] at h
    rw [SMap.set]
    by_cases hlt : k < j
    · rw [if_pos hlt] at h ⊢
      have hv : f (k, v) = [] := List.sublist_nil.mp (hd ▸ h)
      split
      · exact List.Sublist.refl _
      · rw [List.flatMap_cons, hv]
        exact List.Sublist.refl _
    · rw [if_neg hlt] at h ⊢
      by_cases hk : k = j
      · subst hk
        rw [if_pos rfl] at h ⊢
        rw [List.flatMap_cons]
        split
        · exact (SMap.flatMap_dropTo_sublist f k r).trans (List.sublist_append_right _ _)
        · exact h.append (List.Sublist.refl _)
      · rw [if_neg hk] at h ⊢
        rw [List.flatMap_cons, List.flatMap_cons]
        exact (List.Sublist.refl _).append (ih h hd)

/-- What a store reads as at a key is the default or stands there. -/
theorem SMap.get_eq_or_mem {α : Type} (d : α) (k : Nat) : ∀ m : SMap α, SMap.get d m k = d ∨ (k, SMap.get d m k) ∈ m := by
  intro m
  induction m with
  | nil => exact .inl rfl
  | cons e r ih =>
    obtain ⟨j, w⟩ := e
    rw [SMap.get]
    by_cases hlt : k < j
    · rw [if_pos hlt]; exact .inl rfl
    · rw [if_neg hlt]
      by_cases hk : k = j
      · rw [if_pos hk, hk]; exact .inr List.mem_cons_self
      · rw [if_neg hk]; exact ih.imp_right (List.mem_cons_of_mem _)

/-- A read of a store some of whose values have been changed, chosen by key. -/
theorem SMap.get_map_where {α : Type} (d : α) (c : Nat → Prop) [DecidablePred c] (f : α → α) (hd : f d = d) (m : SMap α) (k : Nat) :
    SMap.get d (m.map (fun e => if c e.1 then (e.1, f e.2) else e)) k = if c k then f (SMap.get d m k) else SMap.get d m k := by
  induction m with
  | nil => simp only [List.map_nil, SMap.get, hd, ite_self]
  | cons e r ih =>
    obtain ⟨j, w⟩ := e
    have hkey : (if c j then (j, f w) else (j, w)) = (j, if c j then f w else w) := by split <;> rfl
    rw [List.map_cons, hkey, SMap.get, SMap.get, ih]
    by_cases hlt : k < j
    · simp only [if_pos hlt, hd, ite_self]
    · by_cases hk : k = j
      · subst hk
        simp only [if_neg hlt, if_pos]
      · simp only [if_neg hlt, if_neg hk]

end Sys2Proof

namespace Sys2Proof.Machine
open Sys2Proof.Says

/-! ### The passes that ride a segment -/

/-- A slot's pass rides a segment (R204, R205). -/
def Pass.ridesAt (p : Pass) (seg : Nat) : Prop := p.st = .riding ∧ p.closeIn = 0 ∧ p.seg = seg ∧ p.frozen = false

/-- The rider of a slot, if its pass rides the segment. -/
def riderOf (seg k : Nat) (e : Nat × Pass) : List ((Nat × Nat) × Pass) :=
  if e.2.st = .riding ∧ e.2.closeIn = 0 ∧ e.2.seg = seg ∧ e.2.frozen = false then [((k, e.1), e.2)] else []
/-- The riders of a core. -/
def ridersOf (seg : Nat) (c : Nat × Core) : List ((Nat × Nat) × Pass) := c.2.passes.flatMap (riderOf seg c.1)

theorem riderOf_pos {seg : Nat} {p : Pass} (h : p.ridesAt seg) (k n : Nat) : riderOf seg k (n, p) = [((k, n), p)] := if_pos h
theorem riderOf_neg {seg : Nat} {p : Pass} (h : ¬p.ridesAt seg) (k n : Nat) : riderOf seg k (n, p) = [] := if_neg h

theorem riders_eq (s : State) (seg : Nat) : s.riders seg = s.cores.flatMap (ridersOf seg) := by
  unfold State.riders ridersOf
  refine List.flatMap_congr (fun c _ => ?_)
  rw [List.filterMap_eq_flatMap_toList]
  refine List.flatMap_congr (fun e _ => ?_)
  unfold riderOf
  split <;> rfl

theorem rides_of_mem {s : State} {seg : Nat} {e : (Nat × Nat) × Pass} (h : e ∈ s.riders seg) : e.2.ridesAt seg := by
  rw [riders_eq] at h
  obtain ⟨c, -, h⟩ := List.mem_flatMap.mp h
  obtain ⟨q, -, h⟩ := List.mem_flatMap.mp h
  unfold riderOf at h
  split at h
  · next hr => rw [List.mem_singleton.mp h]; exact hr
  · cases h

/-- A slot whose pass rides a segment is among its riders. -/
theorem mem_riders {s : State} {seg k n : Nat} (h : (s.passAt k n).ridesAt seg) : ((k, n), s.passAt k n) ∈ s.riders seg := by
  have hidle : ¬({} : Pass).ridesAt seg := by rintro ⟨h, -⟩; cases h
  have hslot : (n, s.passAt k n) ∈ (s.coreAt k).passes :=
    (SMap.get_eq_or_mem {} n (s.coreAt k).passes).resolve_left (fun h0 => hidle (h0 ▸ h))
  have hcore : (k, s.coreAt k) ∈ s.cores := by
    refine (SMap.get_eq_or_mem {} k s.cores).resolve_left (fun h0 => ?_)
    have hc : s.coreAt k = {} := h0
    rw [hc] at hslot
    cases hslot
  rw [riders_eq]
  refine List.mem_flatMap.mpr ⟨_, hcore, List.mem_flatMap.mpr ⟨_, hslot, ?_⟩⟩
  rw [riderOf_pos h]
  exact List.mem_singleton.mpr rfl

theorem riders_setCoreAt (s : State) (k : Nat) (c : Core) (seg : Nat) (h : (ridersOf seg (k, c)).Sublist (ridersOf seg (k, s.coreAt k))) :
    ((s.setCoreAt k c).riders seg).Sublist (s.riders seg) := by
  rw [riders_eq, riders_eq]
  exact SMap.flatMap_set_sublist ({} : Core) (ridersOf seg) k c s.cores h rfl

theorem riders_setPassAt (s : State) (k n : Nat) {p : Pass} {seg : Nat} (h : ¬p.ridesAt seg) : ((s.setPassAt k n p).riders seg).Sublist (s.riders seg) := by
  refine riders_setCoreAt s k _ seg (SMap.flatMap_set_sublist ({} : Pass) (riderOf seg k) n p (s.coreAt k).passes ?_ rfl)
  rw [riderOf_neg h]
  exact List.nil_sublist _

/-! ### The start of a tick, for a die that does not start up and whose cores' `TMMA` units are empty -/

/-- A state in which the slots, the segments and the dies stand as in another, and no pass more rides. -/
def State.ridesOn (s t : State) : Prop :=
  t.segs = s.segs ∧ t.dies = s.dies ∧ t.mod.boot = s.mod.boot ∧
    (∀ j, (t.coreAt j).passes = (s.coreAt j).passes ∧ (t.coreAt j).tmma = (s.coreAt j).tmma) ∧ ∀ y, (t.riders y).Sublist (s.riders y)

theorem ridesOn_refl (s : State) : s.ridesOn s := ⟨rfl, rfl, rfl, fun _ => ⟨rfl, rfl⟩, fun _ => List.Sublist.refl _⟩

theorem ridesOn_trans {s t u : State} (h : s.ridesOn t) (g : t.ridesOn u) : s.ridesOn u := by
  obtain ⟨hs, hd, hb, hc, hr⟩ := h
  obtain ⟨gs, gd, gb, gc, gr⟩ := g
  exact ⟨gs.trans hs, gd.trans hd, gb.trans hb, fun j => ⟨(gc j).1.trans (hc j).1, (gc j).2.trans (hc j).2⟩, fun y => (gr y).trans (hr y)⟩

theorem ridesOn_onMod (s : State) (f : Module → Module) (h : (f s.mod).boot = s.mod.boot) : s.ridesOn (s.onMod f) :=
  ⟨rfl, rfl, h, fun _ => ⟨rfl, rfl⟩, fun _ => List.Sublist.refl _⟩

theorem ridesOn_onCoreAt (s : State) (k : Nat) (f : Core → Core) (hp : (f (s.coreAt k)).passes = (s.coreAt k).passes)
    (ht : (f (s.coreAt k)).tmma = (s.coreAt k).tmma) : s.ridesOn (s.onCoreAt k f) := by
  refine ⟨rfl, rfl, rfl, fun j => ?_, fun y => riders_setCoreAt s k _ y ?_⟩
  · rw [State.coreAt_onCoreAt]
    split
    · next hj => rw [hj]; exact ⟨hp, ht⟩
    · exact ⟨rfl, rfl⟩
  · rw [ridersOf, ridersOf, hp]

theorem ridesOn_sendFar (s : State) (k : Nat) : s.ridesOn (s.sendFar k) := by
  unfold State.sendFar
  dsimp only
  split
  · exact ridesOn_refl s
  · split
    · exact ridesOn_refl s
    · exact ridesOn_trans (ridesOn_onMod s _ rfl) (ridesOn_onCoreAt _ k _ rfl rfl)

theorem accumulate_idle {s : State} {k : Nat} (h : (s.coreAt k).tmma = []) : s.accumulate k = s := by
  unfold State.accumulate
  dsimp only
  rw [h]
  rfl

theorem ridesOn_sends (l : List (Nat × Core)) : ∀ s : State, (∀ j, (s.coreAt j).tmma = []) →
    s.ridesOn (l.foldl (fun t e => (t.sendFar e.1).accumulate e.1) s) := by
  induction l with
  | nil => exact fun s _ => ridesOn_refl s
  | cons e l ih =>
    intro s h
    have hsend := ridesOn_sendFar s e.1
    have hidle : ∀ j, ((s.sendFar e.1).coreAt j).tmma = [] := fun j => by
      obtain ⟨-, -, -, hc, -⟩ := hsend
      exact (hc j).2.trans (h j)
    rw [List.foldl_cons, accumulate_idle (hidle e.1)]
    exact ridesOn_trans hsend (ih _ hidle)

/-! #### The work of a tick in the cores -/

theorem tickWork_default (tick : Nat) (hold : Bool) : ({} : Core).tickWork tick hold = {} := by
  cases hold <;> rfl

theorem tickWork_eq {c : Core} (hp : c.parts = false) (ht : c.tmma = []) (tick : Nat) :
    (c.tickWork tick false).passes = c.passes.map (fun e => (e.1, e.2.tick)) ∧ (c.tickWork tick false).tmma = [] := by
  have hsettled : ((c.passTick false).acceptSends).settleTmma tick = { (c.passTick false).acceptSends with tmma := [] } := by
    rw [Core.settleTmma]
    show List.foldl _ _ (List.filter _ c.tmma) = _
    rw [ht]
    show ({ (c.passTick false).acceptSends with tmma := List.filter _ c.tmma } : Core) = _
    rw [ht]
    rfl
  have hparts : ((c.passTick false).acceptSends).parts = false := hp
  rw [Core.tickWork]
  dsimp only
  rw [hsettled, hparts, Bool.false_and, if_neg Bool.false_ne_true]
  exact ⟨rfl, rfl⟩

theorem riderOf_tick (seg k n : Nat) (p : Pass) : riderOf seg k (n, p.tick) = riderOf seg k (n, p) := by
  by_cases h : p.closeIn = 0
  · rw [Pass.tick, if_pos h]
  · rw [riderOf_neg (fun hr => h hr.2.1), riderOf_neg]
    rw [Pass.tick, if_neg h]
    rintro ⟨hst, -⟩
    cases hst

theorem ridersOf_tickWork {c : Core} (hp : c.parts = false) (ht : c.tmma = []) (tick seg k : Nat) :
    ridersOf seg (k, c.tickWork tick false) = ridersOf seg (k, c) := by
  rw [ridersOf, ridersOf, (tickWork_eq hp ht tick).1, List.flatMap_map]
  exact List.flatMap_congr (fun e _ => riderOf_tick seg k e.1 e.2)

end Sys2Proof.Machine
end

section
/-! PROOFS. O43: the start of a visit tick, and the visits of segments that no pass rides (R198, R205, R207, R208). -/

namespace Sys2Proof.Machine
open Sys2Proof.Says

/-! #### The start of a visit tick -/

/-- The cores of a die have made their part of a tick. -/
def State.coresTick (s : State) (d : Nat) : State :=
  let s1 := s.onDieAt d (fun x => x.next s.moduleTick false)
  let tick := (s1.dieAt d).tick
  { s1 with cores := s1.cores.map (fun (e : Nat × Core) => if keyDie e.1 = d then (e.1, e.2.tickWork tick false) else e) }

theorem coreAt_coresTick (s : State) (d j : Nat) : ∃ tick, (s.coresTick d).coreAt j = if keyDie j = d then (s.coreAt j).tickWork tick false else s.coreAt j :=
  ⟨_, SMap.get_map_where ({} : Core) (fun j => keyDie j = d) (fun c => c.tickWork _ false) (tickWork_default _ false) s.cores j⟩

section
variable {s : State} (d : Nat) (hidle : ∀ e ∈ s.cores, e.2.parts = false ∧ e.2.tmma = [])
include hidle

theorem idle_coreAt (j : Nat) : (s.coreAt j).parts = false ∧ (s.coreAt j).tmma = [] := by
  rcases SMap.get_eq_or_mem ({} : Core) j s.cores with h | h
  · rw [State.coreAt, h]
    exact ⟨rfl, rfl⟩
  · exact hidle _ h

theorem tmma_coresTick (j : Nat) : ((s.coresTick d).coreAt j).tmma = [] := by
  obtain ⟨tick, hj⟩ := coreAt_coresTick s d j
  obtain ⟨hp, ht⟩ := idle_coreAt hidle j
  rw [hj]
  split
  · exact (tickWork_eq hp ht tick).2
  · exact ht

theorem passAt_coresTick {k n : Nat} (h : (s.passAt k n).closeIn = 0) : (s.coresTick d).passAt k n = s.passAt k n := by
  obtain ⟨tick, hk⟩ := coreAt_coresTick s d k
  obtain ⟨hp, ht⟩ := idle_coreAt hidle k
  rw [State.passAt, hk]
  split
  · rw [Core.pass, (tickWork_eq hp ht tick).1, SMap.get_map ({} : Pass) Pass.tick rfl]
    exact if_pos h
  · rfl

theorem riders_coresTick (y : Nat) : (s.coresTick d).riders y = s.riders y := by
  rw [riders_eq, riders_eq, State.coresTick]
  dsimp only
  rw [List.flatMap_map]
  refine List.flatMap_congr (fun e he => ?_)
  obtain ⟨hp, ht⟩ := hidle e he
  split
  · exact ridersOf_tickWork hp ht _ y e.1
  · rfl

end

theorem bootTick_ready {s : State} (h : s.mod.boot = none) : s.bootTick = s := by
  rw [State.bootTick, h]

theorem startScrub_spec (s : State) (d : Nat) :
    (s.startScrub d).cores = s.cores ∧ (s.startScrub d).segs = s.segs ∧ ((s.startScrub d).dieAt d).region = (s.dieAt d).region := by
  unfold State.startScrub
  dsimp only
  split
  · exact ⟨rfl, rfl, rfl⟩
  · split
    · exact ⟨rfl, rfl, rfl⟩
    · exact ⟨rfl, rfl, by rw [State.dieAt_onDieAt_same]⟩

theorem riders_congr {s t : State} (h : t.cores = s.cores) (y : Nat) : t.riders y = s.riders y := by rw [State.riders, h]; rfl
theorem passAt_congr {s t : State} (h : t.cores = s.cores) (k n : Nat) : t.passAt k n = s.passAt k n := by rw [State.passAt, State.coreAt, h]; rfl

/-- Before its visits, a visit tick leaves the segments and the passes that may make one as they are. -/
theorem beginVisits_spec {s : State} {d : Nat} (hidle : ∀ e ∈ s.cores, e.2.parts = false ∧ e.2.tmma = []) (hboot : s.mod.boot = none)
    (hregion : (s.dieAt d).region = []) :
    (s.beginVisits d).segs = s.segs ∧ ((s.beginVisits d).dieAt d).region = [] ∧ (∀ y, ((s.beginVisits d).riders y).Sublist (s.riders y)) ∧
      ∀ k n, (s.passAt k n).closeIn = 0 → (s.beginVisits d).passAt k n = s.passAt k n := by
  set s2 := s.coresTick d with hs2
  have hsends := ridesOn_sends (s2.cores.filter (fun e => keyDie e.1 == d)) s2 (tmma_coresTick d hidle)
  set s3 := (s2.cores.filter (fun e => keyDie e.1 == d)).foldl (fun t e => (t.sendFar e.1).accumulate e.1) s2 with hs3
  set s4 := s3.onMod (fun m => { m with ports := m.ports.map (fun p => if portDie p.1 = d then (p.1, p.2.laneTick) else p) }) with hs4
  have hbegun : s2.ridesOn (if d = 0 then (s4.onMod Module.wallTick).bootTick else s4) := by
    have h4 : s2.ridesOn s4 := ridesOn_trans hsends (ridesOn_onMod s3 _ rfl)
    split
    · have hw : s2.ridesOn (s4.onMod Module.wallTick) := ridesOn_trans h4 (ridesOn_onMod s4 _ rfl)
      obtain ⟨-, -, hb, -⟩ := hw
      rwa [bootTick_ready (hb.trans hboot)]
    · exact h4
  obtain ⟨hsegs, hdies, -, hcores, hriders⟩ := hbegun
  set s5 := if d = 0 then (s4.onMod Module.wallTick).bootTick else s4
  have hstart : s.startTick d false = s5.startScrub d := rfl
  obtain ⟨gcores, gsegs, gregion⟩ := startScrub_spec s5 d
  have hcores' : (s.beginVisits d).cores = s5.cores := gcores
  have hregion2 : (s2.dieAt d).region = [] := by
    show ((s.onDieAt d (fun x => x.next s.moduleTick false)).dieAt d).region = []
    rw [State.dieAt_onDieAt_same]
    show (s.dieAt d).region.map _ = []
    rw [hregion]
    rfl
  refine ⟨(gsegs.trans hsegs), ?_, fun y => ?_, fun k n hk => ?_⟩
  · rw [State.beginVisits, State.dieAt_onDieAt_same, hstart]
    refine gregion.trans ?_
    rw [State.dieAt, hdies]
    exact hregion2
  · rw [riders_congr hcores', ← riders_coresTick d hidle y]
    exact hriders y
  · rw [passAt_congr hcores', ← passAt_coresTick d hidle hk, State.passAt, State.passAt, Core.pass, Core.pass, (hcores k).1]

/-! ### The visit of a segment -/

theorem dies_applyPass (s : State) (seg x : Nat) (e : Nat × Nat) : (s.applyPass seg x e).dies = s.dies := by
  rw [applyPass_eq]
  split
  · rfl
  · split <;> rfl

section
variable {s : State} {seg : Nat} (hregion : (s.dieAt (keyDie seg)).region = [])
include hregion

theorem applySups_eq (x : Nat) (ws : List ((Nat × Nat) × Pass)) : s.applySups seg x ws =
    (((ws.map (fun e => ((e.2.key.seq, Sum.inl e.1) : Nat × ((Nat × Nat) ⊕ RegionJob)))).insertionSort (fun a b => a.1 ≤ b.1)).foldl
      (State.supOp seg x) (s, [])).1 := by
  have hjobs : (if keyNo seg = 23 then (s.dieAt (keyDie seg)).region else []) = [] := by rw [hregion, ite_self]
  unfold State.applySups
  dsimp only
  rw [hjobs, if_pos rfl, List.map_nil, List.append_nil]
  rfl

theorem applySups_none (x : Nat) : s.applySups seg x [] = s := by
  rw [applySups_eq hregion]
  rfl

theorem applySups_one (x : Nat) (e : (Nat × Nat) × Pass) : s.applySups seg x [e] = s.applyPass seg x e.1 := by
  rw [applySups_eq hregion]
  rfl

theorem visitWrite_one (x : Nat) (e : (Nat × Nat) × Pass) : s.visitWrite seg x [e] = s.applyPass seg x e.1 := by
  have hlater : ((s.applyPass seg x e.1).dieAt (keyDie seg)).region = [] := by
    rw [State.dieAt, dies_applyPass]
    exact hregion
  unfold State.visitWrite
  rcases hsup : e.2.key.sup
  · simp only [List.filter_cons, hsup, List.filter_nil, List.foldl_cons, List.foldl_nil, Bool.not_false, if_true, Bool.false_eq_true, if_false]
    exact applySups_none hlater x
  · simp only [List.filter_cons, hsup, List.filter_nil, List.foldl_nil, Bool.not_true, if_true, Bool.false_eq_true, if_false]
    exact applySups_one hregion x e

theorem visitWrite_none (x : Nat) : s.visitWrite seg x [] = s := applySups_none hregion x

end

theorem visitReport_spec (s : State) (seg x : Nat) (bad : Bool) (l : List ((Nat × Nat) × Pass)) : (s.visitReport seg x bad l).cores = s.cores ∧
    (s.visitReport seg x bad l).segs = s.segs ∧ ((s.visitReport seg x bad l).dieAt (keyDie seg)).region = (s.dieAt (keyDie seg)).region := by
  unfold State.visitReport
  split
  · refine ⟨rfl, rfl, ?_⟩
    rw [State.dieAt_onDieAt_same]
    split <;> rfl
  · exact ⟨rfl, rfl, rfl⟩

theorem visitStitch_unridden {s : State} {seg x : Nat} (hregion : (s.dieAt (keyDie seg)).region = []) (hr : s.riders seg = []) :
    s.visitStitch seg x = s.visitReport seg x ((s.segAt seg).bad.contains x) [] := by
  rw [visitStitch_eq, hr]
  show State.visitReport (State.visitMade (State.visitWrite s seg x []) _ []) seg x _ [] = _
  rw [visitWrite_none hregion]
  rfl

theorem frame_visitStitch_unridden {s : State} {seg : Nat} (hregion : (s.dieAt (keyDie seg)).region = []) (hr : s.riders seg = []) (x : Nat) :
    (s.visitStitch seg x).cores = s.cores ∧ (s.visitStitch seg x).segs = s.segs ∧ ((s.visitStitch seg x).dieAt (keyDie seg)).region = [] := by
  obtain ⟨hc, hs, hd⟩ := visitReport_spec s seg x ((s.segAt seg).bad.contains x) []
  rw [visitStitch_unridden hregion hr]
  exact ⟨hc, hs, hd.trans hregion⟩

/-- A segment in a visit tick, with its cursor moved on. -/
def State.moveOn (u : State) (y : Nat) : State := u.setSegAt y { u.segAt y with cursor := ((u.segAt y).cursor + 1) % (u.segAt y).period }

theorem visitSegment_moves {u : State} {y : Nat} (h : (u.segAt y).remap = none) :
    u.visitSegment y = (u.moveOn y).visitStitch y (((u.segAt y).cursor + 1) % (u.segAt y).period) := by
  unfold State.visitSegment
  dsimp only
  split
  · next hr => rw [h] at hr; cases hr
  · rfl

/-- A visit of a segment that no pass rides moves nothing but that segment. -/
theorem visitSegment_unridden {u : State} {y : Nat} (hr : u.riders y = []) (hregion : (u.dieAt (keyDie y)).region = []) :
    (u.visitSegment y).cores = u.cores ∧ (∀ j, j ≠ y → (u.visitSegment y).segAt j = u.segAt j) ∧
      ((u.visitSegment y).dieAt (keyDie y)).region = [] := by
  have hset : ∀ (g : Seg) j, j ≠ y → (u.setSegAt y g).segAt j = u.segAt j := fun g j hj => (State.segAt_setSegAt _ _ _ _).trans (if_neg hj)
  rcases hremap : (u.segAt y).remap with _ | r
  · obtain ⟨hc, hs, hd⟩ := frame_visitStitch_unridden (s := u.moveOn y) hregion hr (((u.segAt y).cursor + 1) % (u.segAt y).period)
    rw [visitSegment_moves hremap]
    refine ⟨hc, fun j hj => ?_, hd⟩
    rw [State.segAt, hs]
    exact hset _ j hj
  · rw [State.visitSegment, hremap]
    exact ⟨rfl, hset _, hregion⟩

theorem visitSegments_unridden {d seg : Nat} (l : List Nat) : ∀ u : State, (∀ y ∈ l, keyDie y = d ∧ u.riders y = []) → ¬seg ∈ l →
    (u.dieAt d).region = [] → (l.foldl State.visitSegment u).cores = u.cores ∧ (l.foldl State.visitSegment u).segAt seg = u.segAt seg ∧
      ((l.foldl State.visitSegment u).dieAt d).region = [] := by
  induction l with
  | nil => exact fun u _ _ h => ⟨rfl, rfl, h⟩
  | cons y l ih =>
    intro u hl hseg hregion
    obtain ⟨hy, hseg⟩ := not_or.mp (mt List.mem_cons.mpr hseg)
    obtain ⟨hd, hr⟩ := hl y List.mem_cons_self
    subst hd
    obtain ⟨hc, hs, hreg⟩ := visitSegment_unridden hr hregion
    have hrest : ∀ z ∈ l, keyDie z = keyDie y ∧ (u.visitSegment y).riders z = [] := fun z hz => by
      obtain ⟨hd, hr⟩ := hl z (List.mem_cons_of_mem _ hz)
      exact ⟨hd, (riders_congr hc z).trans hr⟩
    obtain ⟨gc, gs, greg⟩ := ih (u.visitSegment y) hrest hseg hreg
    exact ⟨gc.trans hc, gs.trans (hs seg hy), greg⟩

end Sys2Proof.Machine
end

section
/-! PROOFS. O43: the visit of a stitch by one pass, which depends on neither its page nor the cursor (R204, R207, R216). -/

namespace Sys2Proof.Machine
open Sys2Proof.Says

/-! ### The visit of a segment that one pass rides -/

/-- A pass with the page whose check stands. -/
def Pass.onPage (p : Pass) (pg : Option (Nat × Nat)) : Pass := { p with page := pg }
/-- A segment whose cursor stands at a stitch. -/
def Seg.at_ (g : Seg) (x : Nat) : Seg := { g with cursor := x }

/-- The checks of pages that are unpaged all succeed (R217, R218). -/
theorem pageChecks_unpaged (d : Die) (p : Pass) : ∀ vas : List Nat, (∀ va ∈ vas, p.pagedAt va = false) → pageChecks d p vas = .inr p.page := by
  intro vas
  induction vas with
  | nil => exact fun _ => rfl
  | cons va r ih =>
    intro h
    obtain ⟨hva, hr⟩ := List.forall_mem_cons.mp h
    rw [pageChecks, hva, Bool.not_false, Bool.or_true, if_pos rfl]
    exact ih hr

theorem approach_makes {d : Die} {period x : Nat} {p : Pass} (hlead : p.lead = 0) (hnext : (p.openPt + p.visits) % period = x)
    (hpage : ∀ va ∈ p.hitVas x, p.pagedAt va = false) : p.approach d period x = (true, p.onPage (p.leavesPage x).page) := by
  have hpaged : ∀ va, (p.leavesPage x).pagedAt va = p.pagedAt va := fun va => by
    unfold Pass.leavesPage
    split <;> rfl
  have hchecks := pageChecks_unpaged d (p.leavesPage x) (p.hitVas x) (fun va hva => (hpaged va).trans (hpage va hva))
  unfold Pass.approach
  rw [if_neg (fun h => h hlead), if_neg (fun h => h hnext), hchecks]
  rfl

/-- What a pass does at its visit of a stitch: it captures it as a reader, or applies to it. -/
def State.visitAct (s : State) (seg x k n : Nat) (p : Pass) : State :=
  if p.kind.isReader then s.capture seg x ((s.segAt seg).stitch x) (k, n) else s.applyPass seg x (k, n)

theorem dies_capture (s : State) (seg x : Nat) (bs : List Byte) (e : Nat × Nat) : (s.capture seg x bs e).dies = s.dies := by
  unfold State.capture
  dsimp only
  split
  · rfl
  · split
    · rfl
    · split
      · split <;> rfl
      · split <;> rfl

/-- A pass that makes the visit of a stitch alone acts and has made it (R204, R205, R207). -/
theorem visitStitch_one {s : State} {seg x k n : Nat} {p : Pass} (hregion : (s.dieAt (keyDie seg)).region = [])
    (hr : s.riders seg = [((k, n), p)]) (hlead : p.lead = 0) (hnext : (p.openPt + p.visits) % s.period seg = x)
    (hpage : ∀ va ∈ p.hitVas x, p.pagedAt va = false) (hbad : (s.segAt seg).bad.contains x = false) :
    let t := (s.setPassAt k n (p.onPage (p.leavesPage x).page)).visitAct seg x k n p
    s.visitStitch seg x = t.setPassAt k n ((t.passAt k n).advance (s.period seg)) := by
  set p' := p.onPage (p.leavesPage x).page
  set u := s.setPassAt k n p'
  have happ : approachAll seg (s.period seg) x [((k, n), p)] s = (u, [((k, n), p')]) := by
    rw [approachAll, approach_makes hlead hnext hpage]
    rfl
  have hacts : (u.visitRead seg x ((s.segAt seg).stitch x) [((k, n), p')]).visitWrite seg x (writersOf [((k, n), p')]) = u.visitAct seg x k n p := by
    rcases hk : p.kind.isReader
    · have hk' : p'.kind.isReader = false := hk
      have hw : writersOf [((k, n), p')] = [((k, n), p')] := by
        simp only [writersOf, List.filter_cons, hk', Bool.not_false, if_true, List.filter_nil]
        rfl
      have hv : u.visitRead seg x ((s.segAt seg).stitch x) [((k, n), p')] = u := by
        simp only [State.visitRead, List.filter_cons, hk', Bool.false_eq_true, if_false, List.filter_nil, List.foldl_nil]
      rw [hw, hv, visitWrite_one (s := u) hregion, State.visitAct, hk, if_neg Bool.false_ne_true]
    · have hk' : p'.kind.isReader = true := hk
      have hw : writersOf [((k, n), p')] = [] := by
        simp only [writersOf, List.filter_cons, hk', Bool.not_true, Bool.false_eq_true, if_false, List.filter_nil]
        rfl
      have hv : u.visitRead seg x ((s.segAt seg).stitch x) [((k, n), p')] = u.capture seg x ((s.segAt seg).stitch x) (k, n) := by
        simp only [State.visitRead, List.filter_cons, hk', if_true, List.filter_nil, List.foldl_cons, List.foldl_nil]
      have hregion' : ((u.capture seg x ((s.segAt seg).stitch x) (k, n)).dieAt (keyDie seg)).region = [] := by
        rw [State.dieAt, dies_capture]
        exact hregion
      rw [hw, hv, visitWrite_none hregion', State.visitAct, hk, if_pos rfl]
      rfl
  rw [visitStitch_eq, hr, happ]
  dsimp only
  rw [hacts, State.visitReport, hbad, Bool.false_and, if_neg Bool.false_ne_true]
  rfl

/-! ### The page and the cursor do not matter to what a pass does -/

theorem effect_onPage (p : Pass) (x : Nat) (cs : List Cut) (g : Seg) (pg : Option (Nat × Nat)) (c : Nat) :
    (p.onPage pg).effect x cs (g.at_ c) = ((p.effect x cs g).1.at_ c, (p.effect x cs g).2.1.onPage pg, (p.effect x cs g).2.2) := by
  have hkind : (p.onPage pg).kind = p.kind := rfl
  unfold Pass.effect
  rw [hkind]
  cases p.kind <;> rfl

theorem marked_onPage (g : Seg) (p : Pass) (x n : Nat) (pg : Option (Nat × Nat)) (c : Nat) : (g.at_ c).marked (p.onPage pg) x n = (g.marked p x n).at_ c := by
  have hzero : ∀ h : Seg, (h.at_ c).countZero (p.onPage pg) x = (h.countZero p x).at_ c := fun h => by
    unfold Seg.countZero
    show (if !(h.pzValid && decide (h.pzPass = some p.key)) then _ else _) = Seg.at_ (if !(h.pzValid && decide (h.pzPass = some p.key)) then _ else _) c
    split <;> rfl
  have hkind : (p.onPage pg).kind = p.kind := rfl
  have hkey : (p.onPage pg).key = p.key := rfl
  unfold Seg.marked
  rw [hkind, hkey]
  generalize (!p.kind.needsValue && n == 128) = w
  generalize p.key.sup = sup
  cases sup
  · by_cases hn : n ≠ 0
    · simp only [if_pos hn]
      cases w <;> rfl
    · simp only [if_neg hn]
      cases w <;> rfl
  · cases w
    · exact hzero g
    · exact hzero { g with bad := g.bad.filter (fun y => y != x) }

end Sys2Proof.Machine
end

section
/-! PROOFS. O43: what the visit of a segment comes to, the visit tick, and the statement (R198, R205, R207). -/

namespace Sys2Proof.Machine
open Sys2Proof.Says

/-! ### What the act of a pass comes to -/

/-- The pass after the capture of a stitch, for a reader other than a `PMAT` (R207, R231 to R234). -/
def Pass.captured (p : Pass) (x : Nat) (bs : List Byte) : Pass :=
  if p.kind.isScan || decide (p.kind = .filt) then { p with got := captureElems bs (p.cuts x) p.got } else { p with out := captureBytes bs (p.cuts x) p.out }

theorem captured_onPage (p : Pass) (x : Nat) (bs : List Byte) (pg : Option (Nat × Nat)) : (p.onPage pg).captured x bs = (p.captured x bs).onPage pg := by
  have hkind : (p.onPage pg).kind = p.kind := rfl
  unfold Pass.captured
  rw [hkind]
  split <;> rfl

theorem captured_keeps (p : Pass) (x : Nat) (bs : List Byte) : (p.captured x bs).visits = p.visits ∧ (p.captured x bs).seg = p.seg := by
  unfold Pass.captured
  split <;> exact ⟨rfl, rfl⟩

theorem effect_keeps (p : Pass) (x : Nat) (cs : List Cut) (g : Seg) :
    (p.effect x cs g).2.1.visits = p.visits ∧ (p.effect x cs g).2.1.seg = p.seg := by
  unfold Pass.effect
  cases p.kind <;> exact ⟨rfl, rfl⟩

theorem capture_good {s : State} {seg x k n : Nat} (hcs : (s.passAt k n).cuts x ≠ []) (hbad : (s.segAt seg).bad.contains x = false)
    (hm : (s.passAt k n).kind.isMat = false) (bs : List Byte) : s.capture seg x bs (k, n) = s.setPassAt k n ((s.passAt k n).captured x bs) := by
  have hempty : ¬((s.passAt k n).cuts x).isEmpty = true := by rwa [List.isEmpty_iff]
  unfold State.capture Pass.captured
  dsimp only
  rw [if_neg hempty, if_neg (by rw [hbad]; exact Bool.false_ne_true), if_neg (by rw [hm]; exact Bool.false_ne_true)]
  split <;> rfl

theorem segAt_setPassAt (s : State) (k n : Nat) (p : Pass) (j : Nat) : (s.setPassAt k n p).segAt j = s.segAt j := rfl

/-- What the visit of a segment comes to: its pass, the segment, and no pass more that rides another one. -/
def State.visitsTo (u t : State) (seg k n : Nat) (g : Seg) (z : Pass) : Prop :=
  t.passAt k n = z ∧ t.segAt seg = g ∧ t.dies = u.dies ∧ ∀ y, y ≠ seg → (t.riders y).Sublist (u.riders y)

theorem visitsTo_setPassAt {u t : State} {seg k n : Nat} {g : Seg} {z : Pass} (h : u.visitsTo t seg k n g z) {q : Pass} (hq : q.seg = seg) :
    u.visitsTo (t.setPassAt k n q) seg k n g q := by
  obtain ⟨-, hg, hd, hr⟩ := h
  refine ⟨passAt_setPassAt _ _ _ _, hg, hd, fun y hy => (riders_setPassAt t k n ?_).trans (hr y hy)⟩
  rintro ⟨-, -, hseg, -⟩
  exact hy (hseg.symm.trans hq)

theorem visitsTo_setSegAt {u t : State} {seg k n : Nat} {g : Seg} {z : Pass} (h : u.visitsTo t seg k n g z) (g' : Seg) :
    u.visitsTo (t.setSegAt seg g') seg k n g' z := by
  obtain ⟨hz, -, hd, hr⟩ := h
  exact ⟨hz, State.segAt_setSegAt_same _ _ _, hd, hr⟩

section
variable {u : State} {seg x k n : Nat} {p : Pass} (pg : Option (Nat × Nat)) (hp : u.passAt k n = p) (hseg : p.seg = seg)
  (hx : x = ((u.segAt seg).cursor + 1) % (u.segAt seg).period)
  (hcs : p.cuts x ≠ []) (hbad : (u.segAt seg).bad.contains x = false)

/-- The pass of a segment comes to its visit, on its page, and the cursor to the stitch. -/
def State.comes (u : State) (seg k n : Nat) (p : Pass) (pg : Option (Nat × Nat)) : State := (u.moveOn seg).setPassAt k n (p.onPage pg)

include hp hseg hx in
theorem visitsTo_comes : u.visitsTo (u.comes seg k n p pg) seg k n ((u.segAt seg).at_ x) (p.onPage pg) := by
  have hrefl : u.visitsTo u seg k n (u.segAt seg) p := ⟨hp, rfl, rfl, fun _ _ => List.Sublist.refl _⟩
  have hmoved : u.visitsTo (u.moveOn seg) seg k n ((u.segAt seg).at_ x) p := by
    rw [hx]
    exact visitsTo_setSegAt hrefl _
  exact visitsTo_setPassAt hmoved hseg

include hp hseg hx hcs hbad in
/-- A reader's act: the segment is as it was, and the pass has captured the stitch. -/
theorem visitsTo_read (hk : p.kind.isReader = true) (hm : p.kind.isMat = false) :
    u.visitsTo ((u.comes seg k n p pg).visitAct seg x k n p) seg k n ((u.segAt seg).at_ x) ((p.captured x ((u.segAt seg).stitch x)).onPage pg) := by
  have hcomes := visitsTo_comes pg hp hseg hx
  obtain ⟨hpass, hg, -, -⟩ := visitsTo_comes pg hp hseg hx
  have hstitch : ((u.comes seg k n p pg).segAt seg).stitch x = (u.segAt seg).stitch x := by rw [hg]; rfl
  have hact : (u.comes seg k n p pg).visitAct seg x k n p =
      (u.comes seg k n p pg).setPassAt k n ((p.captured x ((u.segAt seg).stitch x)).onPage pg) := by
    rw [State.visitAct, hk, if_pos rfl, hstitch, capture_good (by rw [hpass]; exact hcs) (by rw [hg]; exact hbad) (by rw [hpass]; exact hm), hpass,
      captured_onPage]
  rw [hact]
  exact visitsTo_setPassAt hcomes ((captured_keeps p x _).2.trans hseg)

include hp hseg hx hcs hbad in
/-- A writer's act: the segment is as the pass leaves it, and the pass as its effect gives it. -/
theorem visitsTo_write (hk : p.kind.isReader = false) (hh : p.kind ≠ .hostIn) :
    let r := p.effect x (p.cuts x) (u.segAt seg)
    u.visitsTo ((u.comes seg k n p pg).visitAct seg x k n p) seg k n ((r.1.marked p x r.2.2).at_ x) (r.2.1.onPage pg) := by
  have hcomes := visitsTo_comes pg hp hseg hx
  obtain ⟨hpass, hg, -, -⟩ := visitsTo_comes pg hp hseg hx
  have hact : (u.comes seg k n p pg).visitAct seg x k n p = (u.comes seg k n p pg).applyPass seg x (k, n) := by
    rw [State.visitAct, hk, if_neg Bool.false_ne_true]
  have happly := applyPass_good (s := u.comes seg k n p pg) (seg := seg) (x := x) (k := k) (n := n) (by rw [hpass]; exact hcs) (by rw [hg]; exact hbad)
  have hcuts : (p.onPage pg).cuts x = p.cuts x := rfl
  dsimp only at happly ⊢
  rw [hpass, hg, visitor_eq (p := p.onPage pg) hh, hcuts, effect_onPage, marked_onPage] at happly
  rw [hact, happly]
  exact visitsTo_setPassAt (visitsTo_setSegAt hcomes _) ((effect_keeps p x _ _).2.trans hseg)

end

/-! ### The visit tick of a pass that rides alone -/

theorem visitsTo_advance {u t : State} {seg k n : Nat} {g : Seg} {z : Pass} (h : u.visitsTo t seg k n g z) (hz : z.seg = seg) (m : Nat) :
    u.visitsTo (t.setPassAt k n ((t.passAt k n).advance m)) seg k n g (z.advance m) := by
  obtain ⟨hpass, -⟩ := id h
  rw [hpass]
  exact visitsTo_setPassAt h hz

theorem keyDie_segKeys {d y : Nat} (h : y ∈ segKeys d) : keyDie y = d := by
  obtain ⟨i, hi, rfl⟩ := List.mem_map.mp h
  have hlt : i < 24 := List.mem_range.mp hi
  rw [keyDie]
  omega

theorem regionTick_none {s : State} {d : Nat} (h : (s.dieAt d).region = []) :
    (s.regionTick d).cores = s.cores ∧ (s.regionTick d).segs = s.segs := by
  rw [State.regionTick, h]
  exact ⟨rfl, rfl⟩

/-- A die without a save region in which one pass rides a segment, and no other segment is ridden. -/
def State.rideAlone (u : State) (d seg k n : Nat) (p : Pass) (g : Seg) : Prop :=
  (u.dieAt d).region = [] ∧ u.passAt k n = p ∧ u.segAt seg = g ∧ ∀ y ∈ segKeys d, u.riders y = if y = seg then [((k, n), p)] else []

theorem ridesAt_of_alone {u : State} {d seg k n : Nat} {p : Pass} {g : Seg} (h : u.rideAlone d seg k n p g) (hseg : seg ∈ segKeys d) : p.ridesAt seg := by
  obtain ⟨-, -, -, hr⟩ := h
  refine rides_of_mem (s := u) (e := ((k, n), p)) ?_
  rw [hr seg hseg, if_pos rfl]
  exact List.mem_singleton.mpr rfl

/-- The pass still rides alone when the visits of a tick begin. -/
theorem rideAlone_beginVisits {s : State} {d seg k n : Nat} {p : Pass} {g : Seg} (h : s.rideAlone d seg k n p g) (hseg : seg ∈ segKeys d)
    (hidle : ∀ e ∈ s.cores, e.2.parts = false ∧ e.2.tmma = []) (hboot : s.mod.boot = none) : (s.beginVisits d).rideAlone d seg k n p g := by
  have hrides := ridesAt_of_alone h hseg
  obtain ⟨hregion, hp, hg, hr⟩ := h
  obtain ⟨-, hclose, -, -⟩ := id hrides
  obtain ⟨hsegs, hregion₀, hriders₀, hpass₀⟩ := beginVisits_spec hidle hboot hregion
  set u := s.beginVisits d
  have hp₀ : u.passAt k n = p := (hpass₀ k n (by rw [hp]; exact hclose)).trans hp
  refine ⟨hregion₀, hp₀, by rw [State.segAt, hsegs]; exact hg, fun y hy => ?_⟩
  have hsub := hriders₀ y
  rw [hr y hy] at hsub
  by_cases hys : y = seg
  · rw [if_pos hys] at hsub ⊢
    subst hys
    have hmem := mem_riders (s := u) (seg := y) (k := k) (n := n) (by rw [hp₀]; exact hrides)
    exact hsub.eq_of_length (le_antisymm hsub.length_le (List.length_pos_of_mem hmem))
  · rw [if_neg hys] at hsub ⊢
    exact List.sublist_nil.mp hsub

/-- The segments of a die before a segment and after it. -/
theorem split_segKeys {d seg : Nat} (h : seg ∈ segKeys d) :
    ∃ l₁ l₂, segKeys d = l₁ ++ seg :: l₂ ∧ ¬seg ∈ l₁ ∧ ¬seg ∈ l₂ ∧ ∀ y, y ∈ l₁ ∨ y ∈ l₂ → y ∈ segKeys d ∧ y ≠ seg := by
  obtain ⟨l₁, l₂, hl⟩ := List.append_of_mem h
  have hnodup := nodup_segKeys d
  rw [hl] at hnodup
  obtain ⟨-, hn₂, hdisj⟩ := List.nodup_append.mp hnodup
  have hout₁ : ¬seg ∈ l₁ := fun h => hdisj seg h seg List.mem_cons_self rfl
  have hout₂ : ¬seg ∈ l₂ := (List.nodup_cons.mp hn₂).1
  refine ⟨l₁, l₂, hl, hout₁, hout₂, fun y hy => ⟨?_, fun he => ?_⟩⟩
  · rw [hl, List.mem_append, List.mem_cons]
    exact hy.imp_right Or.inr
  · subst he
    exact hy.elim hout₁ hout₂

/-- A visit tick in which one pass rides a segment alone comes to what the visit of that segment comes to. -/
theorem visitTick_alone {s : State} {d seg k n : Nat} {p : Pass} {g : Seg} (halone : (s.beginVisits d).rideAlone d seg k n p g)
    (hseg : seg ∈ segKeys d) {g' : Seg} {z : Pass}
    (hvisit : ∀ u : State, u.passAt k n = p → u.segAt seg = g → u.riders seg = [((k, n), p)] → (u.dieAt (keyDie seg)).region = [] →
      u.visitsTo (u.visitSegment seg) seg k n g' z) :
    (s.visitTick d).segAt seg = g' ∧ (s.visitTick d).passAt k n = z := by
  obtain ⟨l₁, l₂, hl, hout₁, hout₂, hin⟩ := split_segKeys hseg
  obtain ⟨hregion, hp, hg, hr⟩ := halone
  set u := s.beginVisits d with hu
  have hnone : ∀ y, y ∈ l₁ ∨ y ∈ l₂ → keyDie y = d ∧ u.riders y = [] := fun y hy => by
    obtain ⟨hmem, hne⟩ := hin y hy
    exact ⟨keyDie_segKeys hmem, (hr y hmem).trans (if_neg hne)⟩
  obtain ⟨hc₁, hs₁, hregion₁⟩ := visitSegments_unridden l₁ u (fun y hy => hnone y (.inl hy)) hout₁ hregion
  set u₁ := l₁.foldl State.visitSegment u
  obtain ⟨hz, hg', hdies, hothers⟩ := hvisit u₁ ((passAt_congr hc₁ k n).trans hp) (hs₁.trans hg)
    ((riders_congr hc₁ seg).trans ((hr seg hseg).trans (if_pos rfl))) (by rw [keyDie_segKeys hseg]; exact hregion₁)
  set u₂ := u₁.visitSegment seg
  have hregion₂ : (u₂.dieAt d).region = [] := by rw [State.dieAt, hdies]; exact hregion₁
  have hnone₂ : ∀ y ∈ l₂, keyDie y = d ∧ u₂.riders y = [] := fun y hy => by
    have hsub := hothers y (hin y (.inr hy)).2
    rw [riders_congr hc₁, (hnone y (.inr hy)).2] at hsub
    exact ⟨(hnone y (.inr hy)).1, List.sublist_nil.mp hsub⟩
  obtain ⟨hc₃, hs₃, hregion₃⟩ := visitSegments_unridden l₂ u₂ hnone₂ hout₂ hregion₂
  have hfold : (segKeys d).foldl State.visitSegment u = l₂.foldl State.visitSegment u₂ := by rw [hl, List.foldl_append, List.foldl_cons]
  obtain ⟨hc₄, hs₄⟩ := regionTick_none hregion₃
  rw [State.visitTick, ← hu, hfold]
  refine ⟨?_, (passAt_congr hc₄ k n).trans ((passAt_congr hc₃ k n).trans hz)⟩
  rw [State.segAt_onDieAt, State.segAt, hs₄]
  exact hs₃.trans hg'

section
variable {u : State} {seg x k n : Nat} {p : Pass} (hregion : (u.dieAt (keyDie seg)).region = []) (hr : u.riders seg = [((k, n), p)])
  (hremap : (u.segAt seg).remap = none) (hx : x = ((u.segAt seg).cursor + 1) % (u.segAt seg).period) (hlead : p.lead = 0)
  (hnext : (p.openPt + p.visits) % (u.segAt seg).period = x) (hpage : ∀ va ∈ p.hitVas x, p.pagedAt va = false)
  (hbad : (u.segAt seg).bad.contains x = false)
include hregion hr hremap hx hlead hnext hpage hbad

/-- The visit of a segment that one pass rides, whose stitch comes: the pass acts, and has made its visit. -/
theorem visitSegment_one :
    let t := (u.comes seg k n p (p.leavesPage x).page).visitAct seg x k n p
    u.visitSegment seg = t.setPassAt k n ((t.passAt k n).advance (u.segAt seg).period) := by
  have hmoved : (u.moveOn seg).segAt seg = (u.segAt seg).at_ x := by
    rw [hx]
    exact State.segAt_setSegAt_same _ _ _
  have hperiod : (u.moveOn seg).period seg = (u.segAt seg).period := by rw [State.period, hmoved]; rfl
  rw [visitSegment_moves hremap, ← hx,
    visitStitch_one (s := u.moveOn seg) (p := p) hregion hr hlead (by rw [hperiod]; exact hnext) hpage (by rw [hmoved]; exact hbad), hperiod]
  rfl

end

section
variable {u : State} {seg x k n : Nat} {p : Pass} {g : Seg} (hseg : p.seg = seg) (hremap : g.remap = none) (hx : x = (g.cursor + 1) % g.period)
  (hlead : p.lead = 0) (hnext : (p.openPt + p.visits) % g.period = x) (hpage : ∀ va ∈ p.hitVas x, p.pagedAt va = false)
  (hcs : p.cuts x ≠ []) (hbad : g.bad.contains x = false)
  (hp : u.passAt k n = p) (hg : u.segAt seg = g) (hr : u.riders seg = [((k, n), p)]) (hregion : (u.dieAt (keyDie seg)).region = [])
include hseg hremap hx hlead hnext hpage hcs hbad hp hg hr hregion

theorem visitSegment_reads (hk : p.kind.isReader = true) (hm : p.kind.isMat = false) :
    u.visitsTo (u.visitSegment seg) seg k n (g.at_ x) (((p.captured x (g.stitch x)).onPage (p.leavesPage x).page).advance g.period) := by
  subst hg
  rw [visitSegment_one hregion hr hremap hx hlead hnext hpage hbad]
  exact visitsTo_advance (visitsTo_read (p.leavesPage x).page hp hseg hx hcs hbad hk hm) ((captured_keeps p x _).2.trans hseg) _

theorem visitSegment_writes (hk : p.kind.isReader = false) (hh : p.kind ≠ .hostIn) :
    let r := p.effect x (p.cuts x) g
    u.visitsTo (u.visitSegment seg) seg k n ((r.1.marked p x r.2.2).at_ x) ((r.2.1.onPage (p.leavesPage x).page).advance g.period) := by
  subst hg
  rw [visitSegment_one hregion hr hremap hx hlead hnext hpage hbad]
  exact visitsTo_advance (visitsTo_write (p.leavesPage x).page hp hseg hx hcs hbad hk hh) ((effect_keeps p x _ _).2.trans hseg) _

end

/-- A pass that has made a visit, over the pass that its act gave. -/
theorem eq_of_advance {z q : Pass} {pg : Option (Nat × Nat)} {m v : Nat} (hq : q = (z.onPage pg).advance m) (hv : z.visits = v) :
    q = { z with visits := v + 1, closeIn := if v + 1 = m then 4 else 0, page := q.page } := by
  subst hq hv
  rfl

section
variable {s : State} {seg x k n : Nat} (hcs : (s.passAt k n).cuts x ≠ []) (hbad : (s.segAt seg).bad.contains x = false)
include hcs hbad

/-- A `PUPD` of one word stores the new word, and the old one outside where it returns it (R236). -/
theorem stores_upd {e : PassKind × (W32 → W32 → W32)} (he : e ∈ updates) (hk : (s.passAt k n).kind = e.1) {c : Cut} (hone : (s.passAt k n).cuts x = [c])
    (hn : c.n = 4) :
    let p := s.passAt k n
    let t := s.applyPass seg x (k, n)
    let o := memW (s.segAt seg).data (128 * x + c.pos)
    (t.segAt seg).data = Memory.store (s.segAt seg).data (128 * x + c.pos) (e.2 o (memW p.src (c.place + c.lo))).toNat 4 ∧
      (p.ret = true → (t.passAt k n).out = Memory.store p.out (p.se + (c.place + c.lo - p.sd)) o.toNat 4) := by
  have hhost : (s.passAt k n).kind ≠ .hostIn := by
    have hne : ∀ e ∈ updates, e.1 ≠ .hostIn := by decide
    rw [hk]
    exact hne e he
  dsimp only
  rw [data_applyPass hcs hbad hhost, passAt_applyPass hcs hbad hhost, hone, effect_upd he hk, applyUpd_word _ _ hn, hk, updWord_updates he, Nat.mul_comm 128 x]
  exact ⟨rfl, fun h => if_pos h⟩

theorem dirty_written (hk : (s.passAt k n).kind = .put ∨ (s.passAt k n).kind = .zero) (hsup : (s.passAt k n).key.sup = false) (hx : x < 2 ^ 23) :
    ((s.applyPass seg x (k, n)).segAt seg).dirty.getLsbD (x / 16384) = true := by
  have hhost : (s.passAt k n).kind ≠ .hostIn := by rcases hk with hk | hk <;> rw [hk] <;> decide
  have hphys : (s.passAt k n).kind ≠ .zeroPhys := by rcases hk with hk | hk <;> rw [hk] <;> decide
  rw [segAt_applyPass hcs hbad hhost]
  refine dirty_marked _ hsup ?_ hx
  rw [bytes_effect_written hk]
  exact bytesIn_ne_zero hphys hcs

end

/-- Settles O43: a visit acts on the last part that holds a byte (`byte_capture_copy`, `byte_put`, `byte_zero`) or on one word (`applyUpd_word`);
and a visit tick of a pass that rides alone (`visitTick_alone`) is its one visit (`visitSegment_one`), which comes to that act (`visitsTo_read`,
`visitsTo_write`). -/
theorem passVisits : Obligations.PassVisits := by
  intro s seg x k n p g cs t new old part hcs hbad
  refine ⟨fun hk y => ?_, fun hk y => ?_, fun hk y => ?_, fun e he c hk hone hn => ?_, fun hk hsup hx => ?_, fun j hj => ?_, ?_⟩
  · rw [byte_capture_copy hcs hbad hk]
    show (capturedAt (g.stitch x) cs y).elim _ _ = (match capturedAt (g.stitch x) cs y with | some c => _ | none => _)
    cases capturedAt (g.stitch x) cs y <;> rfl
  · refine (byte_put hcs hbad hk y).trans ?_
    show (partAt cs x y).elim _ _ = (match partAt cs x y with | some c => _ | none => _)
    cases partAt cs x y <;> rfl
  · exact byte_zero hcs hbad hk y
  · obtain ⟨hdata, hout⟩ := stores_upd hcs hbad he hk hone hn
    refine ⟨?_, fun y hy => ?_, fun hret => ?_⟩
    · rw [hdata, memW_store]
    · show Memory.byte (t.segAt seg).data y = _
      rw [hdata]
      exact Memory.byte_store_other 4 _ _ _ _ hy
    · rw [hout hret, memW_store]
  · exact dirty_written hcs hbad hk hsup hx
  · exact segAt_applyPass_other hcs hbad hj
  · intro die hmem hn hboot hregion hidle hremap hx hr hst hclose hlead hnext hpage
    have hnow : s.rideAlone die.toNat seg k n p g := ⟨hregion, rfl, rfl, hr⟩
    obtain ⟨-, -, hseg, -⟩ := ridesAt_of_alone hnow hmem
    have halone := rideAlone_beginVisits hnow hmem hidle hboot
    refine ⟨s.visitTick die.toNat, exec_sweepVisit hn, fun hk hw ha => ?_, fun hk hh => ?_⟩
    · have hm : p.kind.isMat = false := by
        rw [Bool.eq_false_iff, ne_eq, isMat_iff]
        exact not_or.mpr ⟨hw, ha⟩
      obtain ⟨hgt, hqt⟩ := visitTick_alone halone hmem (fun _ hpu hgu hru hregu =>
        visitSegment_reads hseg hremap hx hlead hnext hpage hcs hbad hpu hgu hru hregu hk hm)
      have hpass : (s.capture seg x (g.stitch x) (k, n)).passAt k n = p.captured x (g.stitch x) := by
        rw [capture_good hcs hbad hm, passAt_setPassAt]
      refine ⟨hgt, ?_⟩
      rw [hpass]
      exact eq_of_advance hqt (captured_keeps p x _).1
    · obtain ⟨hgt, hqt⟩ := visitTick_alone halone hmem (fun _ hpu hgu hru hregu =>
        visitSegment_writes hseg hremap hx hlead hnext hpage hcs hbad hpu hgu hru hregu hk hh)
      have hpass : t.passAt k n = (p.effect x cs g).2.1 := passAt_applyPass hcs hbad hh
      have hsegt : t.segAt seg = (p.effect x cs g).1.marked p x (p.effect x cs g).2.2 := segAt_applyPass hcs hbad hh
      rw [hpass, hsegt]
      exact ⟨hgt, eq_of_advance hqt (effect_keeps p x cs g).1⟩

end Sys2Proof.Machine
end
